-- ==== Sys2Proof/Word.lean ====
section
/-! DEFINITION. The words of the complex: a register or data word of 64 bits (R9), a line of
64 bytes (R13), and the shapes in which commands carry data. -/

namespace Sys2Proof

/-- A register or data word, 64 bits, little-endian (R7, R9). -/
abbrev Word := BitVec 64

/-- A byte. -/
abbrev Byte := BitVec 8

/-- A line: 64 bytes, 8 words; byte 0 is bits 7 to 0 (R7). -/
abbrev Line := BitVec 512

/-- Byte enables of one line. -/
abbrev ByteEn := BitVec 64

/-- One flag for each word of a line (word enables, poison marks). -/
abbrev WordEn := BitVec 8

end Sys2Proof
end

