-- ==== Sys2Proof/Config.lean ====
section
/-! DEFINITION. What the spec leaves open. Every constant here is opaque: it has no body that a proof
could use, so a theorem about the model holds whatever its value is. -/

namespace Sys2Proof

/-- FREE VALUE. The content of byte `key` of the cell arrays of a slice that has left Off for the
`epoch`-th time: "its cells hold no defined value" (R413). -/
opaque Config.freeCell (epoch key : Nat) : Byte

/-- FREE VALUE. A 64-bit value that the spec does not state, drawn for the `n`-th time. -/
opaque Config.freeWord (n : Nat) : Word

/-- FREE VALUE. The sign of a NaN result that no operand that is NaN has made (R231): `kind` 0 a sum of infinities, 1 a product of
infinity and zero, 2 an infinity in a format that has none, 3 an element, and 4 a group, whose block scale is 0xFF; `x` and `y`
are what is known of the operands. -/
opaque Config.nanSign (kind x y : Nat) : Bool

/-- IMPLEMENTATION. The repair-map register of logical bank `b`, given the spare rows, spare groups and
spare banks in force: the bit layout is Irvewald's (R355), so only its being a function of the repair
state is used. -/
opaque Config.repairRegister (rows groups banks : List Nat) (b : Nat) : Word

/-- IMPLEMENTATION. The factory golden signature of the REPAIR instance of slice `s`, held in the fuse
array (R355). -/
opaque Config.fuseGolden (s : Nat) : BitVec 32

/-- CRYPTOGRAPHY. The SHA-384 of the 97-byte public key equals the key hash in the fuse array (R393). -/
opaque Config.keyHashMatches (key : List Byte) : Bool

/-- CRYPTOGRAPHY. The ECDSA P-384 signature `sig` verifies over `msg` under `key` (R393, R401). -/
opaque Config.signatureVerifies (key msg sig : List Byte) : Bool

/-- The public key whose hash is fused, used by LC_CHANGE (R401). -/
opaque Config.fuseKey : List Byte

/-- The ROM's version word, returned by INFO (R386). -/
opaque Config.romVersion : Word

/-- IMPLEMENTATION. The process monitor's ring-oscillator count at the `n`-th reading (R390). -/
opaque Config.ringCount (n : Nat) : BitVec 16

/-- FREE VALUE. Byte `i` of part 5 of a dump (the core's registers, trap CSRs and stack), which no rule
lays out, at the `n`-th dump (R388). -/
opaque Config.dumpByte (n i : Nat) : Byte

/-- IMPLEMENTATION. The value that Belfry's firmware gives register `i` of its own configuration region
from ROM defaults and the settings record of sequence number `seq` (R383, R292). -/
opaque Config.belfryRegister (seq i : Nat) : Word

end Sys2Proof
end

