-- ==== Sys2Proof/Syntax.lean ====
section
/-! DEFINITION. The commands of the complex: one constructor for each row of the table of operations and
events, with the operands that the world, or the part's own sequencing, supplies with it. Slices are
logical slices (R113), ports and stream slots are numbers within a slice, contexts and classes are
numbers. `ctx` on a register write is the writer's context, 0 for Belfry and 63 for the host (R116). -/

namespace Sys2Proof

/-- A request as a client port accepts it (R95): `sl`, `port` name the port, `tsl` is CP_REQ_SLICE. -/
structure PortReq where
  sl : Nat
  port : Nat
  tsl : Nat
  bset : Nat
  rows : List Nat
  lvalid : BitVec 8
  wen : BitVec 64
  ctx : Nat
  cls : Nat
  tag : Nat
  deriving DecidableEq, Repr

/-- The data side of a WRITE: one line of data and one of byte enables for each of the eight lines of the
image, and CP_REQ_PSN (R95, R96). -/
structure PortData where
  lines : List (Line × ByteEn)
  psn : BitVec 8
  deriving DecidableEq, Repr

/-- A clave operation of a client port (R98). -/
structure ClaveReq where
  sl : Nat
  port : Nat
  tsl : Nat
  pair : Nat
  room : Bool
  n : Nat
  ctx : Nat
  cls : Nat
  tag : Nat
  deriving DecidableEq, Repr

/-- Where a waiting request is issued (R79, R412, R140, R123): the lane on a bank set of the slice, the
vector buffer, the slice's router, or the initiator side of the system port. `follow` says which half of
the stream engine presents; the strike path offers the write packets of a cross-slice COPY. -/
inductive IssuePoint where
  | lane (bset : Nat)
  | vectorRead (slot : Nat)
  | vectorWrite (slot : Nat)
  | routerPort (port : Nat)
  | routerLead (slot : Nat)
  | routerFollow (slot : Nat)
  | hostRead (slot : Nat)
  | hostWrite (slot : Nat)
  deriving DecidableEq, Repr

/-- The reset and ready inputs that restart the sequence when they fall (R335). -/
inductive ResetPin where
  | por
  | warm
  | pgood
  deriving DecidableEq, Repr

/-- Whose drain ends by timeout (R344, R129, R347). -/
inductive DrainOf where
  | handover (sl : Nat)
  | unit
  | kill (c : Nat)
  deriving DecidableEq, Repr

/-- What an entry into, or a wake from, a power state concerns (R309). -/
inductive PowerTarget where
  | slice (sl : Nat)
  | complex
  deriving DecidableEq, Repr

/-- A Mladdin packet (R364), with its data lines. -/
structure Packet where
  type : Nat
  ver : Nat
  src : Nat
  dst : Nat
  win : Nat
  tag : Nat
  jobid : Nat
  offset : Nat
  len : Nat
  toll : Bool
  count : Nat
  rid : Nat
  code : Nat
  ben : ByteEn
  psn : BitVec 64
  lines : List Line
  deriving DecidableEq, Repr

/-- A fault that BIST finds in a slice (R339): a failing row, a failing column group (bit position) of a
macro, or a failing bank. -/
inductive BistFault where
  | row (sl bank mac row : Nat)
  | column (sl bank mac bit : Nat)
  | bank (sl bank : Nat)
  deriving DecidableEq, Repr

/-- The commands of the complex, one constructor for each row of the table of operations and events. -/
inductive Instr where
  -- bring-up inputs, clock and beat
  | porRelease
  | resetInputLow (pin : ResetPin)
  | clkOkFall
  | beatStrobe (n : BitVec 48)
  | beatVisible
  | clkMeasureWindow (mhz : Nat)
  | mChange
  | barBoundary
  -- the Rhythm
  | rhyTableWrite (sl : Nat) (tabB : Bool) (phase : Nat) (v : Word) (ctx : Nat)
  | rhyCtrlWrite (sl : Nat) (v : Word) (ctx : Nat)
  | tableSwitch (sl : Nat)
  | beatArmedSwitch (sl : Nat)
  | rhyPfenceWrite (sl : Nat) (v : Word) (ctx : Nat)
  -- client ports
  | cpRead (r : PortReq)
  | cpWrite (r : PortReq) (d : PortData)
  | cpClvRead (r : ClaveReq)
  | cpClvSignal (r : ClaveReq)
  | cpClvTake (r : ClaveReq)
  | cpReservedOp (r : PortReq) (op : Nat)
  | requestIssue (sl : Nat) (point : IssuePoint)
  | mergeDrainAge (sl : Nat) (bank : Nat)
  | cpResponse (sl : Nat) (port : Nat)
  | cpRemoteResponse (sl : Nat) (port : Nat)
  | cpFenceInRaise (sl : Nat) (port : Nat)
  | cpFenceInLower (sl : Nat) (port : Nat)
  | portRcRun (sl : Nat) (v : Word) (ctx : Nat)
  | idFrame (sl : Nat) (port : Nat) (id : BitVec 128) (check : BitVec 16)
  | idAbsent (sl : Nat) (port : Nat)
  | idRetry (sl : Nat) (port : Nat)
  -- maintenance and retirement
  | maintenanceClk (sl : Nat) (bset : Nat) (t3fail : List (Nat × Nat))
  | historyExpire (sl : Nat) (bank : Nat)
  | rowRetire (sl : Nat) (bank : Nat)
  | eccRetireRun (sl : Nat) (v : Word) (ctx : Nat)
  -- handles, contexts, ownership
  | htabStageWrite (h : Nat) (word : Nat) (v : Word) (ctx : Nat)
  | htabCommit (h : Nat) (v : Word) (ctx : Nat)
  | handleTakesEffect (h : Nat)
  | ctxE0Write (c : Nat) (v : Word) (ctx : Nat)
  | ctxKnextWrite (c : Nat) (v : Word) (ctx : Nat)
  | ownXferGo (sl : Nat) (v : Word) (ctx : Nat)
  | handoverDrainEnd (sl : Nat)
  | handoverComplete (sl : Nat)
  | drainTimeout (of : DrainOf)
  -- system port
  | spTargetRead (addr : Nat) (len : Nat) (tag : Nat)
  | spTargetWrite (addr : Nat) (beats : List (Line × ByteEn)) (tag : Nat)
  | spTargetBadOp (op : Nat) (tag : Nat)
  | spTargetResponse (tag : Nat)
  | spInitResponse (tag : Nat) (code : Nat) (data : List Line)
  | syswinWrite (i : Nat) (reg : Nat) (v : Word) (ctx : Nat)
  -- mesh, peal writes, Carillon, regulation
  | remoteRequestArrive (k : Nat)
  | remoteResponseArrive (k : Nat)
  | burstRelease (sl : Nat) (out : Nat)
  | shareWindowStart
  | qosShareWrite (c : Nat) (v : Word) (ctx : Nat)
  | csrPealWrite (off : Nat) (v : Word) (ctx : Nat)
  | memPealWrite (off : Nat) (data : Line) (ben : ByteEn) (ctx : Nat)
  | pealDeliver (id : Nat) (sl : Nat)
  | pealComplete (id : Nat)
  | mcastStrokeSend (g : Nat)
  | mcastLand (g : Nat) (r : Nat)
  | mcastAckMerge (g : Nat) (n : Nat)
  | mcastResend (g : Nat)
  | mcastShed (g : Nat) (r : Nat)
  -- stream slots
  | seArm (sl : Nat) (slot : Nat) (v : Word) (ctx : Nat)
  | seResume (sl : Nat) (slot : Nat) (v : Word) (ctx : Nat)
  | seStop (sl : Nat) (slot : Nat) (v : Word) (ctx : Nat)
  | stopComplete (sl : Nat) (slot : Nat)
  | slotStart (sl : Nat) (slot : Nat)
  | slotPaused (sl : Nat) (slot : Nat)
  | instrFetchArrive (sl : Nat) (slot : Nat)
  | descBurstArrive (sl : Nat) (slot : Nat)
  -- Rudiment
  | nop (sl : Nat) (slot : Nat)
  | halt (sl : Nat) (slot : Nat)
  | mark (sl : Nat) (slot : Nat)
  | loop (sl : Nat) (slot : Nat)
  | endl (sl : Nat) (slot : Nat)
  | jump (sl : Nat) (slot : Nat)
  | knext (sl : Nat) (slot : Nat)
  | seth (sl : Nat) (slot : Nat)
  | sets (sl : Nat) (slot : Nat)
  | wait (sl : Nat) (slot : Nat)
  | waitSatisfied (sl : Nat) (slot : Nat)
  | signal (sl : Nat) (slot : Nat)
  | waitbeat (sl : Nat) (slot : Nat)
  | deadline (sl : Nat) (slot : Nat)
  | rearm (sl : Nat) (slot : Nat)
  | rearmExecute (sl : Nat) (slot : Nat)
  | move (sl : Nat) (slot : Nat)
  | mcast (sl : Nat) (slot : Nat)
  | remote (sl : Nat) (slot : Nat)
  | toll (sl : Nat) (slot : Nat)
  | fill (sl : Nat) (slot : Nat)
  | copy (sl : Nat) (slot : Nat)
  | accin (sl : Nat) (slot : Nat)
  | convert (sl : Nat) (slot : Nat)
  | gemv (sl : Nat) (slot : Nat)
  | reduce (sl : Nat) (slot : Nat)
  | wipe (sl : Nat) (slot : Nat)
  | scrub (sl : Nat) (slot : Nat)
  | illegalOp (sl : Nat) (slot : Nat)
  | instructionRetire (sl : Nat) (slot : Nat)
  | seAccessResponse (sl : Nat) (slot : Nat) (k : Nat)
  | fencedReissue (sl : Nat) (slot : Nat)
  | guardHeldRetry (sl : Nat) (slot : Nat)
  -- strike
  | strikeStep (sl : Nat) (bset : Nat)
  | accumTake (sl : Nat) (slot : Nat)
  | reductionTree (sl : Nat) (slot : Nat)
  | strkSeedWrite (sl : Nat) (bank : Nat) (v : Word) (ctx : Nat)
  -- clave pairs by CSR
  | semPairWrite (sl : Nat) (n : Nat) (v : Word) (ctx : Nat)
  | semOpSignal (sl : Nat) (v : Word) (ctx : Nat)
  | semOpTake (sl : Nat) (v : Word) (ctx : Nat)
  -- errors and scrubbing
  | errorRecordWrite
  | ceWindowEnd (sl : Nat)
  | errRdWrite (v : Word) (ctx : Nat)
  | errFirstclr (v : Word) (ctx : Nat)
  | scrubCtlGo (sl : Nat) (v : Word) (ctx : Nat)
  | scrubCtlStop (sl : Nat) (v : Word) (ctx : Nat)
  | scrubPassComplete (sl : Nat)
  -- Tuner
  | tunerPassStart
  | tunerScanEnd (r : Nat) (inst : Nat)
  | tunerReloadDone (r : Nat) (inst : Nat)
  | tunerRecheck (r : Nat) (v : Word) (ctx : Nat)
  | tunerRebase (r : Nat) (v : Word) (ctx : Nat)
  | belfryChallenge (words : List Word)
  | tunerChexpGo (v : Word) (ctx : Nat)
  | challengeResult
  | challengeLate
  -- power
  | sliceDampRequest (sl : Nat) (ctx : Nat)
  | sliceOffRequest (sl : Nat) (ctx : Nat)
  | slicePlayRequest (sl : Nat) (ctx : Nat)
  | cplxDampRequest (ctx : Nat)
  | cplxTapRequest (ctx : Nat)
  | cplxPlayRequest (ctx : Nat)
  | powerEntryStep (target : PowerTarget)
  | wakeEvent (target : PowerTarget) (cause : Nat)
  | wakeStepReady (target : PowerTarget)
  | wakeStepTimeout (target : PowerTarget)
  | offRestoreDone (sl : Nat)
  | tapClkReq
  | tapBurst
  | tapSleep
  | pwrVreqGo (v : Word) (ctx : Nat)
  | pwrVreqClr (v : Word) (ctx : Nat)
  | avsAck (ack : Nat) (data : Nat)
  | avsBusyRetry
  | avsVoltagePoll (mv : Nat)
  | avsTimeout
  | sensorWindow (sl : Nat) (temp : BitVec 10)
  | droopEvent (sl : Nat)
  -- bring-up stages
  | imageBoot
  | fuseCopy
  | hardwareFill
  | fastCheck (failing : List (Nat × Nat))
  | bist (faults : List BistFault) (startMv : Nat)
  | repairApply
  | settingsRead (version : Word) (logicMv arrayMv : Nat)
  | settingsCommit
  | fullRelease
  -- reset units
  | portReset (sl : Nat) (port : Nat) (ctx : Nat)
  | engineReset (sl : Nat) (ctx : Nat)
  | sliceReset (sl : Nat) (ctx : Nat)
  | partitionReset (q : Nat) (ctx : Nat)
  | warmReset (ctx : Nat)
  | belfryReset (ctx : Nat)
  | fullReset (ctx : Nat)
  | resetDrainEnd
  -- kill and SOLO
  | ctxKillWrite (v : Word) (ctx : Nat)
  | killMarkArrive (c : Nat) (sl : Nat)
  | killDrainEnd (c : Nat)
  | killComplete (c : Nat)
  | ctxSoloWrite (v : Word) (ctx : Nat)
  -- fabric port
  | fpWriteIn (p : Packet)
  | fpWritepIn (p : Packet)
  | fpReadIn (p : Packet)
  | fpWrspIn (p : Packet)
  | fpRdataIn (p : Packet)
  | fpKnellIn (p : Packet)
  | fpBadPacket (p : Packet)
  | fpPacketSend (sl : Nat) (slot : Nat)
  | chwinOpen (w : Nat) (v : Word) (ctx : Nat)
  | chwinClose (w : Nat) (v : Word) (ctx : Nat)
  | chwinDrainDone (w : Nat)
  | chwinDtmo (w : Nat)
  | fpKnellGo (v : Word) (ctx : Nat)
  | knellSend
  -- Belfry
  | mboxInfo
  | mboxSensors (current : Nat) (temperature : Nat)
  | logRead
  | dumpDir
  | dumpRead
  | dumpCapture
  | dumpFree
  | updBegin
  | updData
  | updEnd
  | repairSave
  | lcNonce
  | lcChange
  | mboxUnknown
  | mboxNotServing (v : Word) (ctx : Nat)
  | mboxCommandDone
  | flashPoll (busy : Bool)
  | flashTimeout
  | belfryTrap
  | logRecord
  | csrWrite (addr : Nat) (v : Word) (ctx : Nat)
  | stageB7RollCall
  deriving DecidableEq, Repr

end Sys2Proof
end

