-- ==== Sys2Proof/Decode.lean ====
section
/-! DEFINITION. Commands as words. The table of operations and events gives no row any bits: a command reaches
the complex over its interfaces, as signals, packets and register accesses, and not as a word. -/

namespace Sys2Proof

/-- The command that a word of `nbits` bits spells: none, since no row of the table has bits. -/
def decodeTableWord (_nbits _w : Nat) : Option Instr := none

end Sys2Proof
end

