-- ==== Sys2Proof/Machine/Tbl.lean ====
section
/-! DEFINITION. Sparse tables in one canonical form: a list of (key, value) pairs with strictly rising keys
and no entry equal to what an unlisted key reads as. Memory, registers and per-unit state are kept in
such tables, so that equal contents are equal data. -/

namespace Sys2Proof.Machine

/-- A sparse table from numbers to `α`. -/
abbrev Tbl (α : Type) := List (Nat × α)

/-- What key `k` reads as; `d` is what an unlisted key reads as. -/
def Tbl.get {α : Type} (d : α) : Tbl α → Nat → α
  | [], _ => d
  | (a, v) :: t, k => if a = k then v else Tbl.get d t k

/-- Removes every entry of key `k`. -/
def Tbl.erase {α : Type} : Tbl α → Nat → Tbl α
  | [], _ => []
  | (a, v) :: t, k => if a = k then Tbl.erase t k else (a, v) :: Tbl.erase t k

/-- Enters `v` at key `k`, at its place in the rising order. -/
def Tbl.insert {α : Type} : Tbl α → Nat → α → Tbl α
  | [], k, v => [(k, v)]
  | (a, w) :: t, k, v =>
    if k < a then (k, v) :: (a, w) :: t
    else if k = a then (k, v) :: t
    else (a, w) :: Tbl.insert t k v

/-- Writes `v` at key `k`; writing what an unlisted key reads as removes the entry. -/
def Tbl.put {α : Type} [DecidableEq α] (d : α) (t : Tbl α) (k : Nat) (v : α) : Tbl α :=
  if v = d then Tbl.erase t k else Tbl.insert t k v

/-- The canonical form: keys strictly rising, and no entry equal to what its key reads as unlisted. -/
def Tbl.wf {α : Type} [DecidableEq α] (d : Nat → α) : Tbl α → Bool
  | [] => true
  | [(a, v)] => decide (v ≠ d a)
  | (a, v) :: (b, w) :: t => decide (v ≠ d a) && decide (a < b) && Tbl.wf d ((b, w) :: t)

/-- Writes a list of (key, value) pairs, in order. -/
def Tbl.putAll {α : Type} [DecidableEq α] (d : Nat → α) (t : Tbl α) : List (Nat × α) → Tbl α
  | [] => t
  | (k, v) :: r => Tbl.putAll d (Tbl.put (d k) t k v) r

end Sys2Proof.Machine
end

