-- ==== Sys2Proof/Machine/State.lean ====
section
/-! DEFINITION. The state of the complex, as plain data: every register, queue, buffer, counter, mode and
pin that the spec gives it, the queue of the commands that are waiting, and the state after reset.
Registers with a CSR address live in one sparse table under their address (R405); state that has no
address lives in the structures below. -/

namespace Sys2Proof.Machine

/-! ### The instance -/

/-- The Bruxis parameters of the instance (R24). `widths` holds WIDTHp codes and `ratios` RATIOp codes (R31). -/
structure Build where
  slices : Nat
  gcell : Bool
  meshX : Nat
  meshY : Nat
  ports : Nat
  widths : List Nat
  ratios : List Nat
  parts : Nat
  chipwin : Nat
  fmax : Nat
  refclk : Nat
  inst : Nat
  deriving DecidableEq, Repr

/-- The fuse array (R355): physical slice disable mask, repairs as (slice, bank, macro, row, spare row),
(slice, bank, macro, bit position) and (slice, bank), a verification key hash fused, life-cycle code (R400). -/
structure Fuse where
  disable : BitVec 64
  rows : List (Nat × Nat × Nat × Nat × Nat)
  groups : List (Nat × Nat × Nat × Nat)
  banks : List (Nat × Nat)
  keyHash : Bool
  lifeCycle : Nat
  deriving DecidableEq, Repr

/-- Reset and ready inputs (R335), CLK_REQ (R320) and IRQ_HOST (R408). -/
structure Pins where
  rstPorN : Bool
  rstWarmN : Bool
  pgood : Bool
  clkOk : Bool
  clkReq : Bool
  irqHost : Bool
  deriving DecidableEq, Repr

/-- Time: the clk counter (R18), the frequency of clk in MHz, the 64-bit reference-time counter (R18) with
the fraction of a reference clock passed, and the measurement of clk (R62). -/
structure Time where
  clk : Nat
  mhz : Nat
  ref : Nat
  frac : Nat
  /-- log₂ of the M of the ranges of the consecutive windows, at most 16, that lay in ranges of lower M -/
  lows : List Nat
  /-- log₂ M, undoubled, and the doubling, in force or decided for the next bar; the clk of the decision -/
  nextM : Nat
  nextHot : Bool
  decidedAt : Nat
  deriving DecidableEq, Repr

/-- The beat input (R19 to R21): the last accepted count with its strobe clk, the counts not yet visible, the clk in which
the count last became visible, and the last clk in which BEAT_STROBE was sampled high. -/
structure BeatIn where
  last : Option (Nat × Nat)
  coming : List (Nat × Nat)
  seenAt : Nat
  high : Option Nat
  deriving DecidableEq, Repr

/-! ### Values written and not yet in force -/

/-- A staging record of handle words (R116). -/
structure Stage where
  entry : Option Nat
  w0 : Option Word
  w1 : Option Word
  w2 : Option Word
  deriving DecidableEq, Repr

/-- An accepted commit that is pending (R118): the entry, its writer, whether its peal write has left, and the clk in which the
last mirror has received it. -/
structure Commit where
  h : Nat
  ctx : Nat
  sent : Bool
  received : Option Nat
  deriving DecidableEq, Repr

/-- What is in force where that differs from what a register reads (R10): values of B and K fields, B
writes waiting for a bar with their clk, the handle mirror of each slice under
`slice * 16384 + 4 * h + word` (R118), the staging records of Belfry and of the system port, and the
accepted commits that are pending, and for each
context the clk of its last kernel boundary, plus one (R268). -/
structure Force where
  value : Tbl Word
  waiting : List (Nat × Nat)
  mirror : Tbl Word
  stageBelfry : Stage
  stageHost : Stage
  commits : List Commit
  boundary : Tbl Nat
  deriving DecidableEq, Repr

/-! ### Storage -/

/-- A merge-buffer entry (R48): line, byte enables, bytes, words to be stored poisoned (R42), the clk of
the first write, and the mark of a maintenance clk (R49). -/
structure MergeEntry where
  line : Nat
  ben : ByteEn
  data : Line
  psn : WordEn
  born : Nat
  marked : Bool
  deriving DecidableEq, Repr

/-- A row self-test in progress (R55): bank row, steps done, the 16 stored words of the test buffer, the
word slots noted uncorrectable at T1, the complement that T2 has written, and the failing columns of T3. -/
structure RowTest where
  row : Nat
  step : Nat
  buf : List (BitVec 80)
  noted : List Nat
  sent : List (BitVec 80)
  fails : List Nat
  /-- T1 read clean a word that had been reported uncorrectable (R57) -/
  path : Bool
  deriving DecidableEq, Repr

/-- An entry of a bank's transient history (R287): row, count, and the clk in which the count last rose. -/
structure Hist where
  row : Nat
  count : Nat
  rose : Nat
  deriving DecidableEq, Repr

/-- A row accumulator (R242): output index, value, whether it holds an INT32, poisoned contribution. -/
structure Accum where
  tag : Nat
  val : BitVec 32
  int : Bool
  psn : Bool
  deriving DecidableEq, Repr

/-- A write as it reached a bank: its clk, line, enables, data and poison marks. -/
structure BankWrite where
  at' : Nat
  line : Nat
  ben : ByteEn
  data : Line
  psn : WordEn
  deriving DecidableEq, Repr

/-- What a bank holds beside its cells (R13, R48, R52 to R57, R224). -/
structure Bank where
  merge : List MergeEntry
  wb : Option (Nat × Nat × Word)
  queue : List Nat
  test : Option RowTest
  hist : List Hist
  row : Nat
  vote : Nat
  turns : Nat
  maintAt : Nat
  /-- the fence of the last row retirement: its first clk, and the first clk behind it (R58) -/
  fence : Nat × Nat
  /-- the last write that reached the bank, of which a wipe of the same clk keeps the bytes (R51) -/
  wrote : Option BankWrite
  /-- words (16 · row + word slot) reported uncorrectable, until a self-test reads them (R57) -/
  ueSeen : List Nat
  accs : List Accum
  shadow : List Accum
  deriving DecidableEq, Repr

/-- The storage of every slice. `cells` holds the cells of the macros, eight columns of a row to a byte, under the key
of `cellKey` (R35); `wbits` the three W copies of each word (R44); `vec` the coded words of the vector buffers, an
unlisted word being empty (R246, R268). The repair map (R36): `remap` holds the spare row, plus one, that replaces a
row, `group` the bit position, plus one, that the spare column group of a macro holds, `spare` the logical bank, plus
one, that a spare bank replaces. `epoch` says how often a slice has left Off (R413). -/
structure Mem where
  cells : List Host.Cell
  wbits : Tbl (BitVec 3)
  banks : Tbl Bank
  remap : Tbl Nat
  group : Tbl Nat
  spare : Tbl Nat
  vec : Tbl (Option (BitVec 80))
  epoch : Tbl Nat
  deriving DecidableEq, Repr

/-! ### Requests and responses -/

/-- Where the answer to an access goes. -/
inductive Origin where
  /-- a client port of a slice -/
  | port (sl port : Nat)
  /-- access `acc` of a stream slot -/
  | stream (sl slot acc : Nat)
  /-- part of a system-port target request -/
  | sysport (tag : Nat)
  /-- part of an inbound fabric request -/
  | fabric (id : Nat)
  /-- a peal write at a slice -/
  | peal (id sl : Nat)
  /-- the scrub engine of a slice -/
  | scrub (sl : Nat)
  /-- nowhere: the access was aborted at a drain timeout; its response is absorbed at the slice, or at the global units
  under 64, and counted (R344) -/
  | late (sl : Nat)
  deriving DecidableEq, Repr

/-- One line of an access: bank within the set, line number L, word and byte enables, write data, and the
poison mark of each word (R411). -/
structure LineAcc where
  bank : Nat
  row : Nat
  wen : WordEn
  ben : ByteEn
  data : Line
  psn : WordEn
  deriving DecidableEq, Repr

/-- What a clave operation asks (R258): 0 read, 1 signal, 2 polling take. -/
structure ClaveOp where
  kind : Nat
  pair : Nat
  room : Bool
  n : Nat
  deriving DecidableEq, Repr

/-- A request: one access to lines of one bank set of its home slice, or a clave operation. `since` is its
nominal issue clk for a port (R103) and the clk in which it was presented otherwise. -/
structure Req where
  origin : Origin
  write : Bool
  ctx : Nat
  cls : Nat
  tag : Nat
  home : Nat
  bset : Nat
  lines : List LineAcc
  clave : Option ClaveOp
  owner : Nat
  since : Nat
  /-- the burst that its packet belongs to, 0 for none, and whether its packet is the last of it (R139) -/
  burst : Nat := 0
  last : Bool := true
  deriving DecidableEq, Repr

/-- Data of one line in a response: position in the access, line, poison mark of each word. -/
structure LineRsp where
  pos : Nat
  data : Line
  psn : WordEn
  deriving DecidableEq, Repr

/-- A response, with the code of R99, the banks that its access touched, its issue clk and the clk from which it is
ready. -/
structure Resp where
  origin : Origin
  ctx : Nat
  cls : Nat
  tag : Nat
  write : Bool
  code : Nat
  lines : List LineRsp
  clave : Option Word
  banks : BitVec 64
  issued : Nat
  due : Nat
  since : Nat
  deriving DecidableEq, Repr

/-! ### Client ports -/

/-- A client port (R95 to R108): the engine's fence, its roll-call fence and reset fence, requests in the
converter in order of acceptance, responses of local requests in that order, the remote buffer,
outstanding remote requests, the roll call in progress with its attempts, and what the response channel
shows. -/
structure Port where
  fenceIn : Bool
  called : Bool
  rcFence : Bool
  resetFence : Bool
  queue : List Req
  localRsps : List Resp
  remoteRsps : List Resp
  rout : Nat
  calling : Bool
  attempts : Nat
  retryDue : Option Nat
  calledAt : Nat
  /-- first pclk edges without a local response beat, with READY high, and without a remote response beat -/
  lastBeat : Nat
  busyTo : Nat
  remoteTo : Nat
  /-- first pclk edge behind the last acceptance, and first clk in which the next request may be presented (R70) -/
  takenTo : Nat
  usedTo : Nat
  /-- the pclk edge at which CP_ID_REQ is high (R106) -/
  idReq : Option Nat
  /-- the response that the response channel last presented, and the edge of its first beat -/
  shown : Option (Resp × Nat)
  deriving DecidableEq, Repr

/-! ### Streams -/

/-- A descriptor held in a slot's descriptor buffer (R207): handle, line offset, its words, and its place in the order of
arrival. -/
structure DescEntry where
  handle : Nat
  line : Nat
  data : Line
  stamp : Nat
  deriving DecidableEq, Repr

/-- What an access of a stream is for. -/
inductive AccKind where
  | fetch
  | desc
  | read
  | write
  | signal
  deriving DecidableEq, Repr

/-- An access of a stream: instruction it serves, block, the walk lines of its lines and the walk line behind
them, the request, whether it is held (R86, R265) and when it is tried again, and its response. `offs` are the
line offsets, `host` the host address of a HOST access (R206), `vec` an access to the vector buffer (R412). -/
structure SeAcc where
  id : Nat
  no : Nat
  kind : AccKind
  blk : Nat
  ns : List Nat
  next : Nat
  handle : Nat
  offs : List Nat
  req : Req
  issued : Bool
  held : Bool
  retry : Nat
  host : Option Nat
  vec : Bool
  resp : Option Resp
  /-- its data is no longer wanted (R268) -/
  dropped : Bool
  /-- a read by Lead of a block's source, whose lines take data entries (R162) -/
  takes : Bool
  deriving DecidableEq, Repr

/-- A source line read for a block and not yet consumed, with the data entry that holds it (R162) and the clk in
which its data has come. -/
structure SrcLine where
  blk : Nat
  n : Nat
  data : Line
  psn : WordEn
  entry : Nat
  ready : Nat
  deriving DecidableEq, Repr

/-- A scale line read for an MX source, or being formed for an MX destination: its number within the scale plane and
its bytes (R234), the destination walk line whose blocks it holds first, and the clk in which its data has come. -/
structure ScaleLine where
  n : Nat
  data : Line
  ben : ByteEn
  psn : WordEn
  first : Nat
  ready : Nat
  deriving DecidableEq, Repr

/-- The scale latch of a bank: the scale line that it holds, as a walk line of the scale descriptor (R244). -/
structure ScaleLatch where
  bank : Nat
  n : Nat
  data : Line
  psn : WordEn
  deriving DecidableEq, Repr

/-- The activation latch of a bank set (R246): the slot whose vector it holds, the chunk, and the activations of the
chunk, each with its poison mark. -/
structure ActLatch where
  slot : Nat
  chunk : Nat
  acts : List (Nat × Bool)
  deriving DecidableEq, Repr

/-- A weight line whose first half has met its activations: bank, walk line, the line, and the activations of the
first half, each with its poison mark (R244). -/
structure Half where
  bank : Nat
  n : Nat
  data : Line
  psn : WordEn
  acts : List (Nat × Bool)
  deriving DecidableEq, Repr

/-- An aligned group of bank-local lines that a WIPE has still to clear (R46, R230): bank, the handle that names its lines, and
walk line, bank-local line and line offset of each. -/
structure WipeGroup where
  bank : Nat
  handle : Nat
  lines : List (Nat × Nat × Nat)
  deriving DecidableEq, Repr

/-- An instruction that Lead has decoded and Follow has not retired: a command record (R162). `h` and `sr`
are the H and S registers at decode (R164); `start`, `elem` the block and walk line at which its work begins
(R180, R212). `rblk`, `rpos` are the block and source walk line that are next to be read, `wblk`, `wpos` the
block and walk line of the position descriptor that are next to be issued. -/
structure Inst where
  no : Nat
  pc : Nat
  word : Word
  h : List (Nat × Nat)
  sr : List Nat
  start : Nat
  elem : Nat
  covered : Bool
  abandoned : Bool
  rblk : Nat
  rpos : Nat
  /-- the reads begin again at the position of the writes (R268) -/
  reread : Bool
  wblk : Nat
  wpos : Nat
  /-- descriptors of the blocks begun, which have passed their checks -/
  descs : List (Nat × List Line)
  buf : List SrcLine
  /-- accumulator lines applied beyond a fault, which a resume skips (R241); for REMOTE and TOLL the lines whose writes
  have been answered, as 2^24 · block + line (R368) -/
  doneLines : List Nat
  /-- scale lines read for the block, and those being formed, in order -/
  scales : List ScaleLine
  out : List ScaleLine
  /-- ACCIN: updates not yet answered, as walk line and clk of the answer (R241) -/
  flights : List (Nat × Nat)
  /-- GEMV: the next element walk line of each bank, its scale latch, and its half line -/
  cursor : Tbl Nat
  latch : List ScaleLatch
  halves : List Half
  /-- the accumulators have been taken for the block in progress (R242) -/
  taken : Bool
  /-- the clk in which the last step or write of the instruction is answered -/
  lastStep : Nat
  /-- the clk of the last step into the accumulators, once the reduction tree may start (R247) -/
  tree : Option Nat
  /-- the last write of a TOLL has been sent; a pass or transfer of the instruction, or the clears of its block in progress,
  have been started -/
  sent : Bool
  /-- the groups that the WIPE block in progress has still to clear -/
  wipe : List WipeGroup
  /-- lines of the vector buffer under the vector descriptor of the block in progress (R268) -/
  vecLines : List Nat
  /-- the clk from which the block of a strike or scrub instruction may step (R225) -/
  began : Nat
  /-- an element that straddles two destination lines, of which the first is written: position, bits, poison -/
  carry : Option (Nat × Nat × Bool)
  deriving DecidableEq, Repr

/-- What holds a slot at an instruction (R163). -/
inductive Hold where
  | none
  | wait (room : Bool) (pair n : Nat)
  | beat (target : Nat)
  | follow
  deriving DecidableEq, Repr

/-- A fault that stops a slot, until the work before it is done (R184, R185): instruction, block, walk line (of
the source for a fault on a read, else of the position descriptor), code, host address of a page fault. -/
structure HaltAt where
  no : Nat
  blk : Nat
  elem : Nat
  read : Bool
  code : Nat
  addr : Option Nat
  /-- the receiver at which a Carillon stroke met the fault (R148) -/
  recv : Option Nat := none
  deriving DecidableEq, Repr

/-- What a FAULTED slot keeps beside its position (R185, R241): the block instruction that faulted, with the data
kept, the read that follows that data, and the accumulator lines that a resume applies again. -/
structure Residue where
  inst : Option Inst
  rblk : Nat
  rpos : Nat
  dup : Nat
  deriving DecidableEq, Repr

/-- What a stream slot holds beside its registers (R167, R168). -/
structure Slot where
  fetched : List (Nat × Line)
  descs : List DescEntry
  insts : List Inst
  accs : List SeAcc
  hold : Hold
  nextNo : Nat
  nextAcc : Nat
  /-- a fetched line, or a descriptor, answered with a halting code, kept until needed: line, or handle and line -/
  badFetch : List (Nat × Nat)
  badDesc : List (Nat × Nat × Nat)
  halt : Option HaltAt
  /-- what a halt has kept, until a block instruction resumes -/
  residue : Option Residue
  /-- the next block instruction decoded resumes at the saved position (R186) -/
  resuming : Bool
  stamp : Nat
  /-- after a missed deadline under ABANDON: block instructions still to be abandoned at decode (R218) -/
  toAbandon : Nat
  /-- first clk in which Follow may execute an instruction, after the last retirement or decode (R166) -/
  followAt : Nat
  /-- the clk of the last start, plus one (R163) -/
  startedAt : Nat
  deriving DecidableEq, Repr

/-! ### Slices -/

/-- A handover in progress (R129): banks, new owner, KEEP, the clk of the fence, the killed context it
serves, whether drain and wipe are done. -/
structure Handover where
  mask : BitVec 64
  newOwner : Nat
  keep : Bool
  tf : Nat
  kill : Option Nat
  drained : Bool
  ready : Nat
  aborts : Nat
  deriving DecidableEq, Repr

/-- A queued error record (R281, R282), and whether it is the CE record that is held for folding (R285). -/
structure ErrRec where
  w0 : Word
  w1 : Word
  w2 : Word
  w3 : Word
  heldCe : Bool
  deriving DecidableEq, Repr

/-- A scrub pass (R288): slot that runs it (none for a CSR pass), lines still to be read and their
position, summary counts, first access, STOP seen, self-tests it has queued. -/
structure ScrubPass where
  slot : Option (Nat × Nat)
  next : Nat
  last : Nat
  words : Nat
  one : Nat
  two : Nat
  bad : Nat
  lasting : Nat
  /-- rows retired since the start of the pass, in and outside its range: bank, bank row -/
  retired : List (Nat × Nat)
  clear : Nat
  poisoned : Nat
  began : Option Nat
  stopped : Bool
  range : Bool
  /-- the clk in which the last access is answered -/
  answered : Nat
  tests : List (Nat × Nat)
  deriving DecidableEq, Repr

/-- What a slice holds beside its registers: the handover, pending retirements (R59), requests waiting at
the home slice, the last issue clk of each bank set plus one, the class each claimant served last and the
class counts of the share window (R150), fences with their causes, the queue of error records, the slot
Lead served last, activation latches (R246), the scrub pass, the Rhythm save area (R312), the clk of the
last write of NEXT, refused or armed switches, the idle-patrol stroke, and for each clave pair the clk of
its last SIGNAL, plus one (R259). -/
structure SliceSt where
  handover : Option Handover
  /-- a handover has been abandoned by the reset that is under way, whose RESULT outlives it (R131) -/
  xferCut : Bool
  killHandovers : List Nat
  retire : List (Nat × Nat × Nat)
  home : List Req
  lastIssue : Tbl Nat
  turn : Tbl Nat
  shares : Tbl Nat
  fenceReset : Bool
  fenceBoot : Bool
  fenceOff : Bool
  engineReset : Bool
  errs : List ErrRec
  leadTurn : Nat
  /-- first clk in which Lead may decode again (R163) -/
  leadAt : Nat
  /-- slots that wait for a command record, in the order in which they have asked for one (R162) -/
  recWait : List Nat
  /-- first clk in which the clear port of a bank is free (R46) -/
  clearAt : Tbl Nat
  /-- clk, plus one, of the write of a bank's seed, which the LFSR has not yet loaded (R253) -/
  seeds : Tbl Nat
  latches : Tbl (Option ActLatch)
  /-- clk of the last read of an activation chunk, plus one (R412) -/
  chunkAt : Nat
  scrub : Option ScrubPass
  save : Option (List Word)
  nextAt : Nat
  sensed : Bool
  droopsTap : Nat
  /-- reference time of the last droop that was logged, plus one (R390) -/
  droopLog : Nat
  ceWindow : Nat
  released : Bool
  signalAt : Tbl Nat
  /-- the counts of a guarded ring as they stood at the start of the clk (plus one) in which they last changed (R265) -/
  ringAt : Tbl (Nat × Nat × Nat)
  /-- clk in which each claimant was last counted as stalled, plus one (R82) -/
  stalledAt : Tbl Nat
  /-- consecutive thermal windows at 100 °C or below (R64) -/
  cool : Nat
  deriving DecidableEq, Repr

/-! ### Mesh, peal writes, Carillon -/

/-- One output that a packet takes: the output, as `8 · router + output`, where 6 and 7 stand for the entries into the
mesh; the place in the packet's way of the output before it, its own for the first; the clk in which each flit has won it. -/
structure Branch where
  out : Nat
  back : Nat
  passed : List Nat
  deriving DecidableEq, Repr

/-- A Carillon acknowledgement (R146): group, stroke, source slice, instruction, class, the receivers that the stroke was
sent to, and those that have acknowledged it. -/
structure AckMark where
  g : Nat
  n : Nat
  src : Nat
  no : Nat
  cls : Nat
  dests : List Nat
  got : List Nat
  deriving DecidableEq, Repr

/-- Acknowledgements that a router merges: branches that have not answered, and the clk in which the first did (R146). -/
structure Merge where
  router : Nat
  ack : AckMark
  left : Nat
  first : Nat
  deriving DecidableEq, Repr

/-- A packet under way: virtual channel (2 for responses, and 1 for Y-first routes), class, flits, burst marker (R139), the
clk in which its first flit is offered to its origin router, the clk from one flit to the next there, and its way. -/
structure Flight where
  id : Nat
  vc : Nat
  cls : Nat
  flits : Nat
  burst : Nat
  last : Bool
  at' : Nat
  gap : Nat
  way : List Branch
  ack : Option AckMark
  deriving DecidableEq, Repr

/-- A request packet in the mesh: origin and destination slices, virtual channel (true for Y-first), clk
of sending, flits, the request, and its number among the packets under way. -/
structure Pkt where
  src : Nat
  dst : Nat
  yfirst : Bool
  sent : Nat
  flits : Nat
  req : Req
  flight : Nat
  deriving DecidableEq, Repr

/-- A response packet in the mesh. -/
structure RPkt where
  src : Nat
  dst : Nat
  sent : Nat
  flits : Nat
  rsp : Resp
  flight : Nat
  deriving DecidableEq, Repr

/-- A peal write (R142, R143): CSR or memory, offset or slice-local line, data, enables, writer's context,
class, the system-port tag that awaits its response, slices that it has still to reach, parts outstanding at
their banks, and the first code other than OK. -/
structure Peal where
  id : Nat
  mem : Bool
  off : Nat
  data : Line
  ben : ByteEn
  ctx : Nat
  cls : Nat
  tag : Option Nat
  left : List Nat
  waiting : List Nat
  code : Nat
  sent : Nat
  flight : Nat
  /-- it carries an entry of the handle table to the mirrors (R118) -/
  mirror : Option Nat
  deriving DecidableEq, Repr

/-- A line of a stroke: the slice-local line at each receiver, or the vector-buffer line. -/
structure StrokeLine where
  line : Nat
  data : Line
  ben : ByteEn
  psn : WordEn
  deriving DecidableEq, Repr

/-- A copy of a stroke under way: the receivers that its packet was sent to, those that it has still to reach, and the
packet. -/
structure StrokeCopy where
  dests : List Nat
  left : List Nat
  flight : Nat
  deriving DecidableEq, Repr

/-- A stroke of a Carillon transfer: its number, its block and first walk line, its lines, its copies under way, and the
receivers whose acknowledgements have reached the source. -/
structure Stroke where
  n : Nat
  blk : Nat
  first : Nat
  vec : Bool
  /-- bank set of its lines, and the clk in which it was last sent -/
  bset : Nat
  sent : Nat
  lines : List StrokeLine
  copies : List StrokeCopy
  acked : List Nat
  deriving DecidableEq, Repr

/-- A Carillon transfer (R144 to R148): group, source slice, slot and instruction, receivers still in the group,
strokes sent, those that some receiver has not acknowledged or that are under way, how many acknowledgements of each receiver
have reached the source, receivers that answered FENCED or are in Off, the clk since which a receiver's lag exceeds LAG (plus
one), the clk of the last re-send, for each block whose strokes have all been sent the number sent by then, and the context
and class of its stream. -/
structure Xfer where
  g : Nat
  sl : Nat
  slot : Nat
  no : Nat
  members : List Nat
  sent : Nat
  strokes : List Stroke
  acked : Tbl Nat
  refused : List Nat
  lagSince : Tbl Nat
  resent : Nat
  blockEnds : List (Nat × Nat)
  ctx : Nat
  cls : Nat
  deriving DecidableEq, Repr

/-- A router output held by a burst (R139): the output, the burst, since when, its last flit. -/
structure HeldOut where
  out : Nat
  burst : Nat
  since : Nat
  last : Nat
  deriving DecidableEq, Repr

/-- What is under way in the mesh: requests, responses, peal writes, Carillon transfers, and those that have ended with
strokes under way (R147, R148); the packets that carry them, the acknowledgements that routers merge, the outputs that
bursts hold; the first clk that has not passed in the mesh; and, for each output, the flit clks of each class in the window
of 64 clk that `linkWindow` numbers and the class last served (R150). -/
structure Net where
  pkts : List Pkt
  rpkts : List RPkt
  peals : List Peal
  nextPeal : Nat
  xfers : List Xfer
  strays : List Xfer
  held : List HeldOut
  windowAt : Nat
  flights : List Flight
  nextFlight : Nat
  merges : List Merge
  meshAt : Nat
  linkTaken : Tbl Nat
  linkWindow : Nat
  linkTurn : Tbl Nat
  deriving DecidableEq, Repr

/-! ### System port and fabric port -/

/-- A system-port target request in progress (R124, R125): tag, window, context and class, parts still
outstanding, data by line, and its code so far. -/
structure SpTxn where
  tag : Nat
  write : Bool
  win : Nat
  ctx : Nat
  cls : Nat
  beats : Nat
  need : Nat
  lines : List LineRsp
  code : Nat
  since : Nat
  due : Nat
  /-- its peal writes that have not left yet: to memory, offset or line, data, enables -/
  peals : List (Bool × Nat × Line × ByteEn)
  deriving DecidableEq, Repr

/-- A target request in the staging buffer (R151): with the window that it matched as it was accepted (R126), and whether it is
answered RANGE whatever it addresses, for its tag or its operation (R123, R124). -/
structure SpStaged where
  addr : Nat
  write : Bool
  len : Nat
  tag : Nat
  beats : List (Line × ByteEn)
  win : Option Nat
  range : Bool
  deriving DecidableEq, Repr

/-- An initiator request outstanding (R123, R206): tag, slice, slot, access, address, lines. -/
structure SpInit where
  tag : Nat
  sl : Nat
  slot : Nat
  acc : Nat
  write : Bool
  addr : Nat
  lines : List (Line × ByteEn)
  cls : Nat
  ctx : Nat
  deriving DecidableEq, Repr

/-- The system port. -/
structure SysPort where
  txns : List SpTxn
  staged : List SpStaged
  inits : List SpInit
  shown : Option SpTxn
  deriving DecidableEq, Repr

/-- A transfer tag of an inbound window (R373): OPEN, bound source chip, arrivals. -/
structure FpTag where
  isOpen : Bool
  src : Nat
  arr : Nat
  deriving DecidableEq, Repr

/-- An inbound request in progress: the packet, parts outstanding, code so far and data. -/
structure FpIn where
  id : Nat
  pkt : Packet
  ctx : Nat
  need : Nat
  code : Nat
  lines : List LineRsp
  due : Nat
  deriving DecidableEq, Repr

/-- An outbound write outstanding or held (R367, R368): request ID, sender, walk lines, the packet, whether its
response is awaited, and the clk of the next re-send of one that FENCED holds. One that awaits nothing and has no such
clk is sent again when its slot resumes. -/
structure FpOut where
  rid : Nat
  sl : Nat
  slot : Nat
  no : Nat
  blk : Nat
  first : Nat
  count : Nat
  cls : Nat
  pkt : Packet
  waiting : Bool
  retry : Option Nat
  deriving DecidableEq, Repr

/-- The fabric port: tags of each window under `256 * w + tag`, inbound requests, outbound writes, the
Knell queue, closing times of draining windows, and the packet last sent. -/
structure Fabric where
  tags : Tbl FpTag
  inbound : List FpIn
  nextId : Nat
  outbound : List FpOut
  knells : List Packet
  closeAt : Tbl Nat
  shown : Option Packet
  /-- packets on the outbound channel, in order, each with the clk of its header beat (R363) -/
  sent : List (Packet × Nat)
  deriving DecidableEq, Repr

/-! ### Errors and the Tuner -/

/-- The error ring (R280, R281): records by index, the 64-entry queue of the global part, and the first
record; and the clk of the last event that set a bit of GLB_IRQ_CAUSE, with the bits set in it (R408). -/
structure Errors where
  ring : Tbl ErrRec
  queue : List ErrRec
  first : Option ErrRec
  causes : Nat × Word
  deriving DecidableEq, Repr

/-- The Tuner (R292 to R300): golden signatures and instance states under `64 * r + inst`, the instances
still to be scanned in the pass, the start of the pass, instances abandoned by a write, pending reloads,
the errors of the second and third voted copies under the register's address or, for a golden signature, under
`0x100000 + 64 * r + inst` (R298), and the challenge. -/
structure Tuner where
  golden : Tbl (BitVec 32)
  inst : Tbl Nat
  left : List (Nat × Nat)
  redo : List (Nat × Nat)
  passAt : Nat
  lastPass : Nat
  reload : List (Nat × Nat)
  copy1 : Tbl Word
  copy2 : Tbl Word
  /-- the registers of TUNCFG written since a disagreement was last met -/
  rewrote : List Nat
  lastGo : Nat
  lateSaid : Bool
  challenged : Bool
  tries : Nat
  trusted : Bool
  belfryHeld : Bool
  nmi : Bool
  /-- the clk in which the scan in progress of each slice's engine, or of the global one under 64, began (R295) -/
  engineAt : Tbl Nat
  /-- a pass is running -/
  running : Bool
  /-- the 32 registers of Belfry's configuration region (R383) -/
  belfryRegs : List Word
  deriving DecidableEq, Repr

/-! ### Power -/

/-- An entry in progress (R312): target, state entered (1 Damp, 2 Off, 3 Tap), next step, wake cause. -/
structure PwrEntry where
  target : PowerTarget
  enters : Nat
  step : Nat
  began : Nat
  wake : Option Nat
  deriving DecidableEq, Repr

/-- A wake in progress (R317): target, state left, next step, its start in reference time, retried. -/
structure PwrWake where
  target : PowerTarget
  leaves : Nat
  step : Nat
  began : Nat
  retried : Bool
  stopped : Bool
  deriving DecidableEq, Repr

/-- Power control: entries, wakes, the Tap cycle, the AVSBus request (R325). -/
structure Power where
  entries : List PwrEntry
  wakes : List PwrWake
  restoring : List Nat
  tapBurstAt : Nat
  tapWakes : Nat
  tapPhase : Nat
  avsTries : Nat
  avsCrc : Nat
  avsBegan : Nat
  avsPolling : Bool
  avsRetryAt : Option Nat
  /-- the voltage in mV and the rail of the request in progress -/
  avsMv : Nat
  avsArray : Bool
  knellWaiting : List Packet
  deriving DecidableEq, Repr

/-! ### Bring-up, resets, kills -/

/-- A kill in progress (R347): context, clk of KILLING, slices the mark has reached, slices whose drain
and handover are done, KEEP_KILL, and aborted accesses. -/
structure Kill where
  ctx : Nat
  began : Nat
  marked : List Nat
  drained : Bool
  keep : Bool
  aborts : Nat
  knell : Bool
  deriving DecidableEq, Repr

/-- A reset unit in progress (R344). -/
structure UnitReset where
  unit : Nat
  sl : Nat
  index : Nat
  tf : Nat
  aborts : Nat
  drained : Bool
  deriving DecidableEq, Repr

/-- Bring-up (R335 to R341): released, path, stage whose end is next with its start in reference time, stopped,
power-on fill due at B3, faults found by BIST, the unit reset, the kills, the roll call of B7 begun, and the
BIST instrument's SEL and its data by physical slice: run, passed, banks with a fault (R356). -/
structure Boot where
  released : Bool
  fast : Bool
  next : Nat
  halted : Bool
  stageAt : Nat
  porFill : Bool
  faults : List BistFault
  reset : Option UnitReset
  kills : List Kill
  bistSel : Nat
  bistDone : BitVec 64
  bistPass : BitVec 64
  bistBanks : Tbl (BitVec 64)
  rollCall : Bool
  deriving DecidableEq, Repr

/-! ### Belfry -/

/-- A log record (R387). -/
structure LogRec where
  w0 : Word
  w1 : Word
  w2 : Word
  w3 : Word
  deriving DecidableEq, Repr

/-- A directory entry of the dump store (R389). -/
structure DumpDir where
  reason : Nat
  valid : Bool
  keep : Bool
  seq : Nat
  beat : Nat
  ref : Nat
  len : Nat
  deriving DecidableEq, Repr

/-- A firmware or settings update in progress (R395, R399). -/
structure Update where
  target : Nat
  total : Nat
  base : Nat
  written : List (Nat × Nat)
  deriving DecidableEq, Repr

/-- The settings record in use (R396, R397): from flash or defaults, its copy, SEQ, and its entries: ports as index,
KIND and LIC_REV, added repairs, registers as section and the two words of the entry, the supplies, and its bytes. -/
structure Settings where
  valid : Bool
  copy : Nat
  seq : Nat
  badCrc : Bool
  ports : List (Nat × Nat × Nat)
  repairs : List Word
  regs : List (Nat × Word × Word)
  vlogic : Nat
  varray : Nat
  vrate : Nat
  raw : List Byte
  deriving DecidableEq, Repr

/-- Belfry (R383): in reset, whether and from which image it runs, the mailbox command in progress and its
answer, flash content, the flash operation under way, the update, the settings, the log queue and ring,
the dump directory and store, the retirements and bad lines since power-up (R399), the nonce. -/
structure Belfry where
  inReset : Bool
  running : Bool
  imageB : Bool
  imageSeq : Nat
  cmd : Option Nat
  answer : Option (Nat × List Byte)
  flash : List Host.Cell
  /-- erase, its start in reference time, first flash byte and the byte behind the last -/
  flashOp : Option (Bool × Nat × Nat × Nat)
  /-- a usable flash has been found, log₂ of the density used, quad reads (R391) -/
  flashOk : Bool
  flashLog2 : Nat
  flashQuad : Bool
  flashId : Nat
  update : Option Update
  settings : Settings
  logQueue : List LogRec
  logRing : Tbl LogRec
  dumps : List DumpDir
  dumpStore : List Host.Cell
  dumpCount : Nat
  /-- the reference time at which the dump being written is complete (R388) -/
  dumpEnds : Nat
  retirements : List (Nat × Nat × Nat × Nat)
  badLines : List (Nat × Nat × Nat)
  nonce : Option (List Byte)
  /-- the response to the last peal write that it made (R143) -/
  pealCode : Nat
  /-- a life-cycle change has been made, whose full reset follows the answer (R401) -/
  lcReset : Bool
  avsVersion : Option Word
  deriving DecidableEq, Repr

/-! ### The whole state -/

/-- The state of the complex and the queue of the commands that are waiting, first in, first out. `free` is
the model's own counter from which free values are drawn. -/
structure State where
  build : Build
  fuse : Fuse
  pins : Pins
  time : Time
  beat : BeatIn
  csr : Tbl Word
  force : Force
  mem : Mem
  slices : Tbl SliceSt
  ports : Tbl Port
  slots : Tbl Slot
  net : Net
  sysport : SysPort
  fabric : Fabric
  errors : Errors
  tuner : Tuner
  power : Power
  boot : Boot
  belfry : Belfry
  free : Nat
  pending : List Instr
  deriving DecidableEq, Repr

/-! ### Reset -/

/-- The default build of R24: 32 slices of S cells on the mesh of R26, four ports of 512 bytes at 1:1, one
partition, 64 chip windows, 1,250 MHz, a reference clock of 100 MHz. -/
def Build.default : Build where
  slices := 32
  gcell := false
  meshX := 8
  meshY := 4
  ports := 4
  widths := [3, 3, 3, 3]
  ratios := [0, 0, 0, 0]
  parts := 1
  chipwin := 64
  fmax := 1250
  refclk := 2
  inst := 0

/-- A part with no slice disabled, no fuse repair, in life-cycle state TEST. -/
def Fuse.default : Fuse where
  disable := 0
  rows := []
  groups := []
  banks := []
  keyHash := true
  lifeCycle := 1

def Stage.empty : Stage := { entry := none, w0 := none, w1 := none, w2 := none }

def Bank.init : Bank where
  merge := []
  wb := none
  queue := []
  test := none
  hist := []
  row := 0
  vote := 0
  turns := 0
  maintAt := 0
  fence := (0, 0)
  wrote := none
  ueSeen := []
  accs := []
  shadow := []

/-- A port at reset: fenced by roll call until its first roll call (R108). -/
def Port.init : Port where
  fenceIn := false
  called := false
  rcFence := true
  resetFence := false
  queue := []
  localRsps := []
  remoteRsps := []
  rout := 0
  calling := false
  attempts := 0
  retryDue := none
  calledAt := 0
  lastBeat := 0
  busyTo := 0
  remoteTo := 0
  takenTo := 0
  usedTo := 0
  idReq := none
  shown := none

def Slot.init : Slot where
  fetched := []
  descs := []
  insts := []
  accs := []
  hold := .none
  nextNo := 0
  nextAcc := 0
  badFetch := []
  badDesc := []
  halt := none
  residue := none
  resuming := false
  stamp := 0
  toAbandon := 0
  followAt := 0
  startedAt := 0

def SliceSt.init : SliceSt where
  handover := none
  xferCut := false
  killHandovers := []
  retire := []
  home := []
  lastIssue := []
  turn := []
  shares := []
  fenceReset := false
  fenceBoot := false
  fenceOff := false
  engineReset := false
  errs := []
  leadTurn := 15
  leadAt := 0
  recWait := []
  clearAt := []
  seeds := []
  latches := []
  chunkAt := 0
  scrub := none
  save := none
  nextAt := 0
  sensed := false
  droopsTap := 0
  droopLog := 0
  ceWindow := 0
  released := false
  signalAt := []
  ringAt := []
  stalledAt := []
  cool := 0

def FpTag.idle : FpTag := { isOpen := false, src := 0, arr := 0 }

def ErrRec.zero : ErrRec := { w0 := 0, w1 := 0, w2 := 0, w3 := 0, heldCe := false }

def LogRec.zero : LogRec := { w0 := 0, w1 := 0, w2 := 0, w3 := 0 }

def DumpDir.empty : DumpDir where
  reason := 0
  valid := false
  keep := false
  seq := 0
  beat := 0
  ref := 0
  len := 0

def Settings.defaults : Settings where
  valid := false
  copy := 0
  seq := 0
  badCrc := false
  ports := []
  repairs := []
  regs := []
  vlogic := 0
  varray := 0
  vrate := 0
  raw := []

def Mem.empty : Mem := { cells := [], wbits := [], banks := [], remap := [], group := [], spare := [], vec := [], epoch := [] }

def Net.empty : Net where
  pkts := []
  rpkts := []
  peals := []
  nextPeal := 0
  xfers := []
  strays := []
  held := []
  windowAt := 0
  flights := []
  nextFlight := 0
  merges := []
  meshAt := 0
  linkTaken := []
  linkWindow := 0
  linkTurn := []

def Tuner.init : Tuner where
  golden := []
  inst := []
  left := []
  redo := []
  passAt := 0
  lastPass := 0
  reload := []
  copy1 := []
  copy2 := []
  rewrote := []
  lastGo := 0
  lateSaid := false
  challenged := false
  tries := 0
  trusted := true
  belfryHeld := false
  nmi := false
  engineAt := []
  running := false
  belfryRegs := []

def Power.init : Power where
  entries := []
  wakes := []
  restoring := []
  tapBurstAt := 0
  tapWakes := 0
  tapPhase := 0
  avsTries := 0
  avsCrc := 0
  avsBegan := 0
  avsPolling := false
  avsRetryAt := none
  avsMv := 0
  avsArray := false
  knellWaiting := []

def Boot.init : Boot where
  released := false
  fast := false
  next := 0
  halted := false
  stageAt := 0
  porFill := true
  faults := []
  reset := none
  kills := []
  bistSel := 0
  bistDone := 0
  bistPass := 0
  bistBanks := []
  rollCall := false

def Belfry.init : Belfry where
  inReset := true
  running := false
  imageB := false
  imageSeq := 0
  cmd := none
  answer := none
  flash := []
  flashOp := none
  flashOk := true
  flashLog2 := 24
  flashQuad := true
  flashId := 0
  update := none
  settings := Settings.defaults
  pealCode := 0
  logQueue := []
  logRing := []
  dumps := List.replicate 8 DumpDir.empty
  dumpStore := []
  dumpCount := 0
  dumpEnds := 0
  retirements := []
  badLines := []
  nonce := none
  lcReset := false
  avsVersion := none

/-- The state of an instance of build `b` with fuses `f` held in power-on reset: every register at the
reset value of its field table (R406), no memory written, nothing in progress, not yet released (R335). -/
def State.resetOf (b : Build) (f : Fuse) : State where
  build := b
  fuse := f
  pins := { rstPorN := false, rstWarmN := true, pgood := true, clkOk := true, clkReq := true, irqHost := false }
  time :=
    { clk := 0, mhz := b.fmax, ref := 0, frac := 0, lows := [], nextM := 2, nextHot := false, decidedAt := 0 }
  beat := { last := none, coming := [], seenAt := 0, high := none }
  csr := []
  force :=
    { value := [], waiting := [], mirror := [], stageBelfry := Stage.empty, stageHost := Stage.empty,
      commits := [], boundary := [] }
  mem := Mem.empty
  slices := []
  ports := []
  slots := []
  net := Net.empty
  sysport := { txns := [], staged := [], inits := [], shown := none }
  fabric :=
    { tags := [], inbound := [], nextId := 0, outbound := [], knells := [], closeAt := [], shown := none, sent := [] }
  errors := { ring := [], queue := [], first := none, causes := (0, 0) }
  tuner := Tuner.init
  power := Power.init
  boot := Boot.init
  belfry := Belfry.init
  free := 0
  pending := []

/-- The machine right after reset: the default build, no fuse repairs, held in power-on reset. -/
def State.reset : State := State.resetOf Build.default Fuse.default

/-! ### Ways a step can stop -/

/-- Faults. The complex answers every access that it does not perform with a response code, so no command
stops the machine with a fault. -/
inductive Fault where
  /-- Raised by nothing: the spec names no event that stops the complex. Safe. -/
  | machineStopped
  deriving DecidableEq, Repr

/-- Refusals. -/
inductive Refusal where
  /-- A command whose meaning the model does not hold yet. Safe: nothing is claimed of it. -/
  | notModelled (mnemonic : String)
  /-- Raised by every command that names a unit the instance does not have (a slice at or above the
  logical slice count, a port at or above PORTS, a stream slot above 15, ...). Such a command is no event
  of the part. Safe: the model stops where no part has anything to do. -/
  | noSuchUnit
  deriving DecidableEq, Repr

end Sys2Proof.Machine
end

