-- ==== Sys2Proof/Machine/Bits.lean ====
section
/-! DEFINITION. Fields of registers, bytes and words of lines, two's complement, and the two cyclic
redundancy checks that the spec names. -/

namespace Sys2Proof.Machine

/-- The field of width `n` at bit `lo` of a register, as a number (R7). -/
def fld (w : Word) (lo n : Nat) : Nat := (w.extractLsb' lo n).toNat

/-- The bits of a field. -/
def fldMask (lo n : Nat) : Word := (BitVec.ofNat 64 (2 ^ n - 1)) <<< lo

/-- `w` with `v` (modulo the width) in the field of width `n` at bit `lo`. -/
def setFld (w : Word) (lo n v : Nat) : Word :=
  (w &&& ~~~(fldMask lo n)) ||| (BitVec.ofNat 64 (v % 2 ^ n) <<< lo)

/-- Bit `i` of a register. -/
def flag (w : Word) (i : Nat) : Bool := w.getLsbD i

/-- `w` with bit `i` set to `b`. -/
def setFlag (w : Word) (i : Nat) (b : Bool) : Word := setFld w i 1 (if b then 1 else 0)

/-- A number of `n` bits read as two's complement. -/
def sext (n v : Nat) : Int := if v % 2 ^ n < 2 ^ (n - 1) then (v % 2 ^ n : Nat) else (v % 2 ^ n : Nat) - (2 ^ n : Nat)

/-- An integer modulo `2 ^ n`. -/
def wrapTo (n : Nat) (i : Int) : Nat := (i % (2 ^ n : Nat)).toNat

/-- Word `w` of a line. -/
def lineWord (l : Line) (w : Nat) : Word := l.extractLsb' (64 * w) 64

/-- The line made of eight words. -/
def lineOfWords (ws : List Word) : Line :=
  ws.zipIdx.foldl (fun (l : Line) (p : Word × Nat) => l ||| ((p.1.setWidth 512) <<< (64 * p.2))) 0

/-- `l` with word `w` replaced. -/
def setLineWord (l : Line) (w : Nat) (v : Word) : Line :=
  (l &&& ~~~((BitVec.ofNat 512 (2 ^ 64 - 1)) <<< (64 * w))) ||| ((v.setWidth 512) <<< (64 * w))

/-- The eight byte enables of word `w`. -/
def wordBen (b : ByteEn) (w : Nat) : BitVec 8 := b.extractLsb' (8 * w) 8

/-- The bit mask of eight byte enables: bits 8i + 7 to 8i are set when enable i is. -/
def byteMask (b : BitVec 8) : Word :=
  (List.range 8).foldl (fun m i => if b.getLsbD i then m ||| (0xFF#64 <<< (8 * i)) else m) 0

/-- The bytes of `b` enabled by `e` laid over `a`. -/
def layWord (a b : Word) (e : BitVec 8) : Word := (a &&& ~~~(byteMask e)) ||| (b &&& byteMask e)

/-- The bit mask of the byte enables of a line. -/
def lineMask (e : ByteEn) : Line :=
  (List.range 64).foldl (fun m i => if e.getLsbD i then m ||| ((0xFF : BitVec 512) <<< (8 * i)) else m) 0

/-- The bytes of `b` enabled by `e` laid over `a`. -/
def layLine (a b : Line) (e : ByteEn) : Line := (a &&& ~~~(lineMask e)) ||| (b &&& lineMask e)

/-- Bytes of a word, byte 0 first (R7). -/
def wordBytes (w : Word) : List Byte := (List.range 8).map fun i => w.extractLsb' (8 * i) 8

/-- The word of up to eight bytes, byte 0 first. -/
def wordOfBytes (bs : List Byte) : Word :=
  bs.zipIdx.foldl (fun (w : Word) (p : Byte × Nat) => w ||| ((p.1.setWidth 64) <<< (8 * p.2))) 0

/-- How many bits of a 64-bit mask are set. -/
def popCount (w : BitVec 64) : Nat := (List.range 64).foldl (fun n i => if w.getLsbD i then n + 1 else n) 0

/-- The positions of the set bits of a mask, ascending. -/
def bitsOf (w : BitVec 64) : List Nat := (List.range 64).filter fun i => w.getLsbD i

/-- The mask with the listed bits set. -/
def maskOf (l : List Nat) : BitVec 64 := l.foldl (fun m i => m ||| (1#64 <<< i)) 0

/-- One bit of CRC-32C in its reflected form: polynomial 0x1EDC_6F41 (R293). -/
def crc32cBit (c : BitVec 32) : BitVec 32 :=
  if c.getLsbD 0 then (c >>> 1) ^^^ 0x82F63B78#32 else c >>> 1

/-- One byte through the reflected register. -/
def crc32cByte (c : BitVec 32) (b : Byte) : BitVec 32 :=
  let c := c ^^^ b.setWidth 32
  crc32cBit (crc32cBit (crc32cBit (crc32cBit (crc32cBit (crc32cBit (crc32cBit (crc32cBit c)))))))

/-- CRC-32C with initial value 0xFFFF_FFFF and final exclusive OR 0xFFFF_FFFF (R293). -/
def crc32c (bs : List Byte) : BitVec 32 := (bs.foldl crc32cByte 0xFFFFFFFF#32) ^^^ 0xFFFFFFFF#32

/-- The register with zero bytes passed through it. -/
def crcZeros (c : BitVec 32) : Nat → BitVec 32
  | 0 => c
  | n + 1 => crcZeros (crc32cByte c 0) n

/-- What a change of `delta` in one 8-byte register, followed by `after` bytes, adds (exclusive OR) to the
CRC-32C of a region, by its linearity (R294). -/
def crcDelta (delta : Word) (after : Nat) : BitVec 32 :=
  crcZeros ((wordBytes delta).foldl crc32cByte 0) after

/-- One bit of the identity frame's check: generator x¹⁶ + x¹² + x⁵ + 1 (R106). -/
def crc16Bit (c : BitVec 16) (b : Bool) : BitVec 16 :=
  if xor (c.getLsbD 15) b then (c <<< 1) ^^^ 0x1021#16 else c <<< 1

/-- The check value of an identity word: initial value 0xFFFF, bit 0 first, no final inversion (R106). -/
def crc16 (id : BitVec 128) : BitVec 16 :=
  (List.range 128).foldl (fun c i => crc16Bit c (id.getLsbD i)) 0xFFFF#16

/-- The first element of a list that a test accepts, with its position. -/
def findAt {α : Type} (p : α → Bool) : List α → Nat → Option (Nat × α)
  | [], _ => none
  | a :: t, i => if p a then some (i, a) else findAt p t (i + 1)

/-- `l` without its element `i`. -/
def dropAt {α : Type} : List α → Nat → List α
  | [], _ => []
  | _ :: t, 0 => t
  | a :: t, i + 1 => a :: dropAt t i

/-- `l` with its element `i` replaced. -/
def setAt {α : Type} : List α → Nat → α → List α
  | [], _, _ => []
  | _ :: t, 0, b => b :: t
  | a :: t, i + 1, b => a :: setAt t i b

end Sys2Proof.Machine
end

