-- ==== Sys2Proof/Machine/Regs.lean ====
section
/-! DEFINITION. The register map (R405 to R410): where every register lies, which of its bits each access
type and update class covers (R9, R10), and its reset value. The rows are the field tables of the
chapters; a range of indices is one row. -/

namespace Sys2Proof.Machine

/-- The bits of a register by access type and update class: `rw` RW fields of class B, K or L, `s` RW
fields of class S, `b` and `k` the parts of `rw` of class B and K, `w1c`, `w1s` and `wo` the fields of those
access types. A bit in none of them is read-only or reserved. -/
structure RegMasks where
  rw : Word
  s : Word
  b : Word
  k : Word
  w1c : Word
  w1s : Word
  wo : Word
  deriving DecidableEq, Repr

/-- A row of the map: `count` registers from `base` on, `stride` bytes apart. -/
structure RegRow where
  base : Nat
  count : Nat
  stride : Nat
  masks : RegMasks
  reset : Word
  deriving DecidableEq, Repr

/-- The masks of an address at which no register is defined. -/
def RegMasks.none : RegMasks := { rw := 0, s := 0, b := 0, k := 0, w1c := 0, w1s := 0, wo := 0 }

/-- Registers of the global regions, by CSR address (R409) (part 0). -/
def globalRegs0 : List RegRow := [
  -- GLB_BEAT (R23)
  ⟨0x20, 1, 8, ⟨0x0, 0x0, 0x0, 0x0, 0x7000000000000, 0x0, 0x0⟩, 0x0⟩,
  -- GLB_IRQ_CAUSE (R408)
  ⟨0x28, 1, 8, ⟨0x0, 0x0, 0x0, 0x0, 0x3FF, 0x0, 0x0⟩, 0x0⟩,
  -- GLB_IRQ_MASK (R408)
  ⟨0x30, 1, 8, ⟨0x3FF, 0x0, 0x0, 0x0, 0x0, 0x0, 0x0⟩, 0x0⟩,
  -- GLB_STATE (R357)
  ⟨0x18, 1, 8, ⟨0x0, 0x0, 0x0, 0x0, 0x0, 0x0, 0x0⟩, 0x0⟩,
  -- GLB_MAINT (R65)
  ⟨0x38, 1, 8, ⟨0x33, 0x0, 0x3, 0x0, 0x80, 0x0, 0x0⟩, 0x8⟩,
  -- GLB_PEAL (R160)
  ⟨0x40, 1, 8, ⟨0x0, 0x3FFFF, 0x0, 0x0, 0x0, 0x0, 0x0⟩, 0x0⟩,
  -- GLB_PEAL_SKIP (R160)
  ⟨0x48, 1, 8, ⟨0x0, 0x0, 0x0, 0x0, 0xFFFFFFFFFFFFFFFF, 0x0, 0x0⟩, 0x0⟩,
  -- CTX_E0_c (R120)
  ⟨0x10000, 64, 16, ⟨0xFF00000000, 0xFFFFFFFF, 0x0, 0x1C00000000, 0x0, 0x0, 0x0⟩, 0x0⟩,
  -- CTX_E1_c (R120)
  ⟨0x10008, 64, 16, ⟨0x0, 0x0, 0x0, 0x0, 0x0, 0x0, 0x100000000⟩, 0x0⟩,
  -- CTX_KILL (R361)
  ⟨0x10800, 1, 8, ⟨0x0, 0x0, 0x0, 0x0, 0x0, 0xFFFFFFFFFFFFFFFF, 0x0⟩, 0x0⟩,
  -- CTX_SOLO (R361)
  ⟨0x10808, 1, 8, ⟨0x7F, 0x0, 0x0, 0x0, 0x0, 0x0, 0x0⟩, 0x0⟩,
  -- CTX_KILLST (R361)
  ⟨0x10810, 1, 8, ⟨0x0, 0x0, 0x0, 0x0, 0x80, 0x0, 0x0⟩, 0x0⟩,
  -- CTX_SOLOP (R361)
  ⟨0x10818, 1, 8, ⟨0x0, 0x0, 0x0, 0x0, 0x0, 0x0, 0x0⟩, 0x0⟩,
  -- CTX_PROGRESS_c (R362)
  ⟨0x10C00, 64, 8, ⟨0x0, 0x0, 0x0, 0x0, 0x0, 0x0, 0x0⟩, 0x0⟩,
  -- QOS_SHARE_c (R156)
  ⟨0x20000, 8, 8, ⟨0x1FF7F7FFF7F7F, 0x0, 0x1FF7F7FFF7F7F, 0x0, 0x0, 0x0, 0x0⟩, 0x0⟩,
  -- QOS_LTHR_c (R157)
  ⟨0x20040, 8, 8, ⟨0xFFFF, 0x0, 0x0, 0x0, 0x0, 0x0, 0x0⟩, 0xFFFF⟩,
  -- QOS_GRP_g (R158)
  ⟨0x20080, 16, 16, ⟨0x0, 0xFFFFFFFFFFFFFFFF, 0x0, 0x0, 0x0, 0x0, 0x0⟩, 0x0⟩,
  -- QOS_GRPA_g (R158)
  ⟨0x20088, 16, 16, ⟨0x0, 0xFFFF1F3F, 0x0, 0x0, 0x0, 0x0, 0x0⟩, 0xFFFF1000⟩,
  -- QOS_LFLAG_s (R159)
  ⟨0x20200, 64, 8, ⟨0x0, 0x0, 0x0, 0x0, 0xFF, 0x0, 0x0⟩, 0x0⟩,
  -- QOS_HWM_s_c (R159)
  ⟨0x21000, 512, 8, ⟨0xFFFFFFFF, 0x0, 0x0, 0x0, 0x0, 0x0, 0x0⟩, 0x0⟩]

/-- Registers of the global regions, by CSR address (R409) (part 1). -/
def globalRegs1 : List RegRow := [
  -- SYSWIN_BASE_i (R126)
  ⟨0x30000, 16, 32, ⟨0x1, 0xFFFFFFFFF000, 0x0, 0x0, 0x0, 0x0, 0x0⟩, 0x0⟩,
  -- SYSWIN_SIZE_i (R126)
  ⟨0x30008, 16, 32, ⟨0x0, 0xFFFFFFFFF000, 0x0, 0x0, 0x0, 0x0, 0x0⟩, 0x0⟩,
  -- SYSWIN_TGT_i (R126)
  ⟨0x30010, 16, 32, ⟨0x0, 0x3FFFFFFF, 0x0, 0x0, 0x0, 0x0, 0x0⟩, 0x0⟩,
  -- SYSWIN_ATTR_i (R126)
  ⟨0x30018, 16, 32, ⟨0x0, 0x1FFF, 0x0, 0x0, 0x0, 0x0, 0x0⟩, 0xFC⟩,
  -- CHIP_ID (R379)
  ⟨0x30200, 1, 8, ⟨0x0, 0xFFFF, 0x0, 0x0, 0x0, 0x0, 0x0⟩, 0x0⟩,
  -- FP_KNELL (R379)
  ⟨0x30208, 1, 8, ⟨0xFFFFFFFF, 0x0, 0x0, 0x0, 0x0, 0x0, 0x100000000⟩, 0x0⟩,
  -- FP_STAT (R379)
  ⟨0x30210, 1, 8, ⟨0x0, 0x0, 0x0, 0x0, 0x0, 0x0, 0x0⟩, 0x0⟩,
  -- FP_KNLAST (R379)
  ⟨0x30218, 1, 8, ⟨0x0, 0x0, 0x0, 0x0, 0x8000000000000, 0x0, 0x0⟩, 0x0⟩,
  -- FP_TAGQ (R380)
  ⟨0x30220, 1, 8, ⟨0xFF3F, 0x0, 0x0, 0x0, 0x0, 0x0, 0x0⟩, 0x0⟩,
  -- FP_TAGV (R380)
  ⟨0x30228, 1, 8, ⟨0x0, 0x0, 0x0, 0x0, 0x0, 0x0, 0x0⟩, 0x0⟩,
  -- CHWIN_SRC_w (R381)
  ⟨0x30400, 64, 32, ⟨0x0, 0xFFFFFFFF, 0x0, 0x0, 0x0, 0x0, 0x0⟩, 0x0⟩,
  -- CHWIN_JOB_w (R381)
  ⟨0x30408, 64, 32, ⟨0x0, 0x1FFFFFFFFFF, 0x0, 0x0, 0x0, 0x0, 0x0⟩, 0x0⟩,
  -- CHWIN_TGT_w (R381)
  ⟨0x30410, 64, 32, ⟨0x0, 0x3FFFFFFFFFFFFFFF, 0x0, 0x0, 0x0, 0x0, 0x0⟩, 0x0⟩,
  -- CHWIN_CTL_w (R381)
  ⟨0x30418, 64, 32, ⟨0x0, 0xFFFFFFFF0001FFFF, 0x0, 0x0, 0x0, 0x0, 0x180000⟩, 0x1000000000000⟩,
  -- CHWIN_STAT_w (R382)
  ⟨0x30C00, 64, 8, ⟨0x0, 0x0, 0x0, 0x0, 0x0, 0x0, 0x0⟩, 0x0⟩,
  -- HTAB_E0_h (R114)
  ⟨0x40000, 4096, 32, ⟨0x1FFFFFF0003FFFF, 0x0, 0x0, 0x1FFFFFF0003FFFF, 0x0, 0x0, 0x0⟩, 0x0⟩,
  -- HTAB_E1_h (R114)
  ⟨0x40008, 4096, 32, ⟨0xFFFFFFFF00FFFFFF, 0x0, 0x0, 0xFFFFFFFF00FFFFFF, 0x0, 0x0, 0x0⟩, 0x0⟩,
  -- HTAB_E2_h (R114)
  ⟨0x40010, 4096, 32, ⟨0xFFFFFFFFFFFFFFFF, 0x0, 0x0, 0xFFFFFFFFFFFFFFFF, 0x0, 0x0, 0x0⟩, 0x0⟩,
  -- HTAB_E3_h (R114)
  ⟨0x40018, 4096, 32, ⟨0x1FFFFFF01FFFFFF, 0x0, 0x0, 0x1FFFFFF01FFFFFF, 0x0, 0x0, 0x0⟩, 0x0⟩,
  -- PWR_REQ (R327)
  ⟨0x60000, 2, 8, ⟨0xFFFFFFFFFFFFFFFF, 0x0, 0x0, 0x0, 0x0, 0x0, 0x0⟩, 0x0⟩]

/-- Registers of the global regions, by CSR address (R409) (part 2). -/
def globalRegs2 : List RegRow := [
  -- PWR_STATE (R327)
  ⟨0x60010, 2, 8, ⟨0x0, 0x0, 0x0, 0x0, 0x0, 0x0, 0x0⟩, 0x0⟩,
  -- PWR_CPLX (R328)
  ⟨0x60020, 1, 8, ⟨0x3, 0x0, 0x0, 0x0, 0x0, 0x0, 0x0⟩, 0x0⟩,
  -- PWR_TAP (R329)
  ⟨0x60028, 1, 8, ⟨0x0, 0x7FFFFFFFFF, 0x0, 0x0, 0x0, 0x0, 0x0⟩, 0x3200A003E8⟩,
  -- PWR_THR (R329)
  ⟨0x60030, 1, 8, ⟨0xFFFF, 0x0, 0x0, 0x0, 0x0, 0x0, 0x0⟩, 0x164⟩,
  -- PWR_TMO (R330)
  ⟨0x60038, 1, 8, ⟨0xFFFFFFFFFFFFFFFF, 0x0, 0x0, 0x0, 0x0, 0x0, 0x0⟩, 0xA0032006403E8⟩,
  -- PWR_AVS (R331)
  ⟨0x60040, 1, 8, ⟨0x0, 0xFFFFFFFF, 0x0, 0x0, 0x0, 0x0, 0x0⟩, 0x1F40510⟩,
  -- PWR_VREQ (R332)
  ⟨0x60048, 1, 8, ⟨0x1FFFF, 0x0, 0x0, 0x0, 0x0, 0x0, 0x420000⟩, 0x0⟩,
  -- PWR_STAT (R333)
  ⟨0x60050, 1, 8, ⟨0x0, 0x0, 0x0, 0x0, 0xC01, 0x0, 0x0⟩, 0x0⟩,
  -- PWR_LAST (R333)
  ⟨0x60058, 1, 8, ⟨0x0, 0x0, 0x0, 0x0, 0x0, 0x0, 0x0⟩, 0x0⟩,
  -- PWR_REFCNT_c (R334)
  ⟨0x60080, 6, 8, ⟨0x0, 0x0, 0x0, 0x0, 0x0, 0x0, 0x0⟩, 0x0⟩,
  -- PWR_ABTCNT_k (R334)
  ⟨0x600C0, 4, 8, ⟨0x0, 0x0, 0x0, 0x0, 0x0, 0x0, 0x0⟩, 0x0⟩,
  -- ERR_CFG (R301)
  ⟨0x70000, 1, 8, ⟨0xFF, 0x0, 0x0, 0x0, 0x0, 0x0, 0x0⟩, 0xA5⟩,
  -- ERR_STAT (R302)
  ⟨0x70008, 1, 8, ⟨0xFFFFFFFF, 0x0, 0x0, 0x0, 0x100000000, 0x0, 0x400000000⟩, 0x0⟩,
  -- ERR_HEAD (R302)
  ⟨0x70010, 1, 8, ⟨0x0, 0x0, 0x0, 0x0, 0x0, 0x0, 0x0⟩, 0x0⟩,
  -- ERR_RD (R302)
  ⟨0x70018, 1, 8, ⟨0x3FF, 0x0, 0x0, 0x0, 0x0, 0x0, 0x0⟩, 0x0⟩,
  -- ERR_REC_w (R303)
  ⟨0x70020, 4, 8, ⟨0x0, 0x0, 0x0, 0x0, 0x0, 0x0, 0x0⟩, 0x0⟩,
  -- ERR_FIRST_w (R303)
  ⟨0x70040, 4, 8, ⟨0x0, 0x0, 0x0, 0x0, 0x0, 0x0, 0x0⟩, 0x0⟩,
  -- TUNER_CTL (R306)
  ⟨0x80000, 1, 8, ⟨0x3FFF, 0x0, 0x3E, 0x0, 0x0, 0x0, 0x0⟩, 0x323⟩,
  -- TUNER_STAT (R306)
  ⟨0x80008, 1, 8, ⟨0x0, 0x0, 0x0, 0x0, 0xA, 0x0, 0x0⟩, 0x0⟩,
  -- TUNER_GIDX (R306)
  ⟨0x80010, 1, 8, ⟨0x3F0F, 0x0, 0x0, 0x0, 0x0, 0x0, 0x0⟩, 0x0⟩]

/-- Registers of the global regions, by CSR address (R409) (part 3). -/
def globalRegs3 : List RegRow := [
  -- TUNER_GVAL (R306)
  ⟨0x80018, 1, 8, ⟨0x0, 0x0, 0x0, 0x0, 0x0, 0x0, 0x0⟩, 0x0⟩,
  -- TUNER_CHAL_w (R308)
  ⟨0x80040, 8, 8, ⟨0xFFFFFFFFFFFFFFFF, 0x0, 0x0, 0x0, 0x0, 0x0, 0x0⟩, 0x0⟩,
  -- TUNER_CHEXP (R308)
  ⟨0x80080, 1, 8, ⟨0xFFFFFFFF, 0x0, 0x0, 0x0, 0x0, 0x0, 0x100000000⟩, 0x0⟩,
  -- TUNER_CHRSP (R308)
  ⟨0x80088, 1, 8, ⟨0x0, 0x0, 0x0, 0x0, 0x0, 0x0, 0x0⟩, 0x0⟩,
  -- TUNER_REGION_r (R307)
  ⟨0x80100, 11, 8, ⟨0x3F01, 0x0, 0x0, 0x0, 0x0, 0x0, 0x18⟩, 0x1⟩,
  -- MBOX_CMD (R402)
  ⟨0x90000, 1, 8, ⟨0xFFFF001FFFFF, 0x0, 0x0, 0x0, 0x0, 0x0, 0x200000⟩, 0x0⟩,
  -- MBOX_STAT (R402)
  ⟨0x90008, 1, 8, ⟨0x0, 0x0, 0x0, 0x0, 0x6, 0x0, 0x0⟩, 0x0⟩,
  -- MBOX_IE (R402)
  ⟨0x90010, 1, 8, ⟨0x1, 0x0, 0x0, 0x0, 0x0, 0x0, 0x0⟩, 0x0⟩,
  -- MBOX_LOG (R402)
  ⟨0x90018, 1, 8, ⟨0x0, 0x0, 0x0, 0x0, 0x0, 0x0, 0x0⟩, 0x0⟩,
  -- MBOX_ARG_w (R403)
  ⟨0x91000, 512, 8, ⟨0xFFFFFFFFFFFFFFFF, 0x0, 0x0, 0x0, 0x0, 0x0, 0x0⟩, 0x0⟩,
  -- BOOT_STAT (R358)
  ⟨0xA0000, 1, 8, ⟨0x0, 0x0, 0x0, 0x0, 0x0, 0x0, 0x0⟩, 0x0⟩,
  -- BOOT_SLDIS (R358)
  ⟨0xA0008, 1, 8, ⟨0x0, 0x0, 0x0, 0x0, 0x0, 0x0, 0x0⟩, 0x0⟩,
  -- BOOT_FAIL (R358)
  ⟨0xA0010, 1, 8, ⟨0x0, 0x0, 0x0, 0x0, 0x0, 0x0, 0x0⟩, 0x0⟩,
  -- BOOT_REPA_k (R359)
  ⟨0xA0100, 11, 16, ⟨0x0, 0x0, 0x0, 0x0, 0x0, 0x0, 0x0⟩, 0x0⟩,
  -- BOOT_REPB_k (R359)
  ⟨0xA0108, 11, 16, ⟨0x0, 0x0, 0x0, 0x0, 0x0, 0x0, 0x0⟩, 0x0⟩,
  -- BOOT_RESET (R360)
  ⟨0xA0200, 1, 8, ⟨0x3FF07, 0x0, 0x0, 0x0, 0x0, 0x0, 0x8⟩, 0x0⟩,
  -- BOOT_DRAIN (R360)
  ⟨0xA0208, 1, 8, ⟨0xFFFFFFFF, 0x0, 0x0, 0x0, 0x0, 0x0, 0x0⟩, 0x10000⟩]

/-- Registers of the global regions, by CSR address (R409). -/
def globalRegs : List RegRow := globalRegs0 ++ globalRegs1 ++ globalRegs2 ++ globalRegs3

/-- Registers of a slice window, by offset (R410) (part 0). -/
def sliceRegs0 : List RegRow := [
  -- RHY_CTRL (R87)
  ⟨0x0, 1, 8, ⟨0xFFFF0006, 0x0, 0xFFFF0002, 0x0, 0x10, 0x0, 0x0⟩, 0x0⟩,
  -- RHY_SWITCH (R88)
  ⟨0x8, 1, 8, ⟨0xFFFFFFFFFFFF, 0x0, 0x0, 0x0, 0x0, 0x0, 0x0⟩, 0x0⟩,
  -- RHY_STATUS (R89)
  ⟨0x10, 1, 8, ⟨0x0, 0x0, 0x0, 0x0, 0x0, 0x0, 0x0⟩, 0x0⟩,
  -- RHY_PFENCE (R90)
  ⟨0x18, 1, 8, ⟨0xFFFF, 0x0, 0x0, 0x0, 0x0, 0x0, 0x0⟩, 0x0⟩,
  -- RHY_BFENCE (R91)
  ⟨0x20, 1, 8, ⟨0x0, 0x0, 0x0, 0x0, 0x0, 0x0, 0x0⟩, 0x0⟩,
  -- RHY_STALL_i (R92)
  ⟨0x40, 6, 8, ⟨0x0, 0x0, 0x0, 0x0, 0x0, 0x0, 0x0⟩, 0x0⟩,
  -- RHY_PSTALL_p (R92)
  ⟨0x80, 16, 8, ⟨0x0, 0x0, 0x0, 0x0, 0x0, 0x0, 0x0⟩, 0x0⟩,
  -- RHY_A_p (R93)
  ⟨0x100, 32, 8, ⟨0x0, 0xFFFFFFFFFF, 0x0, 0x0, 0x0, 0x0, 0x0⟩, 0xFFFFFFFFFF⟩,
  -- RHY_B_p (R93)
  ⟨0x200, 32, 8, ⟨0x0, 0xFFFFFFFFFF, 0x0, 0x0, 0x0, 0x0, 0x0⟩, 0xFFFFFFFFFF⟩,
  -- OWN_b (R127)
  ⟨0x400, 64, 8, ⟨0x0, 0x0, 0x0, 0x0, 0x0, 0x0, 0x0⟩, 0x3F⟩,
  -- OWN_XFER_MASK (R128)
  ⟨0x600, 1, 8, ⟨0xFFFFFFFFFFFFFFFF, 0x0, 0x0, 0x0, 0x0, 0x0, 0x0⟩, 0x0⟩,
  -- OWN_XFER (R128)
  ⟨0x608, 1, 8, ⟨0x7F, 0x0, 0x0, 0x0, 0x0, 0x0, 0x80⟩, 0x0⟩,
  -- SE_SLOT_PC_j (R188)
  ⟨0x1000, 16, 64, ⟨0x0, 0x7FFFFFF00000000, 0x0, 0x0, 0x0, 0x0, 0x0⟩, 0x0⟩,
  -- SE_SLOT_CTL_j (R189)
  ⟨0x1008, 16, 64, ⟨0x0, 0xFFFFFFFFF3FFC0, 0x0, 0x0, 0x0, 0x0, 0x38⟩, 0x3F00⟩,
  -- SE_SLOT_ARM_j (R190)
  ⟨0x1010, 16, 64, ⟨0x0, 0xFFFFFFFFFFFF, 0x0, 0x0, 0x0, 0x0, 0x0⟩, 0x0⟩,
  -- SE_SLOT_BEAT0_j (R190)
  ⟨0x1018, 16, 64, ⟨0x0, 0x0, 0x0, 0x0, 0x0, 0x0, 0x0⟩, 0x0⟩,
  -- SE_SLOT_LOOP_j (R191)
  ⟨0x1020, 16, 64, ⟨0x0, 0xFFFFFFFFFFFFFFFF, 0x0, 0x0, 0x0, 0x0, 0x0⟩, 0x0⟩,
  -- SE_SLOT_POS_j (R192)
  ⟨0x1028, 16, 64, ⟨0x0, 0xFFFFFF0000FFFF, 0x0, 0x0, 0x0, 0x0, 0x0⟩, 0x0⟩,
  -- SE_SLOT_SHED_j (R192)
  ⟨0x1030, 16, 64, ⟨0x0, 0xFFFFFFFFFFFFFFFF, 0x0, 0x0, 0x0, 0x0, 0x0⟩, 0x0⟩,
  -- SE_SLOT_DL_j (R193)
  ⟨0x1038, 16, 64, ⟨0x0, 0x0, 0x0, 0x0, 0x0, 0x0, 0x0⟩, 0x0⟩]

/-- Registers of a slice window, by offset (R410) (part 1). -/
def sliceRegs1 : List RegRow := [
  -- SE_HREG_j_n (R194)
  ⟨0x1400, 128, 8, ⟨0x0, 0x1FFFFFF0FFF, 0x0, 0x0, 0x0, 0x0, 0x0⟩, 0x0⟩,
  -- SE_SREG_j_n (R194)
  ⟨0x1800, 128, 8, ⟨0x0, 0xFFFFFFFFFFFFFFFF, 0x0, 0x0, 0x0, 0x0, 0x0⟩, 0x0⟩,
  -- SE_STAT (R195)
  ⟨0x1C00, 1, 8, ⟨0x0, 0x0, 0x0, 0x0, 0xFFFF, 0x0, 0x0⟩, 0x1008000000000⟩,
  -- SE_IE (R195)
  ⟨0x1C08, 1, 8, ⟨0xFFFFFFFF, 0x0, 0x0, 0x0, 0x0, 0x0, 0x0⟩, 0x0⟩,
  -- SE_MIE (R220)
  ⟨0x1C10, 1, 8, ⟨0xFFFF, 0x0, 0x0, 0x0, 0x0, 0x0, 0x0⟩, 0x0⟩,
  -- SE_MISSB_j (R221)
  ⟨0x1C80, 16, 8, ⟨0x0, 0x0, 0x0, 0x0, 0x0, 0x0, 0x0⟩, 0x0⟩,
  -- SE_MISS_j (R222)
  ⟨0x1D00, 16, 8, ⟨0x0, 0x0, 0x0, 0x0, 0x20000000000, 0x0, 0x0⟩, 0x0⟩,
  -- SE_FADDR_j (R223)
  ⟨0x1D80, 16, 8, ⟨0x0, 0x0, 0x0, 0x0, 0x0, 0x0, 0x0⟩, 0x0⟩,
  -- SEM_PAIR_n (R275)
  ⟨0x2000, 256, 8, ⟨0x3F00FFFFFFFF, 0x0, 0x0, 0x0, 0x100000000, 0x0, 0x0⟩, 0x3F0000000000⟩,
  -- SEM_OP (R276)
  ⟨0x2800, 1, 8, ⟨0x0, 0x0, 0x0, 0x0, 0x0, 0x0, 0xFFFF03FF⟩, 0x0⟩,
  -- SEM_LAST (R277)
  ⟨0x2808, 1, 8, ⟨0x0, 0x0, 0x0, 0x0, 0x0, 0x0, 0x0⟩, 0x0⟩,
  -- SEM_RGSTAT (R278)
  ⟨0x2810, 1, 8, ⟨0x0, 0x0, 0x0, 0x0, 0x1, 0x0, 0x0⟩, 0x0⟩,
  -- SEM_RG_i (R279)
  ⟨0x2C00, 32, 8, ⟨0x0, 0x0, 0x0, 0x0, 0x0, 0x0, 0x0⟩, 0x0⟩,
  -- STRK_ACC (R251)
  ⟨0x3000, 1, 8, ⟨0x0, 0x0, 0x0, 0x0, 0x0, 0x0, 0x0⟩, 0x0⟩,
  -- STRK_SAT (R252)
  ⟨0x3008, 1, 8, ⟨0x0, 0x0, 0x0, 0x0, 0x0, 0x0, 0x0⟩, 0x0⟩,
  -- STRK_NAN (R252)
  ⟨0x3010, 1, 8, ⟨0x0, 0x0, 0x0, 0x0, 0x0, 0x0, 0x0⟩, 0x0⟩,
  -- STRK_ACCDUP (R252)
  ⟨0x3018, 1, 8, ⟨0x0, 0x0, 0x0, 0x0, 0x0, 0x0, 0x0⟩, 0x0⟩,
  -- STRK_LINES (R252)
  ⟨0x3020, 1, 8, ⟨0x0, 0x0, 0x0, 0x0, 0x0, 0x0, 0x0⟩, 0x0⟩,
  -- STRK_SEED_b (R253)
  ⟨0x3100, 64, 8, ⟨0xFFFF, 0x0, 0x0, 0x0, 0x0, 0x0, 0x0⟩, 0x10001⟩,
  -- SCRUB_PATROL (R305)
  ⟨0x4000, 1, 8, ⟨0x1F, 0x0, 0xF, 0x0, 0x0, 0x0, 0x0⟩, 0x6⟩]

/-- Registers of a slice window, by offset (R410) (part 2). -/
def sliceRegs2 : List RegRow := [
  -- SCRUB_CTL (R305)
  ⟨0x4008, 1, 8, ⟨0x0, 0x1FFFFFFFFF, 0x0, 0x0, 0x0, 0x0, 0x6000000000⟩, 0x0⟩,
  -- SCRUB_SUM_w (R305)
  ⟨0x4040, 8, 8, ⟨0x0, 0x0, 0x0, 0x0, 0x0, 0x0, 0x0⟩, 0x0⟩,
  -- ECC_RETIRE (R66)
  ⟨0x5000, 1, 8, ⟨0x0, 0x0, 0x0, 0x0, 0x80, 0x0, 0x40⟩, 0x0⟩,
  -- ECC_CFG (R304)
  ⟨0x5008, 1, 8, ⟨0x1FF, 0x0, 0x0, 0x0, 0x0, 0x0, 0x0⟩, 0x183⟩,
  -- ECC_CNT_i (R304)
  ⟨0x5040, 11, 8, ⟨0x0, 0x0, 0x0, 0x0, 0x0, 0x0, 0x0⟩, 0x0⟩,
  -- ECC_SPARE_b (R67)
  ⟨0x5400, 64, 8, ⟨0x0, 0x0, 0x0, 0x0, 0x0, 0x0, 0x0⟩, 0x8888⟩,
  -- ECC_BADLINE_i (R68)
  ⟨0x5800, 64, 8, ⟨0x0, 0x0, 0x0, 0x0, 0x0, 0x0, 0x0⟩, 0x0⟩,
  -- MESH_POS (R154)
  ⟨0x6000, 1, 8, ⟨0x0, 0x0, 0x0, 0x0, 0x0, 0x0, 0x0⟩, 0x0⟩,
  -- MESH_LINK_d (R155)
  ⟨0x6008, 6, 8, ⟨0x0, 0x0, 0x0, 0x0, 0x0, 0x0, 0x0⟩, 0x0⟩,
  -- MESH_BREAK (R155)
  ⟨0x6040, 1, 8, ⟨0x0, 0x0, 0x0, 0x0, 0x0, 0x0, 0x0⟩, 0x0⟩,
  -- MESH_SHED (R155)
  ⟨0x6048, 1, 8, ⟨0x0, 0x0, 0x0, 0x0, 0x0, 0x0, 0x0⟩, 0x0⟩,
  -- PORT_CFG_p (R109)
  ⟨0x7000, 16, 8, ⟨0x0, 0x33F, 0x0, 0x0, 0x0, 0x0, 0x0⟩, 0x33F⟩,
  -- PORT_STAT_p (R110)
  ⟨0x7080, 16, 8, ⟨0x0, 0x0, 0x0, 0x0, 0x0, 0x0, 0x0⟩, 0x0⟩,
  -- PORT_RC (R111)
  ⟨0x7100, 1, 8, ⟨0x0, 0x0, 0x0, 0x0, 0x0, 0x0, 0x1⟩, 0x0⟩,
  -- PORT_IDLO_p (R112)
  ⟨0x7200, 16, 16, ⟨0x0, 0x0, 0x0, 0x0, 0x0, 0x0, 0x0⟩, 0x0⟩,
  -- PORT_IDHI_p (R112)
  ⟨0x7208, 16, 16, ⟨0x0, 0x0, 0x0, 0x0, 0x0, 0x0, 0x0⟩, 0x0⟩,
  -- SENS_TEMP (R404)
  ⟨0x8000, 1, 8, ⟨0x3FF0000, 0x0, 0x0, 0x0, 0x800, 0x0, 0x0⟩, 0x0⟩,
  -- SENS_DROOP (R404)
  ⟨0x8008, 1, 8, ⟨0xFF, 0x0, 0x0, 0x0, 0x1000000000000, 0x0, 0x0⟩, 0x28⟩]

/-- Registers of a slice window, by offset (R410). -/
def sliceRegs : List RegRow := sliceRegs0 ++ sliceRegs1 ++ sliceRegs2

/-- The row covers address `a`. -/
def RegRow.covers (r : RegRow) (a : Nat) : Bool :=
  decide (r.base ≤ a) && decide (a < r.base + r.count * r.stride) && decide ((a - r.base) % r.stride = 0)

/-- The row of a list that covers an address. -/
def findRow : List RegRow → Nat → Option RegRow
  | [], _ => none
  | r :: t, a => if r.covers a then some r else findRow t a

/-! ### Addresses -/

/-- The CSR address of the register at offset `off` of the window of slice `sl` (R405). -/
abbrev sliceAddr (sl off : Nat) : Nat := 0x100000 + sl * 0x10000 + off

/-- The slice window that a CSR address lies in, with the offset. -/
def sliceOf (a : Nat) : Option (Nat × Nat) :=
  if 0x100000 ≤ a ∧ a < 0x500000 then some ((a - 0x100000) / 0x10000, (a - 0x100000) % 0x10000) else none

/-- The row of the map for a CSR address. -/
def rowOf (a : Nat) : Option RegRow :=
  match sliceOf a with
  | some (_, off) => findRow sliceRegs off
  | none => findRow globalRegs a

/-- The masks of a CSR address. -/
def masksOf (a : Nat) : RegMasks :=
  match rowOf a with
  | some r => r.masks
  | none => RegMasks.none

/-! ### Reset values -/

/-- GLB_ID (R29). -/
def Build.glbId (b : Build) : Word := setFld 0x010109177E1D#64 48 16 b.inst

/-- GLB_BUILD0 with `n` logical slices in `q` partitions (R30). -/
def Build.build0 (b : Build) (n q : Nat) : Word :=
  let w := setFld (setFld 0 0 7 n) 7 1 (if b.gcell then 1 else 0)
  let w := setFld (setFld (setFld w 8 7 b.slices) 16 4 b.meshX) 20 4 b.meshY
  let w := setFld (setFld (setFld w 24 5 b.ports) 32 5 q) 40 7 b.chipwin
  setFld (setFld w 48 12 b.fmax) 60 2 b.refclk

/-- GLB_BUILD1 (R31, R32). -/
def Build.build1 (b : Build) : Word :=
  (List.range b.ports).foldl (fun w p =>
    setFld (setFld w (4 * p) 2 (b.widths.getD p 0)) (4 * p + 2) 2 (b.ratios.getD p 0)) 0

/-- Reset of RHY_A_p and RHY_B_p (R410): lane 0 of phase 0, lane 1 of phase 4, ... read 21, others 31. -/
def rhyReset (p : Nat) : Word :=
  if p % 4 = 0 then 0xFFFFFFFFFF#64 - BitVec.ofNat 64 (10 * 2 ^ (5 * (p / 4))) else 0xFFFFFFFFFF#64

/-- MESH_POS of physical slice `n` (R26, R154). -/
def Build.meshPos (b : Build) (n : Nat) : Nat × Nat := (n % b.meshX, n / b.meshX)

/-- Reset values that depend on the build or the index, by offset of a slice window. -/
def Build.sliceReset (b : Build) (off : Nat) : Option Word :=
  if 0x100 ≤ off ∧ off < 0x300 then some (rhyReset (off / 8 % 32))
  else if 0x3100 ≤ off ∧ off < 0x3300 then
    some (BitVec.ofNat 64 (((off - 0x3100) / 8 + 1) * 0x10001))
  else if off = 0x4000 then some (if b.gcell then 0xF else 0x6)
  else if 0x7000 ≤ off ∧ off < 0x7080 then
    some (if (off - 0x7000) / 8 < b.ports then 0x33F else 0)
  else none

/-- Reset values that depend on the build or the index, by CSR address. -/
def Build.globalReset (b : Build) (a : Nat) : Option Word :=
  if a = 0x0 then some b.glbId
  else if a = 0x8 then some (b.build0 b.slices b.parts)
  else if a = 0x10 then some b.build1
  else if a = 0x38 then some (if b.gcell then 0x28 else 0x08)
  else if a = 0x10000 ∨ a = 0x103F0 then some 0x100000000#64
  else if a = 0x103F8 then some (setFld 0 48 13 (64 * b.slices))
  else if a = 0x30000 then some 0x1
  else if a = 0x30008 then some 0x800000
  else if a = 0x30018 then some 0x18FC
  else if a = 0x60028 then some (if b.gcell then 0x3200A00032#64 else 0x3200A003E8#64)
  else none

/-- The reset value of the register at a CSR address (R406). -/
def Build.resetVal (b : Build) (a : Nat) : Word :=
  match sliceOf a with
  | some (_, off) =>
    match b.sliceReset off with
    | some v => v
    | none => match findRow sliceRegs off with
      | some r => r.reset
      | none => 0
  | none =>
    match b.globalReset a with
    | some v => v
    | none => match findRow globalRegs a with
      | some r => r.reset
      | none => 0

end Sys2Proof.Machine
end

