-- ==== Sys2Proof/Machine/Names.lean ====
section
/-! DEFINITION. The CSR addresses of the registers, by name (R405, R409, R410): `sl` is the slice whose window
holds the register. -/

namespace Sys2Proof.Machine

/-- GLB_BEAT (R23). -/
abbrev A.glbBeat : Nat := 0x20
/-- GLB_IRQ_CAUSE (R408). -/
abbrev A.glbIrqCause : Nat := 0x28
/-- GLB_IRQ_MASK (R408). -/
abbrev A.glbIrqMask : Nat := 0x30
/-- GLB_STATE (R357). -/
abbrev A.glbState : Nat := 0x18
/-- GLB_MAINT (R65). -/
abbrev A.glbMaint : Nat := 0x38
/-- GLB_PEAL (R160). -/
abbrev A.glbPeal : Nat := 0x40
/-- GLB_PEAL_SKIP (R160). -/
abbrev A.glbPealSkip : Nat := 0x48
/-- CTX_E0_c (R120). -/
abbrev A.ctxE0 (c : Nat) : Nat := 0x10000 + 16 * c
/-- CTX_E1_c (R120). -/
abbrev A.ctxE1 (c : Nat) : Nat := 0x10008 + 16 * c
/-- CTX_KILL (R361). -/
abbrev A.ctxKill : Nat := 0x10800
/-- CTX_SOLO (R361). -/
abbrev A.ctxSolo : Nat := 0x10808
/-- CTX_KILLST (R361). -/
abbrev A.ctxKillst : Nat := 0x10810
/-- CTX_SOLOP (R361). -/
abbrev A.ctxSolop : Nat := 0x10818
/-- CTX_PROGRESS_c (R362). -/
abbrev A.ctxProgress (c : Nat) : Nat := 0x10C00 + 8 * c
/-- QOS_SHARE_c (R156). -/
abbrev A.qosShare (c : Nat) : Nat := 0x20000 + 8 * c
/-- QOS_LTHR_c (R157). -/
abbrev A.qosLthr (c : Nat) : Nat := 0x20040 + 8 * c
/-- QOS_GRP_g (R158). -/
abbrev A.qosGrp (g : Nat) : Nat := 0x20080 + 16 * g
/-- QOS_GRPA_g (R158). -/
abbrev A.qosGrpa (g : Nat) : Nat := 0x20088 + 16 * g
/-- QOS_LFLAG_s (R159). -/
abbrev A.qosLflag (s : Nat) : Nat := 0x20200 + 8 * s
/-- QOS_HWM_s_c (R159). -/
abbrev A.qosHwm (s c : Nat) : Nat := 0x21000 + 64 * s + 8 * c
/-- SYSWIN_BASE_i (R126). -/
abbrev A.syswinBase (i : Nat) : Nat := 0x30000 + 32 * i
/-- SYSWIN_SIZE_i (R126). -/
abbrev A.syswinSize (i : Nat) : Nat := 0x30008 + 32 * i
/-- SYSWIN_TGT_i (R126). -/
abbrev A.syswinTgt (i : Nat) : Nat := 0x30010 + 32 * i
/-- SYSWIN_ATTR_i (R126). -/
abbrev A.syswinAttr (i : Nat) : Nat := 0x30018 + 32 * i
/-- CHIP_ID (R379). -/
abbrev A.chipId : Nat := 0x30200
/-- FP_KNELL (R379). -/
abbrev A.fpKnell : Nat := 0x30208
/-- FP_STAT (R379). -/
abbrev A.fpStat : Nat := 0x30210
/-- FP_KNLAST (R379). -/
abbrev A.fpKnlast : Nat := 0x30218
/-- FP_TAGQ (R380). -/
abbrev A.fpTagq : Nat := 0x30220
/-- FP_TAGV (R380). -/
abbrev A.fpTagv : Nat := 0x30228
/-- CHWIN_SRC_w (R381). -/
abbrev A.chwinSrc (w : Nat) : Nat := 0x30400 + 32 * w
/-- CHWIN_JOB_w (R381). -/
abbrev A.chwinJob (w : Nat) : Nat := 0x30408 + 32 * w
/-- CHWIN_TGT_w (R381). -/
abbrev A.chwinTgt (w : Nat) : Nat := 0x30410 + 32 * w
/-- CHWIN_CTL_w (R381). -/
abbrev A.chwinCtl (w : Nat) : Nat := 0x30418 + 32 * w
/-- CHWIN_STAT_w (R382). -/
abbrev A.chwinStat (w : Nat) : Nat := 0x30C00 + 8 * w
/-- HTAB_E0_h (R114). -/
abbrev A.htabE0 (h : Nat) : Nat := 0x40000 + 32 * h
/-- HTAB_E1_h (R114). -/
abbrev A.htabE1 (h : Nat) : Nat := 0x40008 + 32 * h
/-- HTAB_E2_h (R114). -/
abbrev A.htabE2 (h : Nat) : Nat := 0x40010 + 32 * h
/-- HTAB_E3_h (R114). -/
abbrev A.htabE3 (h : Nat) : Nat := 0x40018 + 32 * h
/-- PWR_REQ (R327). -/
abbrev A.pwrReq (i : Nat) : Nat := 0x60000 + 8 * i
/-- PWR_STATE (R327). -/
abbrev A.pwrState (i : Nat) : Nat := 0x60010 + 8 * i
/-- PWR_CPLX (R328). -/
abbrev A.pwrCplx : Nat := 0x60020
/-- PWR_TAP (R329). -/
abbrev A.pwrTap : Nat := 0x60028
/-- PWR_THR (R329). -/
abbrev A.pwrThr : Nat := 0x60030
/-- PWR_TMO (R330). -/
abbrev A.pwrTmo : Nat := 0x60038
/-- PWR_AVS (R331). -/
abbrev A.pwrAvs : Nat := 0x60040
/-- PWR_VREQ (R332). -/
abbrev A.pwrVreq : Nat := 0x60048
/-- PWR_STAT (R333). -/
abbrev A.pwrStat : Nat := 0x60050
/-- PWR_LAST (R333). -/
abbrev A.pwrLast : Nat := 0x60058
/-- PWR_REFCNT_c (R334). -/
abbrev A.pwrRefcnt (c : Nat) : Nat := 0x60080 + 8 * c
/-- PWR_ABTCNT_k (R334). -/
abbrev A.pwrAbtcnt (k : Nat) : Nat := 0x600C0 + 8 * k
/-- ERR_CFG (R301). -/
abbrev A.errCfg : Nat := 0x70000
/-- ERR_STAT (R302). -/
abbrev A.errStat : Nat := 0x70008
/-- ERR_HEAD (R302). -/
abbrev A.errHead : Nat := 0x70010
/-- ERR_RD (R302). -/
abbrev A.errRd : Nat := 0x70018
/-- ERR_REC_w (R303). -/
abbrev A.errRec (w : Nat) : Nat := 0x70020 + 8 * w
/-- ERR_FIRST_w (R303). -/
abbrev A.errFirst (w : Nat) : Nat := 0x70040 + 8 * w
/-- TUNER_CTL (R306). -/
abbrev A.tunerCtl : Nat := 0x80000
/-- TUNER_STAT (R306). -/
abbrev A.tunerStat : Nat := 0x80008
/-- TUNER_GIDX (R306). -/
abbrev A.tunerGidx : Nat := 0x80010
/-- TUNER_GVAL (R306). -/
abbrev A.tunerGval : Nat := 0x80018
/-- TUNER_CHAL_w (R308). -/
abbrev A.tunerChal (w : Nat) : Nat := 0x80040 + 8 * w
/-- TUNER_CHEXP (R308). -/
abbrev A.tunerChexp : Nat := 0x80080
/-- TUNER_CHRSP (R308). -/
abbrev A.tunerChrsp : Nat := 0x80088
/-- TUNER_REGION_r (R307). -/
abbrev A.tunerRegion (r : Nat) : Nat := 0x80100 + 8 * r
/-- MBOX_CMD (R402). -/
abbrev A.mboxCmd : Nat := 0x90000
/-- MBOX_STAT (R402). -/
abbrev A.mboxStat : Nat := 0x90008
/-- MBOX_IE (R402). -/
abbrev A.mboxIe : Nat := 0x90010
/-- MBOX_LOG (R402). -/
abbrev A.mboxLog : Nat := 0x90018
/-- MBOX_ARG_w (R403). -/
abbrev A.mboxArg (w : Nat) : Nat := 0x91000 + 8 * w
/-- BOOT_STAT (R358). -/
abbrev A.bootStat : Nat := 0xA0000
/-- BOOT_SLDIS (R358). -/
abbrev A.bootSldis : Nat := 0xA0008
/-- BOOT_FAIL (R358). -/
abbrev A.bootFail : Nat := 0xA0010
/-- BOOT_REPA_k (R359). -/
abbrev A.bootRepa (k : Nat) : Nat := 0xA0100 + 16 * k
/-- BOOT_REPB_k (R359). -/
abbrev A.bootRepb (k : Nat) : Nat := 0xA0108 + 16 * k
/-- BOOT_RESET (R360). -/
abbrev A.bootReset : Nat := 0xA0200
/-- BOOT_DRAIN (R360). -/
abbrev A.bootDrain : Nat := 0xA0208
/-- RHY_CTRL (R87). -/
abbrev A.rhyCtrl (sl : Nat) : Nat := sliceAddr sl 0x0
/-- RHY_SWITCH (R88). -/
abbrev A.rhySwitch (sl : Nat) : Nat := sliceAddr sl 0x8
/-- RHY_STATUS (R89). -/
abbrev A.rhyStatus (sl : Nat) : Nat := sliceAddr sl 0x10
/-- RHY_PFENCE (R90). -/
abbrev A.rhyPfence (sl : Nat) : Nat := sliceAddr sl 0x18
/-- RHY_BFENCE (R91). -/
abbrev A.rhyBfence (sl : Nat) : Nat := sliceAddr sl 0x20
/-- RHY_STALL_i (R92). -/
abbrev A.rhyStall (sl i : Nat) : Nat := sliceAddr sl (0x40 + 8 * i)
/-- RHY_PSTALL_p (R92). -/
abbrev A.rhyPstall (sl p : Nat) : Nat := sliceAddr sl (0x80 + 8 * p)
/-- RHY_A_p (R93). -/
abbrev A.rhyA (sl p : Nat) : Nat := sliceAddr sl (0x100 + 8 * p)
/-- RHY_B_p (R93). -/
abbrev A.rhyB (sl p : Nat) : Nat := sliceAddr sl (0x200 + 8 * p)
/-- OWN_b (R127). -/
abbrev A.own (sl b : Nat) : Nat := sliceAddr sl (0x400 + 8 * b)
/-- OWN_XFER_MASK (R128). -/
abbrev A.ownXferMask (sl : Nat) : Nat := sliceAddr sl 0x600
/-- OWN_XFER (R128). -/
abbrev A.ownXfer (sl : Nat) : Nat := sliceAddr sl 0x608
/-- SE_SLOT_PC_j (R188). -/
abbrev A.seSlotPc (sl j : Nat) : Nat := sliceAddr sl (0x1000 + 64 * j)
/-- SE_SLOT_CTL_j (R189). -/
abbrev A.seSlotCtl (sl j : Nat) : Nat := sliceAddr sl (0x1008 + 64 * j)
/-- SE_SLOT_ARM_j (R190). -/
abbrev A.seSlotArm (sl j : Nat) : Nat := sliceAddr sl (0x1010 + 64 * j)
/-- SE_SLOT_BEAT0_j (R190). -/
abbrev A.seSlotBeat0 (sl j : Nat) : Nat := sliceAddr sl (0x1018 + 64 * j)
/-- SE_SLOT_LOOP_j (R191). -/
abbrev A.seSlotLoop (sl j : Nat) : Nat := sliceAddr sl (0x1020 + 64 * j)
/-- SE_SLOT_POS_j (R192). -/
abbrev A.seSlotPos (sl j : Nat) : Nat := sliceAddr sl (0x1028 + 64 * j)
/-- SE_SLOT_SHED_j (R192). -/
abbrev A.seSlotShed (sl j : Nat) : Nat := sliceAddr sl (0x1030 + 64 * j)
/-- SE_SLOT_DL_j (R193). -/
abbrev A.seSlotDl (sl j : Nat) : Nat := sliceAddr sl (0x1038 + 64 * j)
/-- SE_HREG_j_n (R194). -/
abbrev A.seHreg (sl j n : Nat) : Nat := sliceAddr sl (0x1400 + 64 * j + 8 * n)
/-- SE_SREG_j_n (R194). -/
abbrev A.seSreg (sl j n : Nat) : Nat := sliceAddr sl (0x1800 + 64 * j + 8 * n)
/-- SE_STAT (R195). -/
abbrev A.seStat (sl : Nat) : Nat := sliceAddr sl 0x1C00
/-- SE_IE (R195). -/
abbrev A.seIe (sl : Nat) : Nat := sliceAddr sl 0x1C08
/-- SE_MIE (R220). -/
abbrev A.seMie (sl : Nat) : Nat := sliceAddr sl 0x1C10
/-- SE_MISSB_j (R221). -/
abbrev A.seMissb (sl j : Nat) : Nat := sliceAddr sl (0x1C80 + 8 * j)
/-- SE_MISS_j (R222). -/
abbrev A.seMiss (sl j : Nat) : Nat := sliceAddr sl (0x1D00 + 8 * j)
/-- SE_FADDR_j (R223). -/
abbrev A.seFaddr (sl j : Nat) : Nat := sliceAddr sl (0x1D80 + 8 * j)
/-- SEM_PAIR_n (R275). -/
abbrev A.semPair (sl n : Nat) : Nat := sliceAddr sl (0x2000 + 8 * n)
/-- SEM_OP (R276). -/
abbrev A.semOp (sl : Nat) : Nat := sliceAddr sl 0x2800
/-- SEM_LAST (R277). -/
abbrev A.semLast (sl : Nat) : Nat := sliceAddr sl 0x2808
/-- SEM_RGSTAT (R278). -/
abbrev A.semRgstat (sl : Nat) : Nat := sliceAddr sl 0x2810
/-- SEM_RG_i (R279). -/
abbrev A.semRg (sl i : Nat) : Nat := sliceAddr sl (0x2C00 + 8 * i)
/-- STRK_ACC (R251). -/
abbrev A.strkAcc (sl : Nat) : Nat := sliceAddr sl 0x3000
/-- STRK_SAT (R252). -/
abbrev A.strkSat (sl : Nat) : Nat := sliceAddr sl 0x3008
/-- STRK_NAN (R252). -/
abbrev A.strkNan (sl : Nat) : Nat := sliceAddr sl 0x3010
/-- STRK_ACCDUP (R252). -/
abbrev A.strkAccdup (sl : Nat) : Nat := sliceAddr sl 0x3018
/-- STRK_LINES (R252). -/
abbrev A.strkLines (sl : Nat) : Nat := sliceAddr sl 0x3020
/-- STRK_SEED_b (R253). -/
abbrev A.strkSeed (sl b : Nat) : Nat := sliceAddr sl (0x3100 + 8 * b)
/-- SCRUB_PATROL (R305). -/
abbrev A.scrubPatrol (sl : Nat) : Nat := sliceAddr sl 0x4000
/-- SCRUB_CTL (R305). -/
abbrev A.scrubCtl (sl : Nat) : Nat := sliceAddr sl 0x4008
/-- SCRUB_SUM_w (R305). -/
abbrev A.scrubSum (sl w : Nat) : Nat := sliceAddr sl (0x4040 + 8 * w)
/-- ECC_RETIRE (R66). -/
abbrev A.eccRetire (sl : Nat) : Nat := sliceAddr sl 0x5000
/-- ECC_CFG (R304). -/
abbrev A.eccCfg (sl : Nat) : Nat := sliceAddr sl 0x5008
/-- ECC_CNT_i (R304). -/
abbrev A.eccCnt (sl i : Nat) : Nat := sliceAddr sl (0x5040 + 8 * i)
/-- ECC_SPARE_b (R67). -/
abbrev A.eccSpare (sl b : Nat) : Nat := sliceAddr sl (0x5400 + 8 * b)
/-- ECC_BADLINE_i (R68). -/
abbrev A.eccBadline (sl i : Nat) : Nat := sliceAddr sl (0x5800 + 8 * i)
/-- MESH_POS (R154). -/
abbrev A.meshPos (sl : Nat) : Nat := sliceAddr sl 0x6000
/-- MESH_LINK_d (R155). -/
abbrev A.meshLink (sl d : Nat) : Nat := sliceAddr sl (0x6008 + 8 * d)
/-- MESH_BREAK (R155). -/
abbrev A.meshBreak (sl : Nat) : Nat := sliceAddr sl 0x6040
/-- MESH_SHED (R155). -/
abbrev A.meshShed (sl : Nat) : Nat := sliceAddr sl 0x6048
/-- PORT_CFG_p (R109). -/
abbrev A.portCfg (sl p : Nat) : Nat := sliceAddr sl (0x7000 + 8 * p)
/-- PORT_STAT_p (R110). -/
abbrev A.portStat (sl p : Nat) : Nat := sliceAddr sl (0x7080 + 8 * p)
/-- PORT_RC (R111). -/
abbrev A.portRc (sl : Nat) : Nat := sliceAddr sl 0x7100
/-- PORT_IDLO_p (R112). -/
abbrev A.portIdlo (sl p : Nat) : Nat := sliceAddr sl (0x7200 + 16 * p)
/-- PORT_IDHI_p (R112). -/
abbrev A.portIdhi (sl p : Nat) : Nat := sliceAddr sl (0x7208 + 16 * p)
/-- SENS_TEMP (R404). -/
abbrev A.sensTemp (sl : Nat) : Nat := sliceAddr sl 0x8000
/-- SENS_DROOP (R404). -/
abbrev A.sensDroop (sl : Nat) : Nat := sliceAddr sl 0x8008
/-- GLB_ID (R29). -/
abbrev A.glbId : Nat := 0x0
/-- GLB_BUILD0 (R30). -/
abbrev A.glbBuild0 : Nat := 0x8
/-- GLB_BUILD1 (R31). -/
abbrev A.glbBuild1 : Nat := 0x10

end Sys2Proof.Machine
end

