-- ==== Sys2Proof/Machine/Ops.lean ====
section
/-! DEFINITION. The named operations that every meaning is written over: registers and their fields, the units
of the instance, the passing of time, interrupt causes, error records, and the outcome of a command. -/

namespace Sys2Proof.Machine

/-! ### Registers -/

/-- The value a register holds: what was last written and accepted (R10). -/
def State.rd (s : State) (a : Nat) : Word := Tbl.get (s.build.resetVal a) s.csr a

/-- Stores a register. -/
def State.wr (s : State) (a : Nat) (v : Word) : State :=
  { s with csr := Tbl.put (s.build.resetVal a) s.csr a v }

/-- The field of width `n` at bit `lo` of a register. -/
def State.getF (s : State) (a lo n : Nat) : Nat := fld (s.rd a) lo n

/-- Stores a field of a register. -/
def State.putF (s : State) (a lo n v : Nat) : State := s.wr a (setFld (s.rd a) lo n v)

/-- A bit of a register. -/
def State.getB (s : State) (a i : Nat) : Bool := flag (s.rd a) i

/-- Stores a bit of a register. -/
def State.putB (s : State) (a i : Nat) (b : Bool) : State := s.wr a (setFlag (s.rd a) i b)

/-- The value of a register in force: what a class B or K field acts with (R10). -/
def State.inForce (s : State) (a : Nat) : Word := Tbl.get (s.rd a) s.force.value a

/-- Adds `k` to a counter of `n` bits at bit `lo`, which wraps. -/
def State.count (s : State) (a lo n k : Nat) : State := s.putF a lo n (s.getF a lo n + k)

/-- Adds `k` to a counter of `n` bits at bit `lo`, which saturates. -/
def State.countSat (s : State) (a lo n k : Nat) : State :=
  s.putF a lo n (min (s.getF a lo n + k) (2 ^ n - 1))

/-- Returns a register to its reset value. -/
def State.toReset (s : State) (a : Nat) : State := s.wr a (s.build.resetVal a)

/-- Returns the registers of a list of addresses to their reset values. -/
def State.allToReset (s : State) (l : List Nat) : State := l.foldl State.toReset s

/-! ### Units -/

/-- The logical slice count reported (R30). -/
def State.nSlices (s : State) : Nat := s.getF A.glbBuild0 0 7

/-- The logical slices. -/
def State.sliceList (s : State) : List Nat := List.range s.nSlices

def State.slice (s : State) (sl : Nat) : SliceSt := Tbl.get SliceSt.init s.slices sl

def State.setSlice (s : State) (sl : Nat) (x : SliceSt) : State :=
  { s with slices := Tbl.put SliceSt.init s.slices sl x }

def State.modSlice (s : State) (sl : Nat) (f : SliceSt → SliceSt) : State := s.setSlice sl (f (s.slice sl))

/-- Port `p` of slice `sl`. -/
def State.port (s : State) (sl p : Nat) : Port := Tbl.get Port.init s.ports (sl * 16 + p)

def State.setPort (s : State) (sl p : Nat) (x : Port) : State :=
  { s with ports := Tbl.put Port.init s.ports (sl * 16 + p) x }

def State.modPort (s : State) (sl p : Nat) (f : Port → Port) : State := s.setPort sl p (f (s.port sl p))

/-- Stream slot `j` of slice `sl`. -/
def State.slot (s : State) (sl j : Nat) : Slot := Tbl.get Slot.init s.slots (sl * 16 + j)

def State.setSlot (s : State) (sl j : Nat) (x : Slot) : State :=
  { s with slots := Tbl.put Slot.init s.slots (sl * 16 + j) x }

def State.modSlot (s : State) (sl j : Nat) (f : Slot → Slot) : State := s.setSlot sl j (f (s.slot sl j))

/-- Bank `b` of slice `sl`. -/
def State.bank (s : State) (sl b : Nat) : Bank := Tbl.get Bank.init s.mem.banks (sl * 64 + b)

def State.setBank (s : State) (sl b : Nat) (x : Bank) : State :=
  { s with mem := { s.mem with banks := Tbl.put Bank.init s.mem.banks (sl * 64 + b) x } }

def State.modBank (s : State) (sl b : Nat) (f : Bank → Bank) : State := s.setBank sl b (f (s.bank sl b))

/-- Slice `sl` exists: a logical slice below GLB_BUILD0.SLICES (R405). -/
def State.hasSlice (s : State) (sl : Nat) : Bool := decide (sl < s.nSlices)

/-- Port `p` of slice `sl` is built (R24). -/
def State.hasPort (s : State) (sl p : Nat) : Bool := s.hasSlice sl && decide (p < s.build.ports)

/-- Stream slot `j` of slice `sl` exists. -/
def State.hasSlot (s : State) (sl j : Nat) : Bool := s.hasSlice sl && decide (j < 16)

/-- The result of a command. -/
abbrev Out := Host.Outcome State Fault Refusal

/-- A command that concerns slice `sl`: an event of the part only where that slice exists. -/
def State.onSlice (s : State) (sl : Nat) (t : State) : Out :=
  if s.hasSlice sl then .next t else .refused .noSuchUnit

/-- A command that concerns port `p` of slice `sl`. -/
def State.onPort (s : State) (sl p : Nat) (t : State) : Out :=
  if s.hasPort sl p then .next t else .refused .noSuchUnit

/-- A command that concerns slot `j` of slice `sl`. -/
def State.onSlot (s : State) (sl j : Nat) (t : State) : Out :=
  if s.hasSlot sl j then .next t else .refused .noSuchUnit

/-- A command that concerns an index below `n`. -/
def State.onIndex (_ : State) (i n : Nat) (t : State) : Out :=
  if i < n then .next t else .refused .noSuchUnit

/-- An event that comes about only where `c` holds; elsewhere nothing happens. -/
def State.when (s : State) (c : Bool) (t : State) : State := if c then t else s

/-! ### Time -/

/-- The reference clock in MHz (R30). -/
def Build.refMhz (b : Build) : Nat := if b.refclk = 0 then 25 else if b.refclk = 1 then 50 else 100

/-- Some cause is raised and enabled, which drives IRQ_HOST in the following clk (R408). -/
def State.irqWanted (s : State) : Bool := decide ((s.rd A.glbIrqCause &&& s.rd A.glbIrqMask) ≠ 0)

/-- `n` clk pass: the clk counter and the reference-time counter advance (R18), and IRQ_HOST follows the
causes (R408). -/
def State.pass (s : State) (n : Nat) : State :=
  if n = 0 then s
  else
    let total := s.time.frac + n * s.build.refMhz
    { s with
      time := { s.time with
        clk := s.time.clk + n
        ref := if s.pins.pgood then s.time.ref + total / max 1 s.time.mhz else s.time.ref
        frac := total % max 1 s.time.mhz }
      pins := { s.pins with irqHost := s.irqWanted } }

/-- Time reaches clk `t`, unless it has passed it already. -/
def State.reach (s : State) (t : Nat) : State := s.pass (t - s.time.clk)

/-- One clk passes; while clk is stopped, one reference clock does (R320). -/
def State.tick (s : State) : State :=
  if s.pins.clkOk then s.pass 1 else if s.pins.pgood then { s with time := { s.time with ref := s.time.ref + 1 } } else s

/-- The present clk. -/
def State.now (s : State) : Nat := s.time.clk

/-- The first clk after `t` whose count is a multiple of 32: a bar boundary. -/
def nextBar (t : Nat) : Nat := (t / 32 + 1) * 32

/-- GLB_BEAT.COUNT. -/
def State.beatCount (s : State) : Nat := s.getF A.glbBeat 0 48

/-- The beat count is valid (R22). -/
def State.beatValid (s : State) : Bool := s.getB A.glbBeat 51

/-- A beat condition of target `t` is satisfied (R22). -/
def State.beatReached (s : State) (t : Nat) : Bool := s.beatValid && decide (t ≤ s.beatCount)

/-! ### Interrupt causes and error records -/

/-- The bits of GLB_IRQ_CAUSE that an event of the present clk has set, which a write of 1 in that clk does not clear (R408). -/
def State.freshCauses (s : State) : Word := if s.errors.causes.1 = s.now then s.errors.causes.2 else 0

/-- Sets bit `i` of GLB_IRQ_CAUSE (R408). -/
def State.raiseIrq (s : State) (i : Nat) : State :=
  { s.putB A.glbIrqCause i true with errors := { s.errors with causes := (s.now, setFlag s.freshCauses i true) } }

/-- Word 0 of an error record (R282). -/
def recWord0 (code : Nat) (sl : Option Nat) (aux : Nat) (slot : Option Nat) (ctx cls : Nat) : Word :=
  let w := setFld 0 0 8 code
  let w := match sl with
    | some n => setFld w 8 6 n
    | none => setFlag w 14 true
  let w := setFld w 16 6 aux
  let w := match slot with
    | some j => setFlag (setFld w 22 4 j) 35 true
    | none => w
  setFld (setFld w 26 6 ctx) 32 3 cls

/-- An error record with its stamps (R282). -/
def State.mkRec (s : State) (w0 detail : Word) : ErrRec where
  w0 := w0
  w1 := BitVec.ofNat 64 s.beatCount
  w2 := BitVec.ofNat 64 s.time.ref
  w3 := detail
  heldCe := false

/-- Records leave the head of a slice's queue for the 64-entry queue of the global part, in order; a held
CE record keeps those behind it waiting until four others are queued (R281, R285). -/
def forward (others : Nat) : List ErrRec → List ErrRec → List ErrRec × List ErrRec
  | [], g => ([], g)
  | r :: t, g =>
    if 64 ≤ g.length then (r :: t, g)
    else if r.heldCe ∧ others < 4 then (r :: t, g)
    else forward (others - 1) t (g ++ [{ r with heldCe := false }])

/-- Forwards the records of one slice. -/
def State.flushSlice (s : State) (sl : Nat) : State :=
  let q := (s.slice sl).errs
  let r := forward (q.filter fun e => !e.heldCe).length q s.errors.queue
  { s.modSlice sl (fun x => { x with errs := r.1 }) with errors := { s.errors with queue := r.2 } }

/-- A slice raises a record: it is queued, or dropped and counted in ECC_CNT_10 when 8 are queued (R281). -/
def State.pushRec (s : State) (sl : Nat) (r : ErrRec) : State :=
  if 8 ≤ (s.slice sl).errs.length then s.count (A.eccCnt sl 10) 0 48 1
  else (s.modSlice sl (fun x => { x with errs := x.errs ++ [r] })).flushSlice sl

/-- A slice raises a record of fault or event `code`. -/
def State.sliceRec (s : State) (sl code aux : Nat) (slot : Option Nat) (ctx cls : Nat) (detail : Word) : State :=
  s.pushRec sl (s.mkRec (recWord0 code (some sl) aux slot ctx cls) detail)

/-- A global unit raises a record. -/
def State.globalRec (s : State) (code aux ctx : Nat) (detail : Word) : State :=
  { s with errors :=
      { s.errors with queue := s.errors.queue ++ [s.mkRec (recWord0 code none aux none ctx 0) detail] } }

/-- CFG_REFUSED (R283). -/
def codeCfgRefused : Nat := 0x0F

/-- A CSR write of context `ctx` to address `a` is refused and recorded (R11, R284). -/
def State.refuseCfg (s : State) (a ctx : Nat) : State :=
  let d := setFlag (BitVec.ofNat 64 (a % 2 ^ 23)) 63 true
  match sliceOf a with
  | some (sl, _) => s.sliceRec sl codeCfgRefused 0 none ctx 0 d
  | none => s.globalRec codeCfgRefused 0 ctx d

/-! ### Values that a command changes under another's -/

/-- A fold over a list of numbers. -/
def State.each (s : State) (l : List Nat) (f : State → Nat → State) : State := l.foldl f s

/-- The next value that the spec leaves open, and the state that has drawn it. -/
def State.freeDraw (s : State) : Word × State := (Config.freeWord s.free, { s with free := s.free + 1 })

end Sys2Proof.Machine
end

