-- ==== Sys2Proof/Machine/Code.lean ====
section
/-! DEFINITION. The stored word and its code (R37 to R42). -/

namespace Sys2Proof.Machine

/-- The check masks of D0 to D39 (R38). -/
def masksLow : List (BitVec 16) := [
  0x4EAB, 0x9D56, 0x7407, 0xE80E, 0x9EB7, 0x73C5, 0xE78A, 0x81BF,
  0x4DD5, 0x9BAA, 0x79FF, 0xF3FE, 0xA957, 0x1C05, 0x380A, 0x7014,
  0xE028, 0x8EFB, 0x535D, 0xA6BA, 0x03DF, 0x07BE, 0x0F7C, 0x1EF8,
  0x3DF0, 0x7BE0, 0xF7C0, 0xA12B, 0x0CFD, 0x19FA, 0x33F4, 0x67E8,
  0xCFD0, 0xD10B, 0xECBD, 0x97D1, 0x6109, 0xC212, 0xCA8F, 0xDBB5]

/-- The check masks of D40 to D63 (R38). -/
def masksHigh : List (BitVec 16) := [
  0xF9C1, 0xBD29, 0x34F9, 0x69F2, 0xD3E4, 0xE963, 0x9C6D, 0x7671,
  0xECE2, 0x976F, 0x6075, 0xC0EA, 0xCF7F, 0xD055, 0xEE01, 0x92A9,
  0x6BF9, 0xD7F2, 0xE14F, 0x8C35, 0x56C1, 0xAD82, 0x15AF, 0x2B5E]

/-- The check masks of D0 to D63. -/
def masksD : List (BitVec 16) := masksLow ++ masksHigh

/-- The check masks of A0 to A15 (R38). -/
def masksA : List (BitVec 16) := [
  0x56BC, 0xAD78, 0x145B, 0x28B6, 0x516C, 0xA2D8, 0x0B1B, 0x1636,
  0x2C6C, 0x58D8, 0xB1B0, 0x2DCB, 0x5B96, 0xB72C, 0x20F3, 0x41E6]

/-- The exclusive OR of the masks whose bit, numbered from `i`, is set. -/
def xorMasks {n : Nat} (v : BitVec n) : List (BitVec 16) → Nat → BitVec 16
  | [], _ => 0
  | m :: t, i => (if v.getLsbD i then m else 0) ^^^ xorMasks v t (i + 1)

/-- The check bits of data `d` at folded address `a` (R38). -/
def checkBits (d : Word) (a : BitVec 16) : BitVec 16 := xorMasks d masksD 0 ^^^ xorMasks a masksA 0

/-- A stored word: D in bits 0 to 63, C in bits 64 to 79 (R37). -/
def codeWord (d : Word) (a : BitVec 16) : BitVec 80 := checkBits d a ++ d

/-- The syndrome of a poisoned word (R42). -/
def poisonSyn : BitVec 16 := 0x0111

/-- The stored word that marks poison (R42). -/
def poisonWord (a : BitVec 16) : BitVec 80 := (checkBits 0 a ^^^ poisonSyn) ++ (0 : Word)

/-- The syndromes of the 16 positions of C, each with what its inversion does to D. -/
def positionsC : List (BitVec 16 × Word) := (List.range 16).map fun k => (1#16 <<< k, 0)

/-- The syndromes of the positions within C or D, each with the bit of D that it inverts. -/
def positions : List (BitVec 16 × Word) :=
  positionsC ++ masksD.zipIdx.map fun p => (p.1, 1#64 <<< p.2)

/-- A single position within C or D of syndrome `syn`. -/
def oneBit (syn : BitVec 16) : List (BitVec 16 × Word) → Option Word
  | [] => none
  | p :: t => if p.1 = syn then some p.2 else oneBit syn t

/-- Two positions within C or D whose syndromes give `syn`. -/
def twoBits (syn : BitVec 16) : List (BitVec 16 × Word) → Option Word
  | [] => none
  | p :: t =>
    match oneBit (syn ^^^ p.1) t with
    | some v => some (p.2 ^^^ v)
    | none => twoBits syn t

/-- The outcome of decoding a word (R39): data, how many bits were corrected, whether it is uncorrectable,
and whether it is the poison pattern. -/
structure Decoded where
  data : Word
  bits : Nat
  bad : Bool
  poison : Bool
  syn : BitVec 16
  deriving DecidableEq, Repr

/-- Decodes a stored word at folded address `a` (R39). Distance 6 makes the position or pair unique. -/
def decodeWord (w : BitVec 80) (a : BitVec 16) : Decoded :=
  let d : Word := w.extractLsb' 0 64
  let syn : BitVec 16 := w.extractLsb' 64 16 ^^^ checkBits d a
  if syn = 0 then { data := d, bits := 0, bad := false, poison := false, syn := syn }
  else match oneBit syn positions with
    | some f => { data := d ^^^ f, bits := 1, bad := false, poison := false, syn := syn }
    | none => match twoBits syn positions with
      | some f => { data := d ^^^ f, bits := 2, bad := false, poison := false, syn := syn }
      | none => { data := 0, bits := 0, bad := true, poison := syn = poisonSyn, syn := syn }

/-- The folded address of word `w8` of line `l` of logical bank `b` (R37). -/
def foldAddr (b l w8 : Nat) : BitVec 16 :=
  let parity := (List.range 6).foldl (fun p i => xor p (b.testBit i)) false
  BitVec.ofNat 16 (l % 4096 * 8 + w8 % 8 + if parity then 32768 else 0)

end Sys2Proof.Machine
end

