-- ==== Sys2Proof/Machine/Bank.lean ====
section
/-! DEFINITION. A bank: where its words lie (R34 to R36), written bits (R44 to R46), reads and writes through
the merge buffer (R48 to R51), corrections and their write-back (R53 to R55), and what they count and
record (R285, R286). -/

namespace Sys2Proof.Machine

/-! ### Placement -/

/-- The macro of line `l` (R34). -/
def macroOf (l : Nat) : Nat := l / 1024 % 4

/-- The macro row of line `l` (R34). -/
def macroRow (l : Nat) : Nat := l / 2 % 512

/-- The word slot of word `w8` of line `l` within its row (R34). -/
def wordSlot (l w8 : Nat) : Nat := l % 2 * 8 + w8

/-- The bank row of line `l` (R34). -/
def bankRow (l : Nat) : Nat := l / 2 % 2048

/-- The two lines of a bank row, in word-slot order (R34). -/
def rowLine (row slot : Nat) : Nat := 2 * row + slot / 8

/-- The key of the written bits of a word. -/
def wordKey (sl b l w8 : Nat) : Nat := ((sl * 64 + b) * 4096 + l) * 8 + w8

/-- The key under which the remap of a macro row is held. -/
def remapKey (sl b mac row : Nat) : Nat := ((sl * 64 + b) * 4 + mac) * 512 + row

/-- The row of cells that serves a macro row: itself, or the spare row 512 + n that replaces it (R36). -/
def Mem.cellRow (m : Mem) (sl b mac row : Nat) : Nat :=
  match Tbl.get 0 m.remap (remapKey sl b mac row) with
  | 0 => row
  | n + 1 => 512 + n

/-- The key of a macro in the table of spare column groups. -/
def groupKey (sl b mac : Nat) : Nat := (sl * 64 + b) * 4 + mac

/-- The group of 16 cell columns that holds stored bit `bit` of a macro's words: its own, or the spare group 80 where that
holds it (R35). -/
def Mem.cellGroup (m : Mem) (sl b mac bit : Nat) : Nat :=
  if Tbl.get 0 m.group (groupKey sl b mac) = bit + 1 then 80 else bit

/-- The spare bank that replaces a logical bank. -/
def Mem.spareOf (m : Mem) (sl b : Nat) : Option Nat :=
  (List.range 2).find? fun n => decide (Tbl.get 0 m.spare (2 * sl + n) = b + 1)

/-- The bank of cells that serves a logical bank: itself, or the spare bank 64 + n (R36). -/
def Mem.cellBank (m : Mem) (sl b : Nat) : Nat :=
  match m.spareOf sl b with
  | some n => 64 + n
  | none => b

/-- The key of a byte of the cell arrays, which holds eight adjacent columns: 81 groups of 16 columns in a row, 520 rows
in a macro, 66 banks in a slice (R35). -/
def cellKey (sl pb mac row i : Nat) : Nat := (((sl * 66 + pb) * 4 + mac) * 520 + row) * 162 + i

/-- The bits that eight adjacent columns of a row hold, those of stored bit `bit` of eight words being given. -/
def columnByte (w : Nat → BitVec 80) (half bit : Nat) : Byte :=
  (List.range 8).foldl (fun (v : Byte) k => if (w (8 * half + k)).getLsbD bit then v ||| (1#8 <<< k) else v) 0

/-- D = 0 coded for a word slot of a row of a logical bank, at its own folded address (R413). -/
def zeroWord (b mac row slot : Nat) : BitVec 80 := codeWord 0 (foldAddr b (mac * 1024 + row * 2 + slot / 8) (slot % 8))

/-- The macro row that a spare row serves. -/
def Mem.servedRow (m : Mem) (sl b mac n : Nat) : Option Nat :=
  (m.remap.find? fun e => decide (e.1 / 512 = (sl * 64 + b) * 4 + mac) && decide (e.2 = n + 1)).map fun e => e.1 % 512

/-- What an unlisted byte of the cell arrays of slice `sl` holds: zero coded at the folded address of the words that it
serves (R339, R413), and 0 in a spare that serves none. -/
def Mem.zeroCell (m : Mem) (k : Nat) : Byte :=
  let i := k % 162
  let row := k / 162 % 520
  let mac := k / 84240 % 4
  let pb := k / 336960 % 66
  let sl := k / 22239360
  let bank := if pb < 64 then some pb else match Tbl.get 0 m.spare (2 * sl + (pb - 64)) with
    | 0 => none
    | b + 1 => some b
  match bank with
  | none => 0
  | some b =>
    let bit := if i / 2 < 80 then some (i / 2) else match Tbl.get 0 m.group (groupKey sl b mac) with
      | 0 => none
      | g + 1 => some g
    let line := if row < 512 then some row else m.servedRow sl b mac (row - 512)
    match bit, line with
    | some g, some r => columnByte (zeroWord b mac r) (i % 2) g
    | _, _ => 0

/-- How often slice `sl` has left Off. -/
def Mem.epochOf (m : Mem) (sl : Nat) : Nat := Tbl.get 0 m.epoch sl

/-- The slice whose cells a key belongs to. -/
def cellSlice (k : Nat) : Nat := k / 22239360

/-- What an unlisted byte of the cell arrays reads as: a free value in a slice that has left Off. -/
def Mem.cellDflt (m : Mem) (k : Nat) : Byte :=
  if m.epochOf (cellSlice k) ≠ 0 then Config.freeCell (m.epochOf (cellSlice k)) k else m.zeroCell k

/-- A byte of the cell arrays. -/
def Mem.cell (m : Mem) (k : Nat) : Byte := Tbl.get (m.cellDflt k) m.cells k

/-- Writes a byte of the cell arrays. -/
def Mem.putCell (m : Mem) (k : Nat) (v : Byte) : Mem := { m with cells := Tbl.put (m.cellDflt k) m.cells k v }

/-- The canonical form of the cell arrays and of the written bits. -/
def Mem.wf (m : Mem) : Bool := Tbl.wf m.cellDflt m.cells && Tbl.wf (fun _ => 0) m.wbits

/-- The storage with another repair map, or other epochs: listed cells of `drop` are forgotten, and so is a cell that holds
what it reads as unlisted. -/
def Mem.withMap (m m' : Mem) (drop : Nat → Bool) : Mem :=
  { m' with cells := m.cells.filter fun e => !(drop e.1) && decide (e.2 ≠ m'.cellDflt e.1) }

/-- The cell, as byte and bit of it, that holds a bit of a stored word: column 16 × bit + slot of its row, or of the spare
group (R35). -/
def Mem.cellAt (m : Mem) (sl b mac row slot bit : Nat) : Nat × Nat :=
  (cellKey sl (m.cellBank sl b) mac (m.cellRow sl b mac row) (2 * m.cellGroup sl b mac bit + slot / 8), slot % 8)

/-- The stored word in a word slot of a row (R34, R35). -/
def Mem.word80 (m : Mem) (sl b mac row slot : Nat) : BitVec 80 :=
  (List.range 80).foldl (fun (w : BitVec 80) bit =>
    let c := m.cellAt sl b mac row slot bit
    if (m.cell c.1).getLsbD c.2 then w ||| (1#80 <<< bit) else w) 0

/-- Stores a word of 80 bits in a word slot of a row. -/
def Mem.putWord80 (m : Mem) (sl b mac row slot : Nat) (w : BitVec 80) : Mem :=
  (List.range 80).foldl (fun (t : Mem) bit =>
    let c := t.cellAt sl b mac row slot bit
    let v := t.cell c.1
    t.putCell c.1 (if w.getLsbD bit then v ||| (1#8 <<< c.2) else v &&& ~~~(1#8 <<< c.2))) m

/-! ### Stored words of a logical bank -/

/-- The self-test has started on the row: it is served from the test buffer (R56). -/
def Bank.testing (k : Bank) (row : Nat) : Option RowTest :=
  match k.test with
  | some t => if t.row = row ∧ 0 < t.step then some t else none
  | none => none

/-- The cells of word slot `slot` of a bank row. -/
def State.arrayWord (s : State) (sl b row slot : Nat) : BitVec 80 := s.mem.word80 sl b (row / 512) (row % 512) slot

/-- Stores a word in the cells of a bank row. -/
def State.putArrayWord (s : State) (sl b row slot : Nat) (w : BitVec 80) : State :=
  { s with mem := s.mem.putWord80 sl b (row / 512) (row % 512) slot w }

/-- The stored word as an access meets it: from the test buffer for a row under test (R56). -/
def State.storedWord (s : State) (sl b l w8 : Nat) : BitVec 80 :=
  match (s.bank sl b).testing (bankRow l) with
  | some t => t.buf.getD (wordSlot l w8) 0
  | none => s.arrayWord sl b (bankRow l) (wordSlot l w8)

/-- Stores a word, in the test buffer for a row under test (R56). -/
def State.putStored (s : State) (sl b l w8 : Nat) (w : BitVec 80) : State :=
  match (s.bank sl b).testing (bankRow l) with
  | some t =>
    s.modBank sl b fun k =>
      { k with test := some { t with buf := setAt t.buf (wordSlot l w8) w, noted := t.noted.filter (· ≠ wordSlot l w8) } }
  | none => s.putArrayWord sl b (bankRow l) (wordSlot l w8) w

/-! ### Written bits -/

/-- The majority of three copies (R44). -/
def majority (c : BitVec 3) : Bool :=
  (c.getLsbD 0 && c.getLsbD 1) || (c.getLsbD 0 && c.getLsbD 2) || (c.getLsbD 1 && c.getLsbD 2)

/-- The W copies of a word. -/
def State.wCopies (s : State) (sl b l w8 : Nat) : BitVec 3 := Tbl.get 0 s.mem.wbits (wordKey sl b l w8)

/-- The W state of a word (R44). -/
def State.wState (s : State) (sl b l w8 : Nat) : Bool := majority (s.wCopies sl b l w8)

/-- Writes the three W copies of a word. -/
def State.putW (s : State) (sl b l w8 : Nat) (c : BitVec 3) : State :=
  { s with mem := { s.mem with wbits := Tbl.put 0 s.mem.wbits (wordKey sl b l w8) c } }

/-- A word written to the array: coded at its own address and its W bits set (R37, R45); a write-back pending
to that word is cancelled (R54). -/
def State.writeCoded (s : State) (sl b l w8 : Nat) (d : Word) (psn : Bool) : State :=
  let a := foldAddr b l w8
  let t := s.putStored sl b l w8 (if psn then poisonWord a else codeWord d a)
  let u := t.modBank sl b fun k =>
    { k with wb := match k.wb with
        | some (l', w', v) => if l' = l ∧ w' = w8 then none else some (l', w', v)
        | none => none }
  u.putW sl b l w8 7

/-! ### Counting and recording (R285, R286) -/

/-- DETAIL of a record in the ECC layout (R284). -/
def eccDetail (l w8 bits src : Nat) (syn : BitVec 16) : Word :=
  let w := setFld (setFld (setFld 0 0 12 l) 12 3 w8) 15 2 (macroOf l)
  let w := setFld (setFld (setFld w 17 9 (macroRow l)) 26 2 bits) 28 4 src
  setFld w 32 16 syn.toNat

/-- The window of CE records that clk `t` lies in (R285), plus one. -/
def State.ceWindowNow (s : State) : Nat := s.now / 2 ^ s.getF A.errCfg 3 5 + 1

/-- A correctable word: one CE record in a window, later ones folded into it while it is held (R285). -/
def State.recordCe (s : State) (sl aux ctx cls : Nat) (detail : Word) : State :=
  if s.getB A.errCfg 2 = false then s
  else if (s.slice sl).ceWindow = s.ceWindowNow then
    s.modSlice sl fun x =>
      { x with errs := x.errs.map fun r =>
          if r.heldCe then { r with w0 := setFld r.w0 48 16 (min (fld r.w0 48 16 + 1) 0xFFFF) } else r }
  else
    let r := { s.mkRec (recWord0 0x20 (some sl) aux none ctx cls) detail with heldCe := true }
    (s.modSlice sl fun x => { x with ceWindow := s.ceWindowNow }).pushRec sl r

/-- The row of line `l` is queued for a self-test, unless it is queued or under test or awaits retirement
(R54, R55). -/
def State.queueTest (s : State) (sl b row : Nat) : State :=
  let k := s.bank sl b
  let under := match k.test with
    | some t => decide (t.row = row)
    | none => false
  let waiting := (s.slice sl).retire.any fun r => r.1 = b ∧ r.2.1 * 512 + r.2.2 = row
  if under || waiting || k.queue.contains row then s
  else if 4 ≤ k.queue.length then s.count (A.eccCnt sl 6) 0 48 1
  else s.setBank sl b { k with queue := k.queue ++ [row] }

/-- What a decoded word counts and records, by source (R286, R284). `aux` is the bank of the record. -/
def State.noteWord (s : State) (sl b l w8 src ctx cls : Nat) (d : Decoded) : State :=
  let detail := eccDetail l w8 d.bits src d.syn
  if d.bits ≠ 0 then
    (s.count (A.eccCnt sl (d.bits - 1)) 0 48 1).recordCe sl b ctx cls detail
  else if d.poison then (s.count (A.eccCnt sl 3) 0 48 1).sliceRec sl 0x22 b none ctx cls detail
  else if d.bad then
    ((s.count (A.eccCnt sl 2) 0 48 1).sliceRec sl 0x21 b none ctx cls detail).modBank sl b fun k =>
      let x := 16 * bankRow l + wordSlot l w8
      { k with ueSeen := if k.ueSeen.contains x then k.ueSeen else k.ueSeen ++ [x] }
  else s

/-- DETAIL of a record of a word of the vector buffer (R284), which lies in no macro. -/
def vecDetail (line w8 bits : Nat) (syn : BitVec 16) : Word :=
  setFld (setFld (setFld (setFld (setFld 0 0 12 line) 12 3 w8) 26 2 bits) 28 4 7) 32 16 syn.toNat

/-- What the decode of a word of the vector buffer records; the counters count the banks' words (R284, R286). -/
def State.noteVecWord (s : State) (sl line w8 ctx cls : Nat) (d : Decoded) : State :=
  let detail := vecDetail line w8 d.bits d.syn
  if d.bits ≠ 0 then s.recordCe sl 0 ctx cls detail
  else if d.poison then s.sliceRec sl 0x22 0 none ctx cls detail
  else if d.bad then s.sliceRec sl 0x21 0 none ctx cls detail
  else s

/-! ### Merge buffer -/

/-- The entry of line `l`. -/
def Bank.entry (k : Bank) (l : Nat) : Option MergeEntry :=
  match findAt (fun e => decide (e.line = l)) k.merge 0 with
  | some (_, e) => some e
  | none => none

/-- The buffer without the entry of line `l`. -/
def Bank.dropEntry (k : Bank) (l : Nat) : Bank := { k with merge := k.merge.filter fun e => e.line ≠ l }

/-- The buffer with `e` in place of the entry of its line, or as a new entry behind the others. -/
def Bank.putEntry (k : Bank) (e : MergeEntry) : Bank :=
  if (k.entry e.line).isSome then { k with merge := k.merge.map fun x => if x.line = e.line then e else x }
  else { k with merge := k.merge ++ [e] }

/-- A word of an entry drains into the array: as it stands when all its bytes are valid, otherwise laid over
the old word, which is decoded, counted, and makes the result poisoned when it is uncorrectable (R49). -/
def State.drainWord (s : State) (sl b : Nat) (e : MergeEntry) (w8 : Nat) : State :=
  let en := wordBen e.ben w8
  if e.psn.getLsbD w8 then s.writeCoded sl b e.line w8 0 true
  else if en = 0 then s
  else if en = 0xFF then s.writeCoded sl b e.line w8 (lineWord e.data w8) false
  else if s.wState sl b e.line w8 = false then
    s.writeCoded sl b e.line w8 (layWord 0 (lineWord e.data w8) en) false
  else
    let d := decodeWord (s.storedWord sl b e.line w8) (foldAddr b e.line w8)
    let t := s.noteWord sl b e.line w8 4 0 0 d
    let t := if d.bits ≠ 0 ∨ d.bad then t.queueTest sl b (bankRow e.line) else t
    t.writeCoded sl b e.line w8 (layWord d.data (lineWord e.data w8) en) d.bad

/-- The entry of line `l` drains and is freed (R49). -/
def State.drainLine (s : State) (sl b l : Nat) : State :=
  match (s.bank sl b).entry l with
  | none => s
  | some e => (s.modBank sl b fun k => k.dropEntry l).each (List.range 8) fun t w8 => t.drainWord sl b e w8

/-- Every entry of the bank drains. -/
def State.drainAll (s : State) (sl b : Nat) : State :=
  ((s.bank sl b).merge.map MergeEntry.line).foldl (fun t l => t.drainLine sl b l) s

/-- The oldest entry of a buffer. -/
def oldestEntry : List MergeEntry → Option MergeEntry
  | [] => none
  | e :: t => match oldestEntry t with
    | some f => if f.born < e.born then some f else some e
    | none => some e

/-- An entry with the bytes of a write merged in, and the words that it stores poisoned; a later byte replaces an earlier
one, and a full write of a word replaces its poison (R43, R48, R99). -/
def MergeEntry.merged (e : MergeEntry) (ben : ByteEn) (data : Line) (psn : WordEn) : MergeEntry :=
  let cleared := (List.range 8).foldl (fun (m : WordEn) w =>
    if wordBen ben w = 0xFF then m &&& ~~~(1#8 <<< w) else m) e.psn
  let marks := (List.range 8).foldl (fun (m : WordEn) w =>
    if psn.getLsbD w then m ||| (1#8 <<< w) else m) cleared
  { e with ben := e.ben ||| ben, data := layLine e.data data ben, psn := marks }

/-- A write-back pending to a word that a write touches is cancelled (R54). -/
def Bank.cancelWb (k : Bank) (l : Nat) (ben : ByteEn) (psn : WordEn) : Bank :=
  { k with wb := match k.wb with
      | some (l', w', v) => if l' = l ∧ (wordBen ben w' ≠ 0 ∨ psn.getLsbD w') then none else some (l', w', v)
      | none => none }

/-- A write of one line reaches the merge buffer or the array (R48, R49): all 64 bytes go straight to the array; anything
narrower enters the merge buffer, whose oldest entry drains first when all 8 are in use, and an entry with all bytes valid
drains at once. -/
def State.landLine (s : State) (sl b l : Nat) (ben : ByteEn) (data : Line) (psn : WordEn) : State :=
  let k := s.bank sl b
  if ben = BitVec.allOnes 64 then
    (s.modBank sl b fun k => k.dropEntry l).each (List.range 8) fun t w8 =>
      t.writeCoded sl b l w8 (lineWord data w8) (psn.getLsbD w8)
  else
    let s := match k.entry l with
      | some _ => s
      | none =>
        if 8 ≤ k.merge.length then
          match oldestEntry k.merge with
          | some o => s.drainLine sl b o.line
          | none => s
        else s
    let base := ((s.bank sl b).entry l).getD
      { line := l, ben := 0, data := 0, psn := 0, born := s.now, marked := false }
    let e := base.merged ben data psn
    let t := s.modBank sl b fun k => k.putEntry e
    if e.ben = BitVec.allOnes 64 then t.drainLine sl b l else t

/-- A write of one line at the bank: the bytes that it enables are written, and the words that it marks are stored
poisoned, those of which it enables no byte too (R99). -/
def State.writeLine (s : State) (sl b l : Nat) (ben : ByteEn) (data : Line) (psn : WordEn) : State :=
  if ben = 0 ∧ psn = 0 then s
  else
    let t := s.modBank sl b fun k =>
      { k.cancelWb l ben psn with wrote := some { at' := s.now, line := l, ben, data, psn } }
    t.landLine sl b l ben data psn

/-! ### Reads -/

/-- A corrected word is written back (R54): into the merge buffer where its line has an entry or one is free,
else into the write-back register, else it is dropped and counted. -/
def State.writeBack (s : State) (sl b l w8 : Nat) (d : Word) : State :=
  let k := s.bank sl b
  let full : ByteEn := 0xFF#64 <<< (8 * w8)
  match k.entry l with
  | some e =>
    s.setBank sl b (k.putEntry
      { e with ben := e.ben ||| full, data := layLine e.data (setLineWord 0 w8 d) (full &&& ~~~e.ben), marked := true })
  | none =>
    if k.merge.length < 8 then
      s.setBank sl b (k.putEntry
        { line := l, ben := full, data := setLineWord 0 w8 d, psn := 0, born := s.now, marked := true })
    else match k.wb with
      | none => s.setBank sl b { k with wb := some (l, w8, d) }
      | some _ => s.count (A.eccCnt sl 4) 0 48 1

/-- What a read of one word returns, and whether it is poisoned (R43, R44, R50). -/
def State.peekWord (s : State) (sl b l w8 : Nat) : Word × Bool :=
  let e := (s.bank sl b).entry l
  let en : BitVec 8 := match e with
    | some e => wordBen e.ben w8
    | none => 0
  let nw : Word := match e with
    | some e => lineWord e.data w8
    | none => 0
  let ep := match e with
    | some e => e.psn.getLsbD w8
    | none => false
  if ep then (0, true)
  else if en = 0xFF then (nw, false)
  else if s.wState sl b l w8 = false then (layWord 0 nw en, false)
  else
    let d := decodeWord (s.storedWord sl b l w8) (foldAddr b l w8)
    if d.bad then (0, true) else (layWord d.data nw en, false)

/-- What reading one word does to the bank: counts, records, write-back, self-test (R53 to R55). A word that
is not decoded does nothing. -/
def State.touchWord (s : State) (sl b l w8 src ctx cls : Nat) : State :=
  let whole := match (s.bank sl b).entry l with
    | some e => decide (wordBen e.ben w8 = 0xFF) || e.psn.getLsbD w8
    | none => false
  if whole || !(s.wState sl b l w8) then s
  else
    let d := decodeWord (s.storedWord sl b l w8) (foldAddr b l w8)
    let t := s.noteWord sl b l w8 src ctx cls d
    if d.bits ≠ 0 then (t.writeBack sl b l w8 d.data).queueTest sl b (bankRow l)
    else if d.bad then t.queueTest sl b (bankRow l)
    else t

/-- The words of a mask. -/
def wordsOf (wen : WordEn) : List Nat := (List.range 8).filter fun w => wen.getLsbD w

/-- The line that a read of the enabled words returns, with its poison marks. -/
def State.peekLine (s : State) (sl b l : Nat) (wen : WordEn) : Line × WordEn :=
  (wordsOf wen).foldl (fun (r : Line × WordEn) w8 =>
    let v := s.peekWord sl b l w8
    (setLineWord r.1 w8 v.1, if v.2 then r.2 ||| (1#8 <<< w8) else r.2)) (0, 0)

/-- What a read of the enabled words of a line does to the bank. -/
def State.touchLine (s : State) (sl b l : Nat) (wen : WordEn) (src ctx cls : Nat) : State :=
  s.each (wordsOf wen) fun t w8 => t.touchWord sl b l w8 src ctx cls

/-! ### Wiping -/

/-- A merge entry without the bytes written before a wipe. -/
def Bank.wipeLine (k : Bank) (l : Nat) : Bank :=
  let k := k.dropEntry l
  { k with wb := match k.wb with
      | some (l', w', v) => if l' = l then none else some (l', w', v)
      | none => none }

/-- The clear port clears the W bits of a line; the bytes of its merge entry, a drain of this clk and a write-back pending
to it are discarded. The bytes that a write of this clk brought are kept: the clear port comes before writes (R46, R50,
R51). -/
def State.wipeLine (s : State) (sl b l : Nat) : State :=
  let t := (s.modBank sl b fun k => k.wipeLine l).each (List.range 8) fun t w8 => t.putW sl b l w8 0
  match (s.bank sl b).wrote with
  | some w => if w.at' = s.now ∧ w.line = l then t.landLine sl b l w.ben w.data w.psn else t
  | none => t

/-- A whole bank is wiped (R46). -/
def State.wipeBank (s : State) (sl b : Nat) : State :=
  let lo := (sl * 64 + b) * 32768
  let t := { s with mem := { s.mem with wbits := s.mem.wbits.filter fun e => e.1 < lo ∨ lo + 32768 ≤ e.1 } }
  t.modBank sl b fun k => { k with merge := [], wb := none, wrote := none }

end Sys2Proof.Machine
end

