-- ==== Sys2Proof/Machine/Golden.lean ====
section
/-! DEFINITION. The Tuner's regions, their signatures and golden signatures (R292 to R294). A golden is kept as
its exclusive OR with the signature of the instance's reset values; the linearity of CRC-32C makes every
update and comparison one of such differences. -/

namespace Sys2Proof.Machine

/-- A register within a region: region, instance, position, number of registers, configuration fields. -/
structure Scanned where
  r : Nat
  inst : Nat
  pos : Nat
  total : Nat
  mask : Word
  deriving DecidableEq, Repr

/-- The configuration fields of CTX_E0 (R293). -/
def ctxMask : Word := 0xFCFFFFFFFF#64

/-- Where a CSR address lies among the scanned registers (R292, R293), the handle mirrors, the repair maps,
the tables of the Rhythm and Belfry's region apart. -/
def State.scanned (s : State) (a : Nat) : Option Scanned :=
  match sliceOf a with
  | some (sl, off) =>
    if 0x400 ≤ off ∧ off < 0x600 ∧ off % 8 = 0 then
      some { r := 1, inst := sl, pos := (off - 0x400) / 8, total := 64, mask := 0x3F }
    else none
  | none =>
    if a % 8 ≠ 0 then none
    else if 0x40000 ≤ a ∧ a < 0x60000 then
      some { r := 4, inst := 0, pos := (a - 0x40000) / 8, total := 16384, mask := (masksOf a).rw }
    else if 0x10000 ≤ a ∧ a < 0x10400 ∧ a % 16 = 0 then
      some { r := 5, inst := 0, pos := (a - 0x10000) / 16, total := 64, mask := ctxMask }
    else if 0x30000 ≤ a ∧ a < 0x30200 then
      some { r := 6, inst := 0, pos := (a - 0x30000) / 8, total := 64, mask := (masksOf a).rw ||| (masksOf a).s }
    else if 0x30400 ≤ a ∧ a < 0x30400 + 32 * s.build.chipwin then
      some { r := 7, inst := 0, pos := (a - 0x30400) / 8, total := 4 * s.build.chipwin, mask := (masksOf a).s }
    else if 0x20000 ≤ a ∧ a < 0x20040 then
      some { r := 8, inst := 0, pos := (a - 0x20000) / 8, total := 8, mask := (masksOf a).rw }
    else if a = 0x80000 then some { r := 10, inst := 0, pos := 0, total := 12, mask := 0x3FFF }
    else if 0x80100 ≤ a ∧ a < 0x80158 then
      some { r := 10, inst := 0, pos := (a - 0x80100) / 8 + 1, total := 12, mask := 1 }
    else none

/-- What a change of `delta` in a scanned register adds to the signature of its instance (R294). -/
def Scanned.delta (x : Scanned) (delta : Word) : BitVec 32 :=
  crcDelta (delta &&& x.mask) (8 * (x.total - 1 - x.pos))

/-- The key of instance `inst` of region `r`. -/
def instKey (r inst : Nat) : Nat := 64 * r + inst

/-- State of an instance: 0 OK, 1 RELOADING, 2 FAILED (R307). -/
def State.instState (s : State) (r inst : Nat) : Nat := Tbl.get 0 s.tuner.inst (instKey r inst)

/-- The golden of an instance, as its difference from the signature of the reset values. -/
def State.goldenDiff (s : State) (r inst : Nat) : BitVec 32 := Tbl.get 0 s.tuner.golden (instKey r inst)

/-- Sets the golden of an instance. -/
def State.putGolden (s : State) (r inst : Nat) (v : BitVec 32) : State :=
  { s with tuner := { s.tuner with golden := Tbl.put 0 s.tuner.golden (instKey r inst) v } }

/-- The engine that scans an instance: that of its slice, or the global one, 64 (R295). -/
def engineOf (r inst : Nat) : Nat := if r < 4 then inst else 64

/-- The instance that an engine scans, or is to scan next, in the pass: those abandoned come last. -/
def State.scanHead (s : State) (e : Nat) : Option (Nat × Nat) :=
  (s.tuner.left ++ s.tuner.redo).find? fun p => decide (engineOf p.1 p.2 = e)

/-- The clk in which an engine's scan in progress began, or begins. -/
def State.scanBegan (s : State) (e : Nat) : Nat := max s.tuner.passAt (Tbl.get 0 s.tuner.engineAt e)

/-- An instance is being scanned. -/
def State.scanning (s : State) (r inst : Nat) : Bool :=
  s.tuner.running && decide (s.scanHead (engineOf r inst) = some (r, inst)) &&
    decide (s.scanBegan (engineOf r inst) ≤ s.now)

/-- A write to an instance during its scan abandons that scan: it is scanned again at the end of the pass
(R295). -/
def State.rescan (s : State) (r inst : Nat) : State :=
  if s.scanning r inst then
    { s with tuner := { s.tuner with
        left := s.tuner.left.filter (· ≠ (r, inst))
        redo := s.tuner.redo.filter (· ≠ (r, inst)) ++ [(r, inst)]
        engineAt := Tbl.put 0 s.tuner.engineAt (engineOf r inst) s.now } }
  else s

/-- A golden follows a write, but not while its instance is RELOADING or FAILED (R294). -/
def State.moveGolden (s : State) (r inst : Nat) (d : BitVec 32) : State :=
  let t := s.rescan r inst
  if s.instState r inst ≠ 0 then t else t.putGolden r inst (s.goldenDiff r inst ^^^ d)

/-- Stores a register that the Tuner may scan, and moves the golden of its instance (R294). -/
def State.wrCfg (s : State) (a : Nat) (v : Word) : State :=
  match s.scanned a with
  | some x => (s.wr a v).moveGolden x.r x.inst (x.delta (s.rd a ^^^ v))
  | none => s.wr a v

/-- Stores a field of such a register. -/
def State.putCfg (s : State) (a lo n v : Nat) : State := s.wrCfg a (setFld (s.rd a) lo n v)

/-! ### Signatures -/

/-- The signature of the registers of the CSR space that lie in an instance, as its difference from the
signature of their reset values. -/
def State.csrDiff (s : State) (r inst : Nat) : BitVec 32 :=
  s.csr.foldl (fun d e =>
    match s.scanned e.1 with
    | some x => if x.r = r ∧ x.inst = inst then d ^^^ x.delta (e.2 ^^^ s.build.resetVal e.1) else d
    | none => d) 0

/-- RHY_CTRL.ACTIVE of a slice: table B is in use. -/
def State.activeB (s : State) (sl : Nat) : Bool := s.getB (A.rhyCtrl sl) 0

/-- The signature difference of a Rhythm table (R293). -/
def State.tableDiff (s : State) (sl : Nat) (tabB : Bool) : BitVec 32 :=
  (List.range 32).foldl (fun d p =>
    let v := s.rd (if tabB then A.rhyB sl p else A.rhyA sl p)
    d ^^^ crcDelta ((v ^^^ rhyReset p) &&& 0xFFFFFFFFFF) (8 * (31 - p))) 0

/-- The signature difference of a slice's handle mirror. -/
def State.mirrorDiff (s : State) (sl : Nat) : BitVec 32 :=
  s.force.mirror.foldl (fun d e =>
    if e.1 / 16384 = sl then d ^^^ crcDelta e.2 (8 * (16383 - e.1 % 16384)) else d) 0

/-- The spare column groups in use in a bank: 128 · macro + bit position. -/
def State.repairGroups (s : State) (sl b : Nat) : List Nat :=
  (List.range 4).filterMap fun mac => match Tbl.get 0 s.mem.group (groupKey sl b mac) with
    | 0 => none
    | g + 1 => some (128 * mac + g)

/-- The repair state of a slice that its repair-map registers show. -/
def State.repairRegs (s : State) (sl : Nat) : List Word :=
  let rows := (s.mem.remap.filter fun e => e.1 / 131072 = sl).map fun e => e.1 % 131072 * 8 + (e.2 - 1)
  (List.range 64).map fun b =>
    Config.repairRegister rows (s.repairGroups sl b) (match s.mem.spareOf sl b with
      | some n => [n]
      | none => []) b

/-- The signature of the REPAIR instance of a slice, less the factory golden of the fuse array. -/
def State.repairDiff (s : State) (sl : Nat) : BitVec 32 :=
  crc32c ((s.repairRegs sl).flatMap wordBytes) ^^^ Config.fuseGolden sl

/-- The signature difference of Belfry's region, of 32 registers. -/
def belfryDiff (regs : List Word) : BitVec 32 :=
  regs.zipIdx.foldl (fun (d : BitVec 32) (p : Word × Nat) => d ^^^ crcDelta p.1 (8 * (31 - p.2))) 0

/-- The present signature of an instance, as its difference from that of its reset values (R293). -/
def State.sigDiff (s : State) (r inst : Nat) : BitVec 32 :=
  if r = 0 then s.tableDiff inst (s.activeB inst)
  else if r = 2 then s.repairDiff inst
  else if r = 3 then s.mirrorDiff inst
  else if r = 9 then belfryDiff s.tuner.belfryRegs
  else s.csrDiff r inst

/-- The addresses of the scanned registers of an instance that lie in CSR space, ascending. -/
def State.scanAddrs (s : State) (r inst : Nat) : List Nat :=
  if r = 1 then (List.range 64).map (A.own inst)
  else if r = 4 then (List.range 16384).map fun i => 0x40000 + 8 * i
  else if r = 5 then (List.range 64).map A.ctxE0
  else if r = 6 then (List.range 64).map fun i => 0x30000 + 8 * i
  else if r = 7 then (List.range (4 * s.build.chipwin)).map fun i => 0x30400 + 8 * i
  else if r = 8 then (List.range 8).map A.qosShare
  else if r = 10 then A.tunerCtl :: (List.range 11).map A.tunerRegion
  else []

/-- The signature of the reset values of an instance. -/
def State.baseSig (s : State) (r inst : Nat) : BitVec 32 :=
  if r = 0 then crc32c ((List.range 32).flatMap fun p => wordBytes (rhyReset p))
  else if r = 2 then Config.fuseGolden inst
  else if r = 3 then crc32c (List.replicate (16384 * 8) 0)
  else if r = 9 then crc32c (List.replicate (32 * 8) 0)
  else crc32c ((s.scanAddrs r inst).flatMap fun a =>
    match s.scanned a with
    | some x => wordBytes (s.build.resetVal a &&& x.mask)
    | none => [])

/-- The signature of an instance (R293). -/
def State.signature (s : State) (r inst : Nat) : BitVec 32 := s.baseSig r inst ^^^ s.sigDiff r inst

/-- The golden signature of an instance (R292). -/
def State.golden (s : State) (r inst : Nat) : BitVec 32 := s.baseSig r inst ^^^ s.goldenDiff r inst

/-- The golden of a REPAIR instance follows a change of its repair map since state `s₀`, by the old and new values of the
registers (R294). -/
def State.moveRepair (s s₀ : State) (sl : Nat) : State := s.moveGolden 2 sl (s₀.repairDiff sl ^^^ s.repairDiff sl)

/-- Takes the present signature of an instance as its golden, unless it is RELOADING or FAILED. -/
def State.commitGolden (s : State) (r inst : Nat) : State :=
  if s.instState r inst ≠ 0 then s else s.putGolden r inst (s.sigDiff r inst)

/-- A reset that covers an instance's unit: OK, with the golden of its reset values (R296). -/
def State.instReset (s : State) (r inst : Nat) : State :=
  { s.putGolden r inst 0 with tuner :=
      { (s.putGolden r inst 0).tuner with inst := Tbl.put 0 s.tuner.inst (instKey r inst) 0 } }

end Sys2Proof.Machine
end

