-- ==== Sys2Proof/Machine/Operands.lean ====
section
/-! DEFINITION. The operand forms: G-addresses and their places (R8, R113), slots of the Rhythm (R69 to R74),
fences (R84), contexts (R120), handles and the checks on an access through one (R114 to R119), ring guards
(R262 to R265), clave pairs (R257 to R259), and the vector buffer. -/

namespace Sys2Proof.Machine

/-! ### G-addresses -/

/-- The slice of a G-line, G-address [29:6]. -/
def glSlice (g : Nat) : Nat := g / 262144

/-- The logical bank of a G-line (R113). -/
def glBank (g : Nat) : Nat := g % 64

/-- The line number L of a G-line (R113). -/
def glRow (g : Nat) : Nat := g / 64 % 4096

/-- The bank set of a G-line. -/
def glSet (g : Nat) : Nat := g / 8 % 8

/-- The logical bank that a line of a request names. -/
def Req.bankOf (r : Req) (l : LineAcc) : Nat := 8 * r.bset + l.bank

/-! ### Slots of the Rhythm -/

/-- The effective M (R65). -/
def State.effM (s : State) : Nat := 2 ^ s.getF A.glbMaint 2 2

/-- The lane on bank set `bset` in clk `c` (R69). -/
def laneOn (bset c : Nat) : Nat := (bset + 8 - c % 8) % 8

/-- Slot (phase, lane) is a maintenance position at density `m` (R71). -/
def isMaint (phase lane m : Nat) : Bool := decide (4 * lane ≤ phase) && decide (phase < 4 * lane + m)

/-- The stored owner of slot (phase, lane) of a table (R73). -/
def State.entryOf (s : State) (sl : Nat) (tabB : Bool) (phase lane : Nat) : Nat :=
  s.getF (if tabB then A.rhyB sl phase else A.rhyA sl phase) (5 * lane) 5

/-- The owner code of the lane on bank set `bset` in clk `c` under the active table: 21 in a maintenance clk,
31 where the entry names no client of the build (R71, R73, R74). -/
def State.slotOwner (s : State) (sl bset c : Nat) : Nat :=
  let k := laneOn bset c
  if isMaint (c % 32) k s.effM then 21
  else
    let o := s.entryOf sl (s.activeB sl) (c % 32) k
    if o < 16 then (if o < s.build.ports then o else 31)
    else if o ≤ 20 then o
    else 31

/-- The latency from issue to the crossbar response (R78, R80). -/
def State.latency (s : State) : Nat := if s.build.gcell then 10 else 9

/-! ### Fences -/

/-- The Tuner holds an instance that is not OK. -/
def State.notOk (s : State) (r inst : Nat) : Bool := decide (s.instState r inst ≠ 0)

/-- Slice `sl` is fenced: not yet released at bring-up, in Off, under a reset, or held by the Tuner (R84,
R292). -/
def State.sliceFenced (s : State) (sl : Nat) : Bool :=
  let x := s.slice sl
  !x.released || x.fenceReset || x.fenceBoot || x.fenceOff || s.notOk 0 sl || s.notOk 2 sl

/-- The banks under the fence of a handover (R129). -/
def SliceSt.handMask (x : SliceSt) : BitVec 64 :=
  match x.handover with
  | some h => h.mask
  | none => 0

/-- The fence of a row retirement holds a request whose issue clk is `c`: it has been raised, and does not lift before
that clk (R58). -/
def State.retireFenced (s : State) (sl b c : Nat) : Bool :=
  decide ((s.bank sl b).fence.1 ≤ s.now) && decide (c < (s.bank sl b).fence.2)

/-- Bank `b` is fenced, whatever the cause, for a request whose issue clk is `c` (R84). -/
def State.bankFencedFor (s : State) (sl b c : Nat) : Bool :=
  s.sliceFenced sl || s.notOk 1 sl || (s.slice sl).handMask.getLsbD b || s.retireFenced sl b c

/-- Bank `b` is fenced now, whatever the cause (R84, R91). -/
def State.bankFenced (s : State) (sl b : Nat) : Bool := s.bankFencedFor sl b s.now

/-- Every bank of the slice is fenced. -/
def State.allBanksFenced (s : State) (sl : Nat) : Bool :=
  (List.range 64).all fun b => s.bankFenced sl b

/-- Port `p` is fenced, whatever the cause (R84, R105). -/
def State.portFenced (s : State) (sl p : Nat) : Bool :=
  let x := s.port sl p
  s.getB (A.rhyPfence sl) p || x.fenceIn || x.rcFence || x.resetFence || s.sliceFenced sl || s.notOk 1 sl ||
    s.allBanksFenced sl

/-! ### Contexts -/

/-- STATE of context `c`: 0 FREE, 1 RUN, 2 PAUSED, 3 KILLING (R120). -/
def State.ctxState (s : State) (c : Nat) : Nat := s.getF (A.ctxE0 c) 32 2

/-- JOBID of context `c`. -/
def State.jobId (s : State) (c : Nat) : Nat := s.getF (A.ctxE0 c) 0 32

/-- The default class in force of context `c` (R120). -/
def State.dclass (s : State) (c : Nat) : Nat := fld (s.inForce (A.ctxE0 c)) 34 3

/-- The kill mark of context `c` has reached slice `sl` (R347): requests of `c` are absorbed there. -/
def State.killedIn (s : State) (sl c : Nat) : Bool :=
  s.boot.kills.any fun k => k.ctx = c ∧ k.marked.contains sl

/-- The owner context of bank `b` (R127). -/
def State.ownerOf (s : State) (sl b : Nat) : Nat := s.getF (A.own sl b) 0 6

/-! ### Handles -/

/-- An entry of the handle table (R114). `unit` is the slot or tile size in lines. -/
structure HEntry where
  owner : Nat
  type : Nat
  rd : Bool
  wr : Bool
  guard : Nat
  fmt : Nat
  stripe : Bool
  size : Nat
  base : Nat
  count : Nat
  link : Nat
  unit : Nat
  slices : BitVec 64
  lo : Nat
  hi : Nat
  deriving DecidableEq, Repr

/-- The entry held in four words (R114). -/
def HEntry.ofWords (w0 w1 w2 w3 : Word) : HEntry where
  owner := fld w0 0 6
  type := fld w0 6 3
  rd := flag w0 9
  wr := flag w0 10
  guard := fld w0 11 2
  fmt := fld w0 13 4
  stripe := flag w0 17
  size := fld w0 32 25
  base := fld w1 0 24
  count := fld w1 32 16
  link := fld w1 32 12
  unit := fld w1 48 16 + 1
  slices := w2
  lo := fld w3 0 25
  hi := fld w3 32 25

/-- Types of handle (R114). -/
def tyPlain : Nat := 1
def tyRing : Nat := 2
def tyAccum : Nat := 3
def tyVector : Nat := 4
def tyScale : Nat := 5
def tyAlias : Nat := 6

/-- The key of a word of the mirror of a slice. -/
def mirrorKey (sl h w : Nat) : Nat := sl * 16384 + 4 * h + w

/-- A word of the mirror of slice `sl`: the value in force (R118). -/
def State.mirrorWord (s : State) (sl h w : Nat) : Word := Tbl.get 0 s.force.mirror (mirrorKey sl h w)

/-- The entry in force in the mirror of slice `sl`. -/
def State.handle (s : State) (sl h : Nat) : HEntry :=
  HEntry.ofWords (s.mirrorWord sl h 0) (s.mirrorWord sl h 1) (s.mirrorWord sl h 2) (s.mirrorWord sl h 3)

/-- The position of the `n`-th set bit, counted from bit 0 upward (R115). -/
def nthSetBit (m : BitVec 64) (n : Nat) : Nat := (bitsOf m).getD n 0

/-- The G-line of line offset `o` of a PLAIN, RING, ACCUM or SCALE handle (R115). -/
def HEntry.gline (e : HEntry) (o : Nat) : Nat :=
  if e.stripe then
    let n := o / 8
    let k := popCount e.slices
    nthSetBit e.slices (n % k) * 262144 + (e.base + n / k * 8 + o % 8)
  else e.base + o

/-- A handle with the target of its link, as an access resolves it. -/
structure View where
  e : HEntry
  target : HEntry
  deriving DecidableEq, Repr

/-- The view of handle `h` at slice `sl`. -/
def State.view (s : State) (sl h : Nat) : View := { e := s.handle sl h, target := s.handle sl (s.handle sl h).link }

/-- The handle is an alias. -/
def View.isAlias (v : View) : Bool := decide (v.e.type = tyAlias)

/-- Where a line offset lies: a G-line, or a line of the vector buffer. -/
inductive Place where
  | mem (gline : Nat)
  | vec (line : Nat)
  deriving DecidableEq, Repr

/-- The place of line offset `o` (R114, R115). -/
def View.place (v : View) (o : Nat) : Place :=
  if v.e.type = tyVector then .vec (v.e.base + o)
  else if v.isAlias then .mem (v.target.gline (v.e.base + o))
  else .mem (v.e.gline o)

/-- The fault code of one line offset at steps 1 to 4 of R119 for context `ctx` entering at slice `sl`. -/
def View.check (v : View) (sl ctx : Nat) (write : Bool) (offs : List Nat) : Option Nat :=
  let e := v.e
  let t := v.target
  if e.type = 0 then some 0x01
  else if v.isAlias ∧ t.type ≠ tyPlain ∧ t.type ≠ tyScale then some 0x01
  else if e.type = tyVector ∧ e.slices ≠ 0 ∧ e.slices.getLsbD sl = false then some 0x01
  else if e.owner ≠ ctx ∨ (v.isAlias ∧ t.owner ≠ ctx) then some 0x02
  else if (if write then e.wr else e.rd) = false then some 0x02
  else if v.isAlias ∧ (if write then t.wr else t.rd) = false then some 0x02
  else
    let bad := offs.filter fun o =>
      decide (o < e.lo) || decide (e.hi ≤ o) ||
        (v.isAlias && (decide (e.base + o < t.lo) || decide (t.hi ≤ e.base + o)))
    match bad with
    | [] => none
    | o :: _ => if e.type = tyAccum ∧ write ∧ e.hi ≤ o then some 0x06 else some 0x01

/-! ### Ring guards -/

/-- The guard slice of a guarded ring: the slice of its line offset 0 (R262). -/
def HEntry.guardSlice (e : HEntry) : Nat := glSlice (e.gline 0)

/-- The ring is guarded. -/
def HEntry.guarded (e : HEntry) : Bool := decide (e.type = tyRing) && decide (e.guard ≠ 0)

/-- The guard entry bound to handle `h` in a slice (R263, R279). -/
def State.guardEntry (s : State) (sl h : Nat) : Option Nat :=
  (List.range 32).find? fun i => s.getB (A.semRg sl i) 12 && decide (s.getF (A.semRg sl i) 0 12 = h)

/-- What the guard answers for a line. -/
inductive GuardSays where
  | pass
  | hold
  | fault (code : Nat)
  deriving DecidableEq, Repr

/-- Slot `slot` of a ring of `count` slots is FULL (R264). -/
def ringFull (w r count slot : Nat) : Bool :=
  decide (wrapTo 16 ((w : Int) - r) > ((((slot : Int) - r) % (count : Int)).toNat))

/-- WCNT and RCNT of a guard entry as they stood at the start of the present clk (R265). -/
def State.ringCounts (s : State) (sl i : Nat) : Nat × Nat :=
  let x := Tbl.get (0, 0, 0) (s.slice sl).ringAt i
  if x.1 = s.now + 1 then x.2 else (s.getF (A.semRg sl i) 16 16, s.getF (A.semRg sl i) 32 16)

/-- The guard's answer for line offset `o` of handle `h`, entering at slice `sl` (R262, R263, R265). -/
def State.guardSays (s : State) (sl h : Nat) (e : HEntry) (write : Bool) (o : Nat) : GuardSays :=
  if e.guarded = false then .pass
  else if e.guardSlice ≠ sl then .fault 0x01
  else match s.guardEntry sl h with
    | none => .fault 0x01
    | some i =>
      let n := s.ringCounts sl i
      let full := ringFull n.1 n.2 e.count (o / e.unit)
      if full ≠ write then .pass
      else if e.guard = 1 then .hold
      else .fault (if write then 0x05 else 0x04)

/-- A line of a guarded ring is accessed: the last line of the slot in turn advances its count (R264). -/
def State.guardAdvance (s : State) (sl h : Nat) (e : HEntry) (write : Bool) (o : Nat) : State :=
  if e.guarded = false then s
  else match s.guardEntry sl h with
    | none => s
    | some i =>
      let m := s.ringCounts sl i
      let n := if write then m.1 else m.2
      if o % e.unit = e.unit - 1 ∧ o / e.unit = n % e.count then
        (s.putF (A.semRg sl i) (if write then 16 else 32) 16 (n + 1)).modSlice sl fun x =>
          { x with ringAt := Tbl.put (0, 0, 0) x.ringAt i (s.now + 1, m) }
      else s

/-- Frees every guard entry of handle `h` and binds one anew where its entry is guarded (R263). -/
def State.bindGuard (s : State) (h : Nat) : State :=
  let freed := s.each s.sliceList fun t sl =>
    match t.guardEntry sl h with
    | some i => (t.wr (A.semRg sl i) 0).putF (A.semRgstat sl) 1 6 (t.getF (A.semRgstat sl) 1 6 - 1)
    | none => t
  let e := freed.handle 0 h
  if e.guarded = false then freed
  else
    let sl := e.guardSlice
    match (List.range 32).find? fun i => !(freed.getB (A.semRg sl i) 12) with
    | some i =>
      let w := setFld (setFlag (setFld 0 0 12 h) 12 true) 13 2 e.guard
      (freed.wr (A.semRg sl i) w).putF (A.semRgstat sl) 1 6 (freed.getF (A.semRgstat sl) 1 6 + 1)
    | none => (freed.putB (A.semRgstat sl) 0 true).refuseCfg (A.htabE3 h) 0

/-! ### Clave pairs -/

/-- A context may operate the pair: its owner, 0 or 63 (R257). -/
def State.claveMay (s : State) (sl pair ctx : Nat) : Bool :=
  decide (ctx = s.getF (A.semPair sl pair) 40 6) || decide (ctx = 0) || decide (ctx = 63)

/-- The counter of a pair: FILL, or ROOM (R275). -/
def State.claveCount (s : State) (sl pair : Nat) (room : Bool) : Nat :=
  s.getF (A.semPair sl pair) (if room then 16 else 0) 16

/-- SIGNAL: adds to a counter, which saturates and then sets OVF (R258). -/
def State.claveSignal (s : State) (sl pair : Nat) (room : Bool) (n : Nat) : State :=
  let v := s.claveCount sl pair room + n
  let t := s.putF (A.semPair sl pair) (if room then 16 else 0) 16 (min v 0xFFFF)
  let t := if 0xFFFF < v then t.putB (A.semPair sl pair) 32 true else t
  t.modSlice sl fun x => { x with signalAt := Tbl.put 0 x.signalAt pair (s.now + 1) }

/-- A take or initialisation follows the SIGNALs of its clk in the next one (R259). -/
def State.claveTime (s : State) (sl pair : Nat) : State :=
  if Tbl.get 0 (s.slice sl).signalAt pair = s.now + 1 then s.pass 1 else s

/-- Takes a count where the counter holds it (R258). -/
def State.claveTake (s : State) (sl pair : Nat) (room : Bool) (n : Nat) : Bool × State :=
  let v := s.claveCount sl pair room
  if n ≤ v then (true, s.putF (A.semPair sl pair) (if room then 16 else 0) 16 (v - n)) else (false, s)

/-- FILL, ROOM and TAKEN as a response reports them (R98, R277). -/
def State.claveWord (s : State) (sl pair : Nat) (taken : Bool) : Word :=
  setFlag (setFld (setFld 0 0 16 (s.claveCount sl pair false)) 16 16 (s.claveCount sl pair true)) 32 taken

/-! ### Vector buffer -/

/-- The key of a word of the vector buffer. -/
def vecKey (sl line w8 : Nat) : Nat := (sl * 1024 + line) * 8 + w8

/-- The folded address of a vector-buffer word: A[14:0] is its address, A[15] is 0. -/
def vecAddr (line w8 : Nat) : BitVec 16 := BitVec.ofNat 16 (line * 8 + w8)

/-- What a word of the vector buffer reads as, and whether it is poisoned; an empty word reads as zero
(R246, R268). -/
def State.vecWord (s : State) (sl line w8 : Nat) : Word × Bool :=
  match Tbl.get none s.mem.vec (vecKey sl line w8) with
  | none => (0, false)
  | some w =>
    let d := decodeWord w (vecAddr line w8)
    if d.bad then (0, true) else (d.data, false)

/-- A line of the vector buffer with its poison marks. -/
def State.vecLine (s : State) (sl line : Nat) : Line × WordEn :=
  (List.range 8).foldl (fun (r : Line × WordEn) w8 =>
    let v := s.vecWord sl line w8
    (setLineWord r.1 w8 v.1, if v.2 then r.2 ||| (1#8 <<< w8) else r.2)) (0, 0)

/-- Writes the enabled bytes of a vector-buffer line. -/
def State.putVec (s : State) (sl line : Nat) (ben : ByteEn) (data : Line) (psn : WordEn) : State :=
  s.each (List.range 8) fun t w8 =>
    let en := wordBen ben w8
    if en = 0 then t
    else
      let old := t.vecWord sl line w8
      let v := layWord old.1 (lineWord data w8) en
      let p := psn.getLsbD w8 || (old.2 && decide (en ≠ 0xFF))
      let w := if p then poisonWord (vecAddr line w8) else codeWord v (vecAddr line w8)
      { t with mem := { t.mem with vec := Tbl.put none t.mem.vec (vecKey sl line w8) (some w) } }

/-- Empties a line of the vector buffer. -/
def State.emptyVec (s : State) (sl line : Nat) : State :=
  s.each (List.range 8) fun t w8 =>
    { t with mem := { t.mem with vec := Tbl.put none t.mem.vec (vecKey sl line w8) none } }

end Sys2Proof.Machine
end

