-- ==== Sys2Proof/Machine/Access.lean ====
section
/-! DEFINITION. Accesses at their home slice: the checks every path meets (R17, R84, R99), what a read or write
then does, the latency monitors (R152), the places and routes of the mesh (R134, R135, R155), and the first
step of a kill with the Knell it sends (R347, R375). -/

namespace Sys2Proof.Machine

/-! ### Response codes (R99) -/

def rspOk : Nat := 0
def rspFenced : Nat := 1
def rspDenied : Nat := 2
def rspPoison : Nat := 3
def rspRange : Nat := 4
def rspAborted : Nat := 5

/-- The response code of a fault code of R283. -/
def rspOfFault (c : Nat) : Nat :=
  if c = 0x01 then rspRange else if c = 0x02 then rspDenied else if c = 0x03 then rspPoison
  else if c = 0x0A then rspFenced else if c = 0x0B then rspAborted else rspRange

/-! ### The mesh -/

/-- The physical slices in use, ascending; the n-th is logical slice n (R340). -/
def State.physList (s : State) : List Nat :=
  (List.range s.build.slices).filter fun n => !(flag (s.rd A.bootSldis) n)

/-- The physical slice of logical slice `n`. -/
def State.phys (s : State) (n : Nat) : Nat := s.physList.getD n 0

/-- The logical number of a physical slice; 63 for a disabled one (R340). -/
def State.logical (s : State) (p : Nat) : Nat :=
  match findAt (fun q => decide (q = p)) s.physList 0 with
  | some (n, _) => n
  | none => 63

/-- The mesh position of logical slice `n` (R26). -/
def State.pos (s : State) (n : Nat) : Nat × Nat := s.build.meshPos (s.phys n)

/-- The distance of two numbers. -/
def dist (a b : Nat) : Nat := (a - b) + (b - a)

/-- The hop count between two positions (R135). -/
def hopCount (a b : Nat × Nat) : Nat := dist a.1 b.1 + dist a.2 b.2

/-- The hop count between two logical slices. -/
def State.hops (s : State) (a b : Nat) : Nat := hopCount (s.pos a) (s.pos b)

/-- The position of the global units (R16). -/
def globalPos : Nat × Nat := (0, 0)

/-- The hop count between position (0,0) and a slice. -/
def State.hopsGlobal (s : State) (n : Nat) : Nat := hopCount globalPos (s.pos n)

/-- A packet that starts in the last row travels first along Y (R135). -/
def State.yFirst (s : State) (start : Nat × Nat) : Bool := decide (start.2 = s.build.meshY - 1)

/-- The outputs a packet leaves by along X (0: X+, 1: X−), from `x` to `x'` in row `y`. -/
def legX (x x' y : Nat) : List ((Nat × Nat) × Nat) :=
  if x ≤ x' then (List.range (x' - x)).map fun i => ((x + i, y), 0)
  else (List.range (x - x')).map fun i => ((x - i, y), 1)

/-- The outputs a packet leaves by along Y (2: Y+, 3: Y−). -/
def legY (y y' x : Nat) : List ((Nat × Nat) × Nat) :=
  if y ≤ y' then (List.range (y' - y)).map fun i => ((x, y + i), 2)
  else (List.range (y - y')).map fun i => ((x, y - i), 3)

/-- The router outputs on a route, position by position (R135). -/
def State.route (s : State) (a b : Nat × Nat) : List ((Nat × Nat) × Nat) :=
  if s.yFirst a then legY a.2 b.2 a.1 ++ legX a.1 b.1 b.2 else legX a.1 b.1 a.2 ++ legY a.2 b.2 b.1

/-- Counts `flits` flits leaving an output in MESH_LINK (R155). A router without a slice window counts nothing
that can be read. -/
def State.countOutput (s : State) (p : (Nat × Nat) × Nat) (flits : Nat) : State :=
  let ph := p.1.1 + p.1.2 * s.build.meshX
  let n := s.logical ph
  if n < s.nSlices ∧ s.phys n = ph then s.count (A.meshLink n p.2) 0 48 flits else s

/-- Flits of `n` lines: 256 bytes each, at least one (R137). -/
def flitsOf (n : Nat) : Nat := max 1 ((n + 3) / 4)

/-- The clk a packet takes over `h` hops, entry and exit included (R138). -/
def meshTime (h : Nat) : Nat := 2 + 2 * h + 1

/-! ### Latency monitors -/

/-- A monitored request of class `cls` originated in slice `sl` took `lat` clk (R152). -/
def State.monitor (s : State) (sl cls lat : Nat) : State :=
  let a := A.qosHwm sl cls
  let t := s.putF a 0 16 (max (s.getF a 0 16) (min lat 0xFFFF))
  if s.getF (A.qosLthr cls) 0 16 < lat then
    ((t.countSat a 16 16 1).putB (A.qosLflag sl) cls true).raiseIrq 1
  else t

/-- The slice at position (0,0), in which requests from global units are counted (R152). -/
def State.originSlice (s : State) : Nat := s.logical 0

/-! ### Knells and kills -/

/-- A Knell packet of this chip (R364, R375). -/
def State.knellPacket (s : State) (job reason : Nat) : Packet where
  type := 0x8
  ver := 1
  src := s.getF A.chipId 0 16
  dst := s.getF A.chipId 0 16
  win := 0
  tag := 0
  jobid := job
  offset := 0
  len := 0
  toll := false
  count := reason
  rid := 0
  code := 0
  ben := 0
  psn := 0
  lines := []

/-- A Knell is queued; the complex never drops one (R375). A build without a fabric port sends none. -/
def State.queueKnell (s : State) (job reason : Nat) : State :=
  if s.build.chipwin = 0 then s
  else { s with fabric := { s.fabric with knells := s.fabric.knells ++ [s.knellPacket job reason] } }

/-- Step K1 of the kill of context `c` (R347): STATE becomes KILLING, the kill mark leaves (0,0), and a Knell is
sent when KN_KILL is set, unless a Knell caused the kill. -/
def State.killK1 (s : State) (c : Nat) (byKnell : Bool) : State :=
  let t := s.putF (A.ctxE0 c) 32 2 3
  let t : State := { t with boot := { t.boot with kills := t.boot.kills.map fun k =>
      if k.ctx = c then { k with began := s.now, knell := false, keep := s.getB (A.ctxE0 c) 39 } else k } }
  if s.getB (A.ctxE0 c) 37 ∧ ¬byKnell then t.queueKnell (s.jobId c) 1 else t

/-- The kill of a context that is RUN or PAUSED begins; its bit of CTX_KILL is set. A full Knell queue holds
step K1 of a kill that sends a Knell (R375). -/
def State.beginKill (s : State) (c : Nat) (byKnell : Bool) : State :=
  let k : Kill := { ctx := c, began := s.now, marked := [], drained := false, keep := false, aborts := 0, knell := true }
  let t : State := { s.putB A.ctxKill c true with boot := { s.boot with kills := s.boot.kills ++ [k] } }
  if 16 ≤ t.fabric.knells.length ∧ t.getB (A.ctxE0 c) 37 ∧ ¬byKnell then t else t.killK1 c byKnell

/-- A context may be killed by a Knell: it is RUN or PAUSED, and it is neither 0 nor 63 (R347, R377). -/
def State.killable (s : State) (c : Nat) : Bool :=
  decide (c ≠ 0) && decide (c ≠ 63) && (decide (s.ctxState c = 1) || decide (s.ctxState c = 2))

/-- Kills every context of job `job` that is RUN or PAUSED, as a received Knell does (R377). -/
def State.killJob (s : State) (job : Nat) : State :=
  s.each ((List.range 64).filter fun c => s.killable c && decide (s.jobId c = job)) fun t c => t.beginKill c true

/-- An uncorrectable read by context `c` sends a Knell under KN_UE and kills the contexts of its job (R375). -/
def State.knellOnUe (s : State) (c : Nat) : State :=
  if s.getB (A.ctxE0 c) 38 then (s.queueKnell (s.jobId c) 2).killJob (s.jobId c) else s

/-! ### Checks and accesses at the home slice -/

/-- The first code other than OK that the home slice gives a request that names its banks (R99, R347): 5 for a
context under kill, then 1 for a fence, then 2 for the owner check. -/
def State.homeCode (s : State) (sl : Nat) (r : Req) : Nat :=
  let banks := r.lines.map r.bankOf
  if s.killedIn sl r.ctx then rspAborted
  else if banks.any fun b => s.bankFenced sl b then rspFenced
  else if banks.any fun b => s.ownerOf sl b ≠ r.ctx then rspDenied
  else rspOk

/-- Some enabled word of the line is uncorrectable and not poisoned. -/
def State.ueIn (s : State) (sl b l : Nat) (wen : WordEn) : Bool :=
  (wordsOf wen).any fun w8 =>
    let whole := match (s.bank sl b).entry l with
      | some e => decide (wordBen e.ben w8 = 0xFF) || e.psn.getLsbD w8
      | none => false
    !whole && s.wState sl b l w8 &&
      (let d := decodeWord (s.storedWord sl b l w8) (foldAddr b l w8)
       d.bad && !d.poison)

/-- What reads of words of the vector buffer by context `c` record (R246, R284), and the Knell of an uncorrectable one. -/
def State.touchVec (s : State) (sl c cls : Nat) (words : List (Nat × Nat)) : State :=
  let dec := fun (p : Nat × Nat) => (Tbl.get none s.mem.vec (vecKey sl p.1 p.2)).map fun w => decodeWord w (vecAddr p.1 p.2)
  let t := words.foldl (fun (t : State) p => match dec p with
    | some d => t.noteVecWord sl p.1 p.2 c cls d
    | none => t) s
  if words.any fun p => match dec p with
    | some d => d.bad && !d.poison
    | none => false then t.knellOnUe c else t

/-- The lines a read returns. -/
def State.readLines (s : State) (sl : Nat) (r : Req) : List LineRsp :=
  r.lines.map fun l =>
    let v := s.peekLine sl (r.bankOf l) l.row l.wen
    { pos := l.bank, data := v.1, psn := v.2 }

/-- What the reads of a request do to their banks. -/
def State.touchLines (s : State) (sl : Nat) (r : Req) (src : Nat) : State :=
  let ue := r.lines.any fun l => s.ueIn sl (r.bankOf l) l.row l.wen
  let t := r.lines.foldl (fun t l => t.touchLine sl (r.bankOf l) l.row l.wen src r.ctx r.cls) s
  if ue then t.knellOnUe r.ctx else t

/-- The bytes a line of a request writes: those its word enables and byte enables both enable (R96). -/
def LineAcc.enables (l : LineAcc) : ByteEn :=
  (List.range 8).foldl (fun (m : ByteEn) w =>
    if l.wen.getLsbD w then m ||| ((wordBen l.ben w).setWidth 64 <<< (8 * w)) else m) 0

/-- The writes of a request. -/
def State.writeLines (s : State) (sl : Nat) (r : Req) : State :=
  r.lines.foldl (fun t l => t.writeLine sl (r.bankOf l) l.row l.enables l.data (l.psn &&& l.wen)) s

/-- An access that reaches its slot: it is checked as a whole and, under OK, performed (R99). The result is the
code and the lines returned; POISON when an enabled word is poisoned. -/
def State.perform (s : State) (sl : Nat) (r : Req) : Nat × List LineRsp × State :=
  let code := s.homeCode sl r
  if code ≠ rspOk then (code, [], s)
  else if r.write then (rspOk, [], s.writeLines sl r)
  else
    let ls := s.readLines sl r
    (if ls.any fun l => l.psn ≠ 0 then rspPoison else rspOk, ls, s.touchLines sl r 0)

end Sys2Proof.Machine
end

