-- ==== Sys2Proof/Machine/Inbound.lean ====
section
/-! DEFINITION. The inbound side of the fabric port: the tags of a chip window, its closing (R371, R373), the counting
of writes, and the response to a request (R365, R366, R374). -/

namespace Sys2Proof.Machine

/-! ### Windows and tags -/

/-- STATE of window `w`: 0 CLOSED, 1 OPEN, 2 DRAINING (R381). -/
def State.winState (s : State) (w : Nat) : Nat := s.getF (A.chwinCtl w) 17 2

/-- Sets STATE of window `w`. -/
def State.setWin (s : State) (w v : Nat) : State := s.putF (A.chwinCtl w) 17 2 v

/-- The local context of window `w`. -/
def State.winCtx (s : State) (w : Nat) : Nat := s.getF (A.chwinJob w) 32 6

/-- Tag `g` of window `w`. -/
def State.fpTag (s : State) (w g : Nat) : FpTag := Tbl.get FpTag.idle s.fabric.tags (256 * w + g)

/-- Sets a tag; OPENTAGS follows (R382). -/
def State.putTag (s : State) (w g : Nat) (x : FpTag) : State :=
  let was := (s.fpTag w g).isOpen
  let t : State := { s with fabric := { s.fabric with tags := Tbl.put FpTag.idle s.fabric.tags (256 * w + g) x } }
  let n := s.getF (A.chwinStat w) 0 9
  if x.isOpen ∧ was = false then t.putF (A.chwinStat w) 0 9 (n + 1)
  else if x.isOpen = false ∧ was then t.putF (A.chwinStat w) 0 9 (n - 1)
  else t

/-- Every tag of a window becomes IDLE; OPEN ones are dropped and counted in DROP (R371). -/
def State.dropTags (s : State) (w : Nat) : State :=
  let n := s.getF (A.chwinStat w) 0 9
  let t : State := { s with fabric := { s.fabric with tags := s.fabric.tags.filter fun e => e.1 / 256 ≠ w } }
  (t.countSat (A.chwinStat w) 48 16 n).putF (A.chwinStat w) 0 9 0

/-- A window closes (R371). -/
def State.closeWindow (s : State) (w : Nat) : State :=
  let t := (s.dropTags w).setWin w 0
  { t with fabric := { t.fabric with closeAt := Tbl.erase t.fabric.closeAt w } }

/-- Every window that a test accepts and that is not CLOSED closes. -/
def State.closeWindows (s : State) (p : Nat → Bool) : State :=
  s.each ((List.range s.build.chipwin).filter fun w => p w && decide (s.winState w ≠ 0)) State.closeWindow

/-! ### Responses -/

/-- The lines of a response in the order of the request's lines, from its first line on. -/
def Resp.placed (r : Resp) : List LineRsp := r.lines.zipIdx.map fun p => { p.1 with pos := r.tag + p.2 }

/-- A fault code as a response of the fabric port carries it (R366). -/
def fpCode (c : Nat) : Nat := if c = 7 then rspAborted else c

/-- The response to an inbound request: RDATA to a READ, WRSP to a write. -/
def State.fpResponse (s : State) (p : Packet) (code : Nat) (lines : List LineRsp) : Packet :=
  let read := decide (p.type = 4)
  let data := read && (decide (code = rspOk) || decide (code = rspPoison))
  let at' := fun (i : Nat) => lines.find? fun l => l.pos = i
  { type := if read then 5 else 3
    ver := 1
    src := s.getF A.chipId 0 16
    dst := p.src
    win := p.win
    tag := p.tag
    jobid := p.jobid
    offset := p.offset
    len := p.len
    toll := false
    count := 0
    rid := p.rid
    code := code
    ben := 0
    psn := if data then maskOf ((List.range (p.len + 1)).filter fun i => match at' i with
      | some l => decide (l.psn ≠ 0)
      | none => false) else 0
    lines := if data then (List.range (p.len + 1)).map fun i => match at' i with
      | some l => l.data
      | none => 0 else [] }

/-- Beats of a packet: its header and its lines (R363). -/
def packetBeats (p : Packet) : Nat := 1 + p.lines.length

/-- The first clk behind the packets of a list, and not before `c`. -/
def sentEnd (c : Nat) (l : List (Packet × Nat)) : Nat := l.foldl (fun m x => max m (x.2 + packetBeats x.1)) c

/-- The fabric port sends a packet, one beat a clk: behind the packets that it has been given, but for a Knell, which goes out
at the next packet boundary, ahead of every other packet (R363, R375). DESIGN CHOICE (log 16): FP_TX_READY is high. -/
def State.fpShow (s : State) (p : Packet) : State :=
  let live := s.fabric.sent.filter fun x => decide (s.now < x.2 + packetBeats x.1)
  let first := live.filter fun x => decide (x.2 ≤ s.now) || decide (x.1.type = 8)
  let rest := live.filter fun x => !(decide (x.2 ≤ s.now) || decide (x.1.type = 8))
  let l := if p.type = 8 then first ++ (p, sentEnd s.now first) :: rest.map fun x => (x.1, x.2 + 1)
    else live ++ [(p, sentEnd s.now live)]
  { s with fabric := { s.fabric with shown := some p, sent := l } }

/-- The header of a packet (R364): words 0 to 4; the others are zero. -/
def packetHeader (p : Packet) : Line :=
  let w0 := setFld (setFld (setFld (setFld (setFld (setFld 0 0 4 p.type) 4 4 p.ver) 8 16 p.src) 24 16 p.dst) 40 6 p.win) 46 8 p.tag
  let w1 := setFlag (setFld (setFld (setFld 0 0 32 p.jobid) 32 25 p.offset) 57 6 p.len) 63 p.toll
  let w2 := setFld (setFld (setFld 0 0 16 p.count) 16 8 p.rid) 24 3 p.code
  lineOfWords [w0, w1, w2, p.ben, p.psn, 0, 0, 0]

/-- The packet on the outbound channel in clk `c`, and the index of its beat. -/
def State.fpTx (s : State) (c : Nat) : Option (Packet × Nat) :=
  (s.fabric.sent.find? fun x => decide (x.2 ≤ c) && decide (c < x.2 + packetBeats x.1)).map fun x => (x.1, c - x.2)

/-- FP_TX_VALID, FP_TX_SOP, FP_TX_EOP, FP_TX_BCAST and FP_TX_DATA in clk `c` (R363). -/
def State.fpTxValid (s : State) (c : Nat) : Bool := (s.fpTx c).isSome
def State.fpTxSop (s : State) (c : Nat) : Bool := (s.fpTx c).any fun x => decide (x.2 = 0)
def State.fpTxEop (s : State) (c : Nat) : Bool := (s.fpTx c).any fun x => decide (x.2 + 1 = packetBeats x.1)
def State.fpTxBcast (s : State) (c : Nat) : Bool := (s.fpTx c).any fun x => decide (x.1.type = 8)
def State.fpTxData (s : State) (c : Nat) : Line :=
  match s.fpTx c with
  | some (p, 0) => packetHeader p
  | some (p, n + 1) => p.lines.getD n 0
  | none => 0

/-- The completion pair of a window is signalled; a SIGNAL that its context may not give is lost (R374). -/
def State.signalPair (s : State) (w : Nat) : State :=
  let sl := s.getF (A.chwinCtl w) 10 6
  let pair := s.getF (A.chwinCtl w) 2 8
  if s.getB (A.chwinCtl w) 16 ∧ s.hasSlice sl ∧ (s.slice sl).fenceOff = false ∧ s.claveMay sl pair (s.winCtx w) then
    s.claveSignal sl pair false 1
  else s

/-- A tolled write has been performed: the arrivals of its tag are compared with COUNT, and the tag returns to IDLE
(R374). The result is the code of its answer. -/
def State.tollDone (s : State) (p : Packet) (code : Nat) : Nat × State :=
  let t := s.putTag p.win p.tag FpTag.idle
  if (s.fpTag p.win p.tag).arr = p.count then
    (code, (t.countSat (A.chwinStat p.win) 16 16 1).signalPair p.win)
  else (rspAborted, (t.countSat (A.chwinStat p.win) 32 16 1).raiseIrq 7)

/-- An untolled packet has been performed: ARR of its tag rises by 1 (R373). -/
def State.arrived (s : State) (p : Packet) : State :=
  let x := s.fpTag p.win p.tag
  if x.isOpen then s.putTag p.win p.tag { x with arr := min (x.arr + 1) 0xFFFF } else s

/-- An inbound request of code `code` is answered. -/
def State.fpAnswer (s : State) (p : Packet) (code : Nat) (lines : List LineRsp) : State :=
  let done := decide (code = rspOk) || decide (code = rspPoison)
  let tolled := p.toll && decide (p.type ≠ 4)
  if done = false then s.fpShow (s.fpResponse p code [])
  else if tolled then
    let r := s.tollDone p code
    r.2.fpShow (s.fpResponse p r.1 [])
  else (s.arrived p).fpShow (s.fpResponse p code lines)

/-- Inbound request `id` is answered once all its parts have been. -/
def State.fpFinish (s : State) (id : Nat) : State :=
  match s.fabric.inbound.find? fun (p : FpIn) => p.id = id with
  | some p =>
    if p.need ≠ 0 then s
    else
      let t : State := { s with fabric := { s.fabric with
        inbound := s.fabric.inbound.filter fun (q : FpIn) => q.id ≠ id } }
      t.fpAnswer p.pkt p.code p.lines
  | none => s

end Sys2Proof.Machine
end

