-- ==== Sys2Proof/Machine/Mesh.lean ====
section
/-! DEFINITION. The mesh clk by clk: the way of a packet, the buffers of the routers and their credit (R136), the choice of
each output among classes and bursts (R137 to R139, R149, R150, R153), the flits counted (R155), and the merging of Carillon
acknowledgements (R146). -/

namespace Sys2Proof.Machine

/-- The minimum share of class `c` of a resource, which is zero while the Tuner holds the class shares (R149, R292). -/
def State.share (s : State) (c lo n : Nat) : Nat := if s.notOk 8 0 then 0 else fld (s.inForce (A.qosShare c)) lo n

/-! ### Outputs -/

/-- The number of an output of the router at a position: 0 X+, 1 X−, 2 Y+, 3 Y−, 4 into the slice, 5 to the global units
(R155); 6 stands for the global link into the mesh, 7 for the entry from the slice. -/
def State.outKey (s : State) (p : Nat × Nat) (out : Nat) : Nat := (p.1 + p.2 * s.build.meshX) * 8 + out

/-- The position of the router of an output. -/
def State.keyPos (s : State) (k : Nat) : Nat × Nat := (k / 8 % s.build.meshX, k / 8 / s.build.meshX)

/-- The position that an output leads to. -/
def State.keyNext (s : State) (k : Nat) : Nat × Nat :=
  let p := s.keyPos k
  match k % 8 with
  | 0 => (p.1 + 1, p.2)
  | 1 => (p.1 - 1, p.2)
  | 2 => (p.1, p.2 + 1)
  | 3 => (p.1, p.2 - 1)
  | _ => p

/-- The position of a slice, or of the global units under 64. -/
def State.posOf (s : State) (n : Nat) : Nat × Nat := if n = 64 then globalPos else s.pos n

/-- The entry of an origin: that of its slice, or the global link. -/
def State.entryKey (s : State) (src : Nat) : Nat := s.outKey (s.posOf src) (if src = 64 then 6 else 7)

/-- The output by which a packet leaves the mesh at its destination. -/
def State.exitKey (s : State) (dst : Nat) : Nat := s.outKey (s.posOf dst) (if dst = 64 then 5 else 4)

/-- Two slices, or 64 for the global units: the outputs between them, entry and exit included (R135). -/
def State.wayKeys (s : State) (src dst : Nat) : List Nat :=
  s.entryKey src :: (s.route (s.posOf src) (s.posOf dst)).map (fun p => s.outKey p.1 p.2) ++ [s.exitKey dst]

/-- A way with the outputs to one more destination: each output once, behind the one that leads to it (R145). -/
def addWay (way : List Branch) (keys : List Nat) : List Branch :=
  (keys.foldl (fun (r : List Branch × Nat) k =>
    match findAt (fun (b : Branch) => decide (b.out = k)) r.1 0 with
    | some (i, _) => (r.1, i)
    | none => (r.1 ++ [{ out := k, back := if r.1.isEmpty then 0 else r.2, passed := [] }], r.1.length)) (way, 0)).1

/-- The tree from a source to some destinations: the union of the routes (R143, R145). -/
def State.treeWay (s : State) (src : Nat) (dsts : List Nat) : List Branch :=
  dsts.foldl (fun w d => addWay w (s.wayKeys src d)) []

/-- The virtual channel of a packet: request or response, X-first or Y-first (R136). -/
def State.channel (s : State) (src : Nat) (response : Bool) : Nat :=
  (if response then 2 else 0) + if s.yFirst (s.posOf src) then 1 else 0

/-! ### Where a packet is -/

/-- The outputs behind output `i` of a packet's way. -/
def Flight.kids (f : Flight) (i : Nat) : List Branch :=
  (f.way.zipIdx.filter fun p => decide (p.1.back = i) && decide (p.2 ≠ i)).map Prod.fst

/-- Every flit has won every output. -/
def Flight.done (f : Flight) : Bool := f.way.all fun b => decide (f.flits ≤ b.passed.length)

/-- The clk from which the next flit of a packet may win output `i` of its way: it enters one flit per clk from the clk in
which it is offered, and each entry and hop takes 2 clk (R137, R138). -/
def Flight.arrival (f : Flight) (i : Nat) : Option Nat :=
  match f.way[i]? with
  | none => none
  | some b =>
    let k := b.passed.length
    if f.flits ≤ k then none
    else if b.back = i then some (f.at' + k * f.gap)
    else match f.way[b.back]? with
      | some p => (p.passed[k]?).map (· + 2)
      | none => none

/-- The flits of a packet that the buffer behind output `o` holds in clk `c`: those that have won the output, up to this
clk, and of which some output behind it had not taken a copy before it (R136, R143). -/
def Flight.buffered (f : Flight) (o c : Nat) : Nat :=
  f.way.zipIdx.foldl (fun n p =>
    if p.1.out ≠ o then n
    else match f.kids p.2 with
      | [] => n
      | b :: bs =>
        let gone := fun (x : Branch) => (x.passed.filter (· < c)).length
        n + (p.1.passed.length - bs.foldl (fun m x => min m (gone x)) (gone b))) 0

/-- The buffer behind output `o` has room for a flit of class `cls` on channel `vc`: its reserved flit, or one of the pool
of 8, of which a class holds at most 6 (R136). A credit returns in the clk behind that in which a flit leaves. -/
def hasRoom (fs : List Flight) (o vc cls c : Nat) : Bool :=
  let held := fun (k : Nat) =>
    (fs.filter fun f => decide (f.vc = vc) && decide (f.cls = k)).foldl (fun n f => n + f.buffered o c) 0
  let own := held cls
  decide (own = 0) ||
    (decide (own - 1 < 6) && decide ((List.range 8).foldl (fun n k => n + (held k - 1)) 0 < 8))

/-- A flit that may win an output: its packet's place in the list, the place of the output in its way, and the clk in
which it arrived. -/
structure Flit where
  f : Flight
  ix : Nat
  came : Nat
  deriving DecidableEq, Repr

/-- A request packet between the same two ends on the same channel was sent earlier and has not passed output `o`
(R140). -/
def behind (before : List Flight) (f : Flight) (o : Nat) : Bool :=
  let ends := fun (g : Flight) => (g.way.head?.map Branch.out, g.way.getLast?.map Branch.out)
  decide (f.vc < 2) && before.any fun g =>
    decide (g.vc = f.vc) && decide (ends g = ends f) && g.way.any fun b => decide (b.out = o) && decide (b.passed.length < g.flits)

/-- The flits that wait for output `o` in clk `c` and find room behind it. -/
def flitsAt (o c : Nat) : List Flight → List Flight → List Flit
  | _, [] => []
  | before, f :: rest =>
    let here := f.way.zipIdx.filterMap fun p =>
      if p.1.out ≠ o then none
      else match f.arrival p.2 with
        | some t =>
          if t ≤ c ∧ ((f.kids p.2).isEmpty ∨ hasRoom (before ++ f :: rest) o f.vc f.cls c) ∧ behind before f o = false then
            some { f := f, ix := p.2, came := t }
          else none
        | none => none
    here ++ flitsAt o c (before ++ [f]) rest

/-! ### The choice of an output (R139, R150) -/

/-- The flit that has waited longest; DESIGN CHOICE: of those that came in one clk, that of the packet sent first. -/
def oldestFlit : List Flit → Option Flit
  | [] => none
  | x :: t => match oldestFlit t with
    | some y => if y.came < x.came then some y else some x
    | none => some x

/-- Flit clks that class `k` has taken of output `o` in the window. -/
def Net.taken (n : Net) (o k : Nat) : Nat := Tbl.get 0 n.linkTaken (o * 8 + k)

/-- The flit that an output without a burst takes: the packet under way goes on; else a class under share, in turn from the
class behind the one last served; else the oldest (R150). -/
def Net.freePick (n : Net) (share : Nat → Nat) (o : Nat) (xs : List Flit) : Option Flit :=
  match xs.find? fun x => !(((x.f.way[x.ix]?).map Branch.passed).getD []).isEmpty with
  | some x => some x
  | none =>
    let last := Tbl.get 0 n.linkTurn o
    let first := ((List.range 8).map fun i => (last + 1 + i) % 8).find? fun k =>
      decide (n.taken o k < share k) && xs.any fun x => decide (x.f.cls = k)
    match first with
    | some k => oldestFlit (xs.filter fun x => x.f.cls = k)
    | none => oldestFlit xs

/-- The burst that holds output `o`. -/
def Net.holder (n : Net) (o : Nat) : Option HeldOut := n.held.find? fun h => h.out = o

/-- The burst that holds output `o` gives it up in clk `c`: its next flit has not arrived within 16 clk of the flit before
it, or it has held the output for 64 clk (R139). -/
def HeldOut.over (h : HeldOut) (c : Nat) (arrived : Bool) : Bool :=
  decide (h.since + 64 ≤ c) || (decide (h.last + 16 ≤ c) && !arrived)

/-- A flit wins an output in clk `c`: it counts for its class, and for MESH_LINK; the output is held for a burst until its
last flit has passed. -/
def State.takeLink (s : State) (c o : Nat) (x : Flit) : State :=
  let n := s.net
  let k := ((x.f.way[x.ix]?).map fun b => b.passed.length).getD 0
  let flights := n.flights.map fun f =>
    if f.id = x.f.id then
      { f with way := f.way.zipIdx.map fun p => if p.2 = x.ix then { p.1 with passed := p.1.passed ++ [c] } else p.1 }
    else f
  let rest := n.held.filter fun h => h.out ≠ o
  let since := match n.holder o with
    | some h => if h.burst = x.f.burst then h.since else c
    | none => c
  let ends := x.f.last && decide (k + 1 = x.f.flits)
  let held := if x.f.burst = 0 ∨ ends then rest else rest ++ [{ out := o, burst := x.f.burst, since := since, last := c }]
  let t : State := { s with net := { n with
    flights := flights, held := held, linkTurn := Tbl.put 0 n.linkTurn o x.f.cls
    linkTaken := Tbl.put 0 n.linkTaken (o * 8 + x.f.cls) (n.taken o x.f.cls + 1) } }
  if o % 8 < 6 then t.countOutput (s.keyPos o, o % 8) 1 else t

/-- A router releases output `o`, which a burst holds, and counts it in MESH_BREAK (R139). A router without a slice window
counts nothing that can be read. -/
def State.breakLink (s : State) (o : Nat) : State :=
  let n := s.logical (o / 8)
  let t : State := { s with net := { s.net with held := s.net.held.filter fun h => h.out ≠ o } }
  if n < s.nSlices ∧ s.phys n = o / 8 then t.count (A.meshBreak n) 0 48 1 else t

/-- Output `o` in clk `c`. Every flit that finds room enters from its slice; a link and an exit carry one flit. -/
def State.linkStep (s : State) (c o : Nat) : State :=
  let xs := flitsAt o c [] s.net.flights
  if o % 8 = 7 then
    xs.foldl (fun (t : State) y => match (flitsAt o c [] t.net.flights).find? fun z => decide (z.f.id = y.f.id) with
      | some z => t.takeLink c o z
      | none => t) s
  else match s.net.holder o with
    | some h =>
      let mine := xs.find? fun x => x.f.burst = h.burst
      let arrived := s.net.flights.any fun f => decide (f.burst = h.burst) && f.way.zipIdx.any fun p =>
        decide (p.1.out = o) && (match f.arrival p.2 with
          | some t => decide (t ≤ c)
          | none => false)
      if h.over c arrived then
        match s.net.freePick (fun k => s.share k 0 7) o xs with
        | some x => (s.breakLink o).takeLink c o x
        | none => s.breakLink o
      else match mine with
        | some x => s.takeLink c o x
        | none => s
    | none => match s.net.freePick (fun k => s.share k 0 7) o xs with
      | some x => s.takeLink c o x
      | none => s

/-! ### Acknowledgements (R146) -/

/-- A way to `p` in the tree from a source to some receivers: the output that leads to that router, if any, and how many
outputs of the tree leave it. -/
def State.treeAt (s : State) (src : Nat) (dsts : List Nat) (p : Nat × Nat) : Option Nat × Nat :=
  let way := s.treeWay src dsts
  ((way.find? fun b => decide (b.out % 8 < 4) && decide (s.keyNext b.out = p)).map Branch.out,
    (way.filter fun b => decide (b.out % 8 < 5) && decide (s.keyPos b.out = p)).length)

/-- The output that leads back over an output. -/
def State.backKey (s : State) (o : Nat) : Nat := s.outKey (s.keyNext o) (if o % 8 % 2 = 0 then o % 8 + 1 else o % 8 - 1)

/-- An acknowledgement is of the stroke, and of the packet, that a router merges. -/
def Merge.takes (m : Merge) (router : Nat) (a : AckMark) : Bool :=
  decide (m.router = router) && decide ((m.ack.g, m.ack.src, m.ack.no, m.ack.n, m.ack.dests) = (a.g, a.src, a.no, a.n, a.dests))

/-- An acknowledgement joins those that a router merges. -/
def Merge.join (m : Merge) (a : AckMark) : Merge :=
  { m with ack := { m.ack with got := m.ack.got ++ a.got }, left := m.left - 1 }

/-- An acknowledgement reaches the router at `p` in clk `c`: it joins those of the other branches of its stroke there. -/
def State.joinAck (s : State) (a : AckMark) (p : Nat × Nat) (c : Nat) : State :=
  let key := s.outKey p 0 / 8
  let m : Merge := { router := key, ack := a, left := (s.treeAt a.src a.dests p).2 - 1, first := c }
  let merges :=
    if s.net.merges.any fun x => x.takes key a then s.net.merges.map fun x => if x.takes key a then x.join a else x
    else s.net.merges ++ [m]
  { s with net := { s.net with merges := merges } }

/-- The merged acknowledgement of a router leaves it towards the source, or into the source's slice. -/
def State.sendAck (s : State) (m : Merge) (c : Nat) : State :=
  let p := s.keyPos (8 * m.router)
  let out := match (s.treeAt m.ack.src m.ack.dests p).1 with
    | some o => s.backKey o
    | none => s.outKey p 4
  let f : Flight :=
    { id := s.net.nextFlight, vc := s.channel m.ack.src true, cls := m.ack.cls, flits := 1, burst := 0, last := true, at' := c, gap := 1
      way := [{ out := out, back := 0, passed := [] }], ack := some m.ack }
  { s with net := { s.net with
    flights := s.net.flights ++ [f], nextFlight := s.net.nextFlight + 1, merges := s.net.merges.filter fun x => x ≠ m } }

/-- Acknowledgements that come to a router in clk `c` are merged there; those whose branches have all answered, or of which
the first answered 8 clk ago, go on. -/
def State.ackStep (s : State) (c : Nat) : State :=
  let here := s.net.flights.filter fun f => f.ack.isSome && f.way.any fun b => decide (b.out % 8 ≠ 4) && decide (b.passed = [c - 2])
  let t : State := { s with net := { s.net with flights := s.net.flights.filter fun f => !(here.contains f) } }
  let t := here.foldl (fun (t : State) f => match f.ack, f.way with
    | some a, b :: _ => t.joinAck a (t.keyNext b.out) c
    | _, _ => t) t
  (t.net.merges.filter fun m => decide (m.left = 0) || decide (m.first + 8 ≤ c)).foldl (fun (t : State) m => t.sendAck m c) t

/-! ### Time -/

/-- Something still waits for a packet: a request, a response, a peal write or a stroke. -/
def Net.refers (n : Net) (f : Flight) : Bool :=
  n.pkts.any (fun p => decide (p.flight = f.id)) || n.rpkts.any (fun p => decide (p.flight = f.id)) ||
    n.peals.any (fun p => decide (p.flight = f.id)) ||
    (n.xfers ++ n.strays).any (fun x => x.strokes.any fun k => k.copies.any fun y => decide (y.flight = f.id)) ||
    (match f.ack with
     | some a => n.xfers.any fun x => decide ((x.g, x.sl, x.no) = (a.g, a.src, a.no))
     | none => false)

/-- The outputs that some packet has still to win, or that a burst holds. -/
def Net.wanted (n : Net) : List Nat :=
  ((n.flights.flatMap fun f => (f.way.filter fun b => decide (b.passed.length < f.flits)).map Branch.out) ++
    n.held.map HeldOut.out).eraseDups

/-- Clk `n.meshAt` passes in the mesh. -/
def State.meshStep (s : State) : State :=
  let c := s.net.meshAt
  let n := if s.net.linkWindow = c / 64 then s.net else { s.net with linkWindow := c / 64, linkTaken := [] }
  let t := (({ s with net := n } : State).ackStep c)
  let t := t.net.wanted.foldl (fun (t : State) o => t.linkStep c o) t
  { t with net := { t.net with
    meshAt := c + 1, flights := t.net.flights.filter fun f => !f.done || t.net.refers f } }

/-- Nothing moves in the mesh. -/
def Net.still (n : Net) : Bool :=
  n.merges.isEmpty && n.held.isEmpty && n.flights.all fun f => f.done && (f.ack.isNone || f.way.all fun b => b.out % 8 = 4)

/-- The mesh up to the present clk. -/
def State.meshCatch (s : State) : Nat → State
  | 0 => s
  | k + 1 =>
    if s.now ≤ s.net.meshAt then s
    else if s.net.still then
      { s with net := { s.net with meshAt := s.now, flights := s.net.flights.filter fun f => s.net.refers f } }
    else s.meshStep.meshCatch k

/-- Every clk before the present one has passed in the mesh. -/
def State.meshNow (s : State) : State := s.meshCatch (s.now - s.net.meshAt)

/-- How many clk the model looks ahead for an arrival. -/
def meshFuel : Nat := 65536

/-- The mesh runs on until `stop` gives the clk of an event; none where it moves no more. -/
def State.meshRun (s : State) (stop : Net → Option Nat) : Nat → Option (Nat × State)
  | 0 => none
  | k + 1 => match stop s.net with
    | some c => some (c, s)
    | none => if s.net.still then none else s.meshStep.meshRun stop k

/-- The event of the mesh for which `stop` gives the clk, with the state in that clk. -/
def State.meshEvent (s : State) (stop : Net → Option Nat) : Option State :=
  (s.meshRun stop meshFuel).map fun r => r.2.reach r.1

/-! ### Packets -/

/-- A packet enters the mesh for some destinations, its first flit in clk `at'` and one every `gap` clk. The result is its
number. -/
def State.launch (s : State) (src : Nat) (dsts : List Nat) (response : Bool) (cls flits burst : Nat) (last : Bool)
    (at' gap : Nat) :
    Nat × State :=
  let id := s.net.nextFlight
  let f : Flight :=
    { id := id, vc := s.channel src response, cls := cls, flits := max 1 flits, burst := burst, last := last, at' := at', gap := gap
      way := s.treeWay src dsts, ack := none }
  (id, { s with net := { s.net with flights := s.net.flights ++ [f], nextFlight := id + 1 } })

/-- The packet of number `id`. -/
def Net.flight (n : Net) (id : Nat) : Option Flight := n.flights.find? fun f => f.id = id

/-- The clk in which flit `k` of a packet has left the mesh by output `o` (R138). -/
def Flight.leftBy (f : Flight) (o k : Nat) : Option Nat :=
  match f.way.find? fun b => b.out = o with
  | some b => (b.passed[k]?).map (· + 1)
  | none => none

/-- The clk in which the last flit of packet `id` has left the mesh by output `o`. -/
def Net.lastOut (n : Net) (id o : Nat) : Option Nat := (n.flight id).bind fun f => f.leftBy o (f.flits - 1)

/-- The clk in which the first flit of packet `id` has left the mesh by output `o`. -/
def Net.firstOut (n : Net) (id o : Nat) : Option Nat := (n.flight id).bind fun f => f.leftBy o 0

end Sys2Proof.Machine
end

