-- ==== Sys2Proof/Machine/Deliver.lean ====
section
/-! DEFINITION. Where a response goes: to the port, stream, system port, fabric port or peal write that is
waiting for it, directly or through the mesh (R80, R100, R138, R140). -/

namespace Sys2Proof.Machine

/-! ### The clock of a port (R94, R103, R104) -/

/-- The width of port `p` in bytes. -/
def State.portWidth (s : State) (p : Nat) : Nat :=
  match s.build.widths.getD p 0 with
  | 1 => 128
  | 2 => 256
  | _ => 512

/-- The period of pclk in half-clks: 2, 4 or 3 for ratios 1:1, 1:2 and 2:3. -/
def State.portPeriod (s : State) (p : Nat) : Nat :=
  match s.build.ratios.getD p 0 with
  | 1 => 4
  | 2 => 3
  | _ => 2

/-- The first pclk edge at or after clk `c`, as the number of the edge. -/
def State.edgeAt (s : State) (p c : Nat) : Nat := (2 * c + s.portPeriod p - 1) / s.portPeriod p

/-- The clk in which a pclk edge lies. -/
def State.edgeClk (s : State) (p e : Nat) : Nat := e * s.portPeriod p / 2

/-- `a` of R103: the clk a narrow port takes to assemble the image. -/
def State.assemble (s : State) (p : Nat) : Nat := if s.portWidth p = 512 then 0 else 1

/-- The nominal issue clk of a request accepted at edge `e` (R103). -/
def State.nominal (s : State) (p e : Nat) : Nat := s.edgeClk p e + 1 + s.assemble p

/-- The round trip in pclk (R104). -/
def State.roundTrip (s : State) (p : Nat) : Nat :=
  let wide := decide (s.portWidth p = 512)
  match s.build.ratios.getD p 0 with
  | 1 => if wide then 6 else 7
  | 2 => if wide then 8 else if s.build.gcell then 10 else 9
  | _ => (if wide then 11 else 13) + if s.build.gcell then 1 else 0

/-- One more than the highest line of a request, 0 without a line. -/
def hiLines (l : List LineAcc) : Nat := l.foldl (fun n x => max n (x.bank + 1)) 0

/-- Response beats of a read that names lines up to `n` (R96). -/
def State.beats (s : State) (p n : Nat) : Nat := max 1 ((64 * n + s.portWidth p - 1) / s.portWidth p)

/-- The first pclk edge at which a local response is presented: not before `r + b`, not before the round trip,
and behind the beats of earlier responses (R100, R103). `nominal` gives the acceptance edge. -/
def State.rspEdge (s : State) (sl p nominal ready : Nat) : Nat :=
  let e := s.edgeAt p (nominal - 1 - s.assemble p)
  max (max (s.edgeAt p (ready + 1 + s.assemble p)) (e + s.roundTrip p)) (s.port sl p).lastBeat

/-! ### Progress -/

/-- A client-port request of context `c` answered OK counts as progress (R349). -/
def State.portProgress (s : State) (c code : Nat) : State :=
  if code = rspOk then s.count (A.ctxProgress c) 48 16 1 else s

/-- A response that nothing waits for is absorbed and counted (R344). -/
def State.lateResponse (s : State) : State := s.count A.bootStat 32 32 1

/-! ### Codes of requests in several parts -/

/-- The code of a request whose parts gave `old` so far and now `new`: the first code under which nothing of a
part was done, else POISON, else OK. -/
def joinCode (old new : Nat) : Nat :=
  if old = rspOk then new else if old = rspPoison ∧ new ≠ rspOk then new else old

/-! ### Delivery -/

/-- An access of a slot is one of a strike operation, which is not monitored (R152). -/
def State.strikesAcc (s : State) (sl j acc : Nat) : Bool :=
  (s.slot sl j).accs.any fun a => decide (a.id = acc) && (s.slot sl j).insts.any fun i =>
    decide (i.no = a.no) && decide (0x30 ≤ i.word.toNat / 2 ^ 56)

/-- A response reaches its requester: `r.due` is the clk in which it is ready there. -/
def State.deliver (s : State) (r : Resp) : State :=
  match r.origin with
  | .port sl p =>
    if (s.port sl p).rout = 0 then s.lateResponse
    else (s.modPort sl p fun x => { x with remoteRsps := x.remoteRsps ++ [r] }).monitor sl r.cls (r.due - r.since)
  | .stream sl j acc =>
    if (s.slot sl j).accs.any fun a => a.id = acc ∧ a.resp = none ∧ a.issued then
      let t := s.modSlot sl j fun x => { x with accs := x.accs.map fun a => if a.id = acc then { a with resp := some r } else a }
      if s.strikesAcc sl j acc then t else t.monitor sl r.cls (r.due - r.since)
    else s.lateResponse
  | .sysport tag =>
    if s.sysport.txns.any fun (t : SpTxn) => t.tag = tag ∧ t.need ≠ 0 then
      let u : State := { s with sysport := { s.sysport with txns := s.sysport.txns.map fun (t : SpTxn) =>
        if t.tag = tag then
          { t with need := t.need - 1, code := joinCode t.code r.code, lines := t.lines ++ r.placed, due := max t.due r.due }
        else t } }
      u.monitor s.originSlice r.cls (r.due - r.since)
    else s.lateResponse
  | .fabric id =>
    if s.fabric.inbound.any fun (t : FpIn) => t.id = id ∧ t.need ≠ 0 then
      let u : State := { s with fabric := { s.fabric with inbound := s.fabric.inbound.map fun (t : FpIn) =>
        if t.id = id then
          { t with need := t.need - 1, code := joinCode t.code r.code, lines := t.lines ++ r.placed, due := max t.due r.due }
        else t } }
      (u.monitor s.originSlice r.cls (r.due - r.since)).fpFinish id
    else s.lateResponse
  | .peal id sl =>
    let t : State := { s with net := { s.net with peals := s.net.peals.map fun (p : Peal) =>
      if p.id = id then
        { p with waiting := p.waiting.erase sl, code := if p.code = 0 then r.code else p.code }
      else p } }
    if r.code = rspOk then t else t.wr A.glbPealSkip (t.rd A.glbPealSkip ||| (1#64 <<< sl))
  | .scrub _ => s
  | .late _ => s.lateResponse

/-- The slice an origin lies in, none for the global units. -/
def Origin.slice : Origin → Option Nat
  | .port sl _ => some sl
  | .stream sl _ _ => some sl
  | .sysport _ => none
  | .fabric _ => none
  | .peal _ sl => some sl
  | .scrub sl => some sl
  | .late sl => if sl = 64 then none else some sl

/-- A local port response takes its place behind the port's earlier ones (R100). -/
def State.portAnswer (s : State) (sl p : Nat) (r : Resp) : State :=
  let e := s.rspEdge sl p r.since r.due
  let n := if r.write ∨ r.clave.isSome ∨ (r.code ≠ rspOk ∧ r.code ≠ rspPoison) then 1
    else s.beats p (r.lines.foldl (fun n l => max n (l.pos + 1)) 0)
  (s.modPort sl p fun x =>
    { x with localRsps := x.localRsps ++ [{ r with due := e }], lastBeat := e + n }).monitor sl r.cls (r.due - r.since)

/-- A response packet enters the mesh at its home slice, under the burst of its request (R139). -/
def State.sendRsp (s : State) (src dst sent flits burst : Nat) (last : Bool) (r : Resp) : State :=
  let x := s.launch src [dst] true r.cls flits (if burst = 0 then 0 else 2 * burst + 1) last sent 1
  let p : RPkt := { src := src, dst := dst, sent := sent, flits := flits, rsp := r, flight := x.1 }
  { x.2 with net := { x.2.net with rpkts := x.2.net.rpkts ++ [p] } }

/-- A remote SIGNAL of a stream. -/
def Req.isSignal (q : Req) : Bool :=
  q.clave.isSome && (match q.origin with
    | .stream _ _ _ => true
    | _ => false)

/-- Clk from the issue of a request to its response: the fixed latency (R80), and one for a remote SIGNAL of a stream, so
that its response is back 4h + 7 clk after it was sent (R183). -/
def State.latencyOf (s : State) (q : Req) : Nat := if q.isSignal then 1 else s.latency

/-- The home slice `sl` answers a request issued in clk `issue` (R80): a local requester receives the response at
the fixed latency, any other, and a remote SIGNAL, through the mesh. -/
def State.answer (s : State) (sl : Nat) (q : Req) (code : Nat) (lines : List LineRsp) (clave : Option Word)
    (issue : Nat) : State :=
  let r : Resp :=
    { origin := q.origin, ctx := q.ctx, cls := q.cls, tag := q.tag, write := q.write, code := code, lines := lines,
      clave := clave, banks := if q.clave.isSome then 0 else maskOf (q.lines.map q.bankOf), issued := issue, due := issue + s.latencyOf q, since := q.since }
  let n := flitsOf lines.length
  match q.origin with
  | .port sl' p =>
    if sl' = sl then s.portAnswer sl p r
    else s.sendRsp sl sl' (issue + s.latencyOf q) n q.burst q.last r
  | .stream sl' _ _ =>
    if sl' = sl ∧ q.isSignal = false then s.deliver r
    else s.sendRsp sl sl' (issue + s.latencyOf q) n q.burst q.last r
  | .sysport _ | .fabric _ => s.sendRsp sl 64 (issue + s.latencyOf q) n q.burst q.last r
  | .late sl' => if sl' = sl then s.deliver r else s.sendRsp sl sl' (issue + s.latencyOf q) n q.burst q.last r
  | .peal _ _ | .scrub _ => s.deliver r

/-- A request enters the mesh at its origin in clk `at'` (R140). `src` is 64 for the global units at (0,0); `gap` is the
number of clk in which it takes in one flit. -/
def State.sendPktAt (s : State) (src : Nat) (q : Req) (at' gap : Nat) : State :=
  let n := if q.write then flitsOf q.lines.length else 1
  let x := s.launch src [q.home] false q.cls n (2 * q.burst) q.last at' gap
  { x.2 with net := { x.2.net with pkts := x.2.net.pkts ++
      [{ src := src, dst := q.home, yfirst := s.yFirst (s.posOf src), sent := at', flits := n, req := q, flight := x.1 }] } }

/-- A packet of a stream leaves for a global unit. -/
def State.launchOut (s : State) (sl cls flits : Nat) : State := (s.launch sl [64] false cls flits 0 true s.now 1).2

/-- A request enters the mesh in the present clk. -/
def State.sendPkt (s : State) (src : Nat) (q : Req) : State := s.sendPktAt src q s.now 1

/-- The parts of one request of a global unit enter the mesh, one burst for each slice (R139): data comes in at 64 bytes per
clk, one flit every 4 clk. -/
def State.sendParts (s : State) (rs : List Req) : State :=
  let b := s.net.nextFlight
  (rs.zipIdx.foldl (fun (x : State × Nat) p =>
    let q := p.1
    let more := (rs.drop (p.2 + 1)).any fun r => decide (r.home = q.home)
    let n := if q.write then flitsOf q.lines.length else 1
    (x.1.sendPktAt 64 { q with burst := 1 + 64 * b + q.home, last := !more } x.2 (if q.write then 4 else 1),
      x.2 + n * if q.write then 4 else 1)) (s, s.now)).1

end Sys2Proof.Machine
end

