-- ==== Sys2Proof/Machine/Boundary.lean ====
section
/-! DEFINITION. Stream slots as registers (R168, R189, R195), handle values taking effect (R118, R263), and the
kernel boundary (R121, R177, R268). -/

namespace Sys2Proof.Machine

/-! ### Slot registers -/

/-- STATE of a slot (R168): 0 IDLE, 1 ARMED, 2 RUN, 3 PAUSED, 4 FAULTED, 5 STOPPING. -/
def State.slotState (s : State) (sl j : Nat) : Nat := s.getF (A.seSlotCtl sl j) 0 3

/-- The slot works: it is RUN, or PAUSED, held at a WAIT, with blocks in progress (R171, R187). -/
def State.slotWorks (s : State) (sl j : Nat) : Bool := decide (s.slotState sl j = 2) || decide (s.slotState sl j = 3)

/-- CTX of a slot. -/
def State.slotCtx (s : State) (sl j : Nat) : Nat := s.getF (A.seSlotCtl sl j) 8 6

/-- CLASS of a slot. -/
def State.slotClass (s : State) (sl j : Nat) : Nat := s.getF (A.seSlotCtl sl j) 14 3

/-- Sets STATE and with it FAULT of SE_STAT, which interrupts when it becomes set and is enabled (R195). -/
def State.setSlotState (s : State) (sl j v : Nat) : State :=
  let t := (s.putF (A.seSlotCtl sl j) 0 3 v).putB (A.seStat sl) (16 + j) (decide (v = 4))
  if v = 4 ∧ s.getB (A.seStat sl) (16 + j) = false ∧ s.getB (A.seIe sl) (16 + j) then t.raiseIrq 4 else t

/-- Sets DONE of a slot, which interrupts when it becomes set and is enabled (R195). -/
def State.setDone (s : State) (sl j : Nat) : State :=
  let t := s.putB (A.seStat sl) j true
  if s.getB (A.seStat sl) j = false ∧ s.getB (A.seIe sl) j then t.raiseIrq 4 else t

/-- The slots of a slice whose context is `c`. -/
def State.slotsOf (s : State) (sl c : Nat) : List Nat :=
  (List.range 16).filter fun j => decide (s.slotCtx sl j = c)

/-- Drops the data of a slot's reads that Follow has not committed: data entries, reads issued and reads not yet
issued; Lead reads again from the slot's position (R177, R268). Writes, signals and what the strike path reads stay; a fault
met by such a read is met again. -/
def Slot.dropReads (x : Slot) : Slot :=
  let lead := fun (a : SeAcc) => a.takes || decide (a.kind = .fetch) || decide (a.kind = .desc)
  let block := fun (i : Inst) => decide (i.word.toNat / 2 ^ 56 < 0x30)
  { x with
    accs := (x.accs.filter fun a => a.issued || !(lead a)).map fun a => if lead a then { a with dropped := true } else a
    halt := match x.halt with
      | some h => if h.read ∧ x.insts.any (fun i => decide (i.no = h.no) && block i) then none else some h
      | none => none
    insts := x.insts.map fun i => if block i then { i with reread := true, buf := [] } else i }

/-- The instruction is a strike instruction, FILL to WIPE (R181). -/
def Inst.strikes (i : Inst) : Bool :=
  decide (0x30 ≤ i.word.toNat / 2 ^ 56) && decide (i.word.toNat / 2 ^ 56 ≤ 0x36)

/-- A residue discarded: Lead reads the data again, and accumulator lines applied beyond the fault are applied a
second time (R186, R241). Outbound writes already answered stay so (R368). -/
def Residue.discard (r : Residue) : Residue :=
  { r with
    inst := r.inst.map fun i =>
      { i with buf := [], doneLines := if i.strikes then [] else i.doneLines, reread := true }
    dup := r.dup + match r.inst with
      | some i => if i.strikes then i.doneLines.length else 0
      | none => 0 }

/-- What a kernel boundary discards in a slot (R268). -/
def Slot.boundary (x : Slot) : Slot :=
  { x.dropReads with fetched := [], descs := [], badFetch := [], badDesc := [], residue := x.residue.map Residue.discard }

/-! ### Handle values taking effect -/

/-- The words of an entry as the last accepted commit left them, PEND apart. -/
def State.tableWords (s : State) (h : Nat) : List Word :=
  [s.rd (A.htabE0 h) &&& (0x1FFFFFF0003FFFF : Word), s.rd (A.htabE1 h), s.rd (A.htabE2 h), s.rd (A.htabE3 h)]

/-- The entry as the last accepted commit left it. -/
def State.tableEntry (s : State) (h : Nat) : HEntry :=
  HEntry.ofWords (s.rd (A.htabE0 h)) (s.rd (A.htabE1 h)) (s.rd (A.htabE2 h)) (s.rd (A.htabE3 h))

/-- Writes a word of the mirror of slice `sl`; the golden of HMIR follows (R118, R294). -/
def State.putMirror (s : State) (sl h w : Nat) (v : Word) : State :=
  let old := s.mirrorWord sl h w
  let t : State := { s with force := { s.force with mirror := Tbl.put 0 s.force.mirror (mirrorKey sl h w) v } }
  t.moveGolden 3 sl (crcDelta (old ^^^ v) (8 * (16383 - (4 * h + w))))

/-- The committed value of handle `h` takes effect in every mirror, PEND clears, and its guard entry is bound
anew (R118, R263). -/
def State.handleEffect (s : State) (h : Nat) : State :=
  let t := s.each s.sliceList fun t sl =>
    (s.tableWords h).zipIdx.foldl (fun (u : State) (p : Word × Nat) => u.putMirror sl h p.2 p.1) t
  let t := t.putB (A.htabE0 h) 31 false
  let t : State := { t with force := { t.force with commits := t.force.commits.filter fun c => c.h ≠ h } }
  t.bindGuard h

/-- Context `c` passes a kernel boundary in the present clk. -/
def State.atBoundary (s : State) (c : Nat) : Bool := decide (Tbl.get 0 s.force.boundary c = s.now + 1)

/-- Context `c` permits a handle value to take effect (R118). -/
def State.permits (s : State) (c : Nat) : Bool := decide (s.ctxState c ≠ 1) || s.atBoundary c

/-- A pending commit may take effect: every mirror has received it, and the owner in force and the committed
owner permit it (R118). `recv` is the clk in which the last mirror has received it. -/
def State.commitReady (s : State) (h recv : Nat) : Bool :=
  decide (recv < s.now) && s.permits (s.handle 0 h).owner && s.permits (s.tableEntry h).owner

/-- The pending values that may take effect do. -/
def State.effectReady (s : State) : State :=
  s.force.commits.foldl (fun t c => match c.received with
    | some r => if t.commitReady c.h r then t.handleEffect c.h else t
    | none => t) s

/-! ### Kernel boundary -/

/-- Lines of vector buffers that a boundary of `c` keeps in slice `sl`: those under the vector descriptor of a
GEMV or REDUCE block of `c` in progress (R268). -/
def State.keptVec (s : State) (sl c : Nat) : List Nat :=
  (s.slotsOf sl c).flatMap fun j => (s.slot sl j).insts.flatMap Inst.vecLines

/-- Every handle that `c` owns with TYPE VECTOR, as the lines it names in slice `sl`. -/
def State.vectorLines (s : State) (sl c : Nat) : List Nat :=
  (s.force.mirror.filter fun e => e.1 / 16384 = sl ∧ e.1 % 4 = 0).flatMap fun e =>
    let h := e.1 % 16384 / 4
    let x := s.handle sl h
    if x.type = tyVector ∧ x.owner = c ∧ (x.slices = 0 ∨ x.slices.getLsbD sl) then
      (List.range x.size).map fun i => x.base + i
    else []

/-- Empties the lines of the vector buffer of slice `sl` that VECTOR handles of `c` name, but for `keep`. -/
def State.emptyVectors (s : State) (sl c : Nat) (keep : List Nat) : State :=
  s.each ((s.vectorLines sl c).filter fun l => !(keep.contains l)) fun t l => t.emptyVec sl l

/-- A boundary of `c` in one slice. -/
def State.boundaryIn (s : State) (sl c : Nat) : State :=
  let t := s.each (s.slotsOf sl c) fun t j => t.modSlot sl j Slot.boundary
  let t := t.modSlice sl fun x =>
    { x with latches := x.latches.filter fun e =>
        match e.2 with
        | some a => decide (s.slotCtx sl a.slot ≠ c)
        | none => true }
  t.emptyVectors sl c (s.keptVec sl c)

/-- A kernel boundary of context `c` (R268): EPOCH rises, read-ahead copies are discarded, K fields and pending
handle values take effect. Causes that fall in one clk are one boundary. -/
def State.kernelBoundary (s : State) (c : Nat) : State :=
  if s.atBoundary c then s
  else
    let t := s.count (A.ctxE1 c) 0 32 1
    let t : State := { t with force := { t.force with
      boundary := Tbl.insert t.force.boundary c (s.now + 1)
      value := Tbl.erase t.force.value (A.ctxE0 c) } }
    (t.each t.sliceList fun t sl => t.boundaryIn sl c).effectReady

end Sys2Proof.Machine
end

