-- ==== Sys2Proof/Machine/Csr.lean ====
section
/-! DEFINITION. Register accesses: what a write stores by access type and update class (R9 to R11), which
accesses reach a register (R125, R405, R407), and the wake events that accesses are (R315). -/

namespace Sys2Proof.Machine

/-! ### Power states and wake events -/

/-- State of slice `sl`: 0 Play, 1 Damp, 2 Off, 3 in transition (R327). -/
def State.slicePower (s : State) (sl : Nat) : Nat := s.getF (A.pwrState (sl / 32)) (2 * (sl % 32)) 2

/-- Sets the state of a slice. -/
def State.setSlicePower (s : State) (sl v : Nat) : State := s.putF (A.pwrState (sl / 32)) (2 * (sl % 32)) 2 v

/-- State of the complex: 0 Play, 1 Damp, 2 Tap, 3 in transition (R328). -/
def State.cplxPower (s : State) : Nat := s.getF A.pwrCplx 2 2

/-- State of a target. -/
def State.powerOf (s : State) : PowerTarget → Nat
  | .slice sl => s.slicePower sl
  | .complex => s.cplxPower

/-- Sets the state of a target. -/
def State.setPower (s : State) (t : PowerTarget) (v : Nat) : State :=
  match t with
  | .slice sl => s.setSlicePower sl v
  | .complex => s.putF A.pwrCplx 2 2 v

/-- An entry of the target is in progress (R312). -/
def State.entering (s : State) (t : PowerTarget) : Bool := s.power.entries.any fun e => e.target = t

/-- A wake of the target begins at its first step (R317). -/
def State.beginWake (s : State) (t : PowerTarget) (cause : Nat) : State :=
  let w : PwrWake := { target := t, leaves := s.powerOf t, step := 1, began := s.time.ref, retried := false, stopped := false }
  let u := s.setPower t 3
  let u : State := { u with power := { u.power with wakes := u.power.wakes ++ [w] } }
  match t with
  | .complex => u.putF A.pwrCplx 4 3 cause
  | .slice _ => u

/-- A wake event of cause `cause` (R315): it abandons an entry at the next abort point (R314), or begins a wake
from Damp or Tap. -/
def State.wake (s : State) (t : PowerTarget) (cause : Nat) : State :=
  if s.entering t then
    { s with power := { s.power with entries := s.power.entries.map fun e =>
        if e.target = t ∧ e.wake = none then { e with wake := some cause } else e } }
  else
    match t with
    | .slice sl => if s.slicePower sl = 1 then s.beginWake t cause else s
    | .complex => if s.cplxPower = 1 ∨ s.cplxPower = 2 then s.beginWake t cause else s

/-- The next step of the entry of the target that is in progress; 0 without one. -/
def State.entryStep (s : State) (t : PowerTarget) : Nat :=
  match s.power.entries.find? fun e => e.target = t with
  | some e => e.step
  | none => 0

/-- The target has not passed step `n` of an entry, or is in Play. -/
def State.within (s : State) (t : PowerTarget) (n : Nat) : Bool :=
  decide (s.powerOf t = 0) || (s.entering t && decide (s.entryStep t ≤ n))

/-- The target takes new accesses: it is in Play, or an entry has not begun step E2 (R311, R312). -/
def State.serves (s : State) (t : PowerTarget) : Bool := s.within t 1

/-- Slice and complex can serve an access. -/
def State.sliceServes (s : State) (sl : Nat) : Bool := s.serves (.slice sl) && s.serves .complex

/-- The stream engine of the slice presents: it is not being reset (R344). -/
def State.engineMay (s : State) (sl : Nat) : Bool := s.sliceServes sl && !(s.slice sl).engineReset

/-- Ports of the slice still present what they have accepted: step E2 waits for it (R312). -/
def State.portsMay (s : State) (sl : Nat) : Bool := s.within (.slice sl) 2 && s.within .complex 2

/-- The logic of the slice is clocked: slice and complex are in Play or an entry is in progress (R309, R311). -/
def State.sliceUp (s : State) (sl : Nat) : Bool := s.within (.slice sl) 5 && s.within .complex 5

/-- A wake of the slice or of the complex has been stopped by a timeout: it stays fenced (R317). -/
def State.wakeFailed (s : State) (sl : Nat) : Bool :=
  s.power.wakes.any fun w => w.stopped && (decide (w.target = .slice sl) || decide (w.target = .complex))

/-- An access addressed to slice `sl` wakes what is asleep (R315). -/
def State.wakeFor (s : State) (sl cause : Nat) : State := (s.wake .complex cause).wake (.slice sl) cause

/-- Every slice in Damp, and the complex, is woken (R315, causes 4 and 5). -/
def State.wakeAll (s : State) (cause : Nat) : State :=
  (s.wake .complex cause).each s.sliceList fun t sl => t.wake (.slice sl) cause

/-! ### Storing fields -/

/-- The value of a register after a write of `v` (R9, R11): RW fields take the written value, S fields only
while the unit is idle, W1C and W1S fields clear and set, every other bit keeps its value. -/
def writeFields (m : RegMasks) (old v : Word) (idle : Bool) : Word :=
  let keep := old &&& ~~~(m.rw ||| m.s ||| m.w1c ||| m.w1s ||| m.wo)
  let st := if idle then v &&& m.s else old &&& m.s
  keep ||| (v &&& m.rw) ||| st ||| (old &&& m.w1c &&& ~~~v) ||| ((old ||| v) &&& m.w1s)

/-- The write would change an S field of a unit that is not idle (R11). -/
def refusedS (m : RegMasks) (old v : Word) (idle : Bool) : Bool := !idle && decide ((old ^^^ v) &&& m.s ≠ 0)

/-- The write would change a field of the register, or act by one of its WO fields (R11). -/
def writeActs (m : RegMasks) (old v : Word) : Bool := decide (writeFields m old v true ≠ old) || decide (v &&& m.wo ≠ 0)

/-- Keeps the value in force of B and K fields that change: B until the next bar, K until the owner's kernel
boundary (R10, R273). -/
def State.keepForce (s : State) (a : Nat) (m : RegMasks) (old new : Word) : State :=
  let ch := old ^^^ new
  if ch &&& (m.b ||| m.k) = 0 then s
  else
    let value := if s.force.value.any fun e => e.1 = a then s.force.value else Tbl.insert s.force.value a old
    let waiting := if ch &&& m.b = 0 then s.force.waiting
      else (s.force.waiting.filter fun e => e.1 ≠ a) ++ [(a, s.now)]
    { s with force := { s.force with value := value, waiting := waiting } }

/-- A write of register `a` by context `ctx`: every field by its access type and update class, a refused S field
recorded (R9 to R11). -/
def State.storeReg (s : State) (a : Nat) (v : Word) (idle : Bool) (ctx : Nat) : State :=
  let m := masksOf a
  let old := s.rd a
  let new := writeFields m old v idle
  let t := (s.keepForce a m old new).wrCfg a new
  if refusedS m old v idle then t.refuseCfg a ctx else t

/-- A write that the state of the unit refuses: recorded where it would change the register or act (R11). -/
def State.refuseWrite (s : State) (a : Nat) (v : Word) (ctx : Nat) : State :=
  if writeActs (masksOf a) (s.rd a) v then s.refuseCfg a ctx else s

/-! ### Reaching a register -/

/-- Offsets of a slice window that stay reachable in Off: MESH_POS, SENS_TEMP, SENS_DROOP (R407). -/
def offReachable (off : Nat) : Bool := decide (off = 0x6000) || decide (off = 0x8000) || decide (off = 0x8008)

/-- CSR space is served: minimal function has been reached, or bring-up has stopped (R338). -/
def State.csrUp (s : State) : Bool := s.getB A.glbState 5 || s.boot.halted

/-- A wake of the complex has been stopped by a timeout: the host still reaches CSR space to reset it (R346). -/
def State.cplxFailed (s : State) : Bool := s.power.wakes.any fun w => w.stopped && decide (w.target = .complex)

/-- A write access of context `ctx` to register `a` (R125, R405, R407): only contexts 0 and 63 reach CSR space; the
window of an absent slice, or of one in Off but for three registers, ignores it; an access to a slice in
Damp, or to a complex in Tap, is a wake event, and is served when it comes again in Play. -/
def State.csrAccess (s : State) (a ctx : Nat) (f : State → State) : State :=
  if (ctx ≠ 0 ∧ ctx ≠ 63) ∨ s.csrUp = false then s
  else if s.cplxPower = 2 then s.wake .complex 2
  else if s.cplxPower = 3 ∧ ¬s.entering .complex ∧ ¬s.cplxFailed then s
  else
    let t := if s.cplxPower ≠ 0 ∧ ctx = 63 ∧ s.cplxFailed = false then s.wake .complex 2 else s
    match sliceOf a with
    | none => f t
    | some (sl, off) =>
      if t.hasSlice sl = false then t
      else if t.slicePower sl = 2 then (if offReachable off then f t else t)
      else if t.slicePower sl = 0 then f t
      else if t.entering (.slice sl) then f (t.wake (.slice sl) 2)
      else t.wake (.slice sl) 2

end Sys2Proof.Machine
end

