-- ==== Sys2Proof/Machine/Clave.lean ====
section
/-! DEFINITION. Clave pairs and the slots that wait on them: the takes of held WAITs and of CLAVE starts, which come before
polling takes in a clk (R176, R257 to R259), and beats that slots are held for (R22). -/

namespace Sys2Proof.Machine

/-! ### A slot goes on -/

/-- The slot's context is RUN. -/
def State.ctxRuns (s : State) (sl j : Nat) : Bool := decide (s.ctxState (s.slotCtx sl j) = 1)

/-- PC of a slot. -/
def State.pc (s : State) (sl j : Nat) : Nat := s.getF (A.seSlotPc sl j) 0 27

/-- Sets PC, modulo 2^27. -/
def State.setPc (s : State) (sl j v : Nat) : State := s.putF (A.seSlotPc sl j) 0 27 v

/-- PC moves to the next instruction. -/
def State.nextPc (s : State) (sl j : Nat) : State := s.setPc sl j (s.pc sl j + 1)

/-- A WAIT or WAITBEAT of the slot is satisfied: PC moves on, and the descriptor buffer is emptied (R208). -/
def State.satisfied (s : State) (sl j : Nat) : State :=
  (s.modSlot sl j fun x =>
    { x with
      hold := .none, descs := [], badDesc := []
      accs := (x.accs.filter fun a => a.kind ≠ .desc ∨ a.issued).map fun a =>
        if a.kind = .desc then { a with dropped := true } else a }).nextPc sl j

/-- A slot held at a WAIT or WAITBEAT is released in the present clk: Lead decodes it in the next, or, where it decodes others
then, in the clks behind them (R163, R183). -/
def State.leadAgain (s : State) (sl j : Nat) : State :=
  s.modSlice sl fun x => { x with leadTurn := j, leadAt := max x.leadAt (s.now + 1) + 1 }

/-- A slot held at a WAITBEAT whose beat is reached goes on. -/
def State.beatHeld (s : State) (sl j : Nat) : State :=
  match (s.slot sl j).hold with
  | .beat t =>
    if s.beatReached t ∧ s.slotState sl j = 2 ∧ s.ctxRuns sl j then (s.satisfied sl j).leadAgain sl j else s
  | _ => s

/-! ### Blocking takes (R258, R259) -/

/-- A slot held at a WAIT could take its count now. -/
def State.couldTake (s : State) (sl j : Nat) (room : Bool) (pair : Nat) : Bool :=
  match (s.slot sl j).hold with
  | .wait r p n => decide (r = room) && decide (p = pair) && decide (n ≤ s.claveCount sl pair room) && s.ctxRuns sl j &&
      decide (s.slotState sl j = 2)
  | _ => false

/-- A slot held at a WAIT on counter `room` of a pair takes its count, where the counter holds it. -/
def State.waitTakes (s : State) (sl j pair : Nat) (room : Bool) : State :=
  match (s.slot sl j).hold with
  | .wait _ _ n =>
    if s.couldTake sl j room pair then (((s.claveTake sl pair room n).2).satisfied sl j).leadAgain sl j else s
  | _ => s

/-- The start condition of an armed slot is met (R170); the pair of START CLAVE must permit the context (R257). -/
def State.startMet (s : State) (sl j : Nat) : Bool :=
  let a := A.seSlotCtl sl j
  let m := s.getF a 6 2
  if m = 0 then true
  else if m = 1 then s.beatReached (s.getF (A.seSlotArm sl j) 0 48)
  else decide (s.getF a 40 16 ≤ s.claveCount sl (s.getF a 32 8) false)

/-- An armed slot could start in the present clk: its context is RUN, its slice serves, and its condition is met. -/
def State.startReady (s : State) (sl j : Nat) : Bool :=
  decide (s.slotState sl j = 1) && s.ctxRuns sl j && !(s.slice sl).engineReset && s.sliceServes sl &&
    decide ((s.slot sl j).followAt ≤ s.now) && s.startMet sl j

/-- A slot starts in the present clk (R170). -/
def State.startNow (s : State) (sl j : Nat) : State :=
  let a := A.seSlotCtl sl j
  let t := if s.getF a 6 2 = 2 then (s.claveTake sl (s.getF a 32 8) false (s.getF a 40 16)).2 else s
  ((t.putF (A.seSlotBeat0 sl j) 0 48 t.beatCount).setSlotState sl j 2).modSlot sl j fun x => { x with startedAt := s.now + 1 }

/-- A slot with START CLAVE on a pair starts, where it can. -/
def State.claveStarts (s : State) (sl j pair : Nat) : State :=
  let a := A.seSlotCtl sl j
  if s.getF a 6 2 = 2 ∧ s.getF a 32 8 = pair ∧ s.claveMay sl pair (s.slotCtx sl j) ∧ s.startReady sl j then s.startNow sl j else s

/-- Held WAITs on a counter take their counts in ascending slot number. -/
def State.waitsTake (s : State) (sl pair : Nat) (room : Bool) (slots : Nat) : State :=
  (s.claveTime sl pair).each (List.range slots) fun t j => t.waitTakes sl j pair room

/-- The blocking takes of a clk: WAITs first, then CLAVE starts (R259). -/
def State.blockingTakes (s : State) (sl pair : Nat) (room : Bool) : State :=
  let t := s.waitsTake sl pair room 16
  if room then t else t.each (List.range 16) fun t j => t.claveStarts sl j pair

/-- A clave operation of a port or of the mesh at its pair (R98, R257, R258): code and the word returned. -/
def State.performClave (s : State) (sl : Nat) (ctx : Nat) (o : ClaveOp) : Nat × Option Word × State :=
  if s.killedIn sl ctx then (rspAborted, none, s)
  else if s.claveMay sl o.pair ctx = false then (rspDenied, none, s)
  else if o.kind = 0 then (rspOk, some (s.claveWord sl o.pair false), s)
  else if o.kind = 1 then
    let t := s.claveSignal sl o.pair o.room o.n
    (rspOk, some (t.claveWord sl o.pair false), t)
  else
    let u := (s.blockingTakes sl o.pair o.room).claveTake sl o.pair o.room o.n
    (rspOk, some (u.2.claveWord sl o.pair u.1), u.2)


end Sys2Proof.Machine
end

