-- ==== Sys2Proof/Machine/Handles.lean ====
section
/-! DEFINITION. Writing the handle table (R114, R116 to R118) and the context table (R120, R121). -/

namespace Sys2Proof.Machine

/-! ### The start of a peal write (R142, R143) -/

/-- A peal write leaves position (0,0), unless 64 are outstanding: to offset `off` of every slice window, or to slice-local
line `off` of every slice, or with an entry of the handle table to every mirror. -/
def State.beginPeal (s : State) (mem : Bool) (off : Nat) (data : Line) (ben : ByteEn) (ctx cls : Nat) (tag mirror : Option Nat) :
    State :=
  if 64 ≤ s.net.peals.length then s
  else
    let id := s.net.nextPeal
    let f := s.launch 64 s.sliceList false cls 1 0 true s.now 1
    let p : Peal :=
      { id := id, mem := mem, off := off, data := data, ben := ben, ctx := ctx, cls := cls, tag := tag, left := s.sliceList
        waiting := [], code := rspOk, sent := s.now, flight := f.1, mirror := mirror }
    { f.2 with net := { f.2.net with peals := f.2.net.peals ++ [p], nextPeal := id + 1 } }

/-! ### Staging (R116) -/

/-- The staging record of a writer: Belfry writes as context 0, the system port as 63. -/
def State.stageOf (s : State) (ctx : Nat) : Stage := if ctx = 0 then s.force.stageBelfry else s.force.stageHost

/-- Replaces the staging record of a writer. -/
def State.setStage (s : State) (ctx : Nat) (g : Stage) : State :=
  if ctx = 0 then { s with force := { s.force with stageBelfry := g } }
  else { s with force := { s.force with stageHost := g } }

/-- What the system port writes as context `ctx`: its own staging record serves it, also through a window that carries
context 0 (R116, R126). -/
def State.asSystem (s : State) (ctx : Nat) (f : State → State) : State :=
  let swap : State → State := fun t =>
    { t with force := { t.force with stageBelfry := t.force.stageHost, stageHost := t.force.stageBelfry } }
  if ctx = 0 then swap (f (swap s)) else f s

/-- The record with word `w` of entry `h` staged; words of another entry are discarded. -/
def Stage.put (g : Stage) (h w : Nat) (v : Word) : Stage :=
  let g := if g.entry = some h then g else { Stage.empty with entry := some h }
  if w = 0 then { g with w0 := some v } else if w = 1 then { g with w1 := some v } else { g with w2 := some v }

/-- A write of E0, E1 or E2 of entry `h`. -/
def State.storeStage (s : State) (h w : Nat) (v : Word) (ctx : Nat) : State := s.setStage ctx ((s.stageOf ctx).put h w v)
def State.htabStage (s : State) (h w : Nat) (v : Word) (ctx : Nat) : State :=
  s.csrAccess (A.htabE0 h + 8 * w) ctx fun t => t.storeStage h w v ctx

def execHtabStageWrite (h word : Nat) (v : Word) (ctx : Nat) (s : State) : Out :=
  if h < 4096 ∧ word < 3 then .next (s.htabStage h word v ctx) else .refused .noSuchUnit

/-! ### Commit (R117, R118) -/

/-- `staged` for a word that the record holds for `h`, the current value otherwise. -/
def stagedOr (g : Stage) (h : Nat) (x : Option Word) (cur : Word) : Word :=
  if g.entry = some h then x.getD cur else cur

/-- The four words that a commit of `h` forms, reserved bits left out. -/
def State.commitWords (s : State) (h : Nat) (v : Word) (ctx : Nat) : List Word :=
  let g := s.stageOf ctx
  let w := [stagedOr g h g.w0 (s.rd (A.htabE0 h)), stagedOr g h g.w1 (s.rd (A.htabE1 h)),
    stagedOr g h g.w2 (s.rd (A.htabE2 h)), v]
  w.zipIdx.map fun p => p.1 &&& (masksOf (A.htabE0 h + 8 * p.2)).rw

/-- The shape of a committed entry is refused (R117), owners apart. -/
def badShape (slices h : Nat) (e : HEntry) : Bool :=
  let k := popCount e.slices
  let memory := decide (e.type = tyPlain) || decide (e.type = tyRing) || decide (e.type = tyAccum) || decide (e.type = tyScale)
  decide (e.type = 7) || decide (e.guard = 3) || decide (e.fmt = 15)
    || (decide (e.guard ≠ 0) && decide (e.type ≠ tyRing))
    || decide (e.hi < e.lo) || decide (e.size < e.hi)
    || ((decide (e.type = tyRing) || decide (e.type = tyAccum)) &&
        (decide (e.count = 0) || decide (e.count * e.unit ≠ e.size)))
    || (!e.stripe && memory && decide (2 ^ 18 * slices < e.base + e.size))
    || (e.stripe &&
        (!([1, 2, 4, 8, 16, 32, 64].contains k)
          || (bitsOf e.slices).any (fun n => decide (slices ≤ n))
          || decide (e.base / 2 ^ 18 ≠ 0)
          || decide (e.base % 8 ≠ 0) || decide (e.size % 8 ≠ 0)
          || decide (2 ^ 18 * k < e.base * k + e.size)
          || decide (e.type = tyVector) || decide (e.type = tyAlias)))
    || (decide (e.type = tyVector) && decide (1024 < e.base + e.size))
    || ((decide (e.type = tyScale) || decide (e.type = tyAlias)) && decide (e.link = h))

/-- A present value `p` of the entry forbids a commit with owner `o`: its owner differs, its TYPE is not NONE, and
its owner is RUN or KILLING (R117). -/
def State.ownerHolds (s : State) (p : HEntry) (o : Nat) : Bool :=
  decide (p.owner ≠ o) && decide (p.type ≠ 0) && (decide (s.ctxState p.owner = 1) || decide (s.ctxState p.owner = 3))

/-- A commit of `e` to entry `h` is accepted (R117): always for TYPE NONE; else its shape is sound and neither the
value in force nor the last accepted one forbids a change of owner. -/
def State.commitOk (s : State) (h : Nat) (e : HEntry) : Bool :=
  decide (e.type = 0) ||
    (!(badShape s.nSlices h e) && !(s.ownerHolds (s.handle 0 h) e.owner) && !(s.ownerHolds (s.tableEntry h) e.owner))

/-- The next accepted commit whose peal write has not left does so, where a place is free (R118). -/
def State.feedMirror (s : State) : State :=
  match s.force.commits.find? fun c => !c.sent with
  | some c =>
    if 64 ≤ s.net.peals.length then s
    else
      let t := s.beginPeal false 0 0 0 c.ctx (s.dclass c.ctx) none (some c.h)
      let commits := t.force.commits.map fun x => if x.h = c.h then { x with sent := true } else x
      { t with force := { t.force with commits := commits } }
  | none => s

/-- An accepted commit: the words are stored, PEND is set, and the entry goes to every mirror by peal write (R118). An earlier
commit of the entry that is pending is replaced. -/
def State.storeCommit (s : State) (h : Nat) (ws : List Word) (ctx : Nat) : State :=
  let t := ws.zipIdx.foldl (fun (u : State) (p : Word × Nat) => u.wrCfg (A.htabE0 h + 8 * p.2) p.1) s
  let t := t.putB (A.htabE0 h) 31 true
  let peals := t.net.peals.map fun (p : Peal) => if p.mirror = some h then { p with mirror := none } else p
  let c : Commit := { h := h, ctx := ctx, sent := false, received := none }
  let t : State := { t with
    net := { t.net with peals := peals }
    force := { t.force with commits := (t.force.commits.filter fun c => c.h ≠ h) ++ [c] } }
  t.feedMirror

/-- A write of E3 commits entry `h`; the staging record is emptied whatever the outcome (R116, R117). -/
def State.acceptEntry (s s0 : State) (h : Nat) (v : Word) (ctx : Nat) : State :=
  let ws := s.commitWords h v ctx
  let e := HEntry.ofWords (ws.getD 0 0) (ws.getD 1 0) (ws.getD 2 0) (ws.getD 3 0)
  let u := s.setStage ctx Stage.empty
  if s0.commitOk h e then u.storeCommit h ws ctx else u.refuseCfg (A.htabE3 h) ctx
def State.htabCommit (s : State) (h : Nat) (v : Word) (ctx : Nat) : State :=
  s.csrAccess (A.htabE3 h) ctx fun t => t.acceptEntry s h v ctx

def execHtabCommit (h : Nat) (v : Word) (ctx : Nat) (s : State) : Out := s.onIndex h 4096 (s.htabCommit h v ctx)

/-- The committed value of `h` takes effect in the first clk after its mirrors have received it, if its owners
permit it then (R118); at a kernel boundary it does so with the boundary. -/
def State.takeEffect (s : State) (h : Nat) : State :=
  match (s.force.commits.find? fun c => c.h = h).bind Commit.received with
  | none => s
  | some c =>
    let t := s.reach (c + 1)
    if t.commitReady h c then t.handleEffect h else s

def execHandleTakesEffect (h : Nat) (s : State) : Out := s.onIndex h 4096 (s.takeEffect h)

/-! ### The context table -/

/-- Every stream slot of context `c` is IDLE. -/
def State.slotsIdle (s : State) (c : Nat) : Bool :=
  s.sliceList.all fun sl => (s.slotsOf sl c).all fun j => decide (s.slotState sl j = 0)

/-- SOLO refuses a write of RUN to context `c` (R351). -/
def State.soloRefuses (s : State) (c : Nat) : Bool :=
  s.getB A.ctxSolo 6 && decide (c ≠ s.getF A.ctxSolo 0 6)

/-- A change of the STATE of context `c` from `f` to `g` is accepted (R121, R351). -/
def State.stateMayChange (s : State) (c f g : Nat) : Bool :=
  decide (c ≠ 0) && decide (c ≠ 63) &&
    ((decide (f = 0) && decide (g = 1) && !(s.soloRefuses c)) || (decide (f = 1) && decide (g = 2)) ||
     (decide (f = 2) && decide (g = 1) && !(s.soloRefuses c)) || (decide (f = 2) && decide (g = 0) && s.slotsIdle c))

/-- Context `c` becomes PAUSED: a slot held at a WAIT enters PAUSED at once (R187), and blocks in progress before the WAIT
complete; others do when the block in progress is complete (R171). -/
def State.ctxPauses (s : State) (c : Nat) : State :=
  s.each s.sliceList fun t sl => (t.slotsOf sl c).foldl (fun (u : State) j =>
    let x := u.slot sl j
    let held : Bool := match x.hold with
      | .wait _ _ _ => true
      | .beat _ => true
      | _ => false
    if u.slotState sl j = 2 ∧ held then u.setSlotState sl j 3 else u) t

/-- Context `c` returns to RUN: its PAUSED slots do too (R171), and a WAITBEAT whose beat has come meanwhile is satisfied
(R22). -/
def State.ctxContinues (s : State) (c : Nat) : State :=
  s.each s.sliceList fun t sl => (t.slotsOf sl c).foldl (fun (u : State) j =>
    if u.slotState sl j = 3 then (u.setSlotState sl j 2).beatHeld sl j else u) t

/-- A write of CTX_E0_c that has reached the table (R120, R121): JOBID while STATE is FREE, STATE where the table
of transitions allows it, the other fields always; a refusal of either is recorded. A move to RUN is a kernel
boundary. -/
def State.storeCtx (s s0 : State) (c : Nat) (v : Word) (ctx : Nat) : State :=
  let a := A.ctxE0 c
  let f := s0.ctxState c
  let g := fld v 32 2
  let moves := decide (g ≠ f) && s0.stateMayChange c f g
  let v' := if moves then v else setFld v 32 2 f
  let badJob := refusedS (masksOf a) (s.rd a) v' (decide (f = 0))
  let t := s.storeReg a v' (decide (f = 0)) ctx
  let t := if g ≠ f ∧ moves = false ∧ badJob = false then t.refuseCfg a ctx else t
  if moves ∧ g = 1 then (t.kernelBoundary c).ctxContinues c else if moves ∧ g = 2 then t.ctxPauses c else t

/-- A write of CTX_E0_c. -/
def State.ctxE0 (s : State) (c : Nat) (v : Word) (ctx : Nat) : State :=
  s.csrAccess (A.ctxE0 c) ctx fun t => t.storeCtx s c v ctx

def execCtxE0Write (c : Nat) (v : Word) (ctx : Nat) (s : State) : Out := s.onIndex c 64 (s.ctxE0 c v ctx)

/-- A write of CTX_E1_c: KNEXT makes a kernel boundary (R120, R177). -/
def State.storeKnext (s : State) (c : Nat) (v : Word) : State := if flag v 32 then s.kernelBoundary c else s
def State.ctxKnext (s : State) (c : Nat) (v : Word) (ctx : Nat) : State :=
  s.csrAccess (A.ctxE1 c) ctx fun t => t.storeKnext c v

def execCtxKnextWrite (c : Nat) (v : Word) (ctx : Nat) (s : State) : Out := s.onIndex c 64 (s.ctxKnext c v ctx)

end Sys2Proof.Machine
end

