-- ==== Sys2Proof/Machine/Wipe.lean ====
section
/-! DEFINITION. What the ring guard says about several lines together (R265), and the clear ports of the banks, which work off
the groups of lines that WIPE blocks have still to clear (R46, R51, R230). -/

namespace Sys2Proof.Machine

/-! ### Ring guards -/

/-- What the ring guard answers for lines, in order (R265): how many it passes first, and its answer for the next. -/
def State.guardSplit (s : State) (sl : Nat) (h : Nat) (write : Bool) : List Nat → Nat × GuardSays
  | [] => (0, .pass)
  | o :: rest => match s.guardSays sl h (s.view sl h).e write o with
    | .pass => let r := s.guardSplit sl h write rest; (r.1 + 1, r.2)
    | g => (0, g)

/-- What the ring guard answers for lines together: they are held where one is, and go up to the first that faults. -/
def State.guardOf (s : State) (sl : Nat) (h : Nat) (write : Bool) (offs : List Nat) : GuardSays :=
  let r := s.guardSplit sl h write offs
  match r.2 with
  | .fault c => if r.1 = 0 then .fault c else .pass
  | g => g

/-- Every line of a step through a guarded ring advances its count (R264). -/
def State.stepAdvance (s : State) (sl h : Nat) (write : Bool) (offs : List Nat) : State :=
  offs.foldl (fun t o => t.guardAdvance sl h (s.view sl h).e write o) s

/-! ### Clear ports (R46, R230) -/

/-- The groups that a slot's WIPE has still to clear, with the instruction: the slot works and no pending fault lies before
it. -/
def State.wipeOf (s : State) (sl j : Nat) : Option Inst :=
  if s.slotWorks sl j = false then none
  else (s.slot sl j).insts.find? fun i => !i.wipe.isEmpty && !i.abandoned && (match (s.slot sl j).halt with
    | some h => decide (i.no < h.no)
    | none => true)

/-- The first group of each bank. -/
def firstGroups (l : List WipeGroup) : List WipeGroup :=
  l.foldl (fun (a : List WipeGroup) g => if a.any fun k => k.bank = g.bank then a else a ++ [g]) []

/-- Walk lines of a group, and their offsets. -/
def WipeGroup.ns (g : WipeGroup) : List Nat := g.lines.map Prod.fst
def WipeGroup.offs (g : WipeGroup) : List Nat := g.lines.map fun p => p.2.2

/-- The first clk in which the clear port of a group's bank can clear it. -/
def State.clearFrom (s : State) (sl : Nat) (i : Inst) (b : Nat) : Nat := max i.began (Tbl.get 0 (s.slice sl).clearAt b)

/-- The fault that a group meets before its clear: the walk line at which the stream halts, and the code. The bank's owner is
checked for the group (R230), a kill mark aborts it, and the guard of its ring is asked for each line (R262). -/
def State.groupFault (s : State) (sl ctx : Nat) (g : WipeGroup) : Option (Nat × Nat) :=
  let n := g.ns.headD 0
  if s.killedIn sl ctx then some (n, 0x0B)
  else if s.ownerOf sl g.bank ≠ ctx then some (n, 0x02)
  else match s.guardSplit sl g.handle true g.offs with
    | (k, .fault c) => some (g.ns.getD k n, c)
    | _ => none

/-- A group waits: a fence holds its bank, or a guard its ring (R86, R265). -/
def State.groupHeld (s : State) (sl : Nat) (g : WipeGroup) : Bool :=
  s.bankFenced sl g.bank || (match s.guardSplit sl g.handle true g.offs with
    | (_, .hold) => true
    | _ => false)

/-- The first fault that a WIPE meets at a group that is due: the clk, the walk line and the code. -/
def State.wipeFault (s : State) (sl j : Nat) (i : Inst) : Option (Nat × Nat × Nat) :=
  (firstGroups i.wipe).foldl (fun (m : Option (Nat × Nat × Nat)) g =>
    let c := s.clearFrom sl i g.bank
    if s.groupHeld sl g ∨ s.now < c then m
    else match s.groupFault sl (s.slotCtx sl j) g, m with
      | none, m => m
      | some f, none => some (c, f)
      | some f, some k => if c < k.1 ∨ (c = k.1 ∧ f.1 < k.2.1) then some (c, f) else some k) none

/-- The clear port of a bank clears a group in clk `c`. -/
def State.clearGroup (s : State) (sl j no c : Nat) (g : WipeGroup) : State :=
  let t := g.lines.foldl (fun (t : State) p => t.wipeLine sl g.bank p.2.1) s
  let t := t.stepAdvance sl g.handle true g.offs
  let t := t.modSlice sl fun x => { x with clearAt := Tbl.put 0 x.clearAt g.bank (c + 1) }
  t.modSlot sl j fun x => { x with insts := x.insts.map fun i =>
    if i.no = no then { i with wipe := i.wipe.erase g, lastStep := max i.lastStep (c + 1) } else i }

/-- The groups of a WIPE are cleared, one of a bank in a clk and the banks in parallel, as far as they are due; a group that a
fence or a guard holds is not due before the present clk. -/
def State.wipeGroups (s : State) (sl j no : Nat) (l : List WipeGroup) : State :=
  l.foldl (fun (t : State) g =>
    match t.wipeOf sl j with
    | none => t
    | some i =>
      let c := t.clearFrom sl i g.bank
      let limit := match t.wipeFault sl j i with
        | some f => f.1
        | none => t.now
      if i.no ≠ no ∨ (firstGroups i.wipe).all (fun k => k ≠ g) then t
      else if t.groupHeld sl g then t.modSlice sl fun x => { x with clearAt := Tbl.put 0 x.clearAt g.bank (max c t.now) }
      else if limit < c ∨ (t.groupFault sl (t.slotCtx sl j) g).isSome then t
      else t.clearGroup sl j no c g) s

/-- The clear ports of a slice have done what is due by the present clk. -/
def State.wipeNow (s : State) (sl : Nat) : State :=
  s.each (List.range 16) fun t j => match t.wipeOf sl j with
    | some i => t.wipeGroups sl j i.no i.wipe
    | none => t

end Sys2Proof.Machine
end

