-- ==== Sys2Proof/Machine/Ports.lean ====
section
/-! DEFINITION. Client ports (R94 to R112): acceptance of requests, answers that take no slot, fences of a port,
responses, and the roll call. -/

namespace Sys2Proof.Machine

/-! ### Requests in the converter -/

/-- A port with its first waiting request answered and removed. -/
def State.popPort (s : State) (sl p : Nat) : State := s.modPort sl p fun x => { x with queue := x.queue.drop 1 }

/-- The answer that a request of a port gets without a slot, if any: ABORTED under a kill, FENCED, RANGE
(R99, R347). -/
def State.headCode (s : State) (sl p : Nat) (r : Req) : Option Nat :=
  if s.killedIn sl r.ctx then some rspAborted
  else if s.portFenced sl p then some rspFenced
  else if r.home = sl ∧ r.lines.any fun l => s.bankFencedFor sl (r.bankOf l) r.since then some rspFenced
  else if s.hasSlice r.home = false then some rspRange
  else none

/-- The slot that owner `o` has on a bank set in clk `c` is consumed by a request for a fenced bank (R84). DESIGN CHOICE: a
request that owns no slot in the clk of its FENCED answer consumes none. -/
def State.consumeSlot (s : State) (sl bset o c : Nat) : State :=
  if s.slotOwner sl bset c = o then
    s.modSlice sl fun x => { x with lastIssue := Tbl.put 0 x.lastIssue bset (max (c + 1) (Tbl.get 0 x.lastIssue bset)) }
  else s

/-- A request that its slice answers with `code` in clk `c`; one for a fenced bank consumes the slot that carries it. -/
def State.refuseAt (s : State) (sl : Nat) (r : Req) (code c : Nat) : State :=
  let t := if code = rspFenced ∧ r.lines ≠ [] then s.consumeSlot sl r.bset r.owner c else s
  t.answer sl r code [] none c

/-- Answers requests at the head of a port's queue that take no slot and whose nominal issue clk lies before clk `lim`:
refused ones, and clave operations of the own slice, which reach their pair in that clk (R85, R98, R104). `t0` is the
earliest issue clk of the answer, the clk of a fence or kill mark for a waiting request. -/
def State.portSettle (s : State) (sl p t0 lim : Nat) : Nat → State
  | 0 => s
  | n + 1 =>
    match (s.port sl p).queue with
    | [] => s
    | r :: _ =>
      if lim ≤ r.since then s
      else match s.headCode sl p r with
        | some c =>
          let t := s.popPort sl p
          let t := if s.portFenced sl p ∨ r.home ≠ sl then t.answer sl r c [] none (max r.since t0)
            else t.refuseAt sl r c (max r.since t0)
          t.portSettle sl p t0 lim n
        | none =>
          match r.clave with
          | some o =>
            if r.home = sl ∧ (s.port sl p).usedTo < lim then
              let c := max (max r.since t0) (s.port sl p).usedTo
              let x := s.performClave sl r.ctx o
              let t := (x.2.2.popPort sl p).answer sl r x.1 [] x.2.1 c
              (t.modPort sl p fun y => { y with usedTo := c + 1 }).portSettle sl p t0 lim n
            else s
          | none => s

/-- Settles a port up to the present clk. -/
def State.settlePort (s : State) (sl p t0 : Nat) : State := s.portSettle sl p t0 (s.now + 1) (s.port sl p).queue.length

/-- Settles a port up to the clk before the present one, in which a fence or a kill mark changes (R85). -/
def State.settlePast (s : State) (sl p : Nat) : State := s.portSettle sl p 0 s.now (s.port sl p).queue.length

/-- Settles every built port of a slice. -/
def State.settleSlice (s : State) (sl t0 : Nat) : State :=
  s.each (List.range s.build.ports) fun t p => t.settlePort sl p t0

/-- Settles every built port of a slice up to the clk before the present one. -/
def State.settleBefore (s : State) (sl : Nat) : State := s.each (List.range s.build.ports) fun t p => t.settlePast sl p

/-! ### Requests waiting at a home slice -/

/-- The answer that a request waiting at its home slice gets without a slot: ABORTED under a kill, FENCED (R85,
R347). -/
def State.homeNoSlot (s : State) (sl : Nat) (r : Req) : Option Nat :=
  if s.killedIn sl r.ctx then some rspAborted
  else if r.lines.any fun l => s.bankFencedFor sl (r.bankOf l) (max r.since (s.bank sl (r.bankOf l)).fence.1) then
    some rspFenced
  else none

/-- Answers every request waiting at slice `sl` that a fence or a kill mark now meets. -/
def State.settleHome (s : State) (sl : Nat) : State :=
  let q := (s.slice sl).home
  let t := s.modSlice sl fun x => { x with home := q.filter fun r => (s.homeNoSlot sl r).isNone }
  q.foldl (fun (t : State) r => match s.homeNoSlot sl r with
    | some c => t.refuseAt sl r c (max s.now r.since)
    | none => t) t

/-- Answers everything that waits at slice `sl`, at its ports or at home, and that a fence raised now, or a kill
mark arriving now, meets. -/
def State.settleAll (s : State) (sl : Nat) : State := (s.settleSlice sl s.now).settleHome sl

/-- A fence or a kill mark of slice `sl` changes in the present clk: requests of earlier clks meet it as it was, those of
this clk, and those that wait, as it is then (R85). -/
def State.fencing (s : State) (sl : Nat) (f : State → State) : State := (f ((s.wipeNow sl).settleBefore sl)).settleAll sl

/-- The same for the fence of one port. -/
def State.fencingPort (s : State) (sl p : Nat) (f : State → State) : State :=
  let t := f (s.settlePast sl p)
  t.settlePort sl p t.now

/-! ### Acceptance -/

/-- A request that its port is still to present in the mesh: no code answers it at once. -/
def State.goesRemote (s : State) (sl p : Nat) (r : Req) : Bool := decide (r.home ≠ sl) && (s.headCode sl p r).isNone

/-- Outstanding remote requests of a port, those still in the converter included (R97, R110). -/
def State.remoteOut (s : State) (sl p : Nat) : Nat :=
  (s.port sl p).rout + ((s.port sl p).queue.filter (s.goesRemote sl p)).length

/-- A request of the port waits in clk `c`: its nominal issue clk has passed and nothing answers it at once (R97). -/
def State.portWaits (s : State) (sl p c : Nat) : Bool :=
  (s.port sl p).queue.any fun r =>
    decide (r.since < c) && (s.headCode sl p r).isNone && !(r.clave.isSome && decide (r.home = sl))

/-- CP_REQ_READY for the first beat of a request at clk `c` (R97): high while the port is fenced; low while a
request waits under R79 and while RMAX + 1 remote requests are outstanding. -/
def State.portReady (s : State) (sl p c : Nat) : Bool :=
  s.portFenced sl p || (!(s.portWaits sl p c) && decide (s.remoteOut sl p ≤ s.getF (A.portCfg sl p) 0 6))

/-- The edge at which the last of the `d` beats of a request is accepted, its last beat being presented now: behind the
beats accepted before, and, where the port is not fenced, behind the edges at which a read holds READY low (R97). -/
def State.takeEdge (s : State) (sl p d : Nat) : Nat :=
  let e := max (s.edgeAt p s.now) ((s.port sl p).takenTo + d - 1)
  if (s.reach (s.edgeClk p e)).portFenced sl p then e else max e ((s.port sl p).busyTo + d - 1)

/-- The edge at which the first of `d` beats is taken to have been presented, the last being accepted at edge `e`. DESIGN
CHOICE: the command gives the last beat only, and the engine may leave gaps between beats, so that the first of several
beats counts as presented at the first edge that the acceptances before it allow. -/
def State.firstEdge (s : State) (sl p d e : Nat) : Nat := if d ≤ 1 then e else (s.port sl p).busyTo

/-- The complex answers requests at the ports of slice `sl`: it serves, or a wake of it has failed and it stays fenced
(R311, R317). -/
def State.portAwake (s : State) (sl : Nat) : Bool := s.sliceServes sl || s.wakeFailed sl

/-- A request of `d` beats, whose read response has `b` beats, is accepted at the first edge that the port's clock
and READY allow, and held in the converter. A clave operation of the own slice at the head goes on to its nominal
issue clk at once. A request is a wake event: one at a sleeping slice wakes it and comes again, and one that meets step E1 of
an entry abandons the entry and is served (R311, R314, R315); where a wake has failed it is answered FENCED (R317). A request
that READY does not admit is not accepted. -/
def State.accept (s : State) (sl p d b : Nat) (mk : Nat → Req) : State :=
  let s := s.wakeFor sl 1
  if s.portAwake sl = false then s
  else
    let e := s.takeEdge sl p d
    let f := s.firstEdge sl p d e
    let t := (s.reach (s.edgeClk p e)).settlePort sl p 0
    if t.portReady sl p (s.edgeClk p f) = false then s
    else
      let r := mk (s.nominal p e)
      let u := t.modPort sl p fun x => { x with queue := x.queue ++ [r], takenTo := e + 1, busyTo := e + b }
      if (u.port sl p).queue.length = 1 ∧ r.clave.isSome ∧ r.home = sl then (u.reach r.since).settlePort sl p 0 else u

/-- The lines of a request, in bank order (R95, R96). -/
def portLineAccs (r : PortReq) (d : PortData) (psnOn : Bool) : List LineAcc :=
  ((List.range 8).filter fun i => r.lvalid.getLsbD i).map fun i =>
    let x := d.lines.getD i (0, 0)
    let wen : WordEn := r.wen.extractLsb' (8 * i) 8
    { bank := i, row := r.rows.getD i 0 % 4096, wen := wen, ben := x.2, data := x.1,
      psn := if psnOn && d.psn.getLsbD i then wen else 0 }

/-- The request of a READ or WRITE. -/
def mkPortReq (r : PortReq) (write : Bool) (lines : List LineAcc) (since : Nat) : Req where
  origin := .port r.sl r.port
  write := write
  ctx := r.ctx
  cls := r.cls
  tag := r.tag
  home := r.tsl
  bset := r.bset
  lines := lines
  clave := none
  owner := r.port
  since := since

/-- No write data. -/
def noPortData : PortData := { lines := [], psn := 0 }

/-- READ (R98). -/
def execCpRead (r : PortReq) (s : State) : Out :=
  let ls := portLineAccs r noPortData false
  s.onPort r.sl r.port (s.accept r.sl r.port 1 (s.beats r.port (hiLines ls)) (mkPortReq r false ls))

/-- WRITE (R98), presented at its last data beat (R97). -/
def execCpWrite (r : PortReq) (d : PortData) (s : State) : Out :=
  let ls := portLineAccs r d (s.getB (A.portCfg r.sl r.port) 9)
  s.onPort r.sl r.port (s.accept r.sl r.port (s.beats r.port (hiLines ls)) 1 (mkPortReq r true ls))

/-- A request with a reserved operation code names no access and is answered RANGE (R98, R99): it is held as a
request of no slice. -/
def execCpReservedOp (r : PortReq) (_op : Nat) (s : State) : Out :=
  s.onPort r.sl r.port (s.accept r.sl r.port 1 1 fun n => { mkPortReq r true [] n with home := 64 })

/-- The request of a clave operation; with CLV_EN clear it is answered RANGE, as a request of no slice. -/
def mkClaveReq (r : ClaveReq) (kind : Nat) (en : Bool) (since : Nat) : Req where
  origin := .port r.sl r.port
  write := false
  ctx := r.ctx
  cls := r.cls
  tag := r.tag
  home := if en then r.tsl else 64
  bset := 0
  lines := []
  clave := some { kind := kind, pair := r.pair % 256, room := r.room, n := r.n % 65536 }
  owner := r.port
  since := since

/-- A clave operation of a port. -/
def State.portClave (s : State) (r : ClaveReq) (kind : Nat) : State :=
  s.accept r.sl r.port 1 1 (mkClaveReq r kind (s.getB (A.portCfg r.sl r.port) 8))

/-- CLV_READ (R98, R258). -/
def execCpClvRead (r : ClaveReq) (s : State) : Out := s.onPort r.sl r.port (s.portClave r 0)

/-- CLV_SIGNAL (R98, R258). -/
def execCpClvSignal (r : ClaveReq) (s : State) : Out := s.onPort r.sl r.port (s.portClave r 1)

/-- CLV_TAKE (R98, R258). -/
def execCpClvTake (r : ClaveReq) (s : State) : Out := s.onPort r.sl r.port (s.portClave r 2)

/-! ### Responses -/

/-- Requests at the head of the queue that take no slot are answered, the first of them in its nominal issue clk
where nothing else waits to be presented. -/
def State.settleFirst (s : State) (sl p : Nat) : State :=
  match (s.port sl p).localRsps, (s.port sl p).queue with
  | [], r :: _ => if (s.headCode sl p r).isSome then (s.reach r.since).settlePort sl p 0 else s
  | _, _ => s.settlePort sl p 0

/-- Response beats of a response. -/
def State.rspBeats (s : State) (p : Nat) (r : Resp) : Nat :=
  if r.write ∨ r.clave.isSome ∨ (r.code ≠ rspOk ∧ r.code ≠ rspPoison) then 1
  else s.beats p (r.lines.foldl (fun n l => max n (l.pos + 1)) 0)

/-- The oldest local response is presented at its edge, in the order of acceptance (R100, R103). -/
def State.presentLocal (s : State) (sl p : Nat) : State :=
  let s := s.settleFirst sl p
  match (s.port sl p).localRsps with
  | [] => s
  | r :: rest =>
    let t := s.reach (s.edgeClk p r.due)
    (t.modPort sl p fun x =>
      { x with localRsps := rest, shown := some (r, r.due), remoteTo := max x.remoteTo (r.due + s.rspBeats p r) }).portProgress
      r.ctx r.code

def execCpResponse (sl port : Nat) (s : State) : Out :=
  s.onPort sl port (s.when (s.sliceUp sl) (s.presentLocal sl port))

/-- No local response beat is due at edge `e`. -/
def State.edgeFree (s : State) (sl p e : Nat) : Bool :=
  (s.port sl p).localRsps.all fun r => decide (e < r.due) || decide (r.due + s.rspBeats p r ≤ e)

/-- The first of the `n` edges from `e` on at which `b` consecutive edges have no local beat due. -/
def State.freeEdges (s : State) (sl p b : Nat) : Nat → Nat → Nat
  | 0, e => e
  | n + 1, e =>
    if (List.range b).all fun i => s.edgeFree sl p (e + i) then e else s.freeEdges sl p b n (e + 1)

/-- The oldest remote response is presented at the first edges with no local beat due (R100, R103). -/
def State.presentRemote (s : State) (sl p : Nat) : State :=
  let s := s.settlePort sl p 0
  match (s.port sl p).remoteRsps with
  | [] => s
  | r :: rest =>
    let b := s.rspBeats p r
    let e0 := max (max (s.edgeAt p (r.due + 1 + s.assemble p)) (s.edgeAt p s.now)) (s.port sl p).remoteTo
    let e := s.freeEdges sl p b (8 * ((s.port sl p).localRsps.length + 1)) e0
    let t := s.reach (s.edgeClk p e)
    (t.modPort sl p fun x =>
      { x with remoteRsps := rest, shown := some (r, e), rout := x.rout - 1, remoteTo := e + b }).portProgress r.ctx r.code

def execCpRemoteResponse (sl port : Nat) (s : State) : Out :=
  s.onPort sl port (s.when (s.sliceUp sl) (s.presentRemote sl port))

/-! ### Outputs of a port (R101, R102, R105) -/

/-- The clk that the converter predicts at edge `e`: the nominal issue clk of a request accepted at the next edge. -/
def State.predicted (s : State) (p e : Nat) : Nat := s.nominal p (e + 1)

/-- CP_SLOT_PHASE at edge `e`. -/
def State.slotPhase (s : State) (sl p e : Nat) : Nat := if s.portFenced sl p then 0 else s.predicted p e % 32

/-- CP_SLOT_OWN at edge `e`, under the active table and the M in force: the bank sets whose lane the port owns then; zero
in a slice that is fenced, in Damp, in Tap or in Off (R311). -/
def State.slotOwn (s : State) (sl p e : Nat) : BitVec 64 :=
  if s.portFenced sl p ∨ s.sliceServes sl = false then 0
  else maskOf ((List.range 8).filter fun b => decide (s.slotOwner sl b (s.predicted p e) = p))

/-- CP_REQ_READY at edge `e` for the first beat of a request (R97); low from step E2 of an entry on and in Damp, Tap and
Off (R311, R312). -/
def State.reqReady (s : State) (sl p e : Nat) : Bool :=
  s.portAwake sl && !(s.slice sl).fenceOff &&
    (s.portFenced sl p || (decide ((s.port sl p).busyTo ≤ e) && s.portReady sl p (s.edgeClk p e)))

/-- What the response channel presents at edge `e`: the response and the index of its beat (R95, R96, R100). Nothing is
presented while the slice is in Damp, Tap or Off (R311). -/
def State.rspAt (s : State) (sl p e : Nat) : Option (Resp × Nat) :=
  match (s.port sl p).shown with
  | some (r, e0) => if s.sliceUp sl ∧ e0 ≤ e ∧ e < e0 + s.rspBeats p r then some (r, e - e0) else none
  | none => none

/-- CP_RSP_VALID at edge `e`. -/
def State.rspValid (s : State) (sl p e : Nat) : Bool := (s.rspAt sl p e).isSome

/-- CP_RSP_BEAT at edge `e`. -/
def State.rspBeat (s : State) (sl p e : Nat) : Nat :=
  match s.rspAt sl p e with
  | some x => x.2
  | none => 0

/-- The 512-byte image of a response, line `n` (R96): the line read there, or, of a clave operation, its word in line 0. -/
def Resp.imageLine (r : Resp) (n : Nat) : Line :=
  match r.clave with
  | some w => if n = 0 then w.setWidth 512 else 0
  | none => match r.lines.find? fun l => l.pos = n with
    | some l => l.data
    | none => 0

/-- CP_RSP_DATA at edge `e`, as the bytes of the image that the beat carries: zero without a response. -/
def State.rspData (s : State) (sl p e : Nat) : BitVec 4096 :=
  match s.rspAt sl p e with
  | some x =>
    let image : BitVec 4096 := (List.range 8).foldl (fun v n => v ||| ((x.1.imageLine n).setWidth 4096 <<< (512 * n))) 0
    (image >>> (8 * s.portWidth p * x.2)) &&& BitVec.ofNat 4096 (2 ^ (8 * s.portWidth p) - 1)
  | none => 0

/-- CP_ID_REQ at edge `e`: high for one pclk (R106). -/
def State.idReqHigh (s : State) (sl p e : Nat) : Bool := decide ((s.port sl p).idReq = some e)

/-- CP_FENCE_OUT at the first edge after the present clk (R105). -/
def State.fenceOut (s : State) (sl p : Nat) : Bool := s.portFenced sl p

/-! ### Fences of a port -/

/-- The engine raises CP_FENCE_IN: the port is fenced from the capture clk (R105), and the requests that wait are
answered FENCED (R85). -/
def State.fenceInRaise (s : State) (sl p : Nat) : State :=
  (s.reach (s.edgeClk p (s.edgeAt p s.now) + 1)).fencingPort sl p fun t => t.modPort sl p fun x => { x with fenceIn := true }

def execCpFenceInRaise (sl port : Nat) (s : State) : Out := s.onPort sl port (s.fenceInRaise sl port)

/-- The engine lowers CP_FENCE_IN: requests of earlier clks are answered FENCED, and the fence lifts from the
capture clk unless another cause holds it (R85, R105). -/
def State.fenceInLower (s : State) (sl p : Nat) : State :=
  (s.reach (s.edgeClk p (s.edgeAt p s.now) + 1)).fencingPort sl p fun t => t.modPort sl p fun x => { x with fenceIn := false }

def execCpFenceInLower (sl port : Nat) (s : State) : Out := s.onPort sl port (s.fenceInLower sl port)

/-- A write of RHY_PFENCE (R90), which has reached the slice: ports fenced by software from this clk, others released. -/
def State.storePfence (s : State) (sl : Nat) (v : Word) (ctx : Nat) : State :=
  s.fencing sl fun t => t.storeReg (A.rhyPfence sl) v true ctx
def State.rhyPfence (s : State) (sl : Nat) (v : Word) (ctx : Nat) : State :=
  s.csrAccess (A.rhyPfence sl) ctx fun t => t.storePfence sl v ctx

def execRhyPfenceWrite (sl : Nat) (v : Word) (ctx : Nat) (s : State) : Out := s.onSlice sl (s.rhyPfence sl v ctx)

/-! ### Roll call (R106 to R108) -/

/-- Belfry drives CP_ID_REQ of port `p` high at edge `e`, for one pclk (R106). -/
def State.idPulse (s : State) (sl p e : Nat) : State :=
  s.modPort sl p fun x => { x with retryDue := none, calledAt := e, idReq := some e }

/-- A roll call of port `p` starts (R106, R108). While Belfry, which makes it, is in reset, its first attempt waits
(R14). -/
def State.callPort (s : State) (sl p : Nat) : State :=
  let e := s.edgeAt p s.now
  let t := (s.modPort sl p fun x => { x with calling := true, attempts := 0, retryDue := some e }).putB (A.portRc sl) 1 true
  if s.belfry.inReset then t else t.idPulse sl p e

/-- A roll call of every built port of a slice. -/
def State.callSlice (s : State) (sl : Nat) : State := s.each (List.range s.build.ports) fun t p => t.callPort sl p

/-- A write of PORT_RC: RUN starts a roll call unless one is in progress (R111). -/
def State.storeRc (s : State) (sl : Nat) (v : Word) : State :=
  if flag v 0 ∧ s.getB (A.portRc sl) 1 = false then s.callSlice sl else s
def State.portRc (s : State) (sl : Nat) (v : Word) (ctx : Nat) : State :=
  s.csrAccess (A.portRc sl) ctx fun t => t.storeRc sl v

def execPortRcRun (sl : Nat) (v : Word) (ctx : Nat) (s : State) : Out := s.onSlice sl (s.portRc sl v ctx)

/-- A port's roll call ends with result `res` (R108): RCRES, PRESENT and MISMATCH are written once, and the fence
of the roll call is set or lifted. -/
def State.callEnds (s : State) (sl p res : Nat) (valid : Bool) : State :=
  let pass := decide (res = 1) || decide (res = 5)
  let t := s.settlePast sl p
  let t := t.putF (A.portStat sl p) 8 3 res
  let t := (t.putB (A.portRc sl) (16 + p) valid).putB (A.portRc sl) (32 + p) (decide (res ≠ 1))
  let t := t.modPort sl p fun x =>
    { x with calling := false, called := true, retryDue := none, rcFence := !pass,
             resetFence := if pass then false else x.resetFence }
  let busy := (List.range t.build.ports).any fun q => (t.port sl q).calling
  (t.putB (A.portRc sl) 1 busy).settlePort sl p t.now

/-- The settings record's entry for a port index, which holds for every slice: KIND and LIC_REV (R397). -/
def State.portEntry (s : State) (p : Nat) : Option (Nat × Nat) :=
  match s.belfry.settings.ports.find? fun e => e.1 = p with
  | some e => some e.2
  | none => none

/-- The class of a valid frame (R108): 4 for a build mismatch, 5 for a settings mismatch, else 1. -/
def State.classFrame (s : State) (p : Nat) (id : BitVec 128) : Nat :=
  let w := (id.extractLsb' 16 2).toNat
  let r := (id.extractLsb' 18 2).toNat
  let kind := (id.extractLsb' 8 8).toNat
  let rev := (id.extractLsb' 56 16).toNat
  if w ≠ s.getF A.glbBuild1 (4 * p) 2 ∨ r ≠ s.getF A.glbBuild1 (4 * p + 2) 2 then 4
  else match s.portEntry p with
    | some e => if e.1 = kind ∧ e.2 = rev then 1 else 5
    | none => 1

/-- An attempt of port `p` is under way: its roll call waits for a frame, and Belfry reads it (R14, R108). -/
def State.idListens (s : State) (sl p : Nat) : Bool :=
  (s.port sl p).calling && (s.port sl p).retryDue.isNone && !s.belfry.inReset

/-- A complete identity frame of 145 pclk has been received (R106 to R108). One whose start bit came later than 256 pclk
after CP_ID_REQ finds the roll call ended as Absent. -/
def State.idFrame (s : State) (sl p : Nat) (id : BitVec 128) (check : BitVec 16) : State :=
  let x := s.port sl p
  if s.idListens sl p = false then s
  else
    let e := max (s.edgeAt p s.now) (x.calledAt + 145)
    if x.calledAt + 256 + 144 < e then (s.reach (s.edgeClk p (x.calledAt + 256))).callEnds sl p 2 false
    else
      let t := s.reach (s.edgeClk p e)
      let valid := decide (crc16 id = check) && decide (id.extractLsb' 0 8 = 1)
      if valid then
        let t := (t.wr (A.portIdlo sl p) (id.extractLsb' 0 64)).wr (A.portIdhi sl p) (id.extractLsb' 64 64)
        t.callEnds sl p (s.classFrame p id) true
      else if 2 ≤ x.attempts then t.callEnds sl p 3 false
      else t.modPort sl p fun x => { x with attempts := x.attempts + 1, retryDue := some (e + 16) }

def execIdFrame (sl port : Nat) (id : BitVec 128) (check : BitVec 16) (s : State) : Out :=
  s.onPort sl port (s.idFrame sl port id check)

/-- No start bit came within 256 pclk: result 2 (R108). -/
def State.idAbsent (s : State) (sl p : Nat) : State :=
  if s.idListens sl p = false then s
  else (s.reach (s.edgeClk p ((s.port sl p).calledAt + 256))).callEnds sl p 2 false

def execIdAbsent (sl port : Nat) (s : State) : Out := s.onPort sl port (s.idAbsent sl port)

/-- The next attempt, 16 pclk after a frame found in error, or the first once Belfry is out of reset (R14, R108). -/
def State.idRetry (s : State) (sl p : Nat) : State :=
  match (s.port sl p).retryDue with
  | none => s
  | some e =>
    if s.belfry.inReset ∨ (s.port sl p).calling = false then s
    else
      let t := s.reach (s.edgeClk p e)
      t.idPulse sl p (max e (s.edgeAt p s.now))

def execIdRetry (sl port : Nat) (s : State) : Out := s.onPort sl port (s.idRetry sl port)

end Sys2Proof.Machine
end

