-- ==== Sys2Proof/Machine/Maint.lean ====
section
/-! DEFINITION. Maintenance at a bank: refresh, patrol and the W vote (R47, R52, R60, R290), row self-test and its
classes (R55 to R57, R287), drains (R49), retirement and bad lines (R58, R59). -/

namespace Sys2Proof.Machine

/-! ### Retirement and bad lines -/

/-- Spare rows free in a macro (R67). -/
def State.spareFree (s : State) (sl b mac : Nat) : Nat := s.getF (A.eccSpare sl b) (4 * mac) 4

/-- Spare rows in use in a macro. -/
def State.sparesUsed (s : State) (sl b mac : Nat) : List Nat :=
  (s.mem.remap.filter fun e => e.1 / 512 = (sl * 64 + b) * 4 + mac).map fun e => e.2 - 1

/-- The lowest spare row of a macro not in use. -/
def State.freeSpare (s : State) (sl b mac : Nat) : Option Nat :=
  (List.range 8).find? fun n => !((s.sparesUsed sl b mac).contains n)

/-- Marks a line bad: in the first free ECC_BADLINE entry, and in the bank's count (R59, R68). DESIGN CHOICE: a line that
is found failing once more is entered and counted once more; the spec does not say whether a line is listed twice. -/
def State.markBad (s : State) (sl b l : Nat) : State :=
  match (List.range 64).find? fun i => !(s.getB (A.eccBadline sl i) 63) with
  | some i =>
    (s.wr (A.eccBadline sl i) (setFlag (setFld (setFld 0 0 12 l) 12 6 b) 63 true)).countSat (A.eccSpare sl b) 16 8 1
  | none => s

/-- A line is marked bad and the fault is reported (R59). -/
def State.badLine (s : State) (sl b l : Nat) : State :=
  let t := s.markBad sl b l
  let t : State := { t with belfry := { t.belfry with badLines := t.belfry.badLines ++ [(sl, b, l)] } }
  t.sliceRec sl 0x26 b none 0 0 (eccDetail l 0 0 6 0)

/-- A row classed lasting is queued for retirement; with no spare row of its macro left, or 32 retirements
pending, its lines that hold a failing cell are marked bad (R57, R59). DESIGN CHOICE: a spare row that a pending retirement
of the macro will take counts as not left; the spec does not say how pending rows count. -/
def State.queueRetire (s : State) (sl b row : Nat) (lines : List Nat) : State :=
  let mac := row / 512
  let pend := (s.slice sl).retire
  let waiting := (pend.filter fun r => r.1 = b ∧ r.2.1 = mac).length
  if 32 ≤ pend.length ∨ s.spareFree sl b mac ≤ waiting then
    (s.putB (A.eccRetire sl) 7 true).each lines fun t l => t.badLine sl b l
  else
    (s.modSlice sl fun x => { x with retire := x.retire ++ [(b, mac, row % 512)] }).putF (A.eccRetire sl) 0 6
      (pend.length + 1)

/-- A word of a row, recoded for another place: the corrected value, poison where it is uncorrectable, and the
stored bits unchanged where the W state is clear (R58, R60). -/
def State.recoded (s : State) (sl b row slot : Nat) : BitVec 80 :=
  let l := rowLine row slot
  let w := s.storedWord sl b l (slot % 8)
  if s.wState sl b l (slot % 8) then
    let a := foldAddr b l (slot % 8)
    let d := decodeWord w a
    if d.bad then poisonWord a else codeWord d.data a
  else w

/-- The write-back register of a bank empties. -/
def State.drainWb (s : State) (sl b : Nat) : State :=
  match (s.bank sl b).wb with
  | some (l, w8, d) => s.writeCoded sl b l w8 d false
  | none => s

/-- Copies the 16 words of a row, recoded, into spare row `n` of its macro, which enters the remap (R58). -/
def State.moveRow (s : State) (sl b mac row n : Nat) : State :=
  let words := (List.range 16).map fun k => s.recoded sl b (512 * mac + row) k
  let m := s.mem
  let m' : Mem := { m with remap := Tbl.put 0 m.remap (remapKey sl b mac row) (n + 1) }
  let spare := cellKey sl (m.cellBank sl b) mac (512 + n) 0 / 162
  let m' := m.withMap m' fun k => decide (k / 162 = spare)
  { s with mem := words.zipIdx.foldl (fun (m : Mem) (p : BitVec 80 × Nat) => m.putWord80 sl b mac row p.2 p.1) m' }

/-- The fence of a retirement of bank `b`: from the present clk, or behind the retirement before it, for at most 64 clk. It
holds for a number of clk that the spec leaves open (R58). -/
def State.fenceRetire (s : State) (sl b : Nat) : State :=
  let x := s.freeDraw
  let until' := max s.now (s.bank sl b).fence.2 + 1 + fld x.1 0 6
  x.2.modBank sl b fun k => { k with fence := (s.now, until') }

/-- A pending retirement is carried out (R58): the bank is fenced, unless a handover fences it; the merge buffer and
write-back register drain, the row is copied, recoded, into a free spare row, which enters the remap, and the REPAIR golden
follows. -/
def State.retireRow (s : State) (sl b mac row : Nat) : State :=
  let t := s.modSlice sl fun x => { x with retire := x.retire.filter (· ≠ (b, mac, row)) }
  let t := t.putF (A.eccRetire sl) 0 6 (t.slice sl).retire.length
  match t.freeSpare sl b mac with
  | none => t
  | some n =>
    let t := if (t.slice sl).handMask.getLsbD b then t else t.fencing sl fun t => t.fenceRetire sl b
    let t := (t.drainAll sl b).drainWb sl b
    let u := t.moveRow sl b mac row n
    let u := u.putF (A.eccSpare sl b) (4 * mac) 4 (u.spareFree sl b mac - 1)
    let u := ((u.putF (A.eccRetire sl) 8 6 b).putF (A.eccRetire sl) 14 2 mac).putF (A.eccRetire sl) 16 9 row
    let u := u.moveRepair t sl
    let u := u.sliceRec sl 0x25 b none 0 0 (setFld (eccDetail (1024 * mac + 2 * row) 0 0 0 0) 48 11 n)
    let u : State := { u with belfry := { u.belfry with retirements := u.belfry.retirements ++ [(sl, b, mac, row)] } }
    let more := fun (p : ScrubPass) => { p with retired := p.retired ++ [(b, 512 * mac + row)] }
    u.modSlice sl fun x => { x with scrub := x.scrub.map more }

/-- Every pending retirement of a list is carried out. -/
def State.retireAll (s : State) (sl : Nat) (l : List (Nat × Nat × Nat)) : State :=
  l.foldl (fun t r => t.retireRow sl r.1 r.2.1 r.2.2) s

/-- The bank's owner is quiesced (R58). -/
def State.quiesced (s : State) (sl b : Nat) : Bool :=
  let st := s.ctxState (s.ownerOf sl b)
  decide (st = 0) || decide (st = 2) || (s.slice sl).handMask.getLsbD b

/-- The oldest pending retirement of a bank, once its owner is quiesced (R58). -/
def State.rowRetire (s : State) (sl b : Nat) : State :=
  match (s.slice sl).retire.find? fun r => r.1 = b with
  | some r => if s.quiesced sl b then s.retireRow sl b r.2.1 r.2.2 else s
  | none => s

def execRowRetire (sl bank : Nat) (s : State) : Out :=
  if bank < 64 then s.onSlice sl (s.rowRetire sl bank) else .refused .noSuchUnit

/-- A write of ECC_RETIRE (R66): NOSPARE cleared by 1, and RUN retires every pending row now. -/
def State.storeRetire (s : State) (sl : Nat) (v : Word) (ctx : Nat) : State :=
  let u := s.storeReg (A.eccRetire sl) v true ctx
  if flag v 6 then u.retireAll sl (u.slice sl).retire else u
def State.eccRetire (s : State) (sl : Nat) (v : Word) (ctx : Nat) : State :=
  s.csrAccess (A.eccRetire sl) ctx fun t => t.storeRetire sl v ctx

def execEccRetireRun (sl : Nat) (v : Word) (ctx : Nat) (s : State) : Out := s.onSlice sl (s.eccRetire sl v ctx)

/-! ### Self-test -/

/-- A row classed transient is re-classed lasting: its count in the bank's history reaches ECC_CFG.TRTHR (R287). -/
def State.reclassed (s : State) (sl b row : Nat) : Bool :=
  let n := match (s.bank sl b).hist.find? fun h => h.row = row with
    | some h => h.count + 1
    | none => 1
  let thr := s.getF (A.eccCfg sl) 0 4
  decide (thr ≠ 0) && decide (thr ≤ n)

/-- A row classed transient raises its count in the bank's history, and is re-classed lasting at ECC_CFG.TRTHR
(R287). -/
def State.historyNote (s : State) (sl b row : Nat) : State :=
  let k := s.bank sl b
  let n := match k.hist.find? fun h => h.row = row with
    | some h => h.count + 1
    | none => 1
  let rest := k.hist.filter fun h => h.row ≠ row
  if s.reclassed sl b row then
    let t := (s.setBank sl b { k with hist := rest }).count (A.eccCnt sl 8) 0 48 1
    let t := t.sliceRec sl 0x24 b none 0 0 (setFlag (eccDetail (2 * row) 0 0 6 0) 63 true)
    t.queueRetire sl b row [2 * row, 2 * row + 1]
  else
    let kept := if rest.length < 4 then rest else
      match rest.foldl (fun (m : Option Hist) h => match m with
          | none => some h
          | some x => if h.count < x.count ∨ (h.count = x.count ∧ h.rose < x.rose) then some h else some x) none with
      | some low => rest.erase low
      | none => rest
    s.setBank sl b { k with hist := kept ++ [{ row := row, count := n, rose := s.now }] }

/-- Step T1 (R55): the row is read through the code into the test buffer, correcting every word whose W state is
set; words still uncorrectable are noted. -/
def State.testRead (s : State) (sl b row : Nat) : State :=
  let read := (List.range 16).foldl (fun (r : State × List (BitVec 80) × List Nat × Bool) k =>
    let l := rowLine row k
    let w := r.1.arrayWord sl b row k
    if r.1.wState sl b l (k % 8) then
      let a := foldAddr b l (k % 8)
      let d := decodeWord w a
      let t := if d.bits ≠ 0 ∨ d.bad then r.1.noteWord sl b l (k % 8) 5 0 0 d else r.1
      let seen := (s.bank sl b).ueSeen.contains (16 * row + k)
      let t := if seen ∧ ¬d.bad then
          (t.count (A.eccCnt sl 9) 0 48 1).sliceRec sl 0x27 b none 0 0 (eccDetail l (k % 8) 0 5 0)
        else t
      (t, r.2.1 ++ [if d.bad then w else codeWord d.data a], if d.bad then r.2.2.1 ++ [k] else r.2.2.1,
        r.2.2.2 || (seen && !d.bad))
    else (r.1, r.2.1 ++ [w], r.2.2.1, r.2.2.2)) (s, [], [], false)
  read.1.modBank sl b fun k =>
    { k with
      test := some { row := row, step := 1, buf := read.2.1, noted := read.2.2.1, sent := [], fails := [], path := read.2.2.2 }
      queue := k.queue.filter (· ≠ row)
      ueSeen := k.ueSeen.filter fun x => x / 16 ≠ row }

/-- A row self-tested for the scrub pass in progress was classed lasting: the pass counts it (R289). -/
def State.passLasting (s : State) (sl b row : Nat) (lasting : Bool) : State :=
  let up := fun (p : ScrubPass) => if lasting && p.tests.contains (b, row) then { p with lasting := p.lasting + 1 } else p
  s.modSlice sl fun x => { x with scrub := x.scrub.map up }

/-- Step T2: the complement of every stored cell of the row is written, that of a spare column group in use too (R55). -/
def State.testFlip (s : State) (sl b : Nat) (t : RowTest) : State :=
  let words := (List.range 16).map fun k => ~~~(s.arrayWord sl b t.row k)
  let u := s.each (List.range 16) fun u k => u.putArrayWord sl b t.row k (words.getD k 0)
  u.modBank sl b fun k => { k with test := some { t with step := 2, sent := words } }

/-- The columns of the cells of a row under test that T3 finds to differ from the complement (R35, R55): those that the
cells hold otherwise, and those, given from outside, that do not hold what is written. A spare column group in use stands
at columns 1,280 to 1,295, and the group that it replaces is not read. -/
def State.testMismatch (s : State) (sl b : Nat) (t : RowTest) (seen : List Nat) : List Nat :=
  let mac := t.row / 512
  let group := fun (bit : Nat) => s.mem.cellGroup sl b mac bit
  let cells := (List.range 80).flatMap fun bit => (List.range 16).filterMap fun k =>
    let c := 16 * group bit + k
    if (s.arrayWord sl b t.row k).getLsbD bit ≠ (t.sent.getD k 0).getLsbD bit ∨ seen.contains c then some c else none
  cells.mergeSort

/-- Step T3: the class of the fault (R57). A mismatching cell makes it lasting. DESIGN CHOICE: a row of which T1 read clean
a word that had been reported uncorrectable is a transient path fault and is not classed transient beside that, even where
another word of it was corrected; the spec does not say which class wins. -/
def State.testClass (s : State) (sl b : Nat) (t : RowTest) (seen : List Nat) : State :=
  let fails := s.testMismatch sl b t seen
  let s := s.modBank sl b fun k => { k with test := some { t with step := 3, fails := fails } }
  match fails with
  | c :: _ =>
    let u := (s.count (A.eccCnt sl 8) 0 48 1).sliceRec sl 0x24 b none 0 0
      (setFld (eccDetail (rowLine t.row (c % 16)) (c % 8) 0 6 0) 48 11 c)
    let lines := ((List.range 2).filter fun k => fails.any fun f => f % 16 / 8 = k).map fun k => 2 * t.row + k
    (u.queueRetire sl b t.row lines).passLasting sl b t.row true
  | [] =>
    if t.path then s
    else
      let u := (s.count (A.eccCnt sl 7) 0 48 1).sliceRec sl 0x23 b none 0 0 (eccDetail (2 * t.row) 0 0 6 0)
      (u.historyNote sl b t.row).passLasting sl b t.row (u.reclassed sl b t.row)

/-- Step T4: the test buffer is written back, recoded; noted words are written poisoned (R55). -/
def State.testWrite (s : State) (sl b : Nat) (t : RowTest) : State :=
  let u := s.modBank sl b fun k => { k with test := none }
  let u := u.each (List.range 16) fun u k =>
    let l := rowLine t.row k
    u.putArrayWord sl b t.row k
      (if t.noted.contains k ∧ u.wState sl b l (k % 8) then poisonWord (foldAddr b l (k % 8)) else t.buf.getD k 0)
  u.modSlice sl fun x => { x with scrub := x.scrub.map fun p => { p with tests := p.tests.filter (· ≠ (b, t.row)) } }

/-- The row whose self-test step is due in a bank. -/
def Bank.testRow (k : Bank) : Option Nat :=
  match k.test with
  | some t => some t.row
  | none => k.queue.head?

/-- One step of the self-test of a bank. `fails` are the columns of cells that do not hold what T2 writes. -/
def State.testStep (s : State) (sl b : Nat) (fails : List Nat) : State :=
  let k := s.bank sl b
  match k.test with
  | none => match k.queue with
    | row :: _ => s.testRead sl b row
    | [] => s
  | some t =>
    if t.step = 1 then s.testFlip sl b t
    else if t.step = 2 then s.testClass sl b t fails
    else s.testWrite sl b t

/-! ### The maintenance clk (R52) -/

/-- The bank row of index `i` of the refresh order (R60): macro i mod 4, macro row i div 4. -/
def orderRow (i : Nat) : Nat := i % 4 * 512 + i / 4 % 512

/-- A row is read through the code and written back (R60, R290): a correctable word is corrected and counted, an
uncorrectable one is poisoned, and either queues the row; a word whose W state is clear is rewritten raw. -/
def State.refreshRow (s : State) (sl b row src : Nat) : State :=
  if ((s.bank sl b).testing row).isSome then s
  else s.each (List.range 16) fun t k =>
    let l := rowLine row k
    if t.wState sl b l (k % 8) = false then t
    else
      let a := foldAddr b l (k % 8)
      let d := decodeWord (t.arrayWord sl b row k) a
      if d.bits ≠ 0 then
        ((t.noteWord sl b l (k % 8) src 0 0 d).putArrayWord sl b row k (codeWord d.data a)).queueTest sl b row
      else if d.poison then (t.noteWord sl b l (k % 8) src 0 0 d).queueTest sl b row
      else if d.bad then
        ((t.noteWord sl b l (k % 8) src 0 0 d).putArrayWord sl b row k (poisonWord a)).queueTest sl b row
      else t

/-- The W vote of a row: a copy that disagrees with the other two is rewritten and counted (R47). -/
def State.voteRow (s : State) (sl b row : Nat) : State :=
  s.each (List.range 16) fun t k =>
    let l := rowLine row k
    let c := t.wCopies sl b l (k % 8)
    let m : BitVec 3 := if majority c then 7 else 0
    if c = m then t else (t.putW sl b l (k % 8) m).count (A.eccCnt sl 5) 0 48 1

/-- The patrol rate in force (R290, R305). -/
def State.patrolRate (s : State) (sl : Nat) : Nat := fld (s.inForce (A.scrubPatrol sl)) 0 4

/-- A patrol row is due in this maintenance clk of a bank (R290). -/
def State.patrolDue (s : State) (sl b : Nat) : Bool :=
  decide (s.patrolRate sl ≠ 15) && decide ((s.bank sl b).turns % 2 ^ s.patrolRate sl = 0)

/-- The primary operation of a bank, with the macro it holds. -/
def State.primary (s : State) (sl b : Nat) : Option Nat × State :=
  let k := s.bank sl b
  if s.build.gcell then
    let row := orderRow k.vote
    (some (row / 512), s.refreshRow sl b row 1)
  else if s.patrolDue sl b then
    let row := orderRow k.row
    (some (row / 512), (s.refreshRow sl b row 2).modBank sl b fun k => { k with row := (k.row + 1) % 2048 })
  else (none, s)

/-- The secondary operation of a bank: the first that is ready and lies in another macro (R52). -/
def State.secondary (s : State) (sl b : Nat) (mac : Option Nat) (fails : List Nat) : State :=
  let k := s.bank sl b
  let free := fun (m : Nat) => decide (mac ≠ some m)
  let test := match k.testRow with
    | some row => free (row / 512)
    | none => false
  if test then s.testStep sl b fails
  else
    let wb := match k.wb with
      | some (l, _, _) => free (macroOf l)
      | none => false
    if wb then s.drainWb sl b
    else match k.merge.find? fun e => e.marked && free (macroOf e.line) with
      | some e => s.drainLine sl b e.line
      | none => s

/-- A maintenance clk at one bank: the W vote, the primary operation, the marks of R49 and the secondary
operation. -/
def State.maintBank (s : State) (sl b : Nat) (fails : List Nat) : State :=
  let v := (s.bank sl b).vote
  let p := s.primary sl b
  let t := p.2.voteRow sl b (orderRow v)
  let t := t.modBank sl b fun k =>
    { k with vote := (v + 1) % 2048, turns := k.turns + 1, maintAt := s.now + 1,
             merge := k.merge.map fun e => { e with marked := true } }
  t.secondary sl b p.1 fails

/-- The first clk from `c` on that is a maintenance clk of a bank set (R71). -/
def State.findMaint (s : State) (bset : Nat) : Nat → Nat → Nat
  | 0, c => c
  | n + 1, c => if isMaint (c % 32) (laneOn bset c) s.effM then c else s.findMaint bset n (c + 1)

/-- The next maintenance clk of a bank set. `t3fail` lists, for banks of the set whose self-test is at T3, the
columns of the cells that mismatch. -/
def State.maintenance (s : State) (sl bset : Nat) (t3fail : List (Nat × Nat)) : State :=
  let c := s.findMaint bset 64 (max s.now (s.bank sl (8 * bset)).maintAt)
  (s.reach c).each (List.range 8) fun t i =>
    t.maintBank sl (8 * bset + i) ((t3fail.filter fun f => f.1 = i).map fun f => f.2)

def execMaintenanceClk (sl bset : Nat) (t3fail : List (Nat × Nat)) (s : State) : Out :=
  if bset < 8 then s.onSlice sl (s.when (decide (s.slicePower sl ≠ 2) && decide (s.cplxPower ≠ 2))
    (s.maintenance sl bset t3fail)) else .refused .noSuchUnit

/-! ### Ages -/

/-- The first history entry of a bank whose age has passed 2^TRWIN clk is freed (R287). -/
def State.historyExpire (s : State) (sl b : Nat) : State :=
  let k := s.bank sl b
  match k.hist.foldl (fun (m : Option Hist) h => match m with
      | none => some h
      | some x => if h.rose < x.rose then some h else some x) none with
  | none => s
  | some h => (s.reach (h.rose + 2 ^ s.getF (A.eccCfg sl) 4 5)).setBank sl b { k with hist := k.hist.erase h }

def execHistoryExpire (sl bank : Nat) (s : State) : Out :=
  if bank < 64 then s.onSlice sl (s.historyExpire sl bank) else .refused .noSuchUnit

/-- A marked merge-buffer entry drains in the next free array cycle; else the oldest entry does when its age
reaches 64 clk (R49). -/
def State.drainAge (s : State) (sl b : Nat) : State :=
  let k := s.bank sl b
  match k.merge.find? MergeEntry.marked with
  | some e => s.drainLine sl b e.line
  | none => match oldestEntry k.merge with
    | some e => (s.reach (e.born + 64)).drainLine sl b e.line
    | none => s

def execMergeDrainAge (sl bank : Nat) (s : State) : Out :=
  if bank < 64 then s.onSlice sl (s.drainAge sl bank) else .refused .noSuchUnit

end Sys2Proof.Machine
end

