-- ==== Sys2Proof/Machine/Ownership.lean ====
section
/-! DEFINITION. Handover of banks between contexts (R127 to R132), and what a fence does to the requests that wait
at a slice (R85). -/

namespace Sys2Proof.Machine

/-! ### Handover -/

/-- A handover of the banks of `mask` starts: it is BUSY and its banks are fenced from the present clk, t_f. DESIGN CHOICE:
RESULT and ABORTS read 0 until it ends; the spec gives their values at its end only. -/
def State.startHandover (s : State) (sl : Nat) (mask : BitVec 64) (owner : Nat) (keep : Bool) (kill : Option Nat) :
    State :=
  let h : Handover :=
    { mask := mask, newOwner := owner, keep := keep, tf := s.now, kill := kill, drained := false, ready := 0, aborts := 0 }
  let t := s.fencing sl fun t => t.modSlice sl fun x => { x with handover := some h }
  ((t.putB (A.ownXfer sl) 8 true).putF (A.ownXfer sl) 9 3 0).putF (A.ownXfer sl) 16 16 0

/-- A write of OWN_XFER (R128, R129), judged by the state before the access, `s0` (R11): refused while BUSY. GO with MASK 0 or a NEWOWNER in KILLING sets RESULT 5;
otherwise the handover starts in the clk after the write. DESIGN CHOICE: a GO that ends with RESULT 5 has still stored the
NEWOWNER and KEEP written with it; "does nothing else" is read as concerning the handover. -/
def State.storeXfer (s s0 : State) (sl : Nat) (v : Word) (ctx : Nat) : State :=
  let a := A.ownXfer sl
  if s0.getB a 8 then s.refuseWrite a v ctx
  else
    let t := s.storeReg a v true ctx
    if flag v 7 = false then t
    else if t.rd (A.ownXferMask sl) = 0 ∨ s0.ctxState (t.getF a 0 6) = 3 then t.putF a 9 3 5
    else (t.pass 1).startHandover sl (t.rd (A.ownXferMask sl)) (t.getF a 0 6) (t.getB a 6) none

def execOwnXferGo (sl : Nat) (v : Word) (ctx : Nat) (s : State) : Out :=
  s.onSlice sl (s.csrAccess (A.ownXfer sl) ctx fun t => t.storeXfer s sl v ctx)

/-- A write of OWN_XFER_MASK: refused while BUSY (R128). -/
def State.storeXferMask (s s0 : State) (sl : Nat) (v : Word) (ctx : Nat) : State :=
  if s0.getB (A.ownXfer sl) 8 then s.refuseWrite (A.ownXferMask sl) v ctx else s.storeReg (A.ownXferMask sl) v true ctx

/-- The drain of a handover ends in the present clk: the merge buffers and write-back registers of its banks are
empty, their pending retirements are done, and they are wiped unless KEEP is set, which takes 64 clk (R129). -/
def State.drainHandover (s : State) (sl : Nat) (h : Handover) : State :=
  let banks := bitsOf h.mask
  let t := s.each banks fun t b => (t.drainAll sl b).drainWb sl b
  let due := (t.slice sl).retire.filter fun r => h.mask.getLsbD r.1
  let t := t.retireAll sl due
  let x := t.freeDraw
  let t := if due = [] then t else x.2
  let more := if due = [] then 0 else fld x.1 0 16 % (64 * due.length) + 1
  let t := if h.keep then t else t.each banks fun t b => t.wipeBank sl b
  let h : Handover := { h with drained := true, ready := s.now + 1 + more + if h.keep then 0 else 64 }
  t.modSlice sl fun x => { x with handover := some h }

/-- The last response to an access issued before t_f is ready at the fixed latency (R130). -/
def State.handoverDrainEnd (s : State) (sl : Nat) : State :=
  match (s.slice sl).handover with
  | none => s
  | some h => if h.drained then s else (s.reach (h.tf + s.latency)).drainHandover sl h

def execHandoverDrainEnd (sl : Nat) (s : State) : Out := s.onSlice sl (s.handoverDrainEnd sl)

/-- The banks of slice `sl` that context `c` owns. -/
def State.banksOf (s : State) (sl c : Nat) : BitVec 64 :=
  maskOf ((List.range 64).filter fun b => decide (s.ownerOf sl b = c))

/-- Bank `b` gets owner `c`, and the NBANKS of both owners follow (R129). -/
def State.giveBank (s : State) (sl b c : Nat) : State :=
  let o := s.ownerOf sl b
  let t := s.putF (A.ctxE1 o) 48 13 (s.getF (A.ctxE1 o) 48 13 - 1)
  let t := t.putF (A.ctxE1 c) 48 13 (t.getF (A.ctxE1 c) 48 13 + 1)
  t.putCfg (A.own sl b) 0 6 c

/-- The bank step K5 of the kill of `c` in slice `sl`: every bank that `c` owns there is handed to context 63, at once
or after the handover in progress (R132, R347). -/
def State.killHandover (s : State) (sl c : Nat) : State :=
  if (s.slice sl).handover.isSome then s.modSlice sl fun x => { x with killHandovers := x.killHandovers ++ [c] }
  else
    let m := s.banksOf sl c
    if m = 0 then s else s.startHandover sl m 63 (s.getB (A.ctxE0 c) 39) (some c)

/-- The kill handovers that wait in a slice begin, one at a time; one that finds no bank is over at once. -/
def State.nextKillHandover (s : State) (sl : Nat) : Nat → State
  | 0 => s
  | n + 1 =>
    match (s.slice sl).killHandovers with
    | [] => s
    | c :: rest =>
      let t := s.modSlice sl fun x => { x with killHandovers := rest }
      let u := t.killHandover sl c
      if (u.slice sl).handover.isSome then u else u.nextKillHandover sl n

/-- The handover ends with `result`: BUSY clears and the fence lifts. -/
def State.endHandover (s : State) (sl : Nat) (h : Handover) (result : Nat) : State :=
  let t := s.fencing sl fun t => t.modSlice sl fun x => { x with handover := none }
  ((t.putB (A.ownXfer sl) 8 false).putF (A.ownXfer sl) 9 3 result).putF (A.ownXfer sl) 16 16 (min h.aborts 0xFFFF)

/-- The owners are switched in one clk; in the next the fence lifts, with RESULT 1, or 3 when accesses were
aborted (R129). -/
def State.handoverComplete (s : State) (sl : Nat) : State :=
  match (s.slice sl).handover with
  | none => s
  | some h =>
    if h.drained = false then s
    else
      let t := (s.reach h.ready).each (bitsOf h.mask) fun t b => t.giveBank sl b h.newOwner
      let t := (t.pass 1).endHandover sl h (if h.aborts = 0 then 1 else 3)
      t.nextKillHandover sl (t.slice sl).killHandovers.length

def execHandoverComplete (sl : Nat) (s : State) : Out := s.onSlice sl (s.handoverComplete sl)

end Sys2Proof.Machine
end

