-- ==== Sys2Proof/Machine/Fp.lean ====
section
/-! DEFINITION. The numbers of the strike units: element formats (R198, R231), rounding (R232), addition, products,
maximum and minimum (R237, R245), and the block scales of MX formats (R236). A finite value is an exact
integer times a power of two, so every operation is exact until it is narrowed. -/

namespace Sys2Proof.Machine

/-! ### Formats -/

/-- Element formats by code (R198, R231). -/
def fFp32 : Nat := 0
def fBf16 : Nat := 1
def fFp16 : Nat := 2
def fE4m3 : Nat := 3
def fE5m2 : Nat := 4
def fMxE4m3 : Nat := 5
def fMxE5m2 : Nat := 6
def fMxE3m2 : Nat := 7
def fMxE2m3 : Nat := 8
def fMxFp4 : Nat := 9
def fMxInt8 : Nat := 10
def fInt8 : Nat := 11
def fInt4 : Nat := 12
def fInt32 : Nat := 13
def fUint8 : Nat := 14

/-- The element size e in bits of a format code (R198). -/
def elemBits (f : Nat) : Nat :=
  if f = 0 ∨ f = 13 then 32 else if f = 1 ∨ f = 2 then 16 else if f = 7 ∨ f = 8 then 6
  else if f = 9 ∨ f = 12 then 4 else 8

/-- A format with block scales. -/
def isMx (f : Nat) : Bool := decide (5 ≤ f) && decide (f ≤ 10)

/-- An integer format, MXINT8 apart. -/
def isInt (f : Nat) : Bool := decide (11 ≤ f) && decide (f ≤ 14)

/-- A floating format: exponent bits, mantissa bits, bias, the largest finite code, infinities. -/
structure Flt where
  eb : Nat
  mb : Nat
  bias : Nat
  top : Nat
  inf : Bool
  deriving DecidableEq, Repr

/-- The floating format of a code (R231). -/
def fltOf (f : Nat) : Flt :=
  if f = 0 then { eb := 8, mb := 23, bias := 127, top := 0x7F7FFFFF, inf := true }
  else if f = 1 then { eb := 8, mb := 7, bias := 127, top := 0x7F7F, inf := true }
  else if f = 2 then { eb := 5, mb := 10, bias := 15, top := 0x7BFF, inf := true }
  else if f = 3 ∨ f = 5 then { eb := 4, mb := 3, bias := 7, top := 0x7E, inf := false }
  else if f = 4 ∨ f = 6 then { eb := 5, mb := 2, bias := 15, top := 0x7B, inf := true }
  else if f = 7 then { eb := 3, mb := 2, bias := 3, top := 0x1F, inf := false }
  else if f = 8 then { eb := 2, mb := 3, bias := 1, top := 0x1F, inf := false }
  else { eb := 2, mb := 1, bias := 1, top := 0x7, inf := false }

/-! ### Values -/

/-- A value: NaN and infinity with their signs, or a finite `(−1)^neg · m · 2^e`. -/
inductive Num where
  | nan (neg : Bool)
  | inf (neg : Bool)
  | fin (neg : Bool) (m : Nat) (e : Int)
  deriving DecidableEq, Repr

/-- +0. -/
def Num.zero : Num := .fin false 0 0

/-- The value is a NaN. -/
def Num.isNan : Num → Bool
  | .nan _ => true
  | _ => false

/-- The value is infinite. -/
def Num.isInf : Num → Bool
  | .inf _ => true
  | _ => false

/-- The sign. -/
def Num.neg : Num → Bool
  | .nan s => s
  | .inf s => s
  | .fin s _ _ => s

/-- The integer `i` as a value. -/
def Num.ofInt (i : Int) : Num := .fin (decide (i < 0)) i.natAbs 0

/-- The value times 2^k. -/
def Num.scale (k : Int) : Num → Num
  | .fin s m e => .fin s m (e + k)
  | x => x

/-- The value of a floating element. The formats without infinities hold E4M3's NaN in their highest code; E5M2 and
the IEEE formats hold infinities and NaNs under the highest exponent (R231). -/
def decodeFlt (f : Nat) (bits : Nat) : Num :=
  let p := fltOf f
  let s := decide (bits / 2 ^ (p.eb + p.mb) % 2 = 1)
  let e := bits / 2 ^ p.mb % 2 ^ p.eb
  let m := bits % 2 ^ p.mb
  if p.inf ∧ e = 2 ^ p.eb - 1 then (if m = 0 then .inf s else .nan s)
  else if (f = 3 ∨ f = 5) ∧ e = 15 ∧ m = 7 then .nan s
  else if e = 0 then .fin s m (1 - (p.bias : Int) - p.mb)
  else .fin s (2 ^ p.mb + m) ((e : Int) - p.bias - p.mb)

/-- The value of an element of format `f`, its block scale left out (R231). -/
def decodeElem (f : Nat) (bits : Nat) : Num :=
  if f = 10 then (Num.ofInt (sext 8 bits)).scale (-6)
  else if f = 11 then Num.ofInt (sext 8 bits)
  else if f = 12 then Num.ofInt (sext 4 bits)
  else if f = 13 then Num.ofInt (sext 32 bits)
  else if f = 14 then Num.ofInt (bits % 256 : Nat)
  else decodeFlt f bits

/-- An element of an MX block with scale X: NaN for X = 0xFF, else the element times 2^(X − 127) (R231). -/
def decodeMx (f x bits : Nat) : Num :=
  if x = 0xFF then .nan (Config.nanSign 3 f bits) else (decodeElem f bits).scale ((x : Int) - 127)

/-! ### Rounding -/

/-- Rounding of a magnitude `m · 2^e` to a multiple of 2^q: RNE 0, RTZ 1, SR 2 with random value `r` (R232). -/
def roundMag (rnd r m : Nat) (e q : Int) : Nat :=
  if q ≤ e then m * 2 ^ (e - q).toNat
  else
    let d := (q - e).toNat
    let keep := m / 2 ^ d
    let rest := m % 2 ^ d
    if rnd = 1 then keep
    else if rnd = 2 then (if 2 ^ 16 ≤ rest * 2 ^ 16 / 2 ^ d + r then keep + 1 else keep)
    else if 2 ^ d < 2 * rest ∨ (2 * rest = 2 ^ d ∧ keep % 2 = 1) then keep + 1
    else keep

/-- ⌊log₂⌋ of `m · 2^e`, for m > 0. -/
def floorLog (m : Nat) (e : Int) : Int := (Nat.log2 m : Int) + e

/-- A narrowed result: its bits, whether it overflowed, whether it is a NaN (R231). -/
structure Narrow where
  bits : Nat
  sat : Bool
  nan : Bool
  deriving DecidableEq, Repr

/-- The canonical NaN of a floating format, without its sign (R231). -/
def nanCode (f : Nat) : Nat :=
  if f = 0 then 0x7FC00000 else if f = 1 then 0x7FC0 else if f = 2 then 0x7E00
  else if f = 4 ∨ f = 6 then 0x7E else 0x7F

/-- Narrows to a floating format (R231, R232). -/
def narrowFlt (f rnd r : Nat) (v : Num) : Narrow :=
  let p := fltOf f
  let sign := fun (s : Bool) => if s then 2 ^ (p.eb + p.mb) else 0
  let ieee := decide (f ≤ 2)
  match v with
  | .nan s => { bits := sign s + nanCode f, sat := false, nan := true }
  | .inf s =>
    if p.inf then { bits := sign s + (2 ^ p.eb - 1) * 2 ^ p.mb, sat := false, nan := false }
    else { bits := sign (Config.nanSign 2 f s.toNat) + nanCode f, sat := false, nan := true }
  | .fin s m e =>
    if m = 0 then { bits := sign s, sat := false, nan := false }
    else
      let low : Int := 1 - (p.bias : Int)
      let q := max (floorLog m e) low - p.mb
      let code := (q - (low - p.mb)).toNat * 2 ^ p.mb + roundMag rnd r m e q
      if code ≤ p.top then { bits := sign s + code, sat := false, nan := false }
      else if ieee ∧ rnd ≠ 1 then { bits := sign s + (2 ^ p.eb - 1) * 2 ^ p.mb, sat := true, nan := false }
      else { bits := sign s + p.top, sat := true, nan := false }

/-- The range of an integer format (R231). -/
def intRange (f : Nat) : Int × Int :=
  if f = 13 then (-(2 ^ 31), 2 ^ 31 - 1) else if f = 11 then (-128, 127) else if f = 12 then (-8, 7)
  else if f = 14 then (0, 255) else (-127, 127)

/-- Narrows to an integer format, or to MXINT8, whose elements are multiples of 2⁻⁶ (R231, R232). -/
def narrowInt (f rnd r : Nat) (v : Num) : Narrow :=
  let lo := (intRange f).1
  let hi := (intRange f).2
  let w := elemBits f
  match v with
  | .nan _ => { bits := 0, sat := false, nan := true }
  | .inf s => { bits := wrapTo w (if s then lo else hi), sat := true, nan := false }
  | .fin s m e =>
    let k := roundMag rnd r m e (if f = 10 then -6 else 0)
    let i : Int := if s then -(k : Int) else k
    if i < lo then { bits := wrapTo w lo, sat := true, nan := false }
    else if hi < i then { bits := wrapTo w hi, sat := true, nan := false }
    else { bits := wrapTo w i, sat := false, nan := false }

/-- Narrows a value to an element of format `f` (R231, R232). -/
def narrow (f rnd r : Nat) (v : Num) : Narrow :=
  if f = 10 ∨ isInt f then narrowInt f rnd r v else narrowFlt f rnd r v

/-- An FP32 result rounded to nearest even, as a value. -/
def toFp32 (v : Num) : Num := decodeFlt 0 (narrowFlt 0 0 0 v).bits

/-! ### Arithmetic -/

/-- A finite value as an integer multiple of 2^q, for q at or below its exponent. -/
def asInt (s : Bool) (m : Nat) (e q : Int) : Int :=
  let k := m * 2 ^ (e - q).toNat
  if s then -(k : Int) else k

/-- Exact addition; a zero sum of opposite values is +0. A NaN operand gives NaN with the sign of the first; the sign of a NaN
that no operand has made is free (R231). -/
def Num.add (a b : Num) : Num :=
  match a, b with
  | .nan s, _ => .nan s
  | _, .nan s => .nan s
  | .inf s, .inf t => if s = t then .inf s else .nan (Config.nanSign 0 s.toNat t.toNat)
  | .inf s, _ => .inf s
  | _, .inf s => .inf s
  | .fin s m e, .fin t n f =>
    if m = 0 ∧ n = 0 then .fin (s && t) 0 0
    else
      let q := min e f
      let i := asInt s m e q + asInt t n f q
      .fin (decide (i < 0)) i.natAbs q

/-- Exact product; infinity times zero is NaN. -/
def Num.mul (a b : Num) : Num :=
  match a, b with
  | .nan s, _ => .nan s
  | _, .nan s => .nan s
  | .inf s, .inf t => .inf (xor s t)
  | .inf s, .fin t n _ => if n = 0 then .nan (Config.nanSign 1 (2 + s.toNat) t.toNat) else .inf (xor s t)
  | .fin s m _, .inf t => if m = 0 then .nan (Config.nanSign 1 s.toNat (2 + t.toNat)) else .inf (xor s t)
  | .fin s m e, .fin t n f => .fin (xor s t) (m * n) (e + f)

/-- `a` is less than `b`, NaN apart, with −0 below +0. -/
def Num.lt (a b : Num) : Bool :=
  match a, b with
  | .nan _, _ => false
  | _, .nan _ => false
  | .inf s, .inf t => s && !t
  | .inf s, _ => s
  | _, .inf t => !t
  | .fin s m e, .fin t n f =>
    let q := min e f
    let i := asInt s m e q
    let j := asInt t n f q
    if i = j then s && !t else decide (i < j)

/-- IEEE 754 maximum (R237). -/
def Num.max (a b : Num) : Num :=
  if a.isNan then a else if b.isNan then b else if a.lt b then b else a

/-- IEEE 754 minimum (R237). -/
def Num.min (a b : Num) : Num :=
  if a.isNan then a else if b.isNan then b else if b.lt a then b else a

/-- The sum of a list, exact. -/
def sumExact (l : List Num) : Num := match l with
  | [] => .zero
  | a :: t => t.foldl Num.add a

/-- The sum of a list in FP32, each addition rounded to nearest even, in order. -/
def sumFp32 (l : List Num) : Num := match l with
  | [] => .zero
  | a :: t => t.foldl (fun s x => toFp32 (s.add x)) a

/-! ### MX blocks (R236) -/

/-- emax of an MX format. -/
def mxEmax (f : Nat) : Int := if f = 5 then 8 else if f = 6 then 15 else if f = 7 then 4 else if f = 10 then 0 else 2

/-- ⌊log₂⌋ of the largest magnitude of a list of finite values; none when all are zero. -/
def amaxLog (l : List Num) : Option Int :=
  l.foldl (fun (r : Option Int) v => match v with
    | .fin _ m e => if m = 0 then r else
      match r with
      | none => some (floorLog m e)
      | some k => some (Max.max k (floorLog m e))
    | _ => r) none

/-- The scale X of a block of paired values. -/
def mxScale (f : Nat) (vs : List Num) : Nat :=
  if vs.any fun v => v.isNan || v.isInf then 0xFF
  else match amaxLog vs with
    | none => 0
    | some k => ((Max.max (-127) (Min.min 127 (k - mxEmax f))) + 127).toNat

/-- An element of a block of scale X: zero in a block of scale 0xFF, where it is a NaN result, and in one of zeros. -/
def mxElem (f x rnd r : Nat) (zeros : Bool) (v : Num) : Narrow :=
  if zeros then { bits := 0, sat := false, nan := false }
  else if x = 0xFF then { bits := 0, sat := false, nan := true }
  else narrow f rnd r (v.scale (127 - (x : Int)))

end Sys2Proof.Machine
end

