-- ==== Sys2Proof/Machine/Walk.lean ====
section
/-! DEFINITION. Block descriptors (R197, R198), memory positions and padding (R199 to R201), the checks on a block's
descriptors (R202), the walk (R203, R204), and the data that a walk gathers for a destination line. -/

namespace Sys2Proof.Machine

/-! ### Descriptors -/

/-- A block descriptor (R197). The lists hold dimensions 0 to 3; a dimension not in use has EXT 1, VALID 1, no
padding and stride 0. -/
structure Desc where
  hr : Nat
  host : Bool
  fmt : Nat
  ndim : Nat
  offset : Nat
  ext : List Nat
  valid : List Nat
  padb : List Nat
  pada : List Nat
  stride : List Int
  haddr : Nat
  deriving DecidableEq, Repr

/-- Word `n` of the descriptor for dimension `d` ≥ 1, with the value it takes when not in use. -/
def dimField (l : Line) (nd d lo n dflt : Nat) : Nat := if d < nd then fld (lineWord l (d + 1)) lo n else dflt

/-- The descriptor held in a line (R197). -/
def Desc.ofLine (l : Line) : Desc :=
  let w0 := lineWord l 0
  let w1 := lineWord l 1
  let nd := fld w0 8 2 + 1
  { hr := fld w0 0 3
    host := flag w0 3
    fmt := fld w0 4 4
    ndim := nd
    offset := fld w0 32 25
    ext := fld w1 0 24 :: [1, 2, 3].map fun d => dimField l nd d 0 16 1
    valid := fld w1 24 24 :: [1, 2, 3].map fun d => dimField l nd d 16 16 1
    padb := fld w1 48 8 :: [1, 2, 3].map fun d => dimField l nd d 32 4 0
    pada := fld w1 56 8 :: [1, 2, 3].map fun d => dimField l nd d 36 4 0
    stride := 0 :: [1, 2, 3].map fun d => sext 24 (dimField l nd d 40 24 0)
    haddr := (lineWord l 5).toNat }

/-- An operand of a block: a descriptor with the handle and the offset of its H register, the format code in force
and the element size. `remote` is the destination of REMOTE and TOLL, which names no handle. -/
structure Operand where
  d : Desc
  handle : Nat
  off : Nat
  remote : Bool
  fmt : Nat
  e : Nat
  deriving DecidableEq, Repr

namespace Operand

def ext (o : Operand) (i : Nat) : Nat := o.d.ext.getD i 1
def valid (o : Operand) (i : Nat) : Nat := o.d.valid.getD i 1
def padb (o : Operand) (i : Nat) : Nat := o.d.padb.getD i 0
def pada (o : Operand) (i : Nat) : Nat := o.d.pada.getD i 0
def stride (o : Operand) (i : Nat) : Int := o.d.stride.getD i 0

/-- Logical length of dimension `i`: padding before, stored, padding after. -/
def len (o : Operand) (i : Nat) : Nat := o.padb i + o.ext i + o.pada i

/-- Positions of the walk (R203). -/
def positions (o : Operand) : Nat := o.len 0 * o.len 1 * o.len 2 * o.len 3

/-- Lines of a row (R197). -/
def rowLines (o : Operand) : Nat := (o.ext 0 * o.e + 511) / 512

/-- Walk lines (R204): the lines of every stored row. -/
def walkLines (o : Operand) : Nat := o.rowLines * o.ext 1 * o.ext 2 * o.ext 3

/-- Memory indices m1, m2, m3 and the line within the row of walk line `n`. -/
def indices (o : Operand) (n : Nat) : Nat × Nat × Nat × Nat :=
  let row := n / o.rowLines
  (row % o.ext 1, row / o.ext 1 % o.ext 2, row / o.ext 1 / o.ext 2, n % o.rowLines)

/-- The line offset of walk line `n` (R199), before it is placed: signed, without wrapping. -/
def lineOff (o : Operand) (n : Nat) : Int :=
  let i := o.indices n
  (o.off : Int) + o.d.offset + i.1 * o.stride 1 + i.2.1 * o.stride 2 + i.2.2.1 * o.stride 3 + i.2.2.2

/-- The line holds an element whose memory indices are all valid (R200, R201). -/
def used (o : Operand) (n : Nat) : Bool :=
  let i := o.indices n
  decide (i.1 < o.valid 1) && decide (i.2.1 < o.valid 2) && decide (i.2.2.1 < o.valid 3) &&
    decide (512 * i.2.2.2 < o.valid 0 * o.e)

/-- The position of the element with memory indices (m0, m1, m2, m3). -/
def posOf (o : Operand) (m0 m1 m2 m3 : Nat) : Nat :=
  (m0 + o.padb 0) + o.len 0 * ((m1 + o.padb 1) + o.len 1 * ((m2 + o.padb 2) + o.len 2 * (m3 + o.padb 3)))

/-- The first element of a row that has a bit in line `r` of the row. -/
def firstElem (o : Operand) (r : Nat) : Nat := 512 * r / o.e

/-- The valid elements with a bit in walk line `n`: memory index m0 and position. -/
def elems (o : Operand) (n : Nat) : List (Nat × Nat) :=
  if o.used n = false then []
  else
    let i := o.indices n
    let lo := o.firstElem i.2.2.2
    let hi := min (o.valid 0) ((512 * i.2.2.2 + 511) / o.e + 1)
    (List.range (hi - lo)).map fun t => (lo + t, o.posOf (lo + t) i.1 i.2.1 i.2.2.1)

/-- The first position of walk line `n`, valid or not. -/
def linePos (o : Operand) (n : Nat) : Nat :=
  let i := o.indices n
  o.posOf (o.firstElem i.2.2.2) i.1 i.2.1 i.2.2.1

/-- The place of position `k`: memory index m0 and the row, counted in the walk; none for padding and for indices at
or above VALID (R200). -/
def placeOf (o : Operand) (k : Nat) : Option (Nat × Nat) :=
  let j0 := k % o.len 0
  let j1 := k / o.len 0 % o.len 1
  let j2 := k / o.len 0 / o.len 1 % o.len 2
  let j3 := k / o.len 0 / o.len 1 / o.len 2
  if o.padb 0 ≤ j0 ∧ j0 - o.padb 0 < o.valid 0 ∧ o.padb 1 ≤ j1 ∧ j1 - o.padb 1 < o.valid 1 ∧
      o.padb 2 ≤ j2 ∧ j2 - o.padb 2 < o.valid 2 ∧ o.padb 3 ≤ j3 ∧ j3 - o.padb 3 < o.valid 3 then
    some (j0 - o.padb 0, (j1 - o.padb 1) + o.ext 1 * ((j2 - o.padb 2) + o.ext 2 * (j3 - o.padb 3)))
  else none

/-- The walk lines that hold the bits of the element at position `k`. -/
def linesOf (o : Operand) (k : Nat) : List Nat :=
  match o.placeOf k with
  | none => []
  | some (m0, row) =>
    let a := m0 * o.e / 512
    let b := (m0 * o.e + o.e - 1) / 512
    if a = b then [row * o.rowLines + a] else [row * o.rowLines + a, row * o.rowLines + b]

/-- The bytes of walk line `n` that belong to valid elements (R201). -/
def byteEns (o : Operand) (n : Nat) : ByteEn :=
  let r := (o.indices n).2.2.2
  let total := o.valid 0 * o.e / 8
  let m := min 64 (total - 64 * r)
  if o.used n then BitVec.ofNat 64 (2 ^ m - 1) else 0

/-- The first walk line from `n` on that is used; the number of walk lines where there is none. -/
def nextUsed (o : Operand) (n : Nat) : Nat :=
  match (List.range (o.walkLines - n)).find? fun i => o.used (n + i) with
  | some i => n + i
  | none => o.walkLines

/-- The first walk line that holds a valid element at position `k` or behind it. -/
def startAt (o : Operand) (k : Nat) : Nat :=
  match (List.range o.walkLines).find? fun n => (o.elems n).any fun x => decide (k ≤ x.2) with
  | some n => n
  | none => o.walkLines

end Operand

/-! ### Gathering elements -/

/-- The lines that a block has read: a walk line's data and its poison marks. -/
abbrev Lines := Nat → Option (Line × WordEn)

/-- The words that bits `b` to `b + e − 1` of a line lie in, marked or not. -/
def bitsMarked (p : WordEn) (b e : Nat) : Bool :=
  (List.range 8).any fun w => p.getLsbD w && decide (b < 64 * w + 64) && decide (64 * w < b + e)

/-- The element at position `k` of an operand, from lines read, and whether a bit of it is poisoned: zero for padding
and for positions that are not valid (R200, R411). -/
def elemAt (o : Operand) (ls : Lines) (k : Nat) : Nat × Bool :=
  match o.placeOf k with
  | none => (0, false)
  | some (m0, row) =>
    let b := m0 * o.e
    let n := row * o.rowLines + b / 512
    let s := b % 512
    let l := (ls n).getD (0, 0)
    if s + o.e ≤ 512 then (l.1.toNat / 2 ^ s % 2 ^ o.e, bitsMarked l.2 s o.e)
    else
      let h := (ls (n + 1)).getD (0, 0)
      let lowBits := 512 - s
      (l.1.toNat / 2 ^ s + h.1.toNat % 2 ^ (o.e - lowBits) * 2 ^ lowBits,
        bitsMarked l.2 s lowBits || bitsMarked h.2 0 (o.e - lowBits))

/-- A destination line under construction: its data and its poison marks. -/
abbrev OutLine := Line × WordEn

/-- Lays element `m0`, of value `v`, into line `r` of its row; the words that receive a bit of a poisoned element are
marked (R411). -/
def layElem (o : Operand) (r : Nat) (acc : OutLine) (m0 v : Nat) (psn : Bool) : OutLine :=
  let b := m0 * o.e
  let data : Line :=
    if 512 * r ≤ b then BitVec.ofNat 512 (v * 2 ^ (b - 512 * r)) else BitVec.ofNat 512 (v / 2 ^ (512 * r - b))
  let lo := b - 512 * r
  let hi := min 512 (b + o.e - 512 * r)
  let marks : WordEn := (List.range 8).foldl (fun (m : WordEn) w =>
    if psn ∧ lo < 64 * w + 64 ∧ 64 * w < hi then m ||| (1#8 <<< w) else m) 0
  (acc.1 ||| data, acc.2 ||| marks)

/-- Bit `t` of the element at position `k` of an operand comes from a marked word. -/
def bitMarked (o : Operand) (ls : Lines) (k t : Nat) : Bool :=
  match o.placeOf k with
  | none => false
  | some (m0, row) =>
    let b := m0 * o.e + t
    ((ls (row * o.rowLines + b / 512)).getD (0, 0)).2.getLsbD (b % 512 / 64)

/-- The words of line `r` of its row that receive a marked bit of element `m0`, which takes the bits of source position `k`
(R411). -/
def movedMarks (dst src : Operand) (ls : Lines) (r m0 k : Nat) : WordEn :=
  (List.range dst.e).foldl (fun (m : WordEn) t =>
    let b := m0 * dst.e + t
    if b / 512 = r ∧ bitMarked src ls k t then m ||| (1#8 <<< (b % 512 / 64)) else m) 0

/-- Destination walk line `n` of a block that moves bits unchanged: each element takes the paired source element
(R203), and a word is marked where a bit that it receives is (R411). -/
def moveLine (dst src : Operand) (ls : Lines) (n : Nat) : OutLine :=
  let r := (dst.indices n).2.2.2
  (dst.elems n).foldl (fun a x =>
    let v := elemAt src ls x.2
    let l := layElem dst r a x.1 (v.1 % 2 ^ dst.e) false
    (l.1, if v.2 then l.2 ||| movedMarks dst src ls r x.1 x.2 else l.2)) (0, 0)

/-- The source walk lines that destination line `n` needs. -/
def neededLines (dst src : Operand) (n : Nat) : List Nat :=
  (dst.elems n).foldl (fun l x => (src.linesOf x.2).foldl (fun l m => if l.contains m then l else l ++ [m]) l) []

/-! ### Operands of a block -/

/-- Bits of an instruction (R172 to R181). -/
def opOf (w : Word) : Nat := fld w 56 8

/-- Block instructions (R181). -/
def isBlock (op : Nat) : Bool := [0x20, 0x21, 0x22, 0x23, 0x30, 0x31, 0x32, 0x33, 0x34, 0x35, 0x36, 0x38].contains op

/-- Strike instructions: FILL to WIPE (R181). -/
def isStrike (op : Nat) : Bool := decide (0x30 ≤ op) && decide (op ≤ 0x36)

/-- Lead reads the sources of MOVE, MCAST, REMOTE and TOLL (R181). -/
def leadReads (op : Nat) : Bool := decide (0x20 ≤ op) && decide (op ≤ 0x23)

/-- REMOTE and TOLL (R182). -/
def isOut (op : Nat) : Bool := decide (op = 0x22) || decide (op = 0x23)

/-- Descriptors per block (R181). -/
def descsPer (op : Nat) : Nat := if op = 0x30 ∨ op = 0x36 then 1 else if op = 0x34 then 4 else 2

/-- Which descriptor of a block is its position descriptor (R212, R249). -/
def positionIx (op : Nat) : Nat :=
  if op = 0x30 ∨ op = 0x36 ∨ op = 0x38 then 0 else if op = 0x34 then 3 else 1

/-- COUNT of a block instruction. -/
def Inst.count (i : Inst) : Nat := fld i.word 16 16

/-- OPT of a block instruction. -/
def Inst.opt (i : Inst) (lo n : Nat) : Nat := fld i.word lo n

/-- The opcode. -/
def Inst.op (i : Inst) : Nat := opOf i.word

/-- S register `n` at decode. -/
def Inst.s (i : Inst) (n : Nat) : Nat := i.sr.getD n 0

/-- H register `n` at decode: handle and offset. -/
def Inst.hreg (i : Inst) (n : Nat) : Nat × Nat := i.h.getD n (0, 0)

/-- The line offset of descriptor `t` of block `b` in the block list (R180, R196). -/
def Inst.descLine (i : Inst) (b t : Nat) : Nat :=
  let base := (fld i.word 32 16 + if flag i.word 52 then i.s (fld i.word 48 4) else 0) % 2 ^ 16
  (i.hreg (fld i.word 53 3)).2 + base + b * descsPer i.op + t

/-- The handle of the block list. -/
def Inst.listHandle (i : Inst) : Nat := (i.hreg (fld i.word 53 3)).1

/-- The descriptors of block `b`, where the block has begun. -/
def Inst.blockDescs (i : Inst) (b : Nat) : Option (List Line) :=
  match i.descs.find? fun d => d.1 = b with
  | some d => some d.2
  | none => none

/-- Operand `t` of a block, resolved at slice `sl` (R197, R198). -/
def State.operand (s : State) (sl : Nat) (i : Inst) (ds : List Line) (t : Nat) : Operand :=
  let d := Desc.ofLine (ds.getD t 0)
  let h := i.hreg d.hr
  let remote := isOut i.op && decide (t = 1)
  let e := s.handle sl h.1
  let fmt := if d.fmt = 15 then (if remote ∨ d.host then 15 else e.fmt) else d.fmt
  let scale := decide (e.type = tyScale) && !d.host && !remote
  { d := d, handle := h.1, off := if remote then 0 else h.2, remote := remote, fmt := fmt,
    e := if scale then 8 else elemBits fmt }

/-! ### Checks (R202, R227) -/

/-- EXT 0, or VALID above EXT, in a dimension in use. -/
def badShapeOf (o : Operand) : Bool :=
  (List.range o.d.ndim).any fun i => decide (o.ext i = 0) || decide (o.ext i < o.valid i)

/-- FMT is not the format of the handle named. -/
def State.badFmt (s : State) (sl : Nat) (o : Operand) : Bool :=
  let v := s.view sl o.handle
  let skip := decide (v.e.type = 0) || (v.isAlias && decide (v.target.type ≠ tyPlain) && decide (v.target.type ≠ tyScale))
  if o.remote ∨ o.d.host then decide (o.d.fmt = 15)
  else !skip && decide (o.d.fmt ≠ 15) && decide (o.d.fmt ≠ v.e.fmt)

/-- HOST is permitted for operand `t` of opcode `op` (R206). -/
def hostMay (op t : Nat) : Bool :=
  if t = 0 then decide (0x20 ≤ op) && decide (op ≤ 0x23) else decide (op = 0x20) && decide (t = 1)

/-- Operand `t` of opcode `op` is written under R201. -/
def isWritten (op t : Nat) : Bool :=
  if op = 0x30 then decide (t = 0) else if op = 0x36 ∨ op = 0x38 then false else if op = 0x34 then decide (t = 3) else decide (t = 1)

/-- Operand `t` of opcode `op` is a range of whole lines, whose FMT is not compared (R204). -/
def wholeLines (op t : Nat) : Bool := (decide (op = 0x36) || decide (op = 0x38)) && decide (t = 0)

/-- The instruction pairs its two descriptors (R203). -/
def paired (op : Nat) : Bool :=
  leadReads op || decide (op = 0x31) || decide (op = 0x32) || decide (op = 0x33)

/-- The incoming formats that an accumulator accepts (R237). -/
def accinFmt (acc incoming : Nat) : Bool :=
  if acc = fFp32 then [fFp32, fBf16, fFp16, fE4m3, fE5m2].contains incoming
  else if acc = fBf16 then [fBf16, fE4m3, fE5m2].contains incoming
  else decide (acc = fInt32) && [fInt32, fInt8, fUint8, fInt4].contains incoming

/-- The formats of a REDUCE (R248). -/
def reduceFmt (src dst : Nat) : Bool :=
  if [fFp32, fBf16, fFp16, fE4m3, fE5m2].contains src then [fFp32, fBf16, fE4m3, fE5m2].contains dst
  else [fInt32, fInt8, fUint8].contains src && decide (dst = fInt32)

/-- An MX operand has its scale plane under the next H register, and whole blocks in every row (R234). -/
def State.badScale (s : State) (sl : Nat) (i : Inst) (o : Operand) : Bool :=
  let e := s.handle sl (i.hreg ((o.d.hr + 1) % 8)).1
  isMx o.fmt && (decide (e.type ≠ tyScale) || decide (e.link ≠ o.handle) || decide (o.len 0 % 32 ≠ 0))

/-- The format and shape rules of GEMV (R243). -/
def State.badGemv (s : State) (sl : Nat) (el sc ve out : Operand) : Bool :=
  let k := ve.positions
  let m := out.positions
  let sh := s.handle sl sc.handle
  decide (el.padb 0 ≠ 0) || decide (el.pada 0 ≠ 0) || decide (el.valid 0 ≠ el.ext 0) || decide (el.ext 0 * el.e % 512 ≠ 0)
    || decide (k % el.ext 0 ≠ 0) || decide (el.positions ≠ k * m)
    || !([fMxFp4, fInt4, fE4m3, fE5m2, fMxE4m3, fMxE5m2, fMxInt8, fInt8, fBf16].contains el.fmt)
    || (isMx el.fmt && (decide (sc.positions ≠ k * m / 32) || decide (sh.type ≠ tyScale) || decide (sh.link ≠ el.handle)))
    || decide (ve.d.ndim ≠ 1) || decide ((s.handle sl ve.handle).type ≠ tyVector)
    || !([fE4m3, fBf16].contains ve.fmt)
    || !([fFp32, fBf16, fE4m3, fE5m2].contains out.fmt)

/-- The formats of a strike operation (R227, R234, R235, R237, R243, R248). -/
def State.badStrike (s : State) (sl : Nat) (i : Inst) (os : List Operand) : Bool :=
  match os with
  | [a, b] =>
    if i.op = 0x31 then decide (a.fmt ≠ b.fmt)
    else if i.op = 0x32 then !(accinFmt b.fmt a.fmt)
    else if i.op = 0x33 then s.badScale sl i a || s.badScale sl i b
    else if i.op = 0x35 then !(reduceFmt a.fmt b.fmt) || decide (b.positions = 0) || decide (a.positions % b.positions ≠ 0)
    else false
  | [a, b, c, d] => s.badGemv sl a b c d
  | _ => false

/-- A block's descriptors are refused with FORMAT (R202, R227). The second descriptor of a GEMV without a scale plane
is not used. -/
def State.badBlock (s : State) (sl : Nat) (i : Inst) (os : List Operand) : Bool :=
  let noScale := decide (i.op = 0x34) && !(isMx ((os.map Operand.fmt).getD 0 0))
  let each := os.zipIdx.any fun p =>
    if noScale && decide (p.2 = 1) then false
    else
      badShapeOf p.1 || (!(wholeLines i.op p.2) && s.badFmt sl p.1)
        || (p.1.d.host && (!(hostMay i.op p.2) || decide (p.1.d.haddr % 64 ≠ 0)))
        || (isWritten i.op p.2 && decide (p.1.valid 0 * p.1.e % 8 ≠ 0))
  each || (match os with
    | [a, b] => (paired i.op && decide (a.positions ≠ b.positions)) || (decide (i.op = 0x20) && decide (a.fmt ≠ b.fmt))
    | _ => false)
    || s.badStrike sl i os

/-- The operands of block `b`, where it has begun. -/
def State.blockOps (s : State) (sl : Nat) (i : Inst) (b : Nat) : Option (List Operand) :=
  match i.blockDescs b with
  | some ds => some ((List.range (descsPer i.op)).map fun t => s.operand sl i ds t)
  | none => none

/-- An operand that stands for none. -/
def Operand.none : Operand :=
  { d := Desc.ofLine 0, handle := 0, off := 0, remote := false, fmt := 0, e := 32 }

/-- The lines of a block that an instruction holds. -/
def Inst.lines (i : Inst) (b : Nat) : Lines := fun n =>
  match i.buf.find? fun l => l.blk = b ∧ l.n = n with
  | some l => some (l.data, l.psn)
  | none => none

end Sys2Proof.Machine
end

