-- ==== Sys2Proof/Machine/Stream.lean ====
section
/-! DEFINITION. The stream engine (R161 to R168, R184 to R187): what a slot fetches, reads and writes next, the
accesses that it forms from its walks (R205, R206), and how a fault stops it. -/

namespace Sys2Proof.Machine

/-! ### Slots and instructions -/

/-- The program handle of a slot. -/
def State.prog (s : State) (sl j : Nat) : Nat := s.getF (A.seSlotCtl sl j) 20 12

/-- A fetched line of a slot. -/
def Slot.line (x : Slot) (n : Nat) : Option Line :=
  match x.fetched.find? fun f => f.1 = n with
  | some f => some f.2
  | none => none

/-- The instruction at PC, where it is in the fetch buffer (R167). -/
def State.instrAt (s : State) (sl j : Nat) : Option Word :=
  match (s.slot sl j).line (s.pc sl j / 8) with
  | some l => some (lineWord l (s.pc sl j % 8))
  | none => none

/-- S register `n` of a slot. -/
def State.sreg (s : State) (sl j n : Nat) : Nat := s.getF (A.seSreg sl j (n / 2)) (32 * (n % 2)) 32

/-- H register `n` of a slot: handle and offset. -/
def State.hreg (s : State) (sl j n : Nat) : Nat × Nat := (s.getF (A.seHreg sl j n) 0 12, s.getF (A.seHreg sl j n) 16 25)

/-- Command records held in a slice (R162): those of a slot being stopped have been released. -/
def State.recordsUsed (s : State) (sl : Nat) : Nat :=
  (List.range 16).foldl (fun n j => if s.slotState sl j = 5 then n else n + (s.slot sl j).insts.length) 0

/-- Data entries that an access holds (R162, R206). -/
def SeAcc.entries (a : SeAcc) : Nat := (a.ns.length + 7) / 8

/-- The lines that an instruction keeps for its later writes in data entries: not those of the strike path, which
lie in the staging buffer (R229). -/
def Inst.kept (i : Inst) : List SrcLine := if leadReads i.op then i.buf else []

/-- Distinct data entries that hold lines. -/
def entriesOf (l : List SrcLine) : Nat :=
  (l.foldl (fun (seen : List Nat) x => if seen.contains x.entry then seen else x.entry :: seen) []).length

/-- Data entries that a slot holds (R162): those of reads not yet answered, whether or not their data is still wanted, and those
of lines kept. -/
def Slot.entries (x : Slot) : Nat :=
  let checked := fun (a : SeAcc) => match a.resp with
    | some r => decide (r.code = 7)
    | none => false
  let reads := (x.accs.filter fun a => a.takes ∧ a.issued ∧ !(checked a)).foldl (fun n a => n + a.entries) 0
  let kept := x.insts.foldl (fun n i => n + entriesOf i.kept) 0
  let rest := match x.residue with
    | some r => match r.inst with
      | some i => entriesOf i.kept
      | none => 0
    | none => 0
  reads + kept + rest

/-- Data entries held in a slice by slots of class `c`. -/
def State.entriesBy (s : State) (sl c : Nat) : Nat :=
  (List.range 16).foldl (fun n j => if s.slotClass sl j = c then n + (s.slot sl j).entries else n) 0

/-- Data entries held in a slice. -/
def State.entriesUsed (s : State) (sl : Nat) : Nat := (List.range 16).foldl (fun n j => n + (s.slot sl j).entries) 0

/-- A request of class `c` may take `n` units of a resource of `total` units (R151): its class holds fewer than its
reservation, or the free units exceed the reservations that other classes have not yet used. -/
def mayTake (total : Nat) (used reserved : Nat → Nat) (c n : Nat) : Bool :=
  let all := (List.range 8).foldl (fun m k => m + used k) 0
  let owed := (List.range 8).foldl (fun m k => if k = c then m else m + (reserved k - used k)) 0
  decide (all + n ≤ total) && (decide (used c < reserved c) || decide (owed + n ≤ total - all))

/-- Lead finds `n` data entries free for a slot of class `c` (R151, R162). -/
def State.entryFree (s : State) (sl c n : Nat) : Bool :=
  mayTake 128 (s.entriesBy sl) (fun k => s.share k 16 8) c n

/-! ### Where a walk line lies -/

/-- The place of a walk line, or the code that the checks of R119 give it: memory, with the line offset; the vector buffer; host memory. -/
inductive Spot where
  | bad (code : Nat)
  | mem (g off : Nat)
  | vec (line : Nat)
  | host (addr : Nat)
  deriving DecidableEq, Repr

/-- The spot of line offset `off` of handle `h`, accessed by context `ctx` at slice `sl` (R119, R199). -/
def State.spotOf (s : State) (sl ctx h : Nat) (write : Bool) (off : Int) : Spot :=
  if off < 0 then .bad 0x01
  else
    let o := off.toNat
    let v := s.view sl h
    match v.check sl ctx write [o] with
    | some c => .bad c
    | none => match v.place o with
      | .mem g => .mem g o
      | .vec l => .vec l

/-- The spot of walk line `n` of an operand. -/
def State.spot (s : State) (sl ctx : Nat) (write : Bool) (o : Operand) (n : Nat) : Spot :=
  if o.d.host then .host (wrapTo 64 ((o.d.haddr : Int) + 64 * o.lineOff n))
  else s.spotOf sl ctx o.handle write (o.lineOff n)

/-- A line at spot `w` joins an access whose lines lie at `l` (R205, R206, R412). -/
def joins (l : List (Nat × Spot)) (w : Spot) : Bool :=
  match l.getLast?.map Prod.snd, w with
  | some (.mem g _), .mem g' _ =>
    decide (g / 262144 = g' / 262144) && decide (glSet g = glSet g') && decide (l.length < 8) &&
      !(l.any fun x => match x.2 with
        | .mem k _ => decide (glBank k = glBank g')
        | _ => false)
  | some (.vec _), .vec _ => decide (l.length < 8)
  | some (.host a), .host a' => decide (a' = a + 64) && decide (a / 4096 = a' / 4096) && decide (l.length < 64)
  | _, _ => false

/-- The lines of the access that begins at walk line `n`, with the walk line behind it. -/
def State.gather (s : State) (sl ctx : Nat) (write : Bool) (o : Operand) :
    Nat → Nat → List (Nat × Spot) → List (Nat × Spot) × Nat
  | 0, n, acc => (acc, n)
  | k + 1, n, acc =>
    let n := o.nextUsed n
    if o.walkLines ≤ n then (acc, n)
    else
      let w := s.spot sl ctx write o n
      match acc, w with
      | [], .bad c => ([(n, .bad c)], n + 1)
      | [], w => s.gather sl ctx write o k (n + 1) [(n, w)]
      | acc, w => if joins acc w then s.gather sl ctx write o k (n + 1) (acc ++ [(n, w)]) else (acc, n)

/-- The lines of the next access of a walk from walk line `n`. -/
def State.nextAccess (s : State) (sl ctx : Nat) (write : Bool) (o : Operand) (n : Nat) : List (Nat × Spot) × Nat :=
  s.gather sl ctx write o 64 n []

/-! ### Forming accesses -/

/-- Bytes to be written to a walk line: data, byte enables, poison marks. -/
abbrev LineData := Nat → Line × ByteEn × WordEn

/-- No data: a read. -/
def noData : LineData := fun _ => (0, 0, 0)

/-- The lines of a request at memory or vector spots. -/
def lineAccs (l : List (Nat × Spot)) (data : LineData) : List LineAcc :=
  l.zipIdx.map fun p =>
    let d := data p.1.1
    let at' : Nat × Nat := match p.1.2 with
      | .mem g _ => (glBank g % 8, glRow g)
      | .vec v => (p.2, v)
      | _ => (p.2, 0)
    { bank := at'.1, row := at'.2, wen := 0xFF, ben := d.2.1, data := d.1, psn := d.2.2 }

/-- The access of slot `j` over the lines `l`, whose checks have passed; a line with a bad spot is answered at once. -/
def State.formAcc (s : State) (sl j : Nat) (kind : AccKind) (no blk h : Nat) (l : List (Nat × Spot)) (next : Nat)
    (data : LineData) : SeAcc :=
  let x := s.slot sl j
  let id := x.nextAcc
  let ctx := s.slotCtx sl j
  let cls := s.slotClass sl j
  let write := decide (kind = .write)
  let spot := (l.head?.map Prod.snd).getD (.bad 0x01)
  let home := match spot with
    | .mem g _ => glSlice g
    | _ => sl
  let bset := match spot with
    | .mem g _ => glSet g
    | _ => 0
  let q : Req :=
    { origin := .stream sl j id, write := write, ctx := ctx, cls := cls, tag := 0, home := home, bset := bset,
      lines := lineAccs l data, clave := none, owner := if write then 17 else 16, since := s.now }
  let rsp : Option Resp := match spot with
    | .bad c => some
        { origin := q.origin, ctx := ctx, cls := cls, tag := c, write := write, code := 7, lines := [], clave := none,
          banks := 0, issued := s.now, due := s.now, since := s.now }
    | _ => none
  { id := id, no := no, kind := kind, blk := blk, ns := l.map Prod.fst, next := next, handle := h,
    offs := l.map fun p => match p.2 with
      | .mem _ o => o
      | .vec v => v
      | _ => 0
    req := q, issued := rsp.isSome, held := false, retry := 0
    host := match spot with
      | .host a => some a
      | _ => none
    vec := match spot with
      | .vec _ => true
      | _ => false
    resp := rsp, dropped := false
    takes := decide (kind = .read) && x.insts.any fun i => decide (i.no = no) && leadReads i.op }

/-- The walk position of a MOVE, or of Lead's reads for an MCAST, REMOTE or TOLL, moves past an access as it is issued.
The strike path keeps its own positions. -/
def Inst.passed (a : SeAcc) (i : Inst) : Inst :=
  if a.no ≠ i.no ∨ 0x30 ≤ i.op then i
  else if a.kind = .read ∧ a.blk = i.rblk then { i with rpos := a.next }
  else if a.kind = .write ∧ a.blk = i.wblk then { i with wpos := a.next }
  else i

/-- An access of a slot has been issued; `f` notes an answer given at once. -/
def Slot.issue (x : Slot) (id : Nat) (f : SeAcc → SeAcc) : Slot :=
  let a := x.accs.find? fun k => k.id = id
  { x with
    accs := x.accs.map fun k => if k.id = id then f { k with issued := true } else k
    insts := match a with
      | some a => x.insts.map (Inst.passed a)
      | none => x.insts }

/-- Adds an access to a slot; one that a check answers counts as issued. -/
def State.addAcc (s : State) (sl j : Nat) (a : SeAcc) : State :=
  s.modSlot sl j fun x => { x with
    accs := x.accs ++ [a], nextAcc := x.nextAcc + 1
    insts := if a.issued then x.insts.map (Inst.passed a) else x.insts }

/-- The fault code of an answered access: code 7 of a response formed by a check carries the fault code in its tag; a
response of the home slice or of the system port is translated (R124, R184, R283). -/
def Resp.faultCode (r : Resp) : Nat :=
  if r.code = 7 then r.tag
  else if r.code = 1 then 0x0A else if r.code = 2 then 0x02 else if r.code = 3 then 0x03
  else if r.code = 4 then 0x01 else if r.code = 5 then 0x0B else if r.code = 6 then 0x07 else 0

/-! ### Lead and Follow -/

/-- The instruction whose blocks Lead reads: the first, in program order, with a block left to read, or to be read
again. -/
def Slot.leadInst (x : Slot) : Option Inst :=
  x.insts.find? fun i => leadReads i.op && !i.abandoned && (decide (i.rblk < i.count) || (i.reread && decide (i.wblk < i.count)))

/-- Follow has issued all of an instruction's work; the only work of an instruction without blocks is a remote
SIGNAL's packet. -/
def Inst.issuedAll (i : Inst) : Bool := i.abandoned || if isBlock i.op then decide (i.count ≤ i.wblk) else i.sent

/-- The instruction whose work Follow issues: the first, in program order, with work left. -/
def Slot.followInst (x : Slot) : Option Inst := x.insts.find? fun i => !i.issuedAll

/-- Replaces an instruction of a slot. -/
def State.putInst (s : State) (sl j : Nat) (i : Inst) : State :=
  s.modSlot sl j fun x => { x with insts := x.insts.map fun k => if k.no = i.no then i else k }

/-- The instruction as it now stands. -/
def State.instNo (s : State) (sl j no : Nat) : Option Inst := (s.slot sl j).insts.find? fun k => k.no = no

/-- Changes the instruction of a slot, as it now stands. -/
def State.modInst (s : State) (sl j no : Nat) (f : Inst → Inst) : State :=
  s.modSlot sl j fun x => { x with insts := x.insts.map fun k => if k.no = no then f k else k }

/-- An access of instruction `no` is outstanding or waits. -/
def Slot.busyWith (x : Slot) (no : Nat) : Bool := x.accs.any fun a => a.no = no ∧ !a.dropped

/-! ### Faults (R184, R185) -/

/-- `a` lies before `b` in the program. -/
def HaltAt.before (a b : HaltAt) : Bool :=
  decide (a.no < b.no) || (decide (a.no = b.no) &&
    (decide (a.blk < b.blk) || (decide (a.blk = b.blk) && !a.read && b.read) ||
      (decide (a.blk = b.blk) && decide (a.read = b.read) && decide (a.elem < b.elem))))

/-- A pending fault leaves the work of instruction `no` alone: it lies behind it. -/
def Slot.free (x : Slot) (no : Nat) : Bool :=
  match x.halt with
  | some h => decide (no < h.no)
  | none => true

/-- A fault will stop the slot when the work before it is done; of several, the earliest. Lead issues nothing more;
reads of later instructions, and those behind a read that faults, which are the accesses numbered from `from'` on, are
discarded on arrival; writes behind a write that faults are not issued. -/
def State.setHalt (s : State) (sl j : Nat) (h : HaltAt) (from' : Nat := 0) : State :=
  let later := fun (a : SeAcc) => decide (h.no < a.no) || (h.read && decide (h.no = a.no) && decide (from' ≤ a.id))
  let drop := fun (a : SeAcc) => if a.kind = .read ∧ later a then { a with dropped := true } else a
  let undone := ((s.slot sl j).accs.filter fun a =>
    decide (a.kind = .write) && decide (a.no = h.no) && !a.issued && !a.dropped && !h.read).map fun a => (a.blk, a.ns.headD 0)
  let first := undone.foldl (fun (m : Nat × Nat) p => if p.1 < m.1 ∨ (p.1 = m.1 ∧ p.2 < m.2) then p else m) (h.blk, h.elem)
  let h := { h with blk := first.1, elem := first.2 }
  let stays := fun (a : SeAcc) =>
    a.issued || (decide (a.no < h.no) && decide (a.kind ≠ .fetch)) ||
      (decide (a.kind = .read) && (a.held || h.read) && !(later a)) ||
      (decide (a.kind = .write) && h.read && decide (a.no = h.no))
  s.modSlot sl j fun x =>
    { x with
      halt := match x.halt with
        | some k => if h.before k then some h else some k
        | none => some h
      accs := (x.accs.filter stays).map drop }

/-- A fault met by Lead at decode or at an instruction fetch: it lies behind every instruction decoded. -/
def State.haltAtPc (s : State) (sl j code : Nat) : State :=
  s.setHalt sl j { no := (s.slot sl j).nextNo, blk := 0, elem := 0, read := false, code := code, addr := none }

/-- The walk line of the position descriptor of a block that needs source walk line `n` first (R212). -/
def State.destOf (s : State) (sl : Nat) (i : Inst) (b n : Nat) : Nat :=
  match s.blockOps sl i b with
  | some os =>
    let src := os.getD 0 Operand.none
    let dst := os.getD (positionIx i.op) Operand.none
    match src.elems n with
    | x :: _ => dst.startAt x.2
    | [] => 0
  | none => 0

/-- The earlier of two positions: block and walk line. -/
def lowPos (m p : Nat × Nat) : Nat × Nat := if p.1 < m.1 ∨ (p.1 = m.1 ∧ p.2 < m.2) then p else m

/-- The first walk line of the position descriptor that a strike operation has neither written nor sent (R229). -/
def Slot.unsent (x : Slot) (i : Inst) : Nat × Nat :=
  (x.accs.filter fun a => a.no = i.no ∧ a.kind = .write ∧ !a.issued ∧ !a.held ∧ !a.dropped).foldl
    (fun m a => lowPos m (a.blk, a.ns.headD 0)) (i.wblk, i.wpos)

/-- The first walk line of the position descriptor whose write is not yet answered: that of the oldest outstanding
write of the instruction, else the next to be issued. -/
def Slot.frontier (x : Slot) (i : Inst) : Nat × Nat :=
  let ws := x.accs.filter fun a => a.no = i.no ∧ a.kind = .write
  ws.foldl (fun m a =>
    let n := a.ns.headD 0
    if a.blk < m.1 ∨ (a.blk = m.1 ∧ n < m.2) then (a.blk, n) else m) (i.wblk, i.wpos)

/-- Some receiver still in the group has not acknowledged a stroke, as the source knows. -/
def Xfer.open' (x : Xfer) (k : Stroke) : Bool := x.members.any fun r => !(k.acked.contains r)

/-- The transfer is that of an instruction. -/
def Xfer.of (x : Xfer) (sl j no : Nat) : Bool := decide (x.sl = sl) && decide (x.slot = j) && decide (x.no = no)

/-- A position, or the first before it of a stroke of an instruction that some receiver has not acknowledged. -/
def State.strokesFrom (s : State) (sl j no : Nat) (m : Nat × Nat) : Nat × Nat :=
  (s.net.xfers.filter fun (x : Xfer) => x.of sl j no).foldl (fun (m : Nat × Nat) (x : Xfer) =>
    (x.strokes.filter x.open').foldl (fun (m : Nat × Nat) (k : Stroke) => lowPos m (k.blk, k.first)) m) m

/-- The first walk line of an instruction whose write is not yet answered, strokes not acknowledged by every receiver,
outbound writes not answered, and a write that a fault has met (R213) included. -/
def State.frontier (s : State) (sl j : Nat) (i : Inst) : Nat × Nat :=
  let m := (s.fabric.outbound.filter fun (o : FpOut) => decide (o.sl = sl) && decide (o.slot = j) && decide (o.no = i.no)).foldl
    (fun (m : Nat × Nat) (o : FpOut) => lowPos m (o.blk, o.first)) (s.strokesFrom sl j i.no ((s.slot sl j).frontier i))
  match (s.slot sl j).halt with
  | some h => if h.no = i.no ∧ h.read = false then lowPos m (h.blk, h.elem) else m
  | none => m

/-- Lines that no destination line from the frontier on needs leave their data entries (R162), or the staging buffer (R229). -/
def State.prune (s : State) (sl j : Nat) (i : Inst) : Inst :=
  let f := if isStrike i.op then (s.slot sl j).unsent i else s.frontier sl j i
  let k := match s.blockOps sl i f.1 with
    | some os =>
      let dst := os.getD (positionIx i.op) Operand.none
      let k := if f.2 < dst.walkLines then dst.linePos f.2 else dst.positions
      if i.op = 0x33 ∧ isMx dst.fmt then k / 32 * 32 else k
    | none => 0
  let src := (s.blockOps sl i f.1).map fun os => os.getD 0 Operand.none
  { i with
    buf := i.buf.filter fun l => decide (f.1 < l.blk) || (decide (l.blk = f.1) && (match src with
      | some o => (o.elems l.n).any fun e => decide (k ≤ e.2)
      | none => true))
    descs := i.descs.filter fun d => decide (min f.1 i.rblk ≤ d.1) }

/-- What a stream fault record and the saved position name (R185, R284). -/
def posDetail (pc blk elem : Nat) : Word := setFld (setFld (setFld 0 0 27 pc) 27 16 blk) 43 20 elem

/-- Records a fault or event of a stream slot (R284). -/
def State.slotRec (s : State) (sl j code : Nat) (detail : Word) : State :=
  s.sliceRec sl code 0 (some j) (s.slotCtx sl j) (s.slotClass sl j) detail

/-- Restores the row accumulators of a slice from their shadows (R249). -/
def State.restoreAccs (s : State) (sl : Nat) : State :=
  s.each (List.range 64) fun t b => t.modBank sl b fun k => { k with accs := k.shadow }

/-- The row accumulators are released and cleared (R242). -/
def State.freeAccs (s : State) (sl : Nat) : State :=
  (s.each (List.range 64) fun t b => t.modBank sl b fun k => { k with accs := [], shadow := [] }).wr (A.strkAcc sl) 0

/-- Slot `j` holds the row accumulators. -/
def State.holdsAccs (s : State) (sl j : Nat) : Bool :=
  s.getB (A.strkAcc sl) 4 && decide (s.getF (A.strkAcc sl) 0 4 = j)

/-- Releases the accumulators if the slot holds them. -/
def State.releaseAccs (s : State) (sl j : Nat) : State := if s.holdsAccs sl j then s.freeAccs sl else s

/-- Transfers end, and their groups are free; strokes under way still reach their receivers (R147, R148). -/
def State.endXfers (s : State) (p : Xfer → Bool) : State :=
  let gone := (s.net.xfers.filter p).map fun x => { x with strokes := x.strokes.filter fun k => !k.copies.isEmpty }
  { s with net := { s.net with
    xfers := s.net.xfers.filter fun x => !(p x), strays := s.net.strays ++ gone.filter fun x => !x.strokes.isEmpty } }

/-- Every transfer of a slot ends (R185, R171). -/
def State.dropXfers (s : State) (sl j : Nat) : State := s.endXfers fun x => decide (x.sl = sl) && decide (x.slot = j)

/-- Strokes of a slot, or acknowledgements of them, are under way. -/
def State.strokesOut (s : State) (sl j : Nat) : Bool :=
  s.net.xfers.any fun x => decide (x.sl = sl) && decide (x.slot = j) &&
    ((x.strokes.any fun k => !k.copies.isEmpty) || s.net.flights.any (fun f => match f.ack with
      | some a => decide ((a.g, a.src, a.no) = (x.g, x.sl, x.no))
      | none => false) ||
      s.net.merges.any fun m => decide ((m.ack.g, m.ack.src, m.ack.no) = (x.g, x.sl, x.no)))

/-- A scrub pass of a slot ends without a summary (R289). -/
def State.dropScrub (s : State) (sl j : Nat) : State :=
  match (s.slice sl).scrub with
  | some p => match p.slot with
    | some q => if q.1 = j then (s.modSlice sl fun x => { x with scrub := none }).putB (A.scrubCtl sl) 39 false else s
    | none => s
  | none => s

/-- Outbound writes of a slot that await no response are dropped. -/
def State.dropHeldOut (s : State) (sl j : Nat) : State :=
  { s with fabric := { s.fabric with
      outbound := s.fabric.outbound.filter fun (o : FpOut) => !(decide (o.sl = sl) && decide (o.slot = j) && !o.waiting) } }

/-- Outbound writes of a slot that FENCED holds are sent again only when the slot resumes. -/
def State.parkOut (s : State) (sl j : Nat) : State :=
  let park := fun (o : FpOut) => if o.sl = sl ∧ o.slot = j then { o with retry := none } else o
  { s with fabric := { s.fabric with outbound := s.fabric.outbound.map park } }

/-- Outbound writes of a slot await their responses. -/
def State.outWaiting (s : State) (sl j : Nat) : Bool :=
  s.fabric.outbound.any fun (o : FpOut) => decide (o.sl = sl) && decide (o.slot = j) && o.waiting

/-- Outbound writes of a slot have not been answered OK or POISON. -/
def State.outHeld (s : State) (sl j : Nat) : Bool :=
  s.fabric.outbound.any fun (o : FpOut) => decide (o.sl = sl) && decide (o.slot = j)

/-- A fault behind outbound writes that have not been answered OK or POISON stops the slot at the first of them. -/
def State.haltFirst (s : State) (sl j : Nat) (h : HaltAt) : HaltAt :=
  s.fabric.outbound.foldl (fun (h : HaltAt) (o : FpOut) =>
    if o.sl = sl ∧ o.slot = j ∧ o.no = h.no ∧ h.read = false ∧ (o.blk < h.blk ∨ (o.blk = h.blk ∧ o.first < h.elem)) then
      { h with blk := o.blk, elem := o.first }
    else h) h

/-- Outbound writes of a slot, but for instruction `no`, that have not been answered OK or POISON. -/
def State.outOpen (s : State) (sl j no : Nat) : Bool :=
  s.fabric.outbound.any fun (o : FpOut) => decide (o.sl = sl) && decide (o.slot = j) && decide (o.no ≠ no)

/-- The walk line at which a halted block resumes. -/
def State.haltElem (s : State) (sl : Nat) (i : Inst) (h : HaltAt) : Nat :=
  if i.op = 0x34 ∨ i.op = 0x35 ∨ i.op = 0x38 then 0
  else
    let e := if h.read ∧ paired i.op then s.destOf sl i h.blk h.elem else h.elem
    i.out.foldl (fun m k => min m k.first) e

/-- The slot enters FAULTED with its position saved (R185). Instructions behind the fault are undone, and the coverage
that they had taken from a deadline is there again for them when they are decoded anew (R215); those that a missed deadline
has abandoned are abandoned then (R218). -/
def State.enterFault (s : State) (sl j : Nat) (h : HaltAt) : State :=
  let h := s.haltFirst sl j h
  let x := s.slot sl j
  let inst := x.insts.find? fun i => i.no = h.no
  let pc := match inst with
    | some i => i.pc
    | none => s.pc sl j
  let blk := match inst with
    | some i => if isBlock i.op then h.blk else 0
    | none => 0
  let elem := match inst with
    | some i => s.haltElem sl i h
    | none => 0
  let at' := s.strokesFrom sl j h.no (blk, elem)
  let blk := at'.1
  let elem := at'.2
  let keep := match inst with
    | some i => if h.read ∨ !(leadReads i.op) then [] else i.buf
    | none => []
  let lost := (x.accs.filter fun a => a.kind = .read ∧ a.no = h.no ∧ !a.dropped).map fun a => (a.blk, a.ns.headD 0)
  let read := lost.foldl (fun (m : Nat × Nat) p => if p.1 < m.1 ∨ (p.1 = m.1 ∧ p.2 < m.2) then p else m)
    ((inst.map Inst.rblk).getD 0, (inst.map Inst.rpos).getD 0)
  let block := inst.filter fun i => isBlock i.op
  let clean := fun (i : Inst) =>
    { i with wipe := [], sent := i.sent && !(isStrike i.op), buf := keep, wblk := blk, wpos := elem, out := [], flights := [], tree := none, taken := false }
  let res : Residue :=
    { inst := block.map clean
      rblk := read.1
      rpos := read.2
      dup := 0 }
  let behind := x.insts.filter fun i => decide (h.no < i.no)
  let undone := if s.getB (A.seSlotDl sl j) 48 then (behind.filter fun i => i.covered && !i.abandoned).length else 0
  let gone := (behind.filter fun i => i.abandoned).length
  let t := s.modSlot sl j fun x =>
    { x with insts := [], hold := .none, halt := none, residue := some res, resuming := false, toAbandon := x.toAbandon + gone
             accs := (x.accs.filter fun a => a.issued ∧ a.resp = none).map fun a => { a with dropped := true } }
  let t := match inst with
    | some i => if (i.op = 0x34 ∨ i.op = 0x35) ∧ i.taken ∧ s.holdsAccs sl j then t.restoreAccs sl else t
    | none => t
  let t := ((t.dropXfers sl j).dropScrub sl j).parkOut sl j
  let t := t.count (A.seSlotDl sl j) 50 8 undone
  let t := t.setPc sl j pc
  let a := A.seSlotPos sl j
  let t := (((t.putF a 0 16 blk).putF a 16 8 h.code).putF a 24 8 (entriesOf keep)).putF a 32 24 elem
  let t := match h.addr with
    | some v => t.wr (A.seFaddr sl j) (BitVec.ofNat 64 v)
    | none => t
  (t.setSlotState sl j 4).sliceRec (h.recv.getD sl) h.code 0 (some j) (s.slotCtx sl j) (s.slotClass sl j)
    (posDetail pc blk elem)

/-- The work before a pending fault is done: earlier instructions have retired, every access has been answered, and,
for a fault on a read, no destination line before the one that needs it is left to write. -/
def State.haltDue (s : State) (sl j : Nat) (h : HaltAt) : Bool :=
  let x := s.slot sl j
  let before := x.insts.any fun i => decide (i.no < h.no)
  let work := fun (a : SeAcc) => !a.dropped && decide (a.kind ≠ .fetch) && decide (a.kind ≠ .desc)
  let open' := x.accs.any fun a => work a && a.issued && a.resp.isNone
  let answered := x.accs.any fun a => work a && a.resp.isSome && decide (a.no ≤ h.no)
  let writing := x.accs.any fun a => a.kind = .write ∧ (!a.issued || a.held)
  let front := match x.insts.find? fun i => i.no = h.no with
    | some i =>
      if h.read ∧ paired i.op then
        decide (i.wblk < h.blk) || (decide (i.wblk = h.blk) && decide (i.wpos < s.destOf sl i h.blk h.elem)
          && (match s.blockOps sl i i.wblk with
            | some os => decide ((os.getD (positionIx i.op) Operand.none).nextUsed i.wpos < s.destOf sl i h.blk h.elem)
            | none => false))
      else false
    | none => false
  !before && !open' && !answered && !(h.read && writing) && !front && !(s.outWaiting sl j) && !(s.strokesOut sl j) &&
    !(h.read && s.outHeld sl j)

/-- A pending fault stops the slot once it is due. -/
def State.settleHalt (s : State) (sl j : Nat) : State :=
  match (s.slot sl j).halt with
  | some h => if s.slotWorks sl j ∧ s.haltDue sl j h then s.enterFault sl j h else s
  | none => s

end Sys2Proof.Machine
end

