-- ==== Sys2Proof/Machine/Claim.lean ====
section
/-! DEFINITION. Who presents a request for a lane slot, who wins it, and what the losers count (R79, R81, R82, R150). -/

namespace Sys2Proof.Machine

/-! ### Candidates -/

/-- Where a request that presents for a slot waits: at the home slice, in a landing buffer (the packet that brought it), in
a stream slot, in a port. -/
inductive Who where
  | home (ix : Nat)
  | stroke (flight : Nat)
  | acc (slot id : Nat)
  | port (p : Nat)
  deriving DecidableEq, Repr

/-- A request that presents for a slot. -/
structure Cand where
  who : Who
  req : Req
  deriving DecidableEq, Repr

/-- The ring guard has a say about an access. -/
def SeAcc.guardable (a : SeAcc) : Bool := a.host.isNone && a.req.clave.isNone && !a.vec

/-- The ring guard's answer for an access of a stream. A fetch or a burst names its handle too. -/
def State.accGuard (s : State) (sl : Nat) (a : SeAcc) : GuardSays :=
  if a.guardable then s.guardOf sl a.handle a.req.write a.offs else .pass

/-- An access up to the first line that the ring guard faults: the walk goes on at that line, and halts there. -/
def State.guardCut (s : State) (sl : Nat) (a : SeAcc) : SeAcc :=
  let k := (s.guardSplit sl a.handle a.req.write a.offs).1
  if a.guardable = false ∨ a.offs.length ≤ k then a
  else { a with
    ns := a.ns.take k, offs := a.offs.take k, next := (a.ns[k]?).getD a.next
    req := { a.req with lines := a.req.lines.take k } }

/-- Lead may issue: the Tuner holds neither the slice's handle mirror nor the handle table (R292). -/
def State.leadMay (s : State) (sl : Nat) : Bool := !(s.notOk 3 sl) && !(s.notOk 4 0)

/-- The data entries that a read by Lead needs are free to its class (R151, R162). A strike operation's read takes
none. -/
def State.entriesFor (s : State) (sl : Nat) (a : SeAcc) : Bool :=
  !a.takes || s.entryFree sl a.req.cls a.entries

/-- An access of a stream waits to be issued, and is not held by a fence or by its ring's guard (R86, R265). -/
def State.accReady (s : State) (sl : Nat) (a : SeAcc) (c : Nat) : Bool :=
  !a.issued && !a.held && decide (a.req.since ≤ c) && decide (a.retry ≤ c) && (a.req.write || s.leadMay sl) &&
    s.entriesFor sl a && !(decide (a.req.home = sl) && a.req.lines.any fun l => s.bankFenced sl (a.req.bankOf l)) &&
    decide (s.accGuard sl a ≠ .hold)

/-- Accesses of the streams of a slice that present for a lane slot, by owner code. -/
def State.streamCands (s : State) (sl bset owner c : Nat) : List Cand :=
  (List.range 16).flatMap fun j =>
    ((s.slot sl j).accs.filter fun a =>
      decide (a.req.owner = owner) && decide (a.req.home = sl) && decide (a.req.bset = bset) && !a.vec && a.host.isNone &&
        a.req.clave.isNone && s.accReady sl a c).map fun a => { who := .acc j a.id, req := a.req }

/-- Requests that wait at their home slice, by owner code. -/
def State.homeCands (s : State) (sl bset owner c : Nat) : List Cand :=
  ((s.slice sl).home.zipIdx.filter fun p =>
    decide (p.1.owner = owner) && decide (p.1.bset = bset) && decide (p.1.since ≤ c)).map fun p =>
      { who := .home p.2, req := p.1 }

/-- The request that a port presents for a slot: its oldest, once its nominal issue clk has come and in a clk in which the
port has presented none before (R70). One for a fenced bank consumes the port's own slot of its nominal issue clk
(R84). -/
def State.portCands (s : State) (sl bset p c : Nat) : List Cand :=
  match (s.port sl p).queue with
  | [] => []
  | r :: _ =>
    let stays : Bool := match s.headCode sl p r with
      | none => true
      | some k => decide (k = rspFenced) && !(s.portFenced sl p) && decide (r.since = c) && decide (s.slotOwner sl bset c = p)
    if r.home = sl ∧ r.clave.isNone ∧ r.bset = bset ∧ max r.since (s.port sl p).usedTo ≤ c ∧ stays then
      [{ who := .port p, req := r }]
    else []

/-- A copy of a stroke that has left the mesh at a receiver. -/
structure Arrived where
  x : Xfer
  k : Stroke
  copy : StrokeCopy
  came : Nat
  deriving DecidableEq, Repr

/-- The strokes in the landing buffers of slice `r`, and the clk in which each came (R145). -/
def State.arrivals (s : State) (r : Nat) : List Arrived :=
  (s.net.xfers ++ s.net.strays).flatMap fun x => x.strokes.flatMap fun k => k.copies.filterMap fun y =>
    if y.left.contains r then (s.net.lastOut y.flight (s.exitKey r)).map fun c => { x := x, k := k, copy := y, came := c }
    else none

/-- The request of a stroke at a receiver. -/
def Arrived.req (a : Arrived) (r : Nat) : Req where
  origin := .stream a.x.sl a.x.slot 0
  write := true
  ctx := a.x.ctx
  cls := a.x.cls
  tag := 0
  home := r
  bset := a.k.bset
  lines := a.k.lines.map fun l =>
    { bank := l.line % 8, row := l.line / 64 % 4096, wen := 0xFF, ben := l.ben, data := l.data, psn := l.psn }
  clave := none
  owner := 18
  since := a.came

/-- The strokes that present for a slot. -/
def State.strokeCands (s : State) (sl bset c : Nat) : List Cand :=
  ((s.arrivals sl).filter fun a => !a.k.vec && decide (a.k.bset = bset) && decide (a.came ≤ c) &&
    !(s.killedIn sl a.x.ctx) && decide (s.homeCode sl (a.req sl) ≠ rspFenced)).map fun a =>
      { who := .stroke a.copy.flight, req := a.req sl }

/-- The requests that owner `o` presents for bank set `bset` in clk `c`; those of the strike path apart. -/
def State.cands (s : State) (sl bset o c : Nat) : List Cand :=
  if o < 16 then s.portCands sl bset o c
  else if o = 16 ∨ o = 17 then s.streamCands sl bset o c
  else if o = 18 then s.homeCands sl bset o c ++ s.strokeCands sl bset c
  else if o = 20 then s.homeCands sl bset o c
  else []

/-! ### Who wins (R81) -/

/-- What the strike claimant and the idle patrol present in a clk. -/
structure Others where
  strike : Nat → Bool
  patrol : Bool

/-- The code under which the idle patrol stands among the claimants. -/
def patrolCode : Nat := 22

/-- Owner `o` presents for the bank set in clk `c`; during an entry into another power state only ports finish (R312). -/
def State.presents (s : State) (sl bset : Nat) (x : Others) (c o : Nat) : Bool :=
  if o < 16 then s.portsMay sl && !(s.cands sl bset o c).isEmpty
  else (if o = 18 ∨ o = 20 then s.sliceServes sl else s.engineMay sl) &&
    (if o = 19 then x.strike c else if o = patrolCode then x.patrol else !(s.cands sl bset o c).isEmpty)

/-- The claimants of an idle slot in order (R81). -/
def State.claimants (s : State) (sl : Nat) : List Nat :=
  [18, 17, 16, 20, 19] ++
    ((List.range s.build.ports).filter fun p => !(flag (s.inForce (A.rhyCtrl sl)) (16 + p))) ++ [patrolCode]

/-- The owner of the lane on a bank set presents in clk `c`. -/
def State.ownerPresents (s : State) (sl bset : Nat) (x : Others) (c : Nat) : Option Nat :=
  let o := s.slotOwner sl bset c
  if o ≤ 20 ∧ s.presents sl bset x c o then some o else none

/-- Who wins the slot on a bank set in clk `c`. -/
def State.winner (s : State) (sl bset : Nat) (x : Others) (c : Nat) : Option Nat :=
  if s.slotOwner sl bset c = 21 then none
  else match s.ownerPresents sl bset x c with
    | some o => some o
    | none => (s.claimants sl).find? fun o => s.presents sl bset x c o

/-- The first clk, of `n` from `c` on, in which a claimant that `want` accepts wins the slot. -/
def State.firstWin (s : State) (sl bset : Nat) (x : Others) (want : Nat → Bool) : Nat → Nat → Option (Nat × Nat)
  | 0, _ => none
  | n + 1, c =>
    match s.winner sl bset x c with
    | some o => if want o then some (c, o) else s.firstWin sl bset x want n (c + 1)
    | none => s.firstWin sl bset x want n (c + 1)

/-- The index of a claimant's stall counter: RHY_STALL_0 to 5 for the internal ones (R92). -/
def stallAddr (sl o : Nat) : Nat := if o < 16 then A.rhyPstall sl o else if o = patrolCode then A.rhyStall sl 5 else
  A.rhyStall sl (if o = 16 then 0 else if o = 17 then 1 else if o = 18 then 2 else if o = 19 then 3 else 4)

/-- A claimant that lost an idle slot in the present clk counts the clk once (R82). -/
def State.stall (s : State) (sl o : Nat) : State :=
  if Tbl.get 0 (s.slice sl).stalledAt o = s.now + 1 then s
  else (s.count (stallAddr sl o) 0 48 1).modSlice sl fun x => { x with stalledAt := Tbl.put 0 x.stalledAt o (s.now + 1) }

/-- The claimants that lost the slot that `won` takes in the present clk count it where the slot was idle. -/
def State.losers (s : State) (sl bset won : Nat) (x : Others) : State :=
  if (s.ownerPresents sl bset x s.now).isSome then s
  else (s.claimants sl).foldl (fun (t : State) o =>
    if o ≠ won ∧ s.presents sl bset x s.now o then t.stall sl o else t) s

/-! ### Which request (R150) -/

/-- The oldest of a list. -/
def oldestCand : List Cand → Option Cand
  | [] => none
  | c :: t => match oldestCand t with
    | some d => if d.req.since < c.req.since then some d else some c
    | none => some c

/-- Slots that class `c` of an internal claimant has taken in the present window. -/
def State.slotsTaken (s : State) (sl o c : Nat) : Nat := Tbl.get 0 (s.slice sl).shares (o * 8 + c)

/-- The request that an internal claimant puts in a slot: classes under share in turn, from the class behind the one
last served; otherwise the oldest (R150). A port has one. -/
def State.choose (s : State) (sl o : Nat) (cs : List Cand) : Option Cand :=
  let under := fun (k : Nat) => decide (s.slotsTaken sl o k < s.share k 8 7)
  let last := Tbl.get 0 (s.slice sl).turn o
  let first := ((List.range 8).map fun k => (last + 1 + k) % 8).find? fun k =>
    under k && cs.any fun c => decide (c.req.cls = k)
  match first with
  | some k => oldestCand (cs.filter fun c => c.req.cls = k)
  | none => oldestCand cs

/-- A slot taken by class `k` of an internal claimant counts in the window, and in the turn of its classes. -/
def State.countSlot (s : State) (sl o k : Nat) : State :=
  if o < 16 then s
  else s.modSlice sl fun x =>
    { x with turn := Tbl.put 0 x.turn o k, shares := Tbl.put 0 x.shares (o * 8 + k) (Tbl.get 0 x.shares (o * 8 + k) + 1) }

/-- The first clk in which a request may be issued on a bank set: one is issued in a clk (R70). -/
def State.laneFrom (s : State) (sl bset : Nat) : Nat := max s.now (Tbl.get 0 (s.slice sl).lastIssue bset)

/-- Points at which a slice offers at most one request in a clk: Lead, Follow and the strike path at the router, the
vector buffer's reads and writes. -/
def ptLead : Nat := 8
def ptFollow : Nat := 9
def ptStrike : Nat := 10
def ptVecRead : Nat := 11
def ptVecWrite : Nat := 12

/-- The slot of the present clk on a bank set is taken; the clear ports have worked up to it. -/
def State.takeLane (s : State) (sl bset : Nat) : State :=
  (s.wipeNow sl).modSlice sl fun x => { x with lastIssue := Tbl.put 0 x.lastIssue bset (s.now + 1) }

end Sys2Proof.Machine
end

