-- ==== Sys2Proof/Machine/Strike.lean ====
section
/-! DEFINITION. Strike operations whose lines pass in walk order (R224 to R241, R248): what a block next reads and
writes, and the data of a destination line. -/

namespace Sys2Proof.Machine

/-! ### Operations in flight (R225) -/

/-- The destination line at which a block in progress stops, while a fault on one of its reads is pending: the lines
before it are still written (R184, R185). -/
def State.stopLine (s : State) (sl j : Nat) (i : Inst) : Option Nat :=
  match (s.slot sl j).halt with
  | some h =>
    if h.no = i.no ∧ h.read ∧ h.blk = i.wblk ∧ paired i.op then some (s.destOf sl i h.blk h.elem) else none
  | none => none

/-- The block instruction in progress in a slot that steps in the strike path. -/
def State.strikeInst (s : State) (sl j : Nat) : Option Inst :=
  match (s.slot sl j).followInst with
  | some i =>
    if isStrike i.op ∧ i.op ≠ 0x36 ∧ (i.blockDescs i.wblk).isSome ∧ s.slotWorks sl j ∧
        ((s.slot sl j).free i.no ∨ (s.stopLine sl j i).isSome) then
      some i
    else none
  | none => none

/-- Slots with an operation in flight, the oldest first. -/
def State.strikeSlots (s : State) (sl : Nat) : List Nat :=
  let l := (List.range 16).filterMap fun j => (s.strikeInst sl j).map fun i => (i.began, j)
  (l.mergeSort fun a b => decide (a.1 < b.1) || (decide (a.1 = b.1) && decide (a.2 ≤ b.2))).map Prod.snd

/-- The operands of the block in progress. -/
def State.opsNow (s : State) (sl : Nat) (i : Inst) : List Operand := (s.blockOps sl i i.wblk).getD []

/-- The source of the block in progress. -/
def srcOf (os : List Operand) : Operand := os.getD 0 Operand.none

/-- The position descriptor's operand. -/
def dstOf (i : Inst) (os : List Operand) : Operand := os.getD (positionIx i.op) Operand.none

/-! ### Groups of lines -/

/-- The spot of a line of a strike operation: in its own slice, but for what COPY writes (R226). -/
def State.strikeSpot (s : State) (sl : Nat) (i : Inst) (ctx : Nat) (write : Bool) (o : Operand) (n : Nat) : Spot :=
  match s.spot sl ctx write o n with
  | .mem g off => if glSlice g = sl ∨ (i.op = 0x31 ∧ write) then .mem g off else .bad 0x01
  | .host _ => .bad 0x0D
  | w => w

/-- The lines of the next access of a walk, among those that `p` accepts, with the walk line behind it (R205). -/
def State.strikeGather (s : State) (sl : Nat) (i : Inst) (ctx : Nat) (write : Bool) (o : Operand) (p : Nat → Bool) :
    Nat → Nat → List (Nat × Spot) → List (Nat × Spot) × Nat
  | 0, n, acc => (acc, n)
  | k + 1, n, acc =>
    match (List.range (o.walkLines - n)).find? fun d => o.used (n + d) && p (n + d) with
    | none => (acc, o.walkLines)
    | some d =>
      let m := n + d
      let w := s.strikeSpot sl i ctx write o m
      match acc, w with
      | [], .bad c => ([(m, .bad c)], m + 1)
      | [], w => s.strikeGather sl i ctx write o p k (m + 1) [(m, w)]
      | acc, w => if joins acc w then s.strikeGather sl i ctx write o p k (m + 1) (acc ++ [(m, w)]) else (acc, m)

/-! ### What a destination line needs -/

/-- The members of a list, each once. -/
def distinct {α : Type} [DecidableEq α] (l : List α) : List α := l.foldl (fun a x => if a.contains x then a else a ++ [x]) []

/-- The 32-element blocks of the valid elements of a walk line (R234). -/
def blocksOf (o : Operand) (n : Nat) : List Nat := distinct ((o.elems n).map fun x => x.2 / 32)

/-- The positions whose values destination line `n` needs: those of its elements, and of their whole blocks for an MX
destination (R236). -/
def wantedPositions (i : Inst) (dst : Operand) (n : Nat) : List Nat :=
  if i.op = 0x33 ∧ isMx dst.fmt then
    (blocksOf dst n).flatMap fun b => ((List.range 32).map fun k => 32 * b + k).filter fun k => (dst.placeOf k).isSome
  else (dst.elems n).map Prod.snd

/-- The source lines that destination line `n` needs. -/
def sourceLines (i : Inst) (dst src : Operand) (n : Nat) : List Nat :=
  if i.op = 0x30 then [] else distinct ((wantedPositions i dst n).flatMap fun k => src.linesOf k)

/-- A source line is needed: a valid destination position pairs with an element of it. -/
def lineNeeded (i : Inst) (dst src : Operand) (n : Nat) : Bool :=
  decide (i.op = 0x35) || (src.elems n).any fun x => (dst.placeOf x.2).isSome

/-- The scale lines of an MX operand that the elements of walk line `n` need: 64 blocks lie in each (R234). -/
def scaleLines (o : Operand) (n : Nat) : List Nat :=
  if isMx o.fmt then distinct ((blocksOf o n).map fun b => b / 64) else []

/-- The scale line of an instruction with number `n`. -/
def scaleAt (l : List ScaleLine) (n : Nat) : Option ScaleLine := l.find? fun k => k.n = n

/-- The spot of scale line `n` of an MX operand: under the next H register (R234). -/
def State.scaleSpot (s : State) (sl : Nat) (i : Inst) (ctx : Nat) (write : Bool) (o : Operand) (n : Nat) : Spot :=
  let h := i.hreg ((o.d.hr + 1) % 8)
  match s.spotOf sl ctx h.1 write (h.2 + n : Nat) with
  | .mem g off => if glSlice g = sl then .mem g off else .bad 0x01
  | w => w

/-! ### Values -/

/-- The value at position `k` of an operand of a CONVERT, ACCIN or REDUCE, and whether a poisoned bit made it: an MX
element times its block's scale (R231). -/
def State.valueAt (_ : State) (i : Inst) (o : Operand) (k : Nat) : Num × Bool :=
  let v := elemAt o (i.lines i.wblk) k
  if (o.placeOf k).isNone then (.zero, false)
  else if isMx o.fmt then
    let b := k / 32
    match scaleAt i.scales (b / 64) with
    | some c => (decodeMx o.fmt (c.data.toNat / 2 ^ (8 * (b % 64)) % 256) v.1, v.2 || c.psn.getLsbD (b % 64 / 8))
    | none => (.zero, v.2)
  else (decodeElem o.fmt v.1, v.2)

/-- The value paired with destination position `k` of a CONVERT: zero where either side has none (R236). -/
def State.pairedValue (s : State) (i : Inst) (dst src : Operand) (k : Nat) : Num × Bool :=
  if (dst.placeOf k).isNone then (.zero, false) else s.valueAt i src k

/-- The random value of the element of index `m0` under LFSR state `x` (R233). -/
def srValue (x m0 : Nat) : Nat := ((BitVec.ofNat 16 x).rotateLeft (m0 % 16)).toNat

/-- One step of an LFSR (R233). -/
def lfsrNext (x : Nat) : Nat :=
  let b := (x / 2 ^ 15 + x / 2 ^ 13 + x / 2 ^ 12 + x / 2 ^ 10) % 2
  (2 * x + b) % 65536

/-- A seed written in an earlier clk, which the LFSR of a bank has not yet loaded (R253). -/
def State.seedDue (s : State) (sl b : Nat) : Bool :=
  let t := Tbl.get 0 (s.slice sl).seeds b
  decide (t ≠ 0) && decide (t ≤ s.now)

/-- The state of the LFSR of a bank: the seed from the clk after its write on (R253). -/
def State.lfsr (s : State) (sl b : Nat) : Nat := s.getF (A.strkSeed sl b) (if s.seedDue sl b then 0 else 16) 16

/-- The LFSR of a bank makes one step for a line written under SR. -/
def State.stepLfsr (s : State) (sl b rnd : Nat) : State :=
  if rnd = 2 then
    let t := s.putF (A.strkSeed sl b) 16 16 (lfsrNext (s.lfsr sl b))
    if s.seedDue sl b then t.modSlice sl fun x => { x with seeds := Tbl.put 0 x.seeds b 0 } else t
  else s

/-- Results counted in STRK_SAT and STRK_NAN (R252). -/
structure Tally where
  sat : Nat
  nan : Nat
  deriving DecidableEq, Repr

/-- Counts results. -/
def State.tally (s : State) (sl : Nat) (t : Tally) : State :=
  (s.count (A.strkSat sl) 0 48 t.sat).count (A.strkNan sl) 0 48 t.nan

/-- A tally with a result added. -/
def Tally.add (t : Tally) (r : Narrow) : Tally :=
  { sat := t.sat + if r.sat then 1 else 0, nan := t.nan + if r.nan then 1 else 0 }

/-- RND of a strike instruction (R181). -/
def Inst.rnd (i : Inst) : Nat := i.opt 2 2

/-! ### Destination lines -/

/-- A destination line: its bytes, marks, results counted, and an element whose last bits lie in the next line. -/
structure OutData where
  data : Line
  psn : WordEn
  tally : Tally
  carry : Option (Nat × Nat × Bool)
  deriving DecidableEq, Repr

/-- FILL: every element takes the low e bits of S[PAT] (R228). -/
def fillLine (i : Inst) (dst : Operand) (n : Nat) : OutData :=
  let v := i.s (i.opt 0 4) % 2 ^ dst.e
  let l := (dst.elems n).foldl (fun a x => layElem dst (dst.indices n).2.2.2 a x.1 v false) ((0, 0) : OutLine)
  { data := l.1, psn := l.2, tally := ⟨0, 0⟩, carry := none }

/-- The scale and zero mark of an MX destination block, and whether a poisoned value reaches it (R236). -/
def State.blockScale (s : State) (i : Inst) (dst src : Operand) (b : Nat) : Nat × Bool × Bool :=
  let vs := (List.range 32).map fun k => s.pairedValue i dst src (32 * b + k)
  let x := mxScale dst.fmt (vs.map Prod.fst)
  (x, decide (x ≠ 0xFF) && (amaxLog (vs.map Prod.fst)).isNone, vs.any Prod.snd)

/-- CONVERT: destination line `n`, with the LFSR state that its bank has before the step (R233, R235, R236). An element
that begins in the line before keeps what that line's step gave it. -/
def State.convertLine (s : State) (i : Inst) (dst src : Operand) (n lfsr : Nat) : OutData :=
  let r := (dst.indices n).2.2.2
  let blocks := if isMx dst.fmt then (blocksOf dst n).map fun b => (b, s.blockScale i dst src b) else []
  (dst.elems n).foldl (fun (a : OutData) x =>
    let begun := decide (x.1 * dst.e < 512 * r)
    let v := s.pairedValue i dst src x.2
    let rv := if i.rnd = 2 then srValue lfsr x.1 else 0
    let blk : Nat × Bool × Bool := match blocks.find? fun p => p.1 = x.2 / 32 with
      | some p => p.2
      | none => (0, false, false)
    let res : Narrow := if isMx dst.fmt then mxElem dst.fmt blk.1 i.rnd rv blk.2.1 v.1 else narrow dst.fmt i.rnd rv v.1
    let out : Nat × Bool := match begun, i.carry with
      | true, some c => if c.1 = x.2 then (c.2.1, c.2.2) else (res.bits, v.2 || blk.2.2)
      | _, _ => (res.bits, v.2 || blk.2.2)
    let l := layElem dst r (a.data, a.psn) x.1 out.1 out.2
    { data := l.1, psn := l.2
      tally := if begun then a.tally else a.tally.add res
      carry := if 512 * (r + 1) < x.1 * dst.e + dst.e then some (x.2, out.1, out.2) else a.carry })
    { data := 0, psn := 0, tally := ⟨0, 0⟩, carry := none }

/-- The bytes of destination line `n`. -/
def State.outLine (s : State) (i : Inst) (dst src : Operand) (n lfsr : Nat) : OutData :=
  if i.op = 0x30 then fillLine i dst n
  else if i.op = 0x31 then
    let l := moveLine dst src (i.lines i.wblk) n
    { data := l.1, psn := l.2, tally := ⟨0, 0⟩, carry := none }
  else s.convertLine i dst src n lfsr

/-- The scale lines being formed, with the scales of the blocks that destination line `n` touches (R235). -/
def State.addScales (s : State) (i : Inst) (dst src : Operand) (n : Nat) : List ScaleLine :=
  if i.op ≠ 0x33 ∨ isMx dst.fmt = false then i.out
  else (blocksOf dst n).foldl (fun (l : List ScaleLine) b =>
    let x := s.blockScale i dst src b
    let at' := b % 64
    let put := fun (k : ScaleLine) =>
      { k with
        data := k.data ||| BitVec.ofNat 512 (x.1 * 2 ^ (8 * at'))
        ben := k.ben ||| (1#64 <<< at')
        psn := if x.2.2 then k.psn ||| (1#8 <<< (at' / 8)) else k.psn }
    let fresh : ScaleLine := { n := b / 64, data := 0, ben := 0, psn := 0, first := dst.startAt (32 * b), ready := 0 }
    match scaleAt l (b / 64) with
    | some k => if k.ben.getLsbD at' then l else l.map fun k => if k.n = b / 64 then put k else k
    | none => l ++ [put fresh]) i.out

/-! ### The next steps of an operation -/

/-- What a step of a strike operation does. -/
inductive StepKind where
  | read
  | scaleRead (n : Nat)
  | write
  | scaleWrite (n : Nat)
  | update
  deriving DecidableEq, Repr

/-- A step: its lines, the walk line behind it, and the first clk in which it is ready. -/
structure SStep where
  kind : StepKind
  lines : List (Nat × Spot)
  next : Nat
  start : Nat
  deriving DecidableEq, Repr

/-- The lines of a step that pass through the staging buffer. A scale line does not: it has its place beside the buffer. -/
def SStep.stagedLines (t : SStep) : Nat := match t.kind with
  | .read => t.lines.length
  | _ => 0

/-- The clk in which the lines that destination line `n` needs have all come, where they have been read. -/
def lineReady (i : Inst) (dst src : Operand) (n : Nat) : Option Nat :=
  let lines := sourceLines i dst src n
  let scales := if i.op = 0x33 then distinct (lines.flatMap fun m => scaleLines src m) else []
  let a := lines.foldl (fun (t : Option Nat) m => match t, i.buf.find? fun l => l.blk = i.wblk ∧ l.n = m with
    | some t, some l => some (max t l.ready)
    | _, _ => none) (some 0)
  scales.foldl (fun (t : Option Nat) m => match t, scaleAt i.scales m with
    | some t, some l => some (max t l.ready)
    | _, _ => none) a

/-- The next read of an operation: the first source line that is needed and not yet read, behind the scale lines that it
needs (R229, R235). -/
def State.nextRead (s : State) (sl j : Nat) (i : Inst) (os : List Operand) : Option SStep :=
  if i.op = 0x30 then none
  else
    let src := srcOf os
    let dst := dstOf i os
    let ctx := s.slotCtx sl j
    match (List.range (src.walkLines - i.rpos)).find? fun d => src.used (i.rpos + d) && lineNeeded i dst src (i.rpos + d) with
    | none => none
    | some d =>
      let m := i.rpos + d
      match (if i.op = 0x33 then scaleLines src m else []).find? fun k => (scaleAt i.scales k).isNone with
      | some k => some { kind := .scaleRead k, lines := [(m, s.scaleSpot sl i ctx false src k)], next := i.rpos, start := i.began }
      | none =>
        let ok := fun (n : Nat) => lineNeeded i dst src n &&
          ((if i.op = 0x33 then scaleLines src n else []).all fun k => (scaleAt i.scales k).isSome)
        let g := s.strikeGather sl i ctx false src ok 8 m []
        some { kind := .read, lines := g.1, next := g.2, start := i.began }

/-- Lines that an operation holds in the staging buffer of its slice (R224). -/
def State.staged (s : State) (sl j : Nat) : Nat :=
  match s.strikeInst sl j with
  | some i => if i.op = 0x34 ∨ i.op = 0x35 then 0 else i.buf.length
  | none => 0

/-- The most source lines that a destination line of an operation needs (R229), with the whole blocks of an MX destination
(R236). -/
def stagingCap (i : Inst) (dst : Operand) : Nat :=
  if i.op = 0x30 then 0 else min 128 ((511 + dst.e) / dst.e + if i.op = 0x33 ∧ isMx dst.fmt then 64 else 0)

/-- The room of the staging buffer of 128 lines that the other operations in flight leave to that of slot `j`. DESIGN CHOICE
(R224, R229): the room that one destination line needs is kept for every older operation, and for a younger one that holds
lines, so that the oldest destination line of each can always be written; the spec does not say how operations share the
buffer. -/
def State.stagingRoom (s : State) (sl j : Nat) : Nat :=
  let l := s.strikeSlots sl
  128 - (l.zipIdx.foldl (fun (n : Nat) p =>
    let used := s.staged sl p.1
    let cap := match s.strikeInst sl p.1 with
      | some k => stagingCap k (dstOf k (s.opsNow sl k))
      | none => 0
    if p.1 = j then n
    else if p.2 < l.idxOf j ∨ used ≠ 0 then n + max cap used else n) 0)

/-- The staging buffer has room for `n` lines of the operation of slot `j`. -/
def State.stagingFree (s : State) (sl j : Nat) (i : Inst) (n : Nat) : Bool :=
  let room := s.stagingRoom sl j
  decide (i.op = 0x35) || (decide (i.buf.length + n ≤ room) &&
    (!i.buf.isEmpty || decide (stagingCap i (dstOf i (s.opsNow sl i)) ≤ room)))

/-- The scale line that is next to be written: it is complete once no later destination line holds a block of it. -/
def scaleDone (i : Inst) (dst : Operand) : Option ScaleLine :=
  match i.out with
  | [] => none
  | k :: _ =>
    let n := dst.nextUsed i.wpos
    if dst.walkLines ≤ n ∨ ((blocksOf dst n).all fun b => decide (k.n < b / 64)) then some k else none

/-- The next write of an operation. A group is cut to the lines whose sources have come only where nothing more can be
read. -/
def State.nextWrite (s : State) (sl j : Nat) (i : Inst) (os : List Operand) : Option SStep :=
  if i.op = 0x35 then none
  else
    let src := srcOf os
    let dst := dstOf i os
    let ctx := s.slotCtx sl j
    match scaleDone i dst with
    | some k => some { kind := .scaleWrite k.n, lines := [(k.first, s.scaleSpot sl i ctx true dst k.n)], next := i.wpos, start := i.began }
    | none =>
      let p := fun (n : Nat) => !(i.doneLines.contains n)
      let g := s.strikeGather sl i ctx true dst p 8 i.wpos []
      let stop := s.stopLine sl j i
      let before := fun (n : Nat) => match stop with
        | some k => decide (n < k)
        | none => true
      let have' := g.1.takeWhile fun x => before x.1 && (lineReady i dst src x.1).isSome
      let more : Bool := match s.nextRead sl j i os with
        | some r => s.stagingFree sl j i r.stagedLines && stop.isNone
        | none => false
      if have'.isEmpty ∨ (have'.length < g.1.length ∧ more) then none
      else
        let start := have'.foldl (fun m x => max m ((lineReady i dst src x.1).getD 0)) i.began
        let last := (have'.getLast?.map Prod.fst).getD 0
        let window := if i.op = 0x32 then
            i.flights.foldl (fun m f => if f.1 + 63 < last then max m f.2 else m) 0
          else 0
        some
          { kind := if i.op = 0x32 then .update else .write, lines := have'
            next := if have'.length = g.1.length then g.2 else last + 1, start := max start window }

/-- The steps that an operation may take next, a write before a read. -/
def State.nextSteps (s : State) (sl j : Nat) (i : Inst) : List SStep :=
  let os := s.opsNow sl i
  if i.op = 0x35 ∧ i.taken = false then []
  else (match s.nextWrite sl j i os with
    | some w => [w]
    | none => []) ++
  (match s.nextRead sl j i os with
    | some r => if s.stagingFree sl j i r.stagedLines ∧ (s.slot sl j).halt.isNone then [r] else []
    | none => [])

/-- The spot of a step. -/
def SStep.spot (t : SStep) : Spot := (t.lines.head?.map Prod.snd).getD (.bad 0x01)

/-- The handle that a step's lines are named by. -/
def State.stepHandle (s : State) (sl : Nat) (i : Inst) (t : SStep) : Nat :=
  let os := s.opsNow sl i
  match t.kind with
  | .read => (srcOf os).handle
  | .scaleRead _ => (i.hreg (((srcOf os).d.hr + 1) % 8)).1
  | .scaleWrite _ => (i.hreg (((dstOf i os).d.hr + 1) % 8)).1
  | _ => (dstOf i os).handle

/-- The step reads. -/
def SStep.reads (t : SStep) : Bool := match t.kind with
  | .read => true
  | .scaleRead _ => true
  | _ => false

/-- Line offsets of a step in memory. -/
def SStep.offs (t : SStep) : List Nat := t.lines.map fun p => match p.2 with
  | .mem _ o => o
  | _ => 0

/-- The ring guard's answer for a step (R262, R265). -/
def State.stepGuard (s : State) (sl : Nat) (i : Inst) (t : SStep) : GuardSays :=
  match t.spot with
  | .mem _ _ => s.guardOf sl (s.stepHandle sl i t) (!t.reads) t.offs
  | _ => .pass

/-- The step takes a lane slot on bank set `bset` of the slice, and nothing holds it (R86, R265). -/
def State.stepOn (s : State) (sl bset : Nat) (i : Inst) (t : SStep) : Bool :=
  match t.spot with
  | .mem g _ =>
    decide (glSlice g = sl) && decide (glSet g = bset) && decide (s.stepGuard sl i t = .pass) &&
      !(t.lines.any fun p => match p.2 with
        | .mem g _ => s.bankFenced sl (glBank g)
        | _ => false)
  | _ => false

end Sys2Proof.Machine
end

