-- ==== Sys2Proof/Machine/Gemv.lean ====
section
/-! DEFINITION. Row accumulators (R242), the steps of a GEMV (R243 to R246), and the sums that the reduction tree forms
(R247, R248). -/

namespace Sys2Proof.Machine

/-! ### Accumulators -/

/-- An accumulator without a contribution. -/
def Accum.fresh (tag : Nat) (int : Bool) (v : BitVec 32) : Accum := { tag := tag, val := v, int := int, psn := false }

/-- The accumulators of a bank with that of `a`'s tag replaced by `a`, or with `a` as a new one; none for a 65th tag
(R242). -/
def putAccum (l : List Accum) (a : Accum) : Option (List Accum) :=
  if l.any fun k => k.tag = a.tag then some (l.map fun k => if k.tag = a.tag then a else k)
  else if 64 ≤ l.length then none
  else some (l ++ [a])

/-- The accumulator of a tag. -/
def findAccum (l : List Accum) (tag : Nat) : Option Accum := l.find? fun k => k.tag = tag

/-- The value of an accumulator. -/
def Accum.num (a : Accum) : Num := if a.int then Num.ofInt (sext 32 a.val.toNat) else decodeFlt 0 a.val.toNat

/-- A value as the bits of an accumulator, with what it counts: FP32 rounded to nearest even, or a saturating INT32. -/
def accumBits (int : Bool) (v : Num) : Narrow := narrow (if int then fInt32 else fFp32) 0 0 v

/-- A bank stores a contribution, and STRK_ACC reports the tags and the poison (R251). The result tells whether the bank
had an accumulator for it. -/
def State.storeAccum (s : State) (sl b : Nat) (a : Accum) : Bool × State :=
  match putAccum (s.bank sl b).accs a with
  | none => (false, s)
  | some l =>
    let t := s.modBank sl b fun k => { k with accs := l }
    let t := t.putF (A.strkAcc sl) 5 7 (max (t.getF (A.strkAcc sl) 5 7) l.length)
    (true, if a.psn then t.putB (A.strkAcc sl) 12 true else t)

/-! ### REDUCE (R248) -/

/-- An accumulator of a REDUCE before its first element: zero, or the least value for a maximum. -/
def reduceStart (i : Inst) (src : Operand) (tag : Nat) : Accum :=
  let int := isInt src.fmt
  if i.opt 0 2 = 0 then Accum.fresh tag int 0
  else Accum.fresh tag int (if int then 0x80000000#32 else 0xFF800000#32)

/-- A source element meets its accumulator: sum or maximum. -/
def reduceStep (i : Inst) (a : Accum) (v : Num × Bool) : Accum × Narrow :=
  let x := if i.opt 0 2 = 0 then a.num.add v.1 else a.num.max v.1
  let r := accumBits a.int x
  ({ a with val := BitVec.ofNat 32 r.bits, psn := a.psn || v.2 }, r)

/-- A source line enters the accumulators of bank `b`; the result tells whether every output index had one. -/
def State.reduceLine (s : State) (sl b : Nat) (i : Inst) (os : List Operand) (n : Nat) : Bool × State :=
  let src := srcOf os
  let nd := (dstOf i os).positions
  (src.elems n).foldl (fun (r : Bool × State) x =>
    if r.1 = false then r
    else
      let tag := x.2 % nd
      let a := (findAccum (r.2.bank sl b).accs tag).getD (reduceStart i src tag)
      let u := reduceStep i a (r.2.valueAt i src x.2)
      let t := if a.int ∧ u.2.sat then r.2.count (A.strkSat sl) 0 48 1 else r.2
      t.storeAccum sl b u.1) (true, s)

/-! ### GEMV: where its lines lie -/

/-- Operands of a GEMV block. -/
def elOf (os : List Operand) : Operand := os.getD 0 Operand.none
def scOf (os : List Operand) : Operand := os.getD 1 Operand.none
def veOf (os : List Operand) : Operand := os.getD 2 Operand.none
def outOf (os : List Operand) : Operand := os.getD 3 Operand.none

/-- Weights in a line of the element plane. -/
def perLine (el : Operand) : Nat := 512 / el.e

/-- The first position of an element line. -/
def firstPos (el : Operand) (n : Nat) : Nat := el.linePos n

/-- The place of the scale of element position `k`: walk line of the scale plane and byte; none where the scale is
padding or not valid (R243). -/
def scalePlace (sc : Operand) (k : Nat) : Option (Nat × Nat) :=
  match sc.placeOf (k / 32) with
  | some (m0, row) => some (row * sc.rowLines + m0 / 64, m0 % 64)
  | none => none

/-- The scale lines that an element line needs. -/
def scaleNeeds (el sc : Operand) (n : Nat) : List Nat :=
  if isMx el.fmt = false then []
  else distinct ((List.range (perLine el / 32)).filterMap fun g => (scalePlace sc (firstPos el n + 32 * g)).map Prod.fst)

/-- The spot of a line of the element or the scale plane: a line of a bank of the executing slice (R226). -/
def State.planeSpot (s : State) (sl ctx : Nat) (o : Operand) (n : Nat) : Spot :=
  match s.spot sl ctx false o n with
  | .mem g off => if glSlice g = sl then .mem g off else .bad 0x01
  | .vec _ => .bad 0x01
  | .host _ => .bad 0x0D
  | w => w

/-- The bank of a spot. -/
def Spot.bank : Spot → Option Nat
  | .mem g _ => some (glBank g)
  | _ => none

/-- The code with which an element line halts its block: that of its own check or of its scale line's, FORMAT where its
groups need two scale lines or one in another bank (R243). -/
def State.planeCode (s : State) (sl ctx : Nat) (os : List Operand) (n : Nat) : Option Nat :=
  match s.planeSpot sl ctx (elOf os) n with
  | .bad c => some c
  | w => match scaleNeeds (elOf os) (scOf os) n with
    | [] => none
    | [m] => match s.planeSpot sl ctx (scOf os) m with
      | .bad c => some c
      | v => if v.bank = w.bank then none else some 0x0D
    | _ => some 0x0D

/-- The element lines of a GEMV block that carry weights. -/
def elementLines (os : List Operand) : List Nat := (List.range (elOf os).walkLines).filter (elOf os).used

/-- The code with which a GEMV halts at an element line that it has reached (R226, R243): the next of a bank, or, in no bank of
the slice, one before which no line is left to work on. DEDUCED (R244): banks go through their lines each for itself, so that a
line in no bank is reached in the order of the walk. -/
def State.planeFault (s : State) (sl ctx : Nat) (i : Inst) (os : List Operand) : Option Nat :=
  ((elementLines os).foldl (fun (r : List Nat × Option Nat) n =>
    match (s.planeSpot sl ctx (elOf os) n).bank with
    | some b =>
      if n < Tbl.get 0 i.cursor b ∨ r.1.contains b then r
      else (r.1 ++ [b], r.2.or (s.planeCode sl ctx os n))
    | none => if r.1.isEmpty ∧ i.halves.isEmpty then (r.1, r.2.or (s.planeCode sl ctx os n)) else r) ([], none)).2

/-! ### GEMV: what a bank does next (R244) -/

/-- What a bank does next: a scale line, an element line, or the second half of the line read before. -/
inductive BankNext where
  | done
  | scale (m : Nat) (w : Spot)
  | element (n : Nat) (w : Spot)
  | second (h : Half)
  deriving DecidableEq, Repr

/-- A weight line takes two steps (R244). -/
def twoSteps (os : List Operand) : Bool := decide ((veOf os).fmt = fBf16)

/-- The next element line of bank `b`. -/
def State.bankLine (s : State) (sl ctx : Nat) (i : Inst) (os : List Operand) (b : Nat) : Option (Nat × Spot) :=
  (elementLines os).findSome? fun n =>
    if n < Tbl.get 0 i.cursor b then none
    else
      let w := s.planeSpot sl ctx (elOf os) n
      if w.bank = some b then some (n, w) else none

/-- What bank `b` does next. -/
def State.bankNext (s : State) (sl ctx : Nat) (i : Inst) (os : List Operand) (b : Nat) : BankNext :=
  match i.halves.find? fun h => h.bank = b with
  | some h => .second h
  | none => match s.bankLine sl ctx i os b with
    | none => .done
    | some (n, w) => match scaleNeeds (elOf os) (scOf os) n with
      | m :: _ =>
        if i.latch.any fun l => l.bank = b ∧ l.n = m then .element n w else .scale m (s.planeSpot sl ctx (scOf os) m)
      | [] => .element n w

/-- The columns of the vector that the next step of a line uses: the first of them. -/
def stepColumn (os : List Operand) (n : Nat) (second : Bool) : Nat :=
  firstPos (elOf os) n % (veOf os).positions + if second then perLine (elOf os) / 2 else 0

/-- The chunk of 128 bytes of the vector in which a column lies (R244). -/
def chunkOf (os : List Operand) (col : Nat) : Nat := col * (veOf os).e / 1024

/-- The chunk that a bank's next step needs, if it works on an element line. -/
def BankNext.chunk (os : List Operand) : BankNext → Option Nat
  | .element n _ => some (chunkOf os (stepColumn os n false))
  | .second h => some (chunkOf os (stepColumn os h.n true))
  | _ => none

/-- The banks of a set that may take part in a step, with what each does next: those that no fence and no ring guard
holds (R244, R265). -/
def State.setNext (s : State) (sl j bset : Nat) (i : Inst) (os : List Operand) : List (Nat × BankNext) :=
  let ctx := s.slotCtx sl j
  ((List.range 8).map fun k => 8 * bset + k).filterMap fun b =>
    if s.bankFenced sl b then none
    else
      let guard : Operand → Spot → Bool := fun o w => match w with
        | .mem _ off => decide (s.guardOf sl o.handle false [off] = .hold)
        | _ => false
      match s.bankNext sl ctx i os b with
      | .done => none
      | .element n w => if guard (elOf os) w then none else some (b, .element n w)
      | .scale m w => if guard (scOf os) w then none else some (b, .scale m w)
      | .second h => some (b, .second h)

/-- The banks that take part in the step: every one that reads a scale line, and those whose element line needs the
chunk of the lowest-numbered bank with one (R244). -/
def stepBanks (os : List Operand) (l : List (Nat × BankNext)) : Option Nat × List (Nat × BankNext) :=
  let c := l.findSome? fun p => p.2.chunk os
  (c, l.filter fun p => match p.2.chunk os with
    | some k => decide (some k = c)
    | none => true)

/-- Every element line of the block has been worked on. -/
def State.gemvDone (s : State) (sl ctx : Nat) (i : Inst) (os : List Operand) : Bool :=
  i.halves.isEmpty && (List.range 64).all fun b => (s.bankLine sl ctx i os b).isNone

/-! ### GEMV: arithmetic (R245) -/

/-- The sum of 32 products: exact for 4-bit and 8-bit weights under FP8 activations, else each rounded to FP32 and added
in column order. -/
def groupSum (exact : Bool) (ws acts : List Num) : Num :=
  let ps := (ws.zip acts).map fun p => p.1.mul p.2
  if exact then sumExact ps else sumFp32 (ps.map toFp32)

/-- Element `t` of a weight line. -/
def weightAt (el : Operand) (l : Line) (t : Nat) : Num := decodeElem el.fmt (l.toNat / 2 ^ (t * el.e) % 2 ^ el.e)

/-- The contributions of an element line with activations `acts` for its columns: row, value, poison (R245). The scale
line is `sc`'s line held in the latch. -/
def lineContribs (os : List Operand) (n : Nat) (data : Line) (psn : WordEn) (latch : Option ScaleLatch)
    (acts : List (Nat × Bool)) : List (Nat × Num × Bool) :=
  let el := elOf os
  let ve := veOf os
  let k0 := firstPos el n
  let exact := decide (el.e ≤ 8) && decide (ve.fmt = fE4m3)
  (List.range (perLine el / 32)).map fun g =>
    let k := k0 + 32 * g
    let avs := (List.range 32).map fun t => acts.getD (32 * g + t) (0, false)
    let scale : Option (Nat × Bool) := if isMx el.fmt then (scalePlace (scOf os) k).map fun p =>
        match latch with
        | some l => (l.data.toNat / 2 ^ (8 * p.2) % 256, l.psn.getLsbD (p.2 / 8))
        | none => (0, false)
      else some (127, false)
    let ws := (List.range 32).map fun t => if scale.isNone then Num.zero else weightAt el data (32 * g + t)
    let sum := groupSum exact ws (avs.map fun a => decodeElem ve.fmt a.1)
    let v : Num := match scale with
      | some (x, _) => if isMx el.fmt ∧ x = 0xFF then .nan (Config.nanSign 4 (k / ve.positions) k) else sum.scale ((x : Int) - 127)
      | none => sum
    (k / ve.positions, v, bitsMarked psn (32 * g * el.e) (32 * el.e) || avs.any Prod.snd || (match scale with
      | some p => p.2
      | none => false))

/-- The activations of a chunk, with their poison marks (R246). -/
def State.readChunk (s : State) (sl ctx : Nat) (os : List Operand) (c : Nat) : List (Nat × Bool) :=
  let ve := veOf os
  let lines : Lines := fun n => match s.spot sl ctx false ve n with
    | .vec l => some (s.vecLine sl l)
    | _ => none
  (List.range (1024 / ve.e)).map fun t => elemAt ve lines (c * (1024 / ve.e) + t)

/-- The words of the vector buffer in which a chunk lies. -/
def State.chunkWords (s : State) (sl ctx : Nat) (os : List Operand) (c : Nat) : List (Nat × Nat) :=
  let ve := veOf os
  distinct ((List.range (1024 / ve.e)).filterMap fun t => match ve.placeOf (c * (1024 / ve.e) + t) with
    | some (m0, row) => match s.spot sl ctx false ve (row * ve.rowLines + m0 * ve.e / 512) with
      | .vec l => some (l, m0 * ve.e % 512 / 64)
      | _ => none
    | none => none)

/-- The activations of a chunk for bank set `bset`: from its latch, or read into it (R246). -/
def State.chunkActs (s : State) (sl j bset : Nat) (os : List Operand) (c : Nat) : List (Nat × Bool) × State :=
  let held := match Tbl.get none (s.slice sl).latches bset with
    | some a => if a.slot = j ∧ a.chunk = c then some a.acts else none
    | none => none
  match held with
  | some acts => (acts, s)
  | none =>
    let acts := s.readChunk sl (s.slotCtx sl j) os c
    let a : ActLatch := { slot := j, chunk := c, acts := acts }
    let t := s.touchVec sl (s.slotCtx sl j) (s.slotClass sl j) (s.chunkWords sl (s.slotCtx sl j) os c)
    (acts, t.modSlice sl fun x => { x with latches := Tbl.put none x.latches bset (some a), chunkAt := s.now + 1 })

/-- Contributions enter the accumulators of bank `b`; the result tells whether each row had one. -/
def State.contribute (s : State) (sl b : Nat) (l : List (Nat × Num × Bool)) : Bool × State :=
  l.foldl (fun (r : Bool × State) x =>
    if r.1 = false then r
    else
      let a := (findAccum (r.2.bank sl b).accs x.1).getD (Accum.fresh x.1 false 0)
      let v := accumBits false (a.num.add x.2.1)
      r.2.storeAccum sl b { a with val := BitVec.ofNat 32 v.bits, psn := a.psn || x.2.2 }) (true, s)

/-! ### The reduction tree (R247, R248) -/

/-- Sums of neighbours. -/
def pairUp (f : Num → Num → Num) : List Num → List Num
  | a :: b :: t => f a b :: pairUp f t
  | l => l

/-- The 64 banks' values, combined in pairs of pairs. -/
def treeOf (f : Num → Num → Num) (l : List Num) : Num :=
  let l := pairUp f (pairUp f (pairUp f (pairUp f (pairUp f (pairUp f l)))))
  l.headD .zero

/-- The value of output `tag` over the banks of a slice, and whether a poisoned contribution reached it. -/
def State.treeValue (s : State) (sl : Nat) (i : Inst) (os : List Operand) (tag : Nat) : Num × Bool :=
  let as := (List.range 64).map fun b => findAccum (s.bank sl b).accs tag
  let int := decide (i.op = 0x35) && isInt (srcOf os).fmt
  let max := decide (i.op = 0x35) && decide (i.opt 0 2 = 1)
  let dflt : Num := if max then (reduceStart i (srcOf os) tag).num else .zero
  let join : Num → Num → Num := fun a b =>
    if max then a.max b
    else
      let r := accumBits int (a.add b)
      (Accum.fresh 0 int (BitVec.ofNat 32 r.bits)).num
  (treeOf join (as.map fun a => match a with
    | some a => a.num
    | none => dflt), as.any fun a => match a with
    | some a => a.psn
    | none => false)

/-- The least value of a format, for an output of a maximum that received no element. -/
def leastOf (f : Nat) (int : Bool) : Num := if int then Num.ofInt (-(2 ^ 31)) else if (fltOf f).inf then .inf true else
  decodeFlt f ((fltOf f).top + 2 ^ ((fltOf f).eb + (fltOf f).mb))

/-- Output `tag`, with the value that an output without an element takes. -/
def State.outputValue (s : State) (sl : Nat) (i : Inst) (os : List Operand) (tag : Nat) : Num × Bool :=
  let none' := (List.range 64).all fun b => (findAccum (s.bank sl b).accs tag).isNone
  if i.op = 0x35 ∧ i.opt 0 2 = 1 ∧ none' then (leastOf (dstOf i os).fmt (isInt (srcOf os).fmt), false)
  else s.treeValue sl i os tag

/-- Output walk line `n`, under LFSR state `lfsr` of bank 0. -/
def State.treeLine (s : State) (sl : Nat) (i : Inst) (os : List Operand) (n lfsr : Nat) : OutData :=
  let dst := dstOf i os
  (dst.elems n).foldl (fun (a : OutData) x =>
    let v := s.outputValue sl i os x.2
    let r := narrow dst.fmt i.rnd (if i.rnd = 2 then srValue lfsr x.1 else 0) v.1
    let l := layElem dst (dst.indices n).2.2.2 (a.data, a.psn) x.1 r.bits v.2
    { a with data := l.1, psn := l.2, tally := a.tally.add r })
    { data := 0, psn := 0, tally := ⟨0, 0⟩, carry := none }

end Sys2Proof.Machine
end

