-- ==== Sys2Proof/Machine/Log.lean ====
section
/-! DEFINITION. Log records (R387), which MARK and Belfry's firmware queue for the log ring. -/

namespace Sys2Proof.Machine

/-- A log record as R387 lays it out: type, slice, context, slot, VAL and DETAIL. -/
def State.mkLog (s : State) (type sl ctx : Nat) (slot : Option Nat) (val : Nat) (detail : Word) : LogRec :=
  let w := setFld (setFld (setFld 0 0 8 type) 8 6 sl) 14 6 ctx
  let w := match slot with
    | some j => setFlag (setFld w 20 4 j) 24 true
    | none => w
  { w0 := setFld w 32 32 val, w1 := BitVec.ofNat 64 s.beatCount, w2 := BitVec.ofNat 64 s.time.ref, w3 := detail }

/-- Queues a log record; one that arrives at a full queue of 16 is dropped and counted in MBOX_LOG.LOST (R387). -/
def State.queueLog (s : State) (r : LogRec) : State :=
  if 16 ≤ s.belfry.logQueue.length then s.countSat A.mboxLog 43 12 1
  else { s with belfry := { s.belfry with logQueue := s.belfry.logQueue ++ [r] } }

/-- Queues a record of Belfry's own, which names no slice, context or slot. -/
def State.logEvent (s : State) (type : Nat) (detail : Word) : State := s.queueLog (s.mkLog type 0 0 none 0 detail)

end Sys2Proof.Machine
end

