-- ==== Sys2Proof/Machine/Pump.lean ====
section
/-! DEFINITION. What a slot does without a lane slot: it is held by fences and guards (R86, R265), fetches instructions (R167)
and descriptors (R207), begins blocks (R202), and forms the reads and writes of its walks (R205). -/

namespace Sys2Proof.Machine

/-! ### Work that a fence or a guard holds -/

/-- The lines of a walk from line `n` on that one access takes, whole rows included (R204, R205). -/
def State.scrubGather (s : State) (sl ctx : Nat) (o : Operand) : Nat → Nat → List (Nat × Spot) → List (Nat × Spot) × Nat
  | 0, n, acc => (acc, n)
  | k + 1, n, acc =>
    if o.walkLines ≤ n then (acc, n)
    else
      let w := s.planeSpot sl ctx o n
      match acc, w with
      | [], .bad c => ([(n, .bad c)], n + 1)
      | [], w => s.scrubGather sl ctx o k (n + 1) [(n, w)]
      | acc, w => if joins acc w then s.scrubGather sl ctx o k (n + 1) (acc ++ [(n, w)]) else (acc, n)

/-- The next access of the pass in progress: its lines with what is behind them; none when none is left. -/
def State.passAccess (s : State) (sl : Nat) (p : ScrubPass) : Option (List (Nat × Spot) × Nat) :=
  if p.stopped ∨ p.range ∨ p.last ≤ p.next then none
  else match p.slot with
    | some (j, no) => match s.instNo sl j no with
      | some i => some (s.scrubGather sl (s.slotCtx sl j) (srcOf (s.opsNow sl i)) 8 p.next [])
      | none => none
    | none =>
      let hi := min p.last (p.next / 8 * 8 + 8)
      some ((List.range (hi - p.next)).map (fun k => (p.next + k, Spot.mem (sl * 262144 + p.next + k) 0)), hi)

/-- The reduction tree has every sum of the block. -/
def State.sumsDone (s : State) (sl j : Nat) (i : Inst) : Bool :=
  let os := s.opsNow sl i
  if i.op = 0x34 then s.gemvDone sl (s.slotCtx sl j) i os
  else
    (s.nextRead sl j i os).isNone && i.buf.isEmpty &&
      !((s.slot sl j).accs.any fun a => decide (a.no = i.no) && decide (a.kind = .read) && !a.dropped)

/-- The result stays in the accumulators (R181). -/
def Inst.nout (i : Inst) : Bool := decide (i.op = 0x34) && flag i.word 5

/-- The next output lines of the reduction tree, once it has every sum, with the walk line behind them. -/
def State.treeNext (s : State) (sl j : Nat) (i : Inst) : Option (List (Nat × Spot) × Nat) :=
  if (i.op ≠ 0x34 ∧ i.op ≠ 0x35) ∨ i.taken = false ∨ i.nout ∨ s.sumsDone sl j i = false then none
  else some (s.strikeGather sl i (s.slotCtx sl j) true (dstOf i (s.opsNow sl i)) (fun _ => true) 8 i.wpos [])

/-- Lines lie in a fenced bank of the slice. -/
def State.linesFenced (s : State) (sl : Nat) (l : List (Nat × Spot)) : Bool :=
  l.any fun p => match p.2 with
    | .mem g _ => decide (glSlice g = sl) && s.bankFenced sl (glBank g)
    | _ => false

/-- A fence holds a step of the strike operation of a slot (R86, R250). -/
def State.stepsFenced (s : State) (sl j : Nat) : Bool :=
  match s.strikeInst sl j with
  | none => false
  | some i =>
    let os := s.opsNow sl i
    (if i.op = 0x34 then i.taken && (List.range 64).any fun b => s.bankFenced sl b && (match s.bankNext sl (s.slotCtx sl j) i os b with
        | .done => false
        | _ => true)
     else (s.nextSteps sl j i).any fun t => s.linesFenced sl t.lines) ||
    (match s.treeNext sl j i with
      | some g => s.linesFenced sl g.1
      | none => false)

/-- The next slice-local line of the idle patrol. -/
def State.patrolLine (s : State) (sl : Nat) : Nat := s.getF (A.scrubPatrol sl) 5 18

/-- The idle patrol presents a stroke on a bank set: IDLE is set, no pass runs and no bank of the stroke is fenced. -/
def State.patrolOn (s : State) (sl bset : Nat) : Bool :=
  s.getB (A.scrubPatrol sl) 4 && (s.slice sl).scrub.isNone && decide (glSet (s.patrolLine sl) = bset) &&
    !((List.range 8).any fun k => s.bankFenced sl (8 * bset + k))

/-- A fence holds the next access of a slot's scrub pass. -/
def State.passFenced (s : State) (sl j : Nat) : Bool :=
  match (s.slice sl).scrub with
  | some p => (match p.slot with
      | some q => decide (q.1 = j)
      | none => false) && (match s.passAccess sl p with
      | some g => s.linesFenced sl g.1
      | none => false)
  | none => false

/-- A fence holds an access of a slot: one answered FENCED, one to a fenced bank of its own slice, a packet to another chip, or
work beside the banks (R86). -/
def State.fenceHeld (s : State) (sl j : Nat) : Bool :=
  ((s.slot sl j).accs.any fun a => a.held ||
    (!a.issued && !a.dropped && decide (a.req.home = sl) && a.req.lines.any fun l => s.bankFenced sl (a.req.bankOf l))) ||
  (s.fabric.outbound.any fun (o : FpOut) => decide (o.sl = sl) && decide (o.slot = j) && o.retry.isSome) ||
  s.stepsFenced sl j || s.passFenced sl j ||
  ((s.slot sl j).insts.any fun i => (firstGroups i.wipe).any fun g => s.bankFenced sl g.bank)

/-- Every source line that destination line `n` needs has been read. -/
def haveLines (dst src : Operand) (ls : Lines) (n : Nat) : Bool :=
  (neededLines dst src n).all fun m => (ls m).isSome

/-- Line offsets of lines in memory. -/
def ringOffs (l : List (Nat × Spot)) : List Nat := l.filterMap fun p => match p.2 with
  | .mem _ o => some o
  | _ => none

/-- The handles of the rings whose guards hold an access of a slot (R265, R279). -/
def State.guardHolds (s : State) (sl j : Nat) : List Nat :=
  let x := s.slot sl j
  let holds := fun (h : Nat) (write : Bool) (offs : List Nat) => if s.guardOf sl h write offs = .hold then [h] else []
  ((x.accs.filter fun a => !a.issued && !a.dropped && decide (s.accGuard sl a = .hold)).map SeAcc.handle) ++
  (match s.strikeInst sl j with
   | none => []
   | some i =>
     let os := s.opsNow sl i
     (if i.op = 0x34 then
        if i.taken = false then []
        else (List.range 64).flatMap fun b => match s.bankNext sl (s.slotCtx sl j) i os b with
          | .element _ (.mem _ o) => holds (elOf os).handle false [o]
          | .scale _ (.mem _ o) => holds (scOf os).handle false [o]
          | _ => []
      else (s.nextSteps sl j i).flatMap fun t => if s.stepGuard sl i t = .hold then [s.stepHandle sl i t] else []) ++
     (match s.treeNext sl j i with
      | some g => holds (dstOf i os).handle true (ringOffs g.1)
      | none => [])) ++
  (x.insts.flatMap fun i => (firstGroups i.wipe).flatMap fun g => holds g.handle true g.offs) ++
  (match x.followInst with
   | some i =>
     if i.op ≠ 0x21 then []
     else match s.blockOps sl i i.wblk with
       | some os =>
         let dst := os.getD 1 Operand.none
         let r := (s.nextAccess sl (s.slotCtx sl j) true dst i.wpos).1
         if r.all fun p => haveLines dst (srcOf os) (i.lines i.wblk) p.1 then holds dst.handle true (ringOffs r) else []
       | none => []
   | none => [])

/-- Blocks of a slot may begin: its context is RUN, and no fence holds the stream (R86, R171). -/
def State.blocksMay (s : State) (sl j : Nat) : Bool := s.ctxRuns sl j && !(s.fenceHeld sl j)

/-! ### Instruction fetch (R167) -/

/-- The fetch-buffer line that a slot wants next: that of PC, else the one behind it while PC lies in the last line
held. DESIGN CHOICE (R167): where only one line is buffered, after a start or a branch, the line behind it is fetched at once;
the spec says only when the fetch begins with two lines buffered. -/
def State.wantLine (s : State) (sl j : Nat) : Option Nat :=
  let x := s.slot sl j
  let n := s.pc sl j / 8
  let known := fun m => (x.line m).isSome || (x.badFetch.any fun b => b.1 = m) ||
    (x.accs.any fun a => a.kind = .fetch ∧ !a.dropped ∧ a.offs.contains m)
  if !(known n) then some n else if !(known (n + 1)) ∧ (x.line n).isSome ∧ (x.fetched.all fun f => f.1 ≤ n) then some (n + 1) else none

/-- Lead presents an instruction fetch. -/
def State.pumpFetch (s : State) (sl j : Nat) : State :=
  let x := s.slot sl j
  if x.accs.any fun a => a.kind = .fetch ∧ !a.dropped then s
  else match s.wantLine sl j with
    | none => s
    | some n =>
      let w := s.spotOf sl (s.slotCtx sl j) (s.prog sl j) false n
      s.addAcc sl j { s.formAcc sl j .fetch x.nextNo 0 (s.prog sl j) [(n, w)] (n + 1) noData with offs := [n] }

/-! ### Descriptor bursts (R207) -/

/-- The first block of an instruction, from the one next to be written on, that has not begun. -/
def Inst.missing (i : Inst) : Nat :=
  let hi := if leadReads i.op then i.rblk else i.wblk
  match (List.range (hi - i.wblk)).find? fun k => (i.blockDescs (i.wblk + k)).isNone with
  | some k => i.wblk + k
  | none => if (i.blockDescs hi).isSome then hi + 1 else hi

/-- The descriptor lines of an instruction from its first block not yet begun. -/
def Inst.descNeeds (i : Inst) : List (Nat × Nat) :=
  let from' := i.missing
  if i.abandoned ∨ !(isBlock i.op) then []
  else ((List.range (min 32 (i.count - from'))).flatMap fun b =>
    (List.range (descsPer i.op)).map fun t => (from' + b, i.descLine (from' + b) t)).take 64

/-- A buffered descriptor. -/
def Slot.desc (x : Slot) (h n : Nat) : Option Line :=
  match x.descs.find? fun d => d.handle = h ∧ d.line = n with
  | some d => some d.data
  | none => none

/-- The first descriptor that the slot needs and does not hold, in program order: instruction, block, line. -/
def Slot.firstNeed (x : Slot) : Option (Inst × Nat × Nat) :=
  x.insts.findSome? fun i =>
    match i.descNeeds.find? fun d => (x.desc i.listHandle d.2).isNone with
    | some d => some (i, d.1, d.2)
    | none => none

/-- An instruction still names a descriptor line for a block that has not issued its last access (R207). -/
def Inst.names (i : Inst) (h n : Nat) : Bool :=
  let b := if leadReads i.op then min i.rblk i.missing else i.missing
  !i.abandoned && isBlock i.op && decide (i.listHandle = h) && decide (i.descLine b 0 ≤ n) && decide (n < i.descLine i.count 0)

/-- An entry of the descriptor buffer is not free: a block that has not issued its last access names it. DEDUCED (R207): an
entry that no block names, for which the spec gives no clk, is free, since a wait for entries always ends. -/
def Slot.descBusy (x : Slot) (d : DescEntry) : Bool := x.insts.any fun i => i.names d.handle d.line

/-- Entries of the descriptor buffer that a burst may take: unused, or free. -/
def Slot.descRoom (x : Slot) : Nat :=
  let busy := (x.descs.filter x.descBusy).length
  let coming := if x.accs.any fun a => a.kind = .desc ∧ !a.dropped then 16 else 0
  32 - busy - coming

/-- The lines of burst `q` of a block-list handle that lie below its HI. -/
def State.burstLines (s : State) (sl h q : Nat) : List Nat :=
  (List.range 16).map (fun k => 16 * q + k) |>.filter fun n => decide (n < (s.handle sl h).hi)

/-- Splits the lines of a burst into accesses (R205). -/
def State.splitBurst (s : State) (sl ctx h : Nat) : List Nat → List (List (Nat × Spot))
  | [] => []
  | n :: rest =>
    let w := s.spotOf sl ctx h false n
    match s.splitBurst sl ctx h rest with
    | [] => [[(n, w)]]
    | g :: more =>
      if g.length < 8 ∧ joins (g.reverse) w ∧ (n + 1) % 8 ≠ 0 then ((n, w) :: g) :: more else [(n, w)] :: g :: more

/-- Lead starts a burst for the first descriptor that a slot needs and does not hold, while 16 entries are free. A
needed descriptor that a check refuses, or that came back with a halting code, stops the slot when its block is to begin:
where Lead reads for the instruction, behind the blocks before it (R184, R185). -/
def State.pumpDesc (s : State) (sl j : Nat) : State :=
  let x := s.slot sl j
  if x.accs.any fun a => a.kind = .desc ∧ !a.dropped then s
  else match x.firstNeed with
    | none => s
    | some (i, b, n) =>
      if x.free i.no = false then s else
      let h := i.listHandle
      let cur := i.missing
      let code := match x.badDesc.find? fun d => d.1 = h ∧ d.2.1 = n with
        | some d => some d.2.2
        | none => match s.spotOf sl (s.slotCtx sl j) h false n with
          | .bad c => some c
          | _ => none
      match code with
      | some c =>
        if b = cur ∧ cur ≤ (if leadReads i.op then i.rblk else i.wblk) then
          s.setHalt sl j { no := i.no, blk := b, elem := 0, read := leadReads i.op, code := c, addr := none } x.nextAcc
        else s
      | none =>
        if x.descRoom < 16 then s
        else
          (s.splitBurst sl (s.slotCtx sl j) h (s.burstLines sl h (n / 16))).foldl (fun (t : State) g =>
            t.addAcc sl j { t.formAcc sl j .desc i.no (n / 16) h g 0 noData with offs := g.map Prod.fst }) s

/-! ### Blocks -/

/-- The descriptors of block `b` in the descriptor buffer, if all are there. -/
def Slot.blockLines (x : Slot) (i : Inst) (b : Nat) : Option (List Line) :=
  (List.range (descsPer i.op)).mapM fun t => x.desc i.listHandle (i.descLine b t)

/-- The vector-buffer lines that a GEMV block's vector descriptor names, and the code of the first that fails its
check (R243, R268). -/
def State.vectorCheck (s : State) (sl ctx : Nat) (o : Operand) : List Nat × Option Nat :=
  (List.range o.walkLines).foldl (fun (r : List Nat × Option Nat) n =>
    if o.used n = false then r
    else match s.spot sl ctx false o n with
      | .vec l => (r.1 ++ [l], r.2)
      | .bad c => (r.1, if r.2.isSome then r.2 else some c)
      | _ => (r.1, if r.2.isSome then r.2 else some 0x01)) ([], none)

/-- The vector-buffer lines that the source of a REDUCE names (R268). -/
def State.sourceVec (s : State) (sl ctx : Nat) (o : Operand) : List Nat :=
  ((List.range o.walkLines).filter o.used).filterMap fun n => match s.spot sl ctx false o n with
    | .vec l => some l
    | _ => none

/-- Block `b` of an instruction begins: its descriptors are taken from the buffer and checked (R202). A block that fails is the
first work not done: where Lead reads for the instruction, the blocks before it are still written (R185). Until stage B10 a
block of FILL to SCRUB, and any MCAST, is refused (R338). -/
def State.beginBlock (s : State) (sl j : Nat) (i : Inst) (b : Nat) : State :=
  match (s.slot sl j).blockLines i b with
  | none => s
  | some ds =>
    let os := (List.range (descsPer i.op)).map fun t => s.operand sl i ds t
    let ctx := s.slotCtx sl j
    let v := if i.op = 0x34 then s.vectorCheck sl ctx (os.getD 2 Operand.none)
      else if i.op = 0x35 then (s.sourceVec sl ctx (os.getD 0 Operand.none), none) else ([], none)
    let early := (decide (0x30 ≤ i.op) || decide (i.op = 0x21)) && !(s.getB A.glbState 6)
    let code := if early then some 0x0F else if s.badBlock sl i os then some 0x0D else v.2
    match code with
    | some c =>
      s.setHalt sl j { no := i.no, blk := b, elem := 0, read := leadReads i.op, code := c, addr := none } (s.slot sl j).nextAcc
    | none => s.putInst sl j { i with descs := i.descs ++ [(b, ds)], vecLines := if v.1.isEmpty then i.vecLines else v.1 }

/-- The source walk line at which the reads of a block begin, for a walk line `e` of the position descriptor (R212). -/
def srcStart (os : List Operand) (op e : Nat) : Nat :=
  if e = 0 then 0
  else (os.getD 0 Operand.none).startAt ((os.getD (positionIx op) Operand.none).linePos e)

/-- A read of block `b` has been issued, or its data is held. -/
def Slot.touched (x : Slot) (i : Inst) (b : Nat) : Bool :=
  (x.accs.any fun a => decide (a.no = i.no) && decide (a.blk = b) && !a.dropped && (a.issued || a.held)) || (i.buf.any fun l => decide (l.blk = b))

/-- The reads of a block that has just begun start at the source position paired with its first walk line (R212). -/
def State.startReads (s : State) (sl j no : Nat) : State :=
  match (s.slot sl j).insts.find? fun k => k.no = no with
  | some i =>
    match s.blockOps sl i i.rblk with
    | some os =>
      if i.rpos ≠ 0 then s
      else s.putInst sl j { i with rpos := srcStart os i.op (if i.rblk = i.start then i.elem else 0) }
    | none => s
  | none => s

/-- Reads begin again at the first line whose write is not answered (R268). -/
def State.readAgain (s : State) (sl j : Nat) (i : Inst) : State :=
  let w := s.frontier sl j i
  let p := match s.blockOps sl i w.1 with
    | some os => srcStart os i.op w.2
    | none => 0
  s.putInst sl j { i with rblk := w.1, rpos := p, reread := false }

/-- While blocks may not begin, a read that Lead has formed and not presented, of a block of which none has been presented, is
taken back (R86, R171). -/
def State.takeBack (s : State) (sl j : Nat) : State :=
  if s.blocksMay sl j then s
  else s.modSlot sl j fun x => { x with accs := x.accs.filter fun a =>
    !(a.takes && !a.issued && !a.held && !a.dropped && (x.insts.any fun i => decide (i.no = a.no) && !(x.touched i a.blk) &&
      (decide (i.rblk ≠ i.wblk) || decide (i.wpos = 0)))) }

/-- Lead forms the next read of a slot: one access is formed at a time, in walk order (R205). A block begins when its
descriptors are buffered; one with nothing left to read is left behind. In a context that is not RUN, and while a fence holds
the stream, only blocks in progress go on (R86, R171). -/
def State.pumpRead (s : State) (sl j : Nat) : Nat → State
  | 0 => s
  | fuel + 1 =>
    let x := s.slot sl j
    match x.leadInst with
    | none => s
    | some i =>
      if x.free i.no = false ∨ (x.accs.any fun a => a.kind = .read ∧ !a.issued ∧ !a.dropped) then s
      else if i.reread then (if s.blocksMay sl j ∨ i.wpos ≠ 0 then (s.readAgain sl j i).pumpRead sl j fuel else s)
      else if i.missing ≤ i.rblk then
        (if s.blocksMay sl j ∧ (x.blockLines i i.missing).isSome then
          ((s.beginBlock sl j i i.missing).startReads sl j i.no).pumpRead sl j fuel
        else s)
      else if s.blocksMay sl j = false ∧ x.touched i i.rblk = false ∧ (i.rblk ≠ i.wblk ∨ i.wpos = 0) then s
      else match s.blockOps sl i i.rblk with
        | none => s
        | some os =>
          let src := os.getD 0 Operand.none
          let g := s.nextAccess sl (s.slotCtx sl j) false src i.rpos
          match g.1 with
          | [] => (s.putInst sl j { i with rblk := i.rblk + 1, rpos := 0 }).pumpRead sl j fuel
          | l => s.addAcc sl j (s.formAcc sl j .read i.no i.rblk src.handle l g.2 noData)

/-! ### Blocks of the strike path and the scrub engine -/

/-- Strike operations in flight in a slice (R225). -/
def State.opsInFlight (s : State) (sl : Nat) : Nat :=
  ((List.range 16).filter fun j => match (s.slot sl j).followInst with
    | some i => isStrike i.op && (i.blockDescs i.wblk).isSome
    | none => false).length

/-- A GEMV block with CONT set continues from the accumulators of its own slot, or is refused (R242). -/
def Inst.continues (i : Inst) : Bool := decide (i.op = 0x34) && flag i.word 4

/-- Every bank copies its accumulators into their shadows at the start of a block (R242). -/
def State.shadowAccs (s : State) (sl : Nat) : State :=
  s.each (List.range 64) fun t b => t.modBank sl b fun k => { k with shadow := k.accs }

/-- The first clk in which a block of the instruction may be worked on: every earlier write of the slot has been
answered. -/
def Slot.quietAt (x : Slot) (now : Nat) : Nat := x.insts.foldl (fun m i => max m i.lastStep) now

/-- The walk line at which a block's destination walk begins: ELEM for the first block of a resumed instruction, moved
back to the start of its MX block for a CONVERT into an MX format (R212); GEMV, REDUCE and SCRUB start anew. -/
def startElem (os : List Operand) (i : Inst) : Nat :=
  if i.wblk ≠ i.start ∨ i.op = 0x34 ∨ i.op = 0x35 ∨ i.op = 0x38 then 0
  else
    let o := os.getD (positionIx i.op) Operand.none
    if i.op = 0x33 ∧ isMx o.fmt ∧ i.elem < o.walkLines then o.startAt (o.linePos i.elem / 32 * 32) else i.elem

/-- The lines of a WIPE from walk line `n0` on (R204, R230). -/
def State.wipeLines (s : State) (sl ctx : Nat) (o : Operand) (n0 : Nat) : List (Nat × Spot) :=
  (List.range (o.walkLines - n0)).map fun d =>
    (n0 + d, match s.spot sl ctx true o (n0 + d) with
      | .mem g off => if glSlice g = sl then .mem g off else .bad 0x01
      | .vec l => .vec l
      | .host _ => .bad 0x0D
      | w => w)

/-- The lines before the first that a check refuses. -/
def goodLines (l : List (Nat × Spot)) : List (Nat × Spot) := l.takeWhile fun p => match p.2 with
  | .bad _ => false
  | _ => true

/-- A line of a WIPE joins the group of its bank and 64 lines. -/
def WipeGroup.add (h : Nat) (a : List WipeGroup) (n g off : Nat) : List WipeGroup :=
  let mine := fun (k : WipeGroup) => decide (k.bank = glBank g) && k.lines.any fun p => decide (p.2.1 / 64 = glRow g / 64)
  let put := fun (k : WipeGroup) => if mine k then { k with lines := k.lines ++ [(n, glRow g, off)] } else k
  if a.any mine then a.map put else a ++ [{ bank := glBank g, handle := h, lines := [(n, glRow g, off)] }]

/-- The groups of 64 bank-local lines that a WIPE touches, in the order in which its walk meets them (R46). -/
def wipeGroupsOf (h : Nat) (l : List (Nat × Spot)) : List WipeGroup :=
  l.foldl (fun (a : List WipeGroup) p => match p.2 with
    | .mem g off => WipeGroup.add h a p.1 g off
    | _ => a) []

/-- The clears of a WIPE block begin (R230): its lines pass R119 up to the first that does not. Lines of a VECTOR handle are
emptied at once. -/
def State.startWipe (s : State) (sl j : Nat) (i : Inst) : State :=
  let o := dstOf i (s.opsNow sl i)
  let good := goodLines (s.wipeLines sl (s.slotCtx sl j) o i.wpos)
  let t := good.foldl (fun (t : State) p => match p.2 with
    | .vec v => t.emptyVec sl v
    | _ => t) s
  t.modInst sl j i.no fun k => { k with wipe := wipeGroupsOf o.handle good, sent := true }

/-- Strokes of an earlier MCAST of a slot are not acknowledged by every receiver. -/
def State.strokesOpen (s : State) (sl j no : Nat) : Bool :=
  s.net.xfers.any fun (x : Xfer) =>
    decide (x.sl = sl) && decide (x.slot = j) && decide (x.no < no) && x.strokes.any x.open'

/-- The first clk in which the steps of a block may be taken: the present one, and, where one block of a WIPE follows another,
that in which the block before was cleared. -/
def Slot.beginsAt (x : Slot) (i : Inst) (now : Nat) : Nat :=
  x.quietAt (if i.op = 0x36 ∧ i.wblk ≠ i.start then 0 else now)

/-- A block of FILL to SCRUB begins once its descriptors are buffered, every earlier write of the slot has been answered
and the sequencer has room (R166, R225). -/
def State.pumpBlock (s : State) (sl j : Nat) : State :=
  let x := s.slot sl j
  match x.followInst with
  | none => s
  | some i =>
    let writes := x.accs.any fun a => a.kind = .write ∧ !a.dropped
    if i.op < 0x30 ∨ !(isBlock i.op) ∨ (i.blockDescs i.wblk).isSome ∨ s.blocksMay sl j = false ∨ x.free i.no = false ∨
        writes ∨ s.outOpen sl j i.no ∨ s.strokesOpen sl j i.no ∨ (isStrike i.op ∧ 8 ≤ s.opsInFlight sl) ∨
        (x.blockLines i i.wblk).isNone then s
    else
      let t := s.beginBlock sl j i i.wblk
      match (t.slot sl j).insts.find? fun k => k.no = i.no with
      | none => t
      | some k =>
        if (t.slot sl j).halt.isSome then t
        else
          let os := (t.blockOps sl k k.wblk).getD []
          let w := startElem os k
          let k : Inst := { k with
            wpos := w, rpos := srcStart os k.op w, cursor := [], latch := [], halves := [], taken := false, tree := none
            buf := [], scales := [], out := [], flights := [], began := x.beginsAt k s.now }
          let u := t.putInst sl j k
          if k.op = 0x36 then u.startWipe sl j k
          else if k.op = 0x34 then
            let u := u.modSlice sl fun y => { y with latches := y.latches.filter fun e => match e.2 with
              | some a => decide (a.slot ≠ j)
              | none => true }
            if k.continues then
              (if u.holdsAccs sl j then (u.shadowAccs sl).putInst sl j { k with taken := true }
               else u.setHalt sl j { no := k.no, blk := k.wblk, elem := 0, read := false, code := 0x0D, addr := none })
            else u
          else u

/-- The bytes of destination walk line `n` of a MOVE block. -/
def moveData (dst src : Operand) (ls : Lines) : LineData := fun n =>
  let d := moveLine dst src ls n
  (d.1, dst.byteEns n, d.2)

/-- Lead can read no further for want of data entries. -/
def State.stuck (s : State) (sl j : Nat) : Bool := !(s.entryFree sl (s.slotClass sl j) 1)

/-- The lines of a MOVE's next write that can be formed: those of the group whose data has come; a group is cut short
only where Lead can read no further. -/
def State.readyGroup (s : State) (sl j : Nat) (dst src : Operand) (ls : Lines) (l : List (Nat × Spot)) :
    List (Nat × Spot) :=
  let have' := l.takeWhile fun p => haveLines dst src ls p.1
  if have'.length = l.length ∨ s.stuck sl j ∨ (s.slot sl j).halt.isSome then have' else []

/-- Follow forms the next write of a MOVE (R166, R201, R205). A block with nothing left to write is complete. -/
def State.pumpMove (s : State) (sl j : Nat) : Nat → State
  | 0 => s
  | fuel + 1 =>
    let x := s.slot sl j
    match x.followInst with
    | none => s
    | some i =>
      if i.op ≠ 0x20 ∨ (x.accs.any fun a => a.kind = .write ∧ !a.issued ∧ !a.dropped) then s
      else match s.blockOps sl i i.wblk with
        | none => s
        | some os =>
          let src := os.getD 0 Operand.none
          let dst := os.getD 1 Operand.none
          let g := s.nextAccess sl (s.slotCtx sl j) true dst i.wpos
          match g.1 with
          | [] =>
            if i.rblk ≤ i.wblk then s
            else (s.putInst sl j (s.prune sl j { i with wblk := i.wblk + 1, wpos := 0 })).pumpMove sl j fuel
          | (n, .bad c) :: _ =>
            if haveLines dst src (i.lines i.wblk) n then
              (if x.accs.any fun a => a.kind = .write ∧ a.no = i.no then s
               else s.setHalt sl j { no := i.no, blk := i.wblk, elem := n, read := false, code := c, addr := none })
            else s
          | l =>
            let ok := match x.halt with
              | some h => decide (i.no < h.no) || (h.read && decide (i.no = h.no))
              | none => true
            let r := s.readyGroup sl j dst src (i.lines i.wblk) l
            let next := if r.length = l.length then g.2 else (r.getLast?.map fun p => p.1 + 1).getD i.wpos
            if ok && !r.isEmpty then
              s.addAcc sl j (s.formAcc sl j .write i.no i.wblk dst.handle r next (moveData dst src (i.lines i.wblk)))
            else s

/-- A line of an outbound transfer whose write has been answered. -/
def Inst.outDone (i : Inst) (b n : Nat) : Bool := i.doneLines.contains (b * 2 ^ 24 + n)

/-- The next walk line of block `b` that an outbound transfer has to send, from `n` on. -/
def Inst.outNext (i : Inst) (dst : Operand) (b n : Nat) : Option Nat :=
  ((List.range (dst.walkLines - n)).map fun k => n + k).find? fun k => dst.used k && !(i.outDone b k)

/-- Blocks of a REMOTE or TOLL with no line left to send are complete. -/
def State.pumpOut (s : State) (sl j : Nat) : Nat → State
  | 0 => s
  | fuel + 1 =>
    match (s.slot sl j).followInst with
    | none => s
    | some i =>
      if (i.op ≠ 0x22 ∧ i.op ≠ 0x23) ∨ i.rblk ≤ i.wblk then s
      else match s.blockOps sl i i.wblk with
        | none => s
        | some os =>
          if (i.outNext (os.getD 1 Operand.none) i.wblk i.wpos).isSome then s
          else (s.putInst sl j (s.prune sl j { i with wblk := i.wblk + 1, wpos := 0 })).pumpOut sl j fuel

/-- The instruction at PC could be decoded, but its line came back with a halting code: the slot stops (R184). -/
def State.pumpBadFetch (s : State) (sl j : Nat) : State :=
  let x := s.slot sl j
  match x.badFetch.find? fun b => b.1 = s.pc sl j / 8 with
  | some b => if x.hold = .none ∧ x.halt.isNone then s.haltAtPc sl j b.2 else s
  | none => s

/-- A slot forms every access that it can present, and a pending fault stops it once it is due. -/
def State.pump (s : State) (sl j : Nat) : State :=
  if s.slotWorks sl j = false then s
  else
    let s := s.takeBack sl j
    let t := if s.ctxRuns sl j ∧ (s.slot sl j).halt.isNone then (s.pumpFetch sl j).pumpBadFetch sl j else s
    let t := if s.ctxRuns sl j then t.pumpDesc sl j else t
    let t := t.pumpRead sl j 8
    (((t.pumpMove sl j 8).pumpOut sl j 8).pumpBlock sl j).settleHalt sl j

/-- Every slot of a slice does so. -/
def State.pumpSlice (s : State) (sl : Nat) : State := s.each (List.range 16) fun t j => t.pump sl j

end Sys2Proof.Machine
end

