-- ==== Sys2Proof/Machine/Rudiment.lean ====
section
/-! DEFINITION. Stream slots under way (R163, R168 to R171, R186) and the instructions of Rudiment (R172 to R183):
Lead's decode, and what Follow executes once all earlier work has retired. -/

namespace Sys2Proof.Machine

/-! ### Instructions (R172, R173, R181) -/

/-- The opcodes of R173 and R181. -/
def opcodes : List Nat :=
  [0x00, 0x01, 0x02, 0x08, 0x09, 0x0A, 0x0B, 0x10, 0x11, 0x18, 0x19, 0x1A, 0x1B, 0x20, 0x21, 0x22, 0x23, 0x28, 0x30,
   0x31, 0x32, 0x33, 0x34, 0x35, 0x36, 0x38]

/-- A field holds a value that its table marks as reserved. -/
def reservedField (w : Word) : Bool :=
  let op := opOf w
  if op = 0x0A then decide (fld w 54 2 = 3)
  else if op = 0x10 then decide (fld w 46 2 = 3)
  else if op = 0x11 then decide (11 ≤ fld w 44 4)
  else if op = 0x28 then decide (fld w 38 2 = 3)
  else if op = 0x32 then decide (fld w 0 2 = 3) || decide (fld w 2 2 = 3)
  else if op = 0x33 ∨ op = 0x34 then decide (fld w 2 2 = 3)
  else if op = 0x35 then decide (2 ≤ fld w 0 2) || decide (fld w 2 2 = 3)
  else false

/-- Lead takes the instruction; any other raises ILLEGAL_OP. -/
def legalOp (w : Word) : Bool := opcodes.contains (opOf w) && !(reservedField w)

/-- The instruction reaches Follow, and holds a command record until it retires (R162). -/
def reachesFollow (op : Nat) : Bool := isBlock op || [0x01, 0x02, 0x0B, 0x19, 0x28].contains op

/-! ### Lead's turns (R163) -/

/-- The group of an MCAST carries a transfer, which holds it in Lead (R144). -/
def State.groupBusy (s : State) (g : Nat) : Bool := s.net.xfers.any fun (x : Xfer) => decide (x.g = g)

/-- Lead could decode the next instruction of the slot, but for a command record: it is RUN and its context is, the
instruction is buffered, the slot is not held or about to stop, and the group that the instruction needs is free. -/
def State.couldDecode (s : State) (sl j : Nat) : Bool :=
  let x := s.slot sl j
  decide (s.slotState sl j = 2) && s.ctxRuns sl j && s.engineMay sl && decide (x.hold = .none) && x.halt.isNone &&
    (match s.instrAt sl j with
     | none => false
     | some w => !(legalOp w) || !(decide (opOf w = 0x21) && decide (fld w 16 16 ≠ 0) && s.groupBusy (fld w 0 4)))

/-- The slot's next instruction needs a command record (R162). -/
def State.needsRecord (s : State) (sl j : Nat) : Bool :=
  match s.instrAt sl j with
  | some w => legalOp w && reachesFollow (opOf w)
  | none => false

/-- Slots that find no command record free ask for one, each as it comes to Lead's turn (R162). -/
def State.askRecords (s : State) (sl : Nat) : State :=
  let wants := fun (j : Nat) => s.couldDecode sl j && s.needsRecord sl j
  let turns := (List.range 16).map fun k => ((s.slice sl).leadTurn + 1 + k) % 16
  let old := (s.slice sl).recWait.filter wants
  let new := if s.recordsUsed sl < 256 then [] else turns.filter fun j => wants j && !(old.contains j)
  if old ++ new = (s.slice sl).recWait then s else s.modSlice sl fun x => { x with recWait := old ++ new }

/-- A command record is free for the slot: those that asked before it come first (R162). -/
def State.recordFree (s : State) (sl j : Nat) : Bool :=
  let l := (s.slice sl).recWait
  decide (l.idxOf j + s.recordsUsed sl < 256)

/-- Lead could decode the next instruction of the slot. -/
def State.ready (s : State) (sl j : Nat) : Bool := s.couldDecode sl j && (!(s.needsRecord sl j) || s.recordFree sl j)

/-- The slot whose turn it is: the first ready one after the slot served last. -/
def State.leadSlot (s : State) (sl : Nat) : Option Nat :=
  ((List.range 16).map fun k => ((s.slice sl).leadTurn + 1 + k) % 16).find? fun j => s.ready sl j

/-- Lead decodes an instruction of opcode `op` in slot `j`, in the first clk in which it decodes again; nothing happens
where that is not the next instruction or not the slot's turn. -/
def State.decode (s : State) (sl j op : Nat) (f : State → Word → State) : State :=
  let s := (s.pumpSlice sl).askRecords sl
  match s.instrAt sl j with
  | none => s
  | some w =>
    if s.leadSlot sl = some j ∧ opOf w = op ∧ legalOp w then
      let t := s.reach (s.slice sl).leadAt
      let t := t.modSlice sl fun x => { x with leadTurn := j, leadAt := t.now + 1, recWait := x.recWait.erase j }
      (f t w).pumpSlice sl
    else s

/-- PC moves by `d` instructions. A target line outside the fetch buffer empties it (R167); a target that no program
handle can hold faults RANGE (R172). -/
def State.branch (s : State) (sl j : Nat) (d : Int) : State :=
  let target := (s.pc sl j : Int) + d
  if target < 0 ∨ 2 ^ 27 ≤ target then s.haltAtPc sl j 0x01
  else
    let t := s.setPc sl j target.toNat
    if ((s.slot sl j).line (target.toNat / 8)).isSome then t
    else t.modSlot sl j fun x =>
      { x with
        fetched := [], badFetch := []
        accs := (x.accs.filter fun a => a.kind ≠ .fetch ∨ a.issued).map fun a =>
          if a.kind = .fetch then { a with dropped := true } else a }

/-- Sets an S register. -/
def State.setSreg (s : State) (sl j n v : Nat) : State := s.putF (A.seSreg sl j (n / 2)) (32 * (n % 2)) 32 v

/-- L register `n` of a slot. -/
def State.lreg (s : State) (sl j n : Nat) : Nat := s.getF (A.seSlotLoop sl j) (16 * n) 16

/-- Sets an L register. -/
def State.setLreg (s : State) (sl j n v : Nat) : State := s.putF (A.seSlotLoop sl j) (16 * n) 16 v

/-- S[SX], where the instruction has SX at [51:48]. -/
def State.sx (s : State) (sl j : Nat) (w : Word) : Nat := s.sreg sl j (fld w 48 4)

/-- BEAT0 of a slot. -/
def State.beat0 (s : State) (sl j : Nat) : Nat := s.getF (A.seSlotBeat0 sl j) 0 48

/-! ### Branch and register instructions (R174, R175) -/

/-- NOP (R179). -/
def execNop (sl slot : Nat) (s : State) : Out := s.onSlot sl slot (s.decode sl slot 0x00 fun t _ => t.nextPc sl slot)

/-- LOOP. -/
def State.loopInstr (s : State) (sl j : Nat) (w : Word) : State :=
  let n := if flag w 53 then s.sx sl j w % 65536 else fld w 0 16
  if n = 0 then s.branch sl j (fld w 32 16) else (s.setLreg sl j (fld w 54 2) n).nextPc sl j

def execLoop (sl slot : Nat) (s : State) : Out := s.onSlot sl slot (s.decode sl slot 0x08 fun t w => t.loopInstr sl slot w)

/-- ENDL. -/
def State.endlInstr (s : State) (sl j : Nat) (w : Word) : State :=
  let n := s.lreg sl j (fld w 54 2)
  if 1 < n then (s.setLreg sl j (fld w 54 2) (n - 1)).branch sl j (sext 24 (fld w 0 24))
  else (s.setLreg sl j (fld w 54 2) 0).nextPc sl j

def execEndl (sl slot : Nat) (s : State) : Out := s.onSlot sl slot (s.decode sl slot 0x09 fun t w => t.endlInstr sl slot w)

/-- JUMP. -/
def State.jumpInstr (s : State) (sl j : Nat) (w : Word) : State :=
  let c := fld w 54 2
  let v := s.sx sl j w
  if c = 0 ∨ (c = 1 ∧ v = 0) ∨ (c = 2 ∧ v ≠ 0) then s.branch sl j (sext 24 (fld w 0 24)) else s.nextPc sl j

def execJump (sl slot : Nat) (s : State) : Out := s.onSlot sl slot (s.decode sl slot 0x0A fun t w => t.jumpInstr sl slot w)

/-- SETH: offsets are modulo 2^25. -/
def State.sethInstr (s : State) (sl j : Nat) (w : Word) : State :=
  let a := A.seHreg sl j (fld w 53 3)
  let m := fld w 46 2
  let o := fld w 0 25
  if m = 1 then (s.putF a 16 25 (wrapTo 25 ((s.getF a 16 25 : Int) + sext 25 o))).nextPc sl j
  else
    let h := if flag w 52 then s.sx sl j w % 4096 else fld w 25 12
    let v := if m = 0 then o else s.sreg sl j (fld w 42 4) + o
    ((s.putF a 0 12 h).putF a 16 25 v).nextPc sl j

def execSeth (sl slot : Nat) (s : State) : Out := s.onSlot sl slot (s.decode sl slot 0x10 fun t w => t.sethInstr sl slot w)

/-- The result of SETS, modulo 2^32: `a` is S[SA], `imm` is IMM, `b` is S[IMM[3:0]] and `l` is L[IMM[1:0]]. -/
def setsValue (sop a imm b l : Nat) : Nat :=
  let x : BitVec 32 := BitVec.ofNat 32 a
  let y : BitVec 32 := BitVec.ofNat 32 imm
  let r : BitVec 32 :=
    if sop = 0 then y else if sop = 1 then x + y else if sop = 2 then x - y else if sop = 3 then x * y
    else if sop = 4 then x &&& y else if sop = 5 then x ||| y else if sop = 6 then x ^^^ y
    else if sop = 7 then x <<< (imm % 32) else if sop = 8 then x >>> (imm % 32)
    else if sop = 9 then x + BitVec.ofNat 32 b else BitVec.ofNat 32 l
  r.toNat

/-- SETS. -/
def State.setsInstr (s : State) (sl j : Nat) (w : Word) : State :=
  let imm := fld w 0 32
  let v := setsValue (fld w 44 4) (s.sreg sl j (fld w 48 4)) imm (s.sreg sl j (imm % 16)) (s.lreg sl j (imm % 4))
  (s.setSreg sl j (fld w 52 4) v).nextPc sl j

def execSets (sl slot : Nat) (s : State) : Out := s.onSlot sl slot (s.decode sl slot 0x11 fun t w => t.setsInstr sl slot w)

/-! ### Waiting (R176) -/

/-- The blocking take of a WAIT in slot `j`, behind those of lower slots: it takes the count, or leaves the slot held (R258,
R259). -/
def State.waitTake (s : State) (sl j : Nat) (room : Bool) (pair n : Nat) : State :=
  let t := s.waitsTake sl pair room j
  let u := t.claveTake sl pair room n
  if u.1 then u.2.satisfied sl j else t.modSlot sl j fun x => { x with hold := .wait room pair n }

/-- WAIT; DENIED where the slot's context may not operate the pair (R257). -/
def State.waitInstr (s : State) (sl j : Nat) (w : Word) : State :=
  let pair := fld w 40 8
  let n := if flag w 52 then s.sx sl j w % 65536 else fld w 0 16
  if s.claveMay sl pair (s.slotCtx sl j) = false then s.haltAtPc sl j 0x02
  else s.waitTake sl j (flag w 55) pair n

def execWait (sl slot : Nat) (s : State) : Out := s.onSlot sl slot (s.decode sl slot 0x18 fun t w => t.waitInstr sl slot w)

/-- A held WAIT is tested again: in RUN it takes its count when the counter holds it, behind slots of lower numbers. -/
def State.waitAgain (s : State) (sl j : Nat) : State :=
  match (s.slot sl j).hold with
  | .wait room pair _ =>
    if s.slotState sl j = 2 ∧ s.ctxRuns sl j then (s.waitsTake sl pair room (j + 1)).pumpSlice sl else s
  | _ => s

def execWaitSatisfied (sl slot : Nat) (s : State) : Out := s.onSlot sl slot (s.waitAgain sl slot)

/-- The beat that an OFS field and S[SX] name (R176, R179). -/
def State.beatTarget (s : State) (sl j : Nat) (w : Word) : Nat :=
  s.beat0 sl j + fld w 0 32 + if flag w 52 then s.sx sl j w else 0

/-- WAITBEAT. -/
def State.waitbeatInstr (s : State) (sl j : Nat) (w : Word) : State :=
  let n := s.beatTarget sl j w
  if s.beatReached n then s.satisfied sl j else s.modSlot sl j fun x => { x with hold := .beat n }

def execWaitbeat (sl slot : Nat) (s : State) : Out :=
  s.onSlot sl slot (s.decode sl slot 0x1A fun t w => t.waitbeatInstr sl slot w)

/-! ### Instructions that reach Follow -/

/-- The command record of the instruction at PC (R162, R164). A covered block instruction takes one from the coverage of
the slot's deadline (R215); one that a missed deadline abandons is abandoned at decode (R218). -/
def State.newInst (s : State) (sl j : Nat) (w : Word) : Inst :=
  let x := s.slot sl j
  let block := isBlock (opOf w)
  let covers := block && s.getB (A.seSlotDl sl j) 48 && decide (s.getF (A.seSlotDl sl j) 50 8 ≠ 0)
  let spare := decide (opOf w = 0x22) || decide (opOf w = 0x23)
  { no := x.nextNo, pc := s.pc sl j, word := w
    h := (List.range 8).map (s.hreg sl j), sr := (List.range 16).map (s.sreg sl j)
    start := 0, elem := 0, covered := covers, abandoned := block && decide (x.toAbandon ≠ 0) && !spare
    rblk := 0, rpos := 0, reread := false, wblk := 0, wpos := 0, descs := [], buf := [], doneLines := [], scales := []
    out := [], flights := [], cursor := [], latch := [], halves := [], taken := false, lastStep := 0, tree := none
    sent := false, wipe := [], vecLines := [], began := 0, carry := none }

/-- Lead hands an instruction to Follow. -/
def State.pushInst (s : State) (sl j : Nat) (i : Inst) : State :=
  let t := s.modSlot sl j fun x =>
    { x with insts := x.insts ++ [i], nextNo := x.nextNo + 1, followAt := max x.followAt (s.now + 1)
             toAbandon := if isBlock i.op then x.toAbandon - 1 else x.toAbandon }
  if i.covered then t.putF (A.seSlotDl sl j) 50 8 (t.getF (A.seSlotDl sl j) 50 8 - 1) else t

/-- The first instruction in Follow, where it has opcode `op` and so every earlier instruction has retired. -/
def Slot.headIs (x : Slot) (op : Nat) : Option Inst :=
  match x.insts with
  | i :: _ => if i.op = op then some i else none
  | [] => none

/-- The instruction at the head of Follow retires in the present clk (R166). -/
def State.dropHead (s : State) (sl j : Nat) : State :=
  s.modSlot sl j fun x => { x with insts := x.insts.drop 1, followAt := s.now + 1 }

/-- Follow executes the instruction of opcode `op` at its head, in the first clk after the earlier ones have retired. -/
def State.follow (s : State) (sl j op : Nat) (f : State → Inst → State) : State :=
  match (s.slot sl j).headIs op with
  | none => s
  | some i =>
    let x := s.slot sl j
    if s.slotState sl j ≠ 2 ∨ x.free i.no = false ∨ i.sent ∨ s.ctxRuns sl j = false ∨ s.engineMay sl = false then s
    else (f (s.reach x.followAt) i).pumpSlice sl

/-- An instruction that Lead decodes and Follow executes. Lead decodes it, unless Follow holds one already, and Follow
executes it at once where nothing is before it. `hold` tells whether Lead stops at it. -/
def State.leadFollow (s : State) (sl j op : Nat) (hold : Bool) (f : State → Inst → State) : State :=
  let s := s.pumpSlice sl
  if ((s.slot sl j).headIs op).isSome ∧ s.leadSlot sl ≠ some j then s.follow sl j op f
  else
    let t := s.decode sl j op fun t w =>
      let u := t.pushInst sl j (t.newInst sl j w)
      if hold then u.modSlot sl j fun x => { x with hold := .follow } else u.nextPc sl j
    t.follow sl j op f

/-! ### HALT, MARK, SIGNAL, KNEXT, DEADLINE -/

/-- Clears the deadline of a slot. -/
def State.noDeadline (s : State) (sl j : Nat) : State := s.putF (A.seSlotDl sl j) 0 58 0

/-- Follow executes HALT (R179): the accumulators are released (R242) and the deadline is cleared (R215). -/
def State.haltExec (s : State) (sl j : Nat) : State :=
  let t := ((s.releaseAccs sl j).noDeadline sl j).dropHead sl j
  let t := t.modSlot sl j fun x => { x with hold := .none, descs := [], toAbandon := 0 }
  (t.setSlotState sl j 0).setDone sl j

def execHalt (sl slot : Nat) (s : State) : Out :=
  s.onSlot sl slot (s.leadFollow sl slot 0x01 true fun t _ => t.haltExec sl slot)

/-- Follow executes MARK (R179, R349). -/
def State.markExec (s : State) (sl j : Nat) (i : Inst) : State :=
  let c := s.slotCtx sl j
  let t := (s.dropHead sl j).count (A.ctxProgress c) 0 24 1
  if flag i.word 32 then t.queueLog (t.mkLog 1 sl c (some j) (fld i.word 0 32) 0) else t

def execMark (sl slot : Nat) (s : State) : Out :=
  s.onSlot sl slot (s.leadFollow sl slot 0x02 false fun t i => t.markExec sl slot i)

/-- A remote SIGNAL travels as a request that takes no lane slot. -/
def State.signalAcc (s : State) (sl j : Nat) (i : Inst) (dst : Nat) : SeAcc :=
  let x := s.slot sl j
  let op : ClaveOp := { kind := 1, pair := fld i.word 40 8, room := flag i.word 55, n := fld i.word 0 16 }
  { id := x.nextAcc, no := i.no, kind := .signal, blk := 0, ns := [], next := 0, handle := 0, offs := []
    req := { origin := .stream sl j x.nextAcc, write := false, ctx := s.slotCtx sl j, cls := s.slotClass sl j, tag := 0,
             home := dst, bset := 0, lines := [], clave := some op, owner := 17, since := s.now }
    issued := false, held := false, retry := 0, host := none, vec := false, resp := none, dropped := false, takes := false }

/-- Follow executes SIGNAL: in the slot's own slice at once, DENIED where the context may not; elsewhere by a request,
RANGE where that slice does not exist. -/
def State.signalExec (s : State) (sl j : Nat) (i : Inst) : State :=
  let stop := fun (c : Nat) =>
    s.setHalt sl j { no := i.no, blk := 0, elem := 0, read := false, code := c, addr := none }
  let dst := if flag i.word 54 then fld i.word 32 6 else sl
  let pair := fld i.word 40 8
  if s.hasSlice dst = false then stop 0x01
  else if flag i.word 54 then (s.addAcc sl j (s.signalAcc sl j i dst)).putInst sl j { i with sent := true }
  else if s.claveMay sl pair (s.slotCtx sl j) = false then stop 0x02
  else (s.claveSignal sl pair (flag i.word 55) (fld i.word 0 16)).dropHead sl j

def execSignal (sl slot : Nat) (s : State) : Out :=
  s.onSlot sl slot (s.leadFollow sl slot 0x19 false fun t i => t.signalExec sl slot i)

/-- Follow executes KNEXT (R177). -/
def State.knextExec (s : State) (sl j : Nat) : State :=
  let t := (s.dropHead sl j).modSlot sl j fun x => { x with hold := .none }
  ((t.kernelBoundary (t.slotCtx sl j)).nextPc sl j)

def execKnext (sl slot : Nat) (s : State) : Out :=
  s.onSlot sl slot (s.leadFollow sl slot 0x0B true fun t _ => t.knextExec sl slot)

/-! ### Deadlines (R215 to R219) -/

/-- Walk lines of an operand from `n` on: every line of the walk counts, also one that is not used (R204, R216). -/
def linesFrom (o : Operand) (n : Nat) : Nat := o.walkLines - n

/-- The position operand of a block whose descriptors are buffered, or which has begun. -/
def State.heldOperand (s : State) (sl j : Nat) (i : Inst) (b : Nat) : Option Operand :=
  let ds := match i.blockDescs b with
    | some ds => some ds
    | none => (s.slot sl j).blockLines i b
  ds.map fun ds => s.operand sl i ds (positionIx i.op)

/-- Lines of block `b`, from `n` on, that an instruction has done already. -/
def Inst.doneIn (i : Inst) (b n : Nat) : Nat :=
  if isStrike i.op then (if b = i.wblk then i.doneLines.length else 0)
  else (i.doneLines.filter fun d => decide (d / 2 ^ 24 = b) && decide (n ≤ d % 2 ^ 24)).length

/-- The walk line of the block in progress behind the lines that are done: for a SCRUB, the next that its pass reads. -/
def State.doneTo (s : State) (sl j : Nat) (i : Inst) : Nat :=
  match (s.slice sl).scrub with
  | some p => if p.slot = some (j, i.no) then p.next else i.wpos
  | none => i.wpos

/-- SHORT and UNFETCHED of one covered instruction (R216). -/
def State.shortOf (s : State) (sl j : Nat) (i : Inst) : Nat × Nat :=
  let flying := (s.slot sl j).accs.foldl (fun n a =>
    if a.no = i.no ∧ a.kind = .write ∧ !a.dropped ∧ (a.issued ∨ a.held) then n + a.ns.length else n) 0
  let strokes := (s.net.xfers.filter fun (x : Xfer) => x.of sl j i.no).foldl (fun n x =>
    (x.strokes.filter x.open').foldl (fun n k => n + k.lines.length) n) 0
  let packets := (s.fabric.outbound.filter fun (o : FpOut) => o.sl = sl ∧ o.slot = j ∧ o.no = i.no).foldl (fun n o =>
    n + o.count) 0
  (List.range (i.count - i.wblk)).foldl (fun (r : Nat × Nat) k =>
    match s.heldOperand sl j i (i.wblk + k) with
    | some o =>
      let n := if k = 0 then s.doneTo sl j i else 0
      (r.1 + linesFrom o n - i.doneIn (i.wblk + k) n, r.2)
    | none => (r.1, r.2 + 1)) (flying + strokes + packets, 0)

/-- Block instructions of a slot that a deadline covers and that have not retired, the one that a fault has stopped
included. -/
def Slot.coveredInsts (x : Slot) : List Inst :=
  let rest := match x.residue with
    | some r => match r.inst with
      | some i => [i]
      | none => []
    | none => []
  (rest ++ x.insts).filter fun i => i.covered

/-- A miss under ABANDON: covered instructions, REMOTE and TOLL apart, are abandoned; what they have not issued is
dropped, and what they read is discarded (R218, R219). DESIGN CHOICE (R218): a fault that such an instruction has met, and
that has not yet stopped the slot, is dropped with it; the spec does not say what becomes of it. -/
def Slot.abandon (x : Slot) (unstart : Nat) : Slot :=
  let hit := fun (i : Inst) => i.covered && decide (i.op ≠ 0x22) && decide (i.op ≠ 0x23)
  let gone := fun (i : Inst) => if hit i then { i with abandoned := true, buf := [], halves := [], tree := none, wipe := [] } else i
  let nos := (x.insts.filter hit).map Inst.no
  { x with
    insts := x.insts.map gone
    residue := x.residue.map fun r => { r with inst := r.inst.map gone }
    accs := (x.accs.filter fun a => !(nos.contains a.no && decide (a.kind ≠ .fetch)) || a.issued).map fun a =>
      if nos.contains a.no ∧ a.kind = .read then { a with dropped := true } else a
    halt := match x.halt with
      | some h => if nos.contains h.no then none else some h
      | none => none
    toAbandon := unstart }

/-- The scrub pass of an abandoned SCRUB reads nothing more (R218). -/
def State.endScrub (s : State) (sl j : Nat) : State :=
  match (s.slice sl).scrub with
  | some p => match p.slot with
    | some q => if q.1 = j ∧ (s.slot sl j).insts.any (fun i => decide (i.no = q.2) && i.abandoned) then s.dropScrub sl j else s
    | none => s
  | none => s

/-- The deadline of a slot is tested (R216 to R218). -/
def State.testDeadline (s : State) (sl j : Nat) : State :=
  let s := s.wipeNow sl
  let a := A.seSlotDl sl j
  let unstart := s.getF a 50 8
  let pol := s.getB a 49
  let covered := (s.slot sl j).coveredInsts
  let t := s.putB a 48 false
  if covered.isEmpty ∧ unstart = 0 then t
  else
    let sum := covered.foldl (fun (r : Nat × Nat) i =>
      let v := s.shortOf sl j i
      (r.1 + v.1, r.2 + v.2)) (0, 0)
    let short := min sum.1 (2 ^ 32 - 1)
    let unf := min sum.2 0xFFFF
    let d := setFld (setFlag (setFld (setFld 0 0 32 short) 32 8 unstart) 40 pol) 41 16 unf
    let t := t.slotRec sl j 0x08 d
    let t := t.wr (A.seMissb sl j) (setFld (setFld 0 0 48 s.beatCount) 48 16 unf)
    let m := A.seMiss sl j
    let t := (((t.putF m 0 32 short).putF m 32 8 unstart).putB m 40 pol).putB m 41 true
    let t := t.countSat m 48 16 1
    let t := if t.getB (A.seMie sl) j then t.raiseIrq 4 else t
    if pol then ((t.putF a 50 8 0).modSlot sl j fun x => x.abandon unstart).endScrub sl j else t.putF a 50 8 0

/-- DEADLINE (R179, R215); one whose beat is already reached is tested in the next clk (R219). -/
def State.deadlineInstr (s : State) (sl j : Nat) (w : Word) : State :=
  let a := A.seSlotDl sl j
  let d := s.beatTarget sl j w
  let n := fld w 32 8
  let t := ((s.putF a 0 48 d).putB a 49 (flag w 47)).putF a 50 8 n
  let t := t.putB a 48 (decide (n ≠ 0))
  let t := t.modSlot sl j fun x => { x with insts := x.insts.map fun i => { i with covered := false } }
  let t := t.nextPc sl j
  if n ≠ 0 ∧ s.beatReached d then (t.pass 1).testDeadline sl j else t

def execDeadline (sl slot : Nat) (s : State) : Out :=
  s.onSlot sl slot (s.decode sl slot 0x1B fun t w => t.deadlineInstr sl slot w)

/-- The deadline is met once every covered instruction has retired and no coverage remains (R215). -/
def State.deadlineMet (s : State) (sl j : Nat) : State :=
  let a := A.seSlotDl sl j
  if s.getB a 48 ∧ s.getF a 50 8 = 0 ∧ (s.slot sl j).coveredInsts.isEmpty then s.putB a 48 false else s

/-- The beat count has become visible in one slice (R21, R22): beats that streams wait for are reached, and deadlines
are tested. -/
def State.beatIn (s : State) (sl : Nat) : State :=
  let t := s.each (List.range 16) fun t j =>
    if t.getB (A.seSlotDl sl j) 48 ∧ t.beatReached (t.getF (A.seSlotDl sl j) 0 48) then t.testDeadline sl j else t
  (t.each (List.range 16) fun t j => t.beatHeld sl j).pumpSlice sl

/-- The oldest accepted count becomes visible, three clk after its strobe (R21). -/
def State.beatVisible (s : State) : State :=
  match s.beat.coming with
  | [] => s
  | (n, at') :: rest =>
    let t := s.reach at'
    let t : State := { t with beat := { t.beat with coming := rest, seenAt := t.now } }
    let t := (t.putF A.glbBeat 0 48 n).putB A.glbBeat 51 true
    t.each t.sliceList fun t sl => t.beatIn sl

def execBeatVisible (s : State) : Out := .next s.beatVisible

/-! ### Arming, starting, stopping (R169 to R171, R178, R186) -/

/-- What arming clears (R169, R178): the saved position, the shed mask, the open tag and its count, the deadline; PC
becomes ENTRY, and the descriptor buffer is emptied (R208). -/
def State.armSlot (s : State) (sl j : Nat) : State :=
  let t := s.setPc sl j (s.getF (A.seSlotPc sl j) 32 27)
  let t := ((t.wr (A.seSlotPos sl j) 0).wr (A.seSlotShed sl j) 0).putF (A.seSlotBeat0 sl j) 48 9 0
  let t := (t.putF (A.seSlotArm sl j) 48 16 0).noDeadline sl j
  let t := t.modSlot sl j fun x =>
    { x with
      descs := [], badDesc := [], badFetch := [], halt := none, residue := none, resuming := false, toAbandon := 0
      hold := .none, accs := (x.accs.filter fun a => a.issued).map fun a => { a with dropped := true } }
  let pc := t.pc sl j / 8
  let t := t.modSlot sl j fun x => if (x.line pc).isSome then x else { x with fetched := [] }
  t.setSlotState sl j 1

/-- What `f` forms is presented from the next clk on. -/
def State.fromNext (s : State) (f : State → State) : State :=
  { f (s.pass 1) with time := s.time, pins := s.pins }

/-- Slots that start in one clk present their first fetches from the next clk on, one in a clk, in ascending number (R163). -/
def State.orderFetches (s : State) (sl : Nat) : State :=
  let waits := fun (a : SeAcc) => decide (a.kind = .fetch) && !a.issued && !a.dropped
  let l := (List.range 16).filter fun j => (s.slot sl j).startedAt = s.now + 1 ∧ (s.slot sl j).accs.any waits
  let put := fun (n : Nat) (a : SeAcc) => if waits a then { a with req := { a.req with since := s.now + 1 + n } } else a
  l.zipIdx.foldl (fun (t : State) p => t.modSlot sl p.1 fun x => { x with accs := x.accs.map (put p.2) }) s

/-- An armed slot whose context is RUN starts. A CLAVE start comes behind the WAITs held on its pair and the starts of lower
slots (R259), and on a pair that the context may not operate it faults DENIED (R257). Where the slice is asleep, a beat that
is reached wakes it, and the slot starts in Play (R315). -/
def State.slotStart (s : State) (sl j : Nat) : State :=
  let a := A.seSlotCtl sl j
  let m := s.getF a 6 2
  let clave := decide (m = 2)
  let pair := s.getF a 32 8
  if s.slotState sl j ≠ 1 ∨ s.ctxRuns sl j = false ∨ (s.slice sl).engineReset then s
  else if clave ∧ s.claveMay sl pair (s.slotCtx sl j) = false then
    s.enterFault sl j { no := (s.slot sl j).nextNo, blk := 0, elem := 0, read := false, code := 0x02, addr := none }
  else if s.startMet sl j = false then s
  else if s.sliceServes sl = false then (if m = 1 then s.wakeFor sl 3 else s)
  else
    let t := s.reach (s.slot sl j).followAt
    let t := if clave then
        (t.waitsTake sl pair false 16).each (List.range j) fun t k => t.claveStarts sl k pair
      else t
    if t.startReady sl j then ((t.startNow sl j).fromNext fun u => u.pumpSlice sl).orderFetches sl else t

def execSlotStart (sl slot : Nat) (s : State) : Out := s.onSlot sl slot (s.slotStart sl slot)

/-- STOP (R171): nothing more is issued, data is discarded, command records are released; the deadline is cancelled
(R219) and the accumulators are released (R242). The slot is IDLE once the last access is answered. -/
def State.stopSlot (s : State) (sl j : Nat) : State :=
  let t := (((s.wipeNow sl).releaseAccs sl j).noDeadline sl j).dropXfers sl j
  let t := (t.dropHeldOut sl j).dropScrub sl j
  let t := t.modSlot sl j fun x =>
    { x with
      insts := [], hold := .none, halt := none, residue := none, resuming := false, toAbandon := 0, descs := []
      accs := (x.accs.filter fun a => a.issued ∧ a.resp.isNone).map fun a =>
        if a.kind = .write then a else { a with dropped := true }
      followAt := x.insts.foldl (fun m i => max m i.lastStep) x.followAt }
  t.setSlotState sl j 5

/-- Every access of a STOPPING slot has been answered, and every stroke has reached its receivers. -/
def State.stopDone (s : State) (sl j : Nat) : Bool :=
  decide (s.slotState sl j = 5) && ((s.slot sl j).accs.all fun a => a.resp.isSome) && !(s.outWaiting sl j) &&
    !(s.net.strays.any fun (x : Xfer) => decide (x.sl = sl) && decide (x.slot = j))

/-- The last access of a STOPPING slot is answered, and the slot becomes IDLE. -/
def State.stopEnds (s : State) (sl j : Nat) : State :=
  if s.stopDone sl j then
    let t := s.reach (s.slot sl j).followAt
    (t.modSlot sl j fun x => { x with accs := [], followAt := t.now + 1 }).setSlotState sl j 0
  else s

def execStopComplete (sl slot : Nat) (s : State) : Out := s.onSlot sl slot (s.stopEnds sl slot)

/-- RESUME of a FAULTED slot (R186): accumulator lines that were applied and whose record was discarded are applied a
second time, and are counted (R241). -/
def State.resumeSlot (s : State) (sl j : Nat) : State :=
  let dup := match (s.slot sl j).residue with
    | some r => r.dup
    | none => 0
  let t := (s.count (A.strkAccdup sl) 0 48 dup).setSlotState sl j 2
  (t.modSlot sl j fun x => { x with resuming := true, badDesc := [], badFetch := [] }).pumpSlice sl

/-- A write of SE_SLOT_CTL_j that has reached the slot, judged by the state before the access, `s0` (R169, R171, R186, R189). STOP comes before RESUME and ARM; ARM of
a slot that is not IDLE, a changed S field of one that is not idle, and START 3 are refused, each write once; where only START
is refused, ARM arms the slot with the START that it has (R11). -/
def State.storeCtl (s s0 : State) (sl j : Nat) (v : Word) (ctx : Nat) : State :=
  let a := A.seSlotCtl sl j
  let st := s0.slotState sl j
  let idle := decide (st = 0) || decide (st = 3) || decide (st = 4)
  let bad3 := decide (fld v 6 2 = 3)
  let v' := if bad3 then setFld v 6 2 (s.getF a 6 2) else v
  let busy := refusedS (masksOf a) (s.rd a) v' idle
  let badArm := flag v 3 && decide (st ≠ 0)
  let t := if busy then s else s.storeReg a v' idle ctx
  let t := if t.getF a 20 12 = s.getF a 20 12 then t else t.modSlot sl j fun x => { x with fetched := [], badFetch := [] }
  let t := if busy ∨ badArm ∨ bad3 then t.refuseCfg a ctx else t
  if flag v 5 ∧ st ≠ 0 then (if st = 5 then t else (t.stopSlot sl j).stopEnds sl j)
  else if flag v 4 ∧ st = 4 then t.resumeSlot sl j
  else if flag v 3 ∧ st = 0 then t.armSlot sl j
  else t

/-- While the stream engine is being reset, its registers are not written (R345). -/
def State.ctlUnlessReset (s s0 : State) (sl j : Nat) (v : Word) (ctx : Nat) : State :=
  if (s0.slice sl).engineReset then s.refuseWrite (A.seSlotCtl sl j) v ctx else s.storeCtl s0 sl j v ctx

/-- A write of SE_SLOT_CTL_j. -/
def State.ctlWrite (s : State) (sl j : Nat) (v : Word) (ctx : Nat) : State :=
  s.csrAccess (A.seSlotCtl sl j) ctx fun t => t.ctlUnlessReset s sl j v ctx

/-- A write of SE_SLOT_CTL with ARM set. -/
def execSeArm (sl slot : Nat) (v : Word) (ctx : Nat) (s : State) : Out :=
  s.onSlot sl slot (s.ctlWrite sl slot (setFlag v 3 true) ctx)

/-- A write of SE_SLOT_CTL with RESUME set. -/
def execSeResume (sl slot : Nat) (v : Word) (ctx : Nat) (s : State) : Out :=
  s.onSlot sl slot (s.ctlWrite sl slot (setFlag v 4 true) ctx)

/-- A write of SE_SLOT_CTL with STOP set. -/
def execSeStop (sl slot : Nat) (v : Word) (ctx : Nat) (s : State) : Out :=
  s.onSlot sl slot (s.ctlWrite sl slot (setFlag v 5 true) ctx)

/-- Follow has committed every block that Lead had begun (R171). -/
def State.atBlockBoundary (s : State) (sl j : Nat) : Bool :=
  let x := s.slot sl j
  let begun := fun (i : Inst) =>
    !i.buf.isEmpty || decide (i.wpos ≠ 0) || (decide (0x30 ≤ i.op) && (i.blockDescs i.wblk).isSome) || i.sent
  x.accs.all (fun a => a.kind = .fetch ∨ a.kind = .desc ∨ a.dropped) && !(x.insts.any fun i => !i.abandoned && begun i) &&
    !(s.outWaiting sl j) && !(s.net.xfers.any fun (k : Xfer) => decide (k.sl = sl) && decide (k.slot = j) && k.strokes.any k.open')

/-- No fault is pending, or work before it is left to do. -/
def Slot.workLeft (x : Slot) : Bool :=
  match x.insts with
  | i :: _ => x.free i.no
  | [] => x.halt.isNone

/-- A slot of a PAUSED context enters PAUSED at its block boundary. -/
def State.slotPause (s : State) (sl j : Nat) : State :=
  let s := s.pumpSlice sl
  if s.slotState sl j = 2 ∧ s.ctxState (s.slotCtx sl j) = 2 ∧ s.atBlockBoundary sl j ∧ (s.slot sl j).workLeft then
    s.setSlotState sl j 3
  else s

def execSlotPaused (sl slot : Nat) (s : State) : Out := s.onSlot sl slot (s.slotPause sl slot)

/-! ### REARM (R178) -/

/-- Lead decodes REARM and holds the slot at it. -/
def execRearm (sl slot : Nat) (s : State) : Out :=
  s.onSlot sl slot (s.decode sl slot 0x28 fun t w =>
    (t.pushInst sl slot (t.newInst sl slot w)).modSlot sl slot fun x => { x with hold := .follow })

/-- The target slot is re-armed by slot `j`, with the values of its REARM; it starts in the next clk at the earliest (R183). -/
def State.rearmTarget (s : State) (sl j k : Nat) (i : Inst) : State :=
  let w := i.word
  let t := (List.range 8).foldl (fun (t : State) n =>
    if flag w (40 + n) then
      ((t.putF (A.seHreg sl k n) 0 12 (s.hreg sl j n).1).putF (A.seHreg sl k n) 16 25 (s.hreg sl j n).2)
    else t) s
  let t := if flag w 37 then t.wr (A.seSlotLoop sl k) 0 else t
  let start := fld w 38 2
  let t := t.putF (A.seSlotCtl sl k) 6 2 start
  let t := if start = 1 then t.putF (A.seSlotArm sl k) 0 48 (s.beat0 sl j + fld w 0 32) else t
  (t.armSlot sl k).modSlot sl k fun x => { x with followAt := max x.followAt (s.now + 1) }

/-- Follow executes REARM: DENIED for a target of another context, CFG_REFUSED for a FAULTED one; it waits for any other
target that is not IDLE; of the slot itself it is a restart. -/
def State.rearmExec (s : State) (sl j : Nat) (i : Inst) : State :=
  let k := fld i.word 48 4
  let stop := fun (c : Nat) =>
    s.setHalt sl j { no := i.no, blk := 0, elem := 0, read := false, code := c, addr := none }
  if k = j then ((s.dropHead sl j).rearmTarget sl j j i)
  else if s.slotCtx sl k ≠ s.slotCtx sl j then stop 0x02
  else if s.slotState sl k = 4 then stop 0x0F
  else if s.slotState sl k ≠ 0 then s
  else
    let t := (s.reach (s.slot sl k).followAt).rearmTarget sl j k i
    ((t.dropHead sl j).modSlot sl j fun x => { x with hold := .none }).nextPc sl j

def execRearmExecute (sl slot : Nat) (s : State) : Out :=
  s.onSlot sl slot (s.follow sl slot 0x28 fun t i => t.rearmExec sl slot i)

/-! ### ILLEGAL_OP -/

/-- An opcode or a field value that no table lists stops the slot at Lead's decode (R172). -/
def State.illegal (s : State) (sl j : Nat) : State :=
  let s := s.pumpSlice sl
  match s.instrAt sl j with
  | none => s
  | some w =>
    if s.leadSlot sl = some j ∧ legalOp w = false then
      let t := s.reach (s.slice sl).leadAt
      ((t.modSlice sl fun x => { x with leadTurn := j, leadAt := t.now + 1 }).haltAtPc sl j 0x0C).pumpSlice sl
    else s

def execIllegalOp (sl slot : Nat) (s : State) : Out := s.onSlot sl slot (s.illegal sl slot)

end Sys2Proof.Machine
end

