-- ==== Sys2Proof/Machine/StrikeStep.lean ====
section
/-! DEFINITION. The steps of the strike path (R225 to R250): reads and writes of lines, updates in place, GEMV steps,
the taking of the accumulators, the reduction tree, WIPE, and the decode of FILL to WIPE. -/

namespace Sys2Proof.Machine

/-! ### Pieces of every step -/

/-- The request of a step. -/
def State.stepReq (s : State) (sl j : Nat) (write : Bool) (lines : List (Nat × Spot)) (data : LineData) : Req where
  origin := .stream sl j 0
  write := write
  ctx := s.slotCtx sl j
  cls := s.slotClass sl j
  tag := 0
  home := sl
  bset := match lines.head?.map Prod.snd with
    | some (.mem g _) => glSet g
    | _ => 0
  lines := lineAccs lines data
  clave := none
  owner := 19
  since := s.now

/-- A fault of the block in progress at walk line `n`. -/
def State.strikeHalt (s : State) (sl j : Nat) (i : Inst) (n : Nat) (read : Bool) (code : Nat) : State :=
  s.setHalt sl j { no := i.no, blk := i.wblk, elem := n, read := read, code := code, addr := none }

/-- PHALT of a slot (R184). -/
def State.phalt (s : State) (sl j : Nat) : Bool := s.getB (A.seSlotCtl sl j) 17

/-- POISON met at a line: the stream halts under PHALT, otherwise the event is recorded (R184). -/
def State.metPoison (s : State) (sl j : Nat) (i : Inst) (n : Nat) (read : Bool) : State :=
  if s.phalt sl j then s.strikeHalt sl j i n read 0x03
  else
    let e := if i.op = 0x34 ∨ i.op = 0x35 then 0 else if read then s.destOf sl i i.wblk n else n
    s.slotRec sl j 0x03 (posDetail i.pc i.wblk e)

/-- Lines read or written in the array are counted (R252). -/
def State.countLines (s : State) (sl n : Nat) : State := s.count (A.strkLines sl) 0 48 n

/-- The bank of a line of a step. -/
def bankOfLine (p : Nat × Spot) : Nat := (p.2.bank).getD 0

/-- The first line with a mark. -/
def firstMarked (lines : List (Nat × Spot)) (rs : List LineRsp) : Nat :=
  match (lines.zip rs).find? fun p => p.2.psn ≠ 0 with
  | some p => p.1.1
  | none => (lines.head?.map Prod.fst).getD 0

/-! ### Reads -/

/-- A source line of a REDUCE enters the accumulators; a 65th output index halts the stream (R242). -/
def State.reduceIn (s : State) (sl j : Nat) (i : Inst) (b : Nat) (l : SrcLine) : State :=
  let r := s.reduceLine sl b { i with buf := [l] } (s.opsNow sl i) l.n
  if r.1 then r.2 else r.2.strikeHalt sl j i 0 false 0x06

/-- Lines read for a block: kept in the staging buffer, or taken into the accumulators of their banks. -/
def State.takeLines (s : State) (sl j : Nat) (i : Inst) (t : SStep) (rs : List LineRsp) : State :=
  let due := s.now + s.latency
  let ls := (t.lines.zip rs).map fun p =>
    (bankOfLine p.1, ({ blk := i.wblk, n := p.1.1, data := p.2.data, psn := p.2.psn, entry := 0, ready := due } : SrcLine))
  let s := s.modInst sl j i.no fun k => { k with rpos := t.next, lastStep := max k.lastStep due }
  if i.op = 0x35 then
    (ls.foldl (fun (u : State) p => u.reduceIn sl j i p.1 p.2) s).modInst sl j i.no fun k => { k with tree := some s.now }
  else s.modInst sl j i.no fun k => { k with buf := k.buf ++ ls.map Prod.snd }

/-- A scale line read for an MX source. -/
def State.takeScale (s : State) (sl j : Nat) (i : Inst) (n : Nat) (rs : List LineRsp) : State :=
  match rs with
  | r :: _ =>
    let k : ScaleLine := { n := n, data := r.data, ben := 0, psn := r.psn, first := 0, ready := s.now + s.latency }
    s.modInst sl j i.no fun x => { x with scales := x.scales ++ [k], lastStep := max x.lastStep (s.now + s.latency) }
  | [] => s

/-- A step reads lines. -/
def State.stepRead (s : State) (sl j : Nat) (i : Inst) (t : SStep) : State :=
  let p := s.perform sl (s.stepReq sl j false t.lines noData)
  let n := (t.lines.head?.map Prod.fst).getD 0
  if p.1 ≠ rspOk ∧ p.1 ≠ rspPoison then
    s.strikeHalt sl j i n true (if p.1 = rspAborted then 0x0B else if p.1 = rspFenced then 0x0A else 0x02)
  else
    let u := (p.2.2.countLines sl t.lines.length).stepAdvance sl (s.stepHandle sl i t) false t.offs
    let u := if p.1 = rspPoison then u.metPoison sl j i (firstMarked t.lines p.2.1) true else u
    let whole := !(decide (p.1 = rspPoison) && s.phalt sl j)
    match t.kind with
      | .scaleRead k => if whole then u.takeScale sl j i k p.2.1 else u
      | _ => if whole then u.takeLines sl j i t p.2.1
        else if i.op = 0x35 then u
        else (u.takeLines sl j i { t with next := firstMarked t.lines p.2.1 }
          (p.2.1.takeWhile fun r => r.psn = 0)).settleHalt sl j

/-! ### Writes -/

/-- The destination lines of a write in walk order, each with the LFSR state that its bank has before the line's step; an
element that straddles two lines keeps what the first line's step gave it (R233). DESIGN CHOICE (R233): lines of a VECTOR
handle, which lie in no bank, draw from the LFSR of bank 0, one step for each. -/
def State.outLines (s : State) (sl : Nat) (i : Inst) (os : List Operand) (lines : List (Nat × Spot)) :
    List (Nat × OutData) :=
  (lines.foldl (fun (r : Inst × List (Nat × OutData) × State) p =>
    let o := s.outLine r.1 (dstOf i os) (srcOf os) p.1 (r.2.2.lfsr sl (bankOfLine p))
    ({ r.1 with carry := o.carry }, r.2.1 ++ [(p.1, o)], r.2.2.stepLfsr sl (bankOfLine p) i.rnd)) (i, [], s)).2.1

/-- The bytes of formed lines. -/
def dataOf (dst : Operand) (l : List (Nat × OutData)) : LineData := fun n =>
  match l.find? fun p => p.1 = n with
  | some p => (p.2.data, dst.byteEns n, p.2.psn)
  | none => (0, 0, 0)

/-- What the write of formed lines leaves in its instruction: the position, scales being formed, the straddling element,
source lines no longer needed. -/
def State.wrote (s : State) (sl j : Nat) (i : Inst) (os : List Operand) (outs : List (Nat × OutData)) (next due : Nat) :
    State :=
  let scales := outs.foldl (fun (k : Inst) p => { k with out := s.addScales k (dstOf i os) (srcOf os) p.1 }) i
  let last := (outs.getLast?.map fun p => p.2.carry).getD none
  let lowest := (wantedPositions i (dstOf i os) ((dstOf i os).nextUsed next)).headD (32 * (srcOf os).positions)
  s.modInst sl j i.no fun k =>
    s.prune sl j { k with
      wpos := next, out := scales.out, carry := last, lastStep := max k.lastStep due
      scales := k.scales.filter fun x => decide (lowest / 2048 ≤ x.n) }

/-- A step writes destination lines. -/
def State.stepWrite (s : State) (sl j : Nat) (i : Inst) (t : SStep) : State :=
  let os := s.opsNow sl i
  let outs := s.outLines sl i os t.lines
  let p := s.perform sl (s.stepReq sl j true t.lines (dataOf (dstOf i os) outs))
  let n := (t.lines.head?.map Prod.fst).getD 0
  if p.1 ≠ rspOk then s.strikeHalt sl j i n false (if p.1 = rspAborted then 0x0B else 0x02)
  else
    let u := (p.2.2.countLines sl t.lines.length).stepAdvance sl (s.stepHandle sl i t) true t.offs
    let u := if i.op = 0x33 then t.lines.foldl (fun (u : State) q => u.stepLfsr sl (bankOfLine q) i.rnd) u else u
    let u := outs.foldl (fun (u : State) q => u.tally sl q.2.tally) u
    u.wrote sl j i os outs t.next (s.now + s.latency)

/-- A step writes a scale line that is complete. -/
def State.stepScale (s : State) (sl j : Nat) (i : Inst) (t : SStep) (n : Nat) : State :=
  match scaleAt i.out n with
  | none => s
  | some k =>
    let p := s.perform sl (s.stepReq sl j true t.lines fun _ => (k.data, k.ben, k.psn))
    if p.1 ≠ rspOk then s.strikeHalt sl j i k.first false (if p.1 = rspAborted then 0x0B else 0x02)
    else
      let u := (p.2.2.countLines sl 1).stepAdvance sl (s.stepHandle sl i t) true t.offs
      u.modInst sl j i.no fun x =>
        { x with out := x.out.filter fun y => y.n ≠ n, lastStep := max x.lastStep (s.now + s.latency) }

/-! ### Updates in place (R237 to R241) -/

/-- The valid elements of walk line `n` that lie in word `w8` of it. -/
def elemsIn (o : Operand) (n w8 : Nat) : List (Nat × Nat) :=
  (o.elems n).filter fun x => decide ((x.1 * o.e - 512 * (o.indices n).2.2.2) / 64 = w8)

/-- add, max or min (R237). -/
def accinOp (aop : Nat) (a v : Num) : Num := if aop = 0 then a.add v else if aop = 1 then a.max v else a.min v

/-- The new value of a word of an accumulator line: from `old`, or the incoming values alone where the word is unwritten
(R238). -/
def State.updatedWord (s : State) (i : Inst) (dst src : Operand) (n w8 : Nat) (old : Word) (fresh : Bool) (lfsr : Nat) :
    Word × Bool × Tally :=
  (elemsIn dst n w8).foldl (fun (r : Word × Bool × Tally) x =>
    let lo := (x.1 * dst.e - 512 * (dst.indices n).2.2.2) % 64
    let v := s.valueAt i src x.2
    let w := if fresh then v.1 else accinOp (i.opt 0 2) (decodeElem dst.fmt (fld old lo dst.e)) v.1
    let y := narrow dst.fmt i.rnd (if i.rnd = 2 then srValue lfsr x.1 else 0) w
    (setFld r.1 lo dst.e y.bits, r.2.1 || v.2, r.2.2.add y)) (if fresh then 0 else old, false, ⟨0, 0⟩)

/-- The word has no old value: its W state is clear and no byte of it lies in the merge buffer (R238). -/
def State.freshWord (s : State) (sl b l w8 : Nat) : Bool :=
  !(s.wState sl b l w8) && (match (s.bank sl b).entry l with
    | some e => decide (wordBen e.ben w8 = 0) && !(e.psn.getLsbD w8)
    | none => true)

/-- What the decode of an old word counts and records, as a drain does (R49, R238). -/
def State.noteOld (s : State) (sl b l w8 ctx cls : Nat) : State :=
  let whole := match (s.bank sl b).entry l with
    | some e => decide (wordBen e.ben w8 = 0xFF) || e.psn.getLsbD w8
    | none => false
  if whole || !(s.wState sl b l w8) then s
  else
    let d := decodeWord (s.storedWord sl b l w8) (foldAddr b l w8)
    let t := s.noteWord sl b l w8 4 ctx cls d
    if d.bits ≠ 0 ∨ d.bad then t.queueTest sl b (bankRow l) else t

/-- One accumulator line is updated in one array cycle (R238). The result tells whether poison met it; under PHALT such
a line is not written. -/
def State.updateLine (s : State) (sl j : Nat) (i : Inst) (os : List Operand) (p : Nat × Spot) : Bool × State :=
  let dst := dstOf i os
  let src := srcOf os
  let b := bankOfLine p
  let l := match p.2 with
    | .mem g _ => glRow g
    | _ => 0
  let lfsr := s.lfsr sl b
  let words := (List.range 8).filter fun w8 => !(elemsIn dst p.1 w8).isEmpty
  let news := words.map fun w8 =>
    let old := s.peekWord sl b l w8
    let v := s.updatedWord i dst src p.1 w8 old.1 (s.freshWord sl b l w8) lfsr
    (w8, v.1, old.2 || v.2.1, v.2.2)
  let psn := news.any fun x => x.2.2.1
  let ue := words.any fun w8 => s.ueIn sl b l (1#8 <<< w8)
  let t := words.foldl (fun (t : State) w8 => t.noteOld sl b l w8 (s.slotCtx sl j) (s.slotClass sl j)) s
  let t := if ue then t.knellOnUe (s.slotCtx sl j) else t
  if psn ∧ s.phalt sl j then (true, t)
  else
    let t := match (s.bank sl b).entry l with
      | some e => ((t.modBank sl b fun k => k.dropEntry l).each ((List.range 8).filter fun w8 => !(words.contains w8)))
          fun t w8 => t.drainWord sl b e w8
      | none => t
    let t := news.foldl (fun (t : State) x => (t.writeCoded sl b l x.1 x.2.1 x.2.2.1).tally sl x.2.2.2) t
    (psn, t.stepLfsr sl b i.rnd)

/-- The word of the vector buffer is empty: it has no old value (R238, R268). -/
def State.emptyWord (s : State) (sl line w8 : Nat) : Bool := (Tbl.get none s.mem.vec (vecKey sl line w8)).isNone

/-- One line of a VECTOR accumulator is updated, old value and new in one clk (R238). The result tells whether poison met it;
under PHALT such a line is not written. -/
def State.updateVec (s : State) (sl j : Nat) (i : Inst) (os : List Operand) (n line : Nat) : Bool × State :=
  let dst := dstOf i os
  let words := (List.range 8).filter fun w8 => !(elemsIn dst n w8).isEmpty
  let news := words.map fun w8 =>
    let old := s.vecWord sl line w8
    let v := s.updatedWord i dst (srcOf os) n w8 old.1 (s.emptyWord sl line w8) (s.lfsr sl 0)
    (w8, v.1, old.2 || v.2.1, v.2.2)
  let psn := news.any fun x => x.2.2.1
  let t := s.touchVec sl (s.slotCtx sl j) (s.slotClass sl j) (words.map fun w8 => (line, w8))
  if psn ∧ s.phalt sl j then (true, t)
  else
    let t := news.foldl (fun (t : State) x =>
      (t.putVec sl line (0xFF#64 <<< (8 * x.1)) (setLineWord 0 x.1 x.2.1) (if x.2.2.1 then 1#8 <<< x.1 else 0)).tally sl
        x.2.2.2) t
    (psn, t.stepLfsr sl 0 i.rnd)

/-- Accumulator lines have been updated in the present clk, `bad` of them with poison. Under PHALT the first that poison meets
halts the stream, and lines behind it, which have been applied, are skipped on resume (R241). -/
def State.updated (s : State) (sl j : Nat) (i : Inst) (ns bad : List Nat) (next : Nat) : State :=
  let due := s.now + s.latency
  let go := fun (u : State) => u.modInst sl j i.no fun k =>
    u.prune sl j { k with
      wpos := next, lastStep := max k.lastStep due
      flights := (k.flights.filter fun f => decide (s.now < f.2)) ++ ns.map fun n => (n, due) }
  match bad with
  | m :: _ =>
    if s.phalt sl j then
      let done := ns.filter fun k => decide (m < k) && !(bad.contains k)
      (s.modInst sl j i.no fun k => { k with wpos := m, doneLines := k.doneLines ++ done, lastStep := max k.lastStep due })
        |>.strikeHalt sl j i m false 0x03
    else go (bad.foldl (fun (u : State) m => u.metPoison sl j i m false) s)
  | [] => go s

/-- A step updates accumulator lines. Under PHALT the first that poison meets halts the stream, and lines of the step
behind it, which have been applied, are skipped on resume (R241). -/
def State.stepUpdate (s : State) (sl j : Nat) (i : Inst) (t : SStep) : State :=
  let os := s.opsNow sl i
  let code := s.homeCode sl (s.stepReq sl j true t.lines noData)
  let n := (t.lines.head?.map Prod.fst).getD 0
  if code ≠ rspOk then s.strikeHalt sl j i n false (if code = rspAborted then 0x0B else 0x02)
  else
    let r := t.lines.foldl (fun (r : List Nat × State) p =>
      let u := r.2.updateLine sl j i os p
      (if u.1 then r.1 ++ [p.1] else r.1, u.2)) (([] : List Nat), s)
    ((r.2.countLines sl t.lines.length).stepAdvance sl (s.stepHandle sl i t) true t.offs).updated sl j i
      (t.lines.map Prod.fst) r.1 t.next

/-! ### GEMV steps -/

/-- What one bank does in a GEMV step, once its line, if it reads one, has been read. -/
def State.macBank (s : State) (sl j : Nat) (i : Inst) (os : List Operand) (b : Nat) (x : BankNext) (line : Line × WordEn)
    (acts : List (Nat × Bool)) : State :=
  let per := perLine (elOf os)
  let halt := fun (r : Bool × State) => if r.1 then r.2 else r.2.strikeHalt sl j i 0 false 0x06
  let slice := fun (n : Nat) (second : Bool) (m : Nat) =>
    (List.range m).map fun t => acts.getD ((stepColumn os n second + t) % (1024 / (veOf os).e)) (0, false)
  let latch := i.latch.find? fun l => l.bank = b
  match x with
  | .scale m _ =>
    let k : ScaleLatch := { bank := b, n := m, data := line.1, psn := line.2 }
    s.modInst sl j i.no fun y => { y with latch := (y.latch.filter fun l => l.bank ≠ b) ++ [k] }
  | .element n _ =>
    if twoSteps os then
      let h : Half := { bank := b, n := n, data := line.1, psn := line.2, acts := slice n false (per / 2) }
      s.modInst sl j i.no fun y => { y with halves := y.halves ++ [h], cursor := Tbl.put 0 y.cursor b (n + 1) }
    else
      (halt (s.contribute sl b (lineContribs os n line.1 line.2 latch (slice n false per)))).modInst sl j i.no fun y =>
        { y with cursor := Tbl.put 0 y.cursor b (n + 1) }
  | .second h =>
    (halt (s.contribute sl b (lineContribs os h.n h.data h.psn latch (h.acts ++ slice h.n true (per / 2))))).modInst sl j i.no
      fun y => { y with halves := y.halves.filter fun k => k.bank ≠ b }
  | .done => s

/-- The spot that a bank reads in a step. -/
def BankNext.spot : BankNext → Option Spot
  | .scale _ w => some w
  | .element _ w => some w
  | _ => none

/-- The handle and offset of the line that a bank reads, for its ring's guard. -/
def BankNext.guardLine (os : List Operand) : BankNext → Option (Nat × Nat)
  | .scale _ (.mem _ o) => some ((scOf os).handle, o)
  | .element _ (.mem _ o) => some ((elOf os).handle, o)
  | _ => none

/-- A GEMV step on a bank set (R244). -/
def State.stepMac (s : State) (sl j bset : Nat) (i : Inst) : State :=
  let os := s.opsNow sl i
  let sel := stepBanks os (s.setNext sl j bset i os)
  let guards := sel.2.filterMap fun p => p.2.guardLine os
  let fault := guards.findSome? fun g => match s.guardOf sl g.1 false [g.2] with
    | .fault c => some c
    | _ => none
  match fault with
  | some c => s.strikeHalt sl j i 0 false c
  | none =>
    let reads := sel.2.filterMap fun p => p.2.spot.map fun w => (p.1, w)
    let p := s.perform sl (s.stepReq sl j false reads noData)
    if p.1 ≠ rspOk ∧ p.1 ≠ rspPoison then
      s.strikeHalt sl j i 0 false (if p.1 = rspAborted then 0x0B else if p.1 = rspFenced then 0x0A else 0x02)
    else
      let u := p.2.2.countLines sl reads.length
      let u := guards.foldl (fun (u : State) g => u.stepAdvance sl g.1 false [g.2]) u
      let u := if p.1 = rspPoison then u.metPoison sl j i 0 false else u
      if p.1 = rspPoison ∧ s.phalt sl j then u
      else
        let a : List (Nat × Bool) × State := match sel.1 with
          | some c => u.chunkActs sl j bset os c
          | none => ([], u)
        let bad : Bool := a.1.any fun p => p.2
        let u := if bad then a.2.metPoison sl j i 0 false else a.2
        if bad ∧ s.phalt sl j then u
        else
          let got := (reads.map Prod.fst).zip (p.2.1.map fun r => (r.data, r.psn))
          let u := sel.2.foldl (fun (u : State) q =>
            let l := match got.find? fun g => g.1 = q.1 with
              | some g => g.2
              | none => (0, 0)
            u.macBank sl j i os q.1 q.2 l a.1) u
          u.modInst sl j i.no fun k => { k with tree := some s.now, lastStep := max k.lastStep (s.now + s.latency) }

/-! ### What the sequencer does without a slot -/

/-- A block of an instruction is issued: the next one follows. -/
def Inst.endBlock (i : Inst) : Inst :=
  { i with
    wblk := i.wblk + 1, wpos := 0, rblk := i.wblk + 1, rpos := 0, buf := [], scales := [], out := [], doneLines := [],
    flights := [], cursor := [], latch := [], halves := [], tree := none, carry := none, taken := false, vecLines := []
    descs := i.descs.filter fun d => decide (i.wblk < d.1), wipe := [] }

/-- Destination lines are left to write in the block. -/
def linesLeft (i : Inst) (dst : Operand) : Bool :=
  !i.out.isEmpty ||
    (List.range (dst.walkLines - i.wpos)).any fun d => dst.used (i.wpos + d) && !(i.doneLines.contains (i.wpos + d))

/-- An access of the strike path that takes no slot of its own slice is handed to the vector buffer, or, for a COPY to
another slice, to the router (R229, R412). An update of a VECTOR accumulator is made as it is issued (R238). -/
def State.strikeAway (s : State) (sl j : Nat) (i : Inst) (t : SStep) : State :=
  let os := s.opsNow sl i
  let h := s.stepHandle sl i t
  let form := fun (kind : AccKind) (data : LineData) =>
    let a := s.formAcc sl j kind i.no i.wblk h t.lines t.next data
    s.addAcc sl j { a with req := { a.req with since := max a.req.since t.start } }
  if (s.slot sl j).accs.any fun a => !a.issued ∧ !a.dropped ∧ (a.kind = .read ∨ a.kind = .write) then s
  else match t.kind with
    | .read => (form .read noData).modInst sl j i.no fun k => { k with rpos := t.next }
    | .scaleRead n =>
      let w := match t.spot with
        | .vec l => s.vecLine sl l
        | _ => (0, 0)
      s.takeScale sl j i n [{ pos := 0, data := w.1, psn := w.2 }]
    | .scaleWrite n => match scaleAt i.out n with
      | some k => (form .write fun _ => (k.data, k.ben, k.psn)).modInst sl j i.no fun x =>
          { x with out := x.out.filter fun y => y.n ≠ n }
      | none => s
    | .update => (form .write noData).modInst sl j i.no fun k => { k with wpos := t.next }
    | .write =>
      let outs := s.outLines sl i os t.lines
      let u := form .write (dataOf (dstOf i os) outs)
      let u := outs.foldl (fun (u : State) q => u.tally sl q.2.tally) u
      let u := if i.op = 0x33 then t.lines.foldl (fun (u : State) q => u.stepLfsr sl (bankOfLine q) i.rnd) u else u
      u.wrote sl j i os outs t.next s.now

/-- A VECTOR source line of a REDUCE enters the accumulators of bank 0. DESIGN CHOICE: it lies in no bank. -/
def State.reduceVec (s : State) (sl j : Nat) (i : Inst) : State :=
  let t := i.buf.foldl (fun (u : State) l => u.reduceIn sl j i 0 l) s
  t.modInst sl j i.no fun k => { k with buf := [], tree := some s.now }

/-- What the sequencer does for one slot without a lane slot: it ends blocks that have no work left, halts at a line that
a check refuses, and hands on accesses that take no slot. -/
def State.strikePump (s : State) (sl j : Nat) : Nat → State
  | 0 => s
  | fuel + 1 =>
    match s.strikeInst sl j with
    | none => s
    | some i =>
      let os := s.opsNow sl i
      if i.op = 0x34 then
        (match i.taken, s.planeFault sl (s.slotCtx sl j) i os with
          | true, some c => (s.strikeHalt sl j i 0 false c).settleHalt sl j
          | _, _ => s)
      else if i.op = 0x35 ∧ i.buf.isEmpty = false then (s.reduceVec sl j i).strikePump sl j fuel
      else if i.op ≠ 0x35 ∧ linesLeft i (dstOf i os) = false ∧ (s.slot sl j).unsent i = (i.wblk, i.wpos) then
        ((s.modInst sl j i.no Inst.endBlock).pump sl j).strikePump sl j fuel
      else
        let bad := (s.nextSteps sl j i).findSome? fun t => match t.spot, s.stepGuard sl i t with
          | .bad c, _ => some (t, c)
          | _, .fault c => some (t, c)
          | _, _ => none
        match bad with
        | some (t, c) =>
          (s.strikeHalt sl j i ((t.lines.head?.map Prod.fst).getD 0) t.reads c).settleHalt sl j
        | none =>
          match (s.nextSteps sl j i).find? fun t => match t.spot with
              | .vec _ => true
              | .mem g _ => decide (glSlice g ≠ sl)
              | _ => false with
          | some t => s.strikeAway sl j i t
          | none => s

/-- A WIPE of a slot: a group that its check refuses halts the stream at the first walk line of the group (R230); a block
whose groups are cleared ends, at the line that a check of the walk refuses where there is one. -/
def State.wipePump (s : State) (sl j : Nat) : Nat → State
  | 0 => s
  | fuel + 1 =>
    match (s.slot sl j).followInst with
    | none => s
    | some i =>
      if i.op ≠ 0x36 ∨ i.sent = false ∨ (s.slot sl j).free i.no = false ∨ s.slotWorks sl j = false then s
      else if i.wipe.isEmpty = false then
        (match s.wipeFault sl j i with
          | some f => (s.strikeHalt sl j i f.2.1 false f.2.2).settleHalt sl j
          | none => s)
      else match (s.wipeLines sl (s.slotCtx sl j) (dstOf i (s.opsNow sl i)) i.wpos).findSome? fun p => match p.2 with
          | .bad c => some (p.1, c)
          | _ => none with
        | some p => (s.strikeHalt sl j i p.1 false p.2).settleHalt sl j
        | none =>
          (((s.modInst sl j i.no fun k => { k.endBlock with sent := false }).pump sl j).wipeNow sl).wipePump sl j fuel

/-- Everything that the stream engine and the sequencer of a slice do without a slot. -/
def State.pumpAll (s : State) (sl : Nat) : State :=
  let t := (s.wipeNow sl).pumpSlice sl
  ((t.each (List.range 16) fun t j => (t.strikePump sl j 8).wipePump sl j 8).pumpSlice sl).askRecords sl

/-- The first clk in which a clear port can clear a group of a slot's WIPE; none where all of them are held. -/
def State.wipeDue (s : State) (sl j : Nat) : Option Nat :=
  match s.wipeOf sl j with
  | none => none
  | some i => (firstGroups i.wipe).foldl (fun (m : Option Nat) g =>
      if s.groupHeld sl g then m
      else match m with
        | some c => some (min c (s.clearFrom sl i g.bank))
        | none => some (s.clearFrom sl i g.bank)) none

/-- The clear ports work off the WIPE of a slot. -/
def State.wipeOut (s : State) (sl j : Nat) : Nat → State
  | 0 => s
  | fuel + 1 => match s.wipeDue sl j with
    | some c => ((s.reach c).pumpAll sl).wipeOut sl j fuel
    | none => s

/-! ### One step (R225) -/

/-- A step that is ready on a bank set: slot, first clk, and what it does; none for a GEMV step. -/
structure Ready where
  slot : Nat
  start : Nat
  step : Option SStep
  deriving DecidableEq, Repr

/-- The step that an operation has ready on a bank set. -/
def State.readyStep (s : State) (sl bset j : Nat) : Option Ready :=
  match s.strikeInst sl j with
  | none => none
  | some i =>
    if i.op = 0x34 then
      if i.taken ∧ (s.slot sl j).halt.isNone ∧ (stepBanks (s.opsNow sl i) (s.setNext sl j bset i (s.opsNow sl i))).2.isEmpty = false then
        some { slot := j, start := i.began, step := none }
      else none
    else match (s.nextSteps sl j i).find? fun t => s.stepOn sl bset i t with
      | some t => some { slot := j, start := t.start, step := some t }
      | none => none

/-- The steps that are ready on a bank set, of the oldest operation first. -/
def State.readySteps (s : State) (sl bset : Nat) : List Ready :=
  (s.strikeSlots sl).filterMap fun j => s.readyStep sl bset j

/-- A step takes effect in the present clk. -/
def State.runStep (s : State) (sl bset : Nat) (r : Ready) : State :=
  match s.strikeInst sl r.slot with
  | none => s
  | some i => match r.step with
    | none => s.stepMac sl r.slot bset i
    | some t => match t.kind with
      | .read => s.stepRead sl r.slot i t
      | .scaleRead _ => s.stepRead sl r.slot i t
      | .write => s.stepWrite sl r.slot i t
      | .scaleWrite n => s.stepScale sl r.slot i t n
      | .update => s.stepUpdate sl r.slot i t

/-- The strike claimant takes the next slot that it wins on a bank set, and the oldest operation with a step ready there
takes the step. -/
def State.strikeOn (s : State) (sl bset : Nat) : State :=
  let s := s.pumpAll sl
  let rs := s.readySteps sl bset
  match rs with
  | [] => s
  | r0 :: _ =>
    let first := rs.foldl (fun m r => min m r.start) r0.start
    let x : Others := { strike := fun c => rs.any fun r => decide (r.start ≤ c), patrol := s.patrolOn sl bset }
    match s.firstWin sl bset x (fun o => decide (o = 19)) 64 (max first (s.laneFrom sl bset)) with
    | none => s
    | some (c, _) =>
      match rs.find? fun r => decide (r.start ≤ c) with
      | none => s
      | some r =>
        let t := (((s.reach c).losers sl bset 19 x).takeLane sl bset).countSlot sl 19 (s.slotClass sl r.slot)
        (t.runStep sl bset r).pumpAll sl

def execStrikeStep (sl bset : Nat) (s : State) : Out :=
  if bset < 8 then s.onSlice sl (s.strikeOn sl bset) else .refused .noSuchUnit

/-! ### Taking the accumulators (R242) -/

/-- The block of slot `j` that waits for the accumulators of its slice. -/
def State.takes (s : State) (sl j : Nat) : Option Inst :=
  match s.strikeInst sl j with
  | some i => if (i.op = 0x34 ∨ i.op = 0x35) ∧ i.taken = false ∧ (s.slot sl j).halt.isNone then some i else none
  | none => none

/-- The accumulators are free to slot `j`: no slot holds them, or it does. -/
def State.accsFree (s : State) (sl j : Nat) : Bool := !(s.getB (A.strkAcc sl) 4) || s.holdsAccs sl j

/-- A GEMV block with CONT clear, or a REDUCE block, takes the accumulators, and they are cleared. -/
def State.takeAccs (s : State) (sl j : Nat) : State :=
  let s := s.pumpAll sl
  match s.takes sl j with
  | none => s
  | some i =>
    if s.accsFree sl j = false then s
    else
      let t := s.reach i.began
      let t := (t.freeAccs sl).wr (A.strkAcc sl) (setFlag (setFld 0 0 4 j) 4 true)
      (t.modInst sl j i.no fun k => { k with taken := true }).pumpAll sl

def execAccumTake (sl slot : Nat) (s : State) : Out := s.onSlot sl slot (s.takeAccs sl slot)

/-! ### Decode of FILL to WIPE (R181) -/

/-- A block instruction that resumes at the saved position (R186, R212): what the residue keeps of the instruction that
faulted goes with it, with the descriptors of the blocks that Lead has read whole. -/
def State.resumed (s : State) (sl j : Nat) (i : Inst) : Inst :=
  let a := A.seSlotPos sl j
  let blk := s.getF a 0 16
  let elem := s.getF a 32 24
  let i := { i with start := blk, elem := elem, wblk := blk, wpos := elem, rblk := blk }
  match (s.slot sl j).residue with
  | none => i
  | some r => match r.inst with
    | none => i
    | some k =>
      let kept := decide (k.wblk = blk) && decide (k.wpos = elem)
      let i : Inst := { i with
        covered := k.covered, abandoned := k.abandoned, doneLines := if kept || isOut k.op then k.doneLines else [] }
      if kept ∧ k.buf.isEmpty = false then
        { i with buf := k.buf, rblk := r.rblk, rpos := r.rpos, descs := k.descs.filter fun d => decide (d.1 < r.rblk) }
      else i

/-- The block instruction that faulted comes again: it has its coverage already. -/
def State.comesAgain (s : State) (sl j : Nat) : Bool :=
  (s.slot sl j).resuming && (match (s.slot sl j).residue with
    | some r => r.inst.isSome
    | none => false)

/-- Outbound writes of a slot whose REMOTE or TOLL resumes, as instruction `no`, await their re-send (R368). -/
def State.adoptOut (s : State) (sl j no : Nat) (out : Bool) : State :=
  let f := fun (o : FpOut) =>
    if o.sl = sl ∧ o.slot = j ∧ o.waiting = false then (if out then some { o with no := no } else none) else some o
  { s with fabric := { s.fabric with outbound := s.fabric.outbound.filterMap f } }

/-- Lead hands a block instruction to Follow, and goes on. -/
def State.pushBlock (s : State) (sl j : Nat) (w : Word) (f : Inst → Inst) : State :=
  let i := s.newInst sl j w
  let again := (s.slot sl j).resuming
  let i := f (if again then s.resumed sl j i else i)
  let t := if s.comesAgain sl j then
      s.modSlot sl j fun x =>
        { x with insts := x.insts ++ [i], nextNo := x.nextNo + 1, followAt := max x.followAt (s.now + 1) }
    else s.pushInst sl j i
  let t := if again then t.adoptOut sl j i.no (isOut i.op) else t
  (t.modSlot sl j fun x => { x with residue := none, resuming := false }).nextPc sl j

/-- Lead decodes a block instruction. -/
def State.blockOp (s : State) (sl j op : Nat) : State := (s.decode sl j op fun t w => t.pushBlock sl j w id).pumpAll sl

def execFill (sl slot : Nat) (s : State) : Out := s.onSlot sl slot (s.blockOp sl slot 0x30)

def execCopy (sl slot : Nat) (s : State) : Out := s.onSlot sl slot (s.blockOp sl slot 0x31)

def execAccin (sl slot : Nat) (s : State) : Out := s.onSlot sl slot (s.blockOp sl slot 0x32)

def execConvert (sl slot : Nat) (s : State) : Out := s.onSlot sl slot (s.blockOp sl slot 0x33)

def execGemv (sl slot : Nat) (s : State) : Out := s.onSlot sl slot (s.blockOp sl slot 0x34)

def execReduce (sl slot : Nat) (s : State) : Out := s.onSlot sl slot (s.blockOp sl slot 0x35)

/-- WIPE: Lead decodes it; the clear ports clear its groups as their clks come. -/
def execWipe (sl slot : Nat) (s : State) : Out := s.onSlot sl slot (s.blockOp sl slot 0x36)

/-! ### Seeds (R253) -/

/-- A write of STRK_SEED_b loads the LFSR in the next clk; a seed of 0 is ignored. -/
def State.storeSeed (s : State) (sl b : Nat) (v : Word) : State :=
  if fld v 0 16 = 0 then s
  else
    let t := (s.putF (A.strkSeed sl b) 16 16 (s.lfsr sl b)).putF (A.strkSeed sl b) 0 16 (fld v 0 16)
    t.modSlice sl fun x => { x with seeds := Tbl.put 0 x.seeds b (s.now + 1) }

def execStrkSeedWrite (sl bank : Nat) (v : Word) (ctx : Nat) (s : State) : Out :=
  if bank < 64 then s.onSlice sl (s.csrAccess (A.strkSeed sl bank) ctx fun t => t.storeSeed sl bank v)
  else .refused .noSuchUnit

end Sys2Proof.Machine
end

