-- ==== Sys2Proof/Machine/Scrub.lean ====
section
/-! DEFINITION. The scrub engine (R288, R289, R291, R305): passes by CSR and by SCRUB, the idle patrol, and what each
word of a pass counts. -/

namespace Sys2Proof.Machine

/-! ### Words (R288) -/

/-- Counts of a pass changed. -/
def State.modPass (s : State) (sl : Nat) (f : ScrubPass → ScrubPass) : State :=
  s.modSlice sl fun x => { x with scrub := x.scrub.map f }

/-- A row is queued for self-test, and by a pass, which waits for it. -/
def State.passTest (s : State) (sl b row : Nat) : State :=
  let n := (s.bank sl b).queue.length
  let t := s.queueTest sl b row
  if n < (t.bank sl b).queue.length then t.modPass sl fun p => { p with tests := p.tests ++ [(b, row)] } else t

/-- The scrub engine reads one word of the array (R288). -/
def State.scrubWord (s : State) (sl b l w8 ctx cls : Nat) : State :=
  if s.wState sl b l w8 = false then s.modPass sl fun p => { p with clear := p.clear + 1 }
  else
    let a := foldAddr b l w8
    let d := decodeWord (s.storedWord sl b l w8) a
    let t := (s.noteWord sl b l w8 3 ctx cls d).modPass sl fun p => { p with words := p.words + 1 }
    if d.bits ≠ 0 then
      let t := (t.writeBack sl b l w8 d.data).passTest sl b (bankRow l)
      t.modPass sl fun p => if d.bits = 1 then { p with one := p.one + 1 } else { p with two := p.two + 1 }
    else if d.poison then t.modPass sl fun p => { p with poisoned := p.poisoned + 1 }
    else if d.bad then
      ((t.putStored sl b l w8 (poisonWord a)).passTest sl b (bankRow l)).modPass sl fun p => { p with bad := p.bad + 1 }
    else t

/-- The scrub engine reads a line. -/
def State.scrubLine (s : State) (sl b l ctx cls : Nat) : State :=
  s.each (List.range 8) fun t w8 => t.scrubWord sl b l w8 ctx cls

/-! ### Passes -/

/-- A pass that begins. -/
def ScrubPass.start (slot : Option (Nat × Nat)) (next last : Nat) (range : Bool) : ScrubPass where
  slot := slot
  next := next
  last := last
  words := 0
  one := 0
  two := 0
  bad := 0
  lasting := 0
  retired := []
  clear := 0
  poisoned := 0
  began := none
  stopped := false
  range := range
  answered := 0
  tests := []

/-- The engine takes a pass up; BUSY shows it. -/
def State.beginPass (s : State) (sl : Nat) (p : ScrubPass) : State :=
  (s.modSlice sl fun x => { x with scrub := some p }).putB (A.scrubCtl sl) 39 true

/-- The SCRUB instruction of a slot whose block has begun and whose pass has not. -/
def State.scrubWaits (s : State) (sl j : Nat) : Option Inst :=
  match (s.slot sl j).followInst with
  | some i =>
    if i.op = 0x38 ∧ (i.blockDescs i.wblk).isSome ∧ (s.slot sl j).free i.no ∧ i.sent = false ∧ s.slotWorks sl j then
      some i
    else none
  | none => none

/-- An idle engine takes up the oldest SCRUB that waits. -/
def State.scrubPump (s : State) (sl : Nat) : State :=
  if (s.slice sl).scrub.isSome then s
  else
    let l := (List.range 16).filterMap fun j => (s.scrubWaits sl j).map fun i => (i.began, j, i)
    match l.mergeSort fun a b => decide (a.1 ≤ b.1) with
    | [] => s
    | (_, j, i) :: _ =>
      let o := srcOf (s.opsNow sl i)
      (s.beginPass sl (ScrubPass.start (some (j, i.no)) 0 o.walkLines false)).modInst sl j i.no fun k => { k with sent := true }

/-- Everything that the stream engine, the sequencer and the scrub engine of a slice do without a slot. -/
def State.pumpEngine (s : State) (sl : Nat) : State := (s.pumpAll sl).scrubPump sl

/-- The pass in progress presents its next access on a bank set: no fence and no guard holds it. -/
def State.passOn (s : State) (sl bset : Nat) : Bool :=
  match (s.slice sl).scrub with
  | none => false
  | some p => match s.passAccess sl p with
    | none => false
    | some (l, _) =>
      l.all fun q => match q.2 with
        | .mem g _ => decide (glSet g = bset) && !(s.bankFenced sl (glBank g))
        | _ => false

/-- The pass reads the lines of an access in the present clk. A SCRUB's access is checked at its banks (R119), and a
fault stops the stream. -/
def State.runPass (s : State) (sl : Nat) : State :=
  match (s.slice sl).scrub with
  | none => s
  | some p => match s.passAccess sl p with
    | none => s
    | some (l, next) =>
      let mark := fun (t : State) => t.modPass sl fun p =>
        { p with next := next, began := some (p.began.getD s.now), answered := s.now + s.latency }
      match p.slot with
      | none => mark (l.foldl (fun (t : State) q => match q.2 with
          | .mem g _ => t.scrubLine sl (glBank g) (glRow g) 0 0
          | _ => t) s)
      | some (j, no) => match s.instNo sl j no with
        | none => s
        | some i =>
          let code := s.homeCode sl (s.stepReq sl j false l noData)
          if code ≠ rspOk then
            (s.strikeHalt sl j i 0 true (if code = rspAborted then 0x0B else if code = rspFenced then 0x0A else 0x02)).settleHalt
              sl j
          else mark (l.foldl (fun (t : State) q => match q.2 with
            | .mem g _ => t.scrubLine sl (glBank g) (glRow g) (s.slotCtx sl j) (s.slotClass sl j)
            | _ => t) s)

/-- A line of a SCRUB that a check refuses stops its stream. -/
def State.passBad (s : State) (sl : Nat) : State :=
  match (s.slice sl).scrub with
  | none => s
  | some p => match p.slot, s.passAccess sl p with
    | some (j, no), some ((_, .bad c) :: _, _) => match s.instNo sl j no with
      | some i => (s.strikeHalt sl j i 0 true c).settleHalt sl j
      | none => s
    | _, _ => s

/-! ### Summary (R289) -/

/-- A row lies in the range of a pass: a line of it does. -/
def State.inRange (s : State) (sl : Nat) (p : ScrubPass) (q : Nat × Nat) : Bool :=
  match p.slot with
  | none =>
    let lo := s.getF (A.scrubCtl sl) 0 18
    let hi := lo + s.getF (A.scrubCtl sl) 18 19
    (List.range 2).any fun k => decide (lo ≤ 64 * (2 * q.2 + k) + q.1) && decide (64 * (2 * q.2 + k) + q.1 < hi)
  | some (j, no) => match s.instNo sl j no with
    | some i =>
      let o := srcOf (s.opsNow sl i)
      (List.range o.walkLines).any fun n => match s.planeSpot sl (s.slotCtx sl j) o n with
        | .mem g _ => decide (glBank g = q.1) && decide (bankRow (glRow g) = q.2)
        | _ => false
    | none => false

/-- The eight words of a summary. -/
def State.summary (s : State) (sl : Nat) (p : ScrubPass) : List Word :=
  let n := fun (k : Nat) => BitVec.ofNat 64 k
  let retired := (p.retired.filter fun q => s.inRange sl p q).length
  let time := match p.began with
    | some c => s.now - c
    | none => 0
  let result := if p.range then 0x01 else if p.stopped then 0x0B else 0
  [n p.words, n p.one, n p.two, n p.bad, setFld (n (p.lasting % 2 ^ 32)) 32 32 retired, n time,
    setFld (n (p.clear % 2 ^ 32)) 32 32 p.poisoned, setFld (setFld 0 0 48 s.beatCount) 48 8 result]

/-- The pass in progress has nothing left to read, and no self-test of its own is left. -/
def State.passOver (s : State) (sl : Nat) (p : ScrubPass) : Bool := (s.passAccess sl p).isNone && p.tests.isEmpty

/-- The summary of a SCRUB is written by Follow to the first line of its summary descriptor. -/
def State.writeSummary (s : State) (sl j : Nat) (i : Inst) (ws : List Word) : State :=
  let o := (s.opsNow sl i).getD 1 Operand.none
  let w := s.spot sl (s.slotCtx sl j) true o 0
  let t := s.modInst sl j i.no fun k => { k.endBlock with sent := false }
  match w with
  | .bad c => s.strikeHalt sl j i 0 false c
  | w => t.addAcc sl j (s.formAcc sl j .write i.no i.wblk o.handle [(0, w)] 1 fun _ => (lineOfWords ws, BitVec.allOnes 64, 0))

/-- A pass completes when its last access has been answered and every self-test that it queued is done. -/
def State.passEnds (s : State) (sl : Nat) : State :=
  let s := s.pumpEngine sl
  match (s.slice sl).scrub with
  | none => s
  | some p =>
    if s.passOver sl p = false then s
    else
      let t := s.reach p.answered
      let ws := t.summary sl p
      let u := (t.modSlice sl fun x => { x with scrub := none }).putB (A.scrubCtl sl) 39 false
      match p.slot with
      | none => (ws.zipIdx.foldl (fun (u : State) (q : Word × Nat) => u.wr (A.scrubSum sl q.2) q.1) u).pumpEngine sl
      | some (j, no) => match u.instNo sl j no with
        | some i => (u.writeSummary sl j i ws).pumpEngine sl
        | none => u

def execScrubPassComplete (sl : Nat) (s : State) : Out := s.onSlice sl (s.passEnds sl)

/-! ### Control (R305) -/

/-- A write of SCRUB_CTL that has reached the slice. GO while BUSY before the write is refused, also beside STOP (R11); a LEN of 0 starts nothing; a range beyond
line 262,143 reads nothing. STOP ends a CSR pass. -/
def State.storeScrub (s s0 : State) (sl : Nat) (v : Word) (ctx : Nat) : State :=
  let a := A.scrubCtl sl
  let busy := s0.getB a 39
  let bad := refusedS (masksOf a) (s.rd a) v (!busy)
  let t := s.storeReg a v (!busy) ctx
  let t := if flag v 37 ∧ busy ∧ bad = false then t.refuseCfg a ctx else t
  if flag v 38 ∧ busy then
    let stop := fun (p : ScrubPass) => if p.slot.isNone then { p with stopped := true } else p
    t.modPass sl stop
  else if flag v 37 ∧ busy = false then
    let lo := t.getF a 0 18
    let n := t.getF a 18 19
    if n = 0 then t
    else t.beginPass sl (ScrubPass.start none lo (lo + n) (decide (262144 < lo + n)))
  else t

/-- A write of SCRUB_CTL. -/
def State.scrubCtl (s : State) (sl : Nat) (v : Word) (ctx : Nat) : State :=
  s.csrAccess (A.scrubCtl sl) ctx fun t => t.storeScrub s sl v ctx

/-- A write of SCRUB_CTL with GO set. -/
def execScrubCtlGo (sl : Nat) (v : Word) (ctx : Nat) (s : State) : Out := s.onSlice sl (s.scrubCtl sl (setFlag v 37 true) ctx)

/-- A write of SCRUB_CTL with STOP set. -/
def execScrubCtlStop (sl : Nat) (v : Word) (ctx : Nat) (s : State) : Out := s.onSlice sl (s.scrubCtl sl (setFlag v 38 true) ctx)

/-- SCRUB: Lead decodes it; its passes begin as the engine is free. -/
def execScrub (sl slot : Nat) (s : State) : Out := s.onSlot sl slot ((s.blockOp sl slot 0x38).scrubPump sl)

/-! ### Idle patrol (R291) -/

/-- The idle patrol reads its next stroke. -/
def State.runPatrol (s : State) (sl : Nat) : State :=
  let n := s.patrolLine sl / 8 * 8
  let t := s.each (List.range 8) fun t k => t.scrubLine sl (glBank (n + k)) (glRow (n + k)) 0 0
  t.putF (A.scrubPatrol sl) 5 18 (n + 8)

end Sys2Proof.Machine
end

