-- ==== Sys2Proof/Machine/Strokes.lean ====
section
/-! DEFINITION. The strokes of Carillon transfers at their receivers, their acknowledgements, and the retirement of the
blocks that they belong to (R144 to R148, R166). -/

namespace Sys2Proof.Machine

/-! ### Transfers -/

/-- The transfer that a group carries. -/
def State.xferOf (s : State) (g : Nat) : Option Xfer := s.net.xfers.find? fun (x : Xfer) => x.g = g

/-- Changes the transfer of a group. -/
def State.modXfer (s : State) (g : Nat) (f : Xfer → Xfer) : State :=
  { s with net := { s.net with xfers := s.net.xfers.map fun (x : Xfer) => if x.g = g then f x else x } }

/-- How many strokes receiver `r` has acknowledged, as the source knows. -/
def Xfer.ackedBy (x : Xfer) (r : Nat) : Nat := Tbl.get 0 x.acked r

/-- The clk since which each receiver's lag exceeds the limit of the group (R147). -/
def State.noteLag (s : State) (g : Nat) : State :=
  let lag := s.getF (A.qosGrpa g) 8 5
  s.modXfer g fun x =>
    { x with lagSince := x.members.foldl (fun (t : Tbl Nat) r =>
        if lag < x.sent - x.ackedBy r then (if Tbl.get 0 t r = 0 then Tbl.put 0 t r (s.now + 1) else t)
        else Tbl.put 0 t r 0) x.lagSince }

/-- The receivers of a transfer are signalled for a block that has retired: FILL of the pair that the MCAST names rises by
1, unless NOSIG is set (R181). The slot's context must be permitted (R257). -/
def State.signalBlock (s : State) (x : Xfer) (i : Inst) : State :=
  if i.opt 5 1 = 1 then s
  else x.members.foldl (fun (t : State) r =>
    if t.claveMay r (i.opt 8 8) x.ctx then t.claveSignal r (i.opt 8 8) false 1 else t) s

/-- Strokes that every receiver has acknowledged leave the transfer once no copy is under way; blocks all of whose strokes
have are retired in order, once every earlier instruction of the slot has (R166), an abandoned MCAST's too (R218). -/
def State.settleXfer (s : State) (g : Nat) : State :=
  match s.xferOf g with
  | none => s
  | some x =>
    let t := s.modXfer g fun x => { x with strokes := x.strokes.filter fun k => x.open' k || !k.copies.isEmpty }
    match (s.slot x.sl x.slot).insts with
    | i :: _ =>
      if i.no ≠ x.no then t
      else
        let done := x.blockEnds.takeWhile fun b => !(x.strokes.any fun k => decide (k.n < b.2) && x.open' k)
        let t := done.foldl (fun (t : State) _ => t.signalBlock x i) t
        let t := t.modXfer g fun x => { x with blockEnds := x.blockEnds.drop done.length }
        t.modInst x.sl x.slot x.no fun k => t.prune x.sl x.slot k
    | [] => t

/-- The transfers of a slot are settled. -/
def State.settleXfers (s : State) (sl j : Nat) : State :=
  ((s.net.xfers.filter fun (x : Xfer) => decide (x.sl = sl) && decide (x.slot = j)).map Xfer.g).foldl State.settleXfer s

/-! ### Landing (R145, R146, R148) -/

/-- A copy of a stroke has reached receiver `r`, or been refused there. -/
def Xfer.dropCopy (id r : Nat) (x : Xfer) : Xfer :=
  { x with strokes := x.strokes.map fun k => { k with
      copies := (k.copies.map fun y => if y.flight = id then { y with left := y.left.erase r } else y).filter fun y =>
        !y.left.isEmpty } }

/-- Receiver `r` has taken a copy out of its landing buffer. -/
def State.dropCopy (s : State) (id r : Nat) : State :=
  let strays := (s.net.strays.map (Xfer.dropCopy id r)).map fun x => { x with strokes := x.strokes.filter fun k => !k.copies.isEmpty }
  { s with net := { s.net with
    xfers := s.net.xfers.map (Xfer.dropCopy id r), strays := strays.filter fun x => !x.strokes.isEmpty } }

/-- A receiver acknowledges a stroke in the clk in which its write is issued (R146). -/
def State.strokeAck (s : State) (r : Nat) (a : Arrived) : State :=
  let f : Flight :=
    { id := s.net.nextFlight, vc := s.channel a.x.sl true, cls := a.x.cls, flits := 1, burst := 0, last := true, at' := s.now
      gap := 1, way := [{ out := s.outKey (s.pos r) 7, back := 0, passed := [] }]
      ack := some { g := a.x.g, n := a.k.n, src := a.x.sl, no := a.x.no, cls := a.x.cls, dests := a.copy.dests, got := [r] } }
  { s with net := { s.net with flights := s.net.flights ++ [f], nextFlight := s.net.nextFlight + 1 } }

/-- A receiver writes a stroke that has won a slot of the present clk there. A fault halts the source's stream (R148). -/
def State.strokePerform (s : State) (r : Nat) (a : Arrived) : State :=
  let p := s.perform r (a.req r)
  let t := p.2.2.dropCopy a.copy.flight r
  if p.1 = rspOk then t.strokeAck r a
  else if t.net.xfers.any fun x => decide ((x.g, x.sl, x.no) = (a.x.g, a.x.sl, a.x.no)) then
    (t.setHalt a.x.sl a.x.slot
      { no := a.x.no, blk := a.k.blk, elem := a.k.first, read := false, code := 0x02, addr := none, recv := some r }).settleHalt
        a.x.sl a.x.slot
  else t

/-- A receiver that cannot take a stroke does not acknowledge it: the source sends it again (R146). -/
def State.strokeRefused (s : State) (r : Nat) (a : Arrived) : State :=
  (s.dropCopy a.copy.flight r).modXfer a.x.g fun x =>
    if x.no = a.x.no ∧ x.sl = a.x.sl then { x with refused := if x.refused.contains r then x.refused else x.refused ++ [r] } else x

/-- A stroke in a landing buffer meets a receiver in Off or fenced, or a kill mark, which absorbs it. -/
def State.settleStroke (s : State) (r : Nat) (a : Arrived) : State :=
  if s.slicePower r = 2 then s.strokeRefused r a
  else if s.killedIn r a.x.ctx then s.dropCopy a.copy.flight r
  else if (if a.k.vec then s.sliceFenced r else decide (s.homeCode r (a.req r) = rspFenced)) then s.strokeRefused r a
  else s

/-- The strokes in the landing buffers of a slice do so. -/
def State.settleStrokes (s : State) (r : Nat) : State := (s.arrivals r).foldl (fun (t : State) a => t.settleStroke r a) s

/-- A stroke in the landing buffer of a slice is written to its vector buffer (R412). -/
def State.landVec (s : State) (r : Nat) (a : Arrived) : State :=
  let v := (s.reach (max a.came (s.laneFrom r ptVecWrite))).takeLane r ptVecWrite
  ((a.k.lines.foldl (fun (v : State) l => v.putVec r l.line l.ben l.data l.psn) v).dropCopy a.copy.flight r).strokeAck r a

/-- Strokes that wait for the write port of the vector buffer go before other writes (R412). -/
def State.landVecs (s : State) (r : Nat) : State :=
  ((s.arrivals r).filter fun a => a.k.vec && decide (a.came ≤ s.now) && !(s.sliceFenced r) && !(s.killedIn r a.x.ctx)).foldl
    (fun (t : State) a => t.landVec r a) s

end Sys2Proof.Machine
end

