-- ==== Sys2Proof/Machine/Tree.lean ====
section
/-! DEFINITION. The reduction tree and what it writes (R247). -/

namespace Sys2Proof.Machine

/-! ### The reduction tree (R247) -/

/-- The clk in which the tree has formed output `k`: its first sum 8 clk after it starts, then 16 a clk (R247). -/
def formedAt (start k : Nat) : Nat := start + 8 + k / 16

/-- The tree writes output lines from walk line WPOS on until all are written, or one is held or faults. -/
def State.treeWrites (s : State) (sl j start : Nat) : Nat → State
  | 0 => s
  | fuel + 1 =>
    match s.strikeInst sl j with
    | none => s
    | some i =>
      let os := s.opsNow sl i
      let dst := dstOf i os
      let g := s.strikeGather sl i (s.slotCtx sl j) true dst (fun _ => true) 8 i.wpos []
      match g.1 with
      | [] => s
      | (n, .bad c) :: _ => (s.strikeHalt sl j i n false c).settleHalt sl j
      | l =>
        let st : SStep := { kind := .write, lines := l, next := g.2, start := 0 }
        let outs := (l.foldl (fun (r : List (Nat × OutData) × State) p =>
          (r.1 ++ [(p.1, s.treeLine sl i os p.1 (r.2.lfsr sl 0))], r.2.stepLfsr sl 0 i.rnd)) ([], s)).1
        let ready := l.foldl (fun m p => (dst.elems p.1).foldl (fun m x => max m (formedAt start x.2 + 1)) m) 0
        let after := fun (t : State) (next : Nat) =>
          let t := outs.foldl (fun (t : State) q => (t.tally sl q.2.tally).stepLfsr sl 0 i.rnd) t
          (t.modInst sl j i.no fun k => { k with wpos := next, lastStep := max k.lastStep (t.now + t.latency) })
        match st.spot, s.guardOf sl dst.handle true st.offs with
        | .vec _, _ =>
          let t := (s.reach (max ready (s.laneFrom sl ptVecWrite))).landVecs sl
          let t := (t.reach (t.laneFrom sl ptVecWrite)).takeLane sl ptVecWrite
          let t := (lineAccs l (dataOf dst outs)).foldl (fun (t : State) a => t.putVec sl a.row a.ben a.data a.psn) t
          (after t g.2).treeWrites sl j start fuel
        | _, .fault c => (s.strikeHalt sl j i ((l.head?.map Prod.fst).getD 0) false c).settleHalt sl j
        | .mem q _, .pass =>
          let bset := glSet q
          if l.any fun p => s.bankFenced sl (bankOfLine p) then s
          else
            let x : Others := { strike := fun c => decide (ready ≤ c), patrol := s.patrolOn sl bset }
            match s.firstWin sl bset x (fun o => decide (o = 19)) 64 (max ready (s.laneFrom sl bset)) with
            | none => s
            | some (c, _) =>
              let t := (((s.reach c).losers sl bset 19 x).takeLane sl bset).countSlot sl 19 (s.slotClass sl j)
              let p := t.perform sl (t.stepReq sl j true l (dataOf dst outs))
              if p.1 ≠ rspOk then
                (t.strikeHalt sl j i ((l.head?.map Prod.fst).getD 0) false (if p.1 = rspAborted then 0x0B else 0x02)).settleHalt
                  sl j
              else
                (after ((p.2.2.countLines sl l.length).stepAdvance sl dst.handle true st.offs) g.2).treeWrites sl j start fuel
        | _, _ => s

/-- The tree works once the last step of the block has reached its accumulators; with NOUT it does nothing. A block whose
output has been written releases the accumulators (R242). -/
def State.reduceTree (s : State) (sl j : Nat) : State :=
  let s := s.pumpAll sl
  match s.strikeInst sl j with
  | none => s
  | some i =>
    if (i.op ≠ 0x34 ∧ i.op ≠ 0x35) ∨ i.taken = false ∨ (s.slot sl j).halt.isSome ∨ s.sumsDone sl j i = false then s
    else if i.nout then (s.modInst sl j i.no Inst.endBlock).pumpAll sl
    else
      let start := match i.tree with
        | some c => c + s.latency
        | none => i.began
      let t := s.treeWrites sl j start ((dstOf i (s.opsNow sl i)).walkLines + 1)
      match t.strikeInst sl j with
      | none => t
      | some k =>
        let dst := dstOf k (t.opsNow sl k)
        if (t.slot sl j).halt.isNone ∧ k.no = i.no ∧ k.wblk = i.wblk ∧ dst.walkLines ≤ dst.nextUsed k.wpos then
          ((t.modInst sl j i.no Inst.endBlock).freeAccs sl).pumpAll sl
        else t

def execReductionTree (sl slot : Nat) (s : State) : Out := s.onSlot sl slot (s.reduceTree sl slot)

end Sys2Proof.Machine
end

