-- ==== Sys2Proof/Machine/Issue.lean ====
section
/-! DEFINITION. The issue of a waiting request: on a lane (R79, R81), at the vector buffer (R412), into the mesh (R140,
R166), at the initiator side of the system port (R123); arrivals through the mesh (R140), the share window (R149,
R150), and accesses held by a fence or a ring guard (R86, R265). -/

namespace Sys2Proof.Machine

/-! ### Issue -/

/-- An access is answered at once with fault code `c`: a check that it meets as it is issued. -/
def State.answerFault (s : State) (sl j : Nat) (a : SeAcc) (c : Nat) : State :=
  let r : Resp :=
    { origin := a.req.origin, ctx := a.req.ctx, cls := a.req.cls, tag := c, write := a.req.write, code := 7, lines := []
      clave := none, banks := 0, issued := s.now, due := s.now, since := s.now }
  s.modSlot sl j fun x => x.issue a.id fun k => { k with resp := some r }

/-- An access is marked issued. -/
def State.markIssued (s : State) (sl j id : Nat) : State :=
  s.modSlot sl j fun x => x.issue id fun k => k

/-- The lines of an access through a guarded ring advance its counts (R264). -/
def State.accAdvance (s : State) (sl : Nat) (a : SeAcc) : State :=
  if a.guardable then s.stepAdvance sl a.handle a.req.write a.offs else s

/-- An access is cut short before the first line that the ring guard faults. -/
def State.cutAcc (s : State) (sl j : Nat) (a : SeAcc) : State :=
  s.modSlot sl j fun x => { x with accs := x.accs.map fun k => if k.id = a.id then s.guardCut sl a else k }

/-- An access of a stream takes a slot of the present clk in its own slice. -/
def State.issueAcc (s : State) (sl j : Nat) (a : SeAcc) : State :=
  match s.accGuard sl a with
  | .fault c => s.answerFault sl j a c
  | _ =>
    let b := s.guardCut sl a
    let p := ((s.cutAcc sl j a).markIssued sl j b.id).perform sl b.req
    let t := if p.1 = rspOk ∨ p.1 = rspPoison then p.2.2.accAdvance sl b else p.2.2
    t.answer sl b.req p.1 p.2.1 none s.now

/-- A request that has won a slot of the present clk is performed and answered. -/
def State.issueCand (s : State) (sl : Nat) (c : Cand) : State :=
  match c.who with
  | .port p =>
    let x := ((s.popPort sl p).modPort sl p fun y => { y with usedTo := s.now + 1 }).perform sl c.req
    (x.2.2.answer sl c.req x.1 x.2.1 none s.now).settlePort sl p 0
  | .home ix =>
    let t := s.modSlice sl fun x => { x with home := dropAt x.home ix }
    let x := t.perform sl c.req
    x.2.2.answer sl c.req x.1 x.2.1 none s.now
  | .stroke id => match (s.arrivals sl).find? fun a => a.copy.flight = id with
    | some a => s.strokePerform sl a
    | none => s
  | .acc j id => match (s.slot sl j).accs.find? fun a => a.id = id with
    | some a => s.issueAcc sl j a
    | none => s

/-- What the strike path, the scrub engine and the idle patrol present on a bank set. -/
def State.others (s : State) (sl bset : Nat) : Others :=
  let rs := s.readySteps sl bset
  let pass := s.passOn sl bset
  { strike := fun c => pass || rs.any fun r => decide (r.start ≤ c), patrol := s.patrolOn sl bset }

/-- Ports whose oldest request takes no slot answer it; requests at home that a fence meets are answered. -/
def State.settleReady (s : State) (sl : Nat) : State := (((s.meshNow).settleSlice sl 0).settleHome sl).settleStrokes sl

/-- The class of the scrub pass in progress: its stream slot's (R122). DESIGN CHOICE: a pass that SCRUB_CTL starts, for no
context, has class 0. -/
def State.passClass (s : State) (sl : Nat) : Nat :=
  match (s.slice sl).scrub.bind ScrubPass.slot with
  | some (j, _) => s.slotClass sl j
  | none => 0

/-- The next slot on a bank set that a waiting request wins: the request is issued there. -/
def State.issueLane (s : State) (sl bset : Nat) : State :=
  let s := (s.settleReady sl).pumpEngine sl
  let x := s.others sl bset
  let pass := s.passOn sl bset
  match s.firstWin sl bset x (fun o => decide (o ≠ 19) || pass) 64 (s.laneFrom sl bset) with
  | none => s
  | some (c, o) =>
    let t := ((s.reach c).losers sl bset o x).takeLane sl bset
    if o = 19 then ((t.countSlot sl 19 (t.passClass sl)).runPass sl).passBad sl |>.pumpEngine sl
    else if o = patrolCode then t.runPatrol sl
    else match s.choose sl o (s.cands sl bset o c) with
      | some k => ((t.countSlot sl o k.req.cls).issueCand sl k).pumpEngine sl
      | none => s

/-! ### Points without a lane -/

/-- The first access of a slot that a test accepts and that nothing holds. -/
def State.accAt (s : State) (sl j : Nat) (p : SeAcc → Bool) : Option SeAcc :=
  let c := max s.now (Tbl.get 0 (s.slice sl).lastIssue ptLead)
  (s.slot sl j).accs.find? fun a => p a && s.accReady sl a (max c a.req.since)

/-- The number of the burst that an access belongs to (R139): accesses of one block to one slice, within 64 lines of the
walk. -/
def SeAcc.burst (a : SeAcc) (sl j : Nat) : Nat :=
  [sl, j, a.no, a.blk, a.req.home, if a.req.write then 1 else 0, (a.ns.head?.getD 0) / 64].foldl
    (fun n x => n * 2 ^ 48 + x) 1

/-- The request of an access that leaves for another slice, with its burst, which ends where no other access of the burst
waits to follow it. -/
def State.burstOf (s : State) (sl j : Nat) (a : SeAcc) : Req :=
  let n := a.burst sl j
  let more := (s.slot sl j).accs.any fun k =>
    decide (k.id ≠ a.id) && !k.issued && k.req.clave.isNone && k.host.isNone && !k.vec && decide (k.burst sl j = n)
  if a.req.clave.isSome then a.req else { a.req with burst := n, last := !more }

/-- Lines that a strike operation has sent leave the staging buffer (R229). -/
def State.freeSent (s : State) (sl j : Nat) (a : SeAcc) : State :=
  s.modInst sl j a.no fun i => if isStrike i.op then s.prune sl j i else i

/-- An access of a stream leaves for another slice. -/
def State.issueRemote (s : State) (sl j point : Nat) (a : SeAcc) : State :=
  match s.accGuard sl a with
  | .fault c => (s.answerFault sl j a c).pumpEngine sl
  | _ =>
    let t := (s.reach (max (s.laneFrom sl point) a.req.since)).takeLane sl point
    let b := t.guardCut sl a
    (((((t.cutAcc sl j a).markIssued sl j b.id).freeSent sl j b).sendPkt sl (t.burstOf sl j b)).accAdvance sl b).pumpEngine sl

/-- Lead offers a request of slot `j` to the router. -/
def State.issueLead (s : State) (sl j : Nat) : State :=
  let s := s.pumpEngine sl
  match s.accAt sl j fun a => decide (a.req.owner = 16) && decide (a.req.home ≠ sl) && a.host.isNone && !a.vec with
  | some a => s.issueRemote sl j ptLead a
  | none => s

/-- The access is a COPY's, whose packets the strike path offers (R229). -/
def State.ofCopy (s : State) (sl j : Nat) (a : SeAcc) : Bool :=
  match s.instNo sl j a.no with
  | some i => decide (i.op = 0x31)
  | none => false

/-- Follow, or the strike path, offers a request of slot `j` to the router. -/
def State.issueFollow (s : State) (sl j : Nat) : State :=
  let s := s.pumpEngine sl
  match s.accAt sl j fun a => decide (a.req.owner = 17) && decide (a.req.home ≠ sl) && a.host.isNone && !a.vec with
  | some a => s.issueRemote sl j (if s.ofCopy sl j a then ptStrike else ptFollow) a
  | none => match s.accAt sl j fun a => a.req.clave.isSome with
    | some a => s.issueRemote sl j ptFollow a
    | none => s

/-- The oldest request of a port leaves for another slice, once its nominal issue clk has come. -/
def State.issuePort (s : State) (sl p : Nat) : State :=
  let s := s.settlePort sl p 0
  match (s.port sl p).queue with
  | [] => s
  | r :: _ =>
    if r.home = sl ∨ (s.headCode sl p r).isSome then s
    else
      let t := s.reach (max r.since (s.port sl p).usedTo)
      if (t.headCode sl p r).isSome then t.settlePort sl p 0
      else
        let t := (t.popPort sl p).modPort sl p fun x => { x with rout := x.rout + 1, usedTo := t.now + 1 }
        (t.sendPkt sl r).settlePort sl p 0

/-- The vector buffer may be accessed: its slice is not fenced. -/
def State.vecMay (s : State) (sl : Nat) : Bool := !(s.sliceFenced sl)

/-- A read of vector-buffer lines, in a clk in which no step of the slice reads a chunk (R412). -/
def State.issueVecRead (s : State) (sl j : Nat) : State :=
  let s := s.pumpEngine sl
  match s.accAt sl j fun a => a.vec && !a.req.write with
  | none => s
  | some a =>
    if s.vecMay sl = false then s
    else
      let c := max (s.laneFrom sl ptVecRead) a.req.since
      let c := if (s.slice sl).chunkAt = c + 1 then c + 1 else c
      let t := ((s.reach c).takeLane sl ptVecRead).markIssued sl j a.id
      let code0 := if s.killedIn sl a.req.ctx then rspAborted else rspOk
      let ls := a.req.lines.zipIdx.map fun p =>
        let v := s.vecLine sl p.1.row
        ({ pos := p.2, data := v.1, psn := v.2 } : LineRsp)
      let bad := ls.any fun l => l.psn ≠ 0
      let code := if code0 ≠ rspOk then code0 else if bad then rspPoison else rspOk
      let t := if code0 ≠ rspOk then t
        else t.touchVec sl a.req.ctx a.req.cls (a.req.lines.flatMap fun l => (List.range 8).map fun w => (l.row, w))
      (t.answer sl a.req code (if code0 ≠ rspOk then [] else ls) none c).pumpEngine sl

/-- The lines of a VECTOR accumulator that an access names are updated in the present clk (R238, R241). -/
def State.vecUpdates (s : State) (sl j : Nat) (i : Inst) (a : SeAcc) : State :=
  match s.blockOps sl i a.blk with
  | none => s
  | some os =>
    let r := (a.ns.zip a.req.lines).foldl (fun (r : List Nat × State) p =>
      let u := r.2.updateVec sl j i os p.1 p.2.row
      (if u.1 then r.1 ++ [p.1] else r.1, u.2)) (([] : List Nat), s)
    r.2.updated sl j i a.ns r.1 i.wpos

/-- A write of vector-buffer lines (R412): landings go first, and an update of an accumulator, which reads and writes, takes
both ports. -/
def State.issueVecWrite (s : State) (sl j : Nat) : State :=
  let s := s.pumpEngine sl
  match s.accAt sl j fun a => a.vec && a.req.write with
  | none => s
  | some a =>
    if s.vecMay sl = false then s
    else
      let acc := (s.instNo sl j a.no).filter fun i => decide (i.op = 0x32)
      let t := (s.reach (max (s.laneFrom sl ptVecWrite) a.req.since)).landVecs sl
      let c := t.laneFrom sl ptVecWrite
      let c := if acc.isSome then max c (t.laneFrom sl ptVecRead) else c
      let c := if acc.isSome ∧ (t.slice sl).chunkAt = c + 1 then c + 1 else c
      let t := (t.reach c).takeLane sl ptVecWrite
      let t := ((if acc.isSome then t.takeLane sl ptVecRead else t).markIssued sl j a.id).freeSent sl j a
      if s.killedIn sl a.req.ctx then (t.answer sl a.req rspAborted [] none c).pumpEngine sl
      else
        let u := match acc with
          | some i => t.vecUpdates sl j i a
          | none => a.req.lines.foldl (fun (t : State) (l : LineAcc) => t.putVec sl l.row l.ben l.data l.psn) t
        (u.answer sl a.req rspOk [] none c).pumpEngine sl

/-- A tag that no outstanding initiator request has. -/
def SysPort.freeTag (p : SysPort) : Option Nat := (List.range 64).find? fun t => !(p.inits.any fun i => i.tag = t)

/-- A request of class `c` may be issued at the initiator side (R151). -/
def State.initFree (s : State) (c : Nat) : Bool :=
  mayTake 64 (fun k => (s.sysport.inits.filter fun i => i.cls = k).length) (fun k => s.share k 32 7) c 1

/-- A host access of slot `j` is issued at the initiator side of the system port (R123, R206). -/
def State.issueHost (s : State) (sl j : Nat) (write : Bool) : State :=
  let s := s.pumpEngine sl
  match s.accAt sl j fun a => a.host.isSome && decide (a.req.write = write) with
  | none => s
  | some a => match a.host, s.sysport.freeTag with
    | some addr, some tag =>
      if s.initFree a.req.cls = false then s
      else
        let t := s.reach a.req.since
        let i : SpInit :=
          { tag := tag, sl := sl, slot := j, acc := a.id, write := write, addr := addr
            lines := a.req.lines.map fun l => (l.data, l.ben), cls := a.req.cls, ctx := a.req.ctx }
        let t := t.launchOut sl a.req.cls (if write then flitsOf a.req.lines.length else 1)
        let t : State := { t with sysport := { t.sysport with inits := t.sysport.inits ++ [i] } }
        (t.markIssued sl j a.id).pumpEngine sl
    | _, _ => s

/-- REQUEST_ISSUE at a point of a slice. -/
def State.issueAt (s : State) (sl : Nat) : IssuePoint → State
  | .lane bset => s.issueLane sl bset
  | .vectorRead j => s.issueVecRead sl j
  | .vectorWrite j => s.issueVecWrite sl j
  | .routerPort p => s.issuePort sl p
  | .routerLead j => s.issueLead sl j
  | .routerFollow j => s.issueFollow sl j
  | .hostRead j => s.issueHost sl j false
  | .hostWrite j => s.issueHost sl j true

/-- The point exists in the slice. -/
def State.hasPoint (s : State) : IssuePoint → Bool
  | .lane bset => decide (bset < 8)
  | .routerPort p => decide (p < s.build.ports)
  | .vectorRead j => decide (j < 16)
  | .vectorWrite j => decide (j < 16)
  | .routerLead j => decide (j < 16)
  | .routerFollow j => decide (j < 16)
  | .hostRead j => decide (j < 16)
  | .hostWrite j => decide (j < 16)

/-- The slice presents at the point: a lane decides for each claimant; a port until step E2 has ended, the streams
until it has begun (R312). -/
def State.pointMay (s : State) (sl : Nat) : IssuePoint → Bool
  | .lane _ => true
  | .routerPort _ => s.portsMay sl
  | .vectorRead _ => s.engineMay sl
  | .vectorWrite _ => s.engineMay sl
  | .routerLead _ => s.engineMay sl
  | .routerFollow _ => s.engineMay sl
  | .hostRead _ => s.engineMay sl
  | .hostWrite _ => s.engineMay sl

def execRequestIssue (sl : Nat) (point : IssuePoint) (s : State) : Out :=
  if s.hasPoint point then s.onSlice sl (s.when (s.pointMay sl point) (s.issueAt sl point)) else .refused .noSuchUnit

/-! ### Held accesses -/

/-- The oldest access of a slot that was answered FENCED is tried again, 256 clk after the last try (R86). -/
def State.reissue (s : State) (sl j : Nat) : State :=
  match (s.slot sl j).accs.find? fun a => a.held with
  | none => s
  | some a =>
    let t := s.reach a.retry
    let again := fun (k : SeAcc) => if k.id = a.id then { k with held := false } else k
    (t.modSlot sl j fun x => { x with accs := x.accs.map again }).pumpEngine sl

/-- A request ID that no outstanding outbound request has. -/
def State.freeRid (s : State) : Option Nat :=
  (List.range 256).find? fun r => !(s.fabric.outbound.any fun (o : FpOut) => o.waiting && decide (o.rid = r))

/-- A request of class `c` may be sent by the fabric port (R151, R367). -/
def State.outFree (s : State) (c : Nat) : Bool :=
  mayTake 256 (fun k => (s.fabric.outbound.filter fun (o : FpOut) => o.waiting && decide (o.cls = k)).length)
    (fun k => s.share k 40 9) c 1

/-- Two entries stand for one write. -/
def FpOut.same (a b : FpOut) : Bool :=
  decide (a.sl = b.sl) && decide (a.slot = b.slot) && decide (a.no = b.no) && decide (a.blk = b.blk) && decide (a.first = b.first)

/-- A packet of slot `j` leaves for the fabric port in the first clk in which Follow offers one to the router. -/
def State.outLeaves (s : State) (sl : Nat) (o : FpOut) : State :=
  let t := ((s.reach (s.laneFrom sl ptFollow)).takeLane sl ptFollow).launchOut sl o.cls (flitsOf o.pkt.lines.length)
  let t := t.fpShow o.pkt
  { t with fabric := { t.fabric with outbound := (t.fabric.outbound.filter fun (k : FpOut) => !(k.same o)) ++ [o] } }

/-- An outbound write that was answered FENCED is sent again, with a fresh request ID (R368). -/
def State.resendOut (s : State) (sl j : Nat) : State :=
  match s.fabric.outbound.find? fun (o : FpOut) => decide (o.sl = sl) && decide (o.slot = j) && o.retry.isSome, s.freeRid with
  | some o, some rid =>
    if s.outFree o.cls = false then s
    else (s.reach (o.retry.getD 0)).outLeaves sl
      { o with waiting := true, retry := none, rid := rid, pkt := { o.pkt with rid := rid } }
  | _, _ => s

/-- FENCED_REISSUE: an access of the slot, or, where none is held, an outbound write. -/
def execFencedReissue (sl slot : Nat) (s : State) : Out :=
  s.onSlot sl slot
    (if (s.slot sl slot).accs.any fun a => a.held then s.reissue sl slot
     else if s.engineMay sl = false then s
     else if s.slotWorks sl slot then s.resendOut sl slot else s)

/-- An access of a slot through a guarded ring is tested again, and issued once its slot's state permits (R265). -/
def State.guardRetry (s : State) (sl j : Nat) : State :=
  let s := s.pumpEngine sl
  let p := fun (a : SeAcc) => !a.vec && a.host.isNone && a.req.clave.isNone && (s.view sl a.handle).e.guarded
  match s.accAt sl j p with
  | none => s
  | some a =>
    if a.req.home ≠ sl then s.issueRemote sl j (if a.req.owner = 16 then ptLead else ptFollow) a
    else
      let bset := a.req.bset
      let x := s.others sl bset
      match s.firstWin sl bset x (fun o => decide (o = a.req.owner)) 64 (max (s.laneFrom sl bset) a.req.since) with
      | none => s
      | some (c, o) =>
        let t := (((s.reach c).losers sl bset o x).takeLane sl bset).countSlot sl o a.req.cls
        (t.issueAcc sl j a).pumpEngine sl

def execGuardHeldRetry (sl slot : Nat) (s : State) : Out :=
  s.onSlot sl slot (s.when (s.engineMay sl) (s.guardRetry sl slot))

/-! ### Arrivals through the mesh (R140) -/

/-- No earlier packet on the same channel between the same slices is under way. -/
def firstOfRoute (l : List Pkt) (k : Nat) (p : Pkt) : Bool :=
  !((l.take k).any fun q => decide (q.src = p.src) && decide (q.dst = p.dst) && decide (q.yfirst = p.yfirst))

/-- The owner code of a request at another slice than its origin's (R17). -/
def ownerAway : Origin → Nat
  | .sysport _ => 20
  | _ => 18

/-- Request packet `k` reaches its home slice: a clave operation acts at its pair, a request that a fence or a kill mark
meets is answered, any other waits for a slot. At a slice asleep it is a wake event, and waits. -/
def State.requestArrives (s : State) (k : Nat) : State :=
  match s.net.pkts[k]? with
  | none => s
  | some p =>
    if firstOfRoute s.net.pkts k p = false then s
    else
      let sl := p.dst
      let t := (s.meshEvent fun n => n.lastOut p.flight (s.exitKey sl)).getD s
      let held := decide (t.slicePower sl ≠ 2) && !(t.wakeFailed sl)
      let t := if held then t.wakeFor sl 1 else t
      if held ∧ t.sliceServes sl = false then t
      else
        let u : State := { t with net := { t.net with pkts := dropAt t.net.pkts k } }
        let q := { p.req with owner := ownerAway p.req.origin }
        match q.clave with
        | some o =>
          if (u.slice sl).fenceOff then u.answer sl q rspFenced [] none u.now
          else
            let x := u.performClave sl q.ctx o
            x.2.2.answer sl q x.1 [] x.2.1 x.2.2.now
        | none => match u.homeNoSlot sl q with
          | some c => u.answer sl q c [] none u.now
          | none => u.modSlice sl fun x => { x with home := x.home ++ [q] }

def execRemoteRequestArrive (k : Nat) (s : State) : Out := .next (s.requestArrives k)

/-- No earlier response between the same slices is under way. -/
def firstOfReturn (l : List RPkt) (k : Nat) (p : RPkt) : Bool :=
  !((l.take k).any fun q => decide (q.src = p.src) && decide (q.dst = p.dst))

/-- Response packet `k` leaves the mesh at its origin (R138): a port presents it from its first flit on, any other takes it
whole. -/
def State.responseArrives (s : State) (k : Nat) : State :=
  match s.net.rpkts[k]? with
  | none => s
  | some p =>
    let o := s.exitKey p.dst
    match s.meshEvent fun n => n.firstOut p.flight o with
    | none => s
    | some t =>
      let due := t.now
      let u := match p.rsp.origin with
        | .port _ _ => t
        | _ => (t.meshEvent fun n => n.lastOut p.flight o).getD t
      let u : State := { u with net := { u.net with rpkts := dropAt u.net.rpkts k } }
      let v := u.deliver { p.rsp with due := due }
      if p.dst = 64 then v else v.pumpEngine p.dst

def execRemoteResponseArrive (k : Nat) (s : State) : Out := .next (s.responseArrives k)

/-- The mesh runs on until the burst that holds an output of a router has released it, or the router has (R139). -/
def State.releaseBurst (s : State) (sl out : Nat) : State :=
  let o := s.outKey (s.pos sl) out
  match s.net.holder o with
  | none => s
  | some h => (s.meshEvent fun n => match n.holder o with
      | some k => if k.burst = h.burst ∧ k.since = h.since then none else some n.meshAt
      | none => some n.meshAt).getD s

def execBurstRelease (sl out : Nat) (s : State) : Out :=
  if out < 6 then s.onSlice sl (s.releaseBurst sl out) else .refused .noSuchUnit

/-! ### Shares (R149, R150) -/

/-- A new share window starts at phase 0 of the next even bar: the counts of every class restart. -/
def State.windowStart (s : State) : State :=
  let c := if s.net.windowAt ≤ s.now ∧ s.now % 64 = 0 ∧ s.net.windowAt ≠ s.now + 1 then s.now else (s.now / 64 + 1) * 64
  let t := s.reach c
  let t := t.each t.sliceList fun t sl => t.modSlice sl fun x => { x with shares := [] }
  { t with net := { t.net with windowAt := t.now + 1 } }

def execShareWindowStart (s : State) : Out := .next s.windowStart

/-- The shares of a QOS_SHARE register with the limit on the sum of each: field, width, limit (R149). -/
def shareFields : List (Nat × Nat × Nat) := [(0, 7, 48), (8, 7, 48), (16, 8, 96), (24, 7, 48), (32, 7, 48), (40, 9, 192)]

/-- The written value of QOS_SHARE_c keeps every sum within its limit. -/
def State.sharesOk (s : State) (c : Nat) (v : Word) : Bool :=
  shareFields.all fun f =>
    decide ((List.range 8).foldl (fun n k => n + if k = c then fld v f.1 f.2.1 else s.getF (A.qosShare k) f.1 f.2.1) 0 ≤ f.2.2)

/-- A write of QOS_SHARE_c (R149). -/
def State.storeShare (s s0 : State) (c : Nat) (v : Word) (ctx : Nat) : State :=
  let s := s.meshNow
  if s0.sharesOk c v then s.storeReg (A.qosShare c) v true ctx else s.refuseCfg (A.qosShare c) ctx
def State.shareWrite (s : State) (c : Nat) (v : Word) (ctx : Nat) : State :=
  s.csrAccess (A.qosShare c) ctx fun t => t.storeShare s c v ctx

def execQosShareWrite (c : Nat) (v : Word) (ctx : Nat) (s : State) : Out := s.onIndex c 8 (s.shareWrite c v ctx)

end Sys2Proof.Machine
end

