-- ==== Sys2Proof/Machine/Carillon.lean ====
section
/-! DEFINITION. Carillon multicast (R144 to R148) at the source: the decode of MCAST, strokes sent, acknowledged and sent
again, and receivers shed; and the landing of strokes. -/

namespace Sys2Proof.Machine

/-! ### Transfers -/

/-- A transfer that begins (R144): its members are those of the group, less the shed mask where it resumes (R148). -/
def State.newXfer (s : State) (sl j g no : Nat) (shed : Word) : Xfer where
  g := g
  sl := sl
  slot := j
  no := no
  members := (bitsOf (s.rd (A.qosGrp g) &&& ~~~shed)).filter s.hasSlice
  sent := 0
  strokes := []
  acked := []
  refused := []
  lagSince := []
  resent := s.now
  blockEnds := []
  ctx := s.slotCtx sl j
  cls := s.slotClass sl j

/-- Lead decodes MCAST: RANGE outside the slice that may use the group; a transfer begins unless there is nothing to
send. -/
def State.mcastInstr (s : State) (sl j : Nat) (w : Word) : State :=
  let g := fld w 0 4
  if s.getF (A.qosGrpa g) 0 6 ≠ sl then s.haltAtPc sl j 0x01
  else
    let no := (s.slot sl j).nextNo
    let shed := if (s.slot sl j).resuming then s.rd (A.seSlotShed sl j) else 0
    let t := s.pushBlock sl j w id
    match t.instNo sl j no with
    | some i =>
      if i.abandoned ∨ i.count ≤ i.wblk then t
      else { t with net := { t.net with xfers := t.net.xfers ++ [t.newXfer sl j g no shed] } }
    | none => t

def execMcast (sl slot : Nat) (s : State) : Out :=
  s.onSlot sl slot ((s.decode sl slot 0x21 fun t w => t.mcastInstr sl slot w).pumpEngine sl)

/-! ### Sending (R145, R146) -/

/-- Every receiver has acknowledged the stroke 16 before the next (R146). -/
def Xfer.window (x : Xfer) : Bool := !(x.strokes.any fun k => decide (k.n + 16 ≤ x.sent) && x.open' k)

/-- A block of an MCAST has no line left to send. -/
def State.mcastBlockEnd (s : State) (x : Xfer) (i : Inst) : State :=
  let t := s.modXfer x.g fun x => { x with blockEnds := x.blockEnds ++ [(i.wblk, x.sent)] }
  (t.modInst x.sl x.slot i.no fun k => t.prune x.sl x.slot { k with wblk := k.wblk + 1, wpos := 0 }).settleXfer x.g

/-- The number of the burst of a stroke (R139): 8 strokes of a transfer. -/
def Xfer.burst (x : Xfer) (n : Nat) : Nat := 2 * [x.g, x.sl, x.no, n / 8].foldl (fun m k => m * 2 ^ 48 + k) 2

/-- A stroke leaves the source for some receivers, along the tree of the routes to them. -/
def State.sendStroke (s : State) (x : Xfer) (k : Stroke) (rs : List Nat) (burst : Nat) (last : Bool) : Nat × State :=
  s.launch x.sl rs false x.cls (flitsOf k.lines.length) burst last s.now 1

/-- What the ring guard of the destination's handle answers for a stroke: it is asked at the source, where the stroke enters
the mesh (R262). DESIGN CHOICE (R262): the spec does not say where an MCAST's writes enter through their handle. -/
def State.strokeGuard (s : State) (sl h : Nat) (l : List (Nat × Spot)) : Nat × GuardSays := s.guardSplit sl h true (ringOffs l)

/-- The next stroke of a transfer is sent along the tree, in a clk in which Lead offers no other packet (R163). A line of the
destination that a check refuses, or that the guard of its ring faults, stops the stream (R148); one that the guard holds
waits (R265). -/
def State.strokeSend (s : State) (g : Nat) : Nat → State
  | 0 => s
  | fuel + 1 =>
    match s.xferOf g with
    | none => s
    | some x => match (s.slot x.sl x.slot).followInst with
      | none => s
      | some i =>
        if i.no ≠ x.no ∨ s.slotWorks x.sl x.slot = false then s
        else match s.blockOps x.sl i i.wblk with
          | none => s
          | some os =>
            let src := srcOf os
            let dst := os.getD 1 Operand.none
            let l := s.nextAccess x.sl x.ctx true dst i.wpos
            let stop : Bool := match (s.slot x.sl x.slot).halt with
              | some h => !(decide (i.no < h.no) || (h.read && decide (i.no = h.no)))
              | none => false
            match l.1 with
            | [] => if i.rblk ≤ i.wblk then s else (s.mcastBlockEnd x i).strokeSend g fuel
            | (n, .bad c) :: _ =>
              if haveLines dst src (i.lines i.wblk) n then (s.strikeHalt x.sl x.slot i n false c).settleHalt x.sl x.slot else s
            | ls =>
              let r := s.readyGroup x.sl x.slot dst src (i.lines i.wblk) ls
              let r := match s.strokeGuard x.sl dst.handle r with
                | (k, .fault _) => if k = 0 then r else r.take k
                | _ => r
              if r.isEmpty ∨ x.window = false ∨ stop then s
              else match s.strokeGuard x.sl dst.handle r with
                | (_, .hold) => s
                | (_, .fault c) =>
                  (s.strikeHalt x.sl x.slot i ((r.head?.map Prod.fst).getD 0) false c).settleHalt x.sl x.slot
                | _ =>
                  let next := if r.length = ls.length then l.2 else (r.getLast?.map fun p => p.1 + 1).getD i.wpos
                  let data := moveData dst src (i.lines i.wblk)
                  let vec : Bool := match r.head?.map Prod.snd with
                    | some (.vec _) => true
                    | _ => false
                  let s := (s.reach (s.laneFrom x.sl ptLead)).takeLane x.sl ptLead
                  let k : Stroke :=
                    { n := x.sent, blk := i.wblk, first := (r.head?.map Prod.fst).getD 0, vec := vec
                      bset := match r.head?.map Prod.snd with
                        | some (.mem q _) => glSet q
                        | _ => 0
                      sent := s.now
                      lines := r.map fun p =>
                        let d := data p.1
                        { line := match p.2 with
                            | .mem q _ => q % 262144
                            | .vec v => v
                            | _ => 0
                          data := d.1, ben := d.2.1, psn := d.2.2 }
                      copies := [], acked := [] }
                  let last := decide (x.sent % 8 = 7) || decide (dst.walkLines ≤ dst.nextUsed next)
                  let f := s.sendStroke x k x.members (x.burst x.sent) last
                  let k := { k with copies := [{ dests := x.members, left := x.members, flight := f.1 }] }
                  let t := f.2.modXfer g fun x => { x with sent := x.sent + 1, strokes := x.strokes ++ [k] }
                  let t := t.stepAdvance x.sl dst.handle true (ringOffs r)
                  let t := t.modInst x.sl x.slot i.no fun y => { y with wpos := next }
                  ((t.noteLag g).settleXfer g).pumpEngine x.sl

def execMcastStrokeSend (g : Nat) (s : State) : Out :=
  s.onIndex g 16 (match s.xferOf g with
    | some x => (s.pumpEngine x.sl).strokeSend g 3
    | none => s)

/-! ### Landing (R145, R146, R148) -/

/-- The earliest of some strokes. -/
def firstArrived : List Arrived → Option Arrived
  | [] => none
  | a :: l => match firstArrived l with
    | some b => if b.came < a.came then some b else some a
    | none => some a

/-- The mesh runs on until a stroke of group `g` is in the landing buffer of receiver `r`. -/
def State.strokeComes (s : State) (g r : Nat) : Option (Arrived × State) :=
  let here := fun (t : State) => firstArrived ((t.arrivals r).filter fun a => a.x.g = g)
  if (s.net.xfers ++ s.net.strays).all fun x => x.g ≠ g then none
  else match s.meshEvent fun n => (here { s with net := n }).map Arrived.came with
    | some t => (here t).map fun a => (a, t)
    | none => none

/-- A stroke in the landing buffer of slice `r` waits there no more. -/
def State.strokeGone (s : State) (r id : Nat) : Bool := (s.arrivals r).all fun a => a.copy.flight ≠ id

/-- The mesh takes slots of a bank set until it has written a stroke. -/
def State.strokeWrite (s : State) (r : Nat) (a : Arrived) : Nat → State
  | 0 => s
  | n + 1 =>
    if s.strokeGone r a.copy.flight then s
    else
      let x := s.others r a.k.bset
      match s.firstWin r a.k.bset x (fun o => decide (o = 18)) 64 (s.laneFrom r a.k.bset) with
      | none => s
      | some (c, o) =>
        let t := ((s.reach c).losers r a.k.bset o x).takeLane r a.k.bset
        match s.choose r o (s.cands r a.k.bset o c) with
        | some k => (((t.countSlot r o k.req.cls).issueCand r k).pumpEngine r).strokeWrite r a n
        | none => t

/-- A stroke of a group that has reached receiver `r` is written there. -/
def State.strokeLand (s : State) (g r : Nat) : State :=
  match s.strokeComes g r with
  | none => s
  | some (a, t) =>
    let held := decide (t.slicePower r ≠ 2) && !(t.wakeFailed r)
    let t := if held then t.wakeFor r 1 else t
    if held ∧ t.sliceServes r = false then t
    else
      let u := t.settleReady r
      if u.strokeGone r a.copy.flight then u
      else if a.k.vec then
        u.landVec r a
      else u.strokeWrite r a 16

def execMcastLand (g r : Nat) (s : State) : Out :=
  if g < 16 then s.onSlice r (s.strokeLand g r) else .refused .noSuchUnit

/-! ### Acknowledgements (R146) -/

/-- The acknowledgement is of stroke `n` of a transfer. -/
def Xfer.acks (x : Xfer) (n : Nat) (a : AckMark) : Bool := decide ((a.g, a.src, a.no, a.n) = (x.g, x.sl, x.no, n))

/-- An acknowledgement of stroke `n` that comes back to the source, and the clk in which it does. -/
def State.ackAt (s : State) (x : Xfer) (n : Nat) (net : Net) : Option (Flight × Nat) :=
  net.flights.findSome? fun f => match f.ack with
    | some a => if x.acks n a then (f.leftBy (s.exitKey x.sl) 0).map fun c => (f, c) else none
    | none => none

/-- Receivers have acknowledged stroke `n`. -/
def Xfer.takeAck (x : Xfer) (n : Nat) (got : List Nat) : Xfer :=
  match x.strokes.find? fun k => k.n = n with
  | none => x
  | some k =>
    let new := (got.filter fun r => x.members.contains r && !(k.acked.contains r)).eraseDups
    { x with
      strokes := x.strokes.map fun y => if y.n = n then { y with acked := y.acked ++ new } else y
      acked := new.foldl (fun (t : Tbl Nat) r => Tbl.put 0 t r (Tbl.get 0 t r + 1)) x.acked }

/-- A merged acknowledgement of stroke `n` returns to the source; that of a receiver which has been shed is ignored
(R147). -/
def State.ackMerge (s : State) (g n : Nat) : State :=
  match s.xferOf g with
  | none => s
  | some x =>
    if !(s.net.flights.any fun f => (f.ack.map (x.acks n)).getD false) && !(s.net.merges.any fun m => x.acks n m.ack) then s
    else match s.meshEvent fun net => (s.ackAt x n net).map Prod.snd with
      | none => s
      | some t => match t.ackAt x n t.net with
        | none => t
        | some (f, _) =>
          let t : State := { t with net := { t.net with flights := t.net.flights.filter fun y => y.id ≠ f.id } }
          let t := t.modXfer g fun y => y.takeAck n ((f.ack.map AckMark.got).getD [])
          ((t.noteLag g).settleXfer g).pumpEngine x.sl

def execMcastAckMerge (g n : Nat) (s : State) : Out := s.onIndex g 16 (s.ackMerge g n)

/-- The strokes that a receiver has not acknowledged are sent to it alone. -/
def State.resendTo (s : State) (x : Xfer) (r : Nat) : State :=
  (x.strokes.filter fun k => !(k.acked.contains r)).foldl (fun (t : State) k =>
    let f := t.sendStroke x k [r] 0 true
    f.2.modXfer x.g fun y => { y with strokes := y.strokes.map fun z =>
      if z.n = k.n then { z with copies := z.copies ++ [{ dests := [r], left := [r], flight := f.1 }] } else z }) s

/-- Every 256 clk the source sends again, to receivers that could not take them, the strokes that they have not
acknowledged. -/
def State.strokeResend (s : State) (g : Nat) : State :=
  match s.xferOf g with
  | none => s
  | some x =>
    if x.refused.isEmpty then s
    else
      let t := s.reach (x.resent + 256)
      let t := (x.refused.filter fun r => x.members.contains r).foldl (fun (t : State) r => t.resendTo x r) t
      t.modXfer g fun y => { y with refused := [], resent := t.now }

def execMcastResend (g : Nat) (s : State) : Out := s.onIndex g 16 (s.strokeResend g)

/-! ### Shedding (R147) -/

/-- The MCAST of a transfer has policy SHED. -/
def State.shedPolicy (s : State) (x : Xfer) : Bool :=
  match s.instNo x.sl x.slot x.no with
  | some i => decide (i.opt 4 1 = 1)
  | none => false

/-- Receiver `r`, whose lag has exceeded LAG for SHEDT consecutive clk, is shed. -/
def State.shed (s : State) (g r : Nat) : State :=
  match s.xferOf g with
  | none => s
  | some x =>
    let since := Tbl.get 0 x.lagSince r
    if x.members.contains r = false ∨ since = 0 ∨ s.shedPolicy x = false then s
    else
      let t := s.reach (since - 1 + s.getF (A.qosGrpa g) 16 16)
      let d := setFld (setFld (setFld 0 0 6 r) 6 4 g) 10 32 (x.ackedBy r)
      let t := t.slotRec x.sl x.slot 0x0E d
      let t := (t.putB (A.seSlotShed x.sl x.slot) r true).count (A.meshShed x.sl) 0 48 1
      let t := t.modXfer g fun y => { y with members := y.members.erase r }
      (t.settleXfer g).pumpEngine x.sl

def execMcastShed (g r : Nat) (s : State) : Out :=
  if g < 16 then s.onSlice r (s.shed g r) else .refused .noSuchUnit

end Sys2Proof.Machine
end

