-- ==== Sys2Proof/Machine/SeAccess.lean ====
section
/-! DEFINITION. Answers to the accesses of streams (R184, R167, R207), the decode of MOVE, and retirement (R166). -/

namespace Sys2Proof.Machine

/-! ### MOVE -/

/-- MOVE: Lead decodes it; its reads and writes follow. -/
def execMove (sl slot : Nat) (s : State) : Out := s.onSlot sl slot ((s.blockOp sl slot 0x20).pumpEngine sl)

/-! ### Answers (R184) -/

/-- Removes an access. -/
def State.dropAcc (s : State) (sl j id : Nat) : State :=
  s.modSlot sl j fun x => { x with accs := x.accs.filter fun a => a.id ≠ id }

/-- An access answered FENCED is held, and is tried again after 256 clk (R86). -/
def State.holdAcc (s : State) (sl j id : Nat) : State :=
  let hold := fun (a : SeAcc) =>
    if a.id = id then { a with issued := false, held := true, resp := none, retry := s.now + 256 } else a
  s.modSlot sl j fun x => { x with accs := x.accs.map hold }

/-- The lines of an answered read, each with its walk line. Host data answered POISON is poisoned whole (R124). -/
def accLines (a : SeAcc) (r : Resp) : List (Nat × Line × WordEn) :=
  a.ns.zipIdx.map fun p =>
    let want := if a.host.isSome ∨ a.vec then p.2 else ((a.req.lines[p.2]?).map LineAcc.bank).getD 0
    match r.lines.find? fun l => l.pos = want with
    | some l => (p.1, l.data, l.psn)
    | none => (p.1, 0, 0)

/-- Lines of an answered read, numbered within their access, are held for their block (R162). -/
def State.keepLines (s : State) (sl j : Nat) (a : SeAcc) (r : Resp) (l : List ((Nat × Line × WordEn) × Nat)) : State :=
  let ls := l.map fun p =>
    ({ blk := a.blk, n := p.1.1, data := p.1.2.1, psn := p.1.2.2, entry := a.id * 8 + p.2 / 8, ready := r.due } : SrcLine)
  s.modInst sl j a.no fun i => { i with buf := i.buf ++ ls }

/-- Data of an answered read is held for its block. -/
def State.keepRead (s : State) (sl j : Nat) (a : SeAcc) (r : Resp) : State := s.keepLines sl j a r (accLines a r).zipIdx

/-- A read is answered. -/
def State.readAnswer (s : State) (sl j : Nat) (a : SeAcc) (r : Resp) : State :=
  let c := r.faultCode
  let t := s.dropAcc sl j a.id
  let halt := fun (n : Nat) (addr : Option Nat) =>
    t.setHalt sl j { no := a.no, blk := a.blk, elem := n, read := true, code := c, addr := addr } a.id
  let first := a.ns.headD 0
  if c = 0 then t.keepRead sl j a r
  else if c = 0x0A then s.holdAcc sl j a.id
  else if c = 0x03 then
    let n := match (accLines a r).find? fun l => l.2.2 ≠ 0 with
      | some l => l.1
      | none => first
    if s.phalt sl j then
      let before := (accLines a r).zipIdx.filter fun p => p.1.1 < n
      let k := t.keepLines sl j a r before
      k.setHalt sl j { no := a.no, blk := a.blk, elem := n, read := true, code := c, addr := none } a.id
    else match t.instNo sl j a.no with
      | some i =>
        let e := if paired i.op then t.destOf sl i a.blk n else 0
        (t.slotRec sl j 0x03 (posDetail i.pc a.blk e)).keepRead sl j a r
      | none => t
  else if c = 0x07 then halt first a.host
  else halt first none

/-- A write is answered: its line has been committed, or its fault stops the stream. -/
def State.writeAnswer (s : State) (sl j : Nat) (a : SeAcc) (r : Resp) : State :=
  let c := r.faultCode
  let t := s.dropAcc sl j a.id
  if c = 0 ∨ c = 0x03 then t.modInst sl j a.no fun i => t.prune sl j { i with lastStep := max i.lastStep r.due }
  else if c = 0x0A then s.holdAcc sl j a.id
  else t.setHalt sl j
    { no := a.no, blk := a.blk, elem := a.ns.headD 0, read := false, code := c, addr := if c = 0x07 then a.host else none }

/-- A remote SIGNAL is answered. -/
def State.signalAnswer (s : State) (sl j : Nat) (a : SeAcc) (r : Resp) : State :=
  let c := r.faultCode
  let t := s.dropAcc sl j a.id
  if c = 0 ∨ c = 0x03 then t.modInst sl j a.no fun i => { i with lastStep := max i.lastStep r.due }
  else if c = 0x0A then s.holdAcc sl j a.id
  else t.setHalt sl j { no := a.no, blk := 0, elem := 0, read := false, code := c, addr := none }

/-- The answer to access `k` of a slot takes effect in the clk in which it is there. -/
def State.accAnswer (s : State) (sl j k : Nat) : State :=
  match (s.slot sl j).accs.find? fun a => a.id = k with
  | none => s
  | some a => match a.resp with
    | none => s
    | some r =>
      let t := s.reach r.due
      if a.dropped then (t.dropAcc sl j k).pumpEngine sl
      else match a.kind with
        | .read => (t.readAnswer sl j a r).pumpEngine sl
        | .write => (t.writeAnswer sl j a r).pumpEngine sl
        | .signal => (t.signalAnswer sl j a r).pumpEngine sl
        | _ => s

def execSeAccessResponse (sl slot k : Nat) (s : State) : Out := s.onSlot sl slot (s.accAnswer sl slot k)

/-- The oldest answered access of a kind. -/
def Slot.answered (x : Slot) (kind : AccKind) : Option (SeAcc × Resp) :=
  (x.accs.filter fun a => a.kind = kind).findSome? fun a => a.resp.map fun r => (a, r)

/-- An instruction line arrives: it takes the place of the line that does not hold PC. A halting code is kept until the
line is needed (R184). -/
def State.fetchArrives (s : State) (sl j : Nat) : State :=
  let s := s.pumpEngine sl
  match (s.slot sl j).answered .fetch with
  | none => s
  | some (a, r) =>
    let t := s.reach r.due
    let u := t.dropAcc sl j a.id
    let n := a.offs.headD 0
    let pc := t.pc sl j / 8
    if a.dropped then u.pumpEngine sl
    else if r.faultCode = 0 then
      let data := ((accLines a r).head?.map fun l => l.2.1).getD 0
      (u.modSlot sl j fun x =>
        { x with fetched := (x.fetched.filter fun f => decide (f.1 = pc) && decide (f.1 ≠ n)) ++ [(n, data)] }).pumpEngine sl
    else if r.faultCode = 0x0A then (t.holdAcc sl j a.id).pumpEngine sl
    else (u.modSlot sl j fun x => { x with badFetch := x.badFetch ++ [(n, r.faultCode)] }).pumpEngine sl

def execInstrFetchArrive (sl slot : Nat) (s : State) : Out := s.onSlot sl slot (s.fetchArrives sl slot)

/-- A descriptor enters the buffer of 32; a free entry, the oldest first, makes room (R207). -/
def Slot.putDesc (x : Slot) (h n : Nat) (l : Line) : Slot :=
  let rest := x.descs.filter fun d => !(decide (d.handle = h) && decide (d.line = n))
  let oldest := (rest.filter fun d => !(x.descBusy d)).foldl (fun (m : Option DescEntry) d => match m with
    | some e => if d.stamp < e.stamp then some d else some e
    | none => some d) none
  let rest := if rest.length < 32 then rest else match oldest with
    | some d => rest.erase d
    | none => rest
  { x with descs := rest ++ [{ handle := h, line := n, data := l, stamp := x.stamp }], stamp := x.stamp + 1 }

/-- A burst of descriptors arrives; lines answered with a halting code, or poisoned, are kept as such. -/
def State.descArrives (s : State) (sl j : Nat) : State :=
  let s := s.pumpEngine sl
  match (s.slot sl j).answered .desc with
  | none => s
  | some (a, r) =>
    let t := s.reach r.due
    let u := t.dropAcc sl j a.id
    let c := r.faultCode
    let lines := (accLines a r).zip a.offs
    let bad := fun (n : Nat) (x : Slot) => { x with badDesc := x.badDesc ++ [(a.handle, n, c)] }
    if a.dropped then u.pumpEngine sl
    else if c = 0x0A then (t.holdAcc sl j a.id).pumpEngine sl
    else
      (u.modSlot sl j fun x => lines.foldl (fun (x : Slot) p =>
        if c = 0 ∨ (c = 0x03 ∧ p.1.2.2 = 0) then x.putDesc a.handle p.2 p.1.2.1 else bad p.2 x) x).pumpEngine sl

def execDescBurstArrive (sl slot : Nat) (s : State) : Out := s.onSlot sl slot (s.descArrives sl slot)

/-! ### Retirement (R166) -/

/-- Everything that an instruction has caused has been answered or acknowledged. -/
def State.workDone (s : State) (sl j : Nat) (i : Inst) : Bool :=
  i.issuedAll && !((s.slot sl j).busyWith i.no) && !((s.slot sl j).accs.any fun a => a.no = i.no ∧ a.kind = .write) &&
    !(s.fabric.outbound.any fun (o : FpOut) => decide (o.sl = sl) && decide (o.slot = j) && decide (o.no = i.no)) &&
    !(s.net.xfers.any fun (x : Xfer) => x.of sl j i.no && (x.strokes.any x.open' || (!i.abandoned && !x.blockEnds.isEmpty)))

/-- Instructions that retire by this event: block instructions and remote SIGNALs. -/
def retires (i : Inst) : Bool := isBlock i.op || (decide (i.op = 0x19) && i.sent)

/-- The tag of a slot is closed (R182). -/
def State.closeTag (s : State) (sl j : Nat) : State :=
  (s.putB (A.seSlotBeat0 sl j) 56 false).putF (A.seSlotArm sl j) 48 16 0

/-- The instruction at the head of Follow retires. -/
def State.retire (s : State) (sl j : Nat) : State :=
  let s := s.pumpEngine sl
  let s := (if ((s.slot sl j).headIs 0x36).isSome then s.wipeOut sl j 65536 else s).settleXfers sl j
  match (s.slot sl j).insts with
  | [] => s
  | i :: _ =>
    let stops : Bool := match (s.slot sl j).halt with
      | some h => decide (h.no ≤ i.no)
      | none => false
    if retires i = false ∨ s.workDone sl j i = false ∨ (s.slotState sl j ≠ 2 ∧ s.slotState sl j ≠ 3) ∨ stops then s
    else
      let t := s.reach (max i.lastStep (s.slot sl j).followAt)
      let t := t.dropHead sl j
      let t := t.endXfers fun x => x.of sl j i.no
      let t := if isBlock i.op then t.count (A.ctxProgress (t.slotCtx sl j)) 24 24 1 else t
      let t := if i.op = 0x23 then t.closeTag sl j else t
      let t := if i.abandoned ∧ (i.op = 0x34 ∨ i.op = 0x35) then t.releaseAccs sl j else t
      (t.deadlineMet sl j).pumpEngine sl

def execInstructionRetire (sl slot : Nat) (s : State) : Out := s.onSlot sl slot (s.retire sl slot)

end Sys2Proof.Machine
end

