-- ==== Sys2Proof/Machine/Fabric.lean ====
section
/-! DEFINITION. The fabric port (R363 to R377): outbound writes of REMOTE and TOLL, inbound requests and responses, chip
windows, and the Knell. -/

namespace Sys2Proof.Machine

/-! ### REMOTE and TOLL (R182, R367, R368) -/

def execRemote (sl slot : Nat) (s : State) : Out := s.onSlot sl slot ((s.blockOp sl slot 0x22).pumpEngine sl)

def execToll (sl slot : Nat) (s : State) : Out := s.onSlot sl slot ((s.blockOp sl slot 0x23).pumpEngine sl)

/-- Every byte of walk line `n` belongs to a valid element. -/
def Operand.full (o : Operand) (n : Nat) : Bool := decide (o.byteEns n = BitVec.ofNat 64 (2 ^ 64 - 1))

/-- The entry of a write of block `b` that a fault has held back, whose first walk line is `n`. -/
def State.parked (s : State) (sl j : Nat) (i : Inst) (n : Nat) : Option FpOut :=
  s.fabric.outbound.find? fun (o : FpOut) =>
    decide (o.sl = sl) && decide (o.slot = j) && decide (o.no = i.no) && decide (o.blk = i.wblk) && decide (o.first = n)

/-- The walk lines of the next packet, of which `n` is the first: those of a write formed before; a line with partial
enables alone; else up to 64 consecutive walk lines, all fully enabled, at consecutive window offsets (R367). -/
def State.outGroup (s : State) (sl j : Nat) (i : Inst) (dst : Operand) (n : Nat) : List Nat :=
  match s.parked sl j i n with
  | some o => (List.range o.count).map fun k => n + k
  | none =>
    if dst.full n = false then [n]
    else ((List.range (min 64 (dst.walkLines - n))).map fun k => n + k).takeWhile fun m =>
      decide (m = n) ||
        (dst.full m && decide (dst.lineOff m = dst.lineOff n + (m - n : Nat)) && decide (dst.lineOff m < 2 ^ 25)
          && !(i.outDone i.wblk m) && (s.parked sl j i m).isNone)

/-- Blocks behind the present one hold a line to send; none while that is not yet known. -/
def State.outLater (s : State) (sl : Nat) (i : Inst) : Option Bool :=
  let bs := (List.range (i.count - i.wblk - 1)).map fun k => i.wblk + 1 + k
  match bs.find? fun b => match s.blockOps sl i b with
    | some os => (i.outNext (os.getD 1 Operand.none) b 0).isSome
    | none => true with
  | none => some false
  | some b => if (s.blockOps sl i b).isSome then some true else none

/-- The packet whose first line is `n` is the tolled write of a TOLL: nothing is left behind it. -/
def State.outLast (s : State) (sl : Nat) (i : Inst) (dst : Operand) (g : List Nat) : Option Bool :=
  if i.op ≠ 0x23 ∨ (i.outNext dst i.wblk ((g.getLast?.map (· + 1)).getD 0)).isSome then some false
  else (s.outLater sl i).map (!·)

/-- The open tag of a slot, and TCOUNT (R190). -/
def State.openTag (s : State) (sl j : Nat) : Option Nat :=
  if s.getB (A.seSlotBeat0 sl j) 56 then some (s.getF (A.seSlotBeat0 sl j) 48 8) else none
def State.tcount (s : State) (sl j : Nat) : Nat := s.getF (A.seSlotArm sl j) 48 16

/-- Opens the tag of an instruction. -/
def State.setTag (s : State) (sl j g : Nat) : State :=
  (s.putF (A.seSlotBeat0 sl j) 48 8 g).putB (A.seSlotBeat0 sl j) 56 true

/-- The packet of a group of walk lines (R364, R367). -/
def State.outPacket (s : State) (sl j : Nat) (i : Inst) (dst src : Operand) (g : List Nat) (rid : Nat)
    (toll : Option Nat) : Packet :=
  let n := g.headD 0
  let d := g.map (moveData dst src (i.lines i.wblk))
  let sx := i.s (i.opt 0 4)
  { type := if dst.full n then 1 else 2
    ver := 1
    src := s.getF A.chipId 0 16
    dst := sx % 65536
    win := sx / 65536 % 64
    tag := i.opt 4 8
    jobid := s.jobId (s.slotCtx sl j)
    offset := (dst.lineOff n).toNat
    len := g.length - 1
    toll := toll.isSome
    count := toll.getD 0
    rid := rid
    code := 0
    ben := if dst.full n then 0 else dst.byteEns n
    psn := maskOf ((List.range d.length).filter fun k => match d[k]? with
      | some x => decide (x.2.2 ≠ 0)
      | none => false)
    lines := d.map Prod.fst }

/-- The lines of a group whose data has come: all of them, or, where Lead can read no further, those before the first
that is missing. A write formed before is sent whole. -/
def State.outReady (s : State) (sl j : Nat) (i : Inst) (dst src : Operand) (g : List Nat) : List Nat :=
  let have' := g.takeWhile (haveLines dst src (i.lines i.wblk))
  if have'.length = g.length then g
  else if (s.parked sl j i (g.headD 0)).isSome then []
  else if s.stuck sl j ∨ (s.slot sl j).halt.isSome then have' else []

/-- The outbound instruction may send: the slot is RUN, no earlier instruction waits for an answer, and no fault before
it is pending. -/
def State.outMay (s : State) (sl j : Nat) (i : Inst) : Bool :=
  let x := s.slot sl j
  let stop : Bool := match x.halt with
    | some h => !(decide (i.no < h.no) || (h.read && decide (i.no = h.no)))
    | none => false
  isOut i.op && s.slotWorks sl j && !stop && !(s.outOpen sl j i.no) && !(x.accs.any fun a => a.kind = .write ∧ !a.dropped)
    && !(x.insts.any fun k => decide (k.no < i.no))

/-- Follow sends the packet of group `g`. -/
def State.outSend (s : State) (sl j : Nat) (i : Inst) (dst src : Operand) (g : List Nat) (last : Bool) (rid : Nat) :
    State :=
  let n := g.headD 0
  let old := s.parked sl j i n
  let c := s.tcount sl j
  let toll := if last then some c else none
  let o : FpOut :=
    { rid := rid, sl := sl, slot := j, no := i.no, blk := i.wblk, first := n, count := g.length, cls := s.slotClass sl j
      pkt := s.outPacket sl j i dst src g rid toll, waiting := true, retry := none }
  let t := (s.setTag sl j (i.opt 4 8)).outLeaves sl o
  let t := if last ∨ old.isSome then t else t.putF (A.seSlotArm sl j) 48 16 (c + 1)
  (t.modInst sl j i.no fun k => { k with wpos := n + g.length, sent := last }).pumpEngine sl

/-- A fault of an outbound instruction before it sends the packet whose first line is `n`. -/
def State.outFault (s : State) (sl j : Nat) (i : Inst) (n code : Nat) : State :=
  (s.setHalt sl j { no := i.no, blk := i.wblk, elem := n, read := false, code := code, addr := none }).settleHalt sl j

/-- Follow forms the next packet of slot `j` and sends it. -/
def State.packetSend (s : State) (sl j : Nat) : State :=
  let s := s.pumpEngine sl
  match (s.slot sl j).followInst with
  | none => s
  | some i =>
    if s.outMay sl j i = false then s
    else match s.blockOps sl i i.wblk with
      | none => s
      | some os =>
        let src := os.getD 0 Operand.none
        let dst := os.getD 1 Operand.none
        match i.outNext dst i.wblk i.wpos with
        | none => s
        | some n =>
          let differs : Bool := match s.openTag sl j with
            | some g => decide (g ≠ i.opt 4 8)
            | none => false
          let g := s.outReady sl j i dst src (s.outGroup sl j i dst n)
          if differs ∨ dst.lineOff n < 0 ∨ 2 ^ 25 ≤ dst.lineOff n then s.outFault sl j i n 0x01
          else if g.isEmpty then s
          else match s.outLast sl i dst g with
            | none => s
            | some last =>
              let old := (s.parked sl j i n).isSome
              let others := s.fabric.outbound.any fun (o : FpOut) =>
                decide (o.sl = sl) && decide (o.slot = j) && !(decide (o.blk = i.wblk) && decide (o.first = n))
              if last ∧ others then s
              else if last = false ∧ old = false ∧ 65535 ≤ s.tcount sl j then s.outFault sl j i n 0x01
              else match s.freeRid with
                | none => s
                | some rid => if s.outFree (s.slotClass sl j) then s.outSend sl j i dst src g last rid else s

def execFpPacketSend (sl slot : Nat) (s : State) : Out :=
  if s.build.chipwin = 0 then .refused .noSuchUnit else s.onSlot sl slot (s.packetSend sl slot)

/-! ### Responses to outbound writes (R366, R368) -/

/-- A packet is absorbed and counted (R364 to R366). -/
def State.absorb (s : State) : State := s.count A.fpStat 0 32 1

/-- A response that matches nothing outstanding. -/
def State.absorbRsp (s : State) : State := s.absorb.lateResponse

/-- The outbound write that a response answers, matched by SRC, WIN, TAG and RID. -/
def State.outOf (s : State) (p : Packet) : Option FpOut :=
  s.fabric.outbound.find? fun (o : FpOut) =>
    o.waiting && decide (o.pkt.dst = p.src) && decide (o.pkt.win = p.win) && decide (o.pkt.tag = p.tag) && decide (o.rid = p.rid)

/-- Replaces, or removes, an outbound entry. -/
def State.putOut (s : State) (o : FpOut) (f : FpOut → Option FpOut) : State :=
  { s with fabric := { s.fabric with
      outbound := s.fabric.outbound.filterMap fun (k : FpOut) => if k.same o then f k else some k } }

/-- Lines that a write answered OK or POISON carried are done; those before every open write need not be kept. -/
def State.outDoneLines (s : State) (sl j no : Nat) (o : FpOut) : State :=
  match s.instNo sl j no with
  | none => s
  | some i =>
    let f := s.frontier sl j i
    let key := f.1 * 2 ^ 24 + f.2
    let new := (List.range o.count).map fun k => o.blk * 2 ^ 24 + (o.first + k)
    s.modInst sl j no fun i =>
      s.prune sl j { i with doneLines := (i.doneLines ++ new).filter fun d => decide (key ≤ d), lastStep := max i.lastStep s.now }

/-- The fault code of a response code (R366, R283). -/
def outFaultCode (c : Nat) : Nat := if c = 2 then 0x02 else if c = 4 then 0x01 else if c = 6 then 0x09 else 0x0B

/-- The response to an outbound write takes effect. -/
def State.outAnswer (s : State) (o : FpOut) (code : Nat) : State :=
  if code = 0 ∨ code = 3 then ((s.putOut o fun _ => none).outDoneLines o.sl o.slot o.no o).pumpEngine o.sl
  else if s.slotState o.sl o.slot ≠ 2 ∧ s.slotState o.sl o.slot ≠ 3 then s.putOut o fun _ => none
  else if code = 1 then
    (s.putOut o fun k => some { k with waiting := false, retry := some (s.now + 256) }).pumpEngine o.sl
  else
    ((s.putOut o fun k => some { k with waiting := false, retry := none }).setHalt o.sl o.slot
      { no := o.no, blk := o.blk, elem := o.first, read := false, code := outFaultCode code, addr := none }).pumpEngine o.sl

/-- The complex and every slice is awake. -/
def State.cplxAwake (s : State) : Bool := s.serves .complex

/-- An inbound packet reaches a fabric port that is awake; any other wakes the complex, and comes again (R315). -/
def State.fpTake (s : State) (f : State → State) : State :=
  let t := s.wake .complex 1
  if t.cplxAwake then f t else t

/-- A build without chip windows has no fabric port (R24). -/
def State.onFabric (s : State) (t : State) : Out := if s.build.chipwin = 0 then .refused .noSuchUnit else .next t

def execFpWrspIn (p : Packet) (s : State) : Out :=
  s.onFabric (s.fpTake fun s =>
    if p.ver ≠ 1 then s.absorb
    else match s.outOf p with
      | some o => s.outAnswer o p.code
      | none => s.absorbRsp)

/-- RDATA: the complex never sends READ, so nothing outstanding matches (R365). -/
def execFpRdataIn (p : Packet) (s : State) : Out :=
  s.onFabric (s.fpTake fun s => if p.ver ≠ 1 then s.absorb else s.absorbRsp)

/-- A packet of another TYPE or VER is absorbed. -/
def execFpBadPacket (p : Packet) (s : State) : Out :=
  s.onFabric (s.fpTake fun s => if p.ver ≠ 1 ∨ ¬([1, 2, 3, 4, 5, 8].contains p.type) then s.absorb else s)

/-! ### Inbound requests (R369, R370, R373) -/

/-- An inbound request is tolled. -/
def packetTolled (p : Packet) : Bool := p.toll && decide (p.type ≠ 4)

/-- Lines of an inbound request. -/
def packetLines (p : Packet) : Nat := if p.type = 2 then 1 else p.len + 1

/-- The kill mark of the window's context has left (0,0): its requests are absorbed (R347). -/
def State.winKilled (s : State) (w : Nat) : Bool :=
  decide (w < s.build.chipwin) && decide (s.winState w ≠ 0) && decide (s.ctxState (s.winCtx w) = 3)

/-- Steps 1 to 3 of R370. -/
def State.fpCode3 (s : State) (p : Packet) : Nat :=
  let w := p.win
  let x := s.fpTag w p.tag
  let src := s.rd (A.chwinSrc w)
  if s.winKilled w then rspAborted
  else if p.dst ≠ s.getF A.chipId 0 16 then rspRange
  else if s.build.chipwin ≤ w ∨ s.winState w = 0 ∨ (s.winState w = 2 ∧ x.isOpen = false) then 6
  else if p.src < fld src 0 16 ∨ fld src 16 16 < p.src ∨ p.jobid ≠ s.getF (A.chwinJob w) 0 32 ∨ (x.isOpen ∧ x.src ≠ p.src) then
    rspDenied
  else rspOk

/-- Steps 4 to 6 of R370. -/
def State.fpCode6 (s : State) (p : Packet) : Nat :=
  let w := p.win
  let tgt := s.rd (A.chwinTgt w)
  if s.getB (A.chwinCtl w) (if p.type = 4 then 0 else 1) = false then rspDenied
  else if p.offset < fld tgt 12 25 ∨ fld tgt 37 25 < p.offset + packetLines p then rspRange
  else if s.notOk 7 0 ∨ s.notOk 4 0 then rspFenced
  else rspOk

/-- Lines that lie one behind the other in accesses of one bank set each. -/
def groupUp (l : List (Nat × Spot)) : List (List (Nat × Spot)) :=
  l.foldl (fun (gs : List (List (Nat × Spot))) p => match gs.getLast? with
    | some g => if joins g p.2 then gs.dropLast ++ [g ++ [p]] else gs ++ [[p]]
    | none => [[p]]) []

/-- The places of lines, or RANGE where one is no memory of a slice that there is (R8). -/
def State.spotsOk (s : State) (l : List (Nat × Spot)) : Nat × List (Nat × Spot) :=
  if l.any fun x => match x.2 with
    | .mem g _ => !(s.hasSlice (glSlice g))
    | _ => true then (rspRange, [])
  else (rspOk, l)

/-- The checks of R119 for an access of context `c` from a global unit to `n` lines of handle `h` from line offset `o` on:
the code, or the place of every line. A guarded ring is out of range there (R262). DEDUCED (log 16): a global unit enters no
slice's vector buffer, so a vector is checked as from slice 0, and is out of range too. -/
def State.handleSpots (s : State) (h c : Nat) (write : Bool) (o n : Nat) : Nat × List (Nat × Spot) :=
  let v := s.view 0 h
  let ns := List.range n
  match v.check 0 c write (ns.map fun k => o + k) with
  | some f => (rspOfFault f, [])
  | none =>
    if v.e.guarded then (rspRange, [])
    else s.spotsOk (ns.map fun k => (k, match v.place (o + k) with
      | .mem g => Spot.mem g (o + k)
      | .vec _ => Spot.bad 0x01))

/-- The handle checks of step 7 of R370. -/
def State.fpSpots (s : State) (p : Packet) : Nat × List (Nat × Spot) :=
  s.handleSpots (s.getF (A.chwinTgt p.win) 0 12) (s.winCtx p.win) (decide (p.type ≠ 4)) p.offset (packetLines p)

/-- The data of the lines of an inbound write. -/
def packetData (p : Packet) : LineData := fun n =>
  (p.lines.getD n 0, if p.type = 2 then p.ben else BitVec.ofNat 64 (2 ^ 64 - 1), if p.psn.getLsbD n then 0xFF else 0)

/-- The request of a group of lines of an inbound request. -/
def State.fpReq (s : State) (p : Packet) (id : Nat) (g : List (Nat × Spot)) : Req :=
  let l := match g.head?.map Prod.snd with
    | some (.mem k _) => k
    | _ => 0
  { origin := .fabric id, write := decide (p.type ≠ 4), ctx := s.winCtx p.win, cls := s.getF (A.chwinJob p.win) 38 3,
    tag := (g.head?.map Prod.fst).getD 0, home := glSlice l, bset := glSet l, lines := lineAccs g (packetData p), clave := none,
    owner := 18, since := s.now }

/-- A request in several parts of which one would not be performed performs none (R370). -/
def State.partsCode (s : State) (rs : List Req) : Nat :=
  if rs.length < 2 then rspOk
  else match (rs.map fun r => s.homeCode r.home r).find? fun c => c ≠ rspOk with
    | some c => c
    | none => rspOk

/-- The parts of a request enter the mesh at (0,0). -/
def State.fpPerform (s : State) (p : Packet) (l : List (Nat × Spot)) : State :=
  let id := s.fabric.nextId
  let rs := (groupUp l).map (s.fpReq p id)
  let c := s.partsCode rs
  if c ≠ rspOk then s.fpAnswer p c []
  else
    let x : FpIn := { id := id, pkt := p, ctx := s.winCtx p.win, need := rs.length, code := rspOk, lines := [], due := s.now }
    let t : State := { s with fabric := { s.fabric with nextId := id + 1, inbound := s.fabric.inbound ++ [x] } }
    t.sendParts rs

/-- An untolled packet that passes steps 1 to 3 opens its tag if that is IDLE (R373). -/
def State.fpOpens (s : State) (p : Packet) : State :=
  if packetTolled p ∨ (s.fpTag p.win p.tag).isOpen then s else s.putTag p.win p.tag { isOpen := true, src := p.src, arr := 0 }

/-- An inbound request is checked, and performed or answered. -/
def State.fpRequest (s : State) (p : Packet) : State :=
  let c := s.fpCode3 p
  if c ≠ rspOk then s.fpAnswer p c []
  else
    let s := s.fpOpens p
    let c := s.fpCode6 p
    if c ≠ rspOk then s.fpAnswer p c []
    else
      let r := s.fpSpots p
      if r.1 ≠ rspOk then s.fpAnswer p r.1 [] else s.fpPerform p r.2

/-- An inbound request packet of a type. -/
def State.fpIn (s : State) (type : Nat) (p : Packet) : Out :=
  s.onFabric (s.fpTake fun s => if p.ver ≠ 1 then s.absorb else s.fpRequest { p with type := type })

def execFpWriteIn (p : Packet) (s : State) : Out := s.fpIn 1 p

def execFpWritepIn (p : Packet) (s : State) : Out := s.fpIn 2 p

def execFpReadIn (p : Packet) (s : State) : Out := s.fpIn 4 p

/-! ### Windows (R371, R372) -/

/-- OPEN of window `w` is refused (R372). -/
def State.openRefused (s : State) (w : Nat) : Bool :=
  let c := s.winCtx w
  let job := s.getF (A.chwinJob w) 0 32
  let tgt := s.rd (A.chwinTgt w)
  let src := s.rd (A.chwinSrc w)
  let ctl := s.rd (A.chwinCtl w)
  let e := s.handle 0 (fld tgt 0 12)
  let sl := fld ctl 10 6
  decide (c = 0) || decide (c = 63) || decide (s.jobId c ≠ job) || !(decide (s.ctxState c = 1) || decide (s.ctxState c = 2))
    || !(decide (e.type = tyPlain) || decide (e.type = tyRing) || decide (e.type = tyAlias)) || decide (e.owner ≠ c)
    || decide (e.guard ≠ 0) || decide (fld src 16 16 < fld src 0 16) || decide (fld tgt 37 25 ≤ fld tgt 12 25)
    || decide (e.size < fld tgt 37 25)
    || (flag ctl 16 && (!(s.hasSlice sl) || decide (s.getF (A.semPair sl (fld ctl 2 8)) 40 6 ≠ c)))
    || !(s.getB A.chipId 16)

/-- A write of CHWIN_CTL_w: its fields, then OPEN of a CLOSED window or CLOSE of an OPEN one. -/
def State.storeWinCtl (s s0 : State) (w : Nat) (v : Word) (ctx : Nat) : State :=
  let a := A.chwinCtl w
  if s.build.chipwin ≤ w then s
  else
    let st := s0.winState w
    let t := s.storeReg a v (decide (st = 0)) ctx
    if st = 0 ∧ flag v 19 then (if s0.openRefused w then t.refuseCfg a ctx else (t.dropTags w).setWin w 1)
    else if st = 1 ∧ flag v 20 then
      let u := t.setWin w 2
      { u with fabric := { u.fabric with closeAt := Tbl.insert u.fabric.closeAt w (u.now + u.getF a 32 32) } }
    else t

/-- A write of one of the other registers of window `w`. -/
def State.storeWin (s s0 : State) (w a : Nat) (v : Word) (ctx : Nat) : State :=
  if s.build.chipwin ≤ w then s else s.storeReg a v (decide (s0.winState w = 0)) ctx

def execChwinOpen (w : Nat) (v : Word) (ctx : Nat) (s : State) : Out :=
  s.onIndex w 64 (s.csrAccess (A.chwinCtl w) ctx fun t => t.storeWinCtl s w (setFlag v 19 true) ctx)

def execChwinClose (w : Nat) (v : Word) (ctx : Nat) (s : State) : Out :=
  s.onIndex w 64 (s.csrAccess (A.chwinCtl w) ctx fun t => t.storeWinCtl s w (setFlag v 20 true) ctx)

/-- A draining window with no tag OPEN and no access outstanding closes. -/
def State.winDrained (s : State) (w : Nat) : State :=
  if s.winState w = 2 ∧ s.getF (A.chwinStat w) 0 9 = 0 ∧ !(s.fabric.inbound.any fun (p : FpIn) => p.pkt.win = w) then
    s.closeWindow w
  else s

def execChwinDrainDone (w : Nat) (s : State) : Out := s.onIndex w s.build.chipwin (s.winDrained w)

/-- A draining window closes DTMO clk after CLOSE, and drops its OPEN tags. -/
def State.winTimeout (s : State) (w : Nat) : State :=
  if s.winState w ≠ 2 then s
  else
    let t := s.reach (Tbl.get 0 s.fabric.closeAt w)
    let drops := decide (t.getF (A.chwinStat w) 0 9 ≠ 0)
    let u := t.closeWindow w
    if drops then u.raiseIrq 7 else u

def execChwinDtmo (w : Nat) (s : State) : Out := s.onIndex w s.build.chipwin (s.winTimeout w)

/-- No outbound request is outstanding (R379). -/
def State.outst (s : State) : Nat := (s.fabric.outbound.filter fun (o : FpOut) => o.waiting).length

/-- A write of CHIP_ID: the unit is idle while every window is CLOSED and nothing is outstanding. -/
def State.storeChipId (s s0 : State) (v : Word) (ctx : Nat) : State :=
  let idle := (List.range s.build.chipwin).all (fun w => decide (s0.winState w = 0)) && decide (s0.outst = 0)
  let t := s.storeReg A.chipId v idle ctx
  if idle then t.putB A.chipId 16 true else t

/-! ### The Knell (R375 to R377, R316) -/

/-- A write of FP_KNELL: GO queues a Knell with REASON 3. -/
def State.storeKnell (s : State) (v : Word) (ctx : Nat) : State :=
  let t := s.storeReg A.fpKnell v true ctx
  if flag v 32 ∧ s.build.chipwin ≠ 0 then (t.queueKnell (fld v 0 32) 3).putB A.fpKnell 33 true else t

def execFpKnellGo (v : Word) (ctx : Nat) (s : State) : Out :=
  .next (s.csrAccess A.fpKnell ctx fun t => t.storeKnell (setFlag v 32 true) ctx)

/-- An entry of the queue has come free: step K1 of the first kill that a full queue held proceeds (R375). -/
def State.freeKill (s : State) : State :=
  if 16 ≤ s.fabric.knells.length then s
  else match s.boot.kills.find? fun (k : Kill) => k.knell with
    | some k => s.killK1 k.ctx false
    | none => s

/-- The oldest Knell is sent, in Play only, and not while the Tuner holds the context table not OK (R292, R316). -/
def State.knellSend (s : State) : State :=
  match s.fabric.knells with
  | [] => s
  | k :: rest =>
    if s.cplxPower ≠ 0 ∨ s.notOk 5 0 then s
    else
      let t : State := { s with fabric := { s.fabric with knells := rest } }
      let t := t.fpShow k
      let t := if k.count = 3 ∧ !(rest.any fun p => p.count = 3) then t.putB A.fpKnell 33 false else t
      t.freeKill

def execKnellSend (s : State) : Out := .next s.knellSend

/-- A received Knell takes effect (R377). -/
def State.receiveKnell (s : State) (p : Packet) : State :=
  let t := s.wr A.fpKnlast (setFlag (setFld (setFld (setFld 0 0 32 p.jobid) 32 16 p.src) 48 3 p.count) 51 true)
  let t := t.raiseIrq 7
  (t.closeWindows fun w => decide (t.getF (A.chwinJob w) 0 32 = p.jobid)).killJob p.jobid

/-- The complex is in Play, and no slice is in Damp or in transition, but for one whose wake has failed. -/
def State.allAwake (s : State) : Bool :=
  (decide (s.cplxPower = 0) || s.cplxFailed) && s.sliceList.all fun sl =>
    decide (s.slicePower sl = 0) || decide (s.slicePower sl = 2) ||
      s.power.wakes.any fun (w : PwrWake) => decide (w.target = .slice sl) && w.stopped

/-- Knells that a power transition has held take effect in Play (R316). -/
def State.releaseKnells (s : State) : State :=
  if s.allAwake then
    let t : State := { s with power := { s.power with knellWaiting := [] } }
    s.power.knellWaiting.foldl State.receiveKnell t
  else s

/-- A Knell arrives: in the clk after its last beat it takes effect, or it wakes what is asleep and waits for Play. -/
def State.knellIn (s : State) (p : Packet) : State :=
  if p.ver ≠ 1 then s.absorb
  else if p.src = s.getF A.chipId 0 16 then s
  else
    let t := s.pass 1
    if t.allAwake then t.receiveKnell p
    else
      let u : State := { t with power := { t.power with knellWaiting := t.power.knellWaiting ++ [p] } }
      u.wakeAll 4

def execFpKnellIn (p : Packet) (s : State) : Out := s.onFabric (s.knellIn p)

end Sys2Proof.Machine
end

