-- ==== Sys2Proof/Machine/Report.lean ====
section
/-! DEFINITION. Clave pairs by CSR (R258, R259, R275 to R277) and the error ring (R280 to R285, R301 to R303). -/

namespace Sys2Proof.Machine

/-! ### Clave pairs by CSR -/

/-- A write of SEM_PAIR_n that has reached the slice: FILL, ROOM and OWNER are replaced together, before the SIGNALs
of its clk (R259), and OVF is cleared by 1. -/
def State.storePair (s : State) (sl n : Nat) (v : Word) (ctx : Nat) : State :=
  (s.claveTime sl n).storeReg (A.semPair sl n) v true ctx

def execSemPairWrite (sl n : Nat) (v : Word) (ctx : Nat) (s : State) : Out :=
  if n < 256 then s.onSlice sl (s.csrAccess (A.semPair sl n) ctx fun t => t.storePair sl n v ctx)
  else .refused .noSuchUnit

/-- SEM_LAST reports a pair (R277). -/
def State.reportPair (s : State) (sl n : Nat) (taken : Bool) : State := s.wr (A.semLast sl) (s.claveWord sl n taken)

/-- SEM_OP with OP SIGNAL (R276). -/
def State.semSignal (s : State) (sl : Nat) (v : Word) : State :=
  (s.claveSignal sl (fld v 0 8) (flag v 8) (fld v 16 16)).reportPair sl (fld v 0 8) false

def execSemOpSignal (sl : Nat) (v : Word) (ctx : Nat) (s : State) : Out :=
  s.onSlice sl (s.csrAccess (A.semOp sl) ctx fun t => t.semSignal sl v)

/-- SEM_OP with OP TAKE (R276): a polling take. -/
def State.semTake (s : State) (sl : Nat) (v : Word) : State :=
  let u := (s.blockingTakes sl (fld v 0 8) (flag v 8)).claveTake sl (fld v 0 8) (flag v 8) (fld v 16 16)
  u.2.reportPair sl (fld v 0 8) u.1

def execSemOpTake (sl : Nat) (v : Word) (ctx : Nat) (s : State) : Out :=
  s.onSlice sl (s.csrAccess (A.semOp sl) ctx fun t => t.semTake sl v)

/-! ### The ring (R281) -/

/-- ERR_CFG.IRQ_LVL selects a code (R285). -/
def levelSelects (lvl code : Nat) : Bool :=
  if lvl = 1 then decide (code < 0x20) || [0x21, 0x22, 0x24, 0x26, 0x28, 0x2A, 0x2B, 0x2C].contains code
  else decide (lvl = 2)

/-- A record at index `i` of the ring. -/
def State.ringRec (s : State) (i : Nat) : ErrRec := Tbl.get ErrRec.zero s.errors.ring i

/-- One more record is unread; where 1,024 are, the oldest of them is overwritten, which LOST counts, and RD moves past
it. -/
def State.countUnread (s : State) : State :=
  let n := s.getF A.errStat 35 11
  if n < 1024 then s.putF A.errStat 35 11 (n + 1)
  else (s.count A.errStat 0 32 1).count A.errRd 0 10 1

/-- A record is written at HEAD. -/
def State.ringWrite (s : State) (r : ErrRec) : State :=
  let h := s.getF A.errHead 0 10
  let t := s.countUnread
  let t : State := { t with errors := { t.errors with
    ring := Tbl.put ErrRec.zero t.errors.ring h r
    first := match t.errors.first with
      | some f => some f
      | none => some r } }
  let t := (t.count A.errHead 0 10 1).count A.errHead 10 48 1
  let t := (t.putB A.errStat 32 true).putB A.errStat 33 true
  if levelSelects (s.getF A.errCfg 0 2) (fld r.w0 0 8) then t.raiseIrq 2 else t

/-- The head of the global queue is written into the ring; records that wait in the slices move up. -/
def State.recordWrite (s : State) : State :=
  match s.errors.queue with
  | [] => s
  | r :: rest =>
    let t : State := { s with errors := { s.errors with queue := rest } }
    let t := t.ringWrite { r with heldCe := false }
    t.each t.sliceList fun t sl => t.flushSlice sl

def execErrorRecordWrite (s : State) : Out := .next s.recordWrite

/-- The window of a slice's CE record ends: the record leaves the queue in its turn (R285). -/
def State.ceEnds (s : State) (sl : Nat) : State :=
  if (s.slice sl).ceWindow = 0 then s
  else
    let t := s.reach ((s.slice sl).ceWindow * 2 ^ s.getF A.errCfg 3 5)
    let free := fun (r : ErrRec) => { r with heldCe := false }
    (t.modSlice sl fun x => { x with errs := x.errs.map free }).flushSlice sl

def execCeWindowEnd (sl : Nat) (s : State) : Out := s.onSlice sl (s.ceEnds sl)

/-- A write of ERR_RD marks the records before it read (R281). -/
def State.storeErrRd (s : State) (v : Word) (ctx : Nat) : State :=
  let t := s.storeReg A.errRd v true ctx
  t.putF A.errStat 35 11 ((s.getF A.errHead 0 10 + 1024 - fld v 0 10) % 1024)

def execErrRdWrite (v : Word) (ctx : Nat) (s : State) : Out :=
  .next (s.csrAccess A.errRd ctx fun t => t.storeErrRd v ctx)

/-- A write of ERR_STAT: LOST, NEW cleared by 1, and FIRSTCLR, which empties ERR_FIRST (R302). -/
def State.storeErrStat (s : State) (v : Word) (ctx : Nat) : State :=
  let t := s.storeReg A.errStat v true ctx
  if flag v 34 then
    { t.putB A.errStat 33 false with errors := { t.errors with first := none } }
  else t

def execErrFirstclr (v : Word) (ctx : Nat) (s : State) : Out :=
  .next (s.csrAccess A.errStat ctx fun t => t.storeErrStat v ctx)

/-- A write of ERR_CFG (R301): IRQ_LVL 3 is ignored, and a CE_WIN below 10 is taken as 10. -/
def State.storeErrCfg (s : State) (v : Word) (ctx : Nat) : State :=
  let v := if fld v 0 2 = 3 then setFld v 0 2 (s.getF A.errCfg 0 2) else v
  let v := if fld v 3 5 < 10 then setFld v 3 5 10 else v
  s.storeReg A.errCfg v true ctx

end Sys2Proof.Machine
end

