-- ==== Sys2Proof/Machine/Rhythm.lean ====
section
/-! DEFINITION. The beat input (R19 to R22), the measurement of clk and the density M (R61 to R65, R72), bar
boundaries (R10, R273), and the tables of the Rhythm (R73 to R77). -/

namespace Sys2Proof.Machine

/-- The first bar boundary strictly after clk `since` that is not past: the clk in which a change decided in
`since` can be made. -/
def State.barFrom (s : State) (since : Nat) : Nat := max (nextBar since) ((s.now + 31) / 32 * 32)

/-- Waits for that bar boundary. -/
def State.toBar (s : State) (since : Nat) : State := s.reach (s.barFrom since)

/-! ### The beat input -/

/-- Sets an anomaly bit of GLB_BEAT and its interrupt cause (R20). -/
def State.beatAnomaly (s : State) (bit : Nat) : State := (s.putB A.glbBeat bit true).raiseIrq 0

/-- An accepted strobe (R20, R21). -/
def State.beatAccept (s : State) (n : Nat) : State :=
  { s with beat := { s.beat with last := some (n, s.now), coming := s.beat.coming ++ [(n, s.now + 3)] } }

/-- BEAT_STROBE was sampled high already in this clk or in the one before: what is sampled now is the same strobe (R19). -/
def State.strobeHeld (s : State) : Bool :=
  match s.beat.high with
  | some c => decide (s.now ≤ c + 1)
  | none => false

/-- The outcome of a strobe in its first clk, with count `n` (R20). -/
def State.beatJudge (s : State) (n : Nat) : State :=
  match s.beat.last with
  | none => s.beatAccept n
  | some (b, t) =>
    let fast := decide (s.now < t + 32)
    if n ≤ b ∨ fast then
      let u := if n ≤ b then s.beatAnomaly 49 else s
      if fast then u.beatAnomaly 50 else u
    else if n = b + 1 then s.beatAccept n
    else (s.beatAccept n).beatAnomaly 48

/-- BEAT_STROBE is high, with count `n`, in the present clk (R19). Nothing samples it before the release of the complex reset
or while clk is stopped; held high, it is one strobe, taken in its first clk. -/
def State.beatStrobe (s : State) (n : Nat) : State :=
  if s.boot.released = false ∨ s.pins.clkOk = false then s
  else
    let t : State := { s with beat := { s.beat with high := some s.now } }
    if s.strobeHeld then t else t.beatJudge n

def execBeatStrobe (n : BitVec 48) (s : State) : Out := .next (s.beatStrobe n.toNat)

/-! ### The density M -/

/-- log₂ of the M of a clk frequency (R61). -/
def logM (mhz : Nat) : Nat := if 1050 ≤ mhz then 0 else if 530 ≤ mhz then 1 else 2

/-- M_MIN in force at the present clk: the written value once a bar has passed since (R65, R273). -/
def State.mMin (s : State) : Nat :=
  match s.force.waiting.find? fun e => e.1 = A.glbMaint with
  | some e => if nextBar e.2 ≤ s.now then s.getF A.glbMaint 0 2 else fld (s.inForce A.glbMaint) 0 2
  | none => s.getF A.glbMaint 0 2

/-- A measurement window of clk completes at `mhz` (R62): CLK_MHZ is updated; a measurement in a range of higher M
raises M at the next bar, and 16 windows in a row in ranges of lower M lower it to the largest M among
them, unless LOCK is set. -/
def State.measure (s : State) (mhz : Nat) : State :=
  let t := s.putF A.glbMaint 8 12 mhz
  let t : State := { t with time := { t.time with mhz := mhz } }
  let k := logM mhz
  let m := s.time.nextM
  if m < k then
    ({ t with time := { t.time with nextM := k, lows := [], decidedAt := s.now } } : State).putB A.glbMaint 7 true
  else if k < m then
    let lows := ((k :: s.time.lows).take 16)
    if 16 ≤ lows.length ∧ s.getB A.glbMaint 4 = false then
      { t with time := { t.time with nextM := max (lows.foldl max 0) s.mMin, lows := [], decidedAt := s.now } }
    else { t with time := { t.time with lows := lows } }
  else { t with time := { t.time with lows := [] } }

def execClkMeasureWindow (mhz : Nat) (s : State) : Out := .next (s.measure mhz)

/-- log₂ of the effective M that is due: the M selected, not below M_MIN, doubled while hot (R62, R64, R65). -/
def State.dueM (s : State) : Nat := min 2 (max s.time.nextM s.mMin + if s.time.nextHot then 1 else 0)

/-- A decided change of M or of the doubling takes effect at a bar boundary, with its maintenance positions
(R72). -/
def State.changeM (s : State) : State :=
  let t := s.toBar s.time.decidedAt
  if t.dueM = s.getF A.glbMaint 2 2 ∧ s.time.nextHot = s.getB A.glbMaint 6 ∧ t.mMin ≤ s.time.nextM then s
  else
    let m := t.dueM
    let u := (t.putF A.glbMaint 2 2 m).putB A.glbMaint 6 t.time.nextHot
    { u with time := { u.time with
        nextM := max u.time.nextM t.mMin
        lows := if m = s.getF A.glbMaint 2 2 then u.time.lows else [] } }

def execMChange (s : State) : Out := .next s.changeM

/-! ### Bar boundaries -/

/-- At a bar boundary, the values written to class B fields in earlier clks take effect (R10, R273). -/
def State.barBoundary (s : State) : State :=
  match s.force.waiting with
  | [] => s.reach (nextBar s.now)
  | e :: r =>
    let t := s.toBar (r.foldl (fun m x => min m x.2) e.2)
    let ripe := t.force.waiting.filter fun x => nextBar x.2 ≤ t.now
    { t with force := { t.force with
        value := ripe.foldl (fun v x => Tbl.erase v x.1) t.force.value
        waiting := t.force.waiting.filter fun x => ¬ nextBar x.2 ≤ t.now } }

def execBarBoundary (s : State) : Out := .next s.barBoundary

/-! ### Tables -/

/-- RHY_CTRL.NEXT of a slice: table B. -/
def State.nextB (s : State) (sl : Nat) : Bool := s.getB (A.rhyCtrl sl) 1

/-- A table is idle: neither ACTIVE nor NEXT (R75). -/
def State.tableIdle (s : State) (sl : Nat) (tabB : Bool) : Bool :=
  (s.activeB sl != tabB) && (s.nextB sl != tabB)

/-- The lane of a phase whose entry is fixed at 21, if any (R74). -/
def fixedLane (phase lane : Nat) : Bool := decide (phase % 4 = 0) && decide (lane = phase / 4)

/-- A code that no entry may hold: 21 to 30 (R74). -/
def badOwner (o : Nat) : Bool := decide (21 ≤ o) && decide (o ≤ 30)

/-- The entries of a phase register after a write (R74): the fixed entry and entries written with a code from 21
to 30 keep their values. -/
def mergePhase (phase : Nat) (old v : Word) : Word :=
  (List.range 8).foldl (fun w k =>
    if fixedLane phase k ∨ badOwner (fld v (5 * k) 5) then w else setFld w (5 * k) 5 (fld v (5 * k) 5)) old

/-- Some assignable entry of the write has a code from 21 to 30. -/
def hasBadOwner (phase : Nat) (v : Word) : Bool :=
  (List.range 8).any fun k => !(fixedLane phase k) && badOwner (fld v (5 * k) 5)

/-- A refused write of a table entry is recorded and sets RHY_CTRL.REFUSED (R74, R75). -/
def State.refuseEntry (s : State) (sl a ctx : Nat) : State := (s.refuseCfg a ctx).putB (A.rhyCtrl sl) 4 true

/-- The write of a phase register that has reached the slice. -/
def State.storePhase (s s0 : State) (sl : Nat) (tabB : Bool) (phase : Nat) (v : Word) (ctx : Nat) : State :=
  let a := if tabB then A.rhyB sl phase else A.rhyA sl phase
  let new := mergePhase phase (s.rd a) v
  if s0.tableIdle sl tabB then
    let t := s.wr a new
    if hasBadOwner phase v then t.refuseEntry sl a ctx else t
  else if new ≠ s.rd a ∨ hasBadOwner phase v then s.refuseEntry sl a ctx
  else s

/-- A write of RHY_A_p or RHY_B_p (R74, R75). -/
def State.rhyTable (s : State) (sl : Nat) (tabB : Bool) (phase : Nat) (v : Word) (ctx : Nat) : State :=
  s.csrAccess (if tabB then A.rhyB sl phase else A.rhyA sl phase) ctx fun t => t.storePhase s sl tabB phase v ctx

def execRhyTableWrite (sl : Nat) (tabB : Bool) (phase : Nat) (v : Word) (ctx : Nat) (s : State) : Out :=
  if phase < 32 then s.onSlice sl (s.rhyTable sl tabB phase v ctx) else .refused .noSuchUnit

/-- The write of RHY_CTRL that has reached the slice: NEXT, BEAT_ARM, NOSTEAL, and REFUSED cleared by 1 (R87). -/
def State.storeRhyCtrl (s : State) (sl : Nat) (v : Word) (ctx : Nat) : State :=
  let t := s.storeReg (A.rhyCtrl sl) v true ctx
  if t.nextB sl ≠ s.nextB sl ∨ (s.getB (A.rhyCtrl sl) 2 ∧ t.getB (A.rhyCtrl sl) 2 = false) then
    t.modSlice sl fun x => { x with nextAt := s.now }
  else t

/-- A write of RHY_CTRL (R75, R76, R87). -/
def State.rhyCtrl (s : State) (sl : Nat) (v : Word) (ctx : Nat) : State :=
  s.csrAccess (A.rhyCtrl sl) ctx fun t => t.storeRhyCtrl sl v ctx

def execRhyCtrlWrite (sl : Nat) (v : Word) (ctx : Nat) (s : State) : Out := s.onSlice sl (s.rhyCtrl sl v ctx)

/-- A switch is pending (R87): NEXT differs from ACTIVE. -/
def State.switchPending (s : State) (sl : Nat) : Bool := s.nextB sl != s.activeB sl

/-- NEXT becomes active at the bar boundary after clk `since`, BEAT_ARM clears, and the table's signature becomes
the golden of RHY (R75 to R77). -/
def State.makeActive (s : State) (sl since : Nat) : State :=
  let t := s.toBar since
  let b := t.nextB sl
  let t := (t.putB (A.rhyCtrl sl) 0 b).putB (A.rhyCtrl sl) 2 false
  (t.rescan 0 sl).commitGolden 0 sl

/-- A table switch (R75): refused, and left pending, while the RHY instance of the slice is not OK (R297). -/
def State.tableSwitch (s : State) (sl : Nat) : State :=
  if s.switchPending sl = false ∨ s.getB (A.rhyCtrl sl) 2 ∨ s.notOk 0 sl then s
  else s.makeActive sl (s.slice sl).nextAt

def execTableSwitch (sl : Nat) (s : State) : Out := s.onSlice sl (s.tableSwitch sl)

/-- A beat-armed table switch (R76): at the first phase-0 clk after the count that reached RHY_SWITCH.BEAT became
visible. -/
def State.beatSwitch (s : State) (sl : Nat) : State :=
  if s.switchPending sl = false ∨ s.getB (A.rhyCtrl sl) 2 = false ∨ s.notOk 0 sl ∨
      s.beatReached (s.getF (A.rhySwitch sl) 0 48) = false then s
  else s.makeActive sl (max (s.slice sl).nextAt s.beat.seenAt)

def execBeatArmedSwitch (sl : Nat) (s : State) : Out := s.onSlice sl (s.beatSwitch sl)

end Sys2Proof.Machine
end

