-- ==== Sys2Proof/Machine/Flags.lean ====
section
/-! DEFINITION. What a read of a register returns (R405, R407): the stored fields, and the status fields that the complex
forms as they are read. -/

namespace Sys2Proof.Machine

/-! ### Voted flops (R298) -/

/-- Bits of a voted value that two of its three copies hold inverted. -/
def State.voteError (s : State) (k : Nat) : Word := Tbl.get 0 s.tuner.copy1 k &&& Tbl.get 0 s.tuner.copy2 k

/-- A register of TUNCFG as the vote gives it. -/
def State.voted (s : State) (a : Nat) : Word := s.rd a ^^^ s.voteError a

/-- The key of a golden signature among the voted values. -/
def goldenKey (r inst : Nat) : Nat := 0x100000 + instKey r inst

/-- The golden of an instance as the vote gives it. -/
def State.votedGolden (s : State) (r inst : Nat) : BitVec 32 :=
  s.golden r inst ^^^ (s.voteError (goldenKey r inst)).setWidth 32

/-- The copies of a voted value disagree. -/
def State.copyDis (s : State) (k : Nat) : Bool :=
  decide (Tbl.get 0 s.tuner.copy1 k ≠ 0) || decide (Tbl.get 0 s.tuner.copy2 k ≠ 0)

/-- The registers of region TUNCFG. -/
def tuncfgRegs : List Nat := A.tunerCtl :: (List.range 11).map A.tunerRegion

/-- TUNER_STAT.VOTEDIS (R298, R306): a disagreement that the Tuner has met since the last rewrite of TUNCFG, or one of TUNCFG
itself. DESIGN CHOICE: TUNCFG is voted in every clk, a golden signature as its instance is compared. -/
def State.voteDis (s : State) : Bool := s.getB A.tunerStat 2 || tuncfgRegs.any s.copyDis

/-- The Tuner reads a voted value: a disagreement sets VOTEDIS. -/
def State.noteVote (s : State) (k : Nat) : State :=
  if s.copyDis k then { s.putB A.tunerStat 2 true with tuner := { s.tuner with rewrote := [] } } else s

/-- A write of a voted value rewrites its three copies. -/
def State.voteWrite (s : State) (k : Nat) : State :=
  { s with tuner := { s.tuner with copy1 := Tbl.put 0 s.tuner.copy1 k 0, copy2 := Tbl.put 0 s.tuner.copy2 k 0 } }

/-- A write of a register of TUNCFG rewrites its copies; once all of them have been rewritten, VOTEDIS clears (R298, R306). -/
def State.tuncfgWrite (s : State) (a : Nat) : State :=
  let t := s.voteWrite a
  let done := a :: t.tuner.rewrote.filter (· ≠ a)
  if tuncfgRegs.all done.contains then { t.putB A.tunerStat 2 false with tuner := { t.tuner with rewrote := [] } }
  else { t with tuner := { t.tuner with rewrote := done } }

/-! ### Status fields, by register -/

/-- MESH_POS (R154). -/
def State.meshPosWord (s : State) (sl : Nat) : Word :=
  let p := s.pos sl
  setFld (setFld (setFld (setFld 0 0 3 p.1) 3 3 p.2) 6 6 (s.phys sl)) 12 6 sl

/-- RHY_STATUS (R89). -/
def State.rhyStatusWord (s : State) : Word := setFld (setFld 0 0 5 (s.now % 32)) 16 48 (s.now / 32)

/-- RHY_PFENCE.STAT (R90), over the ports of the build. -/
def State.portFences (s : State) (sl : Nat) : BitVec 64 :=
  maskOf ((List.range s.build.ports).filter fun p => s.portFenced sl p)

/-- RHY_BFENCE (R91). -/
def State.bankFences (s : State) (sl : Nat) : BitVec 64 := maskOf ((List.range 64).filter fun b => s.bankFenced sl b)

/-- PORT_STAT_p (R110): ROUT and WAITING beside the result of the last roll call. -/
def State.portStatWord (s : State) (sl p : Nat) : Word :=
  setFlag (setFld (s.rd (A.portStat sl p)) 0 7 (s.remoteOut sl p)) 7 (s.portWaits sl p s.now)

/-- SE_SLOT_CTL.WAITING (R189): held at WAIT, WAITBEAT, KNEXT or REARM, or by the guard of a ring (R265). -/
def State.slotWaits (s : State) (sl j : Nat) : Bool :=
  (match (s.slot sl j).hold with
   | .none => false
   | .follow => (s.slot sl j).insts.any fun i => decide (i.op = 0x0B) || decide (i.op = 0x28)
   | _ => true) || !(s.guardHolds sl j).isEmpty

/-- SE_SLOT_POS.RESID (R192): data entries of residue. -/
def State.residue (s : State) (sl j : Nat) : Nat :=
  match (s.slot sl j).residue with
  | some r => match r.inst with
    | some i => entriesOf i.kept
    | none => 0
  | none => 0

/-- SEM_RG_i.HELD (R279): an access through the ring is held by its guard. -/
def State.ringHeld (s : State) (sl h : Nat) : Bool := (List.range 16).any fun j => (s.guardHolds sl j).contains h

/-- A slice register by its offset. -/
def State.sliceWord (s : State) (sl off : Nat) : Word :=
  let a := sliceAddr sl off
  let w := s.rd a
  if off = 0x0 then setFlag w 3 (s.switchPending sl)
  else if off = 0x10 then s.rhyStatusWord
  else if off = 0x18 then setFld w 16 16 (s.portFences sl).toNat
  else if off = 0x20 then s.bankFences sl
  else if 0x1000 ≤ off ∧ off < 0x1400 ∧ off % 64 = 0x08 then
    let j := (off - 0x1000) / 64
    setFlag (setFlag w 18 (s.slotWaits sl j)) 19 (s.fenceHeld sl j)
  else if 0x1000 ≤ off ∧ off < 0x1400 ∧ off % 64 = 0x28 then setFld w 24 8 (s.residue sl ((off - 0x1000) / 64))
  else if off = 0x1C00 then setFld (setFld w 32 8 (128 - s.entriesUsed sl)) 40 9 (256 - s.recordsUsed sl)
  else if 0x2C00 ≤ off ∧ off < 0x2D00 ∧ off % 8 = 0 then setFlag w 15 (flag w 12 && s.ringHeld sl (fld w 0 12))
  else if 0x3100 ≤ off ∧ off < 0x3300 ∧ off % 8 = 0 then setFld w 16 16 (s.lfsr sl ((off - 0x3100) / 8))
  else if off = 0x4000 then setFld w 24 11 (if s.build.gcell then (s.bank sl 0).vote else (s.bank sl 0).row)
  else if off = 0x6000 then s.meshPosWord sl
  else if 0x7080 ≤ off ∧ off < 0x7080 + 8 * s.build.ports ∧ off % 8 = 0 then s.portStatWord sl ((off - 0x7080) / 8)
  else w

/-- FP_TAGV (R380). -/
def State.tagWord (s : State) : Word :=
  let x := s.fpTag (s.getF A.fpTagq 0 6) (s.getF A.fpTagq 8 8)
  setFld (setFld (setFlag 0 0 x.isOpen) 16 16 x.arr) 32 16 x.src

/-- TUNER_GVAL (R306): the golden of an instance that exists. -/
def State.goldWord (s : State) : Word :=
  let r := s.getF A.tunerGidx 0 4
  let i := s.getF A.tunerGidx 8 6
  let ok := if r < 4 then s.hasSlice i else decide (r < 11) && decide (i = 0)
  if ok then (s.votedGolden r i).setWidth 64 else 0

/-- Word `w` of an error record. -/
def ErrRec.word (r : ErrRec) (w : Nat) : Word :=
  if w = 0 then r.w0 else if w = 1 then r.w1 else if w = 2 then r.w2 else r.w3

/-- A global register by its address. -/
def State.globalWord (s : State) (a : Nat) : Word :=
  let w := s.rd a
  if a = A.glbPeal then setFld w 18 7 s.net.peals.length
  else if 0x20088 ≤ a ∧ a < 0x20188 ∧ a % 16 = 8 then setFlag w 32 (s.groupBusy ((a - 0x20088) / 16))
  else if a = A.fpStat then setFld w 32 9 s.outst
  else if 0x30400 + 32 * s.build.chipwin ≤ a ∧ a < 0x30C00 then 0
  else if a = A.fpTagv then s.tagWord
  else if 0x70020 ≤ a ∧ a < 0x70040 ∧ a % 8 = 0 then (s.ringRec (s.getF A.errRd 0 10)).word ((a - 0x70020) / 8)
  else if 0x70040 ≤ a ∧ a < 0x70060 ∧ a % 8 = 0 then (s.errors.first.getD ErrRec.zero).word ((a - 0x70040) / 8)
  else if a = A.tunerCtl ∨ (0x80100 ≤ a ∧ a < 0x80158 ∧ a % 8 = 0) then s.voted a
  else if a = A.tunerStat then setFlag w 2 s.voteDis
  else if a = A.tunerGval then s.goldWord
  else w

/-- What a read of the register at address `a` returns: zero in the window of a slice that is absent, and, but for
MESH_POS, SENS_TEMP and SENS_DROOP, of one in Off; zero where no register is (R405, R407). -/
def State.readCsr (s : State) (a : Nat) : Word :=
  match sliceOf a with
  | some (sl, off) =>
    if s.hasSlice sl = false ∨ (s.slicePower sl = 2 ∧ offReachable off = false) then 0 else s.sliceWord sl off
  | none => s.globalWord a

end Sys2Proof.Machine
end

