-- ==== Sys2Proof/Machine/Dump.lean ====
section
/-! DEFINITION. The dump store and its directory (R388, R389), and the log ring (R387). -/

namespace Sys2Proof.Machine

/-! ### The log ring -/

/-- The oldest queued record is written into the ring, over the oldest there; Belfry, out of reset, moves it. -/
def State.logRecord (s : State) : State :=
  match s.belfry.logQueue with
  | [] => s
  | r :: rest =>
    if s.belfry.inReset then s
    else
      let h := s.getF A.mboxLog 0 11
      let b := { s.belfry with logQueue := rest, logRing := Tbl.put LogRec.zero s.belfry.logRing h r }
      (({ s with belfry := b } : State).count A.mboxLog 0 11 1).count A.mboxLog 11 32 1

def execLogRecord (s : State) : Out := .next s.logRecord

/-- The bytes of a log record. -/
def LogRec.bytes (r : LogRec) : List Byte := [r.w0, r.w1, r.w2, r.w3].flatMap wordBytes

/-- A log record by its index in the ring. -/
def State.logAt (s : State) (i : Nat) : LogRec := Tbl.get LogRec.zero s.belfry.logRing (i % 2048)

/-! ### The content of a dump (R388) -/

/-- The registers of part 1: the first KiB of each of the GLB, PWR, BOOT and TUNER regions. -/
def dumpGlobals : List Nat :=
  ([0x0, 0x60000, 0xA0000, 0x80000] : List Nat).flatMap fun base => (List.range 128).map fun i => base + 8 * i

/-- The registers of part 3 for a slice. -/
def dumpSlice (sl : Nat) : List Nat :=
  [A.rhyCtrl sl, A.rhyStatus sl, A.rhyPfence sl, A.rhyBfence sl] ++ (List.range 128).map (fun i => sliceAddr sl (0x1000 + 8 * i)) ++
    [A.seStat sl] ++ (List.range 11).map (A.eccCnt sl) ++ (List.range 16).map (A.portStat sl)

/-- The error-ring records of part 4: the last 256 written, oldest first. -/
def State.dumpErrors (s : State) : List Byte :=
  let h := s.getF A.errHead 0 10
  (List.range 256).flatMap fun k =>
    let r := s.ringRec ((h + 1024 - 256 + k) % 1024)
    [r.w0, r.w1, r.w2, r.w3].flatMap wordBytes

/-- The bytes of a dump; those of part 5, the core's registers and stack, are not the spec's to say. -/
def State.dumpBytes (s : State) : List Byte :=
  let regs := fun (l : List Nat) => l.flatMap fun a => wordBytes (s.readCsr a)
  let ctxs := (List.range 64).flatMap fun c => [A.ctxE0 c, A.ctxE1 c]
  regs dumpGlobals ++ regs ctxs ++ s.sliceList.flatMap (fun sl => regs (dumpSlice sl)) ++ s.dumpErrors ++
    (List.range 4608).map (Config.dumpByte s.belfry.dumpCount)

/-! ### The directory (R389) -/

/-- The first of the entries that `p` accepts with the least sequence number. -/
def oldestDump (p : DumpDir → Bool) (l : List DumpDir) : Option Nat :=
  let ok := l.zipIdx.filter fun e => p e.1
  match ok.mergeSort fun a b => decide (a.1.seq ≤ b.1.seq) with
  | [] => none
  | e :: _ => some e.2

/-- The slot that a new dump takes: a free one, else that of the oldest entry without KEEP. -/
def State.dumpSlot (s : State) : Option Nat :=
  match (List.range 8).find? fun i => !((s.belfry.dumps.getD i DumpDir.empty).valid) with
  | some i => some i
  | none => oldestDump (fun d => !d.keep) s.belfry.dumps

/-- Key of byte `i` of dump slot `e`. -/
def dumpKey (e i : Nat) : Nat := e * 131072 + i

/-- Clears the bytes of a dump slot: with its W bits clear it reads as zero. -/
def clearDump (l : List Host.Cell) (e : Nat) : List Host.Cell :=
  l.filter fun c => c.1 / 131072 ≠ e

/-- Belfry writes a dump for `reason`. It is logged with its entry and reason, and discarded where every entry has KEEP. The
dump is complete within 2 ms, at a reference time that the spec leaves open; a trigger until then is logged with entry 0xFF and
not dumped (R388). DESIGN CHOICE: the log record of such a trigger. -/
def State.writeDump (s : State) (reason : Nat) (keep : Bool) : State :=
  if s.belfry.inReset then s
  else if s.time.ref < s.belfry.dumpEnds then s.logEvent 0x09 (setFld (setFld 0 0 8 0xFF) 8 8 reason)
  else match s.dumpSlot with
    | none => s.countSat A.mboxLog 55 4 1
    | some e =>
      let bs := s.dumpBytes
      let d : DumpDir :=
        { reason := reason, valid := true, keep := keep, seq := s.belfry.dumpCount % 65536, beat := s.beatCount
          ref := s.time.ref, len := bs.length }
      let store := bs.zipIdx.foldl (fun (m : List Host.Cell) (p : Byte × Nat) => Tbl.put (0 : Byte) m (dumpKey e p.2) p.1)
        (clearDump s.belfry.dumpStore e)
      let t : State := { s with belfry := { s.belfry with
        dumps := setAt s.belfry.dumps e d, dumpStore := store, dumpCount := s.belfry.dumpCount + 1
        dumpEnds := s.time.ref + s.freeDraw.1.toNat % (2000 * s.build.refMhz + 1) }, free := s.free + 1 }
      t.logEvent 0x09 (setFld (setFld 0 0 8 e) 8 8 reason)

/-- The bytes of a directory entry. -/
def DumpDir.bytes (d : DumpDir) : List Byte :=
  let w0 := setFld (setFlag (setFlag (setFld 0 0 8 d.reason) 8 d.valid) 9 d.keep) 16 16 d.seq
  [w0, BitVec.ofNat 64 d.beat, BitVec.ofNat 64 d.ref, BitVec.ofNat 64 d.len].flatMap wordBytes

/-- DUMP_FREE clears VALID and KEEP, and the slot's W bits. -/
def State.freeDump (s : State) (e : Nat) : State :=
  let d := s.belfry.dumps.getD e DumpDir.empty
  { s with belfry := { s.belfry with
      dumps := setAt s.belfry.dumps e { d with valid := false, keep := false }
      dumpStore := clearDump s.belfry.dumpStore e } }

/-- The directory, the log ring and the dump slots are cleared (R354). -/
def State.clearStore (s : State) : State :=
  let t : State := { s with belfry := { s.belfry with
    dumps := List.replicate 8 DumpDir.empty, dumpStore := [], logRing := [], logQueue := [] } }
  t.toReset A.mboxLog

/-! ### Belfry goes into reset -/

/-- The result bytes of a mailbox command in MBOX_ARG; the other bytes of the block stay (R403). -/
def State.putResult (s : State) (bs : List Byte) : State :=
  s.each (List.range ((bs.length + 7) / 8)) fun t i =>
    let part := (bs.drop (8 * i)).take 8
    let e : BitVec 8 := BitVec.ofNat 8 (2 ^ part.length - 1)
    t.wr (A.mboxArg i) (layWord (t.rd (A.mboxArg i)) (wordOfBytes part) e)

/-- A mailbox command is answered: STATUS, RLEN, TAG and DONE, and the interrupt when it is enabled (R385, R402). -/
def State.publish (s : State) (status : Nat) (bs : List Byte) : State :=
  let t := s.putResult bs
  let w := setFlag (setFlag (t.rd A.mboxStat) 0 false) 1 true
  let t := t.wr A.mboxStat (setFld (setFld (setFld w 8 8 status) 16 13 bs.length) 32 16 (t.getF A.mboxCmd 32 16))
  let t : State := { t with belfry := { t.belfry with cmd := none, answer := none } }
  if t.getB A.mboxIe 0 then t.raiseIrq 8 else t

/-- A roll-call attempt that Belfry leaves: it makes it afresh once it is out of reset (R14). -/
def Port.callWaits (x : Port) : Port := if x.calling then { x with retryDue := some (x.retryDue.getD x.calledAt) } else x

/-- Belfry's core and private memory return to reset; a mailbox command in progress is answered as not served, and the roll
calls that it makes wait for it (R14). -/
def State.haltBelfry (s : State) : State :=
  let busy := s.getB A.mboxStat 0
  let s : State := { s with ports := s.ports.map fun e => (e.1, e.2.callWaits) }
  let t : State := { s with belfry := { s.belfry with
    inReset := true, running := false, cmd := none, answer := none, flashOp := none, update := none, nonce := none } }
  if busy then t.publish 1 [] else t

end Sys2Proof.Machine
end

