-- ==== Sys2Proof/Machine/Flash.lean ====
section
/-! DEFINITION. The external flash (R391, R392): firmware images (R393, R394) and settings records (R396, R397). -/

namespace Sys2Proof.Machine

/-! ### Bytes -/

/-- A number of several bytes, byte 0 first (R7). -/
def leNat (bs : List Byte) : Nat := bs.foldr (fun b n => b.toNat + 256 * n) 0

/-- The bytes of a number, byte 0 first. -/
def leBytes (n v : Nat) : List Byte := (List.range n).map fun i => BitVec.ofNat 8 (v / 256 ^ i)

/-- What an erased byte of the flash reads as. -/
def erased : Byte := 0xFF

/-- A byte of the flash. -/
def State.flashByte (s : State) (a : Nat) : Byte := Tbl.get erased s.belfry.flash a

/-- `n` bytes of the flash from `a` on. -/
def State.flashBytes (s : State) (a n : Nat) : List Byte := (List.range n).map fun i => s.flashByte (a + i)

/-- A number held in `n` bytes of the flash. -/
def State.flashNat (s : State) (a n : Nat) : Nat := leNat (s.flashBytes a n)

/-- Erases the bytes from `lo` to `hi`. -/
def State.eraseFlash (s : State) (lo hi : Nat) : State :=
  { s with belfry := { s.belfry with flash := s.belfry.flash.filter fun c => !(decide (lo ≤ c.1) && decide (c.1 < hi)) } }

/-- Programs bytes from `a` on. -/
def State.programFlash (s : State) (a : Nat) (bs : List Byte) : State :=
  let f := bs.zipIdx.foldl (fun (m : List Host.Cell) (p : Byte × Nat) => Tbl.put erased m (a + p.2) p.1) s.belfry.flash
  { s with belfry := { s.belfry with flash := f } }

/-- The bytes from `lo` to `hi` become values that the spec leaves open: what a program or an erase that did not end has
left there. -/
def State.spoilFlash (s : State) (lo hi : Nat) : State :=
  let bs := (List.range (hi - lo)).map fun i => (Config.freeWord (s.free + i)).setWidth 8
  { s.programFlash lo bs with free := s.free + (hi - lo) }

/-! ### Places (R392) -/

/-- The start and the end of image A or B. -/
def imageAt (b : Bool) : Nat := if b then 0x40000 else 0
def imageEnd (b : Bool) : Nat := imageAt b + 0x40000

/-- The start and the end of a settings copy. -/
def copyAt (n : Nat) : Nat := if n = 0 then 0x80000 else 0x90000
def copyEnd (n : Nat) : Nat := copyAt n + 0x10000

/-! ### Images (R393) -/

/-- LENGTH and SEQ of an image. -/
def State.imageLength (s : State) (b : Bool) : Nat := s.flashNat (imageAt b + 4) 4
def State.imageSeqOf (s : State) (b : Bool) : Nat := s.flashNat (imageAt b + 8) 4

/-- The image is valid: MAGIC and LENGTH, the key's hash, and the signature over header bytes 0 to 127 and the body. -/
def State.imageOk (s : State) (b : Bool) : Bool :=
  let a := imageAt b
  let n := s.imageLength b
  let key := s.flashBytes (a + 16) 97
  s.belfry.flashOk && s.fuse.keyHash && decide (s.flashNat a 4 = 0x31464C42) && decide (1 ≤ n) && decide (n ≤ 196608) &&
    Config.keyHashMatches key &&
    Config.signatureVerifies key (s.flashBytes a 128 ++ s.flashBytes (a + 512) n) (s.flashBytes (a + 128) 96)

/-- The life-cycle state lets B1 accept images (R400). -/
def State.imagesMay (s : State) : Bool := decide (s.fuse.lifeCycle ≠ 0) && decide (s.fuse.lifeCycle ≠ 5)

/-- The image that B1 boots: A, else B (R394). -/
def State.bootImage (s : State) : Option Bool :=
  if s.imagesMay = false then none
  else if s.imageOk false then some false
  else if s.imageOk true then some true
  else none

/-! ### Settings records (R396, R397) -/

/-- An address lies in the set of registers of a section; `all` has ALLSL, with a slice-window offset. -/
def inSection (type a : Nat) (all : Bool) : Bool :=
  let within := fun (lo hi : Nat) => decide (lo ≤ a) && decide (a < hi)
  let rhy := fun (o : Nat) => decide (o = 0) || (decide (0x100 ≤ o) && decide (o < 0x300))
  if a % 8 ≠ 0 then false
  else if type = 1 then
    if all then rhy a
    else match sliceOf a with
      | some (_, off) => rhy off
      | none => false
  else if all then false
  else if type = 2 then within 0x30020 0x30200
  else if type = 3 then decide (a = 0x30200) || within 0x30400 0x30C00
  else if type = 4 then within 0x20000 0x20180
  else if type = 5 then within 0x60028 0x60048 || decide (a = 0x38) || decide (a = 0x70000)
  else false

/-- The bytes of the entries of a section. -/
def sectionBytes (type count : Nat) : Nat := if type = 5 then 16 + 16 * count else if type = 6 ∨ type = 7 then 8 * count else 16 * count

/-- A number at byte `a` of a record. -/
def numAt (r : List Byte) (a n : Nat) : Nat := leNat ((r.drop a).take n)

/-- The word at byte `a` of a record. -/
def wordAt (r : List Byte) (a : Nat) : Word := BitVec.ofNat 64 (numAt r a 8)

/-- The register entries of a section whose entries begin at byte `a`. -/
def regEntries (r : List Byte) (type a count : Nat) : List (Nat × Word × Word) :=
  (List.range count).map fun i => (type, wordAt r (a + 16 * i), wordAt r (a + 16 * i + 8))

/-- No index has two entries. -/
def onePerIndex (l : List (Nat × Nat × Nat)) : Bool := l.all fun e => decide ((l.filter fun f => f.1 = e.1).length = 1)

/-- Adds a section to a record; none where it does not keep to R397. -/
def addSection (r : List Byte) (a : Nat) (x : Settings) : Option Settings :=
  let type := numAt r a 2
  let count := numAt r (a + 2) 2
  let p := a + 8
  if type = 0 ∨ 7 < type ∨ numAt r (a + 4) 4 ≠ sectionBytes type count then none
  else if type = 6 then
    some { x with repairs := x.repairs ++ (List.range count).map fun i => wordAt r (p + 8 * i) }
  else if type = 7 then
    let es := (List.range count).map fun i =>
      let w := wordAt r (p + 8 * i)
      (fld w 0 4, fld w 4 8, fld w 12 16)
    if onePerIndex (x.ports ++ es) then some { x with ports := x.ports ++ es } else none
  else
    let es := regEntries r type (if type = 5 then p + 16 else p) count
    if es.all fun e => inSection type (fld e.2.1 0 23) (flag e.2.1 23) then
      let y := { x with regs := x.regs ++ es }
      some (if type = 5 then { y with vlogic := numAt r p 2, varray := numAt r (p + 2) 2, vrate := numAt r (p + 4) 2 } else y)
    else none

/-- Adds `n` sections from byte `a` on, all within `len` bytes. -/
def addSections (r : List Byte) (len : Nat) : Nat → Nat → Settings → Option Settings
  | 0, _, x => some x
  | n + 1, a, x =>
    let next := a + 8 + numAt r (a + 4) 4
    if len < a + 8 ∨ len < next then none
    else match addSection r a x with
      | some y => addSections r len n next y
      | none => none

/-- The CRC of a record with its own bytes taken as zero. -/
def recordCrc (r : List Byte) : Nat := (crc32c (r.take 16 ++ List.replicate 4 0 ++ r.drop 20)).toNat

/-- The bytes of settings copy `n`, LENGTH of them. -/
def State.copyBytes (s : State) (n : Nat) : List Byte := s.flashBytes (copyAt n) (min 65536 (s.flashNat (copyAt n + 8) 4))

/-- The header of a record is sound, its CRC apart. -/
def headerOk (r : List Byte) (len : Nat) : Bool :=
  decide (numAt r 0 4 = 0x31544553) && decide (numAt r 4 2 = 1) && decide (64 ≤ len) && decide (len ≤ 65536)

/-- The record held in `r`, taken as copy `n`; none where it is not valid. -/
def parseRecord (r : List Byte) (n : Nat) : Option Settings :=
  let len := numAt r 8 4
  if headerOk r len = false ∨ r.length < len ∨ recordCrc (r.take len) ≠ numAt r 16 4 then none
  else addSections r len (numAt r 6 2) 64 { Settings.defaults with valid := true, copy := n, seq := numAt r 12 4, raw := r.take len }

/-- Settings copy `n`, where it is valid. -/
def State.settingsCopy (s : State) (n : Nat) : Option Settings :=
  if s.belfry.flashOk then parseRecord (s.copyBytes n) n else none

/-- A copy has a sound header and fails its CRC. -/
def State.copyBadCrc (s : State) (n : Nat) : Bool :=
  let r := s.copyBytes n
  s.belfry.flashOk && headerOk r (s.flashNat (copyAt n + 8) 4) && decide (recordCrc r ≠ numAt r 16 4)

/-- `a` is greater than `b`, compared modulo 2³². -/
def seqAfter (a b : Nat) : Bool := decide ((a + 2 ^ 32 - b) % 2 ^ 32 ≠ 0) && decide ((a + 2 ^ 32 - b) % 2 ^ 32 < 2 ^ 31)

/-- The record that B8 takes: the valid copy with the greater SEQ, or defaults. -/
def State.takeSettings (s : State) : Settings :=
  let bad := s.copyBadCrc 0 || s.copyBadCrc 1
  let x := match s.settingsCopy 0, s.settingsCopy 1 with
    | some a, some b => if seqAfter b.seq a.seq then b else a
    | some a, none => a
    | none, some b => b
    | none, none => Settings.defaults
  { x with badCrc := bad }

end Sys2Proof.Machine
end

