-- ==== Sys2Proof/Machine/Tuner.lean ====
section
/-! DEFINITION. The Tuner's passes, mismatches and challenges (R292 to R300, R306 to R308). -/

namespace Sys2Proof.Machine

/-! ### Reference time -/

/-- The clk from now until the reference-time counter has reached `t`. -/
def State.clkToRef (s : State) (t : Nat) : Nat :=
  let need := (t - s.time.ref) * max 1 s.time.mhz
  max 1 ((need - s.time.frac + s.build.refMhz - 1) / s.build.refMhz)

/-- The reference-time counter reaches `t`, unless it has passed it already; it counts while clk is stopped, and not while PGOOD is
low (R18). -/
def State.reachRef (s : State) (t : Nat) : State :=
  if t ≤ s.time.ref ∨ s.pins.pgood = false then s
  else if s.pins.clkOk = false then { s with time := { s.time with ref := t, frac := 0 } }
  else s.pass (s.clkToRef t)

/-- Reference clocks in `n` microseconds. -/
def State.refUs (s : State) (n : Nat) : Nat := n * s.build.refMhz

/-! ### Instances -/

/-- The instances of a region that exist. -/
def State.hasInst (s : State) (r inst : Nat) : Bool :=
  if r < 4 then s.hasSlice inst else decide (r < 10) && decide (inst = 0)

/-- The registers of an instance of a region, scanned at one per clk (R292, R295). -/
def State.instRegs (s : State) (r : Nat) : Nat :=
  if r = 0 then 32
  else if r = 3 ∨ r = 4 then 16384
  else if r = 7 then 4 * s.build.chipwin
  else if r = 8 then 8
  else if r = 9 then 32
  else 64

/-- Region `r` is scanned (R307). -/
def State.regionOn (s : State) (r : Nat) : Bool := flag (s.voted (A.tunerRegion r)) 0

/-- TUNER_REGION_r.STATE and TUNER_STAT.FAILED report the instances (R306, R307). -/
def State.reportRegion (s : State) (r : Nat) : State :=
  let worst := (if r < 4 then s.sliceList else [0]).foldl (fun m i => max m (s.instState r i)) 0
  let t := s.putF (A.tunerRegion r) 1 2 worst
  t.putB A.tunerStat 4 (t.tuner.inst.any fun e => decide (e.2 = 2))

/-- Sets the state of an instance; a fence that this raises meets what waits in its slice (R292). -/
def State.setInst (s : State) (r inst v : Nat) : State :=
  let put := fun (t : State) =>
    ({ t with tuner := { t.tuner with inst := Tbl.put 0 t.tuner.inst (instKey r inst) v } } : State).reportRegion r
  if r < 3 then s.fencing inst put else put s

/-- A record of the Tuner, in the Tuner layout (R282, R284). -/
def State.tunerRec (s : State) (code r inst : Nat) : State :=
  let d := setFld (setFld 0 0 32 (s.signature r inst).toNat) 32 32 (s.votedGolden r inst).toNat
  if r < 4 then s.sliceRec inst code r none 0 0 d else s.globalRec code r 0 d

/-- The whole complex wakes from Tap when a pass finds a mismatch, and every slice in Damp with it (R315, R322). -/
def State.mismatchWake (s : State) : State := if s.cplxPower = 2 then s.wakeAll 5 else s

/-- An instance's signature differs from its golden (R296): RELOADING with its fence, or FAILED at the second
mismatch; the Tuner begins the reload that is its own (R292, R300). -/
def State.mismatch (s : State) (r inst : Nat) : State :=
  let a := A.tunerRegion r
  let f := s.instState r inst
  let t := (((s.countSat a 16 16 1).putF a 8 6 inst).putB A.tunerStat 1 true).raiseIrq 3
  let t := t.mismatchWake
  if f = 0 then
    let t := (t.tunerRec 0x28 r inst).setInst r inst 1
    let t := if r = 6 then t.allToReset [A.syswinBase 0, A.syswinSize 0, A.syswinTgt 0, A.syswinAttr 0] else t
    { t with tuner := { t.tuner with
        reload := if r = 3 then t.tuner.reload ++ [(r, inst)] else t.tuner.reload
        nmi := t.tuner.nmi || decide (r = 9) } }
  else if f = 1 then
    let t := ((t.tunerRec 0x2A r inst).setInst r inst 2).writeDump 2 false
    if r = 9 then ({ t with tuner := { t.tuner with belfryHeld := true } } : State).haltBelfry else t
  else t

/-- An instance agrees with its golden again (R296). -/
def State.restored (s : State) (r inst : Nat) : State :=
  if s.instState r inst = 0 then s
  else
    let t := (s.tunerRec 0x29 r inst).setInst r inst 0
    if r = 9 then { t with tuner := { t.tuner with nmi := false, belfryHeld := false } } else t

/-- The signature of an instance is compared with its golden. -/
def State.compare (s : State) (r inst : Nat) : State :=
  let t := s.noteVote (goldenKey r inst)
  if t.signature r inst = t.votedGolden r inst then t.restored r inst else t.mismatch r inst

/-- A rescan of one instance: 4 clk, and one for each register (R295). -/
def State.scanNow (s : State) (r inst : Nat) : State := (s.pass (4 + s.instRegs r)).compare r inst

/-! ### Passes (R295) -/

/-- The regions that a slice's engine scans, and those of the global engine, in order. -/
def sliceRegions : List Nat := [0, 1, 2, 3]
def globalRegions : List Nat := [6, 7, 5, 8, 9, 4]

/-- The instances of a pass: of enabled regions, in slices that are not in Off, and OK; an instance that is not OK is
rescanned after its reload or at RECHECK (R296). -/
def State.passList (s : State) : List (Nat × Nat) :=
  let slices := s.sliceList.flatMap fun sl =>
    if s.slicePower sl = 2 then [] else sliceRegions.map fun r => (r, sl)
  (slices ++ globalRegions.map fun r => (r, 0)).filter fun p => s.regionOn p.1 && decide (s.instState p.1 p.2 = 0)

/-- A pass begins in the present clk. -/
def State.beginScans (s : State) : State :=
  { s.putB A.tunerStat 0 true with tuner := { s.tuner with
      left := s.passList, redo := [], passAt := s.now, lastPass := s.now + 1, engineAt := [], running := true } }

/-- A pass that has nothing left to scan is complete. -/
def State.endScans (s : State) : State :=
  if s.tuner.running ∧ s.tuner.left.isEmpty ∧ s.tuner.redo.isEmpty then
    let t := (s.putB A.tunerStat 0 false).count A.tunerStat 16 48 1
    { t with tuner := { t.tuner with running := false } }
  else s

/-- The pass period, 2^PERIOD clk. -/
def State.passPeriod (s : State) : Nat := 2 ^ fld (s.inForce A.tunerCtl ^^^ s.voteError A.tunerCtl) 1 5

/-- A pass starts at the next clk that is a multiple of the period, unless one is running, EN is clear, or the complex
is in Tap, whose wakes drive the passes (R295, R297, R306); the first pass is that of stage B9 (R337). -/
def State.passStart (s : State) : State :=
  let p := s.passPeriod
  let c := if s.now % p = 0 ∧ s.tuner.lastPass ≠ s.now + 1 then s.now else (s.now / p + 1) * p
  if s.tuner.running ∨ flag (s.voted A.tunerCtl) 0 = false ∨ s.cplxPower = 2 ∨ s.boot.next < 10 then s
  else ((s.reach c).beginScans).endScans

def execTunerPassStart (s : State) : Out := .next s.passStart

/-- An instance leaves the pass: its engine goes on with the next. -/
def State.leavePass (s : State) (r inst : Nat) : State :=
  { s with tuner := { s.tuner with
      left := s.tuner.left.filter (· ≠ (r, inst)), redo := s.tuner.redo.filter (· ≠ (r, inst))
      engineAt := Tbl.put 0 s.tuner.engineAt (engineOf r inst) s.now } }

/-- The scan of an instance in the pass ends, and is judged; in a slice in Off, or for an instance that is not OK any
more, nothing is recorded (R296, R297). -/
def State.scanEnd (s : State) (r inst : Nat) : State :=
  if s.tuner.running = false ∨ s.scanHead (engineOf r inst) ≠ some (r, inst) then s
  else
    let t := (s.reach (s.scanBegan (engineOf r inst) + 4 + s.instRegs r)).leavePass r inst
    let off := decide (r < 4) && decide (t.slicePower inst = 2)
    (if off ∨ t.instState r inst ≠ 0 then t else t.compare r inst).endScans

def execTunerScanEnd (r inst : Nat) (s : State) : Out := s.onIndex r 11 (s.scanEnd r inst)

/-! ### Reload, RECHECK, REBASE (R296, R307) -/

/-- The Tuner's own reload of a slice's handle mirror: peal writes of the handle table; a committed value that has not
taken effect stays out. -/
def State.reloadMirror (s : State) (sl : Nat) : State :=
  s.each (List.range 4096) fun t h =>
    if t.getB (A.htabE0 h) 31 then t
    else (t.tableWords h).zipIdx.foldl (fun (u : State) (p : Word × Nat) => u.putMirror sl h p.2 p.1) t

/-- The reload of an instance ends and it is rescanned. -/
def State.reloadDone (s : State) (r inst : Nat) : State :=
  if s.tuner.reload.contains (r, inst) = false then s
  else
    let t : State := { s with tuner := { s.tuner with reload := s.tuner.reload.filter (· ≠ (r, inst)) } }
    (t.reloadMirror inst).scanNow r inst

def execTunerReloadDone (r inst : Nat) (s : State) : Out := s.onIndex r 11 (s.reloadDone r inst)

/-- REBASE of an instance takes its present signature as its golden (R296). -/
def State.rebase (s : State) (r inst : Nat) : State :=
  ((s.putGolden r inst (s.sigDiff r inst)).voteWrite (goldenKey r inst)).restored r inst

/-- A write of TUNER_REGION_r (R307): EN and INST; REBASE, then RECHECK, act on instance INST. -/
def State.storeRegion (s : State) (r : Nat) (v : Word) (ctx : Nat) : State :=
  let t := (s.storeReg (A.tunerRegion r) v true ctx).tuncfgWrite (A.tunerRegion r)
  let n := fld v 8 6
  let ok := t.hasInst r n && (decide (4 ≤ r) || decide (t.slicePower n ≠ 2))
  let t := if ok ∧ flag v 4 then t.rebase r n else t
  if ok ∧ flag v 3 then t.scanNow r n else t

def execTunerRecheck (r : Nat) (v : Word) (ctx : Nat) (s : State) : Out :=
  s.onIndex r 11 (s.csrAccess (A.tunerRegion r) ctx fun t => t.storeRegion r (setFlag v 3 true) ctx)

def execTunerRebase (r : Nat) (v : Word) (ctx : Nat) (s : State) : Out :=
  s.onIndex r 11 (s.csrAccess (A.tunerRegion r) ctx fun t => t.storeRegion r (setFlag v 4 true) ctx)

/-- A write of TUNER_CTL (R306): a PERIOD outside 14 to 24 and a CHTO of 0 are ignored. -/
def State.storeTunerCtl (s : State) (v : Word) (ctx : Nat) : State :=
  let p := fld v 1 5
  let v := if 14 ≤ p ∧ p ≤ 24 then v else setFld v 1 5 (s.getF A.tunerCtl 1 5)
  let v := if fld v 6 8 = 0 then setFld v 6 8 (s.getF A.tunerCtl 6 8) else v
  (s.storeReg A.tunerCtl v true ctx).tuncfgWrite A.tunerCtl

/-! ### Challenges (R298, R299) -/

/-- The bytes of the challenge. -/
def State.challengeBytes (s : State) : List Byte := (List.range 8).flatMap fun w => wordBytes (s.rd (A.tunerChal w))

/-- The signature of region TUNCFG, taken over the voted values. -/
def State.selfSig (s : State) : BitVec 32 :=
  crc32c ((s.scanAddrs 10 0).flatMap fun a => match s.scanned a with
    | some x => wordBytes (s.voted a &&& x.mask)
    | none => [])

/-- The challenge runs: DONE, MATCH, VOTEDIS and SELF are set, within 24 clk. -/
def State.runChallenge (s : State) : State :=
  let hit := decide ((crc32c s.challengeBytes).toNat = s.getF A.tunerChexp 0 32)
  let w := setFlag (setFlag (setFlag 0 0 true) 1 hit) 2 s.voteDis
  let t := s.wr A.tunerChrsp (setFld w 32 32 s.selfSig.toNat)
  { t with tuner := { t.tuner with lastGo := t.time.ref, lateSaid := false, challenged := true } }

/-- Only context 0 writes TUNER_CHAL and TUNER_CHEXP (R298). -/
def State.tunerPrivate (s : State) (a ctx : Nat) (f : State → State) : State :=
  s.csrAccess a ctx fun t => if ctx = 0 then f t else t.refuseCfg a ctx

/-- A write of TUNER_CHEXP with GO. -/
def State.chexpGo (s : State) (v : Word) (ctx : Nat) : State :=
  s.tunerPrivate A.tunerChexp ctx fun t => (t.storeReg A.tunerChexp v true ctx).runChallenge

def execTunerChexpGo (v : Word) (ctx : Nat) (s : State) : Out := .next (s.chexpGo v ctx)

/-- Belfry writes 64 bytes of its own choosing and their CRC-32C, with GO. -/
def State.challenge (s : State) (words : List Word) : State :=
  if s.belfry.running = false then s
  else
    let t := (List.range 8).foldl (fun (t : State) w => t.wr (A.tunerChal w) (words.getD w 0)) s
    t.chexpGo (BitVec.ofNat 64 (crc32c t.challengeBytes).toNat) 0

def execBelfryChallenge (words : List Word) (s : State) : Out := .next (s.challenge words)

/-- Belfry rewrites every TUNCFG register, and with it all three copies. -/
def State.rewriteTuncfg (s : State) : State := tuncfgRegs.foldl State.tuncfgWrite s

/-- Belfry judges the answer: SELF against the signature of its own copy of TUNCFG. A first failure rewrites TUNCFG and
challenges again; a second is recorded, and Belfry trusts the Tuner no more. -/
def State.judge (s : State) : State :=
  if s.belfry.running = false ∨ s.tuner.challenged = false ∨ s.getB A.tunerChrsp 0 = false then s
  else
    let r := s.rd A.tunerChrsp
    let ok := flag r 1 && !(flag r 2) && decide (fld r 32 32 = (s.golden 10 0).toNat)
    if ok then { s with tuner := { s.tuner with challenged := false, tries := 0 } }
    else if s.tuner.tries = 0 then
      let t := s.rewriteTuncfg
      let t : State := { t with tuner := { t.tuner with tries := 1 } }
      t.chexpGo (BitVec.ofNat 64 (crc32c t.challengeBytes).toNat) 0
    else
      let d := setFlag (setFlag (setFld 0 0 32 (fld r 32 32)) 32 (flag r 1)) 33 (flag r 2)
      let t := (((s.globalRec 0x2B 0 0 d).raiseIrq 3).logEvent 0x08 0).writeDump 3 false
      { t with tuner := { t.tuner with challenged := false, tries := 0, trusted := false } }

def execChallengeResult (s : State) : Out := .next s.judge

/-- The interval since the last GO exceeds CHTO milliseconds: once for each overdue interval (R299). -/
def State.challengeLate (s : State) : State :=
  if s.tuner.lateSaid ∨ s.boot.released = false then s
  else
    let t := s.reachRef (s.tuner.lastGo + s.refUs (1000 * fld (s.voted A.tunerCtl) 6 8) + 1)
    let d := BitVec.ofNat 64 (s.tuner.lastGo / 16 % 2 ^ 48)
    let t := ((t.putB A.tunerStat 3 true).globalRec 0x2C 0 0 d).raiseIrq 3
    { t with tuner := { t.tuner with lateSaid := true } }

def execChallengeLate (s : State) : Out := .next s.challengeLate

end Sys2Proof.Machine
end

