-- ==== Sys2Proof/Machine/Restore.lean ====
section
/-! DEFINITION. What restoring, resetting and repairing a slice have in common: the repair map (R318, R339, R355), reset
values of the units of a slice (R318, R345), and the restore that closes a wake from Off or a slice reset (R318). -/

namespace Sys2Proof.Machine

/-! ### The repair map -/

/-- The storage of a slice with another repair map: what a spare held before it was brought into service is forgotten. -/
def State.setMap (s : State) (m' : Mem) (drop : Nat → Bool) : State := { s with mem := s.mem.withMap m' drop }

/-- A macro row is replaced by a spare row (R36). -/
def State.putSpare (s : State) (sl b mac row n : Nat) : State :=
  s.setMap { s.mem with remap := Tbl.put 0 s.mem.remap (remapKey sl b mac row) (n + 1) } fun k =>
    decide (k / 162 = cellKey sl (s.mem.cellBank sl b) mac (512 + n) 0 / 162)

/-- Stored bit `bit` of the words of a macro is held by the spare column group (R36). -/
def State.putGroup (s : State) (sl b mac bit : Nat) : State :=
  s.setMap { s.mem with group := Tbl.put 0 s.mem.group (groupKey sl b mac) (bit + 1) } fun k =>
    decide (k / 84240 = cellKey sl (s.mem.cellBank sl b) mac 0 0 / 84240) && decide (160 ≤ k % 162)

/-- Logical bank `b` is held by spare bank `n` (R36). -/
def State.putBank (s : State) (sl b n : Nat) : State :=
  s.setMap { s.mem with spare := Tbl.put 0 s.mem.spare (2 * sl + n) (b + 1) } fun k =>
    decide (k / 336960 = cellKey sl (64 + n) 0 0 0 / 336960)

/-- The spare banks of a slice in use. -/
def State.spareBanks (s : State) (sl : Nat) : List Nat :=
  (List.range 2).filter fun n => decide (Tbl.get 0 s.mem.spare (2 * sl + n) ≠ 0)

/-- A bank takes the first free of the two spare banks of its slice, where one is left. -/
def State.takeSpareBank (s : State) (sl b : Nat) : State :=
  if (s.mem.spareOf sl b).isSome then s
  else match (List.range 2).find? fun n => decide (Tbl.get 0 s.mem.spare (2 * sl + n) = 0) with
    | some n => s.putBank sl b n
    | none => s

/-- ECC_SPARE_b.FREE of each macro of a bank follows the remaps (R67). -/
def State.countSpares (s : State) (sl b : Nat) : State :=
  (List.range 4).foldl (fun (t : State) mac =>
    t.putF (A.eccSpare sl b) (4 * mac) 4 (8 - (t.sparesUsed sl b mac).length)) s

/-- A row takes the lowest free spare row of its macro, with what it holds, recoded; a row already replaced, or one of a
macro without a spare row left, stays as it is. -/
def State.addRow (s : State) (sl b mac row : Nat) : State :=
  if Tbl.get 0 s.mem.remap (remapKey sl b mac row) ≠ 0 then s
  else match s.freeSpare sl b mac with
    | none => s
    | some n => (s.moveRow sl b mac row n).countSpares sl b

/-- An added repair of the settings record (R397), where its slice is in use: a row, or a bad line; one that is in force
is skipped (R398). -/
def State.addRepair (s : State) (w : Word) : State :=
  let sl := s.logical (fld w 0 6)
  let b := fld w 6 6
  let l := fld w 14 12
  if s.hasSlice sl = false ∨ s.phys sl ≠ fld w 0 6 then s
  else if flag w 26 then
    let known := (List.range 64).any fun i =>
      s.getB (A.eccBadline sl i) 63 && decide (s.getF (A.eccBadline sl i) 0 12 = l) && decide (s.getF (A.eccBadline sl i) 12 6 = b)
    if known then s else s.markBad sl b l
  else s.addRow sl b (fld w 12 2) (l % 512)

/-- No spare of a slice is in use. -/
def State.clearMap (s : State) (sl : Nat) : State :=
  let lo := sl * 131072
  s.setMap { s.mem with
    remap := s.mem.remap.filter fun e => !(decide (lo ≤ e.1) && decide (e.1 < lo + 131072))
    group := s.mem.group.filter fun e => decide (e.1 / 256 ≠ sl)
    spare := s.mem.spare.filter fun e => decide (e.1 / 2 ≠ sl) } fun _ => false

/-- The repairs that the fuse copy holds for a slice (R340, R355): spare banks, spare column groups, spare rows. -/
def State.fuseRepairs (s : State) (sl : Nat) : State :=
  let p := s.phys sl
  let t := s.clearMap sl
  let t := (s.fuse.banks.filter fun x => x.1 = p).foldl (fun (t : State) x => t.takeSpareBank sl (x.2 % 64)) t
  let t := (s.fuse.groups.filter fun g => g.1 = p).foldl (fun (t : State) g =>
    t.putGroup sl (g.2.1 % 64) (g.2.2.1 % 4) (g.2.2.2 % 80)) t
  let t := (s.fuse.rows.filter fun r => r.1 = p).foldl (fun (t : State) r =>
    t.putSpare sl (r.2.1 % 64) (r.2.2.1 % 4) (r.2.2.2.1 % 512) (r.2.2.2.2 % 8)) t
  t.each (List.range 64) fun t b => t.countSpares sl b

/-- The repair map of a slice that leaves Off: the fuse copy, the added repairs of the settings record, and the
retirements since power-up; no line is marked bad (R318). -/
def State.loadRepairs (s : State) (sl : Nat) : State :=
  let t := s.allToReset ((List.range 64).map (A.eccSpare sl) ++ (List.range 64).map (A.eccBadline sl))
  let t := t.fuseRepairs sl
  let mine := s.belfry.settings.repairs.filter fun w => decide (s.logical (fld w 0 6) = sl) && !(flag w 26)
  let t := mine.foldl State.addRepair t
  (s.belfry.retirements.filter fun r => r.1 = sl).foldl (fun (t : State) r => t.addRow sl r.2.1 r.2.2.1 r.2.2.2) t

/-! ### Reset values -/

/-- Returns the registers of the window of slice `sl` to their reset values, but for offsets that `keep` names. -/
def State.clearWindow (s : State) (sl : Nat) (keep : Nat → Bool) : State :=
  let stays := fun (a : Nat) => match sliceOf a with
    | some (n, off) => decide (n ≠ sl) || keep off
    | none => true
  { s with
    csr := s.csr.filter fun e => stays e.1
    force := { s.force with
      value := s.force.value.filter fun e => stays e.1
      waiting := s.force.waiting.filter fun e => stays e.1 } }

/-- Every stream slot of a slice, with everything that it holds, returns to its reset value (R345): accumulators are
released, the groups that it sends are freed, and outbound writes and host accesses of its slots are forgotten. -/
def State.resetSlots (s : State) (sl : Nat) : State :=
  let t := s.each (List.range 16) fun t j => t.setSlot sl j Slot.init
  let t := t.clearWindow sl fun off => !(decide (0x1000 ≤ off) && decide (off < 0x1E00)) || decide (off = 0x1C08) || decide (off = 0x1C10)
  let t := (t.each (List.range 64) fun t b => t.modBank sl b fun k => { k with accs := [], shadow := [] }).putF (A.strkAcc sl) 0 64 0
  let t := t.modSlice sl fun x => { x with
    latches := [], scrub := if (x.scrub.map fun p => p.slot.isSome) = some true then none else x.scrub }
  let t := if (t.slice sl).scrub.isNone then t.putB (A.scrubCtl sl) 39 false else t
  let t := t.endXfers fun x => x.sl = sl
  { t with
    fabric := { t.fabric with outbound := t.fabric.outbound.filter fun (o : FpOut) => o.sl ≠ sl }
    sysport := { t.sysport with inits := t.sysport.inits.filter fun (i : SpInit) => i.sl ≠ sl } }

/-- A port loses what it holds (R345); what its engine drives, and the beats under way, stay. -/
def Port.cleared (x : Port) : Port :=
  { Port.init with
    fenceIn := x.fenceIn, called := x.called, rcFence := x.rcFence, resetFence := x.resetFence
    lastBeat := x.lastBeat, busyTo := x.busyTo, remoteTo := x.remoteTo, takenTo := x.takenTo, usedTo := x.usedTo }

/-- A port that no roll call has reached: its roll-call fence is up (R108). -/
def Port.uncalled (x : Port) : Port := { x.cleared with called := false, rcFence := true, resetFence := false }

/-- What a slice holds beside its registers, at reset: queued error records and the times at which its lanes were last
used stay. -/
def SliceSt.fresh (x : SliceSt) : SliceSt :=
  { SliceSt.init with
    errs := x.errs, ceWindow := x.ceWindow, released := x.released, lastIssue := x.lastIssue, stalledAt := x.stalledAt
    fenceReset := x.fenceReset, fenceBoot := x.fenceBoot, fenceOff := x.fenceOff, save := x.save, nextAt := x.nextAt
    sensed := x.sensed, droopLog := x.droopLog, cool := x.cool, killHandovers := x.killHandovers }

/-- Every bank of a slice is wiped and empty, and every line of its vector buffer (R46, R246). -/
def State.wipeSlice (s : State) (sl : Nat) : State :=
  let lo := sl * 2097152
  let t := s.each (List.range 64) fun t b => t.setBank sl b Bank.init
  { t with mem := { t.mem with
      wbits := t.mem.wbits.filter fun e => !(decide (lo ≤ e.1) && decide (e.1 < lo + 2097152))
      vec := t.mem.vec.filter fun e => !(decide (sl * 8192 ≤ e.1) && decide (e.1 < sl * 8192 + 8192)) } }

/-- Every bank of a slice gets owner 63 (R318). -/
def State.ownAll (s : State) (sl : Nat) : State := s.each (List.range 64) fun t b => t.giveBank sl b 63

/-! ### The Rhythm save area (R312) -/

/-- The registers that the save area holds. -/
def rhyRegs (sl : Nat) : List Nat :=
  [A.rhyCtrl sl, A.rhySwitch sl] ++ (List.range 32).map (A.rhyA sl) ++ (List.range 32).map (A.rhyB sl)

/-- RHY_CTRL, RHY_SWITCH and both tables are copied into the save area. -/
def State.saveRhythm (s : State) (sl : Nat) : State :=
  s.modSlice sl fun x => { x with save := some ((rhyRegs sl).map s.rd) }

/-- The save area is at the reset values of those registers. -/
def State.resetSave (s : State) (sl : Nat) : State := s.modSlice sl fun x => { x with save := none }

/-- The RHY registers are written back from the save area. -/
def State.loadRhythm (s : State) (sl : Nat) : State :=
  let t := match (s.slice sl).save with
    | some ws => ((rhyRegs sl).zip ws).foldl (fun (t : State) (p : Nat × Word) => t.wr p.1 p.2) s
    | none => s.allToReset (rhyRegs sl)
  t.modSlice sl fun x => { x with nextAt := s.now }

/-! ### The restore -/

/-- Steps 3 to 6 of R318: pairs, slots and owners, the Rhythm, the handle mirror, and the golden signatures of RHY, OWN,
REPAIR and HMIR, whose instances are OK. -/
def State.restoreSlice (s : State) (sl : Nat) : State :=
  let t := s.allToReset ((List.range 256).map (A.semPair sl))
  let t := ((t.resetSlots sl).ownAll sl).loadRhythm sl
  let t := ([0, 1, 2, 3] : List Nat).foldl (fun (t : State) r => t.instReset r sl) t
  let t := t.reloadMirror sl
  ([0, 1, 2, 3] : List Nat).foldl (fun (t : State) r => (t.commitGolden r sl).reportRegion r) t

end Sys2Proof.Machine
end

