-- ==== Sys2Proof/Machine/Power.lean ====
section
/-! DEFINITION. Power states (R309 to R322), supply control (R323 to R326, R331, R332), and the sensors (R390, R404). -/

namespace Sys2Proof.Machine

/-! ### Targets and requests (R310, R327, R328) -/

/-- The slices that an entry or a wake of a target concerns: every powered one for the complex. -/
def State.targetSlices (s : State) : PowerTarget → List Nat
  | .slice sl => [sl]
  | .complex => s.sliceList.filter fun sl => decide (s.slicePower sl ≠ 2)

/-- A write of a target is ignored, and PWR_STAT.IGN is set. -/
def State.ignoreTarget (s : State) : State := s.putB A.pwrStat 11 true

/-- An entry into state `enters` (1 Damp, 2 Off, 3 Tap) begins with step E1. A Knell that waits for Play abandons it (R316). -/
def State.beginEntry (s : State) (t : PowerTarget) (enters : Nat) : State :=
  let e : PwrEntry := { target := t, enters := enters, step := 1, began := s.time.ref, wake := none }
  let e := if s.power.knellWaiting.isEmpty then e else { e with wake := some 4 }
  let u := s.setPower t 3
  { u with power := { u.power with entries := u.power.entries ++ [e] } }

/-- A written slice target `v` acts: Play wakes the slice; Damp and Off are entered from Play, Off from Damp through Play. -/
def State.actSlice (s : State) (sl v : Nat) : State :=
  let p := s.slicePower sl
  if p = 0 then (if v = 0 then s else s.beginEntry (.slice sl) v)
  else if v = 0 ∨ (p = 1 ∧ v = 2) then s.beginWake (.slice sl) 2
  else s

/-- The field of a slice target in PWR_REQ is written with `v`: ignored for 3, and in a transition. -/
def State.storeSliceTarget (s : State) (sl v : Nat) : State :=
  if v = 3 then s
  else if s.slicePower sl = 3 then s.ignoreTarget
  else (s.putF (A.pwrReq (sl / 32)) (2 * (sl % 32)) 2 v).actSlice sl v

/-- A write of PWR_REQ that asks for `v` in slice `sl`. -/
def State.reqSlice (s : State) (sl v ctx : Nat) : State :=
  s.csrAccess (A.pwrReq (sl / 32)) ctx fun t => t.storeSliceTarget sl v

def execSliceDampRequest (sl : Nat) (ctx : Nat) (s : State) : Out := s.onSlice sl (s.reqSlice sl 1 ctx)

def execSliceOffRequest (sl : Nat) (ctx : Nat) (s : State) : Out := s.onSlice sl (s.reqSlice sl 2 ctx)

def execSlicePlayRequest (sl : Nat) (ctx : Nat) (s : State) : Out := s.onSlice sl (s.reqSlice sl 0 ctx)

/-- A whole write of PWR_REQ_LO or PWR_REQ_HI: it writes the target of every slice that there is. -/
def State.storePwrReq (s : State) (i : Nat) (v : Word) : State :=
  s.each ((List.range 32).filter fun k => s.hasSlice (32 * i + k)) fun t k =>
    t.storeSliceTarget (32 * i + k) (fld v (2 * k) 2)

/-- A write of PWR_CPLX with target `v`; `p` is the state of the complex before the access, which in Damp has woken it. -/
def State.storeCplx (s : State) (v p : Nat) : State :=
  if v = 3 then s
  else if p = 3 then s.ignoreTarget
  else
    let t := s.putF A.pwrCplx 0 2 v
    if p = 0 then (if v = 0 then t else t.beginEntry .complex (if v = 2 then 3 else 1))
    else if v = 0 ∧ t.cplxPower ≠ 3 then t.beginWake .complex 2
    else t

/-- A write of PWR_CPLX that asks for `v`. -/
def State.reqCplx (s : State) (v ctx : Nat) : State := s.csrAccess A.pwrCplx ctx fun t => t.storeCplx v s.cplxPower

def execCplxDampRequest (ctx : Nat) (s : State) : Out := .next (s.reqCplx 1 ctx)

def execCplxTapRequest (ctx : Nat) (s : State) : Out := .next (s.reqCplx 2 ctx)

def execCplxPlayRequest (ctx : Nat) (s : State) : Out := .next (s.reqCplx 0 ctx)

/-! ### Refusal and abort (R313, R314) -/

/-- Code 1: a slot of the target is RUN or STOPPING; for Off, a slot is not IDLE. -/
def State.engineBusy (s : State) (e : PwrEntry) : Bool :=
  (s.targetSlices e.target).any fun sl => (List.range 16).any fun j =>
    if e.enters = 2 then decide (s.slotState sl j ≠ 0)
    else decide (s.slotState sl j = 2) || decide (s.slotState sl j = 5)

/-- Code 2: for Tap, a context other than 0 and 63 is RUN or KILLING; for Off, a bank is owned by another than 63. -/
def State.contextRuns (s : State) (e : PwrEntry) : Bool :=
  if e.enters = 3 then
    (List.range 64).any fun c => decide (c ≠ 0) && decide (c ≠ 63) && (decide (s.ctxState c = 1) || decide (s.ctxState c = 3))
  else if e.enters = 2 then
    (s.targetSlices e.target).any fun sl => (List.range 64).any fun b => decide (s.ownerOf sl b ≠ 63)
  else false

/-- The instances of the Tuner that lie in a target. -/
def State.targetInsts (s : State) (t : PowerTarget) : List (Nat × Nat) :=
  let l := (s.targetSlices t).flatMap fun sl => sliceRegions.map fun r => (r, sl)
  match t with
  | .slice _ => l
  | .complex => l ++ globalRegions.map fun r => (r, 0)

/-- Code 3: an instance of the target is RELOADING or FAILED, or is being scanned. -/
def State.tunerBusy (s : State) (e : PwrEntry) : Bool :=
  (s.targetInsts e.target).any fun p => s.notOk p.1 p.2 || s.scanning p.1 p.2

/-- Code 4: a scrub pass, a queued self-test or a pending retirement lies in the target. -/
def State.scrubBusy (s : State) (e : PwrEntry) : Bool :=
  (s.targetSlices e.target).any fun sl =>
    (s.slice sl).scrub.isSome || !(s.slice sl).retire.isEmpty ||
      (List.range 64).any fun b => !(s.bank sl b).queue.isEmpty || (s.bank sl b).test.isSome

/-- Code 5: a merge-buffer entry or a write-back register of the target holds data. -/
def State.undrained (s : State) (e : PwrEntry) : Bool :=
  (s.targetSlices e.target).any fun sl => (List.range 64).any fun b =>
    !(s.bank sl b).merge.isEmpty || (s.bank sl b).wb.isSome

/-- Code 6: a supply request is in progress or has failed, or PGOOD is low. -/
def State.supplyBusy (s : State) : Bool := s.getB A.pwrVreq 18 || s.getB A.pwrStat 12 || !s.pins.pgood

/-- The first of codes 1 to 4 and 6 that refuses an entry at E1. -/
def State.refusal (s : State) (e : PwrEntry) : Option Nat :=
  if s.engineBusy e then some 1
  else if s.contextRuns e then some 2
  else if s.tunerBusy e then some 3
  else if s.scrubBusy e then some 4
  else if s.supplyBusy then some 6
  else none

/-- Lifts the fence that an entry into Off, or a failed wake, raised; a slice whose own wake has failed stays fenced (R317). -/
def State.unfenceOff (s : State) (t : PowerTarget) : State :=
  let failed := fun sl => s.power.wakes.any fun (w : PwrWake) => w.stopped && decide (w.target = .slice sl)
  s.each ((s.targetSlices t).filter fun sl => !(failed sl)) fun u sl => u.fencing sl fun u => u.modSlice sl fun x => { x with fenceOff := false }

/-- Raises it, which answers what waits. -/
def State.raiseOff (s : State) (t : PowerTarget) : State :=
  s.each (s.targetSlices t) fun u sl => u.fencing sl fun u => u.modSlice sl fun x => { x with fenceOff := true }

/-- An entry is abandoned: its steps are undone, the target is back in Play, and PWR_LAST and the log say why. -/
def State.endEntry (s : State) (e : PwrEntry) (code point cause : Nat) : State :=
  let w := setFld (setFld (setFld (setFld 0 0 3 code) 3 3 point) 6 3 cause) 9 2 e.enters
  let w := match e.target with
    | .slice sl => setFld w 11 6 sl
    | .complex => setFlag w 17 true
  let t : State := { s with power := { s.power with entries := s.power.entries.filter fun (x : PwrEntry) => x.target ≠ e.target } }
  let t := ((t.unfenceOff e.target).setPower e.target 0).wr A.pwrLast w
  (t.logEvent 0x02 w).releaseKnells

/-- A refusal with code `c`. -/
def State.refuseEntry2 (s : State) (e : PwrEntry) (c : Nat) : State :=
  (s.count (A.pwrRefcnt (c - 1)) 0 48 1).endEntry e c 0 (e.wake.getD 0)

/-- Abort point `k` is passed: a wake event since E1 began abandons the entry, else the next step begins. -/
def State.passPoint (s : State) (e : PwrEntry) (k : Nat) : State :=
  match e.wake with
  | some c => (s.count (A.pwrAbtcnt (k - 1)) 0 48 1).endEntry e 0 k c
  | none =>
    let up := fun (x : PwrEntry) => if x.target = e.target then { x with step := k + 1 } else x
    { s with power := { s.power with entries := s.power.entries.map up } }

/-! ### Bursts (R321) -/

/-- The row operations of a burst at one bank: every row in refresh order (G), or PROWS rows from the patrol pointer. -/
def State.burstBank (s : State) (sl b : Nat) : State :=
  if s.build.gcell then s.each (List.range 2048) fun t i => t.refreshRow sl b (orderRow i) 1
  else s.each (List.range (s.getF A.pwrTap 28 8)) fun t _ =>
    (t.refreshRow sl b (orderRow (t.bank sl b).row) 2).modBank sl b fun k => { k with row := (k.row + 1) % 2048 }

/-- A burst over every powered slice, one row per bank in a clk. -/
def State.burst (s : State) : State :=
  let t := s.each (s.targetSlices .complex) fun t sl => t.each (List.range 64) fun t b => t.burstBank sl b
  t.pass (if s.build.gcell then 2048 else s.getF A.pwrTap 28 8)

/-! ### Entry (R312) -/

/-- The clk in which the last access issued in the target is answered. -/
def State.lastAnswer (s : State) (t : PowerTarget) : Nat :=
  (s.targetSlices t).foldl (fun m sl =>
    (s.slice sl).lastIssue.foldl (fun m e => if e.1 < 8 then max m (e.2 - 1 + s.latency) else m) m) 0

/-- E3: merge buffers and write-back registers drain, for 64 clk; Off saves the Rhythm, and Tap runs its entry burst. -/
def State.drainTarget (s : State) (e : PwrEntry) : State :=
  let t := s.each (s.targetSlices e.target) fun t sl => t.each (List.range 64) fun t b => (t.drainAll sl b).drainWb sl b
  let t := t.pass 64
  if e.enters = 2 then t.each (t.targetSlices e.target) State.saveRhythm else t

/-- Tap's entry burst, from whose start the first interval runs (R319, R321). -/
def State.entryBurst (s : State) (e : PwrEntry) : State :=
  if e.enters = 3 then
    let t : State := { s with power := { s.power with tapBurstAt := s.time.ref } }
    (t.each t.sliceList fun t sl => t.modSlice sl fun x => { x with droopsTap := 0 }).burst
  else s

/-- E5: the state is reached. A wake event that came in E5 starts the wake at once; from Off, a Knell does (R316). -/
def State.commitEntry (s : State) (e : PwrEntry) : State :=
  let t : State := { s with power := { s.power with entries := s.power.entries.filter fun (x : PwrEntry) => x.target ≠ e.target } }
  let t := t.setPower e.target (if e.enters = 1 then 1 else 2)
  let t : State := if e.enters = 3 then
      { t with pins := { t.pins with clkReq := false }, power := { t.power with tapPhase := 0, tapWakes := 0 } }
    else t
  let t := if e.target = .complex ∨ e.enters = 1 then
      t.each (t.targetSlices e.target) fun t sl => t.modSlice sl fun x => { x with droopsTap := 0 }
    else t
  match e.wake with
  | some c =>
    if e.enters ≠ 2 then t.beginWake e.target c
    else if t.power.knellWaiting.isEmpty then t
    else t.beginWake e.target 4
  | none => t

/-- The entry step in progress of a target completes. -/
def State.entryDone (s : State) (t : PowerTarget) : State :=
  match s.power.entries.find? fun e => e.target = t with
  | none => s
  | some e =>
    if e.step = 1 then
      match s.refusal e with
      | some c => s.refuseEntry2 e c
      | none => s.passPoint e 1
    else if e.step = 2 then (s.reach (s.lastAnswer t)).passPoint e 2
    else if e.step = 3 then
      let u := s.drainTarget e
      if u.undrained e then u.refuseEntry2 e 5 else (u.entryBurst e).passPoint e 3
    else if e.step = 4 then ((if e.enters = 2 then s.raiseOff t else s).passPoint e 4)
    else s.commitEntry e

/-- A slice target exists; the complex always does. -/
def State.onTarget (s : State) (t : PowerTarget) (u : State) : Out :=
  match t with
  | .slice sl => s.onSlice sl u
  | .complex => .next u

def execPowerEntryStep (target : PowerTarget) (s : State) : Out := s.onTarget target (s.entryDone target)

/-! ### Waking (R315 to R318) -/

/-- An ARMED slot of the target waits for a beat that has been reached. -/
def State.beatWakes (s : State) (t : PowerTarget) : Bool :=
  (s.targetSlices t).any fun sl => (List.range 16).any fun j =>
    decide (s.slotState sl j = 1) && decide (s.getF (A.seSlotCtl sl j) 6 2 = 1) &&
      s.beatReached (s.getF (A.seSlotArm sl j) 0 48)

/-- A wake event of cause `c` (R315): causes 4 and 5 wake everything, the others their target. -/
def State.wakeEvent (s : State) (t : PowerTarget) (c : Nat) : State :=
  if c = 4 ∨ c = 5 then s.wakeAll c
  else if c = 0 ∨ 5 < c ∨ (c = 3 ∧ s.beatWakes t = false) then s
  else match t with
    | .slice sl => s.wakeFor sl c
    | .complex => s.wake .complex c

def execWakeEvent (target : PowerTarget) (cause : Nat) (s : State) : Out := s.onTarget target (s.wakeEvent target cause)

/-- The wake in progress of a target. -/
def State.wakeOf (s : State) (t : PowerTarget) : Option PwrWake :=
  s.power.wakes.find? fun w => decide (w.target = t) && !w.stopped

/-- Replaces the wake of a target, or removes it. -/
def State.putWake (s : State) (t : PowerTarget) (f : PwrWake → Option PwrWake) : State :=
  { s with power := { s.power with
      wakes := s.power.wakes.filterMap fun (w : PwrWake) => if w.target = t then f w else some w } }

/-- The next wake step begins in the present clk. -/
def State.nextWakeStep (s : State) (w : PwrWake) : State :=
  s.putWake w.target fun x => some { x with step := w.step + 1, began := s.time.ref }

/-- Belfry's flash timeouts count from the wake that ends Tap (R386). -/
def State.flashAgain (s : State) : State :=
  { s with belfry := { s.belfry with flashOp := s.belfry.flashOp.map fun o => (o.1, s.time.ref, o.2.2) } }

/-- The target is in Play: a fence of a failed attempt lifts, Knells that waited take effect, and a slice that was on its
way from Damp to Off enters Off (R310). -/
def State.awake (s : State) (w : PwrWake) : State :=
  let t := ((s.putWake w.target fun _ => none).setPower w.target 0).unfenceOff w.target
  let t := t.releaseKnells
  match w.target with
  | .slice sl => if w.leaves = 1 ∧ t.slicePower sl = 0 ∧ t.getF (A.pwrReq (sl / 32)) (2 * (sl % 32)) 2 = 2 then
      t.beginEntry (.slice sl) 2 else t
  | .complex => if w.leaves = 2 then t.flashAgain else t

/-- The ready signal of a wake step arrives (R317): regulator, clock, arrays, logic. -/
def State.wakeReady (s : State) (t : PowerTarget) : State :=
  match s.wakeOf t with
  | none => s
  | some w =>
    let tap := decide (t = .complex) && decide (w.leaves = 2)
    if w.step = 1 then
      if s.pins.pgood = false ∨ s.getB A.pwrStat 12 then s
      else if tap then ({ s with pins := { s.pins with clkReq := true } } : State).nextWakeStep w
      else s.nextWakeStep w
    else if w.step = 2 then
      if tap then ({ s with pins := { s.pins with clkOk := true } } : State).nextWakeStep w
      else if s.pins.clkOk then s.nextWakeStep w else s
    else if w.step = 3 then ((if tap ∧ s.build.gcell then s.burst else s).nextWakeStep w)
    else match t with
      | .slice sl =>
        if w.leaves = 2 then
          if s.power.restoring.contains sl then s
          else { s with power := { s.power with restoring := s.power.restoring ++ [sl] } }
        else (s.pass 8).awake w
      | .complex => (s.pass (if tap then 16 else 8)).awake w

def execWakeStepReady (target : PowerTarget) (s : State) : Out := s.onTarget target (s.wakeReady target)

/-- A wake step exceeds its timeout (R317): the target is fenced, and Belfry starts the wake once more. A wake that has so
ended holds no Knell (R316). -/
def State.wakeTimeout (s : State) (t : PowerTarget) : State :=
  match s.wakeOf t with
  | none => s
  | some w =>
    let u := s.reachRef (w.began + s.refUs (s.getF A.pwrTmo (16 * (w.step - 1)) 16))
    let sl := match t with
      | .slice n => n
      | .complex => 0
    let x := setFld (setFlag (u.rd A.pwrStat) 0 true) 1 6 sl
    let x := setFld (setFlag x 7 (decide (t = .complex))) 8 2 (w.step - 1)
    let u := ((u.wr A.pwrStat x).raiseIrq 5).logEvent 0x0A 0
    let u := u.raiseOff t
    let u : State := { u with power := { u.power with restoring := u.power.restoring.filter fun n => decide (t ≠ .slice n) } }
    let again := decide (w.retried = false) && s.belfry.running
    (u.putWake t fun y => some
      (if again then { y with step := 1, began := u.time.ref, retried := true } else { y with stopped := true })).releaseKnells

def execWakeStepTimeout (target : PowerTarget) (s : State) : Out := s.onTarget target (s.wakeTimeout target)

/-- The restore of a slice that leaves Off (R318): its W bits are clear, its cells hold no defined value (R413), and its
registers their reset values, but for the router's and the sensors' (R15). -/
def State.restoreOff (s : State) (sl : Nat) : State :=
  let t := (s.pass 64).wipeSlice sl
  let m' : Mem := { t.mem with epoch := Tbl.put 0 t.mem.epoch sl (t.mem.epochOf sl + 1) }
  let t : State := { t with mem := t.mem.withMap m' fun k => decide (cellSlice k = sl) }
  let t := t.clearWindow sl fun off =>
    decide (0x6000 ≤ off ∧ off < 0x6100) || decide (0x8000 ≤ off) || decide (0x400 ≤ off ∧ off < 0x600) ||
      decide (0x5400 ≤ off ∧ off < 0x5A00)
  let t := (t.modSlice sl SliceSt.fresh).each (List.range s.build.ports) fun t p => t.modPort sl p Port.uncalled
  (t.loadRepairs sl).restoreSlice sl

/-- The restore completes, the fence lifts and the slice is in Play. -/
def State.restoreDone (s : State) (sl : Nat) : State :=
  match s.wakeOf (.slice sl) with
  | none => s
  | some w =>
    if s.power.restoring.contains sl = false then s
    else
      let t : State := { s with power := { s.power with restoring := s.power.restoring.filter (· ≠ sl) } }
      (t.restoreOff sl).awake w

def execOffRestoreDone (sl : Nat) (s : State) : Out := s.onSlice sl (s.restoreDone sl)

/-! ### Tap (R319 to R322) -/

/-- The complex is in Tap, and its cycle is at phase `n`: 0 clk not asked for, 1 asked for, 2 after a burst. -/
def State.tapAt (s : State) (n : Nat) : Bool := decide (s.cplxPower = 2) && decide (s.power.tapPhase = n)

/-- The end of the present interval, less `less` µs, in reference time. -/
def State.tapEnd (s : State) (less : Nat) : Nat := s.power.tapBurstAt + s.refUs (s.getF A.pwrTap 0 20 - less)

/-- At IVL − LEAD, CLK_REQ is raised. -/
def State.tapRequest (s : State) : State :=
  if s.tapAt 0 = false then s
  else
    let t := s.reachRef (s.tapEnd (s.getF A.pwrTap 20 8))
    { t with pins := { t.pins with clkReq := true }, power := { t.power with tapPhase := 1 } }

def execTapClkReq (s : State) : Out := .next s.tapRequest

/-- The last reading of a slice's sensor exceeds PWR_THR.TMAX. -/
def State.tooHot (s : State) (sl : Nat) : Bool :=
  s.getB (A.sensTemp sl) 10 && decide (sext 10 (s.getF (A.sensTemp sl) 0 10) > (4 * s.getF A.pwrThr 0 8 : Nat))

/-- A slice's droop detector has counted DROOPN events since the last wake (R322, R329). -/
def State.tooLow (s : State) (sl : Nat) : Bool :=
  decide (s.getF A.pwrThr 8 8 ≠ 0) && decide (s.getF A.pwrThr 8 8 ≤ (s.slice sl).droopsTap)

/-- With CLK_OK high and the interval ended, a burst runs; the sensors are compared; on every 2^TUNEDIV-th wake a Tuner
pass begins. -/
def State.tapWake (s : State) : State :=
  if s.tapAt 1 = false then s
  else
    let t := s.reachRef (s.tapEnd 0)
    let late := decide (s.tapEnd 0 < t.time.ref)
    let t : State := { t with
      pins := { t.pins with clkOk := true }
      power := { t.power with tapBurstAt := t.time.ref, tapWakes := t.power.tapWakes + 1, tapPhase := 2 } }
    let t := (if late then t.putB A.pwrStat 10 true else t).burst
    let bad := t.sliceList.any fun sl => t.tooHot sl || t.tooLow sl
    let t := t.each t.sliceList fun t sl => t.modSlice sl fun x => { x with droopsTap := 0 }
    let t := if bad then t.wakeAll 5 else t
    if t.power.tapWakes % 2 ^ t.getF A.pwrTap 36 3 = 0 ∧ flag (t.voted A.tunerCtl) 0 ∧ t.tuner.running = false then
      t.beginScans.endScans
    else t

def execTapBurst (s : State) : Out := .next s.tapWake

/-- Sixteen clk after a burst that found no violation, and after a Tuner pass that it began, CLK_REQ drops. -/
def State.tapSleep (s : State) : State :=
  if s.tapAt 2 = false ∨ s.tuner.running then s
  else
    let t := s.pass 16
    { t with pins := { t.pins with clkReq := false }, power := { t.power with tapPhase := 0 } }

def execTapSleep (s : State) : Out := .next s.tapSleep

/-! ### AVSBus (R324, R325) -/

/-- A supply request is in progress, and Belfry serves it. -/
def State.avsServed (s : State) : Bool := s.getB A.pwrVreq 18 && s.belfry.running

/-- A write of PWR_VREQ that has reached the register: CLR clears RESULT and AVSFAIL; GO begins a request. -/
def State.storeVreq (s : State) (v : Word) (ctx : Nat) : State :=
  let busy := s.getB A.pwrVreq 18
  let t := s.storeReg A.pwrVreq v true ctx
  let t := if flag v 22 then (t.putF A.pwrVreq 19 3 0).putB A.pwrStat 12 false else t
  if flag v 17 ∧ busy = false then
    { t.putB A.pwrVreq 18 true with power := { t.power with
        avsTries := 0, avsCrc := 0, avsBegan := t.time.ref, avsPolling := false, avsRetryAt := none
        avsMv := fld v 0 16, avsArray := flag v 16 } }
  else t

def execPwrVreqGo (v : Word) (ctx : Nat) (s : State) : Out :=
  .next (s.csrAccess A.pwrVreq ctx fun t => t.storeVreq (setFlag v 17 true) ctx)

def execPwrVreqClr (v : Word) (ctx : Nat) (s : State) : Out :=
  .next (s.csrAccess A.pwrVreq ctx fun t => t.storeVreq (setFlag v 22 true) ctx)

/-- The request ends with result `r`; one other than 1 is a failure. -/
def State.endVreq (s : State) (r : Nat) : State :=
  let t := (s.putB A.pwrVreq 18 false).putF A.pwrVreq 19 3 r
  let t : State := { t with power := { t.power with avsPolling := false, avsRetryAt := none } }
  if r = 1 then t else ((t.putB A.pwrStat 12 true).raiseIrq 5).logEvent 0x07 (t.rd A.pwrVreq)

/-- A slave acknowledge to the Voltage write (R325). -/
def State.avsAck (s : State) (ack : Nat) : State :=
  let p := s.power
  if s.avsServed = false ∨ p.avsPolling ∨ p.avsRetryAt.isSome then s
  else if ack = 0 then
    { s with power := { p with avsPolling := true, avsRetryAt := some (s.time.ref + s.refUs 5) } }
  else if ack = 1 then
    if 8 ≤ p.avsTries then s.endVreq 3
    else { s with power := { p with avsTries := p.avsTries + 1, avsRetryAt := some (s.time.ref + s.refUs 10) } }
  else if ack = 2 then
    if 3 ≤ p.avsCrc then s.endVreq 2 else { s with power := { p with avsCrc := p.avsCrc + 1 } }
  else s.endVreq 4

def execAvsAck (ack : Nat) (_data : Nat) (s : State) : Out := .next (s.avsAck ack)

/-- The retry after a busy acknowledge. -/
def State.avsRetry (s : State) : State :=
  match s.power.avsRetryAt with
  | some r =>
    if s.avsServed = false ∨ s.power.avsPolling then s
    else
      let t := s.reachRef r
      { t with power := { t.power with avsRetryAt := none } }
  | none => s

def execAvsBusyRetry (s : State) : Out := .next s.avsRetry

/-- A reading of Voltage: within TOL of the request, it confirms it (R325). -/
def State.avsPoll (s : State) (mv : Nat) : State :=
  match s.power.avsRetryAt with
  | some r =>
    if s.avsServed = false ∨ s.power.avsPolling = false then s
    else
      let t := s.reachRef r
      if dist mv t.power.avsMv ≤ t.getF A.pwrAvs 8 8 then
        (t.putF A.pwrVreq (if t.power.avsArray then 48 else 32) 16 mv).endVreq 1
      else { t with power := { t.power with avsRetryAt := some (r + t.refUs 5) } }
  | none => s

def execAvsVoltagePoll (mv : Nat) (s : State) : Out := .next (s.avsPoll mv)

/-- The request is not confirmed within PWR_AVS.TMO. -/
def State.avsTimeout (s : State) : State :=
  if s.avsServed = false then s else (s.reachRef (s.power.avsBegan + s.refUs (s.getF A.pwrAvs 16 16))).endVreq 5

def execAvsTimeout (s : State) : Out := .next s.avsTimeout

/-! ### Sensors (R64, R390, R404) -/

/-- A Belfry log record that names a slice's sensor register. -/
def State.logSensor (s : State) (sl a : Nat) : State :=
  if s.belfry.running then s.queueLog (s.mkLog 0x0B sl 0 none 0 (s.rd a)) else s

/-- The thermal doubling of M is decided: a reading above 105 °C, or 16 windows of all slices at 100 °C or below (R64). -/
def State.decideHot (s : State) (sl : Nat) (temp : Int) : State :=
  if s.build.gcell = false then s
  else
    let t := s.modSlice sl fun x => { x with cool := if temp ≤ 400 then min 16 (x.cool + 1) else 0 }
    if temp > 420 ∧ t.getB A.glbMaint 5 ∧ t.time.nextHot = false then
      { t with time := { t.time with nextHot := true, decidedAt := t.now } }
    else if t.time.nextHot ∧ t.getB A.glbMaint 4 = false ∧ t.sliceList.all (fun n => decide (16 ≤ (t.slice n).cool)) then
      { t with time := { t.time with nextHot := false, decidedAt := t.now } }
    else t

/-- A thermal reading completes. -/
def State.sensorWindow (s : State) (sl : Nat) (temp : BitVec 10) : State :=
  let a := A.sensTemp sl
  let v := temp.toNat
  let peak := s.getF a 16 10
  let first := decide (s.getB a 10 = false)
  let t := (s.putF a 0 10 v).putB a 10 true
  let t := if first ∨ sext 10 v > sext 10 peak then t.putF a 16 10 v else t
  let hot := t.tooHot sl
  let crossed := hot && !(s.slice sl).sensed
  let t := if hot then (t.putB a 11 true).raiseIrq 9 else t
  let t := t.modSlice sl fun x => { x with sensed := hot }
  let t := if crossed then t.logSensor sl a else t
  let t := if crossed ∧ t.cplxPower ≠ 2 then t.wakeAll 5 else t
  t.decideHot sl (sext 10 v)

def execSensorWindow (sl : Nat) (temp : BitVec 10) (s : State) : Out := s.onSlice sl (s.sensorWindow sl temp)

/-- A droop: counted and flagged, and logged at most once in a millisecond; an alarm at DROOPN events (R322). -/
def State.droop (s : State) (sl : Nat) : State :=
  let a := A.sensDroop sl
  let t := (s.count a 16 32 1).putB a 48 true
  let t := t.modSlice sl fun x => { x with droopsTap := x.droopsTap + 1 }
  let due := decide ((s.slice sl).droopLog = 0) || decide ((s.slice sl).droopLog + s.refUs 1000 ≤ s.time.ref + 1)
  let t := if due then (t.logSensor sl a).modSlice sl fun x => { x with droopLog := s.time.ref + 1 } else t
  if t.tooLow sl ∧ t.cplxPower ≠ 2 then t.wakeAll 5 else t

def execDroopEvent (sl : Nat) (s : State) : Out := s.onSlice sl (s.droop sl)

end Sys2Proof.Machine
end

