-- ==== Sys2Proof/Machine/Boot.lean ====
section
/-! DEFINITION. Bring-up (R335 to R341, R355 to R359, R391 to R394): the reset inputs, and stages B0 to B8 and B10. Stage
B9, which writes registers, stands in `Commit`. -/

namespace Sys2Proof.Machine

/-! ### Restart -/

/-- B6 has been completed since power-up (R336). -/
def State.repok (s : State) : Bool := s.getB A.bootStat 0

/-- Registers that keep what they hold through a reset of the complex: the error ring's (R280), MBOX_LOG (R387), and the
repair state (R354). -/
def keptThrough (a : Nat) : Bool :=
  match sliceOf a with
  | some (_, off) => decide (0x5400 ≤ off) && decide (off < 0x5A00)
  | none => a = A.errStat || a = A.errHead || a = A.errRd || a = A.mboxLog

/-- RESULT and ABORTS of OWN_XFER. -/
def xferResult : Word := 0xFFFF0E00

/-- The storage of a complex that restarts: cells and repairs stay, but a slice in Off has lost its cells (R413). -/
def State.restartMem (s : State) : Mem :=
  let off := s.sliceList.filter fun sl => decide (s.slicePower sl = 2)
  let m := off.foldl (fun (m : Mem) sl => { m with epoch := Tbl.put 0 m.epoch sl (m.epochOf sl + 1) }) s.mem
  { m with
    cells := m.cells.filter fun e => !(off.contains (cellSlice e.1))
    banks := []
    vec := [] }

/-- Everything in the complex returns to its reset values, but for what survives (R345, R354); a handover in progress is
abandoned with RESULT 4 (R131). -/
def State.restart (s : State) (fast : Bool) : State :=
  let r := State.resetOf s.build s.fuse
  let engines := s.ports.filterMap fun e =>
    if e.2.fenceIn then some (e.1, { Port.init with fenceIn := true }) else none
  let t : State := { r with
    pins := { s.pins with clkReq := true, irqHost := false }
    time := { r.time with mhz := s.time.mhz, ref := s.time.ref }
    csr := s.csr.filter fun e => keptThrough e.1
    mem := s.restartMem
    ports := engines
    errors := { s.errors with queue := [], causes := (0, 0) }
    tuner := { r.tuner with golden := s.tuner.golden.filter fun e => decide (e.1 / 64 = 2), lastGo := s.time.ref }
    boot := { r.boot with
      fast := fast, porFill := s.boot.porFill, bistSel := s.boot.bistSel, bistDone := s.boot.bistDone, bistPass := s.boot.bistPass
      bistBanks := s.boot.bistBanks }
    belfry := { r.belfry with
      flash := s.belfry.flash, flashOk := s.belfry.flashOk, flashLog2 := s.belfry.flashLog2
      flashQuad := s.belfry.flashQuad, flashId := s.belfry.flashId, logRing := s.belfry.logRing, dumps := s.belfry.dumps
      dumpStore := s.belfry.dumpStore, dumpCount := s.belfry.dumpCount, retirements := s.belfry.retirements
      badLines := s.belfry.badLines }
    free := s.free
    pending := s.pending }
  let cut := fun (t : State) sl => match (s.slice sl).handover with
    | some h => (t.putF (A.ownXfer sl) 9 3 4).putF (A.ownXfer sl) 16 16 (min h.aborts 0xFFFF)
    | none => t
  (t.putB A.bootStat 0 s.repok).each s.sliceList cut

/-- The retirements since power-up are forgotten, and the next B2 and B3 rebuild and clear what a power-up does. -/
def State.powerUp (s : State) : State :=
  let t : State := { s with
    boot := { s.boot with porFill := true, bistDone := 0, bistPass := 0, bistBanks := [] }
    belfry := { s.belfry with retirements := [], badLines := [] } }
  t.putB A.bootStat 0 false

/-! ### Stage reports (R341, R357, R359) -/

/-- The report of stage `k`, which is logged. DEDUCED (log 34): ATTEMPT counts the images that B1 has tried, less one; the other
stages make one attempt. -/
def State.stageReport (s : State) (k result detail : Nat) (map : Word) : State :=
  let us := (s.time.ref - s.boot.stageAt) / s.build.refMhz
  let again := decide (k = 1) && s.imagesMay && !(s.imageOk false)
  let w := setFld (setFld (setFlag (setFlag (setFld (setFld 0 0 4 k) 4 3 result) 7 s.boot.fast) 8 again) 16 24 us) 40 24 detail
  ((s.wr (A.bootRepa k) w).wr (A.bootRepb k) map).logEvent 0x03 w

/-- Stage `n` is the next to end. -/
def State.nextStage (s : State) (n : Nat) : State :=
  let t : State := { s with boot := { s.boot with next := n, stageAt := s.time.ref } }
  t.putF A.glbState 0 4 (min n 10)

/-- A stage ends, and the next begins. -/
def State.endStage (s : State) (k result detail : Nat) (map : Word) : State :=
  (s.stageReport k result detail map).nextStage (k + 1)

/-- A stage other than B1 fails (R338): the interrupt and the dump; before B4 the sequence stops there. -/
def State.failStage (s : State) (k detail : Nat) (map : Word) : State :=
  let t := ((s.stageReport k 3 detail map).raiseIrq 6).writeDump 4 false
  if k < 4 then { t with boot := { t.boot with halted := true } } else t.nextStage (k + 1)

/-- Stage `k` is the one in progress. -/
def State.atStage (s : State) (k : Nat) : Bool := s.boot.released && !s.boot.halted && decide (s.boot.next = k)

/-! ### B0 (R335, R336) -/

/-- The complex is released: the clk counter starts, the path is chosen, and B0 passes. -/
def State.release (s : State) : State :=
  let t : State := { s with
    time := { s.time with clk := 0, frac := 0 }
    boot := { s.boot with released := true, fast := s.boot.fast && s.repok, stageAt := s.time.ref } }
  (t.putB A.glbState 4 t.boot.fast).endStage 0 1 0 0

/-- RST_POR_N, RST_WARM_N, PGOOD and CLK_OK are all high. -/
def State.porRelease (s : State) : State :=
  if s.boot.released then s
  else
    let t : State := { s with pins := { s.pins with rstPorN := true, rstWarmN := true, pgood := true, clkOk := true } }
    t.release

def execPorRelease (s : State) : Out := .next s.porRelease

/-- PGOOD has been lost during an AVSBus request, which ends with RESULT 6 (R325). DEDUCED (log 34): the restart that PGOOD
begins leaves that result to be read. -/
def State.pgoodLost (s : State) : State :=
  (((s.putF A.pwrVreq 19 3 6).putB A.pwrStat 12 true).raiseIrq 5).logEvent 0x07 (setFld 0 19 3 6)

/-- A reset input goes low. Losing PGOOD stops the reference-time counter, which starts from 0 at its next release
(R18). -/
def State.inputLow (s : State) (pin : ResetPin) : State :=
  match pin with
  | .por =>
    let t := (s.restart false).powerUp
    { t with pins := { t.pins with rstPorN := false } }
  | .warm =>
    let t := s.restart s.repok
    { t with pins := { t.pins with rstWarmN := false } }
  | .pgood =>
    let t := s.restart s.repok
    let t := if s.getB A.pwrVreq 18 then t.pgoodLost else t
    { t with pins := { t.pins with pgood := false }, time := { t.time with ref := 0 }, tuner := { t.tuner with lastGo := 0 } }

def execResetInputLow (pin : ResetPin) (s : State) : Out := .next (s.inputLow pin)

/-- CLK_OK falls: part of Tap while CLK_REQ is low, else a restart (R320). -/
def State.clkFall (s : State) : State :=
  let t := if s.pins.clkReq then s.restart s.repok else s
  { t with pins := { t.pins with clkOk := false } }

def execClkOkFall (s : State) : Out := .next s.clkFall

/-! ### B1 (R391, R394) -/

/-- Belfry boots from an image, or stays in the ROM. -/
def State.bootBelfry (s : State) : State :=
  let im := s.bootImage
  { s with belfry := { s.belfry with
      inReset := false, running := im.isSome, imageB := decide (im = some true)
      imageSeq := match im with
        | some b => s.imageSeqOf b
        | none => 0 } }

/-- The DETAIL of B1. -/
def State.bootDetail (s : State) : Nat :=
  (if s.bootImage = some true then 1 else 0) + if s.bootImage = some false then 0 else 2

/-- Belfry's registers hold what its firmware gives them. -/
def State.belfryConfig (s : State) : State :=
  let regs := (List.range 32).map (Config.belfryRegister s.belfry.settings.seq)
  let t : State := { s with tuner := { s.tuner with belfryRegs := regs } }
  ((t.instReset 9 0).commitGolden 9 0).reportRegion 9

/-- A reset of Belfry reaches B1 (R345): a UNIT 6 ends when the image has been booted, or recovery form entered. -/
def State.rebootBelfry (s : State) : State :=
  let t := s.bootBelfry
  let t := (t.stageReport 1 (if t.belfry.running then 1 else 3) t.bootDetail 0).putB A.glbState 8 (!t.belfry.running)
  let t := if t.belfry.running then t.belfryConfig else t
  let t : State := { t with
    tuner := { t.tuner with belfryHeld := false, nmi := false, trusted := true, tries := 0, challenged := false } }
  match s.boot.reset with
  | some u =>
    if u.unit = 6 then
      (({ t with boot := { t.boot with reset := none } } : State).putB A.bootReset 4 false).putF A.bootReset 5 3 1
    else t
  | none => t

/-- A reset of Belfry waits for B1; the Tuner no longer holds it in reset (R300). -/
def State.rebooting (s : State) : Bool :=
  s.boot.released && s.belfry.inReset && decide (1 < s.boot.next) && !s.tuner.belfryHeld

/-- B1, in the sequence or for Belfry alone. -/
def State.imageBoot (s : State) : State :=
  if s.atStage 1 then
    let t := s.bootBelfry
    t.endStage 1 (if t.belfry.running then 1 else 3) t.bootDetail 0
  else if s.rebooting then s.rebootBelfry
  else s

def execImageBoot (s : State) : Out := .next s.imageBoot

/-! ### B2 (R340) -/

/-- The physical slices that the logical map numbers: those enabled by fuse, less the last of an odd count. -/
def mapped (b : Build) (f : Fuse) : List Nat :=
  let l := (List.range b.slices).filter fun n => decide (n = 0) || !(f.disable.getLsbD n)
  if l.length % 2 = 1 then (if l.length = 1 then [] else l.dropLast) else l

/-- The largest divisor of `n` that does not exceed `q` (R27). -/
def partsOf (n : Nat) : Nat → Nat
  | 0 => 1
  | q + 1 => if n % (q + 1) = 0 then q + 1 else partsOf n q

/-- The repair map and the factory goldens of the fuse array. A complex that keeps its repairs keeps them (R354). -/
def State.copyRepairs (s : State) : State :=
  if s.repok then s
  else
    let t : State := { s with
      csr := s.csr.filter fun e => match sliceOf e.1 with
        | some (_, off) => !(decide (0x5400 ≤ off) && decide (off < 0x5A00))
        | none => true }
    t.each t.sliceList fun t sl => (t.fuseRepairs sl).instReset 2 sl

/-- B2. -/
def State.fuseCopy (s : State) : State :=
  if s.atStage 2 = false then s
  else
    let l := mapped s.build s.fuse
    let on := if l.isEmpty then [0] else l
    let off := (List.range s.build.slices).filter fun n => !(on.contains n)
    let parts := if l.isEmpty then 1 else partsOf l.length s.build.parts
    let t := (s.wr A.bootSldis (maskOf off)).wr A.glbBuild0 (s.build.build0 l.length parts)
    if l.isEmpty then t.failStage 2 0 0 else t.copyRepairs.endStage 2 1 l.length 0

def execFuseCopy (s : State) : Out := .next s.fuseCopy

/-! ### B3 -/

/-- Registers that B3 fills: the handle table, the context table, and both tables of the Rhythm. -/
def filledAt3 (a : Nat) : Bool :=
  match sliceOf a with
  | some (_, off) => decide (0x100 ≤ off) && decide (off < 0x300)
  | none => (decide (0x40000 ≤ a) && decide (a < 0x60000)) || (decide (0x10000 ≤ a) && decide (a < 0x11000))

/-- The error ring and ERR_FIRST are empty (R280). -/
def State.clearRing (s : State) : State :=
  { s.allToReset [A.errStat, A.errHead, A.errRd] with errors := { s.errors with ring := [], queue := [], first := none } }

/-- B3: fills, every W bit cleared, and after a power-up the error ring, the log ring and the dump store. -/
def State.hardwareFill (s : State) : State :=
  if s.atStage 3 = false then s
  else
    let t : State := { s with
      csr := s.csr.filter fun e => !(filledAt3 e.1)
      force := { s.force with mirror := [] }
      mem := { s.mem with wbits := [] } }
    let t := t.putF (A.ctxE1 63) 48 13 (64 * t.nSlices)
    let t : State := if t.boot.porFill then { t.clearRing.clearStore with boot := { t.boot with porFill := false } } else t
    t.endStage 3 1 0 0

def execHardwareFill (s : State) : Out := .next s.hardwareFill

/-! ### B4 (R338) -/

/-- The slices that a list of banks lies in, as a map. -/
def State.sliceMap (s : State) (l : List (Nat × Nat)) : Word := maskOf ((l.map Prod.fst).filter s.hasSlice)

/-- Slices fail: BOOT_FAIL and DEGRADED. -/
def State.failSlices (s : State) (map : Word) : State :=
  if map = 0 then s else (s.wr A.bootFail (s.rd A.bootFail ||| map)).putB A.glbState 7 true

/-- The result of a stage that may fence slices. -/
def fencedResult (map : Word) : Nat := if map = 0 then 1 else 2

/-- A stage that the fast path skips. -/
def State.skipStage (s : State) (k : Nat) : State := (s.stageReport k 4 0 0).nextStage (k + 1)

/-- B4, given the banks that fail: slices that pass are released; in recovery form, none, and the sequence ends. -/
def State.fastCheck (s : State) (failing : List (Nat × Nat)) : State :=
  if s.atStage 4 = false then s
  else if s.belfry.running = false then
    let t := ((s.putB A.glbState 5 true).putB A.glbState 8 true).stageReport 4 1 0 0
    { t with boot := { t.boot with halted := true } }
  else
    let bad := failing.eraseDups
    let map := s.sliceMap bad
    let t := (s.failSlices map).putB A.glbState 5 true
    let t := t.each (t.sliceList.filter fun sl => !(map.getLsbD sl)) fun t sl => t.modSlice sl fun x => { x with released := true }
    let t := t.endStage 4 (fencedResult map) (bad.length % 4096) map
    if t.boot.fast then (t.skipStage 5).skipStage 6 else t

def execFastCheck (failing : List (Nat × Nat)) (s : State) : Out := .next (s.fastCheck failing)

/-! ### B5 (R339) -/

/-- The bank that a fault lies in. -/
def faultPlace : BistFault → Nat × Nat
  | .row sl b _ _ => (sl, b)
  | .column sl b _ _ => (sl, b)
  | .bank sl b => (sl, b)

/-- The repair map covers the fault already. -/
def State.covered (s : State) : BistFault → Bool
  | .row sl b mac row => decide (Tbl.get 0 s.mem.remap (remapKey sl b mac row) ≠ 0) || (s.mem.spareOf sl b).isSome
  | .column sl b mac bit => decide (Tbl.get 0 s.mem.group (groupKey sl b mac) = bit + 1) || (s.mem.spareOf sl b).isSome
  | .bank sl b => (s.mem.spareOf sl b).isSome

/-- Every cell of a slice holds what B5 leaves: zero coded at its own address in the rows in use, zero elsewhere. -/
def State.zeroCells (s : State) (sl : Nat) : State :=
  let m' : Mem := { s.mem with epoch := Tbl.put 0 s.mem.epoch sl 0 }
  ({ s with mem := s.mem.withMap m' fun k => decide (cellSlice k = sl) } : State).wipeSlice sl

/-- The BIST instrument's data of the run. -/
def State.recordBist (s : State) (faults : List BistFault) : State :=
  let done := maskOf (s.sliceList.map s.phys)
  let banks := s.sliceList.foldl (fun (t : Tbl (BitVec 64)) sl =>
    Tbl.put 0 t (s.phys sl) (maskOf ((faults.map faultPlace).filterMap fun p => if p.1 = sl then some p.2 else none)))
    s.boot.bistBanks
  { s with boot := { s.boot with faults := faults, bistDone := s.boot.bistDone ||| done, bistBanks := banks } }

/-- The BIST instrument's data register as Capture-DR loads it (R356), by the physical slice that SEL names: whether the BIST
has run, no fault was left, the slice was left failed, the banks with a fault, and the spare banks used. -/
def State.bistCapture (s : State) : BitVec 80 :=
  let n := s.boot.bistSel
  let sl := s.logical n
  let here := s.physList.contains n
  let spares := if here then ((List.range 2).filter fun k => decide (Tbl.get 0 s.mem.spare (2 * sl + k) ≠ 0)).length else 0
  BitVec.ofNat 80 (n % 64 + 64 * (s.boot.bistDone.getLsbD n).toNat + 128 * (s.boot.bistPass.getLsbD n).toNat +
    256 * (here && s.getB A.bootFail sl).toNat + 1024 * (Tbl.get 0 s.boot.bistBanks n).toNat + 2 ^ 74 * spares)

/-- Update-DR takes SEL (R356). -/
def State.bistUpdate (s : State) (v : BitVec 80) : State := { s with boot := { s.boot with bistSel := v.toNat % 64 } }

/-- B5, given the faults found and the reading of VDD_ARRAY with which it begins, and to which it returns. -/
def State.bist (s : State) (faults : List BistFault) (startMv : Nat) : State :=
  if s.atStage 5 = false then s
  else
    let fs := (faults.filter fun f => s.hasSlice (faultPlace f).1 && decide ((faultPlace f).2 < 64)).eraseDups
    let t := s.each s.sliceList State.zeroCells
    let t := (t.recordBist fs).putF A.pwrVreq 48 16 startMv
    let found := ((fs.filter fun f => !(s.covered f)).map faultPlace).eraseDups
    t.endStage 5 1 (found.length % 4096) (t.sliceMap found)

def execBist (faults : List BistFault) (startMv : Nat) (s : State) : Out := .next (s.bist faults startMv)

/-! ### B6 (R339) -/

/-- A fault is repaired: a spare row, or the spare column group, of its macro. What cannot be is left for a spare bank. -/
def State.repairFault (s : State) (f : BistFault) : State :=
  match f with
  | .row sl b mac row => s.addRow sl b mac row
  | .column sl b mac bit =>
    if Tbl.get 0 s.mem.group (groupKey sl b mac) ≠ 0 then s else s.putGroup sl b mac (bit % 80)
  | .bank _ _ => s

/-- A fault in a row comes first, then one in a column. -/
def faultRank : BistFault → Nat
  | .row _ _ _ _ => 0
  | .column _ _ _ _ => 1
  | .bank _ _ => 2

/-- Every fault is repaired that can be. -/
def State.repairAll (s : State) (fs : List BistFault) : State :=
  let inOrder := [0, 1].flatMap fun n => fs.filter fun f => faultRank f = n
  let t := inOrder.foldl State.repairFault s
  ((fs.filter fun f => !(t.covered f)).map faultPlace).eraseDups.foldl (fun (t : State) p => t.takeSpareBank p.1 p.2) t

/-- B6: repairs, slices left failing, REPOK, and the goldens of REPAIR. -/
def State.repairApply (s : State) : State :=
  if s.atStage 6 = false then s
  else
    let fs := s.boot.faults.filter fun f => !(s.covered f)
    let t := s.repairAll fs
    let left := ((fs.filter fun f => !(t.covered f)).map faultPlace).eraseDups
    let map := t.sliceMap left
    let rows := t.mem.remap.length - s.mem.remap.length
    let t := (t.failSlices map).each (t.sliceList.filter fun sl => map.getLsbD sl) fun t sl =>
      t.fencing sl fun t => t.modSlice sl fun x => { x with fenceBoot := true }
    let t := (t.each t.sliceList fun t sl => (t.instReset 2 sl).commitGolden 2 sl).reportRegion 2
    let pass := maskOf ((t.sliceList.filter fun sl => !(map.getLsbD sl)).map t.phys)
    let t : State := { t with boot := { t.boot with bistPass := pass } }
    (t.putB A.bootStat 0 true).endStage 6 (fencedResult map) (left.length % 4096 + 4096 * rows) map

def execRepairApply (s : State) : Out := .next s.repairApply

/-! ### B7 -/

/-- Ports, as slice and port, with a result other than 1. -/
def State.failedPorts (s : State) : List (Nat × Nat) :=
  s.sliceList.flatMap fun sl =>
    ((List.range s.build.ports).filter fun p => s.getF (A.portStat sl p) 8 3 ≠ 1).map fun p => (sl, p)

/-- B7 ends once every port has a result. DESIGN CHOICE: DETAIL [4:0] of its report holds the number of ports with a result
other than 1 modulo 32; the spec does not say what it holds for more than 31 such ports. -/
def State.endRoll (s : State) : State :=
  let busy := s.sliceList.any fun sl => (List.range s.build.ports).any fun p => (s.port sl p).calling
  if s.atStage 7 = false ∨ s.boot.rollCall = false ∨ busy then s
  else
    let bad := s.failedPorts
    s.endStage 7 1 (bad.length % 32) (s.sliceMap bad)

/-- B7: the roll call of every port begins, or B7 ends. -/
def State.rollCall (s : State) : State :=
  if s.atStage 7 ∧ s.boot.rollCall = false then
    let t := s.each s.sliceList State.callSlice
    { t with boot := { t.boot with rollCall := true } }
  else s.endRoll

def execStageB7RollCall (s : State) : Out := .next s.rollCall

/-! ### B8 (R324, R340, R396, R398) -/

/-- A setpoint of the settings record is requested and read back; one that is not within TOL is an AVSBus failure. -/
def State.setpoint (s : State) (mv reading lo : Nat) : State :=
  if dist reading mv ≤ s.getF A.pwrAvs 8 8 then s.putF A.pwrVreq lo 16 reading
  else
    let t := s.putF A.pwrVreq 19 3 5
    ((t.putB A.pwrStat 12 true).raiseIrq 5).logEvent 0x07 (t.rd A.pwrVreq)

/-- Result 1 of a port becomes 5 where the settings record names another engine. -/
def State.comparePort (s : State) (sl p : Nat) : State :=
  let id : BitVec 128 := s.rd (A.portIdhi sl p) ++ s.rd (A.portIdlo sl p)
  if s.getF (A.portStat sl p) 8 3 = 1 ∧ s.classFrame p id = 5 then
    (s.putF (A.portStat sl p) 8 3 5).putB (A.portRc sl) (32 + p) true
  else s

/-- B8, given the Version that the slave reports and the voltages read back. -/
def State.settingsRead (s : State) (version : Word) (logicMv arrayMv : Nat) : State :=
  let t := s.endRoll
  if t.atStage 8 = false then t
  else
    let x := t.takeSettings
    let t : State := { t with belfry := { t.belfry with settings := x, avsVersion := some version } }
    let t := if x.vlogic = 0 then t else (t.setpoint x.vlogic logicMv 32).setpoint x.varray arrayMv 48
    let t := t.each t.sliceList fun t sl => t.each (List.range t.build.ports) fun t p => t.comparePort sl p
    t.endStage 8 1 ((if x.valid then 0 else 1) + if x.badCrc then 2 else 0) 0

def execSettingsRead (version : Word) (logicMv arrayMv : Nat) (s : State) : Out :=
  .next (s.settingsRead version logicMv arrayMv)

/-! ### B10 -/

/-- B10: strike units and Carillon are released. -/
def State.fullRelease (s : State) : State :=
  if s.atStage 10 then (s.endStage 10 1 0 0).putB A.glbState 6 true else s

def execFullRelease (s : State) : Out := .next s.fullRelease

end Sys2Proof.Machine
end

