-- ==== Sys2Proof/Machine/Kill.lean ====
section
/-! DEFINITION. Context kills (R347, R348), accesses aborted at a drain timeout (R344), and SOLO mode (R351). -/

namespace Sys2Proof.Machine

/-! ### Accesses under way (R344) -/

/-- The answer ABORTED to a request. -/
def State.abortOf (s : State) (q : Req) : Resp where
  origin := q.origin
  ctx := q.ctx
  cls := q.cls
  tag := q.tag
  write := q.write
  code := rspAborted
  lines := []
  clave := none
  banks := 0
  issued := s.now
  due := s.now
  since := q.since

/-- Requests in the mesh or waiting at another slice, and responses on their way back, that `mine` accepts by origin and
context, as the answers ABORTED that their requesters get. -/
def State.underWay (s : State) (mine : Origin → Nat → Bool) : List Resp :=
  (s.net.pkts.filter fun (p : Pkt) => mine p.req.origin p.req.ctx).map (fun (p : Pkt) => s.abortOf p.req) ++
    s.slices.flatMap (fun e => (e.2.home.filter fun (q : Req) => mine q.origin q.ctx).map s.abortOf) ++
      (s.net.rpkts.filter fun (p : RPkt) => mine p.rsp.origin p.rsp.ctx).map fun (p : RPkt) =>
        { p.rsp with code := rspAborted, lines := [], clave := none, due := s.now }

/-- Where the response to an aborted access is absorbed. -/
def Origin.orphan (o : Origin) : Origin := .late (o.slice.getD 64)

/-- Their responses, when they come, find no requester. -/
def State.orphans (s : State) (mine : Origin → Nat → Bool) : State :=
  let cut := fun (q : Req) => if mine q.origin q.ctx then { q with origin := q.origin.orphan } else q
  { s with
    net := { s.net with
      pkts := s.net.pkts.map fun (p : Pkt) => { p with req := cut p.req }
      rpkts := s.net.rpkts.map fun (p : RPkt) =>
        if mine p.rsp.origin p.rsp.ctx then { p with rsp := { p.rsp with origin := p.rsp.origin.orphan } } else p }
    slices := s.slices.map fun e => (e.1, { e.2 with home := e.2.home.map cut }) }

/-- Host accesses at the initiator side, and outbound writes, under way. -/
def State.hostWay (s : State) (p : SpInit → Bool) : List SpInit := s.sysport.inits.filter p
def State.outWay (s : State) (p : FpOut → Bool) : List FpOut := s.fabric.outbound.filter fun (o : FpOut) => o.waiting && p o

/-- The answer ABORTED to a host access. -/
def State.abortInit (s : State) (i : SpInit) : Resp where
  origin := .stream i.sl i.slot i.acc
  ctx := i.ctx
  cls := i.cls
  tag := 0
  write := i.write
  code := rspAborted
  lines := []
  clave := none
  banks := 0
  issued := s.now
  due := s.now
  since := s.now

/-- Everything under way that the three tests accept is answered ABORTED, or discarded where it awaits a response from
outside; the number of accesses aborted. -/
def State.abort (s : State) (mine : Origin → Nat → Bool) (host : SpInit → Bool) (out : FpOut → Bool) : Nat × State :=
  let rs := s.underWay mine ++ (s.hostWay host).map s.abortInit
  let t := s.orphans mine
  let t : State := { t with
    sysport := { t.sysport with inits := t.sysport.inits.filter fun (i : SpInit) => !(host i) }
    fabric := { t.fabric with outbound := t.fabric.outbound.filter fun (o : FpOut) => !(o.waiting && out o) } }
  (rs.length + (s.outWay out).length, rs.foldl State.deliver t)

/-- Accesses of slice `sl` by its own ports and streams that `mine` accepts and that are not ready by clk `last` are
answered ABORTED, and their responses are absorbed (R129, R344); their number. -/
def State.cutLocal (s : State) (sl last : Nat) (mine : Resp → Bool) : Nat × State :=
  let hit := fun (r : Resp) => mine r && decide (last < r.issued + s.latency) && (decide (r.code = rspOk) || decide (r.code = rspPoison))
  let cut := fun (r : Resp) => if hit r then { r with code := rspAborted, lines := [], clave := none } else r
  let held := (List.range s.build.ports).flatMap (fun p => (s.port sl p).localRsps) ++
    (List.range 16).flatMap fun j => (s.slot sl j).accs.filterMap fun a => a.resp
  let n := (held.filter hit).length
  let t := s.each (List.range s.build.ports) fun t p => t.modPort sl p fun x => { x with localRsps := x.localRsps.map cut }
  let t := t.each (List.range 16) fun t j => t.modSlot sl j fun x =>
    { x with accs := x.accs.map fun a => { a with resp := a.resp.map cut } }
  (n, t.count A.bootStat 32 32 n)

/-- Nothing that the three tests accept is under way. -/
def State.drained (s : State) (mine : Origin → Nat → Bool) (host : SpInit → Bool) (out : FpOut → Bool) : Bool :=
  (s.underWay mine).isEmpty && (s.hostWay host).isEmpty && (s.outWay out).isEmpty

/-- The drain timeout, in clk (R360). -/
def State.drainTmo (s : State) : Nat := s.getF A.bootDrain 0 32

/-! ### Kill (R347) -/

/-- The kill of context `c` in progress, past step K1. -/
def State.killOf (s : State) (c : Nat) : Option Kill := s.boot.kills.find? fun (k : Kill) => decide (k.ctx = c) && !k.knell

/-- Changes the kill of a context. -/
def State.modKill (s : State) (c : Nat) (f : Kill → Kill) : State :=
  { s with boot := { s.boot with kills := s.boot.kills.map fun (k : Kill) => if k.ctx = c then f k else k } }

/-- A write of CTX_KILL: bits already set have no effect; a bit of context 0, 63 or a FREE one is refused; the kills of
the others begin in the next clk. -/
def State.storeKill (s s0 : State) (v : Word) (ctx : Nat) : State :=
  let new := (bitsOf v).filter fun c => !(s.getB A.ctxKill c)
  let bad := new.filter fun c => decide (c = 0) || decide (c = 63) || decide (s0.ctxState c = 0)
  let good := new.filter fun c => !(bad.contains c)
  let t := if bad.isEmpty then s else s.refuseCfg A.ctxKill ctx
  if good.isEmpty then t else (t.pass 1).each good fun t c => t.beginKill c false

def execCtxKillWrite (v : Word) (ctx : Nat) (s : State) : Out :=
  .next (s.csrAccess A.ctxKill ctx fun t => t.storeKill s v ctx)

/-- A slot of a killed context: ARMED becomes IDLE, any other is stopped. -/
def State.killSlot (s : State) (sl j : Nat) : State :=
  let st := s.slotState sl j
  if st = 0 ∨ st = 5 then s
  else if st = 1 then
    (s.modSlot sl j fun x =>
      { x with accs := (x.accs.filter fun a => a.issued).map fun a => { a with dropped := true } }).setSlotState sl j 0
  else (s.stopSlot sl j).stopEnds sl j

/-- The pairs that a context owns return to their reset values (R260). -/
def State.killPairs (s : State) (sl c : Nat) : State :=
  s.allToReset (((List.range 256).filter fun n => decide (s.getF (A.semPair sl n) 40 6 = c)).map (A.semPair sl))

/-- The kill mark reaches a slice: step K2. The chip windows of the context close with the first (R371). -/
def State.killMark (s : State) (c sl : Nat) : State :=
  match s.killOf c with
  | none => s
  | some k =>
    if k.marked.contains sl then s
    else
      let t := s.reach (k.began + meshTime (s.hopsGlobal sl))
      let t := if k.marked.isEmpty then t.closeWindows fun w => decide (t.winCtx w = c) else t
      let t := t.fencing sl fun t =>
        let t := t.modKill c fun x => { x with marked := x.marked ++ [sl] }
        (t.each (t.slotsOf sl c) fun t j => t.killSlot sl j).killPairs sl c
      t.pumpEngine sl

def execKillMarkArrive (c sl : Nat) (s : State) : Out := if c < 64 then s.onSlice sl (s.killMark c sl) else .refused .noSuchUnit

/-- What of context `c` is under way: by context, and for outbound writes by that of their slot. -/
def State.killHost (c : Nat) (i : SpInit) : Bool := decide (i.ctx = c)
def State.killOut (s : State) (c : Nat) (o : FpOut) : Bool := decide (s.slotCtx o.sl o.slot = c)
def killMine (c : Nat) (_ : Origin) (ctx : Nat) : Bool := decide (ctx = c)

/-- The mark of a kill has reached every slice, and its drain has not ended. -/
def State.killDraining (s : State) (c : Nat) : Bool :=
  match s.killOf c with
  | some k => !k.drained && s.sliceList.all fun sl => k.marked.contains sl
  | none => false

/-- Strokes of the context that await their acknowledgements (R344). -/
def State.killStrokes (s : State) (c : Nat) : Nat :=
  (s.net.strays.filter fun (x : Xfer) => decide (x.ctx = c)).foldl (fun n x => n + x.strokes.length) 0

/-- They are discarded. -/
def State.dropStrokes (s : State) (c : Nat) : State :=
  { s with net := { s.net with strays := s.net.strays.filter fun (x : Xfer) => decide (x.ctx ≠ c) } }

/-- Step K5 begins in every slice. -/
def State.killBanks (s : State) (c n : Nat) : State :=
  let t := s.each s.sliceList fun t sl => (t.slotsOf sl c).foldl (fun (t : State) j => t.stopEnds sl j) t
  let t := t.modKill c fun x => { x with drained := true, aborts := x.aborts + n }
  t.each t.sliceList fun t sl => t.killHandover sl c

/-- The drain of a kill ends: step K4. -/
def State.killDrainEnd (s : State) (c : Nat) : State :=
  if s.killDraining c ∧ s.killStrokes c = 0 ∧ s.drained (killMine c) (State.killHost c) (s.killOut c) then
    (s.reach (s.lastAnswer .complex)).killBanks c 0
  else s

def execKillDrainEnd (c : Nat) (s : State) : Out := s.onIndex c 64 (s.killDrainEnd c)

/-- The drain of a kill ends by timeout. -/
def State.killTimeout (s : State) (c : Nat) : State :=
  match s.killOf c with
  | some k =>
    if s.killDraining c = false then s
    else
      let r := (s.reach (k.began + s.drainTmo)).abort (killMine c) (State.killHost c) (s.killOut c)
      let r := s.sliceList.foldl (fun (r : Nat × State) sl =>
        let u := r.2.cutLocal sl (k.began + s.drainTmo) fun x => decide (x.ctx = c)
        (r.1 + u.1, u.2)) r
      (r.2.dropStrokes c).killBanks c (r.1 + s.killStrokes c)
  | none => s

/-- The bank step of a kill is over in every slice. -/
def State.killBanksDone (s : State) (c : Nat) : Bool :=
  s.sliceList.all fun sl =>
    !((s.slice sl).killHandovers.contains c) && (match (s.slice sl).handover with
      | some h => decide (h.kill ≠ some c)
      | none => true)

/-- The kill completes: step K6. -/
def State.killComplete (s : State) (c : Nat) : State :=
  match s.killOf c with
  | none => s
  | some k =>
    if k.drained = false ∨ s.killBanksDone c = false then s
    else
      let t := s.pass 1
      let t := t.each t.sliceList fun t sl => t.boundaryIn sl c
      let t := ((t.wr (A.ctxProgress c) 0).putF (A.ctxE0 c) 32 2 0).putB A.ctxKill c false
      let w := setFlag (setFlag (setFld 0 0 6 c) 6 k.keep) 7 true
      let t := t.wr A.ctxKillst (setFld w 8 16 (min k.aborts 0xFFFF))
      { t with boot := { t.boot with kills := t.boot.kills.filter fun (x : Kill) => x.ctx ≠ c } }

def execKillComplete (c : Nat) (s : State) : Out := s.onIndex c 64 (s.killComplete c)

/-! ### SOLO (R351) -/

/-- Every RUN context but 0, 63 and `c` is paused, and recorded. -/
def State.soloPause (s : State) (c : Nat) : State :=
  s.each ((List.range 64).filter fun k => decide (k ≠ 0) && decide (k ≠ 63) && decide (k ≠ c) && decide (s.ctxState k = 1)) fun t k =>
    ((t.putF (A.ctxE0 k) 32 2 2).ctxPauses k).putB A.ctxSolop k true

/-- The contexts that SOLO mode has paused return to RUN. -/
def State.soloResume (s : State) : State :=
  let back := (bitsOf (s.rd A.ctxSolop)).filter fun k => decide (s.ctxState k = 2)
  (s.each back fun t k => ((t.putF (A.ctxE0 k) 32 2 1).kernelBoundary k).ctxContinues k).wr A.ctxSolop 0

/-- A write of CTX_SOLO. -/
def State.storeSolo (s : State) (v : Word) (ctx : Nat) : State :=
  let c := fld v 0 6
  if flag v 6 ∧ (c = 0 ∨ c = 63) then s.refuseCfg A.ctxSolo ctx
  else
    let t := s.storeReg A.ctxSolo v true ctx
    if flag v 6 then t.soloPause c else if s.getB A.ctxSolo 6 then t.soloResume else t

def execCtxSoloWrite (v : Word) (ctx : Nat) (s : State) : Out :=
  .next (s.csrAccess A.ctxSolo ctx fun t => t.storeSolo v ctx)

end Sys2Proof.Machine
end

