-- ==== Sys2Proof/Machine/Reset.lean ====
section
/-! DEFINITION. Reset units (R343 to R346, R360). -/

namespace Sys2Proof.Machine

/-! ### The region of a unit -/

/-- GLB_BUILD0.PARTS. -/
def State.nParts (s : State) : Nat := s.getF A.glbBuild0 32 5

/-- The slices of partition `q` (R27). -/
def State.partSlices (s : State) (q : Nat) : List Nat :=
  let n := s.nSlices / max 1 s.nParts
  (List.range n).map fun i => q * n + i

/-- The slices that a unit concerns: for a port or an engine the one it lies in, for Belfry none. -/
def State.unitSlices (s : State) (u : UnitReset) : List Nat :=
  if u.unit = 4 then s.partSlices u.index
  else if u.unit = 5 ∨ u.unit = 7 then s.sliceList
  else if u.unit = 6 then []
  else [u.sl]

/-- Those that are powered. -/
def State.poweredSlices (s : State) (u : UnitReset) : List Nat := (s.unitSlices u).filter fun sl => decide (s.slicePower sl ≠ 2)

/-- The unit exists, and context `ctx` may start its reset (R343). -/
def State.unitOk (s : State) (u : UnitReset) (ctx : Nat) : Bool :=
  if u.unit = 1 then s.hasPort u.sl u.index
  else if u.unit = 2 ∨ u.unit = 3 then s.hasSlice u.sl
  else if u.unit = 4 then decide (u.index < s.nParts)
  else if u.unit = 6 then decide (ctx ≠ 0)
  else true

/-- Accesses issued by the unit: by origin, and those that leave the complex. -/
def State.unitMine (s : State) (u : UnitReset) (o : Origin) (_ : Nat) : Bool :=
  if u.unit = 1 then decide (o = .port u.sl u.index)
  else if u.unit = 2 then (match o with
    | .stream sl _ _ => decide (sl = u.sl)
    | _ => false)
  else if u.unit = 5 ∨ u.unit = 7 then true
  else match o.slice with
    | some sl => (s.unitSlices u).contains sl
    | none => false
def State.unitHost (s : State) (u : UnitReset) (i : SpInit) : Bool := decide (u.unit ≠ 1) && (s.unitSlices u).contains i.sl
def State.unitOut (s : State) (u : UnitReset) (o : FpOut) : Bool := decide (u.unit ≠ 1) && (s.unitSlices u).contains o.sl

/-- Strokes that the unit has sent and that are not acknowledged. -/
def State.unitStrokes (s : State) (u : UnitReset) : Nat :=
  if u.unit = 1 then 0
  else ((s.net.xfers ++ s.net.strays).filter fun (x : Xfer) => (s.unitSlices u).contains x.sl).foldl (fun n x => n + x.strokes.length) 0

/-- The ports of the unit. -/
def State.unitPorts (s : State) (u : UnitReset) : List (Nat × Nat) :=
  if u.unit = 1 then [(u.sl, u.index)]
  else if u.unit = 2 then []
  else (s.poweredSlices u).flatMap fun sl => (List.range s.build.ports).map fun p => (sl, p)

/-- A port has answered everything that it has accepted. -/
def State.portQuiet (s : State) (p : Nat × Nat) : Bool :=
  let x := s.port p.1 p.2
  x.queue.isEmpty && x.localRsps.isEmpty && x.remoteRsps.isEmpty && decide (x.rout = 0)

/-- A slice or partition reset returns the Rhythm save area of the slices in Off to reset values (R312). -/
def State.resetSaves (s : State) (u : UnitReset) : State :=
  if u.unit = 3 ∨ u.unit = 4 then
    s.each ((s.unitSlices u).filter fun sl => decide (s.slicePower sl = 2)) State.resetSave
  else s

/-- Every access that the unit accepted or issued has been answered (R344). -/
def State.unitQuiet (s : State) (u : UnitReset) : Bool :=
  s.drained (s.unitMine u) (s.unitHost u) (s.unitOut u) && decide (s.unitStrokes u = 0) && (s.unitPorts u).all s.portQuiet &&
    (decide (u.unit ≠ 5 ∧ u.unit ≠ 7) || (s.sysport.txns.isEmpty && s.sysport.staged.isEmpty && s.fabric.inbound.isEmpty))

/-! ### The start (R343, R344) -/

/-- A handover in a slice that is reset is abandoned with RESULT 4 (R131); a kill's bank step is over there. -/
def State.abandonHandover (s : State) (sl : Nat) : State :=
  let t := match (s.slice sl).handover with
    | some h => (s.endHandover sl h 4).modSlice sl fun x => { x with xferCut := true }
    | none => s
  t.modSlice sl fun x => { x with killHandovers := [] }

/-- A slice is fenced at t_f, and its stream engine presents nothing new. -/
def State.fenceForReset (s : State) (sl : Nat) : State :=
  let t := s.abandonHandover sl
  t.fencing sl fun t => t.modSlice sl fun x => { x with fenceReset := true, engineReset := true }

/-- The unit's region is fenced. -/
def State.fenceUnit (s : State) (u : UnitReset) : State :=
  if u.unit = 1 then s.fencingPort u.sl u.index fun t => t.modPort u.sl u.index fun x => { x with resetFence := true }
  else if u.unit = 2 then s.modSlice u.sl fun x => { x with engineReset := true }
  else s.each (s.poweredSlices u) State.fenceForReset

/-- A reset begins: entries into other power states are abandoned, and sleeping slices woken (R346). -/
def State.beginReset (s : State) (u : UnitReset) : State :=
  let t := ((s.putB A.bootReset 4 true).putF A.bootReset 5 3 0).putF A.bootReset 32 16 0
  let u : UnitReset := { u with tf := s.now }
  if u.unit = 6 then
    let t := t.haltBelfry
    { t with
      boot := { t.boot with reset := some { u with drained := true } }
      tuner := { t.tuner with belfryHeld := false } }
  else
    let t : State := { t with boot := { t.boot with reset := some u } }
    let t := t.each (t.poweredSlices u) fun t sl => t.wake (.slice sl) 2
    t.fenceUnit u

/-- A write of BOOT_RESET (R343, R360): refused while BUSY, where it would change anything (R11). GO with a
unit that is absent, or that the writer may not reset, gives RESULT 5; a unit whose slices are all in Off, RESULT 1 at once. -/
def State.storeReset (s s0 : State) (v : Word) (ctx : Nat) : State :=
  if s0.getB A.bootReset 4 then s.refuseWrite A.bootReset v ctx
  else
    let t := s.storeReg A.bootReset v true ctx
    let u : UnitReset :=
      { unit := fld v 0 3, sl := fld v 8 6, index := fld v 14 4, tf := 0, aborts := 0, drained := false }
    if flag v 3 = false ∨ u.unit = 0 then t
    else if t.unitOk u ctx = false then t.putF A.bootReset 5 3 5
    else if u.unit < 5 ∧ (t.poweredSlices u).isEmpty then ((t.resetSaves u).putF A.bootReset 5 3 1).putF A.bootReset 32 16 0
    else t.beginReset u

/-- The word of a BOOT_RESET write with GO. -/
def resetWord (unit sl index : Nat) : Word := setFlag (setFld (setFld (setFld 0 0 3 unit) 8 6 sl) 14 4 index) 3 true

/-- A write of BOOT_RESET that starts the reset of a unit. -/
def State.startReset (s : State) (unit sl index ctx : Nat) : State :=
  s.csrAccess A.bootReset ctx fun t => t.storeReset s (resetWord unit sl index) ctx

def execPortReset (sl port ctx : Nat) (s : State) : Out := s.onPort sl port (s.startReset 1 sl port ctx)

def execEngineReset (sl ctx : Nat) (s : State) : Out := s.onSlice sl (s.startReset 2 sl 0 ctx)

def execSliceReset (sl ctx : Nat) (s : State) : Out := s.onSlice sl (s.startReset 3 sl 0 ctx)

def execPartitionReset (q ctx : Nat) (s : State) : Out := s.onIndex q s.nParts (s.startReset 4 0 q ctx)

def execWarmReset (ctx : Nat) (s : State) : Out := .next (s.startReset 5 0 0 ctx)

def execBelfryReset (ctx : Nat) (s : State) : Out := .next (s.startReset 6 0 0 ctx)

def execFullReset (ctx : Nat) (s : State) : Out := .next (s.startReset 7 0 0 ctx)

/-! ### The reset itself (R345) -/

/-- A port after its reset: the answers ABORTED that it still has to give stay. -/
def Port.wasReset (x : Port) : Port :=
  let left := x.remoteRsps.filter fun r => decide (r.code = rspAborted)
  { x.cleared with remoteRsps := left, rout := left.length }

/-- UNIT 1: converter, remote buffer, and PORT_STAT but for RCRES; the roll call follows. -/
def State.resetPort (s : State) (sl p : Nat) : State :=
  let res := s.getF (A.portStat sl p) 8 3
  let t := (s.pass 20).modPort sl p Port.wasReset
  ((t.toReset (A.portStat sl p)).putF (A.portStat sl p) 8 3 res).callPort sl p

/-- UNIT 2. -/
def State.resetEngine (s : State) (sl : Nat) : State :=
  ((s.pass 16).resetSlots sl).modSlice sl fun x => { x with engineReset := false }

/-- Registers of a slice window that a slice reset leaves: OWN_b, which follow the banks, ECC_SPARE and ECC_BADLINE. -/
def keptByReset (off : Nat) : Bool := decide (0x400 ≤ off ∧ off < 0x600) || decide (0x5400 ≤ off ∧ off < 0x5A00)

/-- UNIT 3 and each slice of UNIT 4, with RESULT and ABORTS of a handover that the reset abandoned (R131): everything in the slice, and steps 3 to 7 of R318. A slice whose wake has failed is
back in Play. -/
def State.resetSlice (s : State) (sl : Nat) : State :=
  let t := (s.abandonHandover sl).wipeSlice sl
  let result := if (t.slice sl).xferCut then t.rd (A.ownXfer sl) &&& xferResult else 0
  let t := (t.clearWindow sl keptByReset).allToReset ((List.range 8).map (A.qosHwm sl))
  let t := (t.modSlice sl SliceSt.fresh).each (List.range s.build.ports) fun t p => t.modPort sl p fun x =>
    { x.wasReset with called := false, rcFence := true, resetFence := false }
  let t := (((t.resetSave sl).restoreSlice sl).setSlicePower sl 0).wr (A.ownXfer sl) result
  let t : State := { t with power := { t.power with
    wakes := t.power.wakes.filter fun (w : PwrWake) => decide (w.target ≠ .slice sl)
    restoring := t.power.restoring.filter (· ≠ sl) } }
  (t.fencing sl fun t => t.modSlice sl fun x => { x with fenceReset := false, engineReset := false, fenceOff := false }).callSlice sl

/-- The unit is reset to its reset values, and BOOT_RESET says so. -/
def State.resetUnit (s : State) (u : UnitReset) : State :=
  if u.unit = 5 ∨ u.unit = 7 then
    let t := s.restart (decide (u.unit = 5) && s.repok)
    (if s.belfry.lcReset then t.powerUp else t).release
  else
    let t := if u.unit = 1 then s.resetPort u.sl u.index
      else if u.unit = 2 then s.resetEngine u.sl
      else ((s.pass 64).each (s.poweredSlices u) State.resetSlice).resetSaves u
    let t : State := { t with boot := { t.boot with reset := none } }
    ((t.putB A.bootReset 4 false).putF A.bootReset 5 3 (if u.aborts = 0 then 1 else 3)).putF A.bootReset 32 16 (min u.aborts 0xFFFF)

/-- Time at which local accesses of the unit have been answered, and requests at its ports reach their issue clk. -/
def State.unitTime (s : State) (u : UnitReset) : Nat :=
  let a := (s.unitSlices u).foldl (fun m sl => max m (s.lastAnswer (.slice sl))) s.now
  (s.unitPorts u).foldl (fun m p => (s.port p.1 p.2).queue.foldl (fun m r => max m r.since) m) a

/-- Every powered slice of the unit is in Play, or its wake has failed. -/
def State.unitAwake (s : State) (u : UnitReset) : Bool :=
  decide (u.unit = 5) || decide (u.unit = 7) ||
    (s.poweredSlices u).all fun sl => decide (s.slicePower sl = 0) || s.wakeFailed sl

/-- Requests still in the converters of the unit's ports are answered at their issue clk. -/
def State.settleUnit (s : State) (u : UnitReset) : State := (s.unitPorts u).foldl (fun (t : State) p => t.settlePort p.1 p.2 0) s

/-- The drain of the unit ends. -/
def State.resetDrained (s : State) : State :=
  match s.boot.reset with
  | none => s
  | some u =>
    if u.drained then s
    else
      let t := (s.reach (s.unitTime u)).settleUnit u
      if t.unitAwake u ∧ t.unitQuiet u then t.resetUnit u else s

def execResetDrainEnd (s : State) : Out := .next s.resetDrained

/-- The drain of the unit ends by timeout: what has not been answered is aborted. -/
def State.resetTimeout (s : State) : State :=
  match s.boot.reset with
  | none => s
  | some u =>
    if u.drained ∨ s.unitAwake u = false then s
    else
      let t := (s.reach (max (u.tf + s.drainTmo) (s.unitTime u))).settleUnit u
      let n := t.unitStrokes u
      let r := t.abort (t.unitMine u) (t.unitHost u) (t.unitOut u)
      r.2.resetUnit { u with aborts := u.aborts + r.1 + n }

/-- The drain of a handover ends by timeout: accesses that its banks accepted before t_f and that are not ready are
aborted (R129). -/
def State.handoverTimeout (s : State) (sl : Nat) : State :=
  match (s.slice sl).handover with
  | some h =>
    if h.drained then s
    else
      let r := (s.reach (h.tf + s.drainTmo)).cutLocal sl (h.tf + s.drainTmo) fun x =>
        decide (x.issued < h.tf) && decide (x.banks &&& h.mask ≠ 0)
      r.2.drainHandover sl { h with aborts := h.aborts + r.1 }
  | none => s

def execDrainTimeout (of : DrainOf) (s : State) : Out :=
  match of with
  | .handover sl => s.onSlice sl (s.handoverTimeout sl)
  | .unit => .next s.resetTimeout
  | .kill c => s.onIndex c 64 (s.killTimeout c)

end Sys2Proof.Machine
end

