-- ==== Sys2Proof/Machine/Belfry.lean ====
section
/-! DEFINITION. Belfry's mailbox and the commands that it serves (R384 to R404). -/

namespace Sys2Proof.Machine

/-! ### Issuing a command (R385) -/

/-- Hardware answers a command itself: B4 has not ended, or Belfry is in reset. -/
def State.notServing (s : State) : Bool := !(s.getB A.glbState 5) || s.belfry.inReset

/-- A write of MBOX_CMD: ignored from context 0, ignored with REJ while a command is in progress; GO issues the command. One that
hardware answers is answered in the next clk. -/
def State.storeMboxCmd (s : State) (v : Word) (ctx : Nat) : State :=
  if ctx = 0 then s
  else if s.getB A.mboxStat 0 then s.putB A.mboxStat 2 true
  else
    let t := s.storeReg A.mboxCmd v true ctx
    if flag v 21 = false then t
    else if t.notServing then (t.pass 1).publish 1 []
    else
      let u := t.putB A.mboxStat 0 true
      { u with belfry := { u.belfry with cmd := some (fld v 0 8), answer := none } }

/-- A write of MBOX_ARG: ignored with REJ while a command is in progress. -/
def State.storeMboxArg (s : State) (w : Nat) (v : Word) (ctx : Nat) : State :=
  if s.getB A.mboxStat 0 then s.putB A.mboxStat 2 true else s.storeReg (A.mboxArg w) v true ctx

/-- A GO that hardware answers; the mailbox takes it before the end of B4 too, when CSR space is not yet served. -/
def State.earlyGo (s : State) (v : Word) (ctx : Nat) : State :=
  if s.notServing = false ∨ flag v 21 = false then s
  else if s.csrUp then s.csrAccess A.mboxCmd ctx fun t => t.storeMboxCmd v ctx
  else if s.boot.released ∧ ctx = 63 then s.storeMboxCmd v ctx
  else s

def execMboxNotServing (v : Word) (ctx : Nat) (s : State) : Out := .next (s.earlyGo v ctx)

/-! ### Serving a command (R386) -/

/-- The opcodes of the table, and those among them marked R. -/
def listedOp (op : Nat) : Bool := [1, 2, 3, 4, 5, 6, 7, 0x10, 0x11, 0x12, 0x13, 0x20, 0x21].contains op
def recoveryOp (op : Nat) : Bool := [1, 0x10, 0x11, 0x12, 0x20, 0x21].contains op

/-- The command may not be served in this form or life-cycle state (R386, R400). -/
def State.notPermitted (s : State) (op : Nat) : Bool :=
  ((s.getB A.glbState 8 || decide (s.fuse.lifeCycle = 0)) && !(recoveryOp op)) ||
    (decide (s.fuse.lifeCycle = 5) && decide (3 ≤ op) && decide (op ≤ 7))

/-- Belfry works on a mailbox command: it is out of reset, and the complex is not in Tap. -/
def State.belfryServes (s : State) : Bool := !s.belfry.inReset && decide (s.cplxPower ≠ 2)

/-- The command in progress has its answer, which MBOX_COMMAND_DONE publishes. -/
def State.reply (s : State) (status : Nat) (bs : List Byte) : State :=
  { s with belfry := { s.belfry with answer := some (status, bs) } }

/-- Command `op` is in progress and not yet answered. -/
def State.serving (s : State) (op : Nat) : Bool :=
  s.belfryServes && s.belfry.answer.isNone && decide (s.belfry.cmd = some op)

/-- Serves command `op` by `f`, where it is permitted. -/
def State.serve (s : State) (op : Nat) (f : State → State) : State :=
  if s.serving op = false then s
  else if s.notPermitted op then s.reply 4 []
  else if 4096 < s.getF A.mboxCmd 8 13 then s.reply 3 []
  else f s

/-- Word `w` of the argument block, and `n` of its bytes from `a` on. -/
def State.arg (s : State) (w : Nat) : Word := s.rd (A.mboxArg w)
def State.argBytes (s : State) (a n : Nat) : List Byte :=
  (List.range n).map fun i => (s.arg ((a + i) / 8)).extractLsb' (8 * ((a + i) % 8)) 8

/-- An opcode that the table does not list. -/
def State.unknownOp (s : State) : State :=
  match s.belfry.cmd with
  | some op => if listedOp op = false ∧ s.serving op then s.reply 2 [] else s
  | none => s

def execMboxUnknown (s : State) : Out := .next s.unknownOp

/-- The answer is published; a life-cycle change then starts its reset (R385, R401). -/
def State.commandDone (s : State) : State :=
  if s.belfryServes = false ∨ s.belfry.flashOp.isSome then s
  else match s.belfry.answer with
    | none => s
    | some (status, bs) =>
      let change := decide (s.belfry.cmd = some 0x21) && s.belfry.lcReset
      let t := s.publish status bs
      if change then t.startReset 7 0 0 0 else t

def execMboxCommandDone (s : State) : Out := .next s.commandDone

/-! ### Identity and sensors (R386, R390) -/

/-- INFO. -/
def State.info (s : State) : State :=
  let b := s.belfry
  let w0 := setFld (setFlag (setFld 0 0 32 b.imageSeq) 32 (b.running && b.imageB)) 33 3 s.fuse.lifeCycle
  let w1 := setFlag (setFld (setFld 0 0 24 b.flashId) 24 5 b.flashLog2) 32 b.flashQuad
  let w2 := setFlag (setFlag (setFld 0 0 32 b.settings.seq) 32 (decide (b.settings.copy = 1))) 33 (!b.settings.valid)
  s.reply 0 (([w0, w1, w2, Config.romVersion] : List Word).flatMap wordBytes)

def execMboxInfo (s : State) : Out := .next (s.serve 1 State.info)

/-- SENSORS, given the Current and Temperature readings of both rails. -/
def State.sensors (s : State) (current temperature : Nat) : State :=
  let w0 : Word := (Config.ringCount s.free).setWidth 64
  let ws := (List.range 64).flatMap fun sl => [s.readCsr (A.sensTemp sl), s.readCsr (A.sensDroop sl)]
  let t := s.reply 0 ((([w0] : List Word) ++ ws ++ [setFld (setFld 0 0 32 current) 32 32 temperature]).flatMap wordBytes)
  { t with free := t.free + 1 }

def execMboxSensors (current temperature : Nat) (s : State) : Out :=
  .next (s.serve 2 fun t => t.sensors current temperature)

/-! ### Log ring and dump store (R386 to R389) -/

/-- LOG_READ. -/
def State.readLog (s : State) : State :=
  let first := fld (s.arg 0) 0 11
  let n := fld (s.arg 0) 11 8 + 1
  if 128 < n then s.reply 3 []
  else s.reply 0 ((List.range n).flatMap fun i => (s.logAt (first + i)).bytes)

def execLogRead (s : State) : Out := .next (s.serve 3 State.readLog)

/-- DUMP_DIR. -/
def State.dumpList (s : State) : State := s.reply 0 (s.belfry.dumps.flatMap DumpDir.bytes)

def execDumpDir (s : State) : Out := .next (s.serve 4 State.dumpList)

/-- DUMP_READ: bytes that the slot holds; those behind the dump read as zero, their W bits being clear. -/
def State.readDump (s : State) : State :=
  let e := fld (s.arg 0) 0 3
  let a := fld (s.arg 0) 3 17
  let n := fld (s.arg 0) 20 13
  if (s.belfry.dumps.getD e DumpDir.empty).valid = false ∨ 4096 < n ∨ 131072 < a + n then s.reply 3 []
  else s.reply 0 ((List.range n).map fun i => Tbl.get 0 s.belfry.dumpStore (dumpKey e (a + i)))

def execDumpRead (s : State) : Out := .next (s.serve 5 State.readDump)

/-- DUMP_CAPTURE: a dump with reason 5, where an entry can take it. DEDUCED: Belfry, which writes the dumps, serves the command
when the dump that it is writing is complete (R388). -/
def State.capture (s0 : State) : State :=
  let s := s0.reachRef s0.belfry.dumpEnds
  match s.dumpSlot with
  | some e => (s.writeDump 5 (flag (s.arg 0) 8)).reply 0 (wordBytes (BitVec.ofNat 64 e))
  | none => (s.writeDump 5 (flag (s.arg 0) 8)).reply 7 []

def execDumpCapture (s : State) : Out := .next (s.serve 6 State.capture)

/-- DUMP_FREE. -/
def State.dumpRelease (s : State) : State := (s.freeDump (fld (s.arg 0) 0 3)).reply 0 []

def execDumpFree (s : State) : Out := .next (s.serve 7 State.dumpRelease)

/-! ### Flash operations (R391) -/

/-- An erase or a program of the bytes from `lo` to `hi` is under way in the flash. -/
def State.flashBegin (s : State) (erase : Bool) (lo hi : Nat) : State :=
  { s with belfry := { s.belfry with flashOp := some (erase, s.time.ref, lo, hi) } }

/-- The status register is polled: the operation goes on, or it has ended. -/
def State.pollFlash (s : State) (busy : Bool) : State :=
  if busy ∨ s.belfryServes = false then s else { s with belfry := { s.belfry with flashOp := none } }

def execFlashPoll (busy : Bool) (s : State) : Out := .next (s.pollFlash busy)

/-- The operation is outstanding after its limit, which ends the command; what it has left in the flash is open. -/
def State.flashLate (s : State) : State :=
  if s.belfryServes = false then s
  else match s.belfry.flashOp with
    | none => s
    | some (erase, began, lo, hi) =>
      let limit := if erase then 4000000 else 10000
      let t := s.reachRef (began + limit * s.build.refMhz)
      let t := (t.spoilFlash lo hi).reply 6 []
      { t with belfry := { t.belfry with
          flashOp := none
          update := if t.belfry.cmd = some 0x11 then t.belfry.update else none } }

def execFlashTimeout (s : State) : Out := .next s.flashLate

/-! ### Firmware updates (R395) -/

/-- Copies image `src` over the other. -/
def State.copyImage (s : State) (src : Bool) : State :=
  (s.eraseFlash (imageAt !src) (imageEnd !src)).programFlash (imageAt !src) (s.flashBytes (imageAt src) 0x40000)

/-- Image B holds what runs. -/
def State.backedUp (s : State) : Bool := s.imageOk true && decide (s.imageSeqOf true = s.belfry.imageSeq)

/-- An update of `total` bytes begins: the bytes from `lo` to `hi` are erased. -/
def State.beginUpdate (s : State) (target total lo hi : Nat) : State :=
  let t := s.eraseFlash lo hi
  let t : State := { t with belfry := { t.belfry with
    update := some { target := target, total := total, base := lo, written := [] } } }
  (t.flashBegin true lo hi).reply 0 []

/-- UPD_BEGIN for firmware: image B takes a copy of a running A, and A is erased. -/
def State.beginFirmware (s : State) (total : Nat) : State :=
  if 197120 < total then s.reply 3 []
  else
    let t := if s.belfry.running ∧ s.belfry.imageB = false ∧ s.backedUp = false then s.copyImage false else s
    if t.belfry.running ∧ t.belfry.imageB = false ∧ t.backedUp = false then t.reply 6 []
    else t.beginUpdate 0 total (imageAt false) (imageEnd false)

/-! ### Settings updates (R399) -/

/-- The copy that a settings write erases: an invalid one, else that with the lower SEQ. -/
def State.staleCopy (s : State) : Nat :=
  match s.settingsCopy 0, s.settingsCopy 1 with
  | none, _ => 0
  | some _, none => 1
  | some a, some b => if seqAfter b.seq a.seq then 0 else 1

/-- UPD_BEGIN for a settings copy. -/
def State.beginSettings (s : State) (total : Nat) : State :=
  if 65536 < total then s.reply 3 [] else s.beginUpdate 1 total (copyAt s.staleCopy) (copyEnd s.staleCopy)

/-- UPD_BEGIN. -/
def State.updateBegin (s : State) : State :=
  let total := fld (s.arg 0) 8 24
  if s.belfry.flashOk = false then s.reply 6 []
  else if flag (s.arg 0) 0 then s.beginSettings total
  else s.beginFirmware total

def execUpdBegin (s : State) : Out := .next (s.serve 0x10 State.updateBegin)

/-- UPD_DATA: the bytes are programmed; no byte may be written twice. -/
def State.updateData (s : State) : State :=
  match s.belfry.update with
  | none => s.reply 7 []
  | some u =>
    let a := fld (s.arg 0) 0 24
    let n := fld (s.arg 1) 0 12
    if 4032 < n ∨ u.total < a + n ∨ u.written.any fun w => decide (a < w.1 + w.2 ∧ w.1 < a + n) then s.reply 3 []
    else
      let t := s.programFlash (u.base + a) (s.argBytes 64 n)
      let t : State := { t with belfry := { t.belfry with update := some { u with written := u.written ++ [(a, n)] } } }
      (t.flashBegin false (u.base + a) (u.base + a + n)).reply 0 []

def execUpdData (s : State) : Out := .next (s.serve 0x11 State.updateData)

/-- The result of a command that names a new SEQ. -/
def State.answerSeq (s : State) (seq : Nat) : State := s.reply 0 (wordBytes (BitVec.ofNat 64 seq))

/-- UPD_END for firmware: image A is verified, or B is copied back into it. -/
def State.endFirmware (s : State) : State :=
  if s.imageOk false ∧ (s.belfry.running = false ∨ s.belfry.imageSeq < s.imageSeqOf false) then
    (s.logEvent 0x04 0).answerSeq (s.imageSeqOf false)
  else ((s.copyImage true).flashBegin false (imageAt false) (imageEnd false)).reply 5 []

/-- UPD_END for settings: the copy is checked, or erased. -/
def State.endSettings (s : State) (n : Nat) : State :=
  match s.settingsCopy n with
  | some x =>
    if s.belfry.settings.valid = false ∨ seqAfter x.seq s.belfry.settings.seq then (s.logEvent 0x04 0).answerSeq x.seq
    else ((s.eraseFlash (copyAt n) (copyEnd n)).flashBegin true (copyAt n) (copyEnd n)).reply 5 []
  | none => ((s.eraseFlash (copyAt n) (copyEnd n)).flashBegin true (copyAt n) (copyEnd n)).reply 5 []

/-- UPD_END. -/
def State.updateEnd (s : State) : State :=
  match s.belfry.update with
  | none => s.reply 7 []
  | some u =>
    let t : State := { s with belfry := { s.belfry with update := none } }
    if u.target = 0 then t.endFirmware else t.endSettings (if u.base = copyAt 0 then 0 else 1)

def execUpdEnd (s : State) : Out := .next (s.serve 0x12 State.updateEnd)

/-! ### REPAIR_SAVE (R397, R399) -/

/-- A section 6 entry: physical slice, bank, macro, row or line, and KIND. -/
def repairEntry (ph b mac row : Nat) (line : Bool) : Word :=
  setFlag (setFld (setFld (setFld (setFld 0 0 6 ph) 6 6 b) 12 2 mac) 14 12 row) 26 line

/-- The retirements and bad lines since power-up that the record in use does not hold. -/
def State.newRepairs (s : State) : List Word :=
  let rows := s.belfry.retirements.map fun r => repairEntry (s.phys r.1) r.2.1 r.2.2.1 r.2.2.2 false
  let lines := s.belfry.badLines.map fun r => repairEntry (s.phys r.1) r.2.1 0 r.2.2 true
  (rows ++ lines).eraseDups.filter fun w => !(s.belfry.settings.repairs.contains w)

/-- The header of a record without its CRC: MAGIC, VERSION, section count, LENGTH and SEQ. -/
def recordHeader (sections len seq : Nat) : List Byte :=
  leBytes 4 0x31544553 ++ leBytes 2 1 ++ leBytes 2 sections ++ leBytes 4 len ++ leBytes 4 seq

/-- The record in use with SEQ + 1 and one more section 6. -/
def State.newRecord (s : State) : List Byte :=
  let raw := if s.belfry.settings.valid then s.belfry.settings.raw else List.replicate 64 0
  let es := s.newRepairs
  let section6 := if es.isEmpty then [] else leBytes 2 6 ++ leBytes 2 es.length ++ leBytes 4 (8 * es.length) ++ es.flatMap wordBytes
  let sections := numAt raw 6 2 + if es.isEmpty then 0 else 1
  let head := recordHeader sections (raw.length + section6.length) ((s.belfry.settings.seq + 1) % 2 ^ 32)
  let r := head ++ List.replicate 4 0 ++ raw.drop 20 ++ section6
  head ++ leBytes 4 (recordCrc r) ++ raw.drop 20 ++ section6

/-- REPAIR_SAVE; a settings update in progress is over. -/
def State.saveRepairs (s : State) : State :=
  let n := s.staleCopy
  let r := s.newRecord
  if s.belfry.flashOk = false then s.reply 6 []
  else if 65536 < r.length then s.reply 5 []
  else
    let t := (s.eraseFlash (copyAt n) (copyEnd n)).programFlash (copyAt n) r
    let t : State := { t with belfry := { t.belfry with update := match t.belfry.update with
      | some u => if u.target = 1 then none else some u
      | none => none } }
    (t.flashBegin false (copyAt n) (copyAt n + r.length)).answerSeq ((s.belfry.settings.seq + 1) % 2 ^ 32)

def execRepairSave (s : State) : Out := .next (s.serve 0x13 State.saveRepairs)

/-! ### Life cycle (R400, R401) -/

/-- LC_NONCE. -/
def State.drawNonce (s : State) : State :=
  let bs := (List.range 6).flatMap fun i => wordBytes (Config.freeWord (s.free + i))
  let t : State := { s with free := s.free + 6, belfry := { s.belfry with nonce := some bs } }
  t.reply 0 bs

def execLcNonce (s : State) : Out := .next (s.serve 0x20 State.drawNonce)

/-- The transitions of R401. -/
def lcAllowed (old new : Nat) : Bool :=
  decide (new = 5) || [(0, 1), (1, 2), (1, 3), (2, 3), (3, 4)].contains (old, new)

/-- Every context other than 0 and 63 is FREE. -/
def State.contextsFree (s : State) : Bool :=
  (List.range 64).all fun c => decide (c = 0) || decide (c = 63) || decide (s.ctxState c = 0)

/-- The signature of an LC_CHANGE verifies over the last nonce and the target code. -/
def State.lcSigned (s : State) (target : Nat) : Bool :=
  match s.belfry.nonce with
  | some n => s.fuse.keyHash && Config.signatureVerifies Config.fuseKey (n ++ [BitVec.ofNat 8 target]) (s.argBytes 8 96)
  | none => false

/-- The state is burned into the fuses. -/
def State.burn (s : State) (target : Nat) : State :=
  let t := s.logEvent 0x06 0
  { t with fuse := { t.fuse with lifeCycle := target }, belfry := { t.belfry with lcReset := true } }

/-- LC_CHANGE. -/
def State.lifeChange (s : State) : State :=
  let target := fld (s.arg 0) 0 3
  if lcAllowed s.fuse.lifeCycle target = false then s.reply 4 []
  else if s.contextsFree = false then s.reply 7 []
  else if s.fuse.lifeCycle = 0 ∧ target = 1 then
    if s.fuse.keyHash then (s.burn target).reply 0 [] else s.reply 7 []
  else
    let ok := s.lcSigned target
    let t : State := { s with belfry := { s.belfry with nonce := none } }
    if ok then (t.burn target).reply 0 [] else t.reply 5 []

def execLcChange (s : State) : Out := .next (s.serve 0x21 State.lifeChange)

/-! ### A trap of the core (R384) -/

/-- The ROM trap handler writes a dump and resets Belfry. -/
def State.trap (s : State) : State := if s.belfry.inReset then s else (s.writeDump 1 false).haltBelfry

def execBelfryTrap (s : State) : Out := .next s.trap

end Sys2Proof.Machine
end

