-- ==== Sys2Proof/Machine/CsrMap.lean ====
section
/-! DEFINITION. What a write of any register does (R9 to R11, R405, R407): the registers with a rule of their own, and
every other by the access types and update classes of its fields. A condition that refuses a write is judged by `s0`, the
state before the access (R11). -/

namespace Sys2Proof.Machine

/-! ### Global registers -/

/-- GLB_MAINT (R64, R65): M_MIN 3 is ignored, HOT_EN is no field of an S build, and clearing it ends a doubling, unless
LOCK is set. DESIGN CHOICE: where LOCK has so kept a doubling, clearing LOCK afterwards does not end it; only cool windows
do. The spec does not say what happens then. -/
def State.storeMaint (s : State) (v : Word) (ctx : Nat) : State :=
  let v := if fld v 0 2 = 3 then setFld v 0 2 (s.getF A.glbMaint 0 2) else v
  let v := if s.build.gcell then v else setFlag v 5 false
  let t := s.storeReg A.glbMaint v true ctx
  if s.getB A.glbMaint 5 ∧ t.getB A.glbMaint 5 = false ∧ t.getB A.glbMaint 4 = false ∧ t.time.nextHot then
    { t with time := { t.time with nextHot := false, decidedAt := t.now } }
  else t

/-- CTX_E0_c and CTX_E1_c. -/
def State.storeCtxWord (s s0 : State) (a : Nat) (v : Word) (ctx : Nat) : State :=
  let c := (a - 0x10000) / 16
  if a % 16 = 0 then s.storeCtx s0 c v ctx else s.storeKnext c v

/-- QOS_GRP_g and QOS_GRPA_g (R158): idle while the group carries no transfer; a LAG above 16 is ignored. -/
def State.storeGroup (s s0 : State) (a : Nat) (v : Word) (ctx : Nat) : State :=
  let v := if a % 16 = 8 ∧ 16 < fld v 8 5 then setFld v 8 5 (s.getF a 8 5) else v
  s.storeReg a v (!(s0.groupBusy ((a - 0x20080) / 16))) ctx

/-- A transaction through system window `i` is outstanding. -/
def State.winUsed (s : State) (i : Nat) : Bool :=
  (s.sysport.txns.any fun (t : SpTxn) => decide (t.win = i)) || s.sysport.staged.any fun (r : SpStaged) => decide (r.win = some i)

/-- The state of a window refuses EN (R126). -/
def State.enRefused (s : State) (i : Nat) : Bool :=
  let kind := s.getF (A.syswinAttr i) 0 2
  let c := s.getF (A.syswinAttr i) 2 6
  decide (kind = 3) || (decide (kind = 0) && decide (c ≠ 0) && decide (c ≠ 63)) ||
    (decide (kind = 1) && decide (s.getF (A.syswinTgt i) 0 6 ≠ 0))

/-- A register of a system window (R126): its unit is idle while EN is clear and nothing is outstanding through it. -/
def State.storeSyswin (s s0 : State) (a : Nat) (v : Word) (ctx : Nat) : State :=
  let i := (a - 0x30000) / 32
  let idle := !(s0.getB (A.syswinBase i) 0) && !(s0.winUsed i)
  let bad := decide (a % 32 = 0) && flag v 0 && !(s0.getB a 0) && s0.enRefused i
  let v := if bad then setFlag v 0 false else v
  let t := s.storeReg a v idle ctx
  if bad ∧ refusedS (masksOf a) (s.rd a) v idle = false then t.refuseCfg a ctx else t

def execSyswinWrite (i reg : Nat) (v : Word) (ctx : Nat) (s : State) : Out :=
  if i < 16 ∧ reg < 4 then
    .next (s.csrAccess (A.syswinBase i + 8 * reg) ctx fun t => t.storeSyswin s (A.syswinBase i + 8 * reg) v ctx)
  else .refused .noSuchUnit

/-- A register of a chip window. -/
def State.storeChipWin (s s0 : State) (a : Nat) (v : Word) (ctx : Nat) : State :=
  let w := (a - 0x30400) / 32
  if a % 32 = 24 then s.storeWinCtl s0 w v ctx else s.storeWin s0 w a v ctx

/-- A word of the handle table. -/
def State.storeHtab (s s0 : State) (a : Nat) (v : Word) (ctx : Nat) : State :=
  let h := (a - 0x40000) / 32
  let w := a / 8 % 4
  if w = 3 then s.acceptEntry s0 h v ctx else s.storeStage h w v ctx

/-- PWR_TAP (R329): idle in Play; an IVL above 50 is ignored in a G build. -/
def State.storeTap (s s0 : State) (v : Word) (ctx : Nat) : State :=
  let v := if s.build.gcell ∧ 50 < fld v 0 20 then setFld v 0 20 (s.getF A.pwrTap 0 20) else v
  s.storeReg A.pwrTap v (decide (s0.cplxPower = 0)) ctx

/-- TUNER_CHAL_w and TUNER_CHEXP, which context 0 alone writes (R298, R308). -/
def State.storeChal (s : State) (a : Nat) (v : Word) (ctx : Nat) : State :=
  if ctx ≠ 0 then s.refuseCfg a ctx
  else
    let t := s.storeReg a v true ctx
    if a = A.tunerChexp ∧ flag v 32 then t.runChallenge else t

/-- `lo ≤ a < hi`. -/
def spanOf (lo hi a : Nat) : Bool := decide (lo ≤ a) && decide (a < hi)

/-- Registers of the regions GLB, CTX, QOS and WIN. -/
def State.storeLow (s s0 : State) (a : Nat) (v : Word) (ctx : Nat) : State :=
  if a = A.glbMaint then s.storeMaint v ctx
  else if a = A.glbIrqCause then s.storeReg a (v &&& ~~~s.freshCauses) true ctx
  else if a = A.glbPeal then s.storeReg a v s0.net.peals.isEmpty ctx
  else if spanOf 0x10000 0x10400 a then s.storeCtxWord s0 a v ctx
  else if a = A.ctxKill then s.storeKill s0 v ctx
  else if a = A.ctxSolo then s.storeSolo v ctx
  else if spanOf 0x20000 0x20040 a then s.storeShare s0 ((a - 0x20000) / 8) v ctx
  else if spanOf 0x20080 0x20180 a then s.storeGroup s0 a v ctx
  else if spanOf 0x30000 0x30200 a then s.storeSyswin s0 a v ctx
  else if a = A.chipId then s.storeChipId s0 v ctx
  else if a = A.fpKnell then s.storeKnell v ctx
  else if spanOf 0x30400 0x30C00 a then s.storeChipWin s0 a v ctx
  else s.storeReg a v true ctx

/-- Registers of the regions HTAB, PWR, ERR, TUNER, MBOX and BOOT. -/
def State.storeHigh (s s0 : State) (a : Nat) (v : Word) (ctx : Nat) : State :=
  if spanOf 0x40000 0x60000 a then s.storeHtab s0 a v ctx
  else if spanOf 0x60000 0x60010 a then s.storePwrReq ((a - 0x60000) / 8) v
  else if a = A.pwrCplx then s.storeCplx (fld v 0 2) s0.cplxPower
  else if a = A.pwrTap then s.storeTap s0 v ctx
  else if a = A.pwrAvs then s.storeReg a v (!(s0.getB A.pwrVreq 18)) ctx
  else if a = A.pwrVreq then s.storeVreq v ctx
  else if a = A.errCfg then s.storeErrCfg v ctx
  else if a = A.errStat then s.storeErrStat v ctx
  else if a = A.errRd then s.storeErrRd v ctx
  else if a = A.tunerCtl then s.storeTunerCtl v ctx
  else if spanOf 0x80040 0x80088 a then s.storeChal a v ctx
  else if spanOf 0x80100 0x80158 a then s.storeRegion ((a - 0x80100) / 8) v ctx
  else if a = A.mboxCmd then s.storeMboxCmd v ctx
  else if spanOf 0x91000 0x92000 a then s.storeMboxArg ((a - 0x91000) / 8) v ctx
  else if a = A.bootReset then s.storeReset s0 v ctx
  else if a = A.bootDrain then (if fld v 0 32 = 0 then s else s.storeReg a v true ctx)
  else s.storeReg a v true ctx

/-! ### Registers of a slice window -/

/-- A clave pair that SEM_OP names is signalled or taken, by OP (R276). -/
def State.storeSemOp (s : State) (sl : Nat) (v : Word) : State := if flag v 9 then s.semTake sl v else s.semSignal sl v

/-- The bits whose setting interrupts: DONE and FAULT of SE_STAT, or the MISS bits. -/
def State.seBits (s : State) (sl off : Nat) : Word :=
  if off = 0x1C08 then s.rd (A.seStat sl) &&& 0xFFFFFFFF
  else maskOf ((List.range 16).filter fun j => s.getB (A.seMiss sl j) 41)

/-- SE_IE and SE_MIE: enabling a bit that is set already interrupts (R195). -/
def State.storeSeEnable (s : State) (sl off : Nat) (v : Word) (ctx : Nat) : State :=
  let a := sliceAddr sl off
  let t := s.storeReg a v true ctx
  if t.rd a &&& ~~~(s.rd a) &&& s.seBits sl off = 0 then t else t.raiseIrq 4

/-- A register of a stream slot: idle in IDLE, PAUSED and FAULTED; a write of the position discards the residue (R192). -/
def State.storeSlot (s s0 : State) (sl j off : Nat) (v : Word) (ctx : Nat) : State :=
  let st := s0.slotState sl j
  let idle := decide (st = 0) || decide (st = 3) || decide (st = 4)
  let t := s.storeReg (sliceAddr sl off) v idle ctx
  if off % 64 = 0x28 ∧ off < 0x1400 ∧ idle then
    t.modSlot sl j fun x => { x with residue := x.residue.map Residue.discard, descs := [], badDesc := [] }
  else t

/-- A register of the stream engine. -/
def State.storeSe (s s0 : State) (sl off : Nat) (v : Word) (ctx : Nat) : State :=
  if (s0.slice sl).engineReset then s.refuseWrite (sliceAddr sl off) v ctx
  else if off < 0x1400 ∧ off % 64 = 8 then s.storeCtl s0 sl ((off - 0x1000) / 64) v ctx
  else if off < 0x1C00 then s.storeSlot s0 sl (off % 0x400 / 64) off v ctx
  else if off = 0x1C08 ∨ off = 0x1C10 then s.storeSeEnable sl off v ctx
  else s.storeReg (sliceAddr sl off) v true ctx

/-- SCRUB_PATROL: RATE is ignored in a G build (R305). -/
def State.storePatrol (s : State) (sl : Nat) (v : Word) (ctx : Nat) : State :=
  let v := if s.build.gcell then setFld v 0 4 (s.getF (A.scrubPatrol sl) 0 4) else v
  s.storeReg (A.scrubPatrol sl) v true ctx

/-- ECC_CFG: a TRWIN below 16 is taken as 16 (R304). -/
def State.storeEccCfg (s : State) (sl : Nat) (v : Word) (ctx : Nat) : State :=
  let v := if fld v 4 5 < 16 then setFld v 4 5 16 else v
  s.storeReg (A.eccCfg sl) v true ctx

/-- PORT_CFG_p: no field of an absent port; idle while the port is fenced with nothing outstanding (R109, R272). -/
def State.storePortCfg (s s0 : State) (sl p : Nat) (v : Word) (ctx : Nat) : State :=
  if s.build.ports ≤ p then s else s.storeReg (A.portCfg sl p) v (s0.portFenced sl p && s0.portQuiet (sl, p)) ctx

/-- The register at offset `off` of the window of slice `sl`. -/
def State.storeSlice (s s0 : State) (sl off : Nat) (v : Word) (ctx : Nat) : State :=
  if off = 0x0 then s.storeRhyCtrl sl v ctx
  else if off = 0x18 then s.storePfence sl v ctx
  else if spanOf 0x100 0x300 off then s.storePhase s0 sl (decide (0x200 ≤ off)) (off / 8 % 32) v ctx
  else if off = 0x600 then s.storeXferMask s0 sl v ctx
  else if off = 0x608 then s.storeXfer s0 sl v ctx
  else if spanOf 0x1000 0x1E00 off then s.storeSe s0 sl off v ctx
  else if spanOf 0x2000 0x2800 off then s.storePair sl ((off - 0x2000) / 8) v ctx
  else if off = 0x2800 then s.storeSemOp sl v
  else if spanOf 0x3100 0x3300 off then s.storeSeed sl ((off - 0x3100) / 8) v
  else if off = 0x4000 then s.storePatrol sl v ctx
  else if off = 0x4008 then s.storeScrub s0 sl v ctx
  else if off = 0x5000 then s.storeRetire sl v ctx
  else if off = 0x5008 then s.storeEccCfg sl v ctx
  else if spanOf 0x7000 0x7080 off then s.storePortCfg s0 sl ((off - 0x7000) / 8) v ctx
  else if off = 0x7100 then s.storeRc sl v
  else s.storeReg (sliceAddr sl off) v true ctx

/-! ### Any register -/

/-- A write that has reached the register at address `a`. -/
def State.storeCsr (s s0 : State) (a : Nat) (v : Word) (ctx : Nat) : State :=
  if a % 8 ≠ 0 then s
  else match sliceOf a with
    | some (sl, off) => s.storeSlice s0 sl off v ctx
    | none => if a < 0x40000 then s.storeLow s0 a v ctx else s.storeHigh s0 a v ctx

/-- A write access to the register at address `a`, apertures apart. The mailbox answers a GO before CSR space is served. -/
def State.regWrite (s : State) (a : Nat) (v : Word) (ctx : Nat) : State :=
  if a = A.mboxCmd ∧ s.csrUp = false then s.earlyGo v ctx
  else s.csrAccess a ctx fun t => t.storeCsr s a v ctx

end Sys2Proof.Machine
end

