-- ==== Sys2Proof/Machine/Peal.lean ====
section
/-! DEFINITION. Peal writes (R142, R143, R160), and the write of any CSR address. -/

namespace Sys2Proof.Machine

/-! ### The start (R142) -/

/-- A CSR peal write of word `v`, by a writer without a class of its own. -/
def State.csrPeal (s : State) (off : Nat) (v : Word) (ctx : Nat) : State :=
  s.csrAccess (0x600000 + off) ctx fun t => t.beginPeal false off (v.setWidth 512) 0xFF ctx (t.dclass ctx) none none

def execCsrPealWrite (off : Nat) (v : Word) (ctx : Nat) (s : State) : Out :=
  if off < 0x10000 ∧ off % 8 = 0 then .next (s.csrPeal off v ctx) else .refused .noSuchUnit

/-- A memory peal write of one line. -/
def State.memPeal (s : State) (off : Nat) (data : Line) (ben : ByteEn) (ctx : Nat) : State :=
  s.csrAccess (0x700000 + off) ctx fun t =>
    t.beginPeal true (t.getF A.glbPeal 0 18 + off / 64) data ben ctx (t.dclass ctx) none none

def execMemPealWrite (off : Nat) (data : Line) (ben : ByteEn) (ctx : Nat) (s : State) : Out :=
  if off < 0x100000 ∧ off % 64 = 0 then .next (s.memPeal off data ben ctx) else .refused .noSuchUnit

/-! ### At a slice (R143) -/

/-- Peal write `id`. -/
def State.pealOf (s : State) (id : Nat) : Option Peal := s.net.peals.find? fun (p : Peal) => decide (p.id = id)

/-- Changes a peal write. -/
def State.modPeal (s : State) (id : Nat) (f : Peal → Peal) : State :=
  { s with net := { s.net with peals := s.net.peals.map fun (p : Peal) => if p.id = id then f p else p } }

/-- The last mirror has received an entry of the handle table (R118). -/
def State.mirrorDone (s : State) (h : Nat) : State :=
  let commits := s.force.commits.map fun c => if c.h = h then { c with received := some s.now } else c
  { s with force := { s.force with commits := commits } }

/-- The write has reached slice `sl`. -/
def State.pealReached (s : State) (id sl : Nat) : State :=
  let t := s.modPeal id fun p => { p with left := p.left.erase sl }
  match t.pealOf id with
  | some p => match p.mirror with
    | some h => if p.left.isEmpty then t.mirrorDone h else t
    | none => t
  | none => t

/-- GLB_PEAL_SKIP of a slice is set. -/
def State.pealSkip (s : State) (sl : Nat) : State := s.putB A.glbPealSkip sl true

/-- A slice leaves the write undone with a code. -/
def State.pealUndone (s : State) (id sl code : Nat) : State :=
  (s.pealSkip sl).modPeal id fun p => { p with code := if p.code = rspOk then code else p.code }

/-- The request of a memory peal write at a slice. -/
def pealReq (p : Peal) (sl now : Nat) : Req where
  origin := .peal p.id sl
  write := true
  ctx := p.ctx
  cls := p.cls
  tag := 0
  home := sl
  bset := glSet p.off
  lines := [{ bank := p.off % 8, row := glRow p.off, wen := 0xFF, ben := p.ben, data := p.data, psn := 0 }]
  clave := none
  owner := 18
  since := now

/-- The write is applied at a slice in Play: a register is written, a line waits for its slot. -/
def State.pealApply (s : State) (p : Peal) (sl : Nat) : State :=
  if p.mirror.isSome then s
  else if p.mem = false then s.storeSlice s sl p.off (lineWord p.data 0) p.ctx
  else if 262143 < p.off then s.modPeal p.id fun x => { x with code := if x.code = rspOk then rspRange else x.code }
  else
    let q := pealReq p sl s.now
    match s.homeNoSlot sl q with
    | some c => s.pealUndone p.id sl c
    | none =>
      (s.modPeal p.id fun x => { x with waiting := x.waiting ++ [sl] }).modSlice sl fun x => { x with home := x.home ++ [q] }

/-- An earlier peal write of the same writer has not reached the slice. -/
def State.pealBehind (s : State) (p : Peal) (sl : Nat) : Bool :=
  s.net.peals.any fun (x : Peal) => decide (x.id < p.id) && decide (x.ctx = p.ctx) && x.left.contains sl

/-- The write reaches slice `sl`: Off is skipped, a slice being reset answers FENCED, one asleep is woken first. -/
def State.pealArrives (s : State) (id sl : Nat) : State :=
  match s.pealOf id with
  | none => s
  | some p =>
    if p.left.contains sl = false ∨ s.pealBehind p sl then s
    else
      let t := (s.meshEvent fun n => n.firstOut p.flight (s.exitKey sl)).getD s
      if t.slicePower sl = 2 then (t.pealReached id sl).pealSkip sl
      else if (t.slice sl).fenceReset then (t.pealReached id sl).pealUndone id sl rspFenced
      else
        let t := t.wakeFor sl (if p.mem then 1 else 2)
        if t.sliceServes sl = false then t else (t.pealReached id sl).pealApply p sl

def execPealDeliver (id sl : Nat) (s : State) : Out := s.onSlice sl (s.pealArrives id sl)

/-! ### The response -/

/-- Part of a system-port request is answered. -/
def State.spPart (s : State) (tag code due : Nat) : State :=
  { s with sysport := { s.sysport with txns := s.sysport.txns.map fun (t : SpTxn) =>
      if t.tag = tag then { t with need := t.need - 1, code := joinCode t.code code, due := max t.due due } else t } }

/-- The next peal write of the oldest system-port request that has one left leaves, where a place is free. -/
def State.feedPeal (s : State) : State :=
  match s.sysport.txns.find? fun (t : SpTxn) => !t.peals.isEmpty with
  | none => s
  | some t => match t.peals with
    | [] => s
    | p :: rest =>
      if 64 ≤ s.net.peals.length then s
      else
        let u : State := { s with sysport := { s.sysport with txns := s.sysport.txns.map fun (x : SpTxn) =>
          if x = t then { x with peals := rest } else x } }
        u.beginPeal p.1 p.2.1 p.2.2.1 p.2.2.2 t.ctx t.cls (some t.tag) none

/-- Mirror writes and peal writes leave while places are free. -/
def State.feedPeals (s : State) : State := (List.range 64).foldl (fun (t : State) _ => t.feedMirror.feedPeal) s

/-- Every slice has applied the write or been skipped: the writer is answered, Belfry by its own status. -/
def State.pealDone (s : State) (id : Nat) : State :=
  match s.pealOf id with
  | none => s
  | some p =>
    if p.left.isEmpty = false ∨ p.waiting.isEmpty = false then s
    else
      let t : State := { s with net := { s.net with peals := s.net.peals.filter fun (x : Peal) => x.id ≠ id } }
      (match p.tag with
       | some k => t.spPart k p.code t.now
       | none => if p.ctx = 0 ∧ p.mirror.isNone then { t with belfry := { t.belfry with pealCode := p.code } } else t).feedPeals

def execPealComplete (id : Nat) (s : State) : Out := .next (s.pealDone id)

/-! ### Any CSR address (R405) -/

/-- A write of a whole 8-byte register at CSR address `a`, apertures included. -/
def State.csrWrite (s : State) (a : Nat) (v : Word) (ctx : Nat) : State :=
  if 0x600000 ≤ a ∧ a < 0x610000 then (if a % 8 = 0 then s.csrPeal (a - 0x600000) v ctx else s)
  else if 0x700000 ≤ a ∧ a < 0x800000 then
    let o := a - 0x700000
    if o % 8 = 0 then
      s.memPeal (o / 64 * 64) (setLineWord 0 (o / 8 % 8) v) (0xFF#64 <<< (o % 64)) ctx
    else s
  else s.regWrite a v ctx

def execCsrWrite (addr : Nat) (v : Word) (ctx : Nat) (s : State) : Out := .next (s.csrWrite addr v ctx)

end Sys2Proof.Machine
end

