-- ==== Sys2Proof/Machine/SysPort.lean ====
section
/-! DEFINITION. The system port (R123 to R126, R151): target requests of the host through the system windows, and the
answers of the host to the accesses of streams. -/

namespace Sys2Proof.Machine

/-! ### The initiator side (R124) -/

/-- The code of an initiator response as the complex takes it: 0, 3 and 6 as they are, any other as ABORTED. -/
def initCode (c : Nat) : Nat := if c = 0 ∨ c = 3 ∨ c = 6 then c else rspAborted

/-- The clk in which a stream first presented an access. -/
def State.accSince (s : State) (i : SpInit) : Nat :=
  match (s.slot i.sl i.slot).accs.find? fun a => a.id = i.acc with
  | some a => a.req.since
  | none => s.now

/-- A response of the host arrives: its data goes through the mesh to the stream that waits for it. -/
def State.initResponse (s : State) (tag code : Nat) (data : List Line) : State :=
  match s.sysport.inits.find? fun (i : SpInit) => i.tag = tag with
  | none => s.lateResponse
  | some i =>
    let c := initCode code
    let carries := !i.write && (decide (c = rspOk) || decide (c = rspPoison))
    let psn : WordEn := if c = rspPoison then 0xFF else 0
    let ls : List LineRsp := if carries then
        (List.range i.lines.length).map fun k => { pos := k, data := data.getD k 0, psn := psn }
      else []
    let t : State := { s with sysport := { s.sysport with inits := s.sysport.inits.filter fun (x : SpInit) => x.tag ≠ tag } }
    t.sendRsp 64 i.sl s.now (flitsOf ls.length) 0 true
      { origin := .stream i.sl i.slot i.acc, ctx := i.ctx, cls := i.cls, tag := 0, write := i.write, code := c, lines := ls
        clave := none, banks := 0, issued := s.now, due := s.now, since := s.accSince i }

def execSpInitResponse (tag code : Nat) (data : List Line) (s : State) : Out := .next (s.initResponse tag code data)

/-! ### Windows (R125, R126) -/

/-- BASE and SIZE of a window in bytes, and its other fields. -/
def State.winBase (s : State) (i : Nat) : Nat := 4096 * s.getF (A.syswinBase i) 12 36
def State.winSize (s : State) (i : Nat) : Nat := 4096 * s.getF (A.syswinSize i) 12 36
def State.winKind (s : State) (i : Nat) : Nat := s.getF (A.syswinAttr i) 0 2
def State.sysCtx (s : State) (i : Nat) : Nat := s.getF (A.syswinAttr i) 2 6
def State.sysClass (s : State) (i : Nat) : Nat := s.getF (A.syswinAttr i) 8 3

/-- The lowest-numbered enabled window that an address lies in. -/
def State.sysWindow (s : State) (a : Nat) : Option Nat :=
  (List.range 16).find? fun i =>
    s.getB (A.syswinBase i) 0 && decide (s.winBase i ≤ a) && decide (a < s.winBase i + s.winSize i)

/-- Bytes of a request. -/
def SpStaged.bytes (r : SpStaged) : Nat := 64 * (r.len + 1)

/-- A request has the tag of one outstanding. -/
def State.tagUsed (s : State) (r : SpStaged) : Bool :=
  (s.sysport.txns.any fun (t : SpTxn) => t.tag = r.tag) || s.sysport.staged.any fun (t : SpStaged) => t.tag = r.tag

/-- The request lies wholly in the window. -/
def State.inWindow (s : State) (i : Nat) (r : SpStaged) : Bool := decide (r.addr + r.bytes ≤ s.winBase i + s.winSize i)

/-- The code under which the port answers a request through window `i` itself: a killed context, a request out of range, a
region that the Tuner holds not OK, and a direction that the window does not permit (R124, R125, R292, R347). The order is
DEDUCED (log 18). -/
def State.spCode (s : State) (i : Nat) (r : SpStaged) : Nat :=
  if s.ctxState (s.sysCtx i) = 3 then rspAborted
  else if r.range ∨ 4096 < r.addr % 4096 + r.bytes ∨ r.addr % 64 ≠ 0 ∨ s.inWindow i r = false ∨
    (s.winKind i = 0 ∧ 0x800000 ≤ r.addr - s.winBase i) then rspRange
  else if (i ≠ 0 ∧ s.notOk 6 0) ∨ (s.winKind i = 2 ∧ s.notOk 4 0) then rspFenced
  else if s.getB (A.syswinAttr i) (if r.write then 12 else 11) = false then rspDenied
  else rspOk

/-! ### Outstanding requests (R124, R151) -/

/-- A request becomes outstanding with `need` parts and a code so far; `lines` are data that it has already,
`peals` the peal writes that it makes. -/
def State.spOpen (s : State) (r : SpStaged) (win cls ctx need code : Nat) (lines : List LineRsp)
    (peals : List (Bool × Nat × Line × ByteEn)) : State :=
  let t : SpTxn :=
    { tag := r.tag, write := r.write, win := win, ctx := ctx, cls := cls, beats := r.len + 1, need := need, lines := lines
      code := code, since := s.now, due := s.now, peals := peals }
  { s with sysport := { s.sysport with txns := s.sysport.txns ++ [t] } }

/-- A request of class `c` may become outstanding. -/
def State.spMay (s : State) (c : Nat) : Bool :=
  mayTake 64 (fun k => (s.sysport.txns.filter fun (t : SpTxn) => t.cls = k).length) (fun k => s.share k 24 7) c 1

/-! ### Requests to memory -/

/-- The lines of a request through a GADDR or HANDLE window. -/
def State.spSpots (s : State) (i : Nat) (r : SpStaged) : Nat × List (Nat × Spot) :=
  let o := r.addr - s.winBase i
  let target := s.getF (A.syswinTgt i) 0 30
  if s.winKind i = 2 then s.handleSpots (target % 4096) (s.sysCtx i) r.write (o / 64) (r.len + 1)
  else
    let g := (target + o) / 64
    s.spotsOk ((List.range (r.len + 1)).map fun k => (k, Spot.mem (g + k) (g + k)))

/-- The request of a group of its lines. -/
def State.spReq (s : State) (i : Nat) (r : SpStaged) (g : List (Nat × Spot)) : Req :=
  let l := match g.head?.map Prod.snd with
    | some (.mem k _) => k
    | _ => 0
  let data : LineData := fun n => match r.beats[n]? with
    | some b => (b.1, b.2, 0)
    | none => (0, 0, 0)
  { origin := .sysport r.tag, write := r.write, ctx := s.sysCtx i, cls := s.sysClass i, tag := (g.head?.map Prod.fst).getD 0
    home := glSlice l, bset := glSet l, lines := lineAccs g data, clave := none, owner := 20, since := s.now }

/-- A request to memory enters the mesh at (0,0), one access for each run of lines in one bank set. Through a HANDLE window, the
parts are checked together at the entry, so that none is performed where one may not be (R119; DEDUCED, log 18). -/
def State.spMemory (s : State) (i : Nat) (r : SpStaged) : State :=
  let x := s.spSpots i r
  let rs := (groupUp x.2).map (s.spReq i r)
  let c := if x.1 ≠ rspOk then x.1 else if s.winKind i = 2 then s.partsCode rs else rspOk
  if c ≠ rspOk then s.spOpen r i (s.sysClass i) (s.sysCtx i) 0 c [] []
  else
    let t := s.spOpen r i (s.sysClass i) (s.sysCtx i) rs.length rspOk [] []
    t.sendParts rs

/-! ### Requests to CSR space -/

/-- Line `k` of a read: eight registers. -/
def State.csrLine (s : State) (a : Nat) : Line := lineOfWords ((List.range 8).map fun w => s.readCsr (a + 8 * w))

/-- The whole registers that a write enables: offset within the request, and value. -/
def spWords (r : SpStaged) : List (Nat × Word) :=
  r.beats.zipIdx.flatMap fun b => (List.range 8).filterMap fun w =>
    if wordBen b.1.2 w = 0xFF then some (64 * b.2 + 8 * w, lineWord b.1.1 w) else none

/-- The apertures of peal writes that an offset lies in. -/
def csrAperture (o : Nat) : Bool := decide (0x600000 ≤ o) && decide (o < 0x610000)
def memAperture (o : Nat) : Bool := decide (0x700000 ≤ o)

/-- The peal writes that a write through an aperture makes. -/
def State.spPeals (s : State) (r : SpStaged) (o : Nat) : List (Bool × Nat × Line × ByteEn) :=
  if csrAperture o then (spWords r).map fun x => (false, o - 0x600000 + x.1, x.2.setWidth 512, 0xFF#64)
  else if memAperture o then
    r.beats.zipIdx.map fun b => (true, s.getF A.glbPeal 0 18 + (o - 0x700000) / 64 + b.2, b.1.1, b.1.2)
  else []

/-- What a request to CSR space wakes: the complex in Tap or Damp, a slice whose window it addresses (R315, R407). -/
def State.csrWake (s : State) (a : Nat) : State :=
  let t := if s.cplxFailed then s else s.wake .complex 2
  match sliceOf a with
  | some (sl, _) => if t.hasSlice sl then t.wake (.slice sl) 2 else t
  | none => t

/-- A request to CSR space at offset `o` of the window: data of the registers, peal writes, or writes of registers. -/
def State.spCsr (s : State) (i : Nat) (r : SpStaged) (o : Nat) : State :=
  let c := s.sysCtx i
  let k := s.sysClass i
  let s := s.meshNow
  let t :=
    if r.write = false then
      s.spOpen r i k c 0 rspOk ((List.range (r.len + 1)).map fun n => { pos := n, data := s.csrLine (o + 64 * n), psn := 0 }) []
    else
      let ps := s.spPeals r o
      let t := s.spOpen r i k c ps.length rspOk [] ps
      if csrAperture o ∨ memAperture o then t.feedPeals
      else t.csrAccess o c fun u => u.asSystem c fun u => (spWords r).foldl (fun (x : State) w => x.storeCsr s (o + w.1) w.2 c) u
  t.csrWake o

/-- The registers at `a` answer: the complex is not in Tap or in a wake, nor the slice asleep. -/
def State.csrReady (s : State) (a : Nat) : Bool :=
  let cplx := decide (s.cplxPower ≤ 1) || s.entering .complex || s.cplxFailed
  cplx && match sliceOf a with
    | some (sl, _) => !(s.hasSlice sl) || decide (s.slicePower sl = 0) || decide (s.slicePower sl = 2) || s.entering (.slice sl) ||
        s.cplxFailed
    | none => true

/-! ### Admission -/

/-- A request that the port answers without a window. -/
def State.spRange (s : State) (r : SpStaged) : State := s.spOpen r 16 0 63 0 rspRange [] []

/-- The class of a request. -/
def State.spClass (s : State) (r : SpStaged) : Nat := (r.win.map s.sysClass).getD 0

/-- The request may proceed now: its class has a slot. -/
def State.spCan (s : State) (r : SpStaged) : Bool := s.spMay (s.spClass r)

/-- A request proceeds, through the window that it matched. -/
def State.spProceed (s : State) (r : SpStaged) : State :=
  match r.win with
  | none => s.spRange r
  | some i =>
    let c := s.spCode i r
    if c ≠ rspOk then s.spOpen r i (s.sysClass i) (s.sysCtx i) 0 c [] []
    else if s.winKind i = 0 then s.spCsr i r (r.addr - s.winBase i)
    else s.spMemory i r

/-- What the request addresses is awake; what is not has been woken, and the request is held outside (R311, R407). -/
def State.spAwake (s : State) (r : SpStaged) : Bool × State :=
  match r.win with
  | none => (true, s)
  | some i =>
    if s.spCode i r ≠ rspOk then (true, s)
    else if s.winKind i = 0 then
      let a := r.addr - s.winBase i
      if s.csrReady a then (true, s) else (false, s.csrWake a)
    else
      let t := s.wake .complex 1
      (t.cplxAwake, t)

/-- Staged requests proceed, in order within each class (R151). -/
def State.spDrain (s : State) : State :=
  s.sysport.staged.foldl (fun (t : State) r =>
    let before := t.sysport.staged.takeWhile fun (x : SpStaged) => decide (x ≠ r)
    if (before.any fun (x : SpStaged) => decide (t.spClass x = t.spClass r)) ∨ t.spCan r = false then t
    else
      let u : State := { t with sysport := { t.sysport with staged := t.sysport.staged.erase r } }
      u.spProceed r) s

/-- READY is high: the staging buffer has room, and fewer than 64 requests are outstanding (R124, R151). -/
def State.spReady (s : State) : Bool :=
  s.csrUp && decide (s.sysport.staged.length < 8) && decide (s.sysport.txns.length + s.sysport.staged.length < 64)

/-- A request is accepted: it is staged, or proceeds at once where its class can take a slot. -/
def State.spAccept (s : State) (r : SpStaged) : State :=
  if (s.sysport.staged.any fun (x : SpStaged) => decide (s.spClass x = s.spClass r)) ∨ s.spCan r = false then
    { s with sysport := { s.sysport with staged := s.sysport.staged ++ [r] } }
  else s.spProceed r

/-- A target request arrives (R123 to R126): it is matched against the windows once. With READY low it is not taken. -/
def State.spRequest (s : State) (r : SpStaged) : State :=
  let r := { r with win := s.sysWindow r.addr, range := s.tagUsed r }
  let w := s.spAwake r
  if s.csrUp = false then s
  else if w.1 = false then w.2
  else if s.spReady = false then w.2
  else w.2.spAccept r

def execSpTargetRead (addr len tag : Nat) (s : State) : Out :=
  if len < 64 ∧ tag < 64 then
    .next (s.spRequest { addr := addr, write := false, len := len, tag := tag, beats := [], win := none, range := false })
  else .refused .noSuchUnit

def execSpTargetWrite (addr : Nat) (beats : List (Line × ByteEn)) (tag : Nat) (s : State) : Out :=
  if beats.length ≠ 0 ∧ beats.length ≤ 64 ∧ tag < 64 then
    .next (s.spRequest
      { addr := addr, write := true, len := beats.length - 1, tag := tag, beats := beats, win := none, range := false })
  else .refused .noSuchUnit

/-- SP_TREQ_OP 2 or 3 is answered RANGE. -/
def State.badOp (s : State) (op tag : Nat) : State :=
  if s.spReady = false ∨ op < 2 then s
  else if s.cplxAwake = false then s.wake .complex 1
  else s.spAccept { addr := 0, write := true, len := 0, tag := tag, beats := [], win := none, range := true }

def execSpTargetBadOp (op tag : Nat) (s : State) : Out :=
  if op < 4 ∧ tag < 64 then .next (s.badOp op tag) else .refused .noSuchUnit

/-! ### Responses -/

/-- The response as the port drives it: data under OK and POISON of a read, poisoned words as zero. -/
def SpTxn.driven (t : SpTxn) : SpTxn :=
  let clean := fun (l : LineRsp) =>
    let d := (List.range 8).foldl (fun (m : Line) w => if l.psn.getLsbD w then setLineWord m w 0 else m) l.data
    ({ l with data := d } : LineRsp)
  if t.write = false ∧ (t.code = rspOk ∨ t.code = rspPoison) then { t with lines := t.lines.map clean } else { t with lines := [] }

/-- The response to the request with a tag is driven, once all its parts are answered. -/
def State.spRespond (s : State) (tag : Nat) : State :=
  match s.sysport.txns.find? fun (t : SpTxn) => t.tag = tag ∧ t.need = 0 with
  | none => s
  | some x =>
    let t := s.reach x.due
    let t : State := { t with sysport := { t.sysport with txns := t.sysport.txns.erase x, shown := some x.driven } }
    t.spDrain

def execSpTargetResponse (tag : Nat) (s : State) : Out := .next (s.spRespond tag)

end Sys2Proof.Machine
end

