-- ==== Sys2Proof/Machine/Commit.lean ====
section
/-! DEFINITION. Stage B9 (R337, R340, R341, R397, R398): Belfry applies the settings record, the goldens are taken, and the
first pass of the Tuner runs. -/

namespace Sys2Proof.Machine

/-! ### Register entries -/

/-- Records raised so far and not yet in the ring, or dropped. -/
def State.raised (s : State) : Nat :=
  s.sliceList.foldl (fun n sl => n + (s.slice sl).errs.length + s.getF (A.eccCnt sl 10) 0 48) s.errors.queue.length

/-- What an entry of a section writes at address `a`: of RHY_CTRL only NEXT and NOSTEAL, of CHWIN_CTL neither OPEN nor CLOSE,
of GLB_MAINT only M_MIN. -/
def State.entryValue (s : State) (type a : Nat) (v : Word) : Word :=
  if type = 1 then (match sliceOf a with
    | some (_, off) => if off = 0 then (v &&& (0xFFFF0002 : Word)) ||| (s.rd a &&& (0x4 : Word)) else v
    | none => v)
  else if type = 3 ∧ 0x30400 ≤ a ∧ a % 32 = 24 then setFlag (setFlag v 19 false) 20 false
  else if type = 5 ∧ a = A.glbMaint then (s.rd a &&& (0x30 : Word)) ||| (v &&& (0x3 : Word))
  else v

/-- Belfry writes an entry to one register. -/
def State.putEntry (s : State) (type a : Nat) (v : Word) : State := s.regWrite a (s.entryValue type a v) 0

/-- A register entry is applied, to every slice under ALLSL; one that is refused is logged with the address written. -/
def State.applyEntry (s : State) (e : Nat × Word × Word) : State :=
  let a := fld e.2.1 0 23
  let all := flag e.2.1 23
  let t := if all then s.each s.sliceList fun t sl => t.putEntry e.1 (sliceAddr sl a) e.2.2 else s.putEntry e.1 a e.2.2
  if t.raised = s.raised then t else t.logEvent 0x05 (BitVec.ofNat 64 (if all then 0x600000 + a else a))

/-- The sections of the record, in the order 6, 5, 4, 1, 2, 3, each in entry order. -/
def State.applyRecord (s : State) : State :=
  let x := s.belfry.settings
  let t := x.repairs.foldl State.addRepair s
  ([5, 4, 1, 2, 3] : List Nat).foldl (fun (t : State) k => (x.regs.filter fun e => decide (e.1 = k)).foldl State.applyEntry t) t

/-! ### Goldens and the first pass -/

/-- The instances of every region that the Tuner scans. -/
def State.allInst (s : State) : List (Nat × Nat) :=
  (sliceRegions.flatMap fun r => s.sliceList.map fun sl => (r, sl)) ++ globalRegions.map fun r => (r, 0)

/-- The goldens of every region are taken. -/
def State.takeGoldens (s : State) : State := s.allInst.foldl (fun (t : State) p => t.commitGolden p.1 p.2) s

/-- The clk that a pass takes: that of the global engine. -/
def State.passTime (s : State) : Nat := globalRegions.foldl (fun n r => n + 4 + s.instRegs r) 0

/-- A pass from its beginning to its end. -/
def State.wholePass (s : State) : State :=
  let t := s.beginScans
  let l := t.tuner.left
  let t := t.pass t.passTime
  let t : State := { t with tuner := { t.tuner with left := [], redo := [] } }
  (l.foldl (fun (t : State) p => t.compare p.1 p.2) t).endScans

/-! ### The stage -/

/-- Slices that have an instance not OK, and regions that have one. -/
def State.badSlices (s : State) : Word := maskOf (s.sliceList.filter fun sl => sliceRegions.any fun r => s.notOk r sl)
def State.badRegions (s : State) : Nat :=
  ((sliceRegions ++ globalRegions).filter fun r => (s.allInst.any fun p => decide (p.1 = r) && s.notOk r p.2)).length

/-- Every slice that is not in Off is in Play, and so is the complex. -/
def State.inPlay (s : State) : Bool :=
  decide (s.cplxPower = 0) && s.sliceList.all fun sl => decide (s.slicePower sl = 0) || decide (s.slicePower sl = 2)

/-- B9. A slice that is asleep is woken first: the writes wait for it (R143, R407). -/
def State.commitSettings (s : State) : State :=
  if s.atStage 9 = false ∨ s.belfry.running = false then s
  else if s.inPlay = false then s.wakeAll 2
  else
    let t := s.applyRecord.belfryConfig.takeGoldens.wholePass
    let n := t.badRegions
    if globalRegions.any fun r => t.notOk r 0 then t.failStage 9 n t.badSlices
    else t.endStage 9 (fencedResult t.badSlices) n t.badSlices

def execSettingsCommit (s : State) : Out := .next s.commitSettings

end Sys2Proof.Machine
end

