-- ==== Sys2Proof/Machine/Dispatch.lean ====
section
/-! DEFINITION. What each command does to everything but the queue: one arm for each row of the table of operations
and events, each one call of its meaning. -/

namespace Sys2Proof.Machine

/-- The effect of a command. -/
def exec (i : Instr) (s : State) : Host.Outcome State Fault Refusal :=
  match i with
  | .porRelease => Sys2Proof.Machine.execPorRelease s
  | .resetInputLow pin => Sys2Proof.Machine.execResetInputLow pin s
  | .clkOkFall => Sys2Proof.Machine.execClkOkFall s
  | .beatStrobe n => Sys2Proof.Machine.execBeatStrobe n s
  | .beatVisible => Sys2Proof.Machine.execBeatVisible s
  | .clkMeasureWindow mhz => Sys2Proof.Machine.execClkMeasureWindow mhz s
  | .mChange => Sys2Proof.Machine.execMChange s
  | .barBoundary => Sys2Proof.Machine.execBarBoundary s
  | .rhyTableWrite sl tabB phase v ctx => Sys2Proof.Machine.execRhyTableWrite sl tabB phase v ctx s
  | .rhyCtrlWrite sl v ctx => Sys2Proof.Machine.execRhyCtrlWrite sl v ctx s
  | .tableSwitch sl => Sys2Proof.Machine.execTableSwitch sl s
  | .beatArmedSwitch sl => Sys2Proof.Machine.execBeatArmedSwitch sl s
  | .rhyPfenceWrite sl v ctx => Sys2Proof.Machine.execRhyPfenceWrite sl v ctx s
  | .cpRead r => Sys2Proof.Machine.execCpRead r s
  | .cpWrite r d => Sys2Proof.Machine.execCpWrite r d s
  | .cpClvRead r => Sys2Proof.Machine.execCpClvRead r s
  | .cpClvSignal r => Sys2Proof.Machine.execCpClvSignal r s
  | .cpClvTake r => Sys2Proof.Machine.execCpClvTake r s
  | .cpReservedOp r op => Sys2Proof.Machine.execCpReservedOp r op s
  | .requestIssue sl point => Sys2Proof.Machine.execRequestIssue sl point s
  | .mergeDrainAge sl bank => Sys2Proof.Machine.execMergeDrainAge sl bank s
  | .cpResponse sl port => Sys2Proof.Machine.execCpResponse sl port s
  | .cpRemoteResponse sl port => Sys2Proof.Machine.execCpRemoteResponse sl port s
  | .cpFenceInRaise sl port => Sys2Proof.Machine.execCpFenceInRaise sl port s
  | .cpFenceInLower sl port => Sys2Proof.Machine.execCpFenceInLower sl port s
  | .portRcRun sl v ctx => Sys2Proof.Machine.execPortRcRun sl v ctx s
  | .idFrame sl port id check => Sys2Proof.Machine.execIdFrame sl port id check s
  | .idAbsent sl port => Sys2Proof.Machine.execIdAbsent sl port s
  | .idRetry sl port => Sys2Proof.Machine.execIdRetry sl port s
  | .maintenanceClk sl bset t3fail => Sys2Proof.Machine.execMaintenanceClk sl bset t3fail s
  | .historyExpire sl bank => Sys2Proof.Machine.execHistoryExpire sl bank s
  | .rowRetire sl bank => Sys2Proof.Machine.execRowRetire sl bank s
  | .eccRetireRun sl v ctx => Sys2Proof.Machine.execEccRetireRun sl v ctx s
  | .htabStageWrite h word v ctx => Sys2Proof.Machine.execHtabStageWrite h word v ctx s
  | .htabCommit h v ctx => Sys2Proof.Machine.execHtabCommit h v ctx s
  | .handleTakesEffect h => Sys2Proof.Machine.execHandleTakesEffect h s
  | .ctxE0Write c v ctx => Sys2Proof.Machine.execCtxE0Write c v ctx s
  | .ctxKnextWrite c v ctx => Sys2Proof.Machine.execCtxKnextWrite c v ctx s
  | .ownXferGo sl v ctx => Sys2Proof.Machine.execOwnXferGo sl v ctx s
  | .handoverDrainEnd sl => Sys2Proof.Machine.execHandoverDrainEnd sl s
  | .handoverComplete sl => Sys2Proof.Machine.execHandoverComplete sl s
  | .drainTimeout of => Sys2Proof.Machine.execDrainTimeout of s
  | .spTargetRead addr len tag => Sys2Proof.Machine.execSpTargetRead addr len tag s
  | .spTargetWrite addr beats tag => Sys2Proof.Machine.execSpTargetWrite addr beats tag s
  | .spTargetBadOp op tag => Sys2Proof.Machine.execSpTargetBadOp op tag s
  | .spTargetResponse tag => Sys2Proof.Machine.execSpTargetResponse tag s
  | .spInitResponse tag code data => Sys2Proof.Machine.execSpInitResponse tag code data s
  | .syswinWrite win reg v ctx => Sys2Proof.Machine.execSyswinWrite win reg v ctx s
  | .remoteRequestArrive k => Sys2Proof.Machine.execRemoteRequestArrive k s
  | .remoteResponseArrive k => Sys2Proof.Machine.execRemoteResponseArrive k s
  | .burstRelease sl out => Sys2Proof.Machine.execBurstRelease sl out s
  | .shareWindowStart => Sys2Proof.Machine.execShareWindowStart s
  | .qosShareWrite c v ctx => Sys2Proof.Machine.execQosShareWrite c v ctx s
  | .csrPealWrite off v ctx => Sys2Proof.Machine.execCsrPealWrite off v ctx s
  | .memPealWrite off data ben ctx => Sys2Proof.Machine.execMemPealWrite off data ben ctx s
  | .pealDeliver id sl => Sys2Proof.Machine.execPealDeliver id sl s
  | .pealComplete id => Sys2Proof.Machine.execPealComplete id s
  | .mcastStrokeSend g => Sys2Proof.Machine.execMcastStrokeSend g s
  | .mcastLand g r => Sys2Proof.Machine.execMcastLand g r s
  | .mcastAckMerge g n => Sys2Proof.Machine.execMcastAckMerge g n s
  | .mcastResend g => Sys2Proof.Machine.execMcastResend g s
  | .mcastShed g r => Sys2Proof.Machine.execMcastShed g r s
  | .seArm sl slot v ctx => Sys2Proof.Machine.execSeArm sl slot v ctx s
  | .seResume sl slot v ctx => Sys2Proof.Machine.execSeResume sl slot v ctx s
  | .seStop sl slot v ctx => Sys2Proof.Machine.execSeStop sl slot v ctx s
  | .stopComplete sl slot => Sys2Proof.Machine.execStopComplete sl slot s
  | .slotStart sl slot => Sys2Proof.Machine.execSlotStart sl slot s
  | .slotPaused sl slot => Sys2Proof.Machine.execSlotPaused sl slot s
  | .instrFetchArrive sl slot => Sys2Proof.Machine.execInstrFetchArrive sl slot s
  | .descBurstArrive sl slot => Sys2Proof.Machine.execDescBurstArrive sl slot s
  | .nop sl slot => Sys2Proof.Machine.execNop sl slot s
  | .halt sl slot => Sys2Proof.Machine.execHalt sl slot s
  | .mark sl slot => Sys2Proof.Machine.execMark sl slot s
  | .loop sl slot => Sys2Proof.Machine.execLoop sl slot s
  | .endl sl slot => Sys2Proof.Machine.execEndl sl slot s
  | .jump sl slot => Sys2Proof.Machine.execJump sl slot s
  | .knext sl slot => Sys2Proof.Machine.execKnext sl slot s
  | .seth sl slot => Sys2Proof.Machine.execSeth sl slot s
  | .sets sl slot => Sys2Proof.Machine.execSets sl slot s
  | .wait sl slot => Sys2Proof.Machine.execWait sl slot s
  | .waitSatisfied sl slot => Sys2Proof.Machine.execWaitSatisfied sl slot s
  | .signal sl slot => Sys2Proof.Machine.execSignal sl slot s
  | .waitbeat sl slot => Sys2Proof.Machine.execWaitbeat sl slot s
  | .deadline sl slot => Sys2Proof.Machine.execDeadline sl slot s
  | .rearm sl slot => Sys2Proof.Machine.execRearm sl slot s
  | .rearmExecute sl slot => Sys2Proof.Machine.execRearmExecute sl slot s
  | .move sl slot => Sys2Proof.Machine.execMove sl slot s
  | .mcast sl slot => Sys2Proof.Machine.execMcast sl slot s
  | .remote sl slot => Sys2Proof.Machine.execRemote sl slot s
  | .toll sl slot => Sys2Proof.Machine.execToll sl slot s
  | .fill sl slot => Sys2Proof.Machine.execFill sl slot s
  | .copy sl slot => Sys2Proof.Machine.execCopy sl slot s
  | .accin sl slot => Sys2Proof.Machine.execAccin sl slot s
  | .convert sl slot => Sys2Proof.Machine.execConvert sl slot s
  | .gemv sl slot => Sys2Proof.Machine.execGemv sl slot s
  | .reduce sl slot => Sys2Proof.Machine.execReduce sl slot s
  | .wipe sl slot => Sys2Proof.Machine.execWipe sl slot s
  | .scrub sl slot => Sys2Proof.Machine.execScrub sl slot s
  | .illegalOp sl slot => Sys2Proof.Machine.execIllegalOp sl slot s
  | .instructionRetire sl slot => Sys2Proof.Machine.execInstructionRetire sl slot s
  | .seAccessResponse sl slot k => Sys2Proof.Machine.execSeAccessResponse sl slot k s
  | .fencedReissue sl slot => Sys2Proof.Machine.execFencedReissue sl slot s
  | .guardHeldRetry sl slot => Sys2Proof.Machine.execGuardHeldRetry sl slot s
  | .strikeStep sl bset => Sys2Proof.Machine.execStrikeStep sl bset s
  | .accumTake sl slot => Sys2Proof.Machine.execAccumTake sl slot s
  | .reductionTree sl slot => Sys2Proof.Machine.execReductionTree sl slot s
  | .strkSeedWrite sl bank v ctx => Sys2Proof.Machine.execStrkSeedWrite sl bank v ctx s
  | .semPairWrite sl n v ctx => Sys2Proof.Machine.execSemPairWrite sl n v ctx s
  | .semOpSignal sl v ctx => Sys2Proof.Machine.execSemOpSignal sl v ctx s
  | .semOpTake sl v ctx => Sys2Proof.Machine.execSemOpTake sl v ctx s
  | .errorRecordWrite => Sys2Proof.Machine.execErrorRecordWrite s
  | .ceWindowEnd sl => Sys2Proof.Machine.execCeWindowEnd sl s
  | .errRdWrite v ctx => Sys2Proof.Machine.execErrRdWrite v ctx s
  | .errFirstclr v ctx => Sys2Proof.Machine.execErrFirstclr v ctx s
  | .scrubCtlGo sl v ctx => Sys2Proof.Machine.execScrubCtlGo sl v ctx s
  | .scrubCtlStop sl v ctx => Sys2Proof.Machine.execScrubCtlStop sl v ctx s
  | .scrubPassComplete sl => Sys2Proof.Machine.execScrubPassComplete sl s
  | .tunerPassStart => Sys2Proof.Machine.execTunerPassStart s
  | .tunerScanEnd r inst => Sys2Proof.Machine.execTunerScanEnd r inst s
  | .tunerReloadDone r inst => Sys2Proof.Machine.execTunerReloadDone r inst s
  | .tunerRecheck r v ctx => Sys2Proof.Machine.execTunerRecheck r v ctx s
  | .tunerRebase r v ctx => Sys2Proof.Machine.execTunerRebase r v ctx s
  | .belfryChallenge words => Sys2Proof.Machine.execBelfryChallenge words s
  | .tunerChexpGo v ctx => Sys2Proof.Machine.execTunerChexpGo v ctx s
  | .challengeResult => Sys2Proof.Machine.execChallengeResult s
  | .challengeLate => Sys2Proof.Machine.execChallengeLate s
  | .sliceDampRequest sl ctx => Sys2Proof.Machine.execSliceDampRequest sl ctx s
  | .sliceOffRequest sl ctx => Sys2Proof.Machine.execSliceOffRequest sl ctx s
  | .slicePlayRequest sl ctx => Sys2Proof.Machine.execSlicePlayRequest sl ctx s
  | .cplxDampRequest ctx => Sys2Proof.Machine.execCplxDampRequest ctx s
  | .cplxTapRequest ctx => Sys2Proof.Machine.execCplxTapRequest ctx s
  | .cplxPlayRequest ctx => Sys2Proof.Machine.execCplxPlayRequest ctx s
  | .powerEntryStep target => Sys2Proof.Machine.execPowerEntryStep target s
  | .wakeEvent target cause => Sys2Proof.Machine.execWakeEvent target cause s
  | .wakeStepReady target => Sys2Proof.Machine.execWakeStepReady target s
  | .wakeStepTimeout target => Sys2Proof.Machine.execWakeStepTimeout target s
  | .offRestoreDone sl => Sys2Proof.Machine.execOffRestoreDone sl s
  | .tapClkReq => Sys2Proof.Machine.execTapClkReq s
  | .tapBurst => Sys2Proof.Machine.execTapBurst s
  | .tapSleep => Sys2Proof.Machine.execTapSleep s
  | .pwrVreqGo v ctx => Sys2Proof.Machine.execPwrVreqGo v ctx s
  | .pwrVreqClr v ctx => Sys2Proof.Machine.execPwrVreqClr v ctx s
  | .avsAck ack data => Sys2Proof.Machine.execAvsAck ack data s
  | .avsBusyRetry => Sys2Proof.Machine.execAvsBusyRetry s
  | .avsVoltagePoll mv => Sys2Proof.Machine.execAvsVoltagePoll mv s
  | .avsTimeout => Sys2Proof.Machine.execAvsTimeout s
  | .sensorWindow sl temp => Sys2Proof.Machine.execSensorWindow sl temp s
  | .droopEvent sl => Sys2Proof.Machine.execDroopEvent sl s
  | .imageBoot => Sys2Proof.Machine.execImageBoot s
  | .fuseCopy => Sys2Proof.Machine.execFuseCopy s
  | .hardwareFill => Sys2Proof.Machine.execHardwareFill s
  | .fastCheck failing => Sys2Proof.Machine.execFastCheck failing s
  | .bist faults startMv => Sys2Proof.Machine.execBist faults startMv s
  | .repairApply => Sys2Proof.Machine.execRepairApply s
  | .settingsRead version logicMv arrayMv => Sys2Proof.Machine.execSettingsRead version logicMv arrayMv s
  | .settingsCommit => Sys2Proof.Machine.execSettingsCommit s
  | .fullRelease => Sys2Proof.Machine.execFullRelease s
  | .portReset sl port ctx => Sys2Proof.Machine.execPortReset sl port ctx s
  | .engineReset sl ctx => Sys2Proof.Machine.execEngineReset sl ctx s
  | .sliceReset sl ctx => Sys2Proof.Machine.execSliceReset sl ctx s
  | .partitionReset q ctx => Sys2Proof.Machine.execPartitionReset q ctx s
  | .warmReset ctx => Sys2Proof.Machine.execWarmReset ctx s
  | .belfryReset ctx => Sys2Proof.Machine.execBelfryReset ctx s
  | .fullReset ctx => Sys2Proof.Machine.execFullReset ctx s
  | .resetDrainEnd => Sys2Proof.Machine.execResetDrainEnd s
  | .ctxKillWrite v ctx => Sys2Proof.Machine.execCtxKillWrite v ctx s
  | .killMarkArrive c sl => Sys2Proof.Machine.execKillMarkArrive c sl s
  | .killDrainEnd c => Sys2Proof.Machine.execKillDrainEnd c s
  | .killComplete c => Sys2Proof.Machine.execKillComplete c s
  | .ctxSoloWrite v ctx => Sys2Proof.Machine.execCtxSoloWrite v ctx s
  | .fpWriteIn p => Sys2Proof.Machine.execFpWriteIn p s
  | .fpWritepIn p => Sys2Proof.Machine.execFpWritepIn p s
  | .fpReadIn p => Sys2Proof.Machine.execFpReadIn p s
  | .fpWrspIn p => Sys2Proof.Machine.execFpWrspIn p s
  | .fpRdataIn p => Sys2Proof.Machine.execFpRdataIn p s
  | .fpKnellIn p => Sys2Proof.Machine.execFpKnellIn p s
  | .fpBadPacket p => Sys2Proof.Machine.execFpBadPacket p s
  | .fpPacketSend sl slot => Sys2Proof.Machine.execFpPacketSend sl slot s
  | .chwinOpen w v ctx => Sys2Proof.Machine.execChwinOpen w v ctx s
  | .chwinClose w v ctx => Sys2Proof.Machine.execChwinClose w v ctx s
  | .chwinDrainDone w => Sys2Proof.Machine.execChwinDrainDone w s
  | .chwinDtmo w => Sys2Proof.Machine.execChwinDtmo w s
  | .fpKnellGo v ctx => Sys2Proof.Machine.execFpKnellGo v ctx s
  | .knellSend => Sys2Proof.Machine.execKnellSend s
  | .mboxInfo => Sys2Proof.Machine.execMboxInfo s
  | .mboxSensors current temperature => Sys2Proof.Machine.execMboxSensors current temperature s
  | .logRead => Sys2Proof.Machine.execLogRead s
  | .dumpDir => Sys2Proof.Machine.execDumpDir s
  | .dumpRead => Sys2Proof.Machine.execDumpRead s
  | .dumpCapture => Sys2Proof.Machine.execDumpCapture s
  | .dumpFree => Sys2Proof.Machine.execDumpFree s
  | .updBegin => Sys2Proof.Machine.execUpdBegin s
  | .updData => Sys2Proof.Machine.execUpdData s
  | .updEnd => Sys2Proof.Machine.execUpdEnd s
  | .repairSave => Sys2Proof.Machine.execRepairSave s
  | .lcNonce => Sys2Proof.Machine.execLcNonce s
  | .lcChange => Sys2Proof.Machine.execLcChange s
  | .mboxUnknown => Sys2Proof.Machine.execMboxUnknown s
  | .mboxNotServing v ctx => Sys2Proof.Machine.execMboxNotServing v ctx s
  | .mboxCommandDone => Sys2Proof.Machine.execMboxCommandDone s
  | .flashPoll busy => Sys2Proof.Machine.execFlashPoll busy s
  | .flashTimeout => Sys2Proof.Machine.execFlashTimeout s
  | .belfryTrap => Sys2Proof.Machine.execBelfryTrap s
  | .logRecord => Sys2Proof.Machine.execLogRecord s
  | .csrWrite addr v ctx => Sys2Proof.Machine.execCsrWrite addr v ctx s
  | .stageB7RollCall => Sys2Proof.Machine.execStageB7RollCall s

end Sys2Proof.Machine
end

