-- ==== Sys2Proof/Safety.lean ====
section
/-! DEFINITION. What claims are stated in: the canonical form of the whole state, what no command changes, the
conditions under which a register access is served at once, and which operations only touch registers. -/

namespace Sys2Proof.Machine

/-! ### The canonical form -/

/-- The storage is in its canonical form: cells, written bits, banks, the three repair maps, vector buffers and epochs. -/
def Mem.Canon (m : Mem) : Prop :=
  m.wf = true ∧ Tbl.wf (fun _ => Bank.init) m.banks = true ∧ Tbl.wf (fun _ => 0) m.remap = true ∧
    Tbl.wf (fun _ => none) m.vec = true ∧ Tbl.wf (fun _ => 0) m.epoch = true ∧ Tbl.wf (fun _ => 0) m.group = true ∧
    Tbl.wf (fun _ => 0) m.spare = true

/-- Registers, units and storage are in their canonical form, so that equal contents are equal data. -/
def State.Canon (s : State) : Prop :=
  s.mem.Canon ∧ Tbl.wf s.build.resetVal s.csr = true ∧ Tbl.wf (fun _ => SliceSt.init) s.slices = true ∧
    Tbl.wf (fun _ => Port.init) s.ports = true ∧ Tbl.wf (fun _ => Slot.init) s.slots = true ∧
    Tbl.wf (fun _ => 0xFF) s.belfry.flash = true ∧ Tbl.wf (fun _ => 0) s.belfry.dumpStore = true

/-! ### What no command changes -/

/-- The fuse array but for the life-cycle code, the only fuses that a command blows (R355, R401). -/
def Fuse.array (f : Fuse) : Fuse := { f with lifeCycle := 0 }

/-- What lies between a state and one that comes after it by the part's own doing: the build, the fuse array but for
the life-cycle code, and the queue of waiting commands stay; a canonical state stays canonical. -/
def State.Kept (s t : State) : Prop :=
  t.build = s.build ∧ t.fuse.array = s.fuse.array ∧ t.pending = s.pending ∧ (s.Canon → t.Canon)

/-! ### When a register access is served at once -/

/-- Nothing stands in the way of an access of context `ctx` to register `a` (R125, R338, R315, R405, R407): the context
reaches CSR space, it is served, the complex is in Play, and so is the slice of a slice register, which exists. -/
def State.plain (s : State) (a ctx : Nat) : Bool :=
  (decide (ctx = 0) || decide (ctx = 63)) && s.csrUp && decide (s.cplxPower = 0) &&
    match sliceOf a with
    | none => true
    | some (sl, _) => s.hasSlice sl && decide (s.slicePower sl = 0)

/-! ### Client ports -/

/-- The state at clock edge `e` of a port, what its converter holds being settled. -/
def State.atEdge (s : State) (sl p e : Nat) : State := (s.reach (s.edgeClk p e)).settlePort sl p 0

/-! ### Lead and Follow -/

/-- The state in which Lead of a slice chooses: what could be presented before has been, and the slots have asked for the
command records that they wait for (R162, R163). -/
def State.asked (s : State) (sl : Nat) : State := (s.pumpSlice sl).askRecords sl

/-- Lead of slice `sl` comes to decode instruction `w`, of opcode `op`, from slot `j` next (R163, R172). -/
def State.Leads (s : State) (sl j op : Nat) (w : Word) : Prop :=
  s.hasSlot sl j = true ∧ (s.asked sl).instrAt sl j = some w ∧ (s.asked sl).leadSlot sl = some j ∧ opOf w = op ∧
    legalOp w = true

/-- The state in which that instruction is decoded: what could be presented before it has been. -/
def State.led (s : State) (sl j : Nat) : State :=
  let u := s.asked sl
  let t := u.reach (u.slice sl).leadAt
  t.modSlice sl fun x => { x with leadTurn := j, leadAt := t.now + 1, recWait := x.recWait.erase j }

/-- Follow may execute instruction `i`, of opcode `op`, the oldest of slot `j` (R166, R171). -/
def State.Follows (s : State) (sl j op : Nat) (i : Inst) : Prop :=
  (s.slot sl j).headIs op = some i ∧ s.slotState sl j = 2 ∧ (s.slot sl j).free i.no = true ∧ i.sent = false ∧
    s.ctxRuns sl j = true ∧ s.engineMay sl = true

/-- The state in which Follow executes it. -/
def State.followed (s : State) (sl j : Nat) : State := s.reach (s.slot sl j).followAt

/-- The S, H and loop registers of slot `j` of slice `sl` are the same in both states. -/
def State.SameSlotRegs (s t : State) (sl j : Nat) : Prop :=
  (∀ n, n < 16 → t.sreg sl j n = s.sreg sl j n) ∧ (∀ n, n < 8 → t.hreg sl j n = s.hreg sl j n) ∧
    (∀ n, n < 4 → t.lreg sl j n = s.lreg sl j n)

/-- Slot `j` runs and stands at instruction `n`, unless a fault that was pending has halted it in the same clk (R184). -/
def State.GoesOnAt (t : State) (sl j n : Nat) : Prop :=
  t.slotState sl j = 4 ∨ (t.slotState sl j = 2 ∧ t.pc sl j = n)

/-- Slot `j` is in the same state and at the same instruction, unless a fault that was pending has halted it (R184). -/
def State.StaysAt (s t : State) (sl j : Nat) : Prop :=
  t.slotState sl j = 4 ∨ (t.slotState sl j = s.slotState sl j ∧ t.pc sl j = s.pc sl j)

/-! ### What a family of commands leaves alone -/

/-- Only registers change, with what they have in force, the records that refused writes raise, the Tuner's golden
signatures, and wakes: what a register access may do by itself. -/
def State.OnlyRegs (s t : State) : Prop :=
  t = { s with csr := t.csr, force := t.force, slices := t.slices, errors := t.errors, tuner := t.tuner, power := t.power }

/-- Only what a stream engine works on changes: time, registers, storage, slices, slots, the mesh, the outbound side of the
fabric port, error records, and kills that an error begins. -/
def State.OnlyEngine (s t : State) : Prop :=
  t = { s with
    pins := t.pins, time := t.time, csr := t.csr, mem := t.mem, slices := t.slices, slots := t.slots, net := t.net
    fabric := t.fabric, errors := t.errors, boot := t.boot }

/-- The storage stays as it is: every cell, written bit, bank, repair and line of a vector buffer. -/
def State.SameMem (s t : State) : Prop := t.mem = s.mem

end Sys2Proof.Machine

namespace Sys2Proof

/-! ### Which commands reach something -/

/-- The part that a command names exists: its slice, port, slot, bank, phase, pair, entry, group, window or register, with
a length and a tag that the part's wires can carry (R24, R77, R78, R113, R123, R142, R144, R257, R368). -/
def Instr.reaches (s : Machine.State) : Instr → Bool
  | .rhyTableWrite sl _ phase _ _ => decide (phase < 32) && s.hasSlice sl
  | .rhyCtrlWrite sl _ _ | .tableSwitch sl | .beatArmedSwitch sl | .rhyPfenceWrite sl _ _ => s.hasSlice sl
  | .cpRead r => s.hasPort r.sl r.port
  | .cpWrite r _ => s.hasPort r.sl r.port
  | .cpReservedOp r _ => s.hasPort r.sl r.port
  | .cpClvRead r | .cpClvSignal r | .cpClvTake r => s.hasPort r.sl r.port
  | .requestIssue sl p => s.hasPoint p && s.hasSlice sl
  | .mergeDrainAge sl b | .historyExpire sl b | .rowRetire sl b => decide (b < 64) && s.hasSlice sl
  | .cpResponse sl p | .cpRemoteResponse sl p | .cpFenceInRaise sl p | .cpFenceInLower sl p => s.hasPort sl p
  | .portRcRun sl _ _ => s.hasSlice sl
  | .idFrame sl p _ _ => s.hasPort sl p
  | .idAbsent sl p | .idRetry sl p => s.hasPort sl p
  | .maintenanceClk sl g _ => decide (g < 8) && s.hasSlice sl
  | .eccRetireRun sl _ _ | .ownXferGo sl _ _ => s.hasSlice sl
  | .htabStageWrite h w _ _ => decide (h < 4096 ∧ w < 3)
  | .htabCommit h _ _ => decide (h < 4096)
  | .handleTakesEffect h => decide (h < 4096)
  | .ctxE0Write c _ _ | .ctxKnextWrite c _ _ => decide (c < 64)
  | .handoverDrainEnd sl | .handoverComplete sl => s.hasSlice sl
  | .drainTimeout (.handover sl) => s.hasSlice sl
  | .drainTimeout (.kill c) => decide (c < 64)
  | .spTargetRead _ n tag => decide (n < 64 ∧ tag < 64)
  | .spTargetWrite _ beats tag => decide (beats.length ≠ 0 ∧ beats.length ≤ 64 ∧ tag < 64)
  | .spTargetBadOp op tag => decide (op < 4 ∧ tag < 64)
  | .syswinWrite i reg _ _ => decide (i < 16 ∧ reg < 4)
  | .burstRelease sl out => decide (out < 6) && s.hasSlice sl
  | .qosShareWrite c _ _ => decide (c < 8)
  | .csrPealWrite off _ _ => decide (off < 0x10000 ∧ off % 8 = 0)
  | .memPealWrite off _ _ _ => decide (off < 0x100000 ∧ off % 64 = 0)
  | .pealDeliver _ sl => s.hasSlice sl
  | .mcastStrokeSend g | .mcastAckMerge g _ | .mcastResend g => decide (g < 16)
  | .mcastLand g r | .mcastShed g r => decide (g < 16) && s.hasSlice r
  | .seArm sl j _ _ | .seResume sl j _ _ | .seStop sl j _ _ => s.hasSlot sl j
  | .stopComplete sl j | .slotStart sl j | .slotPaused sl j | .instrFetchArrive sl j | .descBurstArrive sl j
  | .nop sl j | .halt sl j | .mark sl j | .loop sl j | .endl sl j | .jump sl j | .knext sl j | .seth sl j | .sets sl j
  | .wait sl j | .waitSatisfied sl j | .signal sl j | .waitbeat sl j | .deadline sl j | .rearm sl j | .rearmExecute sl j
  | .move sl j | .mcast sl j | .remote sl j | .toll sl j | .fill sl j | .copy sl j | .accin sl j | .convert sl j
  | .gemv sl j | .reduce sl j | .wipe sl j | .scrub sl j | .illegalOp sl j | .instructionRetire sl j
  | .fencedReissue sl j | .guardHeldRetry sl j | .accumTake sl j | .reductionTree sl j => s.hasSlot sl j
  | .seAccessResponse sl j _ => s.hasSlot sl j
  | .strikeStep sl g => decide (g < 8) && s.hasSlice sl
  | .strkSeedWrite sl b _ _ => decide (b < 64) && s.hasSlice sl
  | .semPairWrite sl n _ _ => decide (n < 256) && s.hasSlice sl
  | .semOpSignal sl _ _ | .semOpTake sl _ _ | .scrubCtlGo sl _ _ | .scrubCtlStop sl _ _ => s.hasSlice sl
  | .ceWindowEnd sl | .scrubPassComplete sl => s.hasSlice sl
  | .tunerScanEnd r _ | .tunerReloadDone r _ => decide (r < 11)
  | .tunerRecheck r _ _ | .tunerRebase r _ _ => decide (r < 11)
  | .sliceDampRequest sl _ | .sliceOffRequest sl _ | .slicePlayRequest sl _ => s.hasSlice sl
  | .powerEntryStep (.slice sl) | .wakeStepReady (.slice sl) | .wakeStepTimeout (.slice sl) => s.hasSlice sl
  | .wakeEvent (.slice sl) _ => s.hasSlice sl
  | .offRestoreDone sl | .droopEvent sl => s.hasSlice sl
  | .sensorWindow sl _ => s.hasSlice sl
  | .portReset sl p _ => s.hasPort sl p
  | .engineReset sl _ | .sliceReset sl _ => s.hasSlice sl
  | .partitionReset q _ => decide (q < s.nParts)
  | .killMarkArrive c sl => decide (c < 64) && s.hasSlice sl
  | .killDrainEnd c | .killComplete c => decide (c < 64)
  | .fpWriteIn _ | .fpWritepIn _ | .fpReadIn _ | .fpWrspIn _ | .fpRdataIn _ | .fpKnellIn _ | .fpBadPacket _ =>
    decide (s.build.chipwin ≠ 0)
  | .fpPacketSend sl j => decide (s.build.chipwin ≠ 0) && s.hasSlot sl j
  | .chwinOpen w _ _ | .chwinClose w _ _ => decide (w < 64)
  | .chwinDrainDone w | .chwinDtmo w => decide (w < s.build.chipwin)
  | _ => true

/-! ### Which commands act on what -/

/-- Commands that are a register access or a record of one, and no more. -/
def Instr.registersOnly : Instr → Bool
  | .rhyTableWrite .. | .rhyCtrlWrite .. | .htabStageWrite .. | .syswinWrite .. | .strkSeedWrite ..
  | .semOpSignal .. | .errorRecordWrite .. | .errRdWrite .. | .errFirstclr .. | .scrubCtlGo ..
  | .scrubCtlStop .. | .belfryChallenge .. | .tunerChexpGo .. | .sliceDampRequest .. | .sliceOffRequest ..
  | .slicePlayRequest .. | .cplxDampRequest .. | .cplxTapRequest .. | .cplxPlayRequest .. | .wakeEvent ..
  | .pwrVreqGo .. | .pwrVreqClr .. | .fpRdataIn .. | .fpBadPacket .. => true
  | _ => false

/-- Commands of the stream engines and of what they work on, that the ports, the system port, the beat, power and Belfry do
not see. -/
def Instr.engineOnly : Instr → Bool
  | .clkMeasureWindow .. | .mChange .. | .mergeDrainAge .. | .historyExpire .. | .burstRelease ..
  | .shareWindowStart .. | .mcastStrokeSend .. | .mcastAckMerge .. | .mcastResend .. | .mcastShed ..
  | .stopComplete .. | .slotPaused .. | .instrFetchArrive .. | .descBurstArrive .. | .nop .. | .halt ..
  | .loop .. | .endl .. | .jump .. | .seth .. | .sets .. | .wait .. | .waitSatisfied .. | .signal ..
  | .waitbeat .. | .deadline .. | .rearm .. | .rearmExecute .. | .move .. | .mcast .. | .remote .. | .toll ..
  | .fill .. | .copy .. | .accin .. | .convert .. | .gemv .. | .reduce .. | .wipe .. | .scrub ..
  | .illegalOp .. | .instructionRetire .. | .seAccessResponse .. | .fencedReissue .. | .strikeStep ..
  | .accumTake .. | .reductionTree .. | .errorRecordWrite .. | .ceWindowEnd .. | .scrubPassComplete ..
  | .killComplete .. | .fpPacketSend .. | .chwinDrainDone .. | .chwinDtmo .. | .knellSend .. => true
  | _ => false

/-- Commands that read, write, repair and wipe nothing that is stored. -/
def Instr.leavesStorage : Instr → Bool
  | .porRelease .. | .beatStrobe .. | .clkMeasureWindow .. | .mChange .. | .barBoundary .. | .rhyTableWrite ..
  | .rhyCtrlWrite .. | .tableSwitch .. | .beatArmedSwitch .. | .cpRead .. | .cpWrite .. | .cpClvRead ..
  | .cpClvSignal .. | .cpClvTake .. | .cpReservedOp .. | .cpResponse .. | .cpRemoteResponse ..
  | .cpFenceInRaise .. | .cpFenceInLower .. | .portRcRun .. | .idFrame .. | .idAbsent .. | .idRetry ..
  | .htabStageWrite .. | .htabCommit .. | .handleTakesEffect .. | .spInitResponse .. | .syswinWrite ..
  | .remoteRequestArrive .. | .burstRelease .. | .shareWindowStart .. | .qosShareWrite .. | .csrPealWrite ..
  | .memPealWrite .. | .pealComplete .. | .mcastResend .. | .stopComplete .. | .strkSeedWrite ..
  | .semPairWrite .. | .semOpSignal .. | .semOpTake .. | .errorRecordWrite .. | .ceWindowEnd ..
  | .errRdWrite .. | .errFirstclr .. | .scrubCtlGo .. | .scrubCtlStop .. | .tunerPassStart ..
  | .belfryChallenge .. | .tunerChexpGo .. | .challengeResult .. | .challengeLate .. | .sliceDampRequest ..
  | .sliceOffRequest .. | .slicePlayRequest .. | .cplxDampRequest .. | .cplxTapRequest ..
  | .cplxPlayRequest .. | .wakeEvent .. | .tapClkReq .. | .tapSleep .. | .pwrVreqGo .. | .pwrVreqClr ..
  | .avsAck .. | .avsBusyRetry .. | .avsVoltagePoll .. | .avsTimeout .. | .sensorWindow .. | .droopEvent ..
  | .imageBoot .. | .fastCheck .. | .settingsRead .. | .fullRelease .. | .ctxKillWrite .. | .fpWriteIn ..
  | .fpWritepIn .. | .fpReadIn .. | .fpRdataIn .. | .fpKnellIn .. | .fpBadPacket .. | .chwinOpen ..
  | .chwinClose .. | .chwinDrainDone .. | .chwinDtmo .. | .fpKnellGo .. | .knellSend .. | .mboxInfo ..
  | .mboxSensors .. | .logRead .. | .dumpDir .. | .dumpRead .. | .dumpCapture .. | .dumpFree .. | .updBegin ..
  | .updData .. | .updEnd .. | .repairSave .. | .lcNonce .. | .lcChange .. | .mboxUnknown ..
  | .mboxNotServing .. | .flashPoll .. | .flashTimeout .. | .belfryTrap .. | .logRecord ..
  | .stageB7RollCall .. => true
  | _ => false

/-- Commands that Belfry carries out within itself. -/
def Instr.belfryOnly : Instr → Bool
  | .mboxInfo .. | .logRead .. | .dumpDir .. | .dumpRead .. | .dumpFree .. | .updBegin .. | .updData ..
  | .repairSave .. | .mboxUnknown .. | .flashPoll .. => true
  | _ => false

/-- Commands that change the beat: a strobe, its becoming visible, and what restarts the complex. -/
def Instr.movesBeat : Instr → Bool
  | .resetInputLow .. | .clkOkFall .. | .beatStrobe .. | .beatVisible .. | .drainTimeout ..
  | .resetDrainEnd .. => true
  | _ => false

end Sys2Proof
end

