-- ==== Sys2Proof/Certificates/Slice0/Obligations.lean ====
section
/-! DEFINITION. The statements for the provers. Each is a property of the model's commands, its step or its state after
reset; its docstring says which rules of the spec it formalises, or that it is the model's own choice. -/

open Sys2Proof Sys2Proof.Machine

/-! ### The block: queue, time, reset, invariants -/

/-- O1, tier 1, 00_scope.md, 95_what_each_step_holds.md. For every command and state, a step with the command at the front
of the queue is the command's effect on the state with the rest of the queue. The queue is the model's own (assumption
log, entry 1). -/
def Obligations.StepRunsTheFront : Prop :=
  ∀ (c : Instr) (rest : List Instr) (s : State), step { s with pending := c :: rest } = exec c { s with pending := rest }

/-- O2, tier 1, R18, R320, R408. On an empty queue a step lets one clk pass: the clk counter rises by 1 and IRQ_HOST shows
whether some cause is raised and enabled; while clk is stopped, one reference clock passes and nothing else does, and without PGOOD not
even that. That the empty queue is where time passes is the model's choice (entry 1). -/
def Obligations.StepIdles : Prop :=
  ∀ s : State, s.pending = [] →
    (s.pins.clkOk = true → ∃ t, step s = .next t ∧ t.now = s.now + 1 ∧ t.pins.irqHost = s.irqWanted ∧
      (∀ a, t.rd a = s.rd a) ∧ t.mem = s.mem ∧ t.ports = s.ports ∧ t.slots = s.slots ∧ t.slices = s.slices) ∧
    (s.pins.clkOk = false → s.pins.pgood = true →
      step s = .next { s with time := { s.time with ref := s.time.ref + 1 } }) ∧
    (s.pins.clkOk = false → s.pins.pgood = false → step s = .next s)

/-- O3, tier 1, R406, R335, R36. After reset every register reads the value of its Reset column for the instance of R24
(registers whose Reset column the spec leaves open hold the values that the assumption log names), no command waits,
no bank is repaired, and no port, slot, mesh, system-port or fabric transfer is in progress. -/
def Obligations.ResetState : Prop :=
  (∀ a, State.reset.rd a = Build.default.resetVal a) ∧ State.reset.pending = [] ∧ State.reset.ports = [] ∧
    State.reset.slots = [] ∧ State.reset.slices = [] ∧ State.reset.mem.remap = [] ∧ State.reset.mem.group = [] ∧
    State.reset.mem.spare = [] ∧ State.reset.net.pkts = [] ∧
    State.reset.sysport.txns = [] ∧ State.reset.fabric.outbound = []

/-- O4, tier 1, R406, R36. The state after reset is in the canonical form: tables by rising number, listing only what
differs from an unlisted entry. The canonical form is the model's own. -/
def Obligations.ResetCanonical : Prop :=
  State.reset.Canon

/-- O5, tier 3, R24, R355, R401, R36. Every command whose slice, port, slot, bank, pair, entry, window or register exists
completes, in every state and with all other operands at any value; one that names a part that the build does not have
is refused as such. The state after it has the same build parameters, the same fuse array but for the life-cycle code,
and the same queue of waiting commands, and if the state was in canonical form (equal storage and equal registers are
equal data), so is the next. -/
def Obligations.EveryCommandKeeps : Prop :=
  ∀ (c : Instr) (s : State),
    (c.reaches s = true → ∃ t : State, exec c s = .next t ∧ s.Kept t) ∧
    (c.reaches s = false → exec c s = .refused .noSuchUnit)

/-- O6, tier 3, R24, R355, R401, R36. Every step that answers a next state keeps the canonical form of registers, units
and storage, the build parameters and the fuse array but for the life-cycle code, and takes at most the front of the
queue. -/
def Obligations.EveryStepKeeps : Prop :=
  ∀ s t : State, step s = .next t →
    (s.Canon → t.Canon) ∧ t.build = s.build ∧ t.fuse.array = s.fuse.array ∧ t.pending = s.pending.drop 1

/-! ### Bring-up inputs, clock, beat and bars -/

/-- O7, tier 2, R19, R20. A beat strobe with count n, sampled in a clk whose predecessor had none, completes with the outcome
of the table of R20. The first strobe after release is accepted. With b the count of the last accepted strobe: n above
b and at least 32 clk after it is accepted, with SKIP set when n exceeds b + 1; n not above b sets BACK, fewer than 32
clk sets FAST, both when both hold, and the count b stays. Every setting sets GLB_IRQ_CAUSE.BEAT. Nothing else changes
but the counts that are not yet visible. A strobe still high from the clk before is the same strobe and sets nothing;
none is sampled before release or with clk stopped. -/
def Obligations.BeatStrobeTable : Prop :=
  (∀ (s : State) (n : BitVec 48), s.boot.released = true → s.pins.clkOk = true → s.strobeHeld = false → ∃ t : State,
    exec (.beatStrobe n) s = .next t ∧ t = { s with csr := t.csr, beat := t.beat, errors := { s.errors with causes := t.errors.causes } } ∧ t.beat.high = some s.now ∧
    (∀ a, a ≠ A.glbBeat → a ≠ A.glbIrqCause → t.rd a = s.rd a) ∧
    (∀ i, i ≠ 48 → i ≠ 49 → i ≠ 50 → t.getB A.glbBeat i = s.getB A.glbBeat i) ∧
    (∀ i, i ≠ 0 → t.getB A.glbIrqCause i = s.getB A.glbIrqCause i) ∧
    match s.beat.last with
    | none => t.beat.last = some (n.toNat, s.now) ∧ t.rd A.glbBeat = s.rd A.glbBeat ∧ t.rd A.glbIrqCause = s.rd A.glbIrqCause
    | some (b, c) =>
      if n.toNat ≤ b ∨ s.now < c + 32 then
        t.beat = { s.beat with high := some s.now } ∧ t.getB A.glbBeat 48 = s.getB A.glbBeat 48 ∧
          t.getB A.glbBeat 49 = (s.getB A.glbBeat 49 || decide (n.toNat ≤ b)) ∧
          t.getB A.glbBeat 50 = (s.getB A.glbBeat 50 || decide (s.now < c + 32)) ∧ t.getB A.glbIrqCause 0 = true
      else
        t.beat.last = some (n.toNat, s.now) ∧
          t.getB A.glbBeat 48 = (s.getB A.glbBeat 48 || decide (b + 1 < n.toNat)) ∧
          t.getB A.glbBeat 49 = s.getB A.glbBeat 49 ∧ t.getB A.glbBeat 50 = s.getB A.glbBeat 50 ∧
          t.getB A.glbIrqCause 0 = (s.getB A.glbIrqCause 0 || decide (b + 1 < n.toNat))) ∧
  (∀ (s : State) (n : BitVec 48), s.boot.released = true → s.pins.clkOk = true → s.strobeHeld = true →
    exec (.beatStrobe n) s = .next { s with beat := { s.beat with high := some s.now } }) ∧
  (∀ (s : State) (n : BitVec 48), s.boot.released = false ∨ s.pins.clkOk = false → exec (.beatStrobe n) s = .next s)

/-- O8, tier 2, R21, R22. An accepted strobe leaves its count waiting for the clk 3 after the strobe. The earliest waiting
count becomes visible in its clk, and the command of it completes: GLB_BEAT.COUNT reads it, VALID reads 1, it waits no
longer, and every slice in turn has seen it (beatIn) in that clk and tested the conditions that held its slots, which
moves no port, no system-port transfer, no power state and nothing of Belfry. -/
def Obligations.BeatBecomesVisible : Prop :=
  (∀ (s : State) (n : BitVec 48), s.boot.released = true → s.pins.clkOk = true → s.strobeHeld = false → s.beat.last = none →
    ∃ t : State, exec (.beatStrobe n) s = .next t ∧ t.beat.coming = s.beat.coming ++ [(n.toNat, s.now + 3)]) ∧
  (∀ (s : State) (n c : Nat) (rest : List (Nat × Nat)), s.beat.coming = (n, c) :: rest → n < 2 ^ 48 → ∃ t : State,
    exec .beatVisible s = .next t ∧ t.now = max s.now c ∧ t.beatCount = n ∧ t.beatValid = true ∧
      t.beat = { s.beat with coming := rest, seenAt := max s.now c } ∧ t.ports = s.ports ∧ t.sysport = s.sysport ∧
      t.power = s.power ∧ t.belfry = s.belfry ∧ t.tuner = s.tuner ∧
      ∃ u : State, t = u.sliceList.foldl (fun t sl => t.beatIn sl) u ∧ u.now = max s.now c ∧ u.beatCount = n ∧
        u.beatValid = true ∧ (∀ a, a ≠ A.glbBeat → u.rd a = s.rd a) ∧ u.mem = s.mem ∧ u.slots = s.slots)

/-- O9, tier 2, R62, R63. A completed window reports its measurement in GLB_MAINT.MEAS. A measurement in a range of higher
M than the one in force or decided raises the decided M to it at once and sets RAISED; one in a range of lower M is
noted, and the sixteenth in a row, with LOCK clear, decides the largest M among those ranges, never below M_MIN; one
in the same range starts the count of windows afresh. Registers other than GLB_MAINT, and everything but the clock's
own state, stay. -/
def Obligations.ClockMeasured : Prop :=
  ∀ (s : State) (mhz : Nat), mhz < 4096 → ∃ t : State, exec (.clkMeasureWindow mhz) s = .next t ∧
    t = { s with csr := t.csr, time := t.time } ∧ (∀ a, a ≠ A.glbMaint → t.rd a = s.rd a) ∧
    t.getF A.glbMaint 8 12 = mhz ∧ t.time.mhz = mhz ∧
    (s.time.nextM < logM mhz → t.time.nextM = logM mhz ∧ t.time.lows = [] ∧ t.getB A.glbMaint 7 = true) ∧
    (logM mhz < s.time.nextM → (s.time.lows.length < 15 ∨ s.getB A.glbMaint 4 = true) →
      t.time.nextM = s.time.nextM ∧ t.time.lows = (logM mhz :: s.time.lows).take 16) ∧
    (logM mhz < s.time.nextM → 15 ≤ s.time.lows.length → s.getB A.glbMaint 4 = false →
      t.time.nextM = max (((logM mhz :: s.time.lows).take 16).foldl max 0) s.mMin ∧ t.time.lows = []) ∧
    (logM mhz = s.time.nextM → t.time.nextM = s.time.nextM ∧ t.time.lows = [])

/-- O10, tier 2, R10, R62, R64. A decided density that is not the one in force comes into force at the bar: GLB_MAINT.M
and HOT report it, other registers stay. At a bar boundary without waiting values only time passes, to the next
multiple of 32; with waiting values every one written before that bar is in force from it: the register acts as it
reads. -/
def Obligations.BarsTakeEffect : Prop :=
  (∀ s : State, (s.toBar s.time.decidedAt).dueM ≠ s.getF A.glbMaint 2 2 → ∃ t : State, exec .mChange s = .next t ∧
    t.getF A.glbMaint 2 2 = (s.toBar s.time.decidedAt).dueM ∧ t.getB A.glbMaint 6 = s.time.nextHot ∧
    t.now = max s.now (s.barFrom s.time.decidedAt) ∧ t.time.lows = [] ∧ (∀ a, a ≠ A.glbMaint → t.rd a = s.rd a)) ∧
  (∀ s : State, s.force.waiting = [] → exec .barBoundary s = .next (s.reach (nextBar s.now))) ∧
  (∀ s : State, s.force.waiting ≠ [] → ∃ t : State, exec .barBoundary s = .next t ∧ (∀ a, t.rd a = s.rd a) ∧
    (∃ e ∈ s.force.waiting, nextBar e.2 ≤ t.now) ∧
    (∀ e ∈ s.force.waiting, nextBar e.2 ≤ t.now → t.inForce e.1 = t.rd e.1 ∧ e ∉ t.force.waiting) ∧ t.mem = s.mem ∧
    t.slots = s.slots)

/-- O11, tier 2, R335, R354, R345, R320, R131, R322. Release raises the four inputs and starts the sequence. A falling
RST_POR_N, RST_WARM_N or PGOOD, and a falling CLK_OK while the complex asks for clk, stop the sequence: registers read
their reset values but for those that R354 keeps and the repair bit of BOOT_STAT, which a power-on clears and the
others keep, and but for OWN_XFER of a slice whose handover they end, which shows RESULT 4 and the aborts so far, and,
where PGOOD fell during a request to the regulator, what that leaves of RESULT 6 (entry 34); no slot, slice unit, mesh
or bus transfer is left; the build, the fuse array and the queue stay. PGOOD also restarts reference time (entry 34).
In Tap a falling CLK_OK only stops clk. -/
def Obligations.ResetInputs : Prop :=
  (∀ s : State, s.boot.released = false → ∃ t : State, exec .porRelease s = .next t ∧ t.boot.released = true ∧
    t.pins = { s.pins with rstPorN := true, rstWarmN := true, pgood := true, clkOk := true } ∧ t.mem = s.mem) ∧
  (∀ (s : State) (p : ResetPin), ∃ t : State, exec (.resetInputLow p) s = .next t ∧ t.boot.released = false ∧
    (match p with
      | .por => t.pins.rstPorN = false
      | .warm => t.pins.rstWarmN = false
      | .pgood => t.pins.pgood = false ∧ t.time.ref = 0 ∧ (s.getB A.pwrVreq 18 = true →
          t.getF A.pwrVreq 19 3 = 6 ∧ t.getB A.pwrStat 12 = true ∧ t.getB A.glbIrqCause 5 = true)) ∧
    (∀ a, a ≠ A.bootStat → (∀ sl, s.hasSlice sl = true → (s.slice sl).handover.isSome = true → a ≠ A.ownXfer sl) →
      (p = .pgood → s.getB A.pwrVreq 18 = true → a ≠ A.pwrVreq ∧ a ≠ A.pwrStat ∧ a ≠ A.glbIrqCause) →
      t.rd a = if keptThrough a then s.rd a else s.build.resetVal a) ∧
    (∀ sl h, s.hasSlice sl = true → (s.slice sl).handover = some h →
      t.getF (A.ownXfer sl) 9 3 = 4 ∧ t.getF (A.ownXfer sl) 16 16 = min h.aborts 0xFFFF ∧ t.getB (A.ownXfer sl) 8 = false) ∧
    (t.getB A.bootStat 0 = match p with | .por => false | .warm => s.repok | .pgood => s.repok) ∧
    t.slots = [] ∧ t.slices = [] ∧ t.net.pkts = [] ∧ t.sysport.txns = [] ∧ t.boot.kills = []) ∧
  (∀ s : State, s.pins.clkReq = false →
    exec .clkOkFall s = .next { s with pins := { s.pins with clkOk := false } }) ∧
  (∀ s : State, s.pins.clkReq = true → ∃ t : State, exec .clkOkFall s = .next t ∧ t.boot.released = false ∧
    t.pins.clkOk = false ∧ t.slots = [] ∧
    (∀ a, a ≠ A.bootStat → (∀ sl, s.hasSlice sl = true → (s.slice sl).handover.isSome = true → a ≠ A.ownXfer sl) →
      t.rd a = if keptThrough a then s.rd a else s.build.resetVal a))

/-! ### The Rhythm -/

/-- O12, tier 2, R74, R75, R9, R10, R11, R12, R86. A write of a phase of a Rhythm table that is served at once completes.
On an idle table (neither ACTIVE nor NEXT) the register takes the merged word: each lane takes its five bits of the
value, but for the fixed lane of the phase and for a code from 21 to 30, which keep what they hold; such a code is
also recorded as CFG_REFUSED with RHY_CTRL.REFUSED. On a table that is not idle a write that would change an entry, or
names such a code, only is refused, and one that changes nothing does nothing. A write of RHY_CTRL leaves the value
that its fields' access types give, notes the clk when NEXT changes, and changes no other register. A write of
RHY_PFENCE stores the register between what its clk settles before it and what it settles under the new fences. -/
def Obligations.RhythmWrites : Prop :=
  (∀ (s : State) (sl phase ctx : Nat) (tabB : Bool) (v : Word),
    s.hasSlice sl = true → phase < 32 → s.plain (if tabB then A.rhyB sl phase else A.rhyA sl phase) ctx = true →
    let a := if tabB then A.rhyB sl phase else A.rhyA sl phase
    let new := mergePhase phase (s.rd a) v
    exec (.rhyTableWrite sl tabB phase v ctx) s = .next
      (if s.tableIdle sl tabB then (if hasBadOwner phase v then (s.wr a new).refuseEntry sl a ctx else s.wr a new)
      else if new ≠ s.rd a ∨ hasBadOwner phase v then s.refuseEntry sl a ctx else s)) ∧
  (∀ (phase k : Nat) (old v : Word), k < 8 → fld (mergePhase phase old v) (5 * k) 5 =
    if fixedLane phase k = true ∨ (21 ≤ fld v (5 * k) 5 ∧ fld v (5 * k) 5 ≤ 30) then fld old (5 * k) 5 else fld v (5 * k) 5) ∧
  (∀ (s : State) (sl ctx : Nat) (v : Word), s.hasSlice sl = true → s.plain (A.rhyCtrl sl) ctx = true →
    ∃ t : State, exec (.rhyCtrlWrite sl v ctx) s = .next t ∧
      t.rd (A.rhyCtrl sl) = writeFields (masksOf (A.rhyCtrl sl)) (s.rd (A.rhyCtrl sl)) v true ∧
      (∀ a, a ≠ A.rhyCtrl sl → t.rd a = s.rd a) ∧ s.OnlyRegs t ∧ (t.nextB sl ≠ s.nextB sl → (t.slice sl).nextAt = s.now)) ∧
  (∀ (s : State) (sl ctx : Nat) (v : Word), s.hasSlice sl = true → s.plain (A.rhyPfence sl) ctx = true →
    exec (.rhyPfenceWrite sl v ctx) s =
      .next ((((s.wipeNow sl).settleBefore sl).storeReg (A.rhyPfence sl) v true ctx).settleAll sl))

/-- O13, tier 2, R75, R76, R22. A pending switch that is not armed, with the schedule not under correction, makes NEXT
active at the first bar boundary after the write of NEXT; an armed one does so once the beat condition holds, at the
first bar after it was satisfied and after the write. ACTIVE then equals NEXT, BEAT_ARM is clear, no other bit of a
register changes, and no byte of storage. Without a pending switch nothing happens. -/
def Obligations.RhythmSwitches : Prop :=
  (∀ (s : State) (sl : Nat), s.hasSlice sl = true → s.switchPending sl = true → s.getB (A.rhyCtrl sl) 2 = false →
    s.notOk 0 sl = false → ∃ t : State, exec (.tableSwitch sl) s = .next t ∧ t.activeB sl = s.nextB sl ∧
      t.getB (A.rhyCtrl sl) 2 = false ∧ t.nextB sl = s.nextB sl ∧ (∀ a, a ≠ A.rhyCtrl sl → t.rd a = s.rd a) ∧
      t.now = max s.now (s.barFrom (s.slice sl).nextAt) ∧ t.mem = s.mem ∧ t.slots = s.slots) ∧
  (∀ (s : State) (sl : Nat), s.hasSlice sl = true → s.switchPending sl = true → s.getB (A.rhyCtrl sl) 2 = true →
    s.notOk 0 sl = false → s.beatReached (s.getF (A.rhySwitch sl) 0 48) = true → ∃ t : State,
      exec (.beatArmedSwitch sl) s = .next t ∧ t.activeB sl = s.nextB sl ∧ t.getB (A.rhyCtrl sl) 2 = false ∧
      (∀ a, a ≠ A.rhyCtrl sl → t.rd a = s.rd a) ∧
      t.now = max s.now (s.barFrom (max (s.slice sl).nextAt s.beat.seenAt)) ∧ t.mem = s.mem ∧ t.slots = s.slots) ∧
  (∀ (s : State) (sl : Nat), s.hasSlice sl = true → s.switchPending sl = false →
    exec (.tableSwitch sl) s = .next s ∧ exec (.beatArmedSwitch sl) s = .next s)

/-! ### Client ports -/

/-- O14, tier 2, R95, R96, R97, R98, R99, R103, R107, R315. A request at a port wakes slice and complex, or is a wake event
of their entries. Where the port is awake and ready at the edge at which the first beat of the request can come, it
accepts it: the request stands behind those that the converter holds, with the issue clk that R103 gives it, its fields
as the client gave them, and the request channel stays busy for its beats. A reserved OP is accepted as a request that
its home slice cannot serve. A clave operation that is first in its converter and local is performed in its clk. -/
def Obligations.PortAcceptsRequests : Prop :=
  (∀ (s : State) (r : PortReq), s.hasPort r.sl r.port = true →
    let ls := portLineAccs r noPortData false
    let w := s.wakeFor r.sl 1
    let e := w.takeEdge r.sl r.port 1
    let t := w.atEdge r.sl r.port e
    w.portAwake r.sl = true → t.portReady r.sl r.port (w.edgeClk r.port e) = true →
    exec (.cpRead r) s = .next (t.modPort r.sl r.port fun x =>
      { x with queue := x.queue ++ [mkPortReq r false ls (w.nominal r.port e)], takenTo := e + 1,
               busyTo := e + s.beats r.port (hiLines ls) })) ∧
  (∀ (s : State) (r : PortReq) (d : PortData), s.hasPort r.sl r.port = true →
    let ls := portLineAccs r d (s.getB (A.portCfg r.sl r.port) 9)
    let b := s.beats r.port (hiLines ls)
    let w := s.wakeFor r.sl 1
    let e := w.takeEdge r.sl r.port b
    let t := w.atEdge r.sl r.port e
    w.portAwake r.sl = true → t.portReady r.sl r.port (w.edgeClk r.port (w.firstEdge r.sl r.port b e)) = true →
    exec (.cpWrite r d) s = .next (t.modPort r.sl r.port fun x =>
      { x with queue := x.queue ++ [mkPortReq r true ls (w.nominal r.port e)], takenTo := e + 1, busyTo := e + 1 })) ∧
  (∀ (s : State) (r : PortReq) (op : Nat), s.hasPort r.sl r.port = true →
    let w := s.wakeFor r.sl 1
    let e := w.takeEdge r.sl r.port 1
    let t := w.atEdge r.sl r.port e
    w.portAwake r.sl = true → t.portReady r.sl r.port (w.edgeClk r.port e) = true →
    exec (.cpReservedOp r op) s = .next (t.modPort r.sl r.port fun x =>
      { x with queue := x.queue ++ [{ mkPortReq r true [] (w.nominal r.port e) with home := 64 }], takenTo := e + 1,
               busyTo := e + 1 })) ∧
  (∀ (s : State) (r : ClaveReq) (kind : Nat) (c : Instr), (c, kind) ∈ [(.cpClvRead r, 0), (.cpClvSignal r, 1), (.cpClvTake r, 2)] →
    s.hasPort r.sl r.port = true →
    let w := s.wakeFor r.sl 1
    let e := w.takeEdge r.sl r.port 1
    let t := w.atEdge r.sl r.port e
    let q := mkClaveReq r kind (s.getB (A.portCfg r.sl r.port) 8) (w.nominal r.port e)
    let u := t.modPort r.sl r.port fun x => { x with queue := x.queue ++ [q], takenTo := e + 1, busyTo := e + 1 }
    w.portAwake r.sl = true → t.portReady r.sl r.port (w.edgeClk r.port e) = true →
    exec c s = .next
      (if (u.port r.sl r.port).queue.length = 1 ∧ q.home = r.sl then (u.reach q.since).settlePort r.sl r.port 0 else u))

/-- O15, tier 2, R79, R81, R82, R97, R100. A request that waits at a place of issue that may present is issued; on a lane
of a bank set the claimant that wins the first clk in which one does takes the lane in that clk, the losers are
counted, and its request is issued. The oldest local response of a port is shown at the edge on which it is due; the
oldest remote response on the first edges free of local ones, and one outstanding remote request fewer is counted. -/
def Obligations.PortAnswers : Prop :=
  (∀ (s : State) (sl : Nat) (p : IssuePoint), s.hasPoint p = true → s.hasSlice sl = true → s.pointMay sl p = true →
    exec (.requestIssue sl p) s = .next (s.issueAt sl p)) ∧
  (∀ (s : State) (sl b c o : Nat) (k : Cand), b < 8 → s.hasSlice sl = true →
    let u := (s.settleReady sl).pumpEngine sl
    u.firstWin sl b (u.others sl b) (fun x => decide (x ≠ 19) || u.passOn sl b) 64 (u.laneFrom sl b) = some (c, o) →
    o ≠ 19 → o ≠ patrolCode →
    let t := ((u.reach c).losers sl b o (u.others sl b)).takeLane sl b
    u.choose sl o (u.cands sl b o c) = some k →
    exec (.requestIssue sl (.lane b)) s = .next (((t.countSlot sl o k.req.cls).issueCand sl k).pumpEngine sl)) ∧
  (∀ (s : State) (sl p : Nat) (r : Resp) (rest : List Resp), s.hasPort sl p = true → s.sliceUp sl = true →
    ((s.settleFirst sl p).port sl p).localRsps = r :: rest →
    let u := s.settleFirst sl p
    ∃ t : State, exec (.cpResponse sl p) s = .next t ∧ (t.port sl p).shown = some (r, r.due) ∧
      (t.port sl p).localRsps = rest ∧ t.now = max u.now (u.edgeClk p r.due) ∧ t.mem = u.mem ∧
      t.csr = (u.portProgress r.ctx r.code).csr) ∧
  (∀ (s : State) (sl p : Nat) (r : Resp) (rest : List Resp), s.hasPort sl p = true → s.sliceUp sl = true →
    ((s.settlePort sl p 0).port sl p).remoteRsps = r :: rest →
    let u := s.settlePort sl p 0
    ∃ (t : State) (e : Nat), exec (.cpRemoteResponse sl p) s = .next t ∧ (t.port sl p).shown = some (r, e) ∧
      u.edgeAt p u.now ≤ e ∧ u.edgeAt p (r.due + 1 + u.assemble p) ≤ e ∧ t.now = max u.now (u.edgeClk p e) ∧
      (t.port sl p).remoteRsps = rest ∧ (t.port sl p).rout = (u.port sl p).rout - 1 ∧ t.mem = u.mem ∧
      t.csr = (u.portProgress r.ctx r.code).csr)

/-- O16, tier 2, R105, R106, R107, R108. CP_FENCE_IN is taken one clk after its edge, between what that clk settles before
and what it settles under the new fence: raised, the port is fenced from then on; lowered, it no longer is by that
input. RUN of PORT_RC starts the roll call of the slice unless it is BUSY. While a port listens for a frame, one that
begins within 256 edges of the call and whose checksum and version are right stores the 128-bit ID and ends the port's
call with its class; a bad one is asked for again 16 edges later, and the third ends the call with result 3; no frame
within 256 edges, or one that begins later, ends it with result 2. A retry is asked at its edge. -/
def Obligations.PortFencesAndRollCall : Prop :=
  (∀ (s : State) (sl p : Nat) (up : Bool), s.hasPort sl p = true →
    let u := (s.reach (s.edgeClk p (s.edgeAt p s.now) + 1)).settlePast sl p
    ∃ t : State, exec (if up then .cpFenceInRaise sl p else .cpFenceInLower sl p) s = .next t ∧
      (t.port sl p).fenceIn = up ∧
      t = (u.modPort sl p fun x => { x with fenceIn := up }).settlePort sl p u.now) ∧
  (∀ (s : State) (sl ctx : Nat) (v : Word), s.hasSlice sl = true → s.plain (A.portRc sl) ctx = true →
    exec (.portRcRun sl v ctx) s =
      .next (if flag v 0 ∧ s.getB (A.portRc sl) 1 = false then s.callSlice sl else s)) ∧
  (∀ (s : State) (sl p : Nat) (id : BitVec 128) (check : BitVec 16), s.hasPort sl p = true → s.idListens sl p = true →
    let e := max (s.edgeAt p s.now) ((s.port sl p).calledAt + 145)
    let t := s.reach (s.edgeClk p e)
    let bad := crc16 id ≠ check ∨ id.extractLsb' 0 8 ≠ 1
    ((s.port sl p).calledAt + 400 < e → exec (.idFrame sl p id check) s =
      .next ((s.reach (s.edgeClk p ((s.port sl p).calledAt + 256))).callEnds sl p 2 false)) ∧
    (e ≤ (s.port sl p).calledAt + 400 →
      (¬bad → exec (.idFrame sl p id check) s = .next
        (((t.wr (A.portIdlo sl p) (id.extractLsb' 0 64)).wr (A.portIdhi sl p) (id.extractLsb' 64 64)).callEnds sl p
          (s.classFrame p id) true)) ∧
      (bad → 2 ≤ (s.port sl p).attempts → exec (.idFrame sl p id check) s = .next (t.callEnds sl p 3 false)) ∧
      (bad → (s.port sl p).attempts < 2 → exec (.idFrame sl p id check) s = .next (t.modPort sl p fun x =>
        { x with attempts := x.attempts + 1, retryDue := some (e + 16) })))) ∧
  (∀ (s : State) (sl p : Nat), s.hasPort sl p = true → s.idListens sl p = true →
    exec (.idAbsent sl p) s =
      .next ((s.reach (s.edgeClk p ((s.port sl p).calledAt + 256))).callEnds sl p 2 false)) ∧
  (∀ (s : State) (sl p e : Nat), s.hasPort sl p = true → (s.port sl p).retryDue = some e → (s.port sl p).calling = true →
    s.belfry.inReset = false → ∃ t : State, exec (.idRetry sl p) s = .next t ∧ (t.port sl p).retryDue = none ∧
      (t.port sl p).idReq = some (max e (s.edgeAt p s.now)) ∧ (t.port sl p).calledAt = max e (s.edgeAt p s.now) ∧
      t.csr = s.csr ∧ t.mem = s.mem) ∧
  (∀ (s : State) (sl p res : Nat) (ok : Bool), p < 16 → res < 8 → (s.callEnds sl p res ok).getF (A.portStat sl p) 8 3 = res ∧
    ((s.callEnds sl p res ok).port sl p).calling = false ∧ ((s.callEnds sl p res ok).port sl p).retryDue = none ∧
    ((s.callEnds sl p res ok).port sl p).rcFence = !(decide (res = 1) || decide (res = 5)))

/-! ### Stored words and their code -/

/-- O17, tier 2, R37, R38, R39, R42. A word coded at a folded address decodes there to its data with nothing corrected.
With any one of its 80 stored bits inverted it decodes to its data with one bit corrected. The poison pattern decodes
as uncorrectable and as poison. -/
def Obligations.StoredWordDecodes : Prop :=
  (∀ (d : Word) (a : BitVec 16), (decodeWord (codeWord d a) a).data = d ∧ (decodeWord (codeWord d a) a).bits = 0 ∧
    (decodeWord (codeWord d a) a).bad = false) ∧
  (∀ (d : Word) (a : BitVec 16) (i : Nat), i < 80 → let r := decodeWord (codeWord d a ^^^ (1#80 <<< i)) a
    r.data = d ∧ r.bits = 1 ∧ r.bad = false) ∧
  (∀ a : BitVec 16, let r := decodeWord (poisonWord a) a
    r.data = 0 ∧ r.bad = true ∧ r.poison = true)

/-- O18, tier 3, R38, R39. With any two of its 80 stored bits inverted, a word coded at a folded address decodes there to
its data with two bits corrected. -/
def Obligations.TwoWrongBitsAreCorrected : Prop :=
  ∀ (d : Word) (a : BitVec 16) (i j : Nat), i < j → j < 80 →
    let r := decodeWord (codeWord d a ^^^ (1#80 <<< i) ^^^ (1#80 <<< j)) a
    r.data = d ∧ r.bits = 2 ∧ r.bad = false

/-- O19, tier 3, R40, R39. A word without a cell error that is read at a folded address that differs from its own in one,
two or three bits is reported uncorrectable, and no data is returned as correct. -/
def Obligations.WrongAddressIsReported : Prop :=
  ∀ (d : Word) (a : BitVec 16) (i j k : Nat), i < 16 → j < 16 → k < 16 → (i = j ↔ i = k) → (i = j ∨ j ≠ k) →
    let r := decodeWord (codeWord d a) (a ^^^ (1#16 <<< i) ^^^ (1#16 <<< j) ^^^ (1#16 <<< k))
    r.bad = true ∧ r.data = 0

/-- O20, tier 3, R37, R42, R43, R44, R45, R48. After a write of all 64 bytes of a line, each of its eight words reads as
written and not poisoned, or, where the write marks it, as poison, whatever the merge buffer, a row self-test or a
repaired row hold. The test buffer holds its 16 words, which is an invariant of the model. -/
def Obligations.WholeLineReadsBack : Prop :=
  ∀ (s : State) (sl b l w : Nat) (data : Line) (psn : WordEn), b < 64 → l < 4096 → w < 8 →
    (∀ x, (s.bank sl b).test = some x → x.buf.length = 16) →
    (s.writeLine sl b l (BitVec.allOnes 64) data psn).peekWord sl b l w =
      if psn.getLsbD w then (0, true) else (lineWord data w, false)

/-! ### Banks: merge buffers, maintenance, retirement -/

/-- O21, tier 2, R48, R49, R50, R55, R58, R59, R287. The event of a merge-buffer drain empties a marked entry, else the
oldest in the clk in which it is 64 clk old, else nothing. A maintenance clk of a bank set maintains its eight banks
in the first clk in which the lane is in maintenance, unless slice or complex sleeps. The oldest entry of a transient
history is dropped when its window has passed. A pending retirement of a bank is done once the bank is quiesced. A
write of ECC_RETIRE stores the register, and RUN retires what is pending. -/
def Obligations.BankUpkeep : Prop :=
  (∀ (s : State) (sl b : Nat) (e : MergeEntry), b < 64 → s.hasSlice sl = true →
    (s.bank sl b).merge.find? MergeEntry.marked = some e → exec (.mergeDrainAge sl b) s = .next (s.drainLine sl b e.line)) ∧
  (∀ (s : State) (sl b : Nat) (e : MergeEntry), b < 64 → s.hasSlice sl = true →
    (∀ x ∈ (s.bank sl b).merge, x.marked = false) → oldestEntry (s.bank sl b).merge = some e →
    exec (.mergeDrainAge sl b) s = .next ((s.reach (e.born + 64)).drainLine sl b e.line)) ∧
  (∀ (s : State) (sl g : Nat) (f : List (Nat × Nat)), g < 8 → s.hasSlice sl = true → s.slicePower sl ≠ 2 → s.cplxPower ≠ 2 →
    exec (.maintenanceClk sl g f) s = .next
      ((List.range 8).foldl (fun t i => t.maintBank sl (8 * g + i) ((f.filter fun x => x.1 = i).map fun x => x.2))
        (s.reach (s.findMaint g 64 (max s.now (s.bank sl (8 * g)).maintAt))))) ∧
  (∀ (s : State) (sl b : Nat), b < 64 → s.hasSlice sl = true → (s.bank sl b).hist ≠ [] → ∃ (t : State) (h : Hist),
    exec (.historyExpire sl b) s = .next t ∧ h ∈ (s.bank sl b).hist ∧ (∀ x ∈ (s.bank sl b).hist, h.rose ≤ x.rose) ∧
      (t.bank sl b).hist = (s.bank sl b).hist.erase h ∧ t.now = max s.now (h.rose + 2 ^ s.getF (A.eccCfg sl) 4 5) ∧
      (∀ a c, (a, c) ≠ (sl, b) → c < 64 → t.bank a c = s.bank a c) ∧ t.mem.cells = s.mem.cells ∧ t.csr = s.csr) ∧
  (∀ (s : State) (sl b mac row : Nat), b < 64 → s.hasSlice sl = true →
    (s.slice sl).retire.find? (fun r => r.1 = b) = some (b, mac, row) → s.quiesced sl b = true →
    exec (.rowRetire sl b) s = .next (s.retireRow sl b mac row)) ∧
  (∀ (s : State) (sl ctx : Nat) (v : Word), s.hasSlice sl = true → s.plain (A.eccRetire sl) ctx = true →
    let u := s.storeReg (A.eccRetire sl) v true ctx
    exec (.eccRetireRun sl v ctx) s = .next (if flag v 6 then u.retireAll sl (u.slice sl).retire else u))

/-- O22, tier 2, R44, R46, R129. After the clear port of a bank has been used, the W state of each of its words is clear
and its merge buffer and write-back register are empty, so that each of its words reads zero and is not poisoned; the
words of every other bank keep their W state. -/
def Obligations.WipedBankReadsZero : Prop :=
  ∀ (s : State) (sl b : Nat), b < 64 →
    ((s.wipeBank sl b).bank sl b).merge = [] ∧ ((s.wipeBank sl b).bank sl b).wb = none ∧
    (∀ l w, l < 4096 → w < 8 → (s.wipeBank sl b).wState sl b l w = false ∧ (s.wipeBank sl b).peekWord sl b l w = (0, false)) ∧
    (∀ sl' b' l w, b' < 64 → l < 4096 → w < 8 → (sl', b') ≠ (sl, b) →
      (s.wipeBank sl b).wState sl' b' l w = s.wState sl' b' l w)

/-! ### Handles, contexts, ownership -/

/-- O23, tier 2, R116. A write of word 0, 1 or 2 of an entry that is served at once goes to the writer's own staging
record and changes nothing else. The record then holds that word for that entry; words held for another entry are
discarded, and words held for the same entry stay. -/
def Obligations.HandleStaging : Prop :=
  (∀ (s : State) (h w ctx : Nat) (v : Word), h < 4096 → w < 3 → s.plain (A.htabE0 h + 8 * w) ctx = true → ∃ t : State,
    exec (.htabStageWrite h w v ctx) s = .next t ∧ t = { s with force := t.force } ∧
      t.stageOf ctx = (s.stageOf ctx).put h w v ∧ t.stageOf (63 - ctx) = s.stageOf (63 - ctx) ∧
      t.force.value = s.force.value ∧ t.force.commits = s.force.commits ∧ t.force.mirror = s.force.mirror) ∧
  (∀ (g : Stage) (h w : Nat) (v : Word), w < 3 →
    (g.put h w v).entry = some h ∧
    (g.put h w v).w0 = (if w = 0 then some v else if g.entry = some h then g.w0 else none) ∧
    (g.put h w v).w1 = (if w = 1 then some v else if g.entry = some h then g.w1 else none) ∧
    (g.put h w v).w2 = (if w = 2 then some v else if g.entry = some h then g.w2 else none))

/-- O24, tier 2, R116, R117, R118. A write of E3 that is served at once forms the entry from the words staged for it, the
entry's own words and the written one, and empties the writer's record whatever the outcome. An accepted commit makes
the four registers read the committed words, with PEND set, and is pending once, not yet received; a refused one leaves the four
registers as they were and is recorded. -/
def Obligations.HandleCommit : Prop :=
  ∀ (s : State) (h ctx : Nat) (v : Word), h < 4096 → s.plain (A.htabE3 h) ctx = true → ∃ t : State,
    exec (.htabCommit h v ctx) s = .next t ∧ t.stageOf ctx = Stage.empty ∧
    let ws := s.commitWords h v ctx
    let ok := s.commitOk h (HEntry.ofWords (ws.getD 0 0) (ws.getD 1 0) (ws.getD 2 0) (ws.getD 3 0))
    (ok = true → t.rd (A.htabE0 h) = setFlag (ws.getD 0 0) 31 true ∧ t.rd (A.htabE1 h) = ws.getD 1 0 ∧
      t.rd (A.htabE2 h) = ws.getD 2 0 ∧ t.rd (A.htabE3 h) = ws.getD 3 0 ∧
      (t.force.commits.filter fun c => c.h = h).length = 1 ∧
      (∃ c ∈ t.force.commits, c.h = h ∧ c.ctx = ctx ∧ c.received = none)) ∧
    (ok = false → t.rd (A.htabE0 h) = s.rd (A.htabE0 h) ∧ t.rd (A.htabE1 h) = s.rd (A.htabE1 h) ∧
      t.rd (A.htabE2 h) = s.rd (A.htabE2 h) ∧ t.rd (A.htabE3 h) = s.rd (A.htabE3 h) ∧ t.force.commits = s.force.commits ∧
      t = (s.setStage ctx Stage.empty).refuseCfg (A.htabE3 h) ctx)

/-- O25, tier 2, R118. The peal write of a commit that reaches its last mirror makes the commit received in that clk. From
the clk behind, a received commit which the contexts of the entry in force and of the committed entry permit takes
effect: every slice's mirror then holds the committed words, PEND is clear and the entry is no longer pending; ring
guards follow from that state. -/
def Obligations.HandleTakesEffect : Prop :=
  (∀ (s : State) (id sl h : Nat) (p : Peal), s.pealOf id = some p → p.left = [sl] → p.mirror = some h →
    ∀ c ∈ (s.pealReached id sl).force.commits, c.h = h → c.received = some s.now) ∧
  (∀ (s : State) (h c : Nat) (k : Commit), h < 4096 → s.force.commits.find? (fun x => x.h = h) = some k →
    k.received = some c → (s.reach (c + 1)).commitReady h c = true → ∃ t u : State,
    exec (.handleTakesEffect h) s = .next t ∧ t = u.bindGuard h ∧ t.now = max s.now (c + 1) ∧ t.force = u.force ∧
      (∀ x ∈ u.force.commits, x.h ≠ h) ∧ u.getB (A.htabE0 h) 31 = false ∧
      (∀ sl w, sl < s.nSlices → w < 4 → u.mirrorWord sl h w = (s.tableWords h).getD w 0) ∧ u.mem = s.mem ∧
      (∀ a, a ≠ A.htabE0 h → u.rd a = s.rd a))

/-- O26, tier 2, R120, R121, R268, R10. A write of CTX_E0 that is served at once stores its fields with STATE as the table
of R121 allows. A write that carries the present STATE makes no kernel boundary; one that the table does not allow
keeps it and is recorded, unless the change of JOBID is; entering RUN is a kernel boundary, after which paused streams
continue; entering PAUSED pauses streams at a WAIT or WAITBEAT. A write of KNEXT is a kernel boundary; EPOCH rises by
1 in its clk, unless the context has had one in that clk. -/
def Obligations.ContextWrites : Prop :=
  (∀ (s : State) (c ctx : Nat) (v : Word), c < 64 → s.plain (A.ctxE0 c) ctx = true →
    let a := A.ctxE0 c
    let f := s.ctxState c
    let g := fld v 32 2
    let kept := s.storeReg a (setFld v 32 2 f) (decide (f = 0)) ctx
    let moved := s.storeReg a v (decide (f = 0)) ctx
    (g = f → exec (.ctxE0Write c v ctx) s = .next kept) ∧
    (g ≠ f → s.stateMayChange c f g = false → exec (.ctxE0Write c v ctx) s = .next
      (if refusedS (masksOf a) (s.rd a) (setFld v 32 2 f) (decide (f = 0)) then kept else kept.refuseCfg a ctx)) ∧
    (g ≠ f → s.stateMayChange c f g = true → exec (.ctxE0Write c v ctx) s = .next
      (if g = 1 then (moved.kernelBoundary c).ctxContinues c else if g = 2 then moved.ctxPauses c else moved))) ∧
  (∀ (s : State) (c ctx : Nat) (v : Word) (idle : Bool), c < 64 →
    (s.storeReg (A.ctxE0 c) v idle ctx).ctxState c = fld v 32 2) ∧
  (∀ (s : State) (c ctx : Nat) (v : Word), c < 64 → s.plain (A.ctxE1 c) ctx = true → flag v 32 = false →
    exec (.ctxKnextWrite c v ctx) s = .next s) ∧
  (∀ (s : State) (c ctx : Nat) (v : Word), c < 64 → s.plain (A.ctxE1 c) ctx = true → flag v 32 = true →
    s.atBoundary c = false → ∃ u : State,
    exec (.ctxKnextWrite c v ctx) s = .next (u.sliceList.foldl (fun t sl => t.boundaryIn sl c) u).effectReady ∧ u.now = s.now ∧
      u.getF (A.ctxE1 c) 0 32 = (s.getF (A.ctxE1 c) 0 32 + 1) % 2 ^ 32 ∧ u.inForce (A.ctxE0 c) = u.rd (A.ctxE0 c) ∧
      (∀ a, a ≠ A.ctxE1 c → u.rd a = s.rd a) ∧ u.mem = s.mem ∧ u.slots = s.slots)

/-- O27, tier 2, R128, R129, R131, R132, R344. A write of GO during a handover is refused as a whole where it would act.
Otherwise it stores the register; with MASK 0 or a
NEWOWNER under kill RESULT becomes 5; otherwise the handover starts in the next clk. Its drain ends after the latency
of the last access, or at the drain timeout, after which what is not answered is aborted and counted. At its end every
bank of the mask, and no other, is owned by NEWOWNER, and in the next clk BUSY clears with RESULT 1, or 3 after
aborts. A drain of a unit or of a kill ends by the same timeout. -/
def Obligations.BankHandover : Prop :=
  (∀ (s : State) (sl ctx : Nat) (v : Word), s.hasSlice sl = true → s.plain (A.ownXfer sl) ctx = true →
    s.getB (A.ownXfer sl) 8 = false →
    let t := s.storeReg (A.ownXfer sl) v true ctx
    exec (.ownXferGo sl v ctx) s = .next
      (if flag v 7 = false then t
      else if t.rd (A.ownXferMask sl) = 0 ∨ s.ctxState (t.getF (A.ownXfer sl) 0 6) = 3 then t.putF (A.ownXfer sl) 9 3 5
      else (t.pass 1).startHandover sl (t.rd (A.ownXferMask sl)) (t.getF (A.ownXfer sl) 0 6) (t.getB (A.ownXfer sl) 6) none)) ∧
  (∀ (s : State) (sl ctx : Nat) (v : Word), s.hasSlice sl = true → s.plain (A.ownXfer sl) ctx = true →
    s.getB (A.ownXfer sl) 8 = true → exec (.ownXferGo sl v ctx) s = .next (s.refuseWrite (A.ownXfer sl) v ctx)) ∧
  (∀ (s : State) (sl : Nat) (h : Handover), s.hasSlice sl = true → (s.slice sl).handover = some h → h.drained = false →
    exec (.handoverDrainEnd sl) s = .next ((s.reach (h.tf + s.latency)).drainHandover sl h)) ∧
  (∀ (s : State) (sl : Nat) (h : Handover), s.hasSlice sl = true → (s.slice sl).handover = some h → h.drained = true →
    h.newOwner < 64 → ∃ u : State,
    let e := u.endHandover sl h (if h.aborts = 0 then 1 else 3)
    exec (.handoverComplete sl) s = .next (e.nextKillHandover sl (e.slice sl).killHandovers.length) ∧
      e.getB (A.ownXfer sl) 8 = false ∧ e.getF (A.ownXfer sl) 9 3 = (if h.aborts = 0 then 1 else 3) ∧
      e.getF (A.ownXfer sl) 16 16 = min h.aborts 0xFFFF ∧
      (∀ b, b < 64 → h.mask.getLsbD b = true → u.ownerOf sl b = h.newOwner) ∧
      (∀ a b, b < 64 → (a ≠ sl ∨ h.mask.getLsbD b = false) → u.ownerOf a b = s.ownerOf a b) ∧
      u.now = max s.now h.ready + 1 ∧ u.mem = s.mem ∧ u.slots = s.slots) ∧
  (∀ (s : State) (sl : Nat) (h : Handover), s.hasSlice sl = true → (s.slice sl).handover = some h → h.drained = false →
    let r := (s.reach (h.tf + s.drainTmo)).cutLocal sl (h.tf + s.drainTmo) fun x =>
      decide (x.issued < h.tf) && decide (x.banks &&& h.mask ≠ 0)
    exec (.drainTimeout (.handover sl)) s = .next (r.2.drainHandover sl { h with aborts := h.aborts + r.1 })) ∧
  (∀ (s : State) (u : UnitReset), s.boot.reset = some u → u.drained = false → s.unitAwake u = true →
    let t := (s.reach (max (u.tf + s.drainTmo) (s.unitTime u))).settleUnit u
    let r := t.abort (t.unitMine u) (t.unitHost u) (t.unitOut u)
    exec (.drainTimeout .unit) s = .next (r.2.resetUnit { u with aborts := u.aborts + r.1 + t.unitStrokes u })) ∧
  (∀ (s : State) (c : Nat) (k : Kill), c < 64 → s.killOf c = some k → s.killDraining c = true →
    exec (.drainTimeout (.kill c)) s = .next (s.killTimeout c) ∧
    ∃ (u : State) (n : Nat), s.killTimeout c = u.killBanks c n)

/-! ### System port -/

/-- O28, tier 2, R124, R125, R151, R315. While the part is ready for a target request and what it addresses is awake, a
read or write is accepted with the window that its address lies in and, where it reuses the tag of an outstanding
request, marked for RANGE: it is performed at once when its class may proceed and nothing of its class is staged, and
staged behind the others otherwise. A marked request is answered RANGE unless the window's context is under kill. A
reserved operation is accepted as one outside every window; such a request is answered RANGE and performs nothing. -/
def Obligations.SystemPortTarget : Prop :=
  (∀ (s : State) (c : Instr) (q : SpStaged), q.tag < 64 → q.win = s.sysWindow q.addr → q.range = s.tagUsed q →
    ((∃ n, n < 64 ∧ c = .spTargetRead q.addr n q.tag ∧ q = ⟨q.addr, false, n, q.tag, [], q.win, q.range⟩) ∨
     (q.beats.length ≠ 0 ∧ q.beats.length ≤ 64 ∧ c = .spTargetWrite q.addr q.beats q.tag ∧
      q = ⟨q.addr, true, q.beats.length - 1, q.tag, q.beats, q.win, q.range⟩)) →
    s.spReady = true → (s.spAwake q).1 = true →
    let u := (s.spAwake q).2
    (u.spCan q = true → (∀ x ∈ u.sysport.staged, u.spClass x ≠ u.spClass q) → exec c s = .next (u.spProceed q)) ∧
    ((u.spCan q = false ∨ ∃ x ∈ u.sysport.staged, u.spClass x = u.spClass q) →
      exec c s = .next { u with sysport := { u.sysport with staged := u.sysport.staged ++ [q] } })) ∧
  (∀ (s : State) (i : Nat) (q : SpStaged), q.range = true → s.ctxState (s.sysCtx i) ≠ 3 → s.spCode i q = rspRange) ∧
  (∀ (s : State) (op tag : Nat), 2 ≤ op → op < 4 → tag < 64 → s.spReady = true →
    s.cplxAwake = true → exec (.spTargetBadOp op tag) s = .next (s.spAccept
      { addr := 0, write := true, len := 0, tag := tag, beats := [], win := none, range := true })) ∧
  (∀ (s : State) (q : SpStaged), q.win = none → s.spProceed q = s.spRange q ∧
    (s.spRange q).mem = s.mem ∧ (s.spRange q).csr = s.csr ∧ (s.spRange q).net = s.net ∧
    ∃ x, (s.spRange q).sysport.txns = s.sysport.txns ++ [x] ∧ x.tag = q.tag ∧ x.code = rspRange ∧ x.need = 0)

/-- O29, tier 2, R123, R124, R206, R344. The response of a target request that is complete is shown in the clk from which
it is ready, its tag is free, and staged requests then proceed. A response to an outstanding initiator request frees
its tag and leaves at once for the slice of the stream access, with the code of the table of R124; one to no outstanding
request is absorbed and counted. -/
def Obligations.SystemPortResponses : Prop :=
  (∀ (s : State) (tag : Nat) (x : SpTxn), (s.sysport.txns.find? fun t => t.tag = tag ∧ t.need = 0) = some x → ∃ u : State,
    exec (.spTargetResponse tag) s = .next u.spDrain ∧ u.sysport.shown = some x.driven ∧
      u.sysport.txns = s.sysport.txns.erase x ∧ u.sysport.staged = s.sysport.staged ∧ u.now = max s.now x.due ∧
      u.csr = s.csr ∧ u.mem = s.mem) ∧
  (∀ (s : State) (tag code : Nat) (data : List Line) (i : SpInit), (s.sysport.inits.find? fun i => i.tag = tag) = some i →
    ∃ (t : State) (p : RPkt), exec (.spInitResponse tag code data) s = .next t ∧ t.net.rpkts = s.net.rpkts ++ [p] ∧
      (∀ x ∈ t.sysport.inits, x.tag ≠ tag) ∧ t.sysport.txns = s.sysport.txns ∧ t.mem = s.mem ∧ t.slots = s.slots ∧
      t.csr = s.csr ∧ t.now = s.now ∧ p.src = 64 ∧ p.dst = i.sl ∧ p.sent = s.now ∧
      p.rsp.origin = .stream i.sl i.slot i.acc ∧ p.rsp.code = initCode code ∧ p.rsp.write = i.write ∧
      (i.write = false → p.rsp.code = rspOk → p.rsp.lines.length = i.lines.length ∧
        ∀ k, k < i.lines.length → p.rsp.lines[k]? = some ⟨k, data.getD k 0, 0⟩)) ∧
  (∀ (s : State) (tag code : Nat) (data : List Line), (s.sysport.inits.find? fun i => i.tag = tag) = none →
    exec (.spInitResponse tag code data) s = .next s.lateResponse) ∧
  (∀ code : Nat, code < 8 → initCode code = if code = 0 ∨ code = 3 ∨ code = 5 ∨ code = 6 then code else 5)

/-- O30, tier 2, R126, R9, R11. A write of a register of a system window that is served at once stores its fields; the S
fields only while EN is clear and no transaction through the window is outstanding. A write that sets EN of a window
that the rule refuses leaves EN clear and is recorded. -/
def Obligations.SystemWindowWrite : Prop :=
  ∀ (s : State) (i reg ctx : Nat) (v : Word), i < 16 → reg < 4 → s.plain (A.syswinBase i + 8 * reg) ctx = true →
    let a := A.syswinBase i + 8 * reg
    let idle := !(s.getB (A.syswinBase i) 0) && !(s.winUsed i)
    let bad := decide (reg = 0) && flag v 0 && !(s.getB a 0) && s.enRefused i
    let w := if bad then setFlag v 0 false else v
    let t := s.storeReg a w idle ctx
    exec (.syswinWrite i reg v ctx) s =
      .next (if bad ∧ refusedS (masksOf a) (s.rd a) w idle = false then t.refuseCfg a ctx else t)

/-! ### Mesh, peal writes, Carillon, regulation -/

/-- O31, tier 2, R84, R136, R137, R138, R139, R140, R149, R150, R155. An output of the mesh takes at most one flit in a
clk, of those that wait there and find room, and gives up a burst that has held it for 64 clk; a release is counted.
The flit of a packet may win its next output 2 clk behind the one before. A request packet that is first on its route
arrives at its home slice, which it wakes, and leaves the mesh when its last flit has: a clave operation is performed
and answered, or FENCED, a request of a killed context or to a fenced bank is answered with its code, and any other
waits for a slot. A response packet arrives and is delivered. A share window starts at a multiple of 64 clk with every
slice's counts empty. A write of a share is stored, or refused when the shares would exceed their limits, once the
mesh is up to its clk. -/
def Obligations.MeshArrivals : Prop :=
  (∀ (s : State) (c o : Nat), o % 8 ≠ 7 → ∃ u : State, (u = s ∨ ∃ h, s.net.holder o = some h ∧ u = s.breakLink o) ∧
    (s.linkStep c o = u ∨ ∃ x ∈ flitsAt o c [] s.net.flights, s.linkStep c o = u.takeLink c o x)) ∧
  (∀ (s : State) (c o : Nat) (h k : HeldOut), o % 8 ≠ 7 → s.net.holder o = some h → h.since + 64 ≤ c →
    (s.linkStep c o).net.holder o = some k → k.since = c) ∧
  (∀ (s : State) (sl out : Nat), out < 6 → s.hasSlice sl = true →
    let o := s.outKey (s.pos sl) out
    s.logical (o / 8) = sl → s.phys sl = o / 8 → (s.breakLink o).net.holder o = none ∧
      (s.breakLink o).getF (A.meshBreak sl) 0 48 = (s.getF (A.meshBreak sl) 0 48 + 1) % 2 ^ 48 ∧
      (∀ a, a ≠ A.meshBreak sl → (s.breakLink o).rd a = s.rd a) ∧ (s.breakLink o).mem = s.mem) ∧
  (∀ (f : Flight) (i k c : Nat) (b p : Branch), f.way[i]? = some b → f.way[b.back]? = some p → b.back ≠ i →
    b.passed.length = k → k < f.flits → p.passed[k]? = some c → f.arrival i = some (c + 2)) ∧
  (∀ (s : State) (sl out : Nat) (h : HeldOut), out < 6 → s.hasSlice sl = true →
    let o := s.outKey (s.pos sl) out
    s.net.holder o = some h → h.since ≤ s.net.meshAt → ∃ t : State, exec (.burstRelease sl out) s = .next t ∧
      (∀ k, t.net.holder o = some k → ¬(k.burst = h.burst ∧ k.since = h.since)) ∧
      t.net.meshAt ≤ max (s.net.meshAt + 1) (h.since + 65) ∧ t.now = max s.now t.net.meshAt ∧ t.mem = s.mem ∧
      t.slots = s.slots ∧ t.ports = s.ports) ∧
  (∀ (s : State) (k : Nat) (p : Pkt), s.net.pkts[k]? = some p → firstOfRoute s.net.pkts k p = true →
    let a := (s.meshEvent fun n => n.lastOut p.flight (s.exitKey p.dst)).getD s
    let held := decide (a.slicePower p.dst ≠ 2) && !(a.wakeFailed p.dst)
    let t := if held then a.wakeFor p.dst 1 else a
    let u : State := { t with net := { t.net with pkts := dropAt t.net.pkts k } }
    (held = true → t.sliceServes p.dst = true) → u.mem = s.mem ∧ u.slots = s.slots ∧
      let q := { p.req with owner := ownerAway p.req.origin }
      (∀ o, p.req.clave = some o → (u.slice p.dst).fenceOff = true →
        exec (.remoteRequestArrive k) s = .next (u.answer p.dst q rspFenced [] none u.now)) ∧
      (∀ o, p.req.clave = some o → (u.slice p.dst).fenceOff = false →
        let x := u.performClave p.dst q.ctx o
        exec (.remoteRequestArrive k) s = .next (x.2.2.answer p.dst q x.1 [] x.2.1 x.2.2.now)) ∧
      (∀ c, p.req.clave = none → u.homeNoSlot p.dst q = some c →
        exec (.remoteRequestArrive k) s = .next (u.answer p.dst q c [] none u.now)) ∧
      (p.req.clave = none → u.homeNoSlot p.dst q = none →
        exec (.remoteRequestArrive k) s = .next (u.modSlice p.dst fun x => { x with home := x.home ++ [q] }))) ∧
  (∀ (s t : State) (k : Nat) (p : RPkt), s.net.rpkts[k]? = some p →
    s.meshEvent (fun n => n.firstOut p.flight (s.exitKey p.dst)) = some t →
    let u := match p.rsp.origin with
      | .port _ _ => t
      | _ => (t.meshEvent fun n => n.lastOut p.flight (s.exitKey p.dst)).getD t
    let v := ({ u with net := { u.net with rpkts := dropAt u.net.rpkts k } } : State).deliver { p.rsp with due := t.now }
    exec (.remoteResponseArrive k) s = .next (if p.dst = 64 then v else v.pumpEngine p.dst)) ∧
  (∀ s : State, ∃ t : State, exec .shareWindowStart s = .next t ∧ t.now % 64 = 0 ∧ s.now ≤ t.now ∧ t.now ≤ s.now + 64 ∧
    (∀ sl, sl < s.nSlices → (t.slice sl).shares = []) ∧ t.csr = s.csr ∧ t.mem = s.mem ∧ t.slots = s.slots) ∧
  (∀ (s : State) (c ctx : Nat) (v : Word), c < 8 → s.plain (A.qosShare c) ctx = true →
    exec (.qosShareWrite c v ctx) s = .next (if s.sharesOk c v then s.meshNow.storeReg (A.qosShare c) v true ctx
      else s.meshNow.refuseCfg (A.qosShare c) ctx))

/-- O32, tier 2, R142, R143, R118. A write through a peal aperture that is served at once, with fewer than 64 under way,
leaves for every logical slice with the address, data, enables and context of the write. It arrives at a slice after
every earlier one of its context: it is skipped where the slice is in Off and counted so, answered FENCED where a reset
fences the slice; any other slice it wakes, and it is applied where the slice serves. One that has reached every slice
and awaits nothing completes, answers the system-port request that awaits it, or gives Belfry its code, and lets
another begin. -/
def Obligations.PealWrites : Prop :=
  (∀ (s : State) (off ctx : Nat) (v : Word), off < 0x10000 → off % 8 = 0 → s.plain (0x600000 + off) ctx = true →
    s.net.peals.length < 64 → ∃ t : State, exec (.csrPealWrite off v ctx) s = .next t ∧
      t.net.peals = s.net.peals ++ [⟨s.net.nextPeal, false, off, v.setWidth 512, 0xFF, ctx, s.dclass ctx, none, s.sliceList, [],
        rspOk, s.now, s.net.nextFlight, none⟩] ∧ (∃ f ∈ t.net.flights, f.id = s.net.nextFlight ∧ f.at' = s.now ∧
        f.way = s.treeWay 64 s.sliceList) ∧ t.mem = s.mem ∧ t.slices = s.slices) ∧
  (∀ (s : State) (off ctx : Nat) (data : Line) (ben : ByteEn), off < 0x100000 → off % 64 = 0 →
    s.plain (0x700000 + off) ctx = true → s.net.peals.length < 64 → ∃ t : State, exec (.memPealWrite off data ben ctx) s = .next t ∧
      t.net.peals = s.net.peals ++ [⟨s.net.nextPeal, true, s.getF A.glbPeal 0 18 + off / 64, data, ben, ctx, s.dclass ctx, none,
        s.sliceList, [], rspOk, s.now, s.net.nextFlight, none⟩] ∧ t.mem = s.mem ∧ t.slices = s.slices) ∧
  (∀ (s : State) (id sl : Nat) (p : Peal), s.hasSlice sl = true → s.pealOf id = some p → p.left.contains sl = true →
    s.pealBehind p sl = false →
    let a := (s.meshEvent fun n => n.firstOut p.flight (s.exitKey sl)).getD s
    let t := a.wakeFor sl (if p.mem then 1 else 2)
    (a.slicePower sl = 2 → exec (.pealDeliver id sl) s = .next ((a.pealReached id sl).pealSkip sl)) ∧
    (a.slicePower sl ≠ 2 → (a.slice sl).fenceReset = true →
      exec (.pealDeliver id sl) s = .next ((a.pealReached id sl).pealUndone id sl rspFenced)) ∧
    (a.slicePower sl ≠ 2 → (a.slice sl).fenceReset = false → t.sliceServes sl = true →
      exec (.pealDeliver id sl) s = .next ((t.pealReached id sl).pealApply p sl)) ∧
    (a.slicePower sl ≠ 2 → (a.slice sl).fenceReset = false → t.sliceServes sl = false →
      exec (.pealDeliver id sl) s = .next t)) ∧
  (∀ (s : State) (id : Nat) (p : Peal), s.pealOf id = some p → p.left = [] → p.waiting = [] →
    let t : State := { s with net := { s.net with peals := s.net.peals.filter fun x => x.id ≠ id } }
    exec (.pealComplete id) s = .next (match p.tag with
      | some k => t.spPart k p.code t.now
      | none => if p.ctx = 0 ∧ p.mirror = none then { t with belfry := { t.belfry with pealCode := p.code } } else t).feedPeals)

/-- O33, tier 2, R144, R145, R146, R147, R148, R262. The next stroke of a transfer, whose lines have been read, whose
window has room and whose ring guard lets it pass, is sent in the next clk in which Lead offers no other packet: it
enters the mesh along the tree to every receiver of the group, and stands among the unacknowledged. A stroke that
comes to a receiver that serves is gone from its landing buffer where a kill or a fence has taken it, is written to
the vector buffer and acknowledged, or takes the slot of its bank set that the mesh wins, is written there and
acknowledged. A merged acknowledgement that comes back to the source is counted for the receivers in it. After 256 clk
every unacknowledged stroke is sent again to each receiver that refused one. A receiver whose lag has exceeded the
limit is taken out of the group, shown in SHED, recorded and counted. A fault that was pending may have halted the
source's slot in the same clk. -/
def Obligations.CarillonStrokes : Prop :=
  (∀ (s : State) (g n m : Nat) (x y : Xfer) (i : Inst) (os : List Operand) (p : Spot) (ls : List (Nat × Spot)) (nx : Nat),
    g < 16 → s.xferOf g = some y →
    let u := s.pumpEngine y.sl
    let dst := os.getD 1 Operand.none
    u.xferOf g = some x → (u.slot x.sl x.slot).followInst = some i → i.no = x.no → u.slotWorks x.sl x.slot = true →
    u.blockOps x.sl i i.wblk = some os → (u.slot x.sl x.slot).halt = none → x.window = true →
    u.nextAccess x.sl x.ctx true dst i.wpos = ((n, p) :: ls, nx) → (∀ c, p ≠ .bad c) →
    let l := u.readyGroup x.sl x.slot dst (srcOf os) (i.lines i.wblk) ((n, p) :: ls)
    l ≠ [] → u.strokeGuard x.sl dst.handle l = (m, .pass) →
    ∃ (t : State) (f : Flight) (z : Xfer) (k : Stroke), exec (.mcastStrokeSend g) s = .next t ∧
      t.now = max u.now (u.laneFrom x.sl ptLead) ∧ f ∈ t.net.flights ∧ f.id = u.net.nextFlight ∧ f.at' = t.now ∧
      f.way = u.treeWay x.sl x.members ∧ f.cls = x.cls ∧ z ∈ t.net.xfers ++ t.net.strays ∧ z.g = g ∧ z.sent = x.sent + 1 ∧
      k ∈ z.strokes ∧ k.n = x.sent ∧ k.blk = i.wblk ∧ k.sent = t.now ∧ k.lines.length = l.length ∧
      k.copies = [⟨x.members, x.members, u.net.nextFlight⟩] ∧ t.ports = s.ports ∧ t.belfry = s.belfry) ∧
  (∀ (s a : State) (g r : Nat) (b : Arrived), g < 16 → s.hasSlice r = true → s.strokeComes g r = some (b, a) →
    let held := decide (a.slicePower r ≠ 2) && !(a.wakeFailed r)
    let t := if held then a.wakeFor r 1 else a
    (held = true → t.sliceServes r = true) →
    let u := t.settleReady r
    let id := b.copy.flight
    (u.strokeGone r id = true → exec (.mcastLand g r) s = .next u) ∧
    (u.strokeGone r id = false → b.k.vec = true → ∃ (v : State) (f : Flight) (m : AckMark), exec (.mcastLand g r) s = .next v ∧
      v = u.landVec r b ∧ v.now = max u.now (max b.came (u.laneFrom r ptVecWrite)) ∧ f ∈ v.net.flights ∧ f.at' = v.now ∧
      f.ack = some m ∧ m.g = b.x.g ∧ m.n = b.k.n ∧ m.got = [r]) ∧
    (u.strokeGone r id = false → b.k.vec = false → exec (.mcastLand g r) s = .next (u.strokeWrite r b 16)) ∧
    (∀ (c : Nat) (k : Cand) (d : Arrived), u.strokeGone r id = false → b.k.vec = false →
      let h := u.others r b.k.bset
      let l := ((u.reach c).losers r b.k.bset 18 h).takeLane r b.k.bset
      let w := l.countSlot r 18 k.req.cls
      u.firstWin r b.k.bset h (fun o => decide (o = 18)) 64 (u.laneFrom r b.k.bset) = some (c, 18) →
      l.choose r 18 (u.cands r b.k.bset 18 c) = some k → k.who = .stroke id →
      (w.arrivals r).find? (fun a => a.copy.flight = id) = some d → (w.perform r (d.req r)).1 = rspOk →
      let v := (((w.perform r (d.req r)).2.2.dropCopy id r).strokeAck r d).pumpEngine r
      v.strokeGone r id = true → exec (.mcastLand g r) s = .next v ∧ ∃ (f : Flight) (m : AckMark), f ∈ v.net.flights ∧
        f.ack = some m ∧ m.g = d.x.g ∧ m.n = d.k.n ∧ m.got = [r])) ∧
  (∀ (s a : State) (g n c : Nat) (x : Xfer) (f : Flight), g < 16 → s.xferOf g = some x →
    ((s.net.flights.any fun f => (f.ack.map (x.acks n)).getD false) = true ∨ (s.net.merges.any fun m => x.acks n m.ack) = true) →
    s.meshEvent (fun net => (s.ackAt x n net).map Prod.snd) = some a → a.ackAt x n a.net = some (f, c) →
    ∃ t : State, exec (.mcastAckMerge g n) s = .next t ∧ t.now = a.now ∧ (∀ y ∈ t.net.flights, y.id ≠ f.id) ∧
      (t.slotState x.sl x.slot = 4 ∨ ∃ z ∈ t.net.xfers, z.g = g ∧ z.no = x.no ∧
        z.acked = (x.takeAck n ((f.ack.map AckMark.got).getD [])).acked) ∧ t.ports = s.ports ∧ t.belfry = s.belfry) ∧
  (∀ (x : Xfer) (n r : Nat) (got : List Nat) (k : Stroke), x.strokes.find? (fun k => k.n = n) = some k →
    (x.takeAck n got).ackedBy r =
      x.ackedBy r + if got.contains r = true ∧ x.members.contains r = true ∧ k.acked.contains r = false then 1 else 0) ∧
  (∀ (s : State) (g : Nat) (x : Xfer), g < 16 → s.xferOf g = some x → x.refused ≠ [] → ∃ t : State,
    exec (.mcastResend g) s = .next t ∧ t.now = max s.now (x.resent + 256) ∧ t.csr = s.csr ∧ t.mem = s.mem ∧ t.slots = s.slots ∧
      (∀ z ∈ t.net.xfers, z.g = g → z.refused = [] ∧ z.resent = t.now) ∧
      (∀ r k, r ∈ x.refused → r ∈ x.members → k ∈ x.strokes → r ∉ k.acked → ∃ f ∈ t.net.flights, f.at' = t.now ∧
        f.way = s.treeWay x.sl [r] ∧ ∃ z ∈ t.net.xfers, z.g = g ∧ ∃ y ∈ z.strokes, y.n = k.n ∧ ⟨[r], [r], f.id⟩ ∈ y.copies)) ∧
  (∀ (s : State) (g r : Nat) (x : Xfer), g < 16 → s.hasSlice r = true → r < 64 → s.xferOf g = some x →
    s.hasSlot x.sl x.slot = true → x.members.contains r = true → Tbl.get 0 x.lagSince r ≠ 0 → s.shedPolicy x = true → ∃ t : State,
    exec (.mcastShed g r) s = .next t ∧ t.now = max s.now (Tbl.get 0 x.lagSince r - 1 + s.getF (A.qosGrpa g) 16 16) ∧
      t.getB (A.seSlotShed x.sl x.slot) r = true ∧
      t.getF (A.meshShed x.sl) 0 48 = (s.getF (A.meshShed x.sl) 0 48 + 1) % 2 ^ 48 ∧
      (t.slotState x.sl x.slot = 4 ∨ ∃ z ∈ t.net.xfers, z.g = g ∧ z.no = x.no ∧ z.members = x.members.erase r) ∧
      t.ports = s.ports ∧ t.belfry = s.belfry)

/-! ### Stream slots -/

/-- O34, tier 2, R169, R171, R186, R189, R11. A write of SE_SLOT_CTL with ARM, served at once, to an IDLE slot, START not
3, arms it: STATE is ARMED, PC is ENTRY, saved position, shed mask, open tag and deadline are clear; S and H
registers, loop counters and the storage stay. ARM in any other state changes no STATE and is recorded. RESUME of a
FAULTED slot sets RUN, with the written fields, and its program goes on. STOP of a slot that runs, is armed, paused or
faulted cancels it: its instructions are gone, and it is STOPPING until its last access has been answered. A write
while the engine is in reset is refused where it would act. -/
def Obligations.SlotControl : Prop :=
  (∀ (s : State) (sl j ctx : Nat) (v : Word), s.hasSlot sl j = true → s.plain (A.seSlotCtl sl j) ctx = true →
    (s.slice sl).engineReset = false → s.slotState sl j = 0 → fld v 6 2 ≠ 3 → ∃ t : State,
    exec (.seArm sl j v ctx) s = .next t ∧ t.slotState sl j = 1 ∧ t.pc sl j = s.getF (A.seSlotPc sl j) 32 27 ∧
      t.rd (A.seSlotPos sl j) = 0 ∧ t.rd (A.seSlotShed sl j) = 0 ∧ t.getF (A.seSlotDl sl j) 0 58 = 0 ∧
      t.getF (A.seSlotArm sl j) 48 16 = 0 ∧ s.SameSlotRegs t sl j ∧ (t.slot sl j).halt = none ∧ t.mem = s.mem ∧
      t.now = s.now) ∧
  (∀ (s : State) (sl j ctx : Nat) (v : Word), s.hasSlot sl j = true → s.plain (A.seSlotCtl sl j) ctx = true →
    (s.slice sl).engineReset = false → s.slotState sl j = 4 → fld v 6 2 ≠ 3 → flag v 3 = false → flag v 5 = false →
    ∃ t u : State, exec (.seResume sl j v ctx) s = .next t ∧ t = u.resumeSlot sl j ∧
      (t.slotState sl j = 2 ∨ t.slotState sl j = 4) ∧ s.SameSlotRegs t sl j ∧ t.now = s.now ∧
      u.rd (A.seSlotCtl sl j) = writeFields (masksOf (A.seSlotCtl sl j)) (s.rd (A.seSlotCtl sl j)) (setFlag v 4 true) true ∧
      (∀ a, a ≠ A.seSlotCtl sl j → u.rd a = s.rd a) ∧ u.mem = s.mem ∧ (u.slot sl j).residue = (s.slot sl j).residue) ∧
  (∀ (s : State) (sl j ctx : Nat) (v : Word), s.hasSlot sl j = true → s.plain (A.seSlotCtl sl j) ctx = true →
    (s.slice sl).engineReset = false → s.slotState sl j ≠ 0 → s.slotState sl j ≠ 5 → ∃ t u : State,
    exec (.seStop sl j v ctx) s = .next t ∧ t = (u.stopSlot sl j).stopEnds sl j ∧
      (t.slotState sl j = 5 ∨ t.slotState sl j = 0) ∧ (t.slot sl j).insts = [] ∧ t.getF (A.seSlotDl sl j) 0 58 = 0 ∧
      s.SameSlotRegs t sl j ∧
      (∀ a, a ≠ A.seSlotCtl sl j → sliceOf a = none → u.rd a = s.rd a) ∧ (u.slot sl j).insts = (s.slot sl j).insts ∧
      u.mem = s.mem) ∧
  (∀ (s : State) (sl j ctx : Nat) (v : Word), s.hasSlot sl j = true → s.plain (A.seSlotCtl sl j) ctx = true →
    (s.slice sl).engineReset = true → exec (.seArm sl j v ctx) s =
      .next (s.refuseWrite (A.seSlotCtl sl j) (setFlag v 3 true) ctx))

/-- O35, tier 2, R170, R171, R22, R259. An armed slot whose context runs, whose start condition is met and whose slice
serves starts, where the condition still stands once the held WAITs, and the CLAVE starts of lower slots on the same
pair, have taken their counts in the clk: a CLAVE start takes its count, BEAT0 becomes the beat count and STATE becomes
RUN, and the first fetch is presented in the next clk. A running slot of a paused context that stands at a block
boundary with work left becomes PAUSED. A stopping slot whose accesses have all been answered becomes IDLE. -/
def Obligations.SlotStates : Prop :=
  (∀ (s : State) (sl j : Nat), s.hasSlot sl j = true → s.slotState sl j = 1 → s.ctxRuns sl j = true →
    (s.slice sl).engineReset = false → s.startMet sl j = true → s.sliceServes sl = true →
    let m := s.getF (A.seSlotCtl sl j) 6 2
    let pair := s.getF (A.seSlotCtl sl j) 32 8
    let n := s.getF (A.seSlotCtl sl j) 40 16
    let u := s.reach (s.slot sl j).followAt
    let t := if m = 2 then (List.range j).foldl (fun t k => t.claveStarts sl k pair) (u.waitsTake sl pair false 16) else u
    (m = 2 → s.claveMay sl pair (s.slotCtx sl j) = true ∧ t.startReady sl j = true) →
    ∃ v : State, exec (.slotStart sl j) s = .next v ∧
      v = ((t.startNow sl j).fromNext fun x => x.pumpSlice sl).orderFetches sl ∧ v.GoesOnAt sl j (s.pc sl j) ∧
      v.beat0 sl j = t.beatCount ∧ v.now = t.now ∧ s.SameSlotRegs v sl j ∧
      (m = 2 → v.claveCount sl pair false = t.claveCount sl pair false - n)) ∧
  (∀ (s : State) (sl j : Nat), s.hasSlot sl j = true →
    let u := s.pumpSlice sl
    u.slotState sl j = 2 → u.ctxState (u.slotCtx sl j) = 2 → u.atBlockBoundary sl j = true → (u.slot sl j).workLeft = true →
    exec (.slotPaused sl j) s = .next (u.setSlotState sl j 3) ∧ (u.setSlotState sl j 3).slotState sl j = 3) ∧
  (∀ (s : State) (sl j : Nat), s.hasSlot sl j = true → s.stopDone sl j = true → ∃ t : State,
    exec (.stopComplete sl j) s = .next t ∧ t.slotState sl j = 0 ∧ (t.slot sl j).accs = [] ∧
      t.now = max s.now (s.slot sl j).followAt ∧ t.mem = s.mem)

/-- O36, tier 2, R167, R86, R184. The oldest answered fetch of a slot leaves the slot's accesses in the clk of its answer:
with OK its line is kept in the fetch buffer, with FENCED the access is held, with another code the line is kept as
bad until needed. The answered burst of descriptors is taken in the same way, line by line. Neither moves PC or any
register of the program. -/
def Obligations.FetchesArrive : Prop :=
  (∀ (s : State) (sl j : Nat) (a : SeAcc) (r : Resp), s.hasSlot sl j = true →
    let p := s.pumpEngine sl
    (p.slot sl j).answered .fetch = some (a, r) →
    let t := p.reach r.due
    let u := t.dropAcc sl j a.id
    let line := (a.offs.headD 0, ((accLines a r).head?.map fun l => l.2.1).getD 0)
    ∃ w : State, exec (.instrFetchArrive sl j) s = .next w ∧ w.now = max p.now r.due ∧ s.SameSlotRegs w sl j ∧
      p.StaysAt w sl j ∧ (a.dropped = true → w = u.pumpEngine sl) ∧
      (a.dropped = false → r.faultCode = 0x0A → w = (t.holdAcc sl j a.id).pumpEngine sl) ∧
      (a.dropped = false → r.faultCode ≠ 0 → r.faultCode ≠ 0x0A →
        w = (u.modSlot sl j fun x => { x with badFetch := x.badFetch ++ [(a.offs.headD 0, r.faultCode)] }).pumpEngine sl) ∧
      (a.dropped = false → r.faultCode = 0 → line ∈ (w.slot sl j).fetched ∧ ∃ v : State, w = v.pumpEngine sl ∧
        line ∈ (v.slot sl j).fetched ∧ (∀ x ∈ (v.slot sl j).accs, x.id ≠ a.id) ∧ v.now = max p.now r.due ∧ v.csr = p.csr ∧
        v.mem = p.mem)) ∧
  (∀ (s : State) (sl j : Nat) (a : SeAcc) (r : Resp), s.hasSlot sl j = true →
    let p := s.pumpEngine sl
    (p.slot sl j).answered .desc = some (a, r) →
    let t := p.reach r.due
    let u := t.dropAcc sl j a.id
    ∃ w : State, exec (.descBurstArrive sl j) s = .next w ∧ w.now = max p.now r.due ∧ s.SameSlotRegs w sl j ∧
      p.StaysAt w sl j ∧ (a.dropped = true → w = u.pumpEngine sl) ∧
      (a.dropped = false → r.faultCode = 0x0A → w = (t.holdAcc sl j a.id).pumpEngine sl) ∧
      (a.dropped = false → r.faultCode = 0 → w =
        (u.modSlot sl j fun x => ((accLines a r).zip a.offs).foldl (fun x p => x.putDesc a.handle p.2 p.1.2.1) x).pumpEngine
          sl))

/-- O37, tier 2, R86, R166, R184, R218, R265, R268. An answered access of a stream is handled in the clk of its answer by
its kind, or discarded where its data is no longer wanted; PC and the registers of the program stay. A held access is
issued again at its time, and a held packet to another chip. An access that a ring guard held is issued on the lane of
its bank set, or into the mesh. The oldest instruction of a slot whose work is done retires, counts as progress of its
context when it is a block instruction, and leaves the slot's records. -/
def Obligations.AccessesAnswered : Prop :=
  (∀ (s : State) (sl j k : Nat) (a : SeAcc) (r : Resp), s.hasSlot sl j = true →
    ((s.slot sl j).accs.find? fun a => a.id = k) = some a → a.resp = some r →
    (a.dropped = true ∨ a.kind = .read ∨ a.kind = .write ∨ a.kind = .signal) →
    let t := s.reach r.due
    ∃ w : State, exec (.seAccessResponse sl j k) s = .next w ∧ w.now = max s.now r.due ∧ s.SameSlotRegs w sl j ∧
      s.StaysAt w sl j ∧ (a.dropped = true → w = (t.dropAcc sl j k).pumpEngine sl) ∧
      (a.dropped = false → a.kind = .read → w = (t.readAnswer sl j a r).pumpEngine sl) ∧
      (a.dropped = false → a.kind = .write → w = (t.writeAnswer sl j a r).pumpEngine sl) ∧
      (a.dropped = false → a.kind = .signal → w = (t.signalAnswer sl j a r).pumpEngine sl)) ∧
  (∀ (s : State) (sl j : Nat) (a : SeAcc), s.hasSlot sl j = true → ((s.slot sl j).accs.find? fun a => a.held) = some a →
    ∃ t v : State, exec (.fencedReissue sl j) s = .next t ∧ t = v.pumpEngine sl ∧ t.now = max s.now a.retry ∧
      s.SameSlotRegs t sl j ∧ s.StaysAt t sl j ∧ (∀ x ∈ (v.slot sl j).accs, x.id = a.id → x.held = false) ∧
      (∃ x ∈ (v.slot sl j).accs, x.id = a.id ∧ x.req = a.req) ∧ v.csr = s.csr ∧ v.mem = s.mem) ∧
  (∀ (s : State) (sl j rid : Nat) (q : FpOut), s.hasSlot sl j = true → ((s.slot sl j).accs.any fun a => a.held) = false →
    s.engineMay sl = true → s.slotWorks sl j = true →
    (s.fabric.outbound.find? fun x => decide (x.sl = sl) && decide (x.slot = j) && x.retry.isSome) = some q →
    s.freeRid = some rid → s.outFree q.cls = true → ∃ t : State, exec (.fencedReissue sl j) s = .next t ∧
      t = (s.reach (q.retry.getD 0)).outLeaves sl
        { q with waiting := true, retry := none, rid := rid, pkt := { q.pkt with rid := rid } } ∧
      ∃ o ∈ t.fabric.outbound, o.rid = rid ∧ o.waiting = true ∧ o.sl = sl ∧ o.slot = j ∧ o.no = q.no) ∧
  (∀ (s : State) (sl j : Nat) (a : SeAcc), s.hasSlot sl j = true → s.engineMay sl = true →
    let u := s.pumpEngine sl
    u.accAt sl j (fun a => !a.vec && a.host.isNone && a.req.clave.isNone && (u.view sl a.handle).e.guarded) = some a →
    (a.req.home ≠ sl →
      let pt := if a.req.owner = 16 then ptLead else ptFollow
      exec (.guardHeldRetry sl j) s = .next (u.issueRemote sl j pt a) ∧ ((∀ c, u.accGuard sl a ≠ .fault c) → ∃ t : State,
        u.issueRemote sl j pt a = t ∧ t.now = max u.now (max (u.laneFrom sl pt) a.req.since) ∧ s.SameSlotRegs t sl j ∧
        ∃ p ∈ t.net.pkts, p.src = sl ∧ p.dst = a.req.home ∧ p.sent = t.now)) ∧
    (a.req.home = sl → ∀ c w, u.firstWin sl a.req.bset (u.others sl a.req.bset) (fun x => decide (x = a.req.owner)) 64
        (max (u.laneFrom sl a.req.bset) a.req.since) = some (c, w) →
      exec (.guardHeldRetry sl j) s = .next ((((((u.reach c).losers sl a.req.bset w (u.others sl a.req.bset)).takeLane sl
        a.req.bset).countSlot sl w a.req.cls).issueAcc sl j a).pumpEngine sl))) ∧
  (∀ (s : State) (sl j : Nat) (i : Inst) (rest : List Inst), s.hasSlot sl j = true →
    let p := s.pumpEngine sl
    let u := (if ((p.slot sl j).headIs 0x36).isSome then p.wipeOut sl j 65536 else p).settleXfers sl j
    let c := u.slotCtx sl j
    (u.slot sl j).insts = i :: rest → retires i = true → u.workDone sl j i = true → u.slotWorks sl j = true →
    (∀ h, (u.slot sl j).halt = some h → i.no < h.no) → ∃ t v : State,
    exec (.instructionRetire sl j) s = .next t ∧ t = (v.deadlineMet sl j).pumpEngine sl ∧
      t.now = max u.now (max i.lastStep (u.slot sl j).followAt) ∧ s.SameSlotRegs t sl j ∧ u.StaysAt t sl j ∧
      (isBlock i.op = true → t.getF (A.ctxProgress c) 24 24 = (u.getF (A.ctxProgress c) 24 24 + 1) % 2 ^ 24) ∧
      (v.slot sl j).insts = rest ∧ (∀ x ∈ v.net.xfers, ¬(x.sl = sl ∧ x.slot = j ∧ x.no = i.no)))

/-! ### The Rudiment instruction set -/

/-- O38, tier 2, R163, R172, R174. When Lead decodes a NOP, LOOP, ENDL, JUMP or SETH (R163 says when), the loop counter,
the PC and the H register become what R174 says, and no other register of the program changes; the slice then presents
what it can, and a fault that was pending may halt the slot. A branch whose target lies outside the range of PC halts
the slot. Offsets are modulo 2^25. -/
def Obligations.BranchInstructions : Prop :=
  (∀ (s : State) (sl j : Nat) (w : Word), s.Leads sl j 0x00 w → ∃ t : State, exec (.nop sl j) s = .next t ∧
    t = ((s.led sl j).setPc sl j ((s.led sl j).pc sl j + 1)).pumpSlice sl ∧ t.now = (s.led sl j).now ∧
    t.GoesOnAt sl j (((s.led sl j).pc sl j + 1) % 2 ^ 27) ∧ s.SameSlotRegs t sl j) ∧
  (∀ (s : State) (sl j : Nat) (w : Word), s.Leads sl j 0x08 w →
    let u := s.led sl j
    let l := fld w 54 2
    let n := if flag w 53 then s.sreg sl j (fld w 48 4) % 65536 else fld w 0 16
    ∃ t : State, exec (.loop sl j) s = .next t ∧ t.now = u.now ∧
      (∀ k, k < 16 → t.sreg sl j k = s.sreg sl j k) ∧ (∀ k, k < 8 → t.hreg sl j k = s.hreg sl j k) ∧
      (∀ k, k < 4 → k ≠ l → t.lreg sl j k = s.lreg sl j k) ∧
      (n = 0 → t = (u.branch sl j (fld w 32 16)).pumpSlice sl ∧ t.lreg sl j l = s.lreg sl j l ∧
        (u.pc sl j + fld w 32 16 < 2 ^ 27 → t.GoesOnAt sl j (u.pc sl j + fld w 32 16))) ∧
      (n ≠ 0 → t.lreg sl j l = n ∧ t.GoesOnAt sl j ((u.pc sl j + 1) % 2 ^ 27) ∧ ∃ v : State, t = v.pumpSlice sl ∧
        (∀ a, a ≠ A.seSlotPc sl j → a ≠ A.seSlotLoop sl j → v.rd a = u.rd a) ∧ v = { u with csr := v.csr })) ∧
  (∀ (s : State) (sl j : Nat) (w : Word), s.Leads sl j 0x09 w →
    let u := s.led sl j
    let l := fld w 54 2
    let d := sext 24 (fld w 0 24)
    ∃ t : State, exec (.endl sl j) s = .next t ∧ t.now = u.now ∧ t.lreg sl j l = s.lreg sl j l - 1 ∧
      (∀ k, k < 16 → t.sreg sl j k = s.sreg sl j k) ∧ (∀ k, k < 8 → t.hreg sl j k = s.hreg sl j k) ∧
      (∀ k, k < 4 → k ≠ l → t.lreg sl j k = s.lreg sl j k) ∧
      (1 < s.lreg sl j l → t = ((u.setLreg sl j l (s.lreg sl j l - 1)).branch sl j d).pumpSlice sl ∧
        (0 ≤ (u.pc sl j : Int) + d → (u.pc sl j : Int) + d < 2 ^ 27 → t.GoesOnAt sl j ((u.pc sl j : Int) + d).toNat)) ∧
      (s.lreg sl j l ≤ 1 → t.GoesOnAt sl j ((u.pc sl j + 1) % 2 ^ 27) ∧ ∃ v : State, t = v.pumpSlice sl ∧
        (∀ a, a ≠ A.seSlotPc sl j → a ≠ A.seSlotLoop sl j → v.rd a = u.rd a) ∧ v = { u with csr := v.csr })) ∧
  (∀ (s : State) (sl j : Nat) (w : Word), s.Leads sl j 0x0A w →
    let u := s.led sl j
    let c := fld w 54 2
    let v := s.sreg sl j (fld w 48 4)
    let d := sext 24 (fld w 0 24)
    let taken := c = 0 ∨ (c = 1 ∧ v = 0) ∨ (c = 2 ∧ v ≠ 0)
    c ≠ 3 ∧ ∃ t : State, exec (.jump sl j) s = .next t ∧ t.now = u.now ∧ s.SameSlotRegs t sl j ∧
      (taken → t = (u.branch sl j d).pumpSlice sl ∧
        (0 ≤ (u.pc sl j : Int) + d → (u.pc sl j : Int) + d < 2 ^ 27 → t.GoesOnAt sl j ((u.pc sl j : Int) + d).toNat)) ∧
      (¬taken → t = (u.setPc sl j (u.pc sl j + 1)).pumpSlice sl ∧ t.GoesOnAt sl j ((u.pc sl j + 1) % 2 ^ 27))) ∧
  (∀ (s : State) (sl j : Nat) (w : Word), s.Leads sl j 0x10 w →
    let u := s.led sl j
    let d := fld w 53 3
    let h := s.hreg sl j d
    ∃ t : State, exec (.seth sl j) s = .next t ∧ t.now = u.now ∧
      (fld w 46 2 = 1 → t.hreg sl j d = (h.1, (h.2 + fld w 0 25) % 2 ^ 25)) ∧
      (fld w 46 2 ≠ 1 → t.hreg sl j d =
        (if flag w 52 then s.sreg sl j (fld w 48 4) % 4096 else fld w 25 12,
         if fld w 46 2 = 0 then fld w 0 25 else (s.sreg sl j (fld w 42 4) + fld w 0 25) % 2 ^ 25)) ∧
      (∀ k, k < 16 → t.sreg sl j k = s.sreg sl j k) ∧ (∀ k, k < 4 → t.lreg sl j k = s.lreg sl j k) ∧
      (∀ k, k < 8 → k ≠ d → t.hreg sl j k = s.hreg sl j k) ∧ t.GoesOnAt sl j ((u.pc sl j + 1) % 2 ^ 27) ∧
      ∃ v : State, t = v.pumpSlice sl ∧ (∀ a, a ≠ A.seSlotPc sl j → a ≠ A.seHreg sl j d → v.rd a = u.rd a) ∧
        v = { u with csr := v.csr }) ∧
  (∀ (t : State) (sl j : Nat) (d : Int),
    (0 ≤ (t.pc sl j : Int) + d → (t.pc sl j : Int) + d < 2 ^ 27 → ((t.branch sl j d).pc sl j : Int) = (t.pc sl j : Int) + d ∧
      (∀ a, a ≠ A.seSlotPc sl j → (t.branch sl j d).rd a = t.rd a) ∧ (t.branch sl j d).mem = t.mem) ∧
    (((t.pc sl j : Int) + d < 0 ∨ 2 ^ 27 ≤ (t.pc sl j : Int) + d) → t.branch sl j d = t.haltAtPc sl j 0x01))

/-- O39, tier 2, R163, R172, R175. When Lead decodes a SETS, S[SD] becomes the result that the table of R175 gives for SOP 0
to 10, modulo 2^32, the PC moves to the next instruction, and no other register of the program changes; the slice then
presents what it can, and a fault that was pending may halt the slot. A SETS of SOP 11 to 15 is not a legal
instruction. The instruction itself reads no byte of the storage and writes none. -/
def Obligations.SetsInstruction : Prop :=
  (∀ (s : State) (sl j : Nat) (w : Word), s.Leads sl j 0x11 w →
    let u := s.led sl j
    let d := fld w 52 4
    let x : BitVec 32 := BitVec.ofNat 32 (s.sreg sl j (fld w 48 4))
    let imm : BitVec 32 := w.extractLsb' 0 32
    let b : BitVec 32 := BitVec.ofNat 32 (s.sreg sl j (imm.toNat % 16))
    let r : BitVec 32 := match fld w 44 4 with
      | 0 => imm
      | 1 => x + imm
      | 2 => x - imm
      | 3 => x * imm
      | 4 => x &&& imm
      | 5 => x ||| imm
      | 6 => x ^^^ imm
      | 7 => x <<< (imm.toNat % 32)
      | 8 => x >>> (imm.toNat % 32)
      | 9 => x + b
      | _ => BitVec.ofNat 32 (s.lreg sl j (imm.toNat % 4))
    fld w 44 4 ≤ 10 ∧ ∃ t v : State, exec (.sets sl j) s = .next t ∧ t.sreg sl j d = r.toNat ∧ t.now = u.now ∧
      (∀ k, k < 16 → k ≠ d → t.sreg sl j k = s.sreg sl j k) ∧ (∀ k, k < 8 → t.hreg sl j k = s.hreg sl j k) ∧
      (∀ k, k < 4 → t.lreg sl j k = s.lreg sl j k) ∧ t.GoesOnAt sl j ((u.pc sl j + 1) % 2 ^ 27) ∧ t = v.pumpSlice sl ∧
      (∀ a, a ≠ A.seSlotPc sl j → a ≠ A.seSreg sl j (d / 2) → v.rd a = u.rd a) ∧ v = { u with csr := v.csr }) ∧
  (∀ w : Word, opOf w = 0x11 → 11 ≤ fld w 44 4 → legalOp w = false)

/-- O40, tier 2, R22, R163, R172, R176, R178, R179, R184, R258, R259. A WAIT on a pair that the context may not use halts
the slot with DENIED; otherwise, once the held WAITs of lower slots on the counter have taken theirs, the slot takes
its count where the count is there and goes on, and is held where it is not. A held WAIT is tested again in the same
way. A WAITBEAT goes on at once where its beat has been reached, and holds the slot for it otherwise. A DEADLINE sets
target, policy and cover, and is armed unless it covers nothing. A REARM is queued and holds the slot; Follow applies
it to the slot itself, or to an IDLE slot of the same context, and halts on a slot of another context or a FAULTED
one. In each the slice then presents what it can, and a fault that was pending may halt the slot. -/
def Obligations.SyncInstructions : Prop :=
  (∀ (s : State) (sl j : Nat) (w : Word), s.Leads sl j 0x18 w →
    let u := s.led sl j
    let room := flag w 55
    let pair := fld w 40 8
    let n := if flag w 52 then s.sreg sl j (fld w 48 4) % 65536 else fld w 0 16
    let v := u.waitsTake sl pair room j
    (u.claveMay sl pair (u.slotCtx sl j) = false → exec (.wait sl j) s = .next ((u.haltAtPc sl j 0x02).pumpSlice sl)) ∧
    (u.claveMay sl pair (u.slotCtx sl j) = true → ∃ t : State, exec (.wait sl j) s = .next t ∧ t.now = v.now ∧
      s.SameSlotRegs t sl j ∧
      (n ≤ v.claveCount sl pair room → t.claveCount sl pair room = v.claveCount sl pair room - n ∧
        t.GoesOnAt sl j ((u.pc sl j + 1) % 2 ^ 27)) ∧
      (v.claveCount sl pair room < n → t.claveCount sl pair room = v.claveCount sl pair room ∧
        t.GoesOnAt sl j (u.pc sl j) ∧ (t.slotState sl j = 4 ∨ (t.slot sl j).hold = .wait room pair n)))) ∧
  (∀ (s : State) (sl j pair n : Nat) (room : Bool), s.hasSlot sl j = true → (s.slot sl j).hold = .wait room pair n →
    s.slotState sl j = 2 → s.ctxRuns sl j = true → pair < 256 →
    let v := s.waitsTake sl pair room j
    ∃ t : State, exec (.waitSatisfied sl j) s = .next t ∧ t = (s.waitsTake sl pair room (j + 1)).pumpSlice sl ∧ t.now = v.now ∧
      (n ≤ v.claveCount sl pair room → t.claveCount sl pair room = v.claveCount sl pair room - n ∧
        t.GoesOnAt sl j ((s.pc sl j + 1) % 2 ^ 27)) ∧
      (v.claveCount sl pair room < n → t.claveCount sl pair room = v.claveCount sl pair room ∧ t.GoesOnAt sl j (s.pc sl j))) ∧
  (∀ (s : State) (sl j : Nat) (w : Word), s.Leads sl j 0x1A w →
    let u := s.led sl j
    let b := s.beat0 sl j + fld w 0 32 + if flag w 52 then s.sreg sl j (fld w 48 4) else 0
    ∃ t : State, exec (.waitbeat sl j) s = .next t ∧ t.now = u.now ∧ s.SameSlotRegs t sl j ∧
      (u.beatReached b = true → t = (u.satisfied sl j).pumpSlice sl ∧ t.GoesOnAt sl j ((u.pc sl j + 1) % 2 ^ 27)) ∧
      (u.beatReached b = false → t = (u.modSlot sl j fun x => { x with hold := .beat b }).pumpSlice sl ∧
        t.GoesOnAt sl j (u.pc sl j))) ∧
  (∀ (s : State) (sl j : Nat) (w : Word), s.Leads sl j 0x1B w →
    let u := s.led sl j
    let b := s.beat0 sl j + fld w 0 32 + if flag w 52 then s.sreg sl j (fld w 48 4) else 0
    let a := A.seSlotDl sl j
    ∃ t v : State, exec (.deadline sl j) s = .next t ∧ s.SameSlotRegs t sl j ∧ t.GoesOnAt sl j ((u.pc sl j + 1) % 2 ^ 27) ∧
      v.getF a 0 48 = b % 2 ^ 48 ∧ v.getB a 48 = decide (fld w 32 8 ≠ 0) ∧ v.getB a 49 = flag w 47 ∧
      v.getF a 50 8 = fld w 32 8 ∧ v.pc sl j = (u.pc sl j + 1) % 2 ^ 27 ∧
      (∀ r, r ≠ a → r ≠ A.seSlotPc sl j → v.rd r = u.rd r) ∧ v.mem = u.mem ∧
      t = (if fld w 32 8 ≠ 0 ∧ v.beatReached b = true then (v.pass 1).testDeadline sl j else v).pumpSlice sl ∧
      (v.beatReached b = false → t.now = u.now ∧ t.getF a 0 48 = b % 2 ^ 48 ∧ t.getB a 49 = flag w 47)) ∧
  (∀ (s : State) (sl j : Nat) (w : Word), s.Leads sl j 0x28 w →
    let u := s.led sl j
    ∃ t : State, exec (.rearm sl j) s = .next t ∧ t.now = u.now ∧ s.SameSlotRegs t sl j ∧ t.GoesOnAt sl j (u.pc sl j) ∧
      t = ((u.pushInst sl j (u.newInst sl j w)).modSlot sl j fun x => { x with hold := .follow }).pumpSlice sl) ∧
  (∀ (s : State) (sl j : Nat) (i : Inst), s.hasSlot sl j = true → s.Follows sl j 0x28 i →
    let u := s.followed sl j
    let k := fld i.word 48 4
    let stop := fun c => u.setHalt sl j { no := i.no, blk := 0, elem := 0, read := false, code := c, addr := none }
    (k = j → ∃ t : State, exec (.rearmExecute sl j) s = .next t ∧ t = ((u.dropHead sl j).rearmTarget sl j j i).pumpSlice sl ∧
      t.slotState sl j = 1 ∧ t.pc sl j = u.getF (A.seSlotPc sl j) 32 27 ∧ t.now = u.now) ∧
    (k ≠ j → u.slotCtx sl k ≠ u.slotCtx sl j → exec (.rearmExecute sl j) s = .next ((stop 0x02).pumpSlice sl)) ∧
    (k ≠ j → u.slotCtx sl k = u.slotCtx sl j → u.slotState sl k = 4 →
      exec (.rearmExecute sl j) s = .next ((stop 0x0F).pumpSlice sl)) ∧
    (k ≠ j → u.slotCtx sl k = u.slotCtx sl j → u.slotState sl k = 0 → ∃ t v : State,
      exec (.rearmExecute sl j) s = .next t ∧ t = v.pumpSlice sl ∧
      v = ((((u.reach (u.slot sl k).followAt).rearmTarget sl j k i).dropHead sl j).modSlot sl j fun x =>
        { x with hold := .none }).nextPc sl j ∧ t.slotState sl k = 1 ∧ t.pc sl k = u.getF (A.seSlotPc sl k) 32 27 ∧
      t.GoesOnAt sl j ((u.pc sl j + 1) % 2 ^ 27) ∧ t.now = max u.now (u.slot sl k).followAt))

/-- O41, tier 2, R118, R163, R172, R176, R177, R179, R260. When such an instruction is the oldest of its slot and Follow may
execute it, it leaves the slot's records. HALT makes the slot IDLE and sets its DONE bit. MARK counts one mark of the
context, and with LOG queues a log record of its VAL. KNEXT is a kernel boundary of the context, which raises EPOCH by
1, and the slot goes on. SIGNAL adds N to its counter of the pair in the same slice, which saturates and then shows
overflow, or sends a request to another slice; a slice that does not exist is RANGE, a pair that the context may not
use DENIED. A fresh one is decoded, queued, and executed where it is then the oldest. In each the slice then presents
what it can, and a fault that was pending may halt the slot. -/
def Obligations.FollowInstructions : Prop :=
  (∀ (s : State) (sl j : Nat) (i : Inst), s.hasSlot sl j = true →
    let p := s.pumpSlice sl
    p.leadSlot sl ≠ some j →
    let u := p.followed sl j
    let c := u.slotCtx sl j
    (p.Follows sl j 0x01 i → ∃ t : State, exec (.halt sl j) s = .next t ∧ t.slotState sl j = 0 ∧
      t.getB (A.seStat sl) j = true ∧ (t.slot sl j).insts = (u.slot sl j).insts.drop 1 ∧ (t.slot sl j).hold = .none ∧
      t.getF (A.seSlotDl sl j) 0 58 = 0 ∧ s.SameSlotRegs t sl j ∧ t.now = u.now) ∧
    (p.Follows sl j 0x02 i → ∃ t v : State, exec (.mark sl j) s = .next t ∧ t = v.pumpSlice sl ∧
      t.getF (A.ctxProgress c) 0 24 = (u.getF (A.ctxProgress c) 0 24 + 1) % 2 ^ 24 ∧ s.SameSlotRegs t sl j ∧
      u.StaysAt t sl j ∧ t.now = u.now ∧ (v.slot sl j).insts = (u.slot sl j).insts.drop 1 ∧ v.mem = u.mem ∧
      (flag i.word 32 = false → t.belfry = u.belfry) ∧
      (flag i.word 32 = true → u.belfry.logQueue.length < 16 →
        ∃ r, t.belfry.logQueue = u.belfry.logQueue ++ [r] ∧ fld r.w0 32 32 = fld i.word 0 32)) ∧
    (p.Follows sl j 0x0B i → ∃ t v : State, exec (.knext sl j) s = .next t ∧ t = v.pumpSlice sl ∧
      v = (((u.dropHead sl j).modSlot sl j fun x => { x with hold := .none }).kernelBoundary c).nextPc sl j ∧
      ((∀ k ∈ u.force.commits, k.h < 4096) → u.atBoundary c = false → t.now = u.now ∧ s.SameSlotRegs t sl j ∧
        t.getF (A.ctxE1 c) 0 32 = (u.getF (A.ctxE1 c) 0 32 + 1) % 2 ^ 32 ∧
        t.GoesOnAt sl j ((u.pc sl j + 1) % 2 ^ 27))) ∧
    (p.Follows sl j 0x19 i → flag i.word 54 = false → u.hasSlice sl = true →
      u.claveMay sl (fld i.word 40 8) c = true → ∃ t v : State,
      exec (.signal sl j) s = .next t ∧ t = v.pumpSlice sl ∧ t.now = u.now ∧ s.SameSlotRegs t sl j ∧ u.StaysAt t sl j ∧
        t.claveCount sl (fld i.word 40 8) (flag i.word 55) =
          min (u.claveCount sl (fld i.word 40 8) (flag i.word 55) + fld i.word 0 16) 0xFFFF ∧
        (v.slot sl j).insts = (u.slot sl j).insts.drop 1 ∧
        (∀ a, a ≠ A.semPair sl (fld i.word 40 8) → v.rd a = u.rd a) ∧ v.mem = u.mem) ∧
    (p.Follows sl j 0x19 i → flag i.word 54 = true → u.hasSlice (fld i.word 32 6) = true → ∃ t : State,
      exec (.signal sl j) s = .next t ∧ t.now = u.now ∧ s.SameSlotRegs t sl j ∧ u.StaysAt t sl j ∧
      t = ((u.addAcc sl j (u.signalAcc sl j i (fld i.word 32 6))).putInst sl j { i with sent := true }).pumpSlice sl)) ∧
  (∀ (s : State) (sl j : Nat) (w : Word), (s.pumpSlice sl).Leads sl j (opOf w) w →
    (((s.pumpSlice sl).slot sl j).headIs (opOf w) = none ∨ (s.pumpSlice sl).leadSlot sl = some j) →
    let u := (s.pumpSlice sl).led sl j
    let q := u.pushInst sl j (u.newInst sl j w)
    let held := (q.modSlot sl j fun x => { x with hold := .follow }).pumpSlice sl
    let going := (q.nextPc sl j).pumpSlice sl
    (opOf w = 0x01 → exec (.halt sl j) s = .next (held.follow sl j 0x01 fun t _ => t.haltExec sl j)) ∧
    (opOf w = 0x02 → ∃ t : State, exec (.mark sl j) s = .next t ∧ t = going.follow sl j 0x02 (fun t i => t.markExec sl j i) ∧
      s.SameSlotRegs t sl j ∧ t.GoesOnAt sl j ((u.pc sl j + 1) % 2 ^ 27)) ∧
    (opOf w = 0x0B → exec (.knext sl j) s = .next (held.follow sl j 0x0B fun t _ => t.knextExec sl j)) ∧
    (opOf w = 0x19 → ∃ t : State, exec (.signal sl j) s = .next t ∧ t = going.follow sl j 0x19 (fun t i => t.signalExec sl j i) ∧
      s.SameSlotRegs t sl j ∧ t.GoesOnAt sl j ((u.pc sl j + 1) % 2 ^ 27)))

/-- O42, tier 2, R163, R164, R166, R172, R180, R181, R184, R241, R244, R248, R290. When Lead decodes a block instruction, its
record joins the slot's records with the S and H registers of that clk, PC moves on, and the slice then presents and
steps what it can; no register of the program changes, and a fault that was pending may halt the slot. A MCAST whose
group has another source slice halts the slot with RANGE; any other begins a transfer, unless nothing is left to send. A
word that is no legal instruction halts the slot with ILLEGAL_OP at its PC, once what went before it is done. -/
def Obligations.BlockInstructions : Prop :=
  (∀ (s : State) (sl j op : Nat) (c : Instr) (w : Word), s.Leads sl j op w →
    let u := s.led sl j
    let p := ((u.pushBlock sl j w id).pumpSlice sl).pumpAll sl
    (c, op) ∈ [(.fill sl j, 0x30), (.copy sl j, 0x31), (.accin sl j, 0x32), (.convert sl j, 0x33), (.gemv sl j, 0x34),
      (.reduce sl j, 0x35), (.wipe sl j, 0x36), (.move sl j, 0x20), (.remote sl j, 0x22), (.toll sl j, 0x23),
      (.scrub sl j, 0x38)] → ∃ t : State, exec c s = .next t ∧ t.now = u.now ∧ s.SameSlotRegs t sl j ∧
      t.GoesOnAt sl j ((u.pc sl j + 1) % 2 ^ 27) ∧ t.ports = s.ports ∧ t.sysport = s.sysport ∧ t.belfry = s.belfry ∧
      (0x30 ≤ op → op < 0x38 → t = p) ∧ (op < 0x30 → t = p.pumpEngine sl) ∧ (op = 0x38 → t = p.scrubPump sl)) ∧
  (∀ (s : State) (sl j : Nat) (w : Word), s.Leads sl j 0x21 w →
    let u := s.led sl j
    (u.getF (A.qosGrpa (fld w 0 4)) 0 6 ≠ sl →
      exec (.mcast sl j) s = .next (((u.haltAtPc sl j 0x01).pumpSlice sl).pumpEngine sl)) ∧
    (u.getF (A.qosGrpa (fld w 0 4)) 0 6 = sl → ∃ t v : State, exec (.mcast sl j) s = .next t ∧
      t = (v.pumpSlice sl).pumpEngine sl ∧ t.now = u.now ∧ s.SameSlotRegs t sl j ∧
      t.GoesOnAt sl j ((u.pc sl j + 1) % 2 ^ 27) ∧ t.ports = s.ports ∧ t.sysport = s.sysport ∧ t.belfry = s.belfry ∧
      v.slots = (u.pushBlock sl j w id).slots ∧ v.csr = (u.pushBlock sl j w id).csr ∧
      (∀ i, (u.pushBlock sl j w id).instNo sl j (u.slot sl j).nextNo = some i → i.abandoned = false → i.wblk < i.count →
        ∃ x, v.net.xfers = u.net.xfers ++ [x] ∧ x.g = fld w 0 4 ∧ x.no = (u.slot sl j).nextNo ∧ x.sl = sl ∧ x.slot = j ∧
          x.sent = 0))) ∧
  (∀ (t : State) (sl j : Nat) (w : Word), (t.slot sl j).resuming = false →
    let u := t.pushBlock sl j w id
    (u.slot sl j).insts = (t.slot sl j).insts ++ [t.newInst sl j w] ∧ u.pc sl j = (t.pc sl j + 1) % 2 ^ 27 ∧
      u.mem = t.mem ∧ (t.newInst sl j w).word = w ∧ (t.newInst sl j w).no = (t.slot sl j).nextNo ∧
      (t.newInst sl j w).h = (List.range 8).map (t.hreg sl j) ∧ (t.newInst sl j w).sr = (List.range 16).map (t.sreg sl j)) ∧
  (∀ (s : State) (sl j : Nat) (w : Word), s.hasSlot sl j = true →
    let p := s.pumpSlice sl
    let u := p.reach (p.slice sl).leadAt
    let v := u.modSlice sl fun x => { x with leadTurn := j, leadAt := u.now + 1 }
    p.instrAt sl j = some w → p.leadSlot sl = some j → legalOp w = false → ∃ t : State,
    exec (.illegalOp sl j) s = .next t ∧ t = (v.haltAtPc sl j 0x0C).pumpSlice sl ∧ t.now = u.now ∧ s.SameSlotRegs t sl j ∧
      ((p.slot sl j).insts = [] → (p.slot sl j).accs = [] → p.outWaiting sl j = false → p.strokesOut sl j = false →
        t.slotState sl j = 4 ∧ t.pc sl j = p.pc sl j ∧ t.getF (A.seSlotPos sl j) 16 8 = 0x0C))

/-! ### Clave pairs, strike, the error ring, scrub passes and the Tuner -/

/-- O43, tier 2, R257, R258, R259, R276. SEM_OP with OP SIGNAL adds its count to the counter it names, up to 0xFFFF, and
sets OVF exactly where the sum exceeds 0xFFFF (or OVF was set). With OP TAKE it lowers the counter by its count where
the counter is at least the count, with TAKEN 1 in SEM_LAST, and changes nothing of the pair otherwise, with TAKEN 0;
the takes that slots wait for on that counter go first, and where a SIGNAL of the same clk has reached the pair all of
them follow it, one clk later; with no slot waiting the counter judged is the one before. The pair's other counter,
every register that those takes leave and the memory stay. A write of SEM_PAIR is stored, one clk after such a SIGNAL. A clave
operation of a context that may not use the pair answers DENIED and changes nothing. -/
def Obligations.ClaveOperations : Prop :=
  (∀ (s : State) (sl ctx : Nat) (v : Word), s.hasSlice sl = true → s.plain (A.semOp sl) ctx = true →
    let n := fld v 0 8
    let room := flag v 8
    let c := s.claveCount sl n room
    ∃ t : State, exec (.semOpSignal sl v ctx) s = .next t ∧ t.claveCount sl n room = min (c + fld v 16 16) 0xFFFF ∧
      t.claveCount sl n (!room) = s.claveCount sl n (!room) ∧
      t.getB (A.semPair sl n) 32 = (s.getB (A.semPair sl n) 32 || decide (0xFFFF < c + fld v 16 16)) ∧
      t.rd (A.semLast sl) = t.claveWord sl n false ∧
      (∀ a, a ≠ A.semPair sl n → a ≠ A.semLast sl → t.rd a = s.rd a) ∧ t.mem = s.mem ∧ t.now = s.now) ∧
  (∀ (s : State) (sl ctx : Nat) (v : Word), s.hasSlice sl = true → s.plain (A.semOp sl) ctx = true →
    let n := fld v 0 8
    let room := flag v 8
    let u := s.blockingTakes sl n room
    let c := u.claveCount sl n room
    ∃ t : State, exec (.semOpTake sl v ctx) s = .next t ∧
      (fld v 16 16 ≤ c → t.claveCount sl n room = c - fld v 16 16 ∧ t.getB (A.semLast sl) 32 = true) ∧
      (c < fld v 16 16 → t.rd (A.semPair sl n) = u.rd (A.semPair sl n) ∧ t.getB (A.semLast sl) 32 = false) ∧
      t.claveCount sl n (!room) = s.claveCount sl n (!room) ∧
      ((∀ j, j < 16 → (s.slot sl j).hold = .none ∧ s.slotState sl j ≠ 1) → u = s.claveTime sl n) ∧
      (∀ a, a ≠ A.semPair sl n → a ≠ A.semLast sl → t.rd a = u.rd a) ∧ t.mem = s.mem ∧
      t.now = if Tbl.get 0 (s.slice sl).signalAt n = s.now + 1 then s.now + 1 else s.now) ∧
  (∀ (s : State) (sl n ctx : Nat) (v : Word), s.hasSlice sl = true → n < 256 → s.plain (A.semPair sl n) ctx = true →
    exec (.semPairWrite sl n v ctx) s = .next ((s.claveTime sl n).storeReg (A.semPair sl n) v true ctx)) ∧
  (∀ (s : State) (sl ctx : Nat) (q : ClaveOp), s.killedIn sl ctx = false → s.claveMay sl q.pair ctx = false →
    s.performClave sl ctx q = (rspDenied, none, s))

/-- O44, tier 2, R224, R225, R245, R253. On a slice and bank set with no step ready, the strike path only lets the engines
under way go on; with one ready that wins a slot for the strike claimant, the set's lane is taken for that clk and the
step of the oldest operation is performed. A strike operation that needs the row accumulators takes them where they
are free, which empties them and shows the slot as their holder. Once the sums of a block are whole, its output lines
are written as far as slots come; a block whose output is whole, or that has none, ends, and the accumulators are
free. A write of SEED other than 0 is stored at once and loads the LFSR of its bank in the next clk, not before; a write
of 0 changes nothing. -/
def Obligations.StrikeSteps : Prop :=
  (∀ (s : State) (sl b : Nat), s.hasSlice sl = true → b < 8 →
    let u := s.pumpAll sl
    (u.readySteps sl b = [] → exec (.strikeStep sl b) s = .next u) ∧
    (∀ (first c o : Nat) (r : Ready), (∃ q ∈ u.readySteps sl b, q.start = first) → (∀ q ∈ u.readySteps sl b, first ≤ q.start) →
      let x : Others := { strike := fun n => (u.readySteps sl b).any fun q => decide (q.start ≤ n), patrol := u.patrolOn sl b }
      u.firstWin sl b x (fun w => decide (w = 19)) 64 (max first (u.laneFrom sl b)) = some (c, o) →
      ((u.readySteps sl b).find? fun q => decide (q.start ≤ c)) = some r →
      exec (.strikeStep sl b) s =
        .next ((((((u.reach c).losers sl b 19 x).takeLane sl b).countSlot sl 19 (u.slotClass sl r.slot)).runStep sl b r).pumpAll sl))) ∧
  (∀ (s : State) (sl j : Nat) (i : Inst), s.hasSlice sl = true → j < 16 →
    let u := s.pumpAll sl
    u.takes sl j = some i →
    (u.accsFree sl j = false → exec (.accumTake sl j) s = .next u) ∧
    (u.accsFree sl j = true → ∃ t f : State, exec (.accumTake sl j) s = .next f ∧
      f = (t.modInst sl j i.no fun k => { k with taken := true }).pumpAll sl ∧ f.now = max u.now i.began ∧ t.now = f.now ∧ t.getF (A.strkAcc sl) 0 4 = j ∧ t.getB (A.strkAcc sl) 4 = true ∧
      (∀ b, b < 64 → (t.bank sl b).accs = [] ∧ (t.bank sl b).shadow = []) ∧ (∀ a, a ≠ A.strkAcc sl → t.rd a = u.rd a))) ∧
  (∀ (s : State) (sl j : Nat) (i : Inst), s.hasSlice sl = true → j < 16 →
    let u := s.pumpAll sl
    u.strikeInst sl j = some i → (i.op = 0x34 ∨ i.op = 0x35) → i.taken = true → (u.slot sl j).halt = none →
    u.sumsDone sl j i = true →
    (i.nout = true → exec (.reductionTree sl j) s = .next ((u.modInst sl j i.no Inst.endBlock).pumpAll sl)) ∧
    (i.nout = false → ∀ k, let start := match i.tree with
        | some c => c + u.latency
        | none => i.began
      let t := u.treeWrites sl j start ((dstOf i (u.opsNow sl i)).walkLines + 1)
      t.strikeInst sl j = some k → let dst := dstOf k (t.opsNow sl k)
      ((t.slot sl j).halt = none → k.no = i.no → k.wblk = i.wblk → dst.walkLines ≤ dst.nextUsed k.wpos →
        exec (.reductionTree sl j) s = .next (((t.modInst sl j i.no Inst.endBlock).freeAccs sl).pumpAll sl)) ∧
      (dst.nextUsed k.wpos < dst.walkLines → exec (.reductionTree sl j) s = .next t))) ∧
  (∀ (s : State) (sl b ctx : Nat) (v : Word), s.hasSlice sl = true → b < 64 → s.plain (A.strkSeed sl b) ctx = true →
    (fld v 0 16 = 0 → exec (.strkSeedWrite sl b v ctx) s = .next s) ∧
    (fld v 0 16 ≠ 0 → ∃ t : State, exec (.strkSeedWrite sl b v ctx) s = .next t ∧
      t.getF (A.strkSeed sl b) 0 16 = fld v 0 16 ∧ t.lfsr sl b = s.lfsr sl b ∧ (t.pass 1).lfsr sl b = fld v 0 16 ∧
      (∀ a, a ≠ A.strkSeed sl b → t.rd a = s.rd a) ∧ t.mem = s.mem ∧ t.slots = s.slots))

/-- O45, tier 2, R281, R285. With no record waiting, nothing is written. Otherwise the record that has waited longest is
written at index HEAD; HEAD moves on modulo 1,024 and the count of written records by 1; the first record since the
last clear is kept; UNREAD rises by 1, and where it is 1,024 the lost count and RD rise instead; GLB_IRQ_CAUSE.ERR is
set exactly where ERR_CFG selects the code (or it was set). The other waiting records keep their order and none in the
ring's other places changes. The end of a window frees the record that a slice holds for further correctable words. A
write of ERR_RD sets UNREAD to (HEAD − RD) mod 1,024. A write of ERR_STAT with FIRSTCLR set clears the first record. -/
def Obligations.ErrorRing : Prop :=
  (∀ s : State, s.errors.queue = [] → exec .errorRecordWrite s = .next s) ∧
  (∀ (s : State) (r : ErrRec) (rest : List ErrRec), s.errors.queue = r :: rest →
    let h := s.getF A.errHead 0 10
    let n := s.getF A.errStat 35 11
    let w := { r with heldCe := false }
    ∃ (t : State) (more : List ErrRec), exec .errorRecordWrite s = .next t ∧
      Tbl.get ErrRec.zero t.errors.ring h = w ∧ (∀ i, i ≠ h → Tbl.get ErrRec.zero t.errors.ring i = Tbl.get ErrRec.zero s.errors.ring i) ∧
      t.errors.first = some (s.errors.first.getD w) ∧ t.errors.queue = rest ++ more ∧
      t.getF A.errHead 0 10 = (h + 1) % 1024 ∧ t.getF A.errHead 10 48 = (s.getF A.errHead 10 48 + 1) % 2 ^ 48 ∧
      t.getF A.errStat 35 11 = (if n < 1024 then n + 1 else n) ∧
      (n < 1024 → t.getF A.errRd 0 10 = s.getF A.errRd 0 10 ∧ t.getF A.errStat 0 32 = s.getF A.errStat 0 32) ∧
      (1024 ≤ n → t.getF A.errRd 0 10 = (s.getF A.errRd 0 10 + 1) % 1024 ∧
        t.getF A.errStat 0 32 = (s.getF A.errStat 0 32 + 1) % 2 ^ 32) ∧
      t.getB A.errStat 32 = true ∧ t.getB A.errStat 33 = true ∧
      t.getB A.glbIrqCause 2 = (s.getB A.glbIrqCause 2 || levelSelects (s.getF A.errCfg 0 2) (fld r.w0 0 8)) ∧
      (∀ a, a ≠ A.errHead → a ≠ A.errStat → a ≠ A.errRd → a ≠ A.glbIrqCause → t.rd a = s.rd a) ∧
      t.mem = s.mem ∧ t.ports = s.ports ∧ t.slots = s.slots ∧ t.now = s.now) ∧
  (∀ (s : State) (sl : Nat), s.hasSlice sl = true → ∃ t : State, exec (.ceWindowEnd sl) s = .next t ∧
    ((s.slice sl).ceWindow = 0 → t = s) ∧
    ((s.slice sl).ceWindow ≠ 0 → t.now = max s.now ((s.slice sl).ceWindow * 2 ^ s.getF A.errCfg 3 5) ∧
      (∀ e ∈ (t.slice sl).errs, e.heldCe = false)) ∧ t.csr = s.csr ∧ t.errors.ring = s.errors.ring ∧ t.mem = s.mem) ∧
  (∀ (s : State) (ctx : Nat) (v : Word), s.plain A.errRd ctx = true → ∃ t : State,
    exec (.errRdWrite v ctx) s = .next (t.putF A.errStat 35 11 ((s.getF A.errHead 0 10 + 1024 - fld v 0 10) % 1024)) ∧
      t = s.storeReg A.errRd v true ctx ∧
      (t.putF A.errStat 35 11 ((s.getF A.errHead 0 10 + 1024 - fld v 0 10) % 1024)).getF A.errStat 35 11 =
        (s.getF A.errHead 0 10 + 1024 - fld v 0 10) % 1024) ∧
  (∀ (s : State) (ctx : Nat) (v : Word), s.plain A.errStat ctx = true → ∃ t : State, exec (.errFirstclr v ctx) s = .next t ∧
    (flag v 34 = true → t.errors.first = none ∧ t.getB A.errStat 33 = false) ∧
    (flag v 34 = false → t = s.storeReg A.errStat v true ctx) ∧ t.mem = s.mem ∧ t.errors.ring = s.errors.ring)

/-- O46, tier 2, R288, R289. A GO at an idle scrub engine with LEN other than 0 begins a pass from START, that has read
nothing, over LEN lines, and BUSY reads 1; a range beyond slice-local line 262,143 is marked as such. A GO while BUSY
is refused, or the write as a whole where it changes a field; a STOP in the same write still stops the pass. A STOP
while BUSY marks a CSR pass as stopped. A pass
that is over ends, and the engine is free: a CSR pass writes its summary into SCRUB_SUM_0 to SCRUB_SUM_7 and BUSY
reads 0, with result 0, RANGE or ABORTED in the last word. -/
def Obligations.ScrubPasses : Prop :=
  (∀ (s : State) (sl ctx : Nat) (v : Word), s.hasSlice sl = true → s.plain (A.scrubCtl sl) ctx = true →
    let g := setFlag v 37 true
    let t := s.storeReg (A.scrubCtl sl) g (!(s.getB (A.scrubCtl sl) 39)) ctx
    let lo := t.getF (A.scrubCtl sl) 0 18
    let n := t.getF (A.scrubCtl sl) 18 19
    (s.getB (A.scrubCtl sl) 39 = false → n = 0 → exec (.scrubCtlGo sl v ctx) s = .next t) ∧
    (s.getB (A.scrubCtl sl) 39 = false → n ≠ 0 → ∃ u : State, exec (.scrubCtlGo sl v ctx) s = .next u ∧
      (u.slice sl).scrub = some (ScrubPass.start none lo (lo + n) (decide (262144 < lo + n))) ∧
      u.getB (A.scrubCtl sl) 39 = true ∧ (∀ a, a ≠ A.scrubCtl sl → u.rd a = t.rd a) ∧ u.mem = s.mem) ∧
    (s.getB (A.scrubCtl sl) 39 = true →
      let u := if refusedS (masksOf (A.scrubCtl sl)) (s.rd (A.scrubCtl sl)) g false then t else t.refuseCfg (A.scrubCtl sl) ctx
      (flag v 38 = false → exec (.scrubCtlGo sl v ctx) s = .next u) ∧
      (flag v 38 = true → exec (.scrubCtlGo sl v ctx) s =
        .next (u.modPass sl fun p => if p.slot.isNone then { p with stopped := true } else p)))) ∧
  (∀ (s : State) (sl ctx : Nat) (v : Word) (p : ScrubPass), s.hasSlice sl = true → s.plain (A.scrubCtl sl) ctx = true →
    s.getB (A.scrubCtl sl) 39 = true → (s.slice sl).scrub = some p → ∃ u : State, exec (.scrubCtlStop sl v ctx) s = .next u ∧
      (u.slice sl).scrub = some (if p.slot.isNone then { p with stopped := true } else p) ∧ u.mem = s.mem ∧ u.ports = s.ports) ∧
  (∀ (s : State) (sl : Nat) (p : ScrubPass), s.hasSlice sl = true →
    let u := s.pumpEngine sl
    (u.slice sl).scrub = some p → u.passOver sl p = true →
    (p.slot = none → ∃ w t : State, exec (.scrubPassComplete sl) s = .next t ∧ t = w.pumpEngine sl ∧ t.now = max u.now p.answered ∧
      w.now = t.now ∧ (w.slice sl).scrub = none ∧ w.getB (A.scrubCtl sl) 39 = false ∧
      (∀ k, k < 8 → w.rd (A.scrubSum sl k) = ((u.reach p.answered).summary sl p).getD k 0) ∧
      w.getF (A.scrubSum sl 7) 48 8 = (if p.range then 0x01 else if p.stopped then 0x0B else 0) ∧ w.mem = u.mem))

/-- O47, tier 2, R292, R295, R296, R297, R307. A pass starts at a multiple of 2^PERIOD clk where none runs and TUNER_CTL
enables it: every instance to scan is listed, and TUNER_STAT shows the pass; with nothing to scan it ends at once and
is counted. The scan that an engine has come to ends when its registers have been read: the instance leaves the list,
and where its slice is not in Off and it is OK its signature is compared with the voted golden, of which copies that
differ set VOTEDIS: a match leaves it, a mismatch sets RELOADING, TUNER_STAT.ALERT and GLB_IRQ_CAUSE.TUNER. A reload that is due is done and its instance
scanned again. RECHECK scans the instance that the write names at once, and REBASE takes its present signature as its
golden first. -/
def Obligations.TunerPasses : Prop :=
  (∀ s : State, s.tuner.running = false → flag (s.voted A.tunerCtl) 0 = true → s.cplxPower ≠ 2 → 10 ≤ s.boot.next →
    ∃ c u, c % s.passPeriod = 0 ∧ s.now ≤ c ∧ c ≤ s.now + s.passPeriod ∧ u = (s.reach c).beginScans ∧
      exec .tunerPassStart s = .next u.endScans ∧ u.tuner.left = u.passList ∧ u.tuner.redo = [] ∧ u.tuner.running = true ∧
      u.getB A.tunerStat 0 = true ∧ (∀ a, a ≠ A.tunerStat → u.rd a = s.rd a) ∧ u.mem = s.mem ∧
      (u.passList ≠ [] → u.endScans = u) ∧
      (u.passList = [] → u.endScans.tuner.running = false ∧ u.endScans.getB A.tunerStat 0 = false ∧
        u.endScans.getF A.tunerStat 16 48 = (s.getF A.tunerStat 16 48 + 1) % 2 ^ 48)) ∧
  (∀ (s : State) (r inst : Nat), r < 11 → s.tuner.running = true → s.scanHead (engineOf r inst) = some (r, inst) →
    ∃ t : State, t = (s.reach (s.scanBegan (engineOf r inst) + 4 + s.instRegs r)).leavePass r inst ∧
      (r, inst) ∉ t.tuner.left ∧ (r, inst) ∉ t.tuner.redo ∧ t.csr = s.csr ∧ t.mem = s.mem ∧
      ((r < 4 ∧ t.slicePower inst = 2) ∨ t.instState r inst ≠ 0 → exec (.tunerScanEnd r inst) s = .next t.endScans) ∧
      (¬ (r < 4 ∧ t.slicePower inst = 2) → t.instState r inst = 0 → ∃ w : State, w = t.noteVote (goldenKey r inst) ∧
        (t.copyDis (goldenKey r inst) = true → w.getB A.tunerStat 2 = true) ∧ (t.copyDis (goldenKey r inst) = false → w = t) ∧
        (w.signature r inst = w.votedGolden r inst → exec (.tunerScanEnd r inst) s = .next w.endScans) ∧
        (w.signature r inst ≠ w.votedGolden r inst → exec (.tunerScanEnd r inst) s = .next (w.mismatch r inst).endScans) ∧
        (w.mismatch r inst).instState r inst = 1 ∧ (w.mismatch r inst).getB A.tunerStat 1 = true ∧
        (w.mismatch r inst).getB A.glbIrqCause 3 = true)) ∧
  (∀ (s : State) (r inst : Nat), r < 11 → s.tuner.reload.contains (r, inst) = true → ∃ t : State,
    exec (.tunerReloadDone r inst) s = .next ((t.reloadMirror inst).scanNow r inst) ∧ (r, inst) ∉ t.tuner.reload ∧
      t.csr = s.csr ∧ t.slices = s.slices ∧ t.now = s.now ∧ t.mem = s.mem) ∧
  (∀ (s : State) (r ctx : Nat) (v : Word), r < 11 → s.plain (A.tunerRegion r) ctx = true →
    let n := fld v 8 6
    (∃ t : State, t = (s.storeReg (A.tunerRegion r) (setFlag v 3 true) true ctx).tuncfgWrite (A.tunerRegion r) ∧
      ((t.hasInst r n = true ∧ (4 ≤ r ∨ t.slicePower n ≠ 2)) → flag v 4 = false →
        exec (.tunerRecheck r v ctx) s = .next (t.scanNow r n)) ∧
      (¬ (t.hasInst r n = true ∧ (4 ≤ r ∨ t.slicePower n ≠ 2)) → exec (.tunerRecheck r v ctx) s = .next t)) ∧
    (∃ t : State, t = (s.storeReg (A.tunerRegion r) (setFlag v 4 true) true ctx).tuncfgWrite (A.tunerRegion r) ∧
      ((t.hasInst r n = true ∧ (4 ≤ r ∨ t.slicePower n ≠ 2)) → flag v 3 = false →
        exec (.tunerRebase r v ctx) s = .next (t.rebase r n) ∧ (t.rebase r n).instState r n = 0) ∧
      (¬ (t.hasInst r n = true ∧ (4 ≤ r ∨ t.slicePower n ≠ 2)) → exec (.tunerRebase r v ctx) s = .next t)))

/-- O48, tier 2, R298, R299. A challenge of Belfry writes its eight words and TUNER_CHEXP with their CRC-32C and GO, in
context 0. A GO in context 0 answers in TUNER_CHRSP: DONE, MATCH exactly where the CRC of the words is the expected
one, VOTEDIS where a voted copy differs, and the signature SELF; and the interval is measured from then. One of
context 63 is refused. Belfry's judgement of a good answer ends the challenge; a first bad one rewrites the TUNCFG
registers and challenges again; a second one records CHAL_FAIL and GLB_IRQ_CAUSE.TUNER, and the Tuner is trusted no
longer. An interval longer than CHTO is recorded once. -/
def Obligations.Challenges : Prop :=
  (∀ (s : State) (words : List Word), s.belfry.running = true → ∃ t : State,
    exec (.belfryChallenge words) s = .next (t.chexpGo (BitVec.ofNat 64 (crc32c t.challengeBytes).toNat) 0) ∧
      (∀ w, w < 8 → t.rd (A.tunerChal w) = words.getD w 0) ∧ (∀ a, (∀ w, w < 8 → a ≠ A.tunerChal w) → t.rd a = s.rd a) ∧
      t.now = s.now ∧ t.tuner = s.tuner) ∧
  (∀ (s : State) (v : Word), s.plain A.tunerChexp 0 = true →
    let t := s.storeReg A.tunerChexp v true 0
    ∃ u : State, exec (.tunerChexpGo v 0) s = .next u ∧ u.getB A.tunerChrsp 0 = true ∧
      u.getB A.tunerChrsp 1 = decide ((crc32c t.challengeBytes).toNat = t.getF A.tunerChexp 0 32) ∧
      u.getB A.tunerChrsp 2 = t.voteDis ∧ u.getF A.tunerChrsp 32 32 = t.selfSig.toNat ∧
      (∀ a, a ≠ A.tunerChrsp → u.rd a = t.rd a) ∧ u.tuner.lastGo = t.time.ref ∧ u.tuner.challenged = true ∧
      u.tuner.lateSaid = false ∧ u.mem = s.mem) ∧
  (∀ (s : State) (v : Word), s.plain A.tunerChexp 63 = true → exec (.tunerChexpGo v 63) s = .next (s.refuseCfg A.tunerChexp 63)) ∧
  (∀ s : State, s.belfry.running = true → s.tuner.challenged = true → s.getB A.tunerChrsp 0 = true →
    let good := s.getB A.tunerChrsp 1 = true ∧ s.getB A.tunerChrsp 2 = false ∧
      s.getF A.tunerChrsp 32 32 = (s.golden 10 0).toNat
    (good → exec .challengeResult s = .next { s with tuner := { s.tuner with challenged := false, tries := 0 } }) ∧
    (¬ good → s.tuner.tries = 0 → ∃ t : State, t.tuner.tries = 1 ∧ t.csr = s.rewriteTuncfg.csr ∧ t.voteDis = false ∧
      exec .challengeResult s = .next (t.chexpGo (BitVec.ofNat 64 (crc32c t.challengeBytes).toNat) 0)) ∧
    (¬ good → s.tuner.tries ≠ 0 → ∃ t : State, exec .challengeResult s = .next t ∧ t.tuner.trusted = false ∧
      t.tuner.challenged = false ∧ t.tuner.tries = 0 ∧ t.getB A.glbIrqCause 3 = true ∧
      t.errors.queue.length = s.errors.queue.length + 1)) ∧
  (∀ s : State, s.tuner.lateSaid = false → s.boot.released = true → ∃ t : State, exec .challengeLate s = .next t ∧
    t.tuner.lateSaid = true ∧ t.getB A.tunerStat 3 = true ∧ t.getB A.glbIrqCause 3 = true ∧ t.mem = s.mem ∧
    t.errors.queue.length = s.errors.queue.length + 1 ∧ t.errors.queue.take s.errors.queue.length = s.errors.queue)

/-! ### Power states, supply and sensors -/

/-- O49, tier 2, R310, R327, R328. A request of Damp or Off for a slice in Play, or of Damp or Tap for the complex in
Play, is shown as its target, puts it in transition and begins an entry with its first step, with a wake of cause 4
pending where a Knell already waits; a request of Play there
only stores the target. A request of Play for a slice in Damp or Off begins its wake. A request for a slice in
transition is ignored, sets PWR_STAT.IGN, and changes nothing else. A request of the host for the complex in Damp or
Tap is an access of CSR space and so wakes it. Other slices keep their state. -/
def Obligations.PowerTargets : Prop :=
  (∀ (s : State) (sl ctx : Nat), s.hasSlice sl = true → sl < 64 → s.plain (A.pwrReq (sl / 32)) ctx = true →
    let early := if s.power.knellWaiting = [] then none else some 4
    (s.slicePower sl = 3 → let t := s.putB A.pwrStat 11 true
      exec (.sliceDampRequest sl ctx) s = .next t ∧ exec (.sliceOffRequest sl ctx) s = .next t ∧
      exec (.slicePlayRequest sl ctx) s = .next t) ∧
    (s.slicePower sl = 0 → ∃ d f p : State,
      exec (.sliceDampRequest sl ctx) s = .next d ∧ exec (.sliceOffRequest sl ctx) s = .next f ∧
      exec (.slicePlayRequest sl ctx) s = .next p ∧ d.slicePower sl = 3 ∧ f.slicePower sl = 3 ∧ p.slicePower sl = 0 ∧
      d.power.entries = s.power.entries ++ [⟨.slice sl, 1, 1, s.time.ref, early⟩] ∧
      f.power.entries = s.power.entries ++ [⟨.slice sl, 2, 1, s.time.ref, early⟩] ∧ p.power = s.power ∧
      d.getF (A.pwrReq (sl / 32)) (2 * (sl % 32)) 2 = 1 ∧ f.getF (A.pwrReq (sl / 32)) (2 * (sl % 32)) 2 = 2 ∧
      p.getF (A.pwrReq (sl / 32)) (2 * (sl % 32)) 2 = 0 ∧
      (∀ n, n < 64 → n ≠ sl → d.slicePower n = s.slicePower n ∧ f.slicePower n = s.slicePower n ∧ p.slicePower n = s.slicePower n) ∧
      d.mem = s.mem ∧ f.mem = s.mem ∧ p.mem = s.mem) ∧
    ((s.slicePower sl = 1 ∨ s.slicePower sl = 2) → ∃ t : State, exec (.slicePlayRequest sl ctx) s = .next t ∧
      t.slicePower sl = 3 ∧ t.power.entries = s.power.entries ∧
      t.power.wakes = s.power.wakes ++ [⟨.slice sl, s.slicePower sl, 1, s.time.ref, false, false⟩] ∧
      (∀ n, n < 64 → n ≠ sl → t.slicePower n = s.slicePower n) ∧ t.mem = s.mem)) ∧
  (∀ (s : State) (ctx : Nat), s.plain A.pwrCplx ctx = true →
    let early := if s.power.knellWaiting = [] then none else some 4
    ∃ d f p : State,
    exec (.cplxDampRequest ctx) s = .next d ∧ exec (.cplxTapRequest ctx) s = .next f ∧ exec (.cplxPlayRequest ctx) s = .next p ∧
      d.cplxPower = 3 ∧ f.cplxPower = 3 ∧ p.cplxPower = 0 ∧
      d.power.entries = s.power.entries ++ [⟨.complex, 1, 1, s.time.ref, early⟩] ∧
      f.power.entries = s.power.entries ++ [⟨.complex, 3, 1, s.time.ref, early⟩] ∧ p.power = s.power ∧
      d.getF A.pwrCplx 0 2 = 1 ∧ f.getF A.pwrCplx 0 2 = 2 ∧ p.getF A.pwrCplx 0 2 = 0 ∧
      (∀ a, a ≠ A.pwrCplx → d.rd a = s.rd a ∧ f.rd a = s.rd a ∧ p.rd a = s.rd a) ∧ d.mem = s.mem ∧ f.mem = s.mem ∧ p.mem = s.mem) ∧
  (∀ (s : State) (ctx : Nat), (ctx = 0 ∨ ctx = 63) → s.csrUp = true → s.cplxPower = 2 →
    exec (.cplxDampRequest ctx) s = .next (s.wake .complex 2) ∧ exec (.cplxTapRequest ctx) s = .next (s.wake .complex 2) ∧
    exec (.cplxPlayRequest ctx) s = .next (s.wake .complex 2))

/-- O50, tier 2, R312, R313, R314. An entry at E1 is refused with the least code of a unit that is not ready, counted in
PWR_REFCNT: its target is back in Play, PWR_LAST holds the code and the target entered, and the entry is gone.
Otherwise E1 and E2 move on to the next step, E2 not before the last answer; with a wake event pending they end as
aborts, counted in PWR_ABTCNT under the point. Neither changes the storage where no WIPE is under way. E4 of an entry
into Damp or Tap moves on. E5 commits: the target is in Damp or Off (Tap), and CLK_REQ falls for Tap. -/
def Obligations.PowerEntrySteps : Prop :=
  (∀ (s : State) (g : PowerTarget) (e : PwrEntry), (∀ sl, g = .slice sl → s.hasSlice sl = true) →
    (s.power.entries.find? fun x => decide (x.target = g)) = some e →
    let still : Prop := ∀ n j, ∀ i ∈ (s.slot n j).insts, i.wipe = []
    (∀ c, e.step = 1 → s.refusal e = some c → ∃ t : State, exec (.powerEntryStep g) s = .next t.releaseKnells ∧ t.powerOf g = 0 ∧
      1 ≤ c ∧ c ≤ 6 ∧ t.getF (A.pwrRefcnt (c - 1)) 0 48 = (s.getF (A.pwrRefcnt (c - 1)) 0 48 + 1) % 2 ^ 48 ∧
      t.getF A.pwrLast 0 3 = c ∧ t.getF A.pwrLast 3 3 = 0 ∧ t.getF A.pwrLast 9 2 = e.enters % 4 ∧
      t.power.entries = s.power.entries.filter (fun x => decide (x.target ≠ g)) ∧ (still → t.mem = s.mem)) ∧
    (e.step = 1 → s.refusal e = none → e.wake = none → exec (.powerEntryStep g) s = .next { s with power := { s.power with
      entries := s.power.entries.map fun x => if x.target = g then { x with step := 2 } else x } }) ∧
    (e.step = 2 → e.wake = none → ∃ t : State, exec (.powerEntryStep g) s = .next t ∧ t.now = max s.now (s.lastAnswer g) ∧
      t.power.entries = (s.power.entries.map fun x => if x.target = g then { x with step := 3 } else x) ∧ t.csr = s.csr ∧
      t.mem = s.mem) ∧
    (∀ c, (e.step = 1 ∧ s.refusal e = none ∨ e.step = 2) → e.wake = some c → ∃ t : State,
      exec (.powerEntryStep g) s = .next t.releaseKnells ∧ t.powerOf g = 0 ∧
      t.getF (A.pwrAbtcnt (e.step - 1)) 0 48 = (s.getF (A.pwrAbtcnt (e.step - 1)) 0 48 + 1) % 2 ^ 48 ∧
      t.getF A.pwrLast 0 3 = 0 ∧ t.getF A.pwrLast 3 3 = e.step ∧ t.getF A.pwrLast 6 3 = c % 8 ∧
      t.power.entries = s.power.entries.filter (fun x => decide (x.target ≠ g)) ∧ (still → t.mem = s.mem)) ∧
    (e.step = 4 → e.wake = none → e.enters ≠ 2 → exec (.powerEntryStep g) s = .next { s with power := { s.power with
      entries := s.power.entries.map fun x => if x.target = g then { x with step := 5 } else x } }) ∧
    (4 < e.step → e.wake = none → ∃ t : State, exec (.powerEntryStep g) s = .next t ∧
      t.powerOf g = (if e.enters = 1 then 1 else 2) ∧ t.power.wakes = s.power.wakes ∧
      t.pins.clkReq = (if e.enters = 3 then false else s.pins.clkReq) ∧
      t.power.entries = s.power.entries.filter (fun x => decide (x.target ≠ g)) ∧ t.now = s.now ∧ t.mem = s.mem))

/-- O51, tier 2, R314, R315, R317, R319. A wake event of causes 1 to 3 for a slice that is entering a state is noted in
its entry, and begins the wake of a slice in Damp while the complex is in Play. A wake at its regulator step moves on
when PGOOD is high and AVSFAIL is clear and waits otherwise; a slice leaving Damp is in Play 8 clk after its logic
step. A step that times out shows the failed step in PWR_STAT with WFAIL and sets GLB_IRQ_CAUSE.PWR, the fence is
raised, and the wake is tried once more while Belfry runs; a Knell that nothing else keeps waiting is released. A slice leaving Off is restored and in Play. In Tap,
CLK_REQ rises at IVL − LEAD, a burst follows at IVL, and CLK_REQ falls 16 clk later. -/
def Obligations.WakesAndTap : Prop :=
  (∀ (s : State) (sl c : Nat), s.hasSlice sl = true → sl < 64 → (c = 1 ∨ c = 2) → s.cplxPower = 0 → s.entering .complex = false →
    (s.entering (.slice sl) = true → exec (.wakeEvent (.slice sl) c) s = .next { s with power := { s.power with
      entries := s.power.entries.map fun e => if e.target = .slice sl ∧ e.wake = none then { e with wake := some c } else e } }) ∧
    (s.entering (.slice sl) = false → s.slicePower sl = 1 → ∃ t : State, exec (.wakeEvent (.slice sl) c) s = .next t ∧
      t.slicePower sl = 3 ∧ t.power.wakes = s.power.wakes ++ [⟨.slice sl, 1, 1, s.time.ref, false, false⟩] ∧ t.mem = s.mem)) ∧
  (∀ (s : State) (sl : Nat) (w : PwrWake), s.hasSlice sl = true → sl < 64 → s.wakeOf (.slice sl) = some w → w.step = 1 →
    (s.pins.pgood = true → s.getB A.pwrStat 12 = false → exec (.wakeStepReady (.slice sl)) s = .next (s.nextWakeStep w)) ∧
    (s.pins.pgood = false ∨ s.getB A.pwrStat 12 = true → exec (.wakeStepReady (.slice sl)) s = .next s)) ∧
  (∀ (s : State) (sl : Nat) (w : PwrWake), s.hasSlice sl = true → sl < 64 → s.wakeOf (.slice sl) = some w → w.step = 4 → w.leaves = 1 →
    s.getF (A.pwrReq (sl / 32)) (2 * (sl % 32)) 2 ≠ 2 → s.power.knellWaiting = [] → ∃ t : State,
    exec (.wakeStepReady (.slice sl)) s = .next t ∧ t.slicePower sl = 0 ∧ s.now + 8 ≤ t.now ∧ t.wakeOf (.slice sl) = none ∧
      ((∀ p, p < s.build.ports → (s.port sl p).queue = []) → t.now = s.now + 8) ∧
      ((∀ j, ∀ i ∈ (s.slot sl j).insts, i.wipe = []) → t.mem = s.mem)) ∧
  (∀ (s : State) (sl : Nat) (w : PwrWake), s.hasSlice sl = true → sl < 64 → s.wakeOf (.slice sl) = some w → 1 ≤ w.step → w.step ≤ 4 →
    ∃ u v t : State, exec (.wakeStepTimeout (.slice sl)) s = .next t ∧ t = v.releaseKnells ∧
      v.csr = (u.raiseOff (.slice sl)).csr ∧ v.ports = (u.raiseOff (.slice sl)).ports ∧
      (s.pins.pgood = true → w.began + s.refUs (s.getF A.pwrTmo (16 * (w.step - 1)) 16) ≤ u.time.ref) ∧
      u.getB A.pwrStat 0 = true ∧ u.getF A.pwrStat 1 6 = sl ∧ u.getB A.pwrStat 7 = false ∧ u.getF A.pwrStat 8 2 = w.step - 1 ∧
      u.getB A.glbIrqCause 5 = true ∧ u.mem = s.mem ∧ u.power = s.power ∧
      (w.retried = false → s.belfry.running = true → ∃ y, v.wakeOf (.slice sl) = some y ∧ y.step = 1 ∧ y.retried = true) ∧
      (w.retried = true → v.wakeOf (.slice sl) = none)) ∧
  (∀ (s : State) (sl : Nat) (w : PwrWake), s.hasSlice sl = true → sl < 64 → s.wakeOf (.slice sl) = some w → s.power.restoring.contains sl = true →
    ∃ t : State, exec (.offRestoreDone sl) s = .next ((t.restoreOff sl).awake w) ∧ t.power.restoring.contains sl = false ∧
      t.csr = s.csr ∧ t.mem = s.mem) ∧
  (∀ s : State, s.cplxPower = 2 →
    (s.power.tapPhase = 0 → ∃ t : State, exec .tapClkReq s = .next t ∧ t.pins.clkReq = true ∧ t.power.tapPhase = 1 ∧
      (s.pins.pgood = true → s.power.tapBurstAt + s.refUs (s.getF A.pwrTap 0 20 - s.getF A.pwrTap 20 8) ≤ t.time.ref) ∧ t.csr = s.csr ∧ t.mem = s.mem) ∧
    (s.power.tapPhase = 1 → ∃ t : State, exec .tapBurst s = .next t ∧ t.power.tapPhase = 2 ∧
      t.power.tapWakes = s.power.tapWakes + 1 ∧ s.time.ref ≤ t.power.tapBurstAt ∧
      (s.pins.pgood = true → s.power.tapBurstAt + s.refUs (s.getF A.pwrTap 0 20) ≤ t.power.tapBurstAt) ∧
      (∀ sl, s.hasSlice sl = true → (t.slice sl).droopsTap = 0)) ∧
    (s.power.tapPhase = 2 → s.tuner.running = false → ∃ t : State, exec .tapSleep s = .next t ∧ t.pins.clkReq = false ∧
      t.power.tapPhase = 0 ∧ t.now = s.now + 16 ∧ t.csr = s.csr ∧ t.mem = s.mem))

/-- O52, tier 2, R322, R325, R332, R390, R404. A GO at PWR_VREQ with no request in progress sets BUSY and keeps the
requested voltage and rail; CLR clears RESULT and AVSFAIL. An accepted write is polled 5 µs later; a busy slave is
tried again 10 µs later, at most 8 times, then RESULT is 3; a bad CRC at most 3 times, then 2; invalid data ends at
once with 4. A poll within TOL of the request confirms the voltage with RESULT 1 and clears BUSY, any other is
repeated 5 µs later; a timeout ends with 5. Every result but 1 sets AVSFAIL and GLB_IRQ_CAUSE.PWR. A sensor reading is
stored as valid, its peak follows it, and one above TMAX sets the latch and GLB_IRQ_CAUSE bit 9; a droop event is
counted. -/
def Obligations.SupplyAndSensors : Prop :=
  (∀ (s : State) (ctx : Nat) (v : Word), s.plain A.pwrVreq ctx = true →
    (s.getB A.pwrVreq 18 = false → ∃ t : State, exec (.pwrVreqGo v ctx) s = .next t ∧ t.getB A.pwrVreq 18 = true ∧
      t.power.avsMv = fld v 0 16 ∧ t.power.avsArray = flag v 16 ∧ t.power.avsTries = 0 ∧ t.power.avsCrc = 0 ∧
      t.power.avsPolling = false ∧ t.power.avsRetryAt = none ∧ t.now = s.now ∧ t.mem = s.mem) ∧
    (∃ t : State, exec (.pwrVreqClr v ctx) s = .next t ∧ t.getF A.pwrVreq 19 3 = 0 ∧ t.getB A.pwrStat 12 = false ∧ t.mem = s.mem)) ∧
  (∀ s : State, s.getB A.pwrVreq 18 = true → s.belfry.running = true →
    let ends (t : State) (r : Nat) : Prop := t.getB A.pwrVreq 18 = false ∧ t.getF A.pwrVreq 19 3 = r ∧ t.power.avsPolling = false ∧
      t.power.avsRetryAt = none ∧ t.mem = s.mem ∧ (r ≠ 1 → t.getB A.pwrStat 12 = true ∧ t.getB A.glbIrqCause 5 = true)
    let p := s.power
    (∀ d, p.avsPolling = false → p.avsRetryAt = none →
      exec (.avsAck 0 d) s = .next { s with power := { p with avsPolling := true, avsRetryAt := some (s.time.ref + s.refUs 5) } } ∧
      (p.avsTries < 8 → exec (.avsAck 1 d) s = .next
        { s with power := { p with avsTries := p.avsTries + 1, avsRetryAt := some (s.time.ref + s.refUs 10) } }) ∧
      (8 ≤ p.avsTries → ∃ t, exec (.avsAck 1 d) s = .next t ∧ ends t 3) ∧
      (p.avsCrc < 3 → exec (.avsAck 2 d) s = .next { s with power := { p with avsCrc := p.avsCrc + 1 } }) ∧
      (3 ≤ p.avsCrc → ∃ t, exec (.avsAck 2 d) s = .next t ∧ ends t 2) ∧ (∃ t, exec (.avsAck 3 d) s = .next t ∧ ends t 4)) ∧
    (∀ r, p.avsPolling = false → p.avsRetryAt = some r → ∃ t : State, exec .avsBusyRetry s = .next t ∧ t.power.avsRetryAt = none ∧
      (s.pins.pgood = true → r ≤ t.time.ref) ∧ t.csr = s.csr ∧ t.mem = s.mem) ∧
    (∀ r mv, p.avsPolling = true → p.avsRetryAt = some r → mv < 65536 → ∃ t : State, exec (.avsVoltagePoll mv) s = .next t ∧
      (s.pins.pgood = true → r ≤ t.time.ref) ∧
      ((if mv ≤ p.avsMv then p.avsMv - mv else mv - p.avsMv) ≤ s.getF A.pwrAvs 8 8 → ends t 1 ∧
        t.getF A.pwrVreq (if p.avsArray then 48 else 32) 16 = mv) ∧
      (s.getF A.pwrAvs 8 8 < (if mv ≤ p.avsMv then p.avsMv - mv else mv - p.avsMv) →
        t.power.avsRetryAt = some (r + s.refUs 5) ∧ t.csr = s.csr)) ∧
    (∃ t, exec .avsTimeout s = .next t ∧ ends t 5 ∧
      (s.pins.pgood = true → p.avsBegan + s.refUs (s.getF A.pwrAvs 16 16) ≤ t.time.ref))) ∧
  (∀ (s : State) (sl : Nat) (v : BitVec 10), s.hasSlice sl = true → sl < 64 → ∃ t : State, exec (.sensorWindow sl v) s = .next t ∧
    t.getF (A.sensTemp sl) 0 10 = v.toNat ∧ t.getB (A.sensTemp sl) 10 = true ∧
    (s.getB (A.sensTemp sl) 10 = false → t.getF (A.sensTemp sl) 16 10 = v.toNat) ∧
    (s.getB (A.sensTemp sl) 10 = true → t.getF (A.sensTemp sl) 16 10 =
      if sext 10 v.toNat > sext 10 (s.getF (A.sensTemp sl) 16 10) then v.toNat else s.getF (A.sensTemp sl) 16 10) ∧
    (sext 10 v.toNat > (4 * s.getF A.pwrThr 0 8 : Nat) → t.getB (A.sensTemp sl) 11 = true ∧ t.getB A.glbIrqCause 9 = true) ∧
    t.mem = s.mem) ∧
  (∀ (s : State) (sl : Nat), s.hasSlice sl = true → sl < 64 → ∃ t : State, exec (.droopEvent sl) s = .next t ∧
    t.getF (A.sensDroop sl) 16 32 = (s.getF (A.sensDroop sl) 16 32 + 1) % 2 ^ 32 ∧ t.getB (A.sensDroop sl) 48 = true ∧
    (t.slice sl).droopsTap = (s.slice sl).droopsTap + 1 ∧ t.mem = s.mem ∧ t.now = s.now)

/-! ### Bring-up, unit resets, context kills -/

/-- O53, tier 2, R336, R337, R338, R340, R341. Each stage of bring-up, at its turn, ends: BOOT_REPA holds the stage and
its result, BOOT_REPB its map, GLB_STATE the next stage. B1 passes where an image runs and fails otherwise. B2 makes
GLB_BUILD0.SLICES the count of the logical map, or stops the sequence where the fuse copy leaves no pair of slices. B3
fills the tables and clears every written bit. B4 sets GLB_STATE.MIN; without an image it stops in recovery form; on
the fast path B5 and B6 are skipped. B5 and B6 follow, and B6 sets REPOK. B8 takes the settings. B9 passes, with
slices fenced, or fails, and goes on. B10 sets GLB_STATE.FULL. A command of a stage whose turn it is not changes
nothing. -/
def Obligations.BringUpStages : Prop :=
  let ended (t : State) (k r : Nat) (map : Word) : Prop := t.boot.next = k + 1 ∧ t.boot.halted = false ∧
    t.getF (A.bootRepa k) 0 4 = k ∧ t.getF (A.bootRepa k) 4 3 = r ∧ t.rd (A.bootRepb k) = map ∧ t.getF A.glbState 0 4 = min (k + 1) 10
  ∀ s : State, s.boot.released = true → s.boot.halted = false →
  (s.boot.next = 1 → ∃ t : State, exec .imageBoot s = .next t ∧ t.belfry.running = s.bootImage.isSome ∧
    ended t 1 (if t.belfry.running then 1 else 3) 0 ∧ t.mem = s.mem) ∧
  (s.boot.next = 2 → s.build.slices ≤ 64 → let l := mapped s.build s.fuse
    (l = [] → ∃ t : State, exec .fuseCopy s = .next t ∧ t.boot.halted = true ∧ t.getF A.glbBuild0 0 7 = 0 ∧
      t.getF A.glbBuild0 32 5 = 1 ∧ t.getF (A.bootRepa 2) 4 3 = 3 ∧ t.getB A.glbIrqCause 6 = true) ∧
    (l ≠ [] → ∃ t : State, exec .fuseCopy s = .next t ∧ ended t 2 1 0 ∧ t.getF A.glbBuild0 0 7 = l.length ∧
      t.getF (A.bootRepa 2) 40 24 = l.length ∧ t.rd A.bootSldis = maskOf ((List.range s.build.slices).filter fun n => !(l.contains n)))) ∧
  (s.boot.next = 3 → ∃ t : State, exec .hardwareFill s = .next t ∧ ended t 3 1 0 ∧ t.mem.wbits = [] ∧ t.mem.cells = s.mem.cells ∧
    (∀ a, filledAt3 a = true → a ≠ A.ctxE1 63 → t.rd a = s.build.resetVal a)) ∧
  (s.boot.next = 4 → ∀ l : List (Nat × Nat),
    (s.belfry.running = false → ∃ t : State, exec (.fastCheck l) s = .next t ∧ t.boot.halted = true ∧ t.getB A.glbState 5 = true ∧
      t.getB A.glbState 8 = true ∧ (∀ sl, (t.slice sl).released = (s.slice sl).released)) ∧
    (s.belfry.running = true → ∃ t : State, exec (.fastCheck l) s = .next t ∧ t.boot.next = (if s.boot.fast then 7 else 5) ∧
      t.getB A.glbState 5 = true ∧ t.getF (A.bootRepa 4) 0 4 = 4 ∧ t.getF (A.bootRepa 4) 4 3 = fencedResult (s.sliceMap l.eraseDups) ∧
      t.rd (A.bootRepb 4) = s.sliceMap l.eraseDups ∧
      (∀ sl, s.hasSlice sl = true → (s.sliceMap l.eraseDups).getLsbD sl = false → (t.slice sl).released = true) ∧
      (s.boot.fast = true → t.getF (A.bootRepa 5) 4 3 = 4 ∧ t.getF (A.bootRepa 6) 4 3 = 4))) ∧
  (s.boot.next = 5 → ∀ (l : List BistFault) (mv : Nat), ∃ (t : State) (m : Word), exec (.bist l mv) s = .next t ∧ ended t 5 1 m ∧
    t.getF A.pwrVreq 48 16 = mv % 65536) ∧
  (s.boot.next = 6 → ∃ (t : State) (m : Word), exec .repairApply s = .next t ∧ ended t 6 (fencedResult m) m ∧
    t.getB A.bootStat 0 = true) ∧
  (s.boot.next = 8 → ∀ (v : Word) (a b : Nat), ∃ t : State, exec (.settingsRead v a b) s = .next t ∧ ended t 8 1 0 ∧
    t.belfry.settings = s.takeSettings ∧ t.belfry.avsVersion = some v ∧ t.mem = s.mem) ∧
  (s.boot.next = 9 → s.belfry.running = true → s.inPlay = true → ∃ (t : State) (r : Nat) (m : Word), exec .settingsCommit s = .next t ∧
    t.boot.next = 10 ∧ t.getF (A.bootRepa 9) 4 3 = r ∧ t.rd (A.bootRepb 9) = m ∧ (r = 3 ∨ r = fencedResult m)) ∧
  (s.boot.next = 10 → ∃ t : State, exec .fullRelease s = .next t ∧ ended t 10 1 0 ∧ t.getB A.glbState 6 = true ∧ t.mem = s.mem) ∧
  (s.boot.next ≠ 2 → exec .fuseCopy s = .next s) ∧ (s.boot.next ≠ 3 → exec .hardwareFill s = .next s) ∧
  (s.boot.next ≠ 4 → ∀ l, exec (.fastCheck l) s = .next s) ∧ (s.boot.next ≠ 5 → ∀ l mv, exec (.bist l mv) s = .next s) ∧
  (s.boot.next ≠ 6 → exec .repairApply s = .next s) ∧ (s.boot.next ≠ 9 → exec .settingsCommit s = .next s) ∧
  (s.boot.next ≠ 10 → exec .fullRelease s = .next s)

/-- O54, tier 2, R343, R344, R345, R346. While BUSY is set, a start of any unit is refused. Otherwise a start of a port,
an engine, a slice or a partition with a powered slice, of Belfry from context 63, or of the complex begins that
reset, at this clk; no storage changes with it where no WIPE is under way. For a slice in Off it ends at once with
RESULT 1, and its Rhythm save area is cleared. Context 0 cannot start UNIT 6: RESULT reads 5. A
reset whose unit is awake and quiet, once every answer due has come, resets its unit; for a port, engine, slice or
partition BUSY then reads 0, no reset is under way, and RESULT reads 1, or 3 where accesses were aborted; one of the
complex restarts bring-up at B0, by the fast path for UNIT 5 with REPOK set. -/
def Obligations.UnitResets : Prop :=
  (∀ (s : State) (ctx : Nat), s.plain A.bootReset ctx = true →
    (s.getB A.bootReset 4 = true → let t := s.refuseCfg A.bootReset ctx
      (∀ sl p, s.hasPort sl p = true → exec (.portReset sl p ctx) s = .next t) ∧
      (∀ sl, s.hasSlice sl = true → exec (.engineReset sl ctx) s = .next t ∧ exec (.sliceReset sl ctx) s = .next t) ∧
      (∀ q, q < s.nParts → exec (.partitionReset q ctx) s = .next t) ∧ exec (.warmReset ctx) s = .next t ∧
      exec (.belfryReset ctx) s = .next t ∧ exec (.fullReset ctx) s = .next t) ∧
    (s.getB A.bootReset 4 = false → let still : Prop := ∀ n j, ∀ i ∈ (s.slot n j).insts, i.wipe = []
      (∀ sl p, s.hasPort sl p = true → sl < 64 → p < 16 → s.slicePower sl ≠ 2 → ∃ t : State, exec (.portReset sl p ctx) s = .next t ∧
        t.boot.reset = some ⟨1, sl, p, s.now, 0, false⟩ ∧ t.mem = s.mem) ∧
      (∀ sl, s.hasSlice sl = true → sl < 64 → s.slicePower sl ≠ 2 →
        (∃ t : State, exec (.engineReset sl ctx) s = .next t ∧ t.boot.reset = some ⟨2, sl, 0, s.now, 0, false⟩ ∧
          (t.slice sl).engineReset = true ∧ t.mem = s.mem) ∧
        (∃ t : State, exec (.sliceReset sl ctx) s = .next t ∧ t.boot.reset = some ⟨3, sl, 0, s.now, 0, false⟩ ∧
          (still → t.mem = s.mem))) ∧
      (∀ sl, s.hasSlice sl = true → sl < 64 → s.slicePower sl = 2 → ∃ t : State, exec (.sliceReset sl ctx) s = .next t ∧
        t.boot = s.boot ∧ t.getF A.bootReset 5 3 = 1 ∧ t.getB A.bootReset 4 = false ∧ t.mem = s.mem ∧ (t.slice sl).save = none ∧
        (∀ n, n ≠ sl → t.slice n = s.slice n)) ∧
      (∀ q, q < s.nParts → q < 16 → s.poweredSlices ⟨4, 0, q, 0, 0, false⟩ ≠ [] → ∃ t : State, exec (.partitionReset q ctx) s = .next t ∧
        t.boot.reset = some ⟨4, 0, q, s.now, 0, false⟩ ∧ (still → t.mem = s.mem)) ∧
      (∃ t : State, exec (.warmReset ctx) s = .next t ∧ t.boot.reset = some ⟨5, 0, 0, s.now, 0, false⟩ ∧ (still → t.mem = s.mem)) ∧
      (∃ t : State, exec (.fullReset ctx) s = .next t ∧ t.boot.reset = some ⟨7, 0, 0, s.now, 0, false⟩ ∧ (still → t.mem = s.mem)) ∧
      (ctx = 63 → ∃ t : State, exec (.belfryReset ctx) s = .next t ∧ t.boot.reset = some ⟨6, 0, 0, s.now, 0, true⟩ ∧
        t.belfry.running = false ∧ t.belfry.inReset = true ∧ t.tuner.belfryHeld = false ∧ t.mem = s.mem ∧ t.slices = s.slices) ∧
      (ctx = 0 → ∃ t : State, exec (.belfryReset ctx) s = .next t ∧ t.boot = s.boot ∧ t.belfry = s.belfry ∧
        t.getF A.bootReset 5 3 = 5 ∧ t.mem = s.mem))) ∧
  (∀ (s : State) (u : UnitReset), s.boot.reset = some u → u.drained = false →
    let t := (s.reach (s.unitTime u)).settleUnit u
    ((t.unitAwake u && t.unitQuiet u) = false → exec .resetDrainEnd s = .next s) ∧
    (t.unitAwake u = true → t.unitQuiet u = true → 1 ≤ u.unit → u.unit ≤ 4 → ∃ v : State, exec .resetDrainEnd s = .next v ∧
      v.boot.reset = none ∧ v.getB A.bootReset 4 = false ∧ v.getF A.bootReset 5 3 = (if u.aborts = 0 then 1 else 3) ∧
      v.getF A.bootReset 32 16 = min u.aborts 0xFFFF) ∧
    (t.unitAwake u = true → t.unitQuiet u = true → u.unit = 5 ∨ u.unit = 7 → s.belfry.lcReset = false → ∃ v : State,
      exec .resetDrainEnd s = .next v ∧ v.boot.reset = none ∧ v.boot.released = true ∧ v.boot.next = 1 ∧ v.boot.kills = [] ∧
      v.boot.fast = (decide (u.unit = 5) && t.repok) ∧ v.getB A.bootStat 0 = t.repok ∧ v.now = 0 ∧ v.slots = [] ∧ v.slices = [] ∧
      v.fuse = s.fuse ∧ v.pending = s.pending))

/-- O55, tier 2, R260, R347, R348. A write of CTX_KILL starts, in the next clk, the kill of every context it names that is
not 0 or 63, not FREE and not being killed, whose bit then reads 1; the other bits stay, and a write that names one of
the former is refused for it. When the mark arrives at a slice, not earlier than the mesh allows, that slice is marked
once; every pair that the context owns there is at its reset value: counters 0, OVF clear, owner 63. A kill that is
marked everywhere and has drained, with no stroke left that awaits an acknowledgement, goes on to its banks. One whose banks have been handed over completes 1 clk later:
the context is FREE, its progress is 0, its bit of CTX_KILL is clear, and CTX_KILLST records it. -/
def Obligations.ContextKills : Prop :=
  (∀ (s : State) (ctx : Nat) (v : Word), s.plain A.ctxKill ctx = true →
    let good (c : Nat) : Prop := v.getLsbD c = true ∧ s.getB A.ctxKill c = false ∧ c ≠ 0 ∧ c ≠ 63 ∧ s.ctxState c ≠ 0
    ∃ t : State, exec (.ctxKillWrite v ctx) s = .next t ∧
      (∀ c, c < 64 → good c → t.getB A.ctxKill c = true ∧ (∃ k ∈ t.boot.kills, k.ctx = c ∧ k.marked = [] ∧ k.drained = false)) ∧
      (∀ c, c < 64 → ¬ good c → t.getB A.ctxKill c = s.getB A.ctxKill c) ∧
      ((∃ c, c < 64 ∧ good c) → t.now = s.now + 1) ∧ ((∀ c, c < 64 → ¬ good c) → t.boot = s.boot ∧ t.now = s.now) ∧
      t.mem = s.mem ∧ t.slots = s.slots ∧ t.ports = s.ports) ∧
  (∀ (s : State) (c sl : Nat) (k : Kill), c < 64 → s.hasSlice sl = true → s.killOf c = some k →
    (k.marked.contains sl = true → exec (.killMarkArrive c sl) s = .next s) ∧
    (k.marked.contains sl = false → ∃ (w : State) (x : Kill),
      exec (.killMarkArrive c sl) s = .next (((w.killPairs sl c).settleAll sl).pumpEngine sl) ∧
      max s.now (k.began + meshTime (s.hopsGlobal sl)) ≤ w.now ∧ w.killOf c = some x ∧ x.marked = k.marked ++ [sl] ∧
      (∀ n, n < 256 → ((w.killPairs sl c).rd (A.semPair sl n)) =
        if w.getF (A.semPair sl n) 40 6 = c then s.build.resetVal (A.semPair sl n) else w.rd (A.semPair sl n)))) ∧
  (∀ (s : State) (c : Nat), c < 64 →
    let gone := s.killDraining c && decide (s.killStrokes c = 0) && s.drained (killMine c) (State.killHost c) (s.killOut c)
    (gone = true →
      exec (.killDrainEnd c) s = .next ((s.reach (s.lastAnswer .complex)).killBanks c 0)) ∧
    (gone = false → exec (.killDrainEnd c) s = .next s)) ∧
  (∀ (s : State) (c : Nat) (k : Kill), c < 64 → s.killOf c = some k → k.drained = true → s.killBanksDone c = true → ∃ t : State,
    exec (.killComplete c) s = .next t ∧ t.now = s.now + 1 ∧ t.ctxState c = 0 ∧ t.rd (A.ctxProgress c) = 0 ∧
      t.getB A.ctxKill c = false ∧ t.getF A.ctxKillst 0 6 = c ∧ t.getB A.ctxKillst 6 = k.keep ∧ t.getB A.ctxKillst 7 = true ∧
      t.getF A.ctxKillst 8 16 = min k.aborts 0xFFFF ∧ (∀ x ∈ t.boot.kills, x.ctx ≠ c) ∧ t.ports = s.ports ∧
      (∀ a, a ≠ A.ctxProgress c → a ≠ A.ctxE0 c → a ≠ A.ctxKill → a ≠ A.ctxKillst → t.rd a = s.rd a))

/-! ### The fabric port, chip windows, Knells and SOLO -/

/-- O56, tier 2, R364, R365, R366, R367, R368, R369, R370. A packet of another version is absorbed and counted. A request
is checked as R370 orders: one for another chip is answered RANGE, one for no window, a closed one or a new tag of a
draining one WINDOW_CLOSED, one from a source, job or tag binding that the window does not name DENIED, and so on; a
refused one shows its response and changes nothing else, and one that passes is held as inbound until its lines are
performed: one packet for each of its parts leaves (0,0). A response completes, re-sends or halts the outbound write that
it matches; any other is absorbed and counted as late. While the complex is in Damp or Tap an arrival wakes it and waits;
one that meets an entry at E1 or E2 is noted there as its wake, and served. A packet of no known type is absorbed. A
slot whose REMOTE or TOLL has its next lines ready, a request ID free and its class a share, sends them. -/
def Obligations.FabricPackets : Prop :=
  (∀ (s : State) (p : Packet) (n : Nat) (c : Instr), s.build.chipwin ≠ 0 →
    (c = .fpWriteIn p ∧ n = 1) ∨ (c = .fpWritepIn p ∧ n = 2) ∨ (c = .fpReadIn p ∧ n = 4) →
    let q := { p with type := n }
    let shows (u : State) (k : Nat) : State := u.fpShow (u.fpResponse q k [])
    let w := s.wake .complex 1
    (s.entering .complex = false → s.cplxAwake = true → w = s) ∧
    (s.cplxAwake = false → exec c s = .next w) ∧
    (s.cplxAwake = true → p.ver ≠ 1 → exec c s = .next (w.putF A.fpStat 0 32 (w.getF A.fpStat 0 32 + 1))) ∧
    (s.cplxAwake = true → p.ver = 1 → w.winKilled p.win = false →
      (p.dst ≠ w.getF A.chipId 0 16 → exec c s = .next (shows w rspRange)) ∧
      (p.dst = w.getF A.chipId 0 16 →
        (w.build.chipwin ≤ p.win ∨ w.winState p.win = 0 ∨ (w.winState p.win = 2 ∧ (w.fpTag p.win p.tag).isOpen = false) →
          exec c s = .next (shows w 6)) ∧
        (p.win < w.build.chipwin → w.winState p.win = 1 →
          (p.src < w.getF (A.chwinSrc p.win) 0 16 ∨ w.getF (A.chwinSrc p.win) 16 16 < p.src ∨
            p.jobid ≠ w.getF (A.chwinJob p.win) 0 32 ∨ ((w.fpTag p.win p.tag).isOpen = true ∧ (w.fpTag p.win p.tag).src ≠ p.src) →
            exec c s = .next (shows w rspDenied))))) ∧
    (s.cplxAwake = true → p.ver = 1 → w.fpCode3 q = rspOk →
      let u := w.fpOpens q
      let k := u.fpCode6 q
      (k ≠ rspOk → exec c s = .next (shows u k)) ∧
      (k = rspOk → (u.fpSpots q).1 ≠ rspOk → (u.fpSpots q).1 ≠ rspPoison → exec c s = .next (shows u (u.fpSpots q).1)) ∧
      (k = rspOk → (u.fpSpots q).1 = rspOk →
        let rs := (groupUp (u.fpSpots q).2).map (u.fpReq q u.fabric.nextId)
        u.partsCode rs = rspOk → ∃ t : State, exec c s = .next t ∧ t.fabric.nextId = u.fabric.nextId + 1 ∧
          t.fabric.inbound = u.fabric.inbound ++ [⟨u.fabric.nextId, q, u.winCtx p.win, rs.length, rspOk, [], u.now⟩] ∧
          (∃ new, t.net.pkts = u.net.pkts ++ new ∧ new.map (fun k => k.req.lines) = rs.map (fun r => r.lines) ∧
            ∀ k ∈ new, k.src = 64) ∧ t.mem = s.mem ∧ t.now = s.now))) ∧
  (∀ (s : State) (p : Packet), s.build.chipwin ≠ 0 → s.cplxAwake = true →
    let w := s.wake .complex 1
    let lost := (w.putF A.fpStat 0 32 (w.getF A.fpStat 0 32 + 1))
    (p.ver ≠ 1 → exec (.fpWrspIn p) s = .next lost ∧ exec (.fpRdataIn p) s = .next lost ∧ exec (.fpBadPacket p) s = .next lost) ∧
    (p.ver = 1 → exec (.fpRdataIn p) s = .next (lost.putF A.bootStat 32 32 (w.getF A.bootStat 32 32 + 1))) ∧
    (p.ver = 1 → w.outOf p = none → exec (.fpWrspIn p) s = .next (lost.putF A.bootStat 32 32 (w.getF A.bootStat 32 32 + 1))) ∧
    (p.ver = 1 → p.type ∉ [1, 2, 3, 4, 5, 8] → exec (.fpBadPacket p) s = .next lost) ∧
    (∀ o, p.ver = 1 → w.outOf p = some o →
      (p.code = 0 ∨ p.code = 3 → exec (.fpWrspIn p) s =
        .next (((w.putOut o fun _ => none).outDoneLines o.sl o.slot o.no o).pumpEngine o.sl)) ∧
      (p.code = 1 → w.slotState o.sl o.slot = 2 ∨ w.slotState o.sl o.slot = 3 → exec (.fpWrspIn p) s =
        .next ((w.putOut o fun k => some { k with waiting := false, retry := some (w.now + 256) }).pumpEngine o.sl)) ∧
      (p.code ∉ [0, 1, 3] → w.slotState o.sl o.slot = 2 ∨ w.slotState o.sl o.slot = 3 → ∃ t : State,
        exec (.fpWrspIn p) s = .next (t.pumpEngine o.sl) ∧ t.mem = s.mem ∧
        t = (w.putOut o fun k => some { k with waiting := false, retry := none }).setHalt o.sl o.slot
          { no := o.no, blk := o.blk, elem := o.first, read := false, code := outFaultCode p.code, addr := none }))) ∧
  (∀ (s : State) (sl j n rid : Nat) (i : Inst) (os : List Operand) (last : Bool), s.build.chipwin ≠ 0 → s.hasSlice sl = true → j < 16 →
    let u := s.pumpEngine sl
    (u.slot sl j).followInst = some i → u.outMay sl j i = true → u.blockOps sl i i.wblk = some os →
    let src := os.getD 0 Operand.none
    let dst := os.getD 1 Operand.none
    i.outNext dst i.wblk i.wpos = some n → (∀ g, u.openTag sl j = some g → g = i.opt 4 8) → 0 ≤ dst.lineOff n →
    dst.lineOff n < 2 ^ 25 →
    let g := u.outReady sl j i dst src (u.outGroup sl j i dst n)
    g ≠ [] → u.outLast sl i dst g = some last →
    (last = true → ∀ x ∈ u.fabric.outbound, ¬ (x.sl = sl ∧ x.slot = j ∧ ¬ (x.blk = i.wblk ∧ x.first = n))) →
    u.tcount sl j < 65535 → u.freeRid = some rid → u.outFree (u.slotClass sl j) = true →
    exec (.fpPacketSend sl j) s = .next (u.outSend sl j i dst src g last rid))

/-- O57, tier 2, R316, R371, R372, R375, R376, R351, R361. OPEN at a closed window that named what it must before the write
makes it OPEN with every tag IDLE, and is refused otherwise. CLOSE at an open window makes it DRAINING until DTMO clk later. A
draining window with no tag open and no access under way closes, and so does one whose time has run out, whose open
tags are dropped and raise GLB_IRQ_CAUSE.FP. A received Knell of another chip, in Play, is shown in FP_KNLAST, raises
GLB_IRQ_CAUSE.FP and closes every window of its job; one of this chip is ignored; one that meets a power state is held
and wakes. GO queues a Knell; in Play the Knell that has waited longest is sent first. SOLO of a context pauses every
other running job context; of context 0 or 63 it is refused. -/
def Obligations.WindowsAndKnells : Prop :=
  (∀ (s : State) (w ctx : Nat) (v : Word), w < s.build.chipwin → w < 64 → s.plain (A.chwinCtl w) ctx = true →
    (s.winState w = 0 → let t := s.storeReg (A.chwinCtl w) (setFlag v 19 true) true ctx
      (s.openRefused w = true → exec (.chwinOpen w v ctx) s = .next (t.refuseCfg (A.chwinCtl w) ctx)) ∧
      (s.openRefused w = false → ∃ u : State, exec (.chwinOpen w v ctx) s = .next u ∧ u.winState w = 1 ∧
        (∀ e ∈ u.fabric.tags, e.1 / 256 ≠ w) ∧ u.getF (A.chwinStat w) 0 9 = 0 ∧ u.mem = s.mem)) ∧
    (s.winState w = 1 → ∃ u : State, exec (.chwinClose w v ctx) s = .next u ∧ u.winState w = 2 ∧
      (∀ x, x ≠ w → Tbl.get 0 u.fabric.closeAt x = Tbl.get 0 s.fabric.closeAt x) ∧
      Tbl.get 0 u.fabric.closeAt w = s.now + u.getF (A.chwinCtl w) 32 32 ∧ u.fabric.tags = s.fabric.tags ∧ u.mem = s.mem)) ∧
  (∀ (s : State) (w : Nat), w < s.build.chipwin → w < 64 →
    (s.winState w = 2 → s.getF (A.chwinStat w) 0 9 = 0 → (∀ x ∈ s.fabric.inbound, x.pkt.win ≠ w) → ∃ u : State,
      exec (.chwinDrainDone w) s = .next u ∧ u.winState w = 0 ∧ (∀ e ∈ u.fabric.tags, e.1 / 256 ≠ w) ∧ u.now = s.now) ∧
    (s.winState w = 2 → ∃ u : State, exec (.chwinDtmo w) s = .next u ∧ u.winState w = 0 ∧
      u.now = max s.now (Tbl.get 0 s.fabric.closeAt w) ∧ (∀ e ∈ u.fabric.tags, e.1 / 256 ≠ w) ∧
      u.fabric.inbound = s.fabric.inbound ∧
      u.getB A.glbIrqCause 7 = (s.getB A.glbIrqCause 7 || decide (s.getF (A.chwinStat w) 0 9 ≠ 0))) ∧
    (s.winState w ≠ 2 → exec (.chwinDrainDone w) s = .next s ∧ exec (.chwinDtmo w) s = .next s)) ∧
  (∀ (s : State) (p : Packet), s.build.chipwin ≠ 0 → s.build.chipwin ≤ 64 →
    (p.ver = 1 → p.src = s.getF A.chipId 0 16 → exec (.fpKnellIn p) s = .next s) ∧
    (p.ver = 1 → p.src ≠ s.getF A.chipId 0 16 → s.allAwake = true → ∃ t : State, exec (.fpKnellIn p) s = .next t ∧
      t.now = s.now + 1 ∧ t.getF A.fpKnlast 0 32 = p.jobid % 2 ^ 32 ∧ t.getF A.fpKnlast 32 16 = p.src % 2 ^ 16 ∧
      t.getF A.fpKnlast 48 3 = p.count % 8 ∧ t.getB A.fpKnlast 51 = true ∧ t.getB A.glbIrqCause 7 = true ∧
      (∀ w, w < s.build.chipwin → w < 64 → s.getF (A.chwinJob w) 0 32 = p.jobid → t.winState w = 0) ∧ t.mem = s.mem) ∧
    (p.ver = 1 → p.src ≠ s.getF A.chipId 0 16 → s.allAwake = false → ∃ u : State,
      exec (.fpKnellIn p) s = .next (u.wakeAll 4) ∧ u.power.knellWaiting = s.power.knellWaiting ++ [p] ∧ u.csr = s.csr ∧
      u.now = s.now + 1)) ∧
  (∀ (s : State) (ctx : Nat) (v : Word), s.plain A.fpKnell ctx = true → s.build.chipwin ≠ 0 → ∃ (t : State) (k : Packet),
    exec (.fpKnellGo v ctx) s = .next t ∧ t.fabric.knells = s.fabric.knells ++ [k] ∧ k.type = 8 ∧ k.jobid = fld v 0 32 ∧
      k.count = 3 ∧ k.src = s.getF A.chipId 0 16 ∧ t.getB A.fpKnell 33 = true ∧ t.mem = s.mem) ∧
  (∀ (s : State) (k : Packet) (rest : List Packet), s.fabric.knells = k :: rest →
    (s.cplxPower = 0 → s.notOk 5 0 = false → ∃ t : State, exec .knellSend s = .next t ∧ t.fabric.shown = some k ∧
      rest <+: t.fabric.knells ∧ t.fabric.outbound = s.fabric.outbound ∧ t.mem = s.mem ∧ t.now = s.now) ∧
    (s.cplxPower ≠ 0 → exec .knellSend s = .next s)) ∧
  (∀ (s : State) (ctx : Nat) (v : Word), s.plain A.ctxSolo ctx = true →
    let c := fld v 0 6
    (flag v 6 = true → c = 0 ∨ c = 63 → exec (.ctxSoloWrite v ctx) s = .next (s.refuseCfg A.ctxSolo ctx)) ∧
    (flag v 6 = true → c ≠ 0 → c ≠ 63 → ∃ t : State, exec (.ctxSoloWrite v ctx) s = .next t ∧
      (∀ k, k < 64 → k ≠ 0 → k ≠ 63 → k ≠ c → s.ctxState k = 1 → t.ctxState k = 2 ∧ t.getB A.ctxSolop k = true) ∧
      (∀ k, k < 64 → k = 0 ∨ k = 63 ∨ k = c ∨ s.ctxState k ≠ 1 → t.ctxState k = s.ctxState k) ∧ t.mem = s.mem) ∧
    (flag v 6 = false → s.getB A.ctxSolo 6 = true → ∃ t : State, exec (.ctxSoloWrite v ctx) s = .next t ∧ t.rd A.ctxSolop = 0) ∧
    (flag v 6 = false → s.getB A.ctxSolo 6 = false → exec (.ctxSoloWrite v ctx) s = .next (s.storeReg A.ctxSolo v true ctx)))

/-! ### Belfry: mailbox, log, dumps, flash; CSR writes; the roll call -/

/-- O58, tier 2, R381, R383, R384, R388, R389, R395, R399, R401. A mailbox command that Belfry is serving, and that its
life-cycle state permits with a length the buffer holds, is answered: INFO, SENSORS, DUMP_DIR with status 0 and their
layouts' lengths; LOG_READ with the records it names, or status 3 beyond 128 of them; DUMP_READ with the bytes it
names, or 3; DUMP_FREE frees the entry; DUMP_CAPTURE writes a dump, once the one being written is complete; UPD_BEGIN, UPD_DATA, UPD_END and REPAIR_SAVE work
on the flash, or answer 6 without one and 7 without an update in progress; LC_NONCE draws a nonce of 48 bytes;
LC_CHANGE answers 4 for a change that is not allowed and 7 while a context is not FREE. One that is not permitted
answers 4 and changes nothing else; one that Belfry is not serving does nothing; an unlisted operation answers 2. -/
def Obligations.MailboxCommands : Prop :=
  let table : List (Nat × Instr) := [(1, .mboxInfo), (2, .mboxSensors 0 0), (3, .logRead), (4, .dumpDir), (5, .dumpRead),
    (6, .dumpCapture), (7, .dumpFree), (0x10, .updBegin), (0x11, .updData), (0x12, .updEnd), (0x13, .repairSave), (0x20, .lcNonce),
    (0x21, .lcChange)]
  ∀ s : State,
  let gives (c : Instr) (st : Nat) (n : Nat) : Prop := ∃ bs : List Byte, bs.length = n ∧ exec c s = .next (s.reply st bs)
  let may (op : Nat) : Prop := s.serving op = true ∧ s.notPermitted op = false ∧ s.getF A.mboxCmd 8 13 ≤ 4096
  (∀ e ∈ table, (s.serving e.1 = false → exec e.2 s = .next s) ∧
    (s.serving e.1 = true → s.notPermitted e.1 = true → exec e.2 s = .next (s.reply 4 [])) ∧
    (s.serving e.1 = true → s.notPermitted e.1 = false → 4096 < s.getF A.mboxCmd 8 13 → exec e.2 s = .next (s.reply 3 []))) ∧
  (may 1 → gives .mboxInfo 0 32) ∧
  (may 2 → ∀ c k, ∃ t : State, exec (.mboxSensors c k) s = .next t ∧ (∃ bs, t.belfry.answer = some (0, bs) ∧ bs.length = 1040) ∧
    t.csr = s.csr ∧ t.mem = s.mem ∧ t.now = s.now) ∧
  (may 3 → let n := fld (s.arg 0) 11 8 + 1
    (128 < n → exec .logRead s = .next (s.reply 3 [])) ∧ (n ≤ 128 → gives .logRead 0 (32 * n))) ∧
  (may 4 → s.belfry.dumps.length = 8 → gives .dumpDir 0 256) ∧
  (may 5 → let d := s.belfry.dumps.getD (fld (s.arg 0) 0 3) DumpDir.empty
    let a := fld (s.arg 0) 3 17
    let n := fld (s.arg 0) 20 13
    (d.valid = true → n ≤ 4096 → a + n ≤ 131072 → gives .dumpRead 0 n) ∧
    (d.valid = false ∨ 4096 < n ∨ 131072 < a + n → gives .dumpRead 3 0)) ∧
  (may 6 → ∀ k, s.dumpSlot = some k → k < s.belfry.dumps.length → s.pins.pgood = true → ∃ t : State, exec .dumpCapture s = .next t ∧
    (t.belfry.dumps.getD k DumpDir.empty).valid = true ∧ (t.belfry.dumps.getD k DumpDir.empty).reason = 5 ∧
    (∃ bs, t.belfry.answer = some (0, bs)) ∧ s.belfry.dumpEnds ≤ t.time.ref ∧ t.mem = s.mem ∧ t.slices = s.slices) ∧
  (may 6 → s.dumpSlot = none → ∃ t : State, exec .dumpCapture s = .next t ∧ t.belfry.answer = some (7, []) ∧
    t.belfry.dumps = s.belfry.dumps) ∧
  (may 7 → ∃ t : State, exec .dumpFree s = .next t ∧ t.belfry.answer = some (0, []) ∧
    (t.belfry.dumps.getD (fld (s.arg 0) 0 3) DumpDir.empty).valid = false ∧
    (∀ e, e ≠ fld (s.arg 0) 0 3 → t.belfry.dumps.getD e DumpDir.empty = s.belfry.dumps.getD e DumpDir.empty) ∧ t.csr = s.csr ∧
    t.mem = s.mem) ∧
  (may 0x10 → (s.belfry.flashOk = false → gives .updBegin 6 0) ∧
    (s.belfry.flashOk = true → flag (s.arg 0) 0 = true → fld (s.arg 0) 8 24 ≤ 65536 → ∃ (t : State) (b : Nat), exec .updBegin s = .next t ∧
      t.belfry.update = some ⟨1, fld (s.arg 0) 8 24, b, []⟩ ∧ t.belfry.answer = some (0, []) ∧ t.csr = s.csr ∧ t.mem = s.mem)) ∧
  (may 0x11 → (s.belfry.update = none → gives .updData 7 0) ∧
    (∀ u, s.belfry.update = some u → let a := fld (s.arg 0) 0 24
      let n := fld (s.arg 1) 0 12
      let clash : Bool := u.written.any fun w => decide (a < w.1 + w.2 ∧ w.1 < a + n)
      (4032 < n ∨ u.total < a + n ∨ clash = true → gives .updData 3 0) ∧
      (n ≤ 4032 → a + n ≤ u.total → clash = false → ∃ t : State, exec .updData s = .next t ∧
        t.belfry.update = some { u with written := u.written ++ [(a, n)] } ∧ t.belfry.answer = some (0, []) ∧ t.csr = s.csr ∧
        t.mem = s.mem))) ∧
  (may 0x12 → (s.belfry.update = none → gives .updEnd 7 0) ∧
    (∀ u, s.belfry.update = some u → ∃ t : State, exec .updEnd s = .next t ∧ t.belfry.update = none ∧ t.mem = s.mem)) ∧
  (may 0x13 → (s.belfry.flashOk = false → gives .repairSave 6 0) ∧
    (s.belfry.flashOk = true → s.newRecord.length ≤ 65536 → ∃ (t : State) (bs : List Byte), exec .repairSave s = .next t ∧
      t.belfry.answer = some (0, bs) ∧ bs.length = 8 ∧ t.csr = s.csr ∧ t.mem = s.mem)) ∧
  (may 0x20 → ∃ (t : State) (bs : List Byte), exec .lcNonce s = .next t ∧ bs.length = 48 ∧ t.belfry.nonce = some bs ∧
    t.belfry.answer = some (0, bs) ∧ t.csr = s.csr ∧ t.mem = s.mem) ∧
  (may 0x21 → let k := fld (s.arg 0) 0 3
    (lcAllowed s.fuse.lifeCycle k = false → gives .lcChange 4 0) ∧
    (lcAllowed s.fuse.lifeCycle k = true → s.contextsFree = false → gives .lcChange 7 0) ∧
    (lcAllowed s.fuse.lifeCycle k = true → s.contextsFree = true → (s.fuse.lifeCycle = 0 ∧ k = 1 ∧ s.fuse.keyHash = true) ∨
      (¬ (s.fuse.lifeCycle = 0 ∧ k = 1) ∧ s.lcSigned k = true) → ∃ t : State, exec .lcChange s = .next t ∧
      t.fuse.lifeCycle = k ∧ t.belfry.answer = some (0, []) ∧ t.belfry.lcReset = true ∧ t.mem = s.mem) ∧
    (lcAllowed s.fuse.lifeCycle k = true → s.contextsFree = true → ¬ (s.fuse.lifeCycle = 0 ∧ k = 1) → s.lcSigned k = false →
      ∃ t : State, exec .lcChange s = .next t ∧ t.fuse = s.fuse ∧ t.belfry.answer = some (5, []) ∧ t.belfry.nonce = none)) ∧
  (∀ op, s.belfry.cmd = some op → listedOp op = false → s.serving op = true → exec .mboxUnknown s = .next (s.reply 2 []))

/-- O59, tier 2, R10, R106, R142, R383, R385, R387, R393, R408. An answer that is ready is published: the result bytes stand in
the arguments, MBOX_STAT reads DONE with the status, length and tag, and the mailbox is free. A GO while Belfry does
not serve is answered with status 1 in the next clk, or sets the overrun flag while BUSY. A flash operation that a poll finds ended is
over; one that has run out of time answers 6. A trap of Belfry stops it and puts it in reset. The log takes the record
that has waited longest at its head, modulo 2,048. A CSR write outside the apertures acts as a write of that register;
one in an aperture is a peal write. A write of 1 clears a bit of GLB_IRQ_CAUSE, unless an event of that clk has set it.
The roll call of B7 calls every port once. -/
def Obligations.BelfryUpkeep : Prop :=
  (∀ (s : State) (st : Nat) (bs : List Byte), s.belfryServes = true → s.belfry.flashOp = none → s.belfry.answer = some (st, bs) →
    bs.length ≤ 4096 → s.belfry.cmd ≠ some 0x21 ∨ s.belfry.lcReset = false → ∃ t : State, exec .mboxCommandDone s = .next t ∧
      t.getB A.mboxStat 0 = false ∧ t.getB A.mboxStat 1 = true ∧ t.getF A.mboxStat 8 8 = st % 256 ∧
      t.getF A.mboxStat 16 13 = bs.length ∧ t.getF A.mboxStat 32 16 = s.getF A.mboxCmd 32 16 ∧ t.belfry.cmd = none ∧
      t.belfry.answer = none ∧ t.getB A.glbIrqCause 8 = (s.getB A.glbIrqCause 8 || s.getB A.mboxIe 0) ∧ t.mem = s.mem ∧
      t.fuse = s.fuse ∧ t.slices = s.slices) ∧
  (∀ (s : State) (ctx : Nat) (v : Word), s.notServing = true → flag v 21 = true → s.plain A.mboxCmd ctx = true → ctx = 63 →
    (s.getB A.mboxStat 0 = true → exec (.mboxNotServing v ctx) s = .next (s.putB A.mboxStat 2 true)) ∧
    (s.getB A.mboxStat 0 = false → ∃ t : State, exec (.mboxNotServing v ctx) s = .next t ∧ t.getB A.mboxStat 1 = true ∧
      t.getF A.mboxStat 8 8 = 1 ∧ t.getF A.mboxStat 16 13 = 0 ∧ t.belfry.cmd = none ∧ t.mem = s.mem ∧ t.now = s.now + 1)) ∧
  (∀ s : State, s.belfryServes = true →
    exec (.flashPoll false) s = .next { s with belfry := { s.belfry with flashOp := none } } ∧ exec (.flashPoll true) s = .next s ∧
    (∀ e b lo hi, s.belfry.flashOp = some (e, b, lo, hi) → ∃ t : State, exec .flashTimeout s = .next t ∧ t.belfry.flashOp = none ∧
      t.belfry.answer = some (6, []) ∧ t.mem = s.mem ∧
      (s.pins.pgood = true → b + (if e then 4000000 else 10000) * s.build.refMhz ≤ t.time.ref) ∧
      t.csr = s.csr) ∧
    (s.belfry.flashOp = none → exec .flashTimeout s = .next s)) ∧
  (∀ s : State, (s.belfry.inReset = true → exec .belfryTrap s = .next s) ∧
    (s.belfry.inReset = false → ∃ t : State, exec .belfryTrap s = .next t ∧ t.belfry.inReset = true ∧ t.belfry.running = false ∧
      t.belfry.cmd = none ∧ t.belfry.update = none ∧ t.belfry.logRing = s.belfry.logRing ∧ t.mem = s.mem ∧ t.slices = s.slices ∧
      t.tuner = s.tuner)) ∧
  (∀ (s : State) (r : LogRec) (rest : List LogRec), s.belfry.logQueue = r :: rest → s.belfry.inReset = false →
    let h := s.getF A.mboxLog 0 11
    ∃ t : State, exec .logRecord s = .next t ∧ t.belfry.logQueue = rest ∧ Tbl.get LogRec.zero t.belfry.logRing h = r ∧
      (∀ i, i ≠ h → Tbl.get LogRec.zero t.belfry.logRing i = Tbl.get LogRec.zero s.belfry.logRing i) ∧
      t.getF A.mboxLog 0 11 = (h + 1) % 2048 ∧ t.getF A.mboxLog 11 32 = (s.getF A.mboxLog 11 32 + 1) % 2 ^ 32 ∧
      (∀ a, a ≠ A.mboxLog → t.rd a = s.rd a) ∧ t.mem = s.mem ∧ t.now = s.now) ∧
  (∀ (s : State) (a ctx : Nat) (v : Word), (a < 0x600000 ∨ (0x610000 ≤ a ∧ a < 0x700000) ∨ 0x800000 ≤ a) → a ≠ A.mboxCmd →
    s.plain a ctx = true → exec (.csrWrite a v ctx) s = .next (s.storeCsr s a v ctx)) ∧
  (∀ (s : State) (off ctx : Nat) (v : Word), off < 0x10000 → off % 8 = 0 →
    exec (.csrWrite (0x600000 + off) v ctx) s = exec (.csrPealWrite off v ctx) s) ∧
  (∀ (s : State) (off k ctx : Nat) (v : Word), off < 0x100000 → off % 64 = 0 → k < 8 →
    exec (.csrWrite (0x700000 + (off + 8 * k)) v ctx) s =
      .next (s.memPeal off (setLineWord 0 k v) (0xFF#64 <<< (8 * k)) ctx)) ∧
  (∀ (s : State) (i ctx : Nat) (v : Word), i < 10 → s.plain A.glbIrqCause ctx = true →
    ∃ t : State, exec (.csrWrite A.glbIrqCause v ctx) s = .next t ∧ (∀ a, a ≠ A.glbIrqCause → t.rd a = s.rd a) ∧
      t.getB A.glbIrqCause i =
        (s.getB A.glbIrqCause i && (!(flag v i) || (decide (s.errors.causes.1 = s.now) && flag s.errors.causes.2 i)))) ∧
  (∀ s : State, s.atStage 7 = true →
    (s.boot.rollCall = false → ∃ t : State, exec .stageB7RollCall s = .next t ∧ t.boot.rollCall = true ∧ t.boot.next = 7 ∧
      (∀ sl p, s.hasSlice sl = true → p < s.build.ports → (t.port sl p).calling = true) ∧ t.mem = s.mem ∧ t.now = s.now) ∧
    (s.boot.rollCall = true → (∀ sl p, s.hasSlice sl = true → p < s.build.ports → (s.port sl p).calling = false) → ∃ t : State,
      exec .stageB7RollCall s = .next t ∧ t.boot.next = 8 ∧ t.getF (A.bootRepa 7) 4 3 = 1 ∧
      t.rd (A.bootRepb 7) = s.sliceMap s.failedPorts ∧ t.mem = s.mem))

/-! ### What the commands leave alone -/

/-- O60, tier 3, R10, R11, R22, R46, R181, R224, R281, R383, R407. For every command and state with a next state: a
command of register access leaves the storage, the ports, the stream slots, the mesh, the system and fabric ports, the
beat, time and Belfry as they are; one of the stream engines and of what they work on leaves the ports, the system
port, what the registers have in force, the beat, the Tuner, power and Belfry as they are; one that neither reads nor
writes the storage leaves every cell, written bit, bank, repair and vector line as it is; one that Belfry carries out
within itself changes nothing outside Belfry; and only a strobe, its becoming visible and a restart move the beat. The
lists of commands stand in Safety.lean. -/
def Obligations.CommandFrames : Prop :=
  ∀ (c : Instr) (s t : State), exec c s = .next t →
    (c.registersOnly = true → s.OnlyRegs t) ∧ (c.engineOnly = true → s.OnlyEngine t) ∧ (c.leavesStorage = true → s.SameMem t) ∧
    (c.belfryOnly = true → t = { s with belfry := t.belfry }) ∧ (c.movesBeat = false → t.beat = s.beat)
end

