-- ==== Sys2Proof/Laws/Tbl.lean ====
section
/-! SUPPORT. Laws of sparse tables: a read after a write, and the canonical form under every operation. -/

namespace Sys2Proof.Machine

variable {α : Type}

theorem Tbl.get_erase (d : α) (t : Tbl α) (k k' : Nat) :
    Tbl.get d (Tbl.erase t k) k' = if k' = k then d else Tbl.get d t k' := by
  induction t with
  | nil => simp [Tbl.erase, Tbl.get]
  | cons e t ih =>
    obtain ⟨a, v⟩ := e
    simp only [Tbl.erase]
    by_cases h : a = k
    · rw [if_pos h, ih]; by_cases h' : k' = k
      · simp [h']
      · simp [h', Tbl.get, h, Ne.symm h']
    · rw [if_neg h]; simp only [Tbl.get, ih]
      by_cases h' : k' = k
      · simp [h', h]
      · simp [h']

theorem Tbl.get_insert (d : α) (t : Tbl α) (k k' : Nat) (v : α) :
    Tbl.get d (Tbl.insert t k v) k' = if k' = k then v else Tbl.get d t k' := by
  induction t with
  | nil => simp [Tbl.insert, Tbl.get, eq_comm]
  | cons e t ih =>
    obtain ⟨a, w⟩ := e
    simp only [Tbl.insert]
    split
    · simp [Tbl.get, eq_comm]
    · split
      · subst_vars; simp only [Tbl.get]; by_cases h : k' = a
        · simp [h]
        · simp [h, Ne.symm h]
      · simp only [Tbl.get, ih]; by_cases h : a = k'
        · subst h; simp; omega
        · simp [h]

/-- A read after a write: the key written reads as the value, every other key as before. -/
theorem Tbl.get_put [DecidableEq α] (d d' : α) (t : Tbl α) (k k' : Nat) (v : α) (h : k' = k → d' = d) :
    Tbl.get d' (Tbl.put d t k v) k' = if k' = k then v else Tbl.get d' t k' := by
  unfold Tbl.put
  split
  · rw [Tbl.get_erase]; split <;> simp_all
  · rw [Tbl.get_insert]

theorem Tbl.mem_insert {t : Tbl α} {k : Nat} {v : α} {e : Nat × α} (h : e ∈ Tbl.insert t k v) : e = (k, v) ∨ e ∈ t := by
  induction t with
  | nil => simpa [Tbl.insert] using h
  | cons x t ih =>
    obtain ⟨a, w⟩ := x
    simp only [Tbl.insert] at h
    split at h
    · simpa using h
    · split at h
      · simp at h; rcases h with h | h
        · exact .inl h
        · exact .inr (by simp [h])
      · simp at h; rcases h with h | h
        · exact .inr (by simp [h])
        · rcases ih h with h | h
          · exact .inl h
          · exact .inr (by simp [h])

theorem Tbl.erase_eq_filter (t : Tbl α) (k : Nat) : Tbl.erase t k = t.filter fun e => decide (e.1 ≠ k) := by
  induction t with
  | nil => rfl
  | cons e t ih => obtain ⟨a, v⟩ := e; simp only [Tbl.erase, ih, List.filter]; by_cases h : a = k <;> simp [h]

/-- The canonical form, as a property of all pairs and of every entry. -/
theorem Tbl.wf_iff [DecidableEq α] (d : Nat → α) (t : Tbl α) :
    Tbl.wf d t = true ↔ t.Pairwise (fun x y => x.1 < y.1) ∧ ∀ e ∈ t, e.2 ≠ d e.1 := by
  induction t with
  | nil => simp [Tbl.wf]
  | cons e t ih =>
    obtain ⟨a, v⟩ := e
    cases t with
    | nil => simp [Tbl.wf]
    | cons e' t =>
      obtain ⟨a', v'⟩ := e'
      simp only [Tbl.wf, Bool.and_eq_true, decide_eq_true_eq, ih, List.pairwise_cons, List.mem_cons]
      constructor
      · rintro ⟨⟨h1, h2⟩, ⟨h3, h4⟩, h5⟩
        refine ⟨⟨?_, h3, h4⟩, ?_⟩
        · rintro x (rfl | hx)
          · exact h2
          · exact Nat.lt_trans h2 (h3 x hx)
        · rintro x (rfl | hx)
          · exact h1
          · exact h5 x hx
      · rintro ⟨⟨h1, h2, h3⟩, h4⟩
        exact ⟨⟨h4 (a, v) (.inl rfl), h1 (a', v') (.inl rfl)⟩, ⟨h2, h3⟩, fun x hx => h4 x (.inr hx)⟩

theorem Tbl.wf_filter [DecidableEq α] {d : Nat → α} {t : Tbl α} (p : Nat × α → Bool) (h : Tbl.wf d t = true) :
    Tbl.wf d (t.filter p) = true := by
  rw [Tbl.wf_iff] at *
  exact ⟨h.1.filter p, fun e he => h.2 e (List.mem_filter.1 he).1⟩

theorem Tbl.wf_erase [DecidableEq α] {d : Nat → α} {t : Tbl α} (k : Nat) (h : Tbl.wf d t = true) :
    Tbl.wf d (Tbl.erase t k) = true := by
  rw [Tbl.erase_eq_filter]; exact Tbl.wf_filter _ h

theorem Tbl.pairwise_insert (t : Tbl α) (k : Nat) (v : α) (h : t.Pairwise (fun x y => x.1 < y.1)) :
    (Tbl.insert t k v).Pairwise (fun x y => x.1 < y.1) := by
  induction t with
  | nil => simp [Tbl.insert]
  | cons e t ih =>
    obtain ⟨a, w⟩ := e
    simp only [Tbl.insert]
    have h' := List.pairwise_cons.1 h
    split
    · refine List.pairwise_cons.2 ⟨?_, h⟩
      intro x hx
      rcases List.mem_cons.1 hx with rfl | hx
      · assumption
      · exact Nat.lt_trans ‹_› (h'.1 x hx)
    · split
      · subst_vars; exact List.pairwise_cons.2 ⟨h'.1, h'.2⟩
      · refine List.pairwise_cons.2 ⟨?_, ih h'.2⟩
        intro x hx
        rcases Tbl.mem_insert hx with rfl | hx
        · show a < k; omega
        · exact h'.1 x hx

theorem Tbl.wf_insert [DecidableEq α] {d : Nat → α} {t : Tbl α} {k : Nat} {v : α} (hv : v ≠ d k)
    (h : Tbl.wf d t = true) : Tbl.wf d (Tbl.insert t k v) = true := by
  rw [Tbl.wf_iff] at *
  refine ⟨Tbl.pairwise_insert t k v h.1, fun e he => ?_⟩
  rcases Tbl.mem_insert he with rfl | he
  · exact hv
  · exact h.2 e he

/-- A write keeps the canonical form. -/
theorem Tbl.wf_put [DecidableEq α] {d : Nat → α} {t : Tbl α} (k : Nat) (v : α) (h : Tbl.wf d t = true) :
    Tbl.wf d (Tbl.put (d k) t k v) = true := by
  unfold Tbl.put
  split
  · exact Tbl.wf_erase k h
  · exact Tbl.wf_insert ‹_› h

theorem Tbl.wf_putAll [DecidableEq α] {d : Nat → α} (l : List (Nat × α)) {t : Tbl α} (h : Tbl.wf d t = true) :
    Tbl.wf d (Tbl.putAll d t l) = true := by
  induction l generalizing t with
  | nil => exact h
  | cons e l ih => obtain ⟨k, v⟩ := e; exact ih (Tbl.wf_put k v h)

/-- A list of writes at computed keys keeps the canonical form. -/
theorem Tbl.wf_foldl_put {β : Type} [DecidableEq α] {d : Nat → α} (l : List β) (k : β → Nat) (v : β → α) {t : Tbl α}
    (h : Tbl.wf d t = true) : Tbl.wf d (l.foldl (fun m p => Tbl.put (d (k p)) m (k p) (v p)) t) = true := by
  induction l generalizing t with
  | nil => exact h
  | cons p l ih => exact ih (Tbl.wf_put (k p) (v p) h)

/-- The canonical form under another reading of unlisted keys that agrees on the keys listed. -/
theorem Tbl.wf_congr [DecidableEq α] {d d' : Nat → α} {t : Tbl α} (hd : ∀ e ∈ t, d' e.1 = d e.1)
    (h : Tbl.wf d t = true) : Tbl.wf d' t = true := by
  rw [Tbl.wf_iff] at *
  exact ⟨h.1, fun e he => by rw [hd e he]; exact h.2 e he⟩

/-- Mapping and dropping entries under their keys keeps the canonical form. -/
theorem Tbl.wf_filterMap [DecidableEq α] {d : Nat → α} {t : Tbl α} (g : Nat × α → Option (Nat × α))
    (hg : ∀ e x, g e = some x → x.1 = e.1 ∧ x.2 ≠ d x.1) (h : Tbl.wf d t = true) :
    Tbl.wf d (t.filterMap g) = true := by
  rw [Tbl.wf_iff] at *
  constructor
  · rw [List.pairwise_filterMap]
    exact h.1.imp fun {a b} hab x hx y hy => by rw [(hg a x hx).1, (hg b y hy).1]; exact hab
  · intro e he
    obtain ⟨a, _, ha⟩ := List.mem_filterMap.1 he
    exact (hg a e ha).2

end Sys2Proof.Machine
end

