-- ==== Sys2Proof/Laws/Kept.lean ====
section
/-! SUPPORT. The operations at the bottom of every meaning keep what no command changes (`State.Kept`), and the ways in
which meanings are put together keep it. -/

namespace Sys2Proof.Machine

variable {s0 s : State}

theorem State.kept_refl (s : State) : s.Kept s := ⟨rfl, rfl, rfl, id⟩

theorem State.kept_trans {a b c : State} (h : a.Kept b) (h' : b.Kept c) : a.Kept c :=
  ⟨h'.1.trans h.1, h'.2.1.trans h.2.1, h'.2.2.1.trans h.2.2.1, fun x => h'.2.2.2 (h.2.2.2 x)⟩

/-- A change of fields that the canonical form does not concern. -/
theorem State.kept_mk (h : s0.Kept s) {pins time beat force net sysport fabric errors tuner power boot free} :
    s0.Kept (State.mk s.build s.fuse pins time beat s.csr force s.mem s.slices s.ports s.slots net sysport fabric errors tuner
      power boot s.belfry free s.pending) := h

/-- A change of Belfry that leaves flash and dump store alone. -/
theorem State.kept_mkBelfry (h : s0.Kept s) {pins time beat force net sysport fabric errors tuner power boot free y}
    (h1 : y.flash = s.belfry.flash) (h2 : y.dumpStore = s.belfry.dumpStore) :
    s0.Kept (State.mk s.build s.fuse pins time beat s.csr force s.mem s.slices s.ports s.slots net sysport fabric errors tuner
      power boot y free s.pending) := by
  refine ⟨h.1, h.2.1, h.2.2.1, fun x => ?_⟩
  have := h.2.2.2 x
  simp only [State.Canon, h1, h2] at *
  exact this

/-- A change of the storage that keeps its canonical form. -/
theorem State.kept_mkMem (h : s0.Kept s) {m : Mem} (hm : s.mem.Canon → m.Canon) {pins time beat force net sysport fabric errors tuner power boot free} :
    s0.Kept (State.mk s.build s.fuse pins time beat s.csr force m s.slices s.ports s.slots net sysport fabric errors tuner
      power boot s.belfry free s.pending) :=
  ⟨h.1, h.2.1, h.2.2.1, fun x => ⟨hm (h.2.2.2 x).1, (h.2.2.2 x).2⟩⟩

/-- Registers dropped from the table: they return to their reset values. -/
theorem State.kept_mkCsr (h : s0.Kept s) (p : Nat × Word → Bool) {pins time beat force net sysport fabric errors tuner power boot free} :
    s0.Kept (State.mk s.build s.fuse pins time beat (s.csr.filter p) force s.mem s.slices s.ports s.slots net sysport fabric errors tuner
      power boot s.belfry free s.pending) :=
  ⟨h.1, h.2.1, h.2.2.1, fun x =>
    have y := h.2.2.2 x
    ⟨y.1, Tbl.wf_filter p y.2.1, y.2.2⟩⟩

/-- A state built from another's build, fuses, registers, storage, units, Belfry and queue keeps what that one keeps. -/
theorem State.kept_mk_iff {pins time beat force net sysport fabric errors tuner power boot free} :
    s0.Kept (State.mk s.build s.fuse pins time beat s.csr force s.mem s.slices s.ports s.slots net sysport fabric errors tuner
      power boot s.belfry free s.pending) ↔ s0.Kept s := Iff.rfl

theorem State.kept_mkBelfry_iff {pins time beat force net sysport fabric errors tuner power boot free y}
    (h1 : y.flash = s.belfry.flash) (h2 : y.dumpStore = s.belfry.dumpStore) :
    s0.Kept (State.mk s.build s.fuse pins time beat s.csr force s.mem s.slices s.ports s.slots net sysport fabric errors tuner
      power boot y free s.pending) ↔ s0.Kept s := by
  simp only [State.Kept, State.Canon, h1, h2]

/-! ### Ways in which meanings are put together

A property of states passes through them. -/

theorem ite_of {P : State → Prop} (c : Prop) [Decidable c] {t u : State} (ht : P t) (hu : P u) :
    P (if c then t else u) := by split <;> assumption

theorem foldl_of {P : State → Prop} {α : Type} (l : List α) (f : State → α → State) (h : P s)
    (hf : ∀ t x, P t → P (f t x)) : P (l.foldl f s) := by
  induction l generalizing s with
  | nil => exact h
  | cons a l ih => exact ih (hf s a h)

/-- A fold that carries a state beside something else. -/
theorem foldl_snd_of {P : State → Prop} {α β : Type} (l : List α) (f : β × State → α → β × State) {p : β × State}
    (h : P p.2) (hf : ∀ q x, P q.2 → P (f q x).2) : P (l.foldl f p).2 := by
  induction l generalizing p with
  | nil => exact h
  | cons a l ih => exact ih (hf p a h)

theorem foldl_fst_of {P : State → Prop} {α β : Type} (l : List α) (f : State × β → α → State × β) {p : State × β}
    (h : P p.1) (hf : ∀ q x, P q.1 → P (f q x).1) : P (l.foldl f p).1 := by
  induction l generalizing p with
  | nil => exact h
  | cons a l ih => exact ih (hf p a h)

/-! ### Units and registers -/

theorem State.wr_kept (h : s0.Kept s) (a : Nat) (v : Word) : s0.Kept (s.wr a v) :=
  ⟨h.1, h.2.1, h.2.2.1, fun x =>
    have y := h.2.2.2 x
    ⟨y.1, Tbl.wf_put a v y.2.1, y.2.2⟩⟩

theorem State.setSlice_kept (h : s0.Kept s) (sl : Nat) (x : SliceSt) : s0.Kept (s.setSlice sl x) :=
  ⟨h.1, h.2.1, h.2.2.1, fun c =>
    have y := h.2.2.2 c
    ⟨y.1, y.2.1, Tbl.wf_put (d := fun _ => SliceSt.init) sl x y.2.2.1, y.2.2.2⟩⟩

theorem State.setPort_kept (h : s0.Kept s) (sl p : Nat) (x : Port) : s0.Kept (s.setPort sl p x) :=
  ⟨h.1, h.2.1, h.2.2.1, fun c =>
    have y := h.2.2.2 c
    ⟨y.1, y.2.1, y.2.2.1, Tbl.wf_put (d := fun _ => Port.init) _ x y.2.2.2.1, y.2.2.2.2⟩⟩

theorem State.setSlot_kept (h : s0.Kept s) (sl j : Nat) (x : Slot) : s0.Kept (s.setSlot sl j x) :=
  ⟨h.1, h.2.1, h.2.2.1, fun c =>
    have y := h.2.2.2 c
    ⟨y.1, y.2.1, y.2.2.1, y.2.2.2.1, Tbl.wf_put (d := fun _ => Slot.init) _ x y.2.2.2.2.1, y.2.2.2.2.2⟩⟩

theorem State.setBank_kept (h : s0.Kept s) (sl b : Nat) (x : Bank) : s0.Kept (s.setBank sl b x) :=
  State.kept_mkMem h fun y => by exact ⟨y.1, Tbl.wf_put (d := fun _ => Bank.init) _ x y.2.1, y.2.2⟩

theorem State.freeDraw_kept (h : s0.Kept s) : s0.Kept s.freeDraw.2 := h

theorem State.each_kept (h : s0.Kept s) (l : List Nat) (f : State → Nat → State)
    (hf : ∀ t x, s0.Kept t → s0.Kept (f t x)) : s0.Kept (s.each l f) := foldl_of l f h hf

theorem State.when_kept (h : s0.Kept s) (c : Bool) (t : State) (ht : s0.Kept t) : s0.Kept (s.when c t) :=
  ite_of _ ht h

/-- A port whose roll call waits is not as after reset. -/
theorem Port.callWaits_ne {x : Port} (h : x ≠ Port.init) : x.callWaits ≠ Port.init := by
  unfold Port.callWaits
  split
  · intro hc
    have := congrArg Port.calling hc
    simp_all [Port.init]
  · exact h

/-! ### Storage -/

theorem Mem.putCell_canon {m : Mem} (h : m.Canon) (k : Nat) (v : Byte) : (m.putCell k v).Canon := by
  obtain ⟨h1, h2⟩ := h
  refine ⟨?_, h2⟩
  simp only [Mem.wf, Bool.and_eq_true] at h1 ⊢
  exact ⟨Tbl.wf_put (d := m.cellDflt) k v h1.1, h1.2⟩

theorem Mem.foldl_canon {α : Type} (l : List α) (f : Mem → α → Mem) {m : Mem} (h : m.Canon)
    (hf : ∀ m x, m.Canon → (f m x).Canon) : (l.foldl f m).Canon := by
  induction l generalizing m with
  | nil => exact h
  | cons a l ih => exact ih (hf m a h)

theorem Mem.putWord80_canon {m : Mem} (h : m.Canon) (sl b mac row slot : Nat) (w : BitVec 80) :
    (m.putWord80 sl b mac row slot w).Canon := by
  unfold Mem.putWord80
  exact Mem.foldl_canon _ _ h fun m x hm => Mem.putCell_canon hm _ _

/-- Written bits dropped from the table: those words count as not written. -/
theorem Mem.filterW_canon {m : Mem} (h : m.Canon) (p : Nat × BitVec 3 → Bool) : ({ m with wbits := m.wbits.filter p } : Mem).Canon := by
  obtain ⟨h1, h2⟩ := h
  refine ⟨?_, h2⟩
  simp only [Mem.wf, Bool.and_eq_true] at h1 ⊢
  exact ⟨h1.1, Tbl.wf_filter p h1.2⟩

theorem Mem.putW_canon {m : Mem} (h : m.Canon) (k : Nat) (c : BitVec 3) : ({ m with wbits := Tbl.put 0 m.wbits k c } : Mem).Canon := by
  obtain ⟨h1, h2⟩ := h
  refine ⟨?_, h2⟩
  simp only [Mem.wf, Bool.and_eq_true] at h1 ⊢
  exact ⟨h1.1, Tbl.wf_put (d := fun _ => 0) k c h1.2⟩

theorem State.putArrayWord_kept (h : s0.Kept s) (sl b row slot : Nat) (w : BitVec 80) :
    s0.Kept (s.putArrayWord sl b row slot w) := State.kept_mkMem h fun y => by exact Mem.putWord80_canon y _ _ _ _ _ _

theorem State.putW_kept (h : s0.Kept s) (sl b l w8 : Nat) (c : BitVec 3) : s0.Kept (s.putW sl b l w8 c) :=
  State.kept_mkMem h fun y => by exact Mem.putW_canon y _ _

theorem Mem.putVec_canon {m : Mem} (h : m.Canon) (k : Nat) (v : Option (BitVec 80)) :
    ({ m with vec := Tbl.put none m.vec k v } : Mem).Canon :=
  ⟨h.1, h.2.1, h.2.2.1, Tbl.wf_put (d := fun _ => none) k v h.2.2.2.1, h.2.2.2.2⟩

theorem Mem.filterVec_canon {m : Mem} (h : m.Canon) (p : Nat × Option (BitVec 80) → Bool) :
    ({ m with vec := m.vec.filter p } : Mem).Canon :=
  ⟨h.1, h.2.1, h.2.2.1, Tbl.wf_filter p h.2.2.2.1, h.2.2.2.2⟩

/-- The storage without its cells, whose form is that of the other tables. -/
theorem Mem.noCells_canon {m : Mem} (h : m.Canon) : ({ m with cells := [] } : Mem).Canon := by
  obtain ⟨h1, h2⟩ := h
  refine ⟨?_, h2⟩
  simp only [Mem.wf, Bool.and_eq_true] at h1 ⊢
  exact ⟨rfl, h1.2⟩

/-- Under another repair map, or other epochs, the cells are in canonical form again. -/
theorem Mem.withMap_canon {m m' : Mem} (h : m.Canon) (drop : Nat → Bool) (h' : ({ m' with cells := [] } : Mem).Canon) :
    (m.withMap m' drop).Canon := by
  obtain ⟨h1, -⟩ := h
  obtain ⟨w1, w2⟩ := h'
  refine ⟨?_, w2⟩
  simp only [Mem.wf, Bool.and_eq_true] at h1 w1 ⊢
  refine ⟨?_, w1.2⟩
  have hf := h1.1
  rw [Tbl.wf_iff] at hf ⊢
  refine ⟨hf.1.filter _, fun e he => ?_⟩
  have := (List.mem_filter.1 he).2
  simp only [Bool.and_eq_true, decide_eq_true_eq] at this
  exact this.2

theorem Mem.putRemap_canon {m : Mem} (h : ({ m with cells := [] } : Mem).Canon) (k n : Nat) :
    ({ m with remap := Tbl.put 0 m.remap k n, cells := [] } : Mem).Canon :=
  ⟨h.1, h.2.1, Tbl.wf_put (d := fun _ => 0) k n h.2.2.1, h.2.2.2⟩

theorem Mem.putGroup_canon {m : Mem} (h : ({ m with cells := [] } : Mem).Canon) (k n : Nat) :
    ({ m with group := Tbl.put 0 m.group k n, cells := [] } : Mem).Canon :=
  ⟨h.1, h.2.1, h.2.2.1, h.2.2.2.1, h.2.2.2.2.1, Tbl.wf_put (d := fun _ => 0) k n h.2.2.2.2.2.1, h.2.2.2.2.2.2⟩

theorem Mem.putSpare_canon {m : Mem} (h : ({ m with cells := [] } : Mem).Canon) (k n : Nat) :
    ({ m with spare := Tbl.put 0 m.spare k n, cells := [] } : Mem).Canon :=
  ⟨h.1, h.2.1, h.2.2.1, h.2.2.2.1, h.2.2.2.2.1, h.2.2.2.2.2.1, Tbl.wf_put (d := fun _ => 0) k n h.2.2.2.2.2.2⟩

theorem Mem.putEpoch_canon {m : Mem} (h : ({ m with cells := [] } : Mem).Canon) (k n : Nat) :
    ({ m with epoch := Tbl.put 0 m.epoch k n, cells := [] } : Mem).Canon :=
  ⟨h.1, h.2.1, h.2.2.1, h.2.2.2.1, Tbl.wf_put (d := fun _ => 0) k n h.2.2.2.2.1, h.2.2.2.2.2⟩

/-- The storage under another repair map, or other epochs. -/
theorem State.setMap_kept (h : s0.Kept s) (m' : Mem) (drop : Nat → Bool)
    (hm : s.mem.Canon → ({ m' with cells := [] } : Mem).Canon) : s0.Kept (s.setMap m' drop) :=
  State.kept_mkMem h fun y => by exact Mem.withMap_canon y _ (hm y)

/-- The cells of one slice hold something else: it has left Off, or all of them have been written. -/
theorem State.newEpoch_kept (h : s0.Kept s) (sl n : Nat) (drop : Nat → Bool) :
    s0.Kept { s with mem := s.mem.withMap { s.mem with epoch := Tbl.put 0 s.mem.epoch sl n } drop } :=
  State.kept_mkMem h fun y => by exact Mem.withMap_canon y _ (Mem.putEpoch_canon (Mem.noCells_canon y) sl n)

/-- Epochs count up, and an unlisted epoch is 0: the table stays canonical, and other slices keep theirs. -/
theorem Mem.bump_spec (off : List Nat) (m : Mem) :
    let m' := off.foldl (fun (m : Mem) sl => { m with epoch := Tbl.put 0 m.epoch sl (m.epochOf sl + 1) }) m
    (∀ n, n ∉ off → m'.epochOf n = m.epochOf n) ∧ m' = { m with epoch := m'.epoch } ∧ (Tbl.wf (fun _ => 0) m.epoch = true → Tbl.wf (fun _ => 0) m'.epoch = true) := by
  induction off generalizing m with
  | nil => exact ⟨fun _ _ => rfl, rfl, id⟩
  | cons a l ih =>
    obtain ⟨h1, h2, h6⟩ := ih { m with epoch := Tbl.put 0 m.epoch a (m.epochOf a + 1) }
    refine ⟨fun n hn => ?_, h2, fun h => h6 ?_⟩
    · simp only [List.mem_cons, not_or] at hn
      rw [List.foldl_cons, h1 n hn.2]
      simp only [Mem.epochOf]
      rw [Tbl.get_put 0 0 _ _ _ _ fun _ => rfl, if_neg hn.1]
    · exact Tbl.wf_put (d := fun _ => 0) a (m.epochOf a + 1) h

/-- What a restart leaves of the storage is in canonical form. -/
theorem State.restartMem_canon (s : State) (h : s.mem.Canon) : s.restartMem.Canon := by
  obtain ⟨h1, h2, h3, h4, h5, h6, h7⟩ := h
  unfold State.restartMem
  extract_lets off m
  obtain ⟨e1, e2, e6⟩ := Mem.bump_spec off s.mem
  change m = { s.mem with epoch := m.epoch } at e2
  change ∀ n, n ∉ off → m.epochOf n = _ at e1
  change _ → Tbl.wf _ m.epoch = true at e6
  clear_value m
  generalize m.epoch = ep at e2 e6
  subst e2
  simp only [Mem.wf, Bool.and_eq_true] at h1
  refine ⟨?_, rfl, h3, rfl, e6 h5, h6, h7⟩
  simp only [Mem.wf, Bool.and_eq_true]
  refine ⟨Tbl.wf_congr ?_ (Tbl.wf_filter _ h1.1), h1.2⟩
  intro e he
  have hn : cellSlice e.1 ∉ off := by
    have := (List.mem_filter.1 he).2
    simpa using this
  have he := e1 _ hn
  simp only [Mem.epochOf] at he
  simp only [Mem.cellDflt, Mem.epochOf, he]
  rfl

end Sys2Proof.Machine
end

