-- ==== Sys2Proof/Laws/Frames.lean ====
section
/-! SUPPORT. How the frames of `Safety` pass through the ways in which meanings are put together. -/

namespace Sys2Proof.Machine

variable {s0 s : State}

/-! ### Registers only -/

theorem State.onlyRegs_refl (s : State) : s.OnlyRegs s := rfl

theorem State.onlyRegs_mk_iff {csr force slices errors tuner power} :
    s0.OnlyRegs (State.mk s.build s.fuse s.pins s.time s.beat csr force s.mem slices s.ports s.slots s.net s.sysport s.fabric
      errors tuner power s.boot s.belfry s.free s.pending) ↔ s0.OnlyRegs s := by
  cases s; simp [State.OnlyRegs, State.mk.injEq]

/-! ### The stream engine only -/

theorem State.onlyEngine_refl (s : State) : s.OnlyEngine s := rfl

theorem State.onlyEngine_mk_iff {pins time csr mem slices slots net fabric errors boot} :
    s0.OnlyEngine (State.mk s.build s.fuse pins time s.beat csr s.force mem slices s.ports slots net s.sysport fabric
      errors s.tuner s.power boot s.belfry s.free s.pending) ↔ s0.OnlyEngine s := by
  cases s; simp [State.OnlyEngine, State.mk.injEq]

/-! ### The storage -/

theorem State.sameMem_refl (s : State) : s.SameMem s := rfl

theorem State.sameMem_mk_iff {build fuse pins time beat csr force slices ports slots net sysport fabric errors tuner power boot belfry free pending} :
    s0.SameMem (State.mk build fuse pins time beat csr force s.mem slices ports slots net sysport fabric
      errors tuner power boot belfry free pending) ↔ s0.SameMem s := Iff.rfl

end Sys2Proof.Machine
end

