-- ==== Sys2Proof/Laws/FrameEngine.lean ====
section
/-! SUPPORT. Operations that change only what a stream engine works on (`State.OnlyEngine`). -/

set_option linter.unusedSimpArgs false

namespace Sys2Proof.Machine

open State

theorem State.wr_engine {s0 s : State} (h : s0.OnlyEngine s) (a : Nat) (v : Word) : s0.OnlyEngine (State.wr s a v)
    := by
  unfold State.wr
  with_reducible repeat' first
    | intro _ | assumption | apply ite_of | apply foldl_of | apply foldl_snd_of | apply foldl_fst_of
    | extract_lets | split | simp only [onlyEngine_mk_iff] | simp +zetaDelta only [onlyEngine_mk_iff]

theorem State.putF_engine {s0 s : State} (h : s0.OnlyEngine s) (a lo n v : Nat) : s0.OnlyEngine
    (State.putF s a lo n v) := by
  unfold State.putF
  with_reducible repeat' first
    | intro _ | assumption | apply wr_engine | apply ite_of | apply foldl_of | apply foldl_snd_of
    | apply foldl_fst_of | extract_lets | split | simp only [onlyEngine_mk_iff]
    | simp +zetaDelta only [onlyEngine_mk_iff]

theorem State.putB_engine {s0 s : State} (h : s0.OnlyEngine s) (a i : Nat) (b : Bool) : s0.OnlyEngine
    (State.putB s a i b) := by
  unfold State.putB
  with_reducible repeat' first
    | intro _ | assumption | apply wr_engine | apply ite_of | apply foldl_of | apply foldl_snd_of
    | apply foldl_fst_of | extract_lets | split | simp only [onlyEngine_mk_iff]
    | simp +zetaDelta only [onlyEngine_mk_iff]

theorem State.count_engine {s0 s : State} (h : s0.OnlyEngine s) (a lo n k : Nat) : s0.OnlyEngine
    (State.count s a lo n k) := by
  unfold State.count
  with_reducible repeat' first
    | intro _ | assumption | apply putF_engine | apply ite_of | apply foldl_of | apply foldl_snd_of
    | apply foldl_fst_of | extract_lets | split | simp only [onlyEngine_mk_iff]
    | simp +zetaDelta only [onlyEngine_mk_iff]

theorem State.countSat_engine {s0 s : State} (h : s0.OnlyEngine s) (a lo n k : Nat) : s0.OnlyEngine
    (State.countSat s a lo n k) := by
  unfold State.countSat
  with_reducible repeat' first
    | intro _ | assumption | apply putF_engine | apply ite_of | apply foldl_of | apply foldl_snd_of
    | apply foldl_fst_of | extract_lets | split | simp only [onlyEngine_mk_iff]
    | simp +zetaDelta only [onlyEngine_mk_iff]

theorem State.toReset_engine {s0 s : State} (h : s0.OnlyEngine s) (a : Nat) : s0.OnlyEngine (State.toReset s a)
    := by
  unfold State.toReset
  with_reducible repeat' first
    | intro _ | assumption | apply wr_engine | apply ite_of | apply foldl_of | apply foldl_snd_of
    | apply foldl_fst_of | extract_lets | split | simp only [onlyEngine_mk_iff]
    | simp +zetaDelta only [onlyEngine_mk_iff]

theorem State.allToReset_engine {s0 s : State} (h : s0.OnlyEngine s) (l : List Nat) : s0.OnlyEngine
    (State.allToReset s l) := by
  unfold State.allToReset
  with_reducible repeat' first
    | intro _ | assumption | apply toReset_engine | apply ite_of | apply foldl_of | apply foldl_snd_of
    | apply foldl_fst_of | extract_lets | split | simp only [onlyEngine_mk_iff]
    | simp +zetaDelta only [onlyEngine_mk_iff]

theorem State.setSlice_engine {s0 s : State} (h : s0.OnlyEngine s) (sl : Nat) (x : SliceSt) : s0.OnlyEngine
    (State.setSlice s sl x) := by
  unfold State.setSlice
  with_reducible repeat' first
    | intro _ | assumption | apply ite_of | apply foldl_of | apply foldl_snd_of | apply foldl_fst_of
    | extract_lets | split | simp only [onlyEngine_mk_iff] | simp +zetaDelta only [onlyEngine_mk_iff]

theorem State.modSlice_engine {s0 s : State} (h : s0.OnlyEngine s) (sl : Nat) (f : SliceSt → SliceSt) :
    s0.OnlyEngine (State.modSlice s sl f) := by
  unfold State.modSlice
  with_reducible repeat' first
    | intro _ | assumption | apply setSlice_engine | apply ite_of | apply foldl_of | apply foldl_snd_of
    | apply foldl_fst_of | extract_lets | split | simp only [onlyEngine_mk_iff]
    | simp +zetaDelta only [onlyEngine_mk_iff]

theorem State.setSlot_engine {s0 s : State} (h : s0.OnlyEngine s) (sl j : Nat) (x : Slot) : s0.OnlyEngine
    (State.setSlot s sl j x) := by
  unfold State.setSlot
  with_reducible repeat' first
    | intro _ | assumption | apply ite_of | apply foldl_of | apply foldl_snd_of | apply foldl_fst_of
    | extract_lets | split | simp only [onlyEngine_mk_iff] | simp +zetaDelta only [onlyEngine_mk_iff]

theorem State.modSlot_engine {s0 s : State} (h : s0.OnlyEngine s) (sl j : Nat) (f : Slot → Slot) : s0.OnlyEngine
    (State.modSlot s sl j f) := by
  unfold State.modSlot
  with_reducible repeat' first
    | intro _ | assumption | apply setSlot_engine | apply ite_of | apply foldl_of | apply foldl_snd_of
    | apply foldl_fst_of | extract_lets | split | simp only [onlyEngine_mk_iff]
    | simp +zetaDelta only [onlyEngine_mk_iff]

theorem State.setBank_engine {s0 s : State} (h : s0.OnlyEngine s) (sl b : Nat) (x : Bank) : s0.OnlyEngine
    (State.setBank s sl b x) := by
  unfold State.setBank
  with_reducible repeat' first
    | intro _ | assumption | apply ite_of | apply foldl_of | apply foldl_snd_of | apply foldl_fst_of
    | extract_lets | split | simp only [onlyEngine_mk_iff] | simp +zetaDelta only [onlyEngine_mk_iff]

theorem State.modBank_engine {s0 s : State} (h : s0.OnlyEngine s) (sl b : Nat) (f : Bank → Bank) : s0.OnlyEngine
    (State.modBank s sl b f) := by
  unfold State.modBank
  with_reducible repeat' first
    | intro _ | assumption | apply setBank_engine | apply ite_of | apply foldl_of | apply foldl_snd_of
    | apply foldl_fst_of | extract_lets | split | simp only [onlyEngine_mk_iff]
    | simp +zetaDelta only [onlyEngine_mk_iff]

theorem State.when_engine {s0 s : State} (h : s0.OnlyEngine s) (c : Bool) (t : State) (ht : s0.OnlyEngine t) :
    s0.OnlyEngine (State.when s c t) := by
  unfold State.when
  with_reducible repeat' first
    | intro _ | assumption | apply ite_of | apply foldl_of | apply foldl_snd_of | apply foldl_fst_of
    | extract_lets | split | simp only [onlyEngine_mk_iff] | simp +zetaDelta only [onlyEngine_mk_iff]

theorem State.pass_engine {s0 s : State} (h : s0.OnlyEngine s) (n : Nat) : s0.OnlyEngine (State.pass s n) := by
  unfold State.pass
  with_reducible repeat' first
    | intro _ | assumption | apply ite_of | apply foldl_of | apply foldl_snd_of | apply foldl_fst_of
    | extract_lets | split | simp only [onlyEngine_mk_iff] | simp +zetaDelta only [onlyEngine_mk_iff]

theorem State.reach_engine {s0 s : State} (h : s0.OnlyEngine s) (t : Nat) : s0.OnlyEngine (State.reach s t) := by
  unfold State.reach
  with_reducible repeat' first
    | intro _ | assumption | apply pass_engine | apply ite_of | apply foldl_of | apply foldl_snd_of
    | apply foldl_fst_of | extract_lets | split | simp only [onlyEngine_mk_iff]
    | simp +zetaDelta only [onlyEngine_mk_iff]

theorem State.tick_engine {s0 s : State} (h : s0.OnlyEngine s)  : s0.OnlyEngine (State.tick s) := by
  unfold State.tick
  with_reducible repeat' first
    | intro _ | assumption | apply pass_engine | apply ite_of | apply foldl_of | apply foldl_snd_of
    | apply foldl_fst_of | extract_lets | split | simp only [onlyEngine_mk_iff]
    | simp +zetaDelta only [onlyEngine_mk_iff]

theorem State.raiseIrq_engine {s0 s : State} (h : s0.OnlyEngine s) (i : Nat) : s0.OnlyEngine (State.raiseIrq s i)
    := by
  unfold State.raiseIrq
  with_reducible repeat' first
    | intro _ | assumption | apply putB_engine | apply ite_of | apply foldl_of | apply foldl_snd_of
    | apply foldl_fst_of | extract_lets | split | simp only [onlyEngine_mk_iff]
    | simp +zetaDelta only [onlyEngine_mk_iff]

theorem State.flushSlice_engine {s0 s : State} (h : s0.OnlyEngine s) (sl : Nat) : s0.OnlyEngine
    (State.flushSlice s sl) := by
  unfold State.flushSlice
  with_reducible repeat' first
    | intro _ | assumption | apply modSlice_engine | apply ite_of | apply foldl_of | apply foldl_snd_of
    | apply foldl_fst_of | extract_lets | split | simp only [onlyEngine_mk_iff]
    | simp +zetaDelta only [onlyEngine_mk_iff]

theorem State.pushRec_engine {s0 s : State} (h : s0.OnlyEngine s) (sl : Nat) (r : ErrRec) : s0.OnlyEngine
    (State.pushRec s sl r) := by
  unfold State.pushRec
  with_reducible repeat' first
    | intro _ | assumption | apply count_engine | apply modSlice_engine | apply flushSlice_engine | apply ite_of
    | apply foldl_of | apply foldl_snd_of | apply foldl_fst_of | extract_lets | split
    | simp only [onlyEngine_mk_iff] | simp +zetaDelta only [onlyEngine_mk_iff]

theorem State.sliceRec_engine {s0 s : State} (h : s0.OnlyEngine s) (sl code aux : Nat) (slot : Option Nat) (ctx cls
    : Nat) (detail : Word) : s0.OnlyEngine (State.sliceRec s sl code aux slot ctx cls detail) := by
  unfold State.sliceRec
  with_reducible repeat' first
    | intro _ | assumption | apply pushRec_engine | apply ite_of | apply foldl_of | apply foldl_snd_of
    | apply foldl_fst_of | extract_lets | split | simp only [onlyEngine_mk_iff]
    | simp +zetaDelta only [onlyEngine_mk_iff]

theorem State.globalRec_engine {s0 s : State} (h : s0.OnlyEngine s) (code aux ctx : Nat) (detail : Word) :
    s0.OnlyEngine (State.globalRec s code aux ctx detail) := by
  unfold State.globalRec
  with_reducible repeat' first
    | intro _ | assumption | apply ite_of | apply foldl_of | apply foldl_snd_of | apply foldl_fst_of
    | extract_lets | split | simp only [onlyEngine_mk_iff] | simp +zetaDelta only [onlyEngine_mk_iff]

theorem State.refuseCfg_engine {s0 s : State} (h : s0.OnlyEngine s) (a ctx : Nat) : s0.OnlyEngine
    (State.refuseCfg s a ctx) := by
  unfold State.refuseCfg
  with_reducible repeat' first
    | intro _ | assumption | apply sliceRec_engine | apply globalRec_engine | apply ite_of | apply foldl_of
    | apply foldl_snd_of | apply foldl_fst_of | extract_lets | split | simp only [onlyEngine_mk_iff]
    | simp +zetaDelta only [onlyEngine_mk_iff]

theorem State.each_engine {s0 s : State} (h : s0.OnlyEngine s) (l : List Nat) (f : State → Nat → State) (hf : ∀ (t
    : State) (y : Nat), s0.OnlyEngine t → s0.OnlyEngine (f t y)) : s0.OnlyEngine (State.each s l f) := by
  unfold State.each
  with_reducible repeat' first
    | intro _ | assumption | apply ite_of | apply foldl_of | apply foldl_snd_of | apply foldl_fst_of
    | extract_lets | split | simp only [onlyEngine_mk_iff] | simp +zetaDelta only [onlyEngine_mk_iff] | apply hf

theorem State.putArrayWord_engine {s0 s : State} (h : s0.OnlyEngine s) (sl b row slot : Nat) (w : BitVec 80) :
    s0.OnlyEngine (State.putArrayWord s sl b row slot w) := by
  unfold State.putArrayWord
  with_reducible repeat' first
    | intro _ | assumption | apply ite_of | apply foldl_of | apply foldl_snd_of | apply foldl_fst_of
    | extract_lets | split | simp only [onlyEngine_mk_iff] | simp +zetaDelta only [onlyEngine_mk_iff]

theorem State.putStored_engine {s0 s : State} (h : s0.OnlyEngine s) (sl b l w8 : Nat) (w : BitVec 80) :
    s0.OnlyEngine (State.putStored s sl b l w8 w) := by
  unfold State.putStored
  with_reducible repeat' first
    | intro _ | assumption | apply modBank_engine | apply putArrayWord_engine | apply ite_of | apply foldl_of
    | apply foldl_snd_of | apply foldl_fst_of | extract_lets | split | simp only [onlyEngine_mk_iff]
    | simp +zetaDelta only [onlyEngine_mk_iff]

theorem State.putW_engine {s0 s : State} (h : s0.OnlyEngine s) (sl b l w8 : Nat) (c : BitVec 3) : s0.OnlyEngine
    (State.putW s sl b l w8 c) := by
  unfold State.putW
  with_reducible repeat' first
    | intro _ | assumption | apply ite_of | apply foldl_of | apply foldl_snd_of | apply foldl_fst_of
    | extract_lets | split | simp only [onlyEngine_mk_iff] | simp +zetaDelta only [onlyEngine_mk_iff]

theorem State.writeCoded_engine {s0 s : State} (h : s0.OnlyEngine s) (sl b l w8 : Nat) (d : Word) (psn : Bool) :
    s0.OnlyEngine (State.writeCoded s sl b l w8 d psn) := by
  unfold State.writeCoded
  with_reducible repeat' first
    | intro _ | assumption | apply putStored_engine | apply modBank_engine | apply putW_engine | apply ite_of
    | apply foldl_of | apply foldl_snd_of | apply foldl_fst_of | extract_lets | split
    | simp only [onlyEngine_mk_iff] | simp +zetaDelta only [onlyEngine_mk_iff]

theorem State.recordCe_engine {s0 s : State} (h : s0.OnlyEngine s) (sl aux ctx cls : Nat) (detail : Word) :
    s0.OnlyEngine (State.recordCe s sl aux ctx cls detail) := by
  unfold State.recordCe
  with_reducible repeat' first
    | intro _ | assumption | apply modSlice_engine | apply pushRec_engine | apply ite_of | apply foldl_of
    | apply foldl_snd_of | apply foldl_fst_of | extract_lets | split | simp only [onlyEngine_mk_iff]
    | simp +zetaDelta only [onlyEngine_mk_iff]

theorem State.queueTest_engine {s0 s : State} (h : s0.OnlyEngine s) (sl b row : Nat) : s0.OnlyEngine
    (State.queueTest s sl b row) := by
  unfold State.queueTest
  with_reducible repeat' first
    | intro _ | assumption | apply count_engine | apply setBank_engine | apply retire_engine | apply ite_of
    | apply foldl_of | apply foldl_snd_of | apply foldl_fst_of | extract_lets | split
    | simp only [onlyEngine_mk_iff] | simp +zetaDelta only [onlyEngine_mk_iff]

theorem State.noteWord_engine {s0 s : State} (h : s0.OnlyEngine s) (sl b l w8 src ctx cls : Nat) (d : Decoded) :
    s0.OnlyEngine (State.noteWord s sl b l w8 src ctx cls d) := by
  unfold State.noteWord
  with_reducible repeat' first
    | intro _ | assumption | apply count_engine | apply recordCe_engine | apply sliceRec_engine
    | apply modBank_engine | apply ite_of | apply foldl_of | apply foldl_snd_of | apply foldl_fst_of
    | extract_lets | split | simp only [onlyEngine_mk_iff] | simp +zetaDelta only [onlyEngine_mk_iff]

theorem State.noteVecWord_engine {s0 s : State} (h : s0.OnlyEngine s) (sl line w8 ctx cls : Nat) (d : Decoded) :
    s0.OnlyEngine (State.noteVecWord s sl line w8 ctx cls d) := by
  unfold State.noteVecWord
  with_reducible repeat' first
    | intro _ | assumption | apply recordCe_engine | apply sliceRec_engine | apply ite_of | apply foldl_of
    | apply foldl_snd_of | apply foldl_fst_of | extract_lets | split | simp only [onlyEngine_mk_iff]
    | simp +zetaDelta only [onlyEngine_mk_iff]

theorem State.drainWord_engine {s0 s : State} (h : s0.OnlyEngine s) (sl b : Nat) (e : MergeEntry) (w8 : Nat) :
    s0.OnlyEngine (State.drainWord s sl b e w8) := by
  unfold State.drainWord
  with_reducible repeat' first
    | intro _ | assumption | apply writeCoded_engine | apply noteWord_engine | apply queueTest_engine
    | apply ite_of | apply foldl_of | apply foldl_snd_of | apply foldl_fst_of | extract_lets | split
    | simp only [onlyEngine_mk_iff] | simp +zetaDelta only [onlyEngine_mk_iff]

theorem State.drainLine_engine {s0 s : State} (h : s0.OnlyEngine s) (sl b l : Nat) : s0.OnlyEngine
    (State.drainLine s sl b l) := by
  unfold State.drainLine
  with_reducible repeat' first
    | intro _ | assumption | apply modBank_engine | apply drainWord_engine | apply each_engine | apply ite_of
    | apply foldl_of | apply foldl_snd_of | apply foldl_fst_of | extract_lets | split
    | simp only [onlyEngine_mk_iff] | simp +zetaDelta only [onlyEngine_mk_iff]

theorem State.drainAll_engine {s0 s : State} (h : s0.OnlyEngine s) (sl b : Nat) : s0.OnlyEngine
    (State.drainAll s sl b) := by
  unfold State.drainAll
  with_reducible repeat' first
    | intro _ | assumption | apply drainLine_engine | apply ite_of | apply foldl_of | apply foldl_snd_of
    | apply foldl_fst_of | extract_lets | split | simp only [onlyEngine_mk_iff]
    | simp +zetaDelta only [onlyEngine_mk_iff]

theorem State.landLine_engine {s0 s : State} (h : s0.OnlyEngine s) (sl b l : Nat) (ben : ByteEn) (data : Line) (psn
    : WordEn) : s0.OnlyEngine (State.landLine s sl b l ben data psn) := by
  unfold State.landLine
  with_reducible repeat' first
    | intro _ | assumption | apply modBank_engine | apply writeCoded_engine | apply drainLine_engine
    | apply each_engine | apply ite_of | apply foldl_of | apply foldl_snd_of | apply foldl_fst_of | extract_lets
    | split | simp only [onlyEngine_mk_iff] | simp +zetaDelta only [onlyEngine_mk_iff]

theorem State.writeLine_engine {s0 s : State} (h : s0.OnlyEngine s) (sl b l : Nat) (ben : ByteEn) (data : Line) (psn
    : WordEn) : s0.OnlyEngine (State.writeLine s sl b l ben data psn) := by
  unfold State.writeLine
  with_reducible repeat' first
    | intro _ | assumption | apply modBank_engine | apply landLine_engine | apply ite_of | apply foldl_of
    | apply foldl_snd_of | apply foldl_fst_of | extract_lets | split | simp only [onlyEngine_mk_iff]
    | simp +zetaDelta only [onlyEngine_mk_iff]

theorem State.writeBack_engine {s0 s : State} (h : s0.OnlyEngine s) (sl b l w8 : Nat) (d : Word) : s0.OnlyEngine
    (State.writeBack s sl b l w8 d) := by
  unfold State.writeBack
  with_reducible repeat' first
    | intro _ | assumption | apply setBank_engine | apply count_engine | apply ite_of | apply foldl_of
    | apply foldl_snd_of | apply foldl_fst_of | extract_lets | split | simp only [onlyEngine_mk_iff]
    | simp +zetaDelta only [onlyEngine_mk_iff]

theorem State.touchWord_engine {s0 s : State} (h : s0.OnlyEngine s) (sl b l w8 src ctx cls : Nat) : s0.OnlyEngine
    (State.touchWord s sl b l w8 src ctx cls) := by
  unfold State.touchWord
  with_reducible repeat' first
    | intro _ | assumption | apply noteWord_engine | apply writeBack_engine | apply queueTest_engine
    | apply ite_of | apply foldl_of | apply foldl_snd_of | apply foldl_fst_of | extract_lets | split
    | simp only [onlyEngine_mk_iff] | simp +zetaDelta only [onlyEngine_mk_iff]

theorem State.touchLine_engine {s0 s : State} (h : s0.OnlyEngine s) (sl b l : Nat) (wen : WordEn) (src ctx cls
    : Nat) : s0.OnlyEngine (State.touchLine s sl b l wen src ctx cls) := by
  unfold State.touchLine
  with_reducible repeat' first
    | intro _ | assumption | apply each_engine | apply touchWord_engine | apply ite_of | apply foldl_of
    | apply foldl_snd_of | apply foldl_fst_of | extract_lets | split | simp only [onlyEngine_mk_iff]
    | simp +zetaDelta only [onlyEngine_mk_iff]

theorem State.wipeLine_engine {s0 s : State} (h : s0.OnlyEngine s) (sl b l : Nat) : s0.OnlyEngine
    (State.wipeLine s sl b l) := by
  unfold State.wipeLine
  with_reducible repeat' first
    | intro _ | assumption | apply modBank_engine | apply putW_engine | apply landLine_engine | apply each_engine
    | apply wrote_engine | apply ite_of | apply foldl_of | apply foldl_snd_of | apply foldl_fst_of | extract_lets
    | split | simp only [onlyEngine_mk_iff] | simp +zetaDelta only [onlyEngine_mk_iff]

theorem State.wipeBank_engine {s0 s : State} (h : s0.OnlyEngine s) (sl b : Nat) : s0.OnlyEngine
    (State.wipeBank s sl b) := by
  unfold State.wipeBank
  with_reducible repeat' first
    | intro _ | assumption | apply modBank_engine | apply ite_of | apply foldl_of | apply foldl_snd_of
    | apply foldl_fst_of | extract_lets | split | simp only [onlyEngine_mk_iff]
    | simp +zetaDelta only [onlyEngine_mk_iff]

theorem State.guardAdvance_engine {s0 s : State} (hs : s0.OnlyEngine s) (sl h : Nat) (e : HEntry) (write : Bool) (o
    : Nat) : s0.OnlyEngine (State.guardAdvance s sl h e write o) := by
  unfold State.guardAdvance
  with_reducible repeat' first
    | intro _ | assumption | apply count_engine | apply putF_engine | apply modSlice_engine | apply ite_of
    | apply foldl_of | apply foldl_snd_of | apply foldl_fst_of | extract_lets | split
    | simp only [onlyEngine_mk_iff] | simp +zetaDelta only [onlyEngine_mk_iff]

theorem State.bindGuard_engine {s0 s : State} (hs : s0.OnlyEngine s) (h : Nat) : s0.OnlyEngine (State.bindGuard s h)
    := by
  unfold State.bindGuard
  with_reducible repeat' first
    | intro _ | assumption | apply each_engine | apply wr_engine | apply putB_engine | apply putF_engine
    | apply refuseCfg_engine | apply ite_of | apply foldl_of | apply foldl_snd_of | apply foldl_fst_of
    | extract_lets | split | simp only [onlyEngine_mk_iff] | simp +zetaDelta only [onlyEngine_mk_iff]

theorem State.claveSignal_engine {s0 s : State} (h : s0.OnlyEngine s) (sl pair : Nat) (room : Bool) (n : Nat) :
    s0.OnlyEngine (State.claveSignal s sl pair room n) := by
  unfold State.claveSignal
  with_reducible repeat' first
    | intro _ | assumption | apply putF_engine | apply putB_engine | apply modSlice_engine | apply ite_of
    | apply foldl_of | apply foldl_snd_of | apply foldl_fst_of | extract_lets | split
    | simp only [onlyEngine_mk_iff] | simp +zetaDelta only [onlyEngine_mk_iff]

theorem State.claveTime_engine {s0 s : State} (h : s0.OnlyEngine s) (sl pair : Nat) : s0.OnlyEngine
    (State.claveTime s sl pair) := by
  unfold State.claveTime
  with_reducible repeat' first
    | intro _ | assumption | apply pass_engine | apply ite_of | apply foldl_of | apply foldl_snd_of
    | apply foldl_fst_of | extract_lets | split | simp only [onlyEngine_mk_iff]
    | simp +zetaDelta only [onlyEngine_mk_iff]

theorem State.claveTake_engine {s0 s : State} (h : s0.OnlyEngine s) (sl pair : Nat) (room : Bool) (n : Nat) :
    s0.OnlyEngine (State.claveTake s sl pair room n).2 := by
  unfold State.claveTake
  with_reducible repeat' first
    | intro _ | assumption | apply putF_engine | apply ite_of | apply foldl_of | apply foldl_snd_of
    | apply foldl_fst_of | extract_lets | split | simp only [onlyEngine_mk_iff]
    | simp +zetaDelta only [onlyEngine_mk_iff]

theorem State.putVec_engine {s0 s : State} (h : s0.OnlyEngine s) (sl line : Nat) (ben : ByteEn) (data : Line) (psn
    : WordEn) : s0.OnlyEngine (State.putVec s sl line ben data psn) := by
  unfold State.putVec
  with_reducible repeat' first
    | intro _ | assumption | apply each_engine | apply ite_of | apply foldl_of | apply foldl_snd_of
    | apply foldl_fst_of | extract_lets | split | simp only [onlyEngine_mk_iff]
    | simp +zetaDelta only [onlyEngine_mk_iff]

theorem State.emptyVec_engine {s0 s : State} (h : s0.OnlyEngine s) (sl line : Nat) : s0.OnlyEngine
    (State.emptyVec s sl line) := by
  unfold State.emptyVec
  with_reducible repeat' first
    | intro _ | assumption | apply each_engine | apply ite_of | apply foldl_of | apply foldl_snd_of
    | apply foldl_fst_of | extract_lets | split | simp only [onlyEngine_mk_iff]
    | simp +zetaDelta only [onlyEngine_mk_iff]

theorem State.countOutput_engine {s0 s : State} (h : s0.OnlyEngine s) (p : (Nat × Nat) × Nat) (flits : Nat) :
    s0.OnlyEngine (State.countOutput s p flits) := by
  unfold State.countOutput
  with_reducible repeat' first
    | intro _ | assumption | apply count_engine | apply ite_of | apply foldl_of | apply foldl_snd_of
    | apply foldl_fst_of | extract_lets | split | simp only [onlyEngine_mk_iff]
    | simp +zetaDelta only [onlyEngine_mk_iff]

theorem State.monitor_engine {s0 s : State} (h : s0.OnlyEngine s) (sl cls lat : Nat) : s0.OnlyEngine
    (State.monitor s sl cls lat) := by
  unfold State.monitor
  with_reducible repeat' first
    | intro _ | assumption | apply putF_engine | apply countSat_engine | apply putB_engine | apply raiseIrq_engine
    | apply ite_of | apply foldl_of | apply foldl_snd_of | apply foldl_fst_of | extract_lets | split
    | simp only [onlyEngine_mk_iff] | simp +zetaDelta only [onlyEngine_mk_iff]

theorem State.queueKnell_engine {s0 s : State} (h : s0.OnlyEngine s) (job reason : Nat) : s0.OnlyEngine
    (State.queueKnell s job reason) := by
  unfold State.queueKnell
  with_reducible repeat' first
    | intro _ | assumption | apply ite_of | apply foldl_of | apply foldl_snd_of | apply foldl_fst_of
    | extract_lets | split | simp only [onlyEngine_mk_iff] | simp +zetaDelta only [onlyEngine_mk_iff]

theorem State.killK1_engine {s0 s : State} (h : s0.OnlyEngine s) (c : Nat) (byKnell : Bool) : s0.OnlyEngine
    (State.killK1 s c byKnell) := by
  unfold State.killK1
  with_reducible repeat' first
    | intro _ | assumption | apply putF_engine | apply queueKnell_engine | apply ite_of | apply foldl_of
    | apply foldl_snd_of | apply foldl_fst_of | extract_lets | split | simp only [onlyEngine_mk_iff]
    | simp +zetaDelta only [onlyEngine_mk_iff]

theorem State.beginKill_engine {s0 s : State} (h : s0.OnlyEngine s) (c : Nat) (byKnell : Bool) : s0.OnlyEngine
    (State.beginKill s c byKnell) := by
  unfold State.beginKill
  with_reducible repeat' first
    | intro _ | assumption | apply putB_engine | apply killK1_engine | apply ite_of | apply foldl_of
    | apply foldl_snd_of | apply foldl_fst_of | extract_lets | split | simp only [onlyEngine_mk_iff]
    | simp +zetaDelta only [onlyEngine_mk_iff]

theorem State.killJob_engine {s0 s : State} (h : s0.OnlyEngine s) (job : Nat) : s0.OnlyEngine (State.killJob s job)
    := by
  unfold State.killJob
  with_reducible repeat' first
    | intro _ | assumption | apply each_engine | apply beginKill_engine | apply ite_of | apply foldl_of
    | apply foldl_snd_of | apply foldl_fst_of | extract_lets | split | simp only [onlyEngine_mk_iff]
    | simp +zetaDelta only [onlyEngine_mk_iff]

theorem State.knellOnUe_engine {s0 s : State} (h : s0.OnlyEngine s) (c : Nat) : s0.OnlyEngine (State.knellOnUe s c)
    := by
  unfold State.knellOnUe
  with_reducible repeat' first
    | intro _ | assumption | apply queueKnell_engine | apply killJob_engine | apply ite_of | apply foldl_of
    | apply foldl_snd_of | apply foldl_fst_of | extract_lets | split | simp only [onlyEngine_mk_iff]
    | simp +zetaDelta only [onlyEngine_mk_iff]

theorem State.touchVec_engine {s0 s : State} (h : s0.OnlyEngine s) (sl c cls : Nat) (words : List (Nat × Nat)) :
    s0.OnlyEngine (State.touchVec s sl c cls words) := by
  unfold State.touchVec
  with_reducible repeat' first
    | intro _ | assumption | apply noteVecWord_engine | apply knellOnUe_engine | apply ite_of | apply foldl_of
    | apply foldl_snd_of | apply foldl_fst_of | extract_lets | split | simp only [onlyEngine_mk_iff]
    | simp +zetaDelta only [onlyEngine_mk_iff]

theorem State.touchLines_engine {s0 s : State} (h : s0.OnlyEngine s) (sl : Nat) (r : Req) (src : Nat) :
    s0.OnlyEngine (State.touchLines s sl r src) := by
  unfold State.touchLines
  with_reducible repeat' first
    | intro _ | assumption | apply touchLine_engine | apply knellOnUe_engine | apply ite_of | apply foldl_of
    | apply foldl_snd_of | apply foldl_fst_of | extract_lets | split | simp only [onlyEngine_mk_iff]
    | simp +zetaDelta only [onlyEngine_mk_iff]

theorem State.writeLines_engine {s0 s : State} (h : s0.OnlyEngine s) (sl : Nat) (r : Req) : s0.OnlyEngine
    (State.writeLines s sl r) := by
  unfold State.writeLines
  with_reducible repeat' first
    | intro _ | assumption | apply writeLine_engine | apply ite_of | apply foldl_of | apply foldl_snd_of
    | apply foldl_fst_of | extract_lets | split | simp only [onlyEngine_mk_iff]
    | simp +zetaDelta only [onlyEngine_mk_iff]

theorem State.perform_engine {s0 s : State} (h : s0.OnlyEngine s) (sl : Nat) (r : Req) : s0.OnlyEngine
    (State.perform s sl r).2.2 := by
  unfold State.perform
  with_reducible repeat' first
    | intro _ | assumption | apply writeLines_engine | apply touchLines_engine | apply ite_of | apply foldl_of
    | apply foldl_snd_of | apply foldl_fst_of | extract_lets | split | simp only [onlyEngine_mk_iff]
    | simp +zetaDelta only [onlyEngine_mk_iff]

theorem State.setWin_engine {s0 s : State} (h : s0.OnlyEngine s) (w v : Nat) : s0.OnlyEngine (State.setWin s w v)
    := by
  unfold State.setWin
  with_reducible repeat' first
    | intro _ | assumption | apply putF_engine | apply ite_of | apply foldl_of | apply foldl_snd_of
    | apply foldl_fst_of | extract_lets | split | simp only [onlyEngine_mk_iff]
    | simp +zetaDelta only [onlyEngine_mk_iff]

theorem State.putTag_engine {s0 s : State} (h : s0.OnlyEngine s) (w g : Nat) (x : FpTag) : s0.OnlyEngine
    (State.putTag s w g x) := by
  unfold State.putTag
  with_reducible repeat' first
    | intro _ | assumption | apply putF_engine | apply ite_of | apply foldl_of | apply foldl_snd_of
    | apply foldl_fst_of | extract_lets | split | simp only [onlyEngine_mk_iff]
    | simp +zetaDelta only [onlyEngine_mk_iff]

theorem State.dropTags_engine {s0 s : State} (h : s0.OnlyEngine s) (w : Nat) : s0.OnlyEngine (State.dropTags s w)
    := by
  unfold State.dropTags
  with_reducible repeat' first
    | intro _ | assumption | apply countSat_engine | apply putF_engine | apply ite_of | apply foldl_of
    | apply foldl_snd_of | apply foldl_fst_of | extract_lets | split | simp only [onlyEngine_mk_iff]
    | simp +zetaDelta only [onlyEngine_mk_iff]

theorem State.closeWindow_engine {s0 s : State} (h : s0.OnlyEngine s) (w : Nat) : s0.OnlyEngine
    (State.closeWindow s w) := by
  unfold State.closeWindow
  with_reducible repeat' first
    | intro _ | assumption | apply dropTags_engine | apply setWin_engine | apply ite_of | apply foldl_of
    | apply foldl_snd_of | apply foldl_fst_of | extract_lets | split | simp only [onlyEngine_mk_iff]
    | simp +zetaDelta only [onlyEngine_mk_iff]

theorem State.closeWindows_engine {s0 s : State} (h : s0.OnlyEngine s) (p : Nat → Bool) : s0.OnlyEngine
    (State.closeWindows s p) := by
  unfold State.closeWindows
  with_reducible repeat' first
    | intro _ | assumption | apply each_engine | apply closeWindow_engine | apply ite_of | apply foldl_of
    | apply foldl_snd_of | apply foldl_fst_of | extract_lets | split | simp only [onlyEngine_mk_iff]
    | simp +zetaDelta only [onlyEngine_mk_iff]

theorem State.fpShow_engine {s0 s : State} (h : s0.OnlyEngine s) (p : Packet) : s0.OnlyEngine (State.fpShow s p)
    := by
  unfold State.fpShow
  with_reducible repeat' first
    | intro _ | assumption | apply ite_of | apply foldl_of | apply foldl_snd_of | apply foldl_fst_of
    | extract_lets | split | simp only [onlyEngine_mk_iff] | simp +zetaDelta only [onlyEngine_mk_iff]

theorem State.signalPair_engine {s0 s : State} (h : s0.OnlyEngine s) (w : Nat) : s0.OnlyEngine
    (State.signalPair s w) := by
  unfold State.signalPair
  with_reducible repeat' first
    | intro _ | assumption | apply claveSignal_engine | apply ite_of | apply foldl_of | apply foldl_snd_of
    | apply foldl_fst_of | extract_lets | split | simp only [onlyEngine_mk_iff]
    | simp +zetaDelta only [onlyEngine_mk_iff]

theorem State.tollDone_engine {s0 s : State} (h : s0.OnlyEngine s) (p : Packet) (code : Nat) : s0.OnlyEngine
    (State.tollDone s p code).2 := by
  unfold State.tollDone
  with_reducible repeat' first
    | intro _ | assumption | apply putTag_engine | apply count_engine | apply countSat_engine
    | apply signalPair_engine | apply raiseIrq_engine | apply ite_of | apply foldl_of | apply foldl_snd_of
    | apply foldl_fst_of | extract_lets | split | simp only [onlyEngine_mk_iff]
    | simp +zetaDelta only [onlyEngine_mk_iff]

theorem State.arrived_engine {s0 s : State} (h : s0.OnlyEngine s) (p : Packet) : s0.OnlyEngine (State.arrived s p)
    := by
  unfold State.arrived
  with_reducible repeat' first
    | intro _ | assumption | apply putTag_engine | apply ite_of | apply foldl_of | apply foldl_snd_of
    | apply foldl_fst_of | extract_lets | split | simp only [onlyEngine_mk_iff]
    | simp +zetaDelta only [onlyEngine_mk_iff]

theorem State.fpAnswer_engine {s0 s : State} (h : s0.OnlyEngine s) (p : Packet) (code : Nat) (lines : List LineRsp)
    : s0.OnlyEngine (State.fpAnswer s p code lines) := by
  unfold State.fpAnswer
  with_reducible repeat' first
    | intro _ | assumption | apply fpShow_engine | apply tollDone_engine | apply arrived_engine | apply ite_of
    | apply foldl_of | apply foldl_snd_of | apply foldl_fst_of | extract_lets | split
    | simp only [onlyEngine_mk_iff] | simp +zetaDelta only [onlyEngine_mk_iff]

theorem State.fpFinish_engine {s0 s : State} (h : s0.OnlyEngine s) (id : Nat) : s0.OnlyEngine (State.fpFinish s id)
    := by
  unfold State.fpFinish
  with_reducible repeat' first
    | intro _ | assumption | apply fpAnswer_engine | apply ite_of | apply foldl_of | apply foldl_snd_of
    | apply foldl_fst_of | extract_lets | split | simp only [onlyEngine_mk_iff]
    | simp +zetaDelta only [onlyEngine_mk_iff]

theorem State.takeLink_engine {s0 s : State} (h : s0.OnlyEngine s) (c o : Nat) (x : Flit) : s0.OnlyEngine
    (State.takeLink s c o x) := by
  unfold State.takeLink
  with_reducible repeat' first
    | intro _ | assumption | apply burst_engine | apply countOutput_engine | apply ite_of | apply foldl_of
    | apply foldl_snd_of | apply foldl_fst_of | extract_lets | split | simp only [onlyEngine_mk_iff]
    | simp +zetaDelta only [onlyEngine_mk_iff]

theorem State.breakLink_engine {s0 s : State} (h : s0.OnlyEngine s) (o : Nat) : s0.OnlyEngine (State.breakLink s o)
    := by
  unfold State.breakLink
  with_reducible repeat' first
    | intro _ | assumption | apply count_engine | apply ite_of | apply foldl_of | apply foldl_snd_of
    | apply foldl_fst_of | extract_lets | split | simp only [onlyEngine_mk_iff]
    | simp +zetaDelta only [onlyEngine_mk_iff]

theorem State.linkStep_engine {s0 s : State} (h : s0.OnlyEngine s) (c o : Nat) : s0.OnlyEngine
    (State.linkStep s c o) := by
  unfold State.linkStep
  with_reducible repeat' first
    | intro _ | assumption | apply takeLink_engine | apply burst_engine | apply breakLink_engine | apply ite_of
    | apply foldl_of | apply foldl_snd_of | apply foldl_fst_of | extract_lets | split
    | simp only [onlyEngine_mk_iff] | simp +zetaDelta only [onlyEngine_mk_iff]

theorem State.joinAck_engine {s0 s : State} (h : s0.OnlyEngine s) (a : AckMark) (p : Nat × Nat) (c : Nat) :
    s0.OnlyEngine (State.joinAck s a p c) := by
  unfold State.joinAck
  with_reducible repeat' first
    | intro _ | assumption | apply ite_of | apply foldl_of | apply foldl_snd_of | apply foldl_fst_of
    | extract_lets | split | simp only [onlyEngine_mk_iff] | simp +zetaDelta only [onlyEngine_mk_iff]

theorem State.sendAck_engine {s0 s : State} (h : s0.OnlyEngine s) (m : Merge) (c : Nat) : s0.OnlyEngine
    (State.sendAck s m c) := by
  unfold State.sendAck
  with_reducible repeat' first
    | intro _ | assumption | apply ite_of | apply foldl_of | apply foldl_snd_of | apply foldl_fst_of
    | extract_lets | split | simp only [onlyEngine_mk_iff] | simp +zetaDelta only [onlyEngine_mk_iff]

theorem State.ackStep_engine {s0 s : State} (h : s0.OnlyEngine s) (c : Nat) : s0.OnlyEngine (State.ackStep s c)
    := by
  unfold State.ackStep
  with_reducible repeat' first
    | intro _ | assumption | apply joinAck_engine | apply sendAck_engine | apply ite_of | apply foldl_of
    | apply foldl_snd_of | apply foldl_fst_of | extract_lets | split | simp only [onlyEngine_mk_iff]
    | simp +zetaDelta only [onlyEngine_mk_iff]

theorem State.meshStep_engine {s0 s : State} (h : s0.OnlyEngine s)  : s0.OnlyEngine (State.meshStep s) := by
  unfold State.meshStep
  with_reducible repeat' first
    | intro _ | assumption | apply linkStep_engine | apply ackStep_engine | apply ite_of | apply foldl_of
    | apply foldl_snd_of | apply foldl_fst_of | extract_lets | split | simp only [onlyEngine_mk_iff]
    | simp +zetaDelta only [onlyEngine_mk_iff]

theorem State.meshCatch_engine {s0 s : State} (h : s0.OnlyEngine s) (k : Nat) : s0.OnlyEngine (State.meshCatch s k)
    := by
  induction k generalizing s with
  | zero => unfold State.meshCatch; exact h
  | succ k ih =>
    unfold State.meshCatch
    with_reducible repeat' first
      | intro _ | assumption | apply meshStep_engine | apply ih | apply ite_of | apply foldl_of | apply foldl_snd_of
      | apply foldl_fst_of | extract_lets | split | simp only [onlyEngine_mk_iff]
      | simp +zetaDelta only [onlyEngine_mk_iff]

theorem State.meshNow_engine {s0 s : State} (h : s0.OnlyEngine s)  : s0.OnlyEngine (State.meshNow s) := by
  unfold State.meshNow
  with_reducible repeat' first
    | intro _ | assumption | apply meshCatch_engine | apply ite_of | apply foldl_of | apply foldl_snd_of
    | apply foldl_fst_of | extract_lets | split | simp only [onlyEngine_mk_iff]
    | simp +zetaDelta only [onlyEngine_mk_iff]

theorem State.meshRun_engine {s0 s : State} (h : s0.OnlyEngine s) (stop : Net → Option Nat) (k : Nat) {r : Nat × State}
    (e : s.meshRun stop k = some r) : s0.OnlyEngine r.2 := by
  induction k generalizing s with
  | zero => cases e
  | succ k ih =>
    unfold State.meshRun at e
    split at e
    · cases e; exact h
    · split at e
      · cases e
      · exact ih (State.meshStep_engine h) e

theorem State.meshEvent_some_engine {s0 s t : State} {stop : Net → Option Nat} (e : s.meshEvent stop = some t)
    (h : s0.OnlyEngine s) : s0.OnlyEngine t := by
  obtain ⟨r, hr, rfl⟩ := Option.map_eq_some_iff.1 e
  exact State.reach_engine (State.meshRun_engine h _ _ hr) _

theorem State.meshEvent_engine {s0 s : State} (h : s0.OnlyEngine s) (stop : Net → Option Nat) :
    s0.OnlyEngine ((s.meshEvent stop).getD s) := by
  cases e : s.meshEvent stop with
  | none => exact h
  | some t => exact State.meshEvent_some_engine e h

theorem State.launch_engine {s0 s : State} (h : s0.OnlyEngine s) (src : Nat) (dsts : List Nat) (response : Bool)
    (cls flits burst : Nat) (last : Bool) (at' gap : Nat) : s0.OnlyEngine
    (State.launch s src dsts response cls flits burst last at' gap).2 := by
  unfold State.launch
  with_reducible repeat' first
    | intro _ | assumption | apply ite_of | apply foldl_of | apply foldl_snd_of | apply foldl_fst_of
    | extract_lets | split | simp only [onlyEngine_mk_iff] | simp +zetaDelta only [onlyEngine_mk_iff]

theorem State.portProgress_engine {s0 s : State} (h : s0.OnlyEngine s) (c code : Nat) : s0.OnlyEngine
    (State.portProgress s c code) := by
  unfold State.portProgress
  with_reducible repeat' first
    | intro _ | assumption | apply count_engine | apply ite_of | apply foldl_of | apply foldl_snd_of
    | apply foldl_fst_of | extract_lets | split | simp only [onlyEngine_mk_iff]
    | simp +zetaDelta only [onlyEngine_mk_iff]

theorem State.lateResponse_engine {s0 s : State} (h : s0.OnlyEngine s)  : s0.OnlyEngine (State.lateResponse s) := by
  unfold State.lateResponse
  with_reducible repeat' first
    | intro _ | assumption | apply count_engine | apply ite_of | apply foldl_of | apply foldl_snd_of
    | apply foldl_fst_of | extract_lets | split | simp only [onlyEngine_mk_iff]
    | simp +zetaDelta only [onlyEngine_mk_iff]

theorem State.sendRsp_engine {s0 s : State} (h : s0.OnlyEngine s) (src dst sent flits burst : Nat) (last : Bool) (r
    : Resp) : s0.OnlyEngine (State.sendRsp s src dst sent flits burst last r) := by
  unfold State.sendRsp
  with_reducible repeat' first
    | intro _ | assumption | apply launch_engine | apply ite_of | apply foldl_of | apply foldl_snd_of
    | apply foldl_fst_of | extract_lets | split | simp only [onlyEngine_mk_iff]
    | simp +zetaDelta only [onlyEngine_mk_iff]

theorem State.sendPktAt_engine {s0 s : State} (h : s0.OnlyEngine s) (src : Nat) (q : Req) (at' gap : Nat) :
    s0.OnlyEngine (State.sendPktAt s src q at' gap) := by
  unfold State.sendPktAt
  with_reducible repeat' first
    | intro _ | assumption | apply launch_engine | apply burst_engine | apply ite_of | apply foldl_of
    | apply foldl_snd_of | apply foldl_fst_of | extract_lets | split | simp only [onlyEngine_mk_iff]
    | simp +zetaDelta only [onlyEngine_mk_iff]

theorem State.launchOut_engine {s0 s : State} (h : s0.OnlyEngine s) (sl cls flits : Nat) : s0.OnlyEngine
    (State.launchOut s sl cls flits) := by
  unfold State.launchOut
  with_reducible repeat' first
    | intro _ | assumption | apply launch_engine | apply ite_of | apply foldl_of | apply foldl_snd_of
    | apply foldl_fst_of | extract_lets | split | simp only [onlyEngine_mk_iff]
    | simp +zetaDelta only [onlyEngine_mk_iff]

theorem State.sendPkt_engine {s0 s : State} (h : s0.OnlyEngine s) (src : Nat) (q : Req) : s0.OnlyEngine
    (State.sendPkt s src q) := by
  unfold State.sendPkt
  with_reducible repeat' first
    | intro _ | assumption | apply sendPktAt_engine | apply ite_of | apply foldl_of | apply foldl_snd_of
    | apply foldl_fst_of | extract_lets | split | simp only [onlyEngine_mk_iff]
    | simp +zetaDelta only [onlyEngine_mk_iff]

theorem State.sendParts_engine {s0 s : State} (h : s0.OnlyEngine s) (rs : List Req) : s0.OnlyEngine
    (State.sendParts s rs) := by
  unfold State.sendParts
  with_reducible repeat' first
    | intro _ | assumption | apply sendPktAt_engine | apply ite_of | apply foldl_of | apply foldl_snd_of
    | apply foldl_fst_of | extract_lets | split | simp only [onlyEngine_mk_iff]
    | simp +zetaDelta only [onlyEngine_mk_iff]

theorem State.setSlotState_engine {s0 s : State} (h : s0.OnlyEngine s) (sl j v : Nat) : s0.OnlyEngine
    (State.setSlotState s sl j v) := by
  unfold State.setSlotState
  with_reducible repeat' first
    | intro _ | assumption | apply putF_engine | apply raiseIrq_engine | apply putB_engine | apply ite_of
    | apply foldl_of | apply foldl_snd_of | apply foldl_fst_of | extract_lets | split
    | simp only [onlyEngine_mk_iff] | simp +zetaDelta only [onlyEngine_mk_iff]

theorem State.setDone_engine {s0 s : State} (h : s0.OnlyEngine s) (sl j : Nat) : s0.OnlyEngine
    (State.setDone s sl j) := by
  unfold State.setDone
  with_reducible repeat' first
    | intro _ | assumption | apply putB_engine | apply raiseIrq_engine | apply ite_of | apply foldl_of
    | apply foldl_snd_of | apply foldl_fst_of | extract_lets | split | simp only [onlyEngine_mk_iff]
    | simp +zetaDelta only [onlyEngine_mk_iff]

theorem State.emptyVectors_engine {s0 s : State} (h : s0.OnlyEngine s) (sl c : Nat) (keep : List Nat) :
    s0.OnlyEngine (State.emptyVectors s sl c keep) := by
  unfold State.emptyVectors
  with_reducible repeat' first
    | intro _ | assumption | apply each_engine | apply emptyVec_engine | apply ite_of | apply foldl_of
    | apply foldl_snd_of | apply foldl_fst_of | extract_lets | split | simp only [onlyEngine_mk_iff]
    | simp +zetaDelta only [onlyEngine_mk_iff]

theorem State.boundaryIn_engine {s0 s : State} (h : s0.OnlyEngine s) (sl c : Nat) : s0.OnlyEngine
    (State.boundaryIn s sl c) := by
  unfold State.boundaryIn
  with_reducible repeat' first
    | intro _ | assumption | apply each_engine | apply modSlot_engine | apply modSlice_engine
    | apply emptyVectors_engine | apply ite_of | apply foldl_of | apply foldl_snd_of | apply foldl_fst_of
    | extract_lets | split | simp only [onlyEngine_mk_iff] | simp +zetaDelta only [onlyEngine_mk_iff]

theorem State.setSlicePower_engine {s0 s : State} (h : s0.OnlyEngine s) (sl v : Nat) : s0.OnlyEngine
    (State.setSlicePower s sl v) := by
  unfold State.setSlicePower
  with_reducible repeat' first
    | intro _ | assumption | apply putF_engine | apply ite_of | apply foldl_of | apply foldl_snd_of
    | apply foldl_fst_of | extract_lets | split | simp only [onlyEngine_mk_iff]
    | simp +zetaDelta only [onlyEngine_mk_iff]

theorem State.setPower_engine {s0 s : State} (h : s0.OnlyEngine s) (t : PowerTarget) (v : Nat) : s0.OnlyEngine
    (State.setPower s t v) := by
  unfold State.setPower
  with_reducible repeat' first
    | intro _ | assumption | apply setSlicePower_engine | apply putF_engine | apply ite_of | apply foldl_of
    | apply foldl_snd_of | apply foldl_fst_of | extract_lets | split | simp only [onlyEngine_mk_iff]
    | simp +zetaDelta only [onlyEngine_mk_iff]

theorem State.refuseWrite_engine {s0 s : State} (h : s0.OnlyEngine s) (a : Nat) (v : Word) (ctx : Nat) :
    s0.OnlyEngine (State.refuseWrite s a v ctx) := by
  unfold State.refuseWrite
  with_reducible repeat' first
    | intro _ | assumption | apply refuseCfg_engine | apply ite_of | apply foldl_of | apply foldl_snd_of
    | apply foldl_fst_of | extract_lets | split | simp only [onlyEngine_mk_iff]
    | simp +zetaDelta only [onlyEngine_mk_iff]

theorem State.setPc_engine {s0 s : State} (h : s0.OnlyEngine s) (sl j v : Nat) : s0.OnlyEngine
    (State.setPc s sl j v) := by
  unfold State.setPc
  with_reducible repeat' first
    | intro _ | assumption | apply putF_engine | apply ite_of | apply foldl_of | apply foldl_snd_of
    | apply foldl_fst_of | extract_lets | split | simp only [onlyEngine_mk_iff]
    | simp +zetaDelta only [onlyEngine_mk_iff]

theorem State.nextPc_engine {s0 s : State} (h : s0.OnlyEngine s) (sl j : Nat) : s0.OnlyEngine (State.nextPc s sl j)
    := by
  unfold State.nextPc
  with_reducible repeat' first
    | intro _ | assumption | apply setPc_engine | apply ite_of | apply foldl_of | apply foldl_snd_of
    | apply foldl_fst_of | extract_lets | split | simp only [onlyEngine_mk_iff]
    | simp +zetaDelta only [onlyEngine_mk_iff]

theorem State.satisfied_engine {s0 s : State} (h : s0.OnlyEngine s) (sl j : Nat) : s0.OnlyEngine
    (State.satisfied s sl j) := by
  unfold State.satisfied
  with_reducible repeat' first
    | intro _ | assumption | apply modSlot_engine | apply nextPc_engine | apply ite_of | apply foldl_of
    | apply foldl_snd_of | apply foldl_fst_of | extract_lets | split | simp only [onlyEngine_mk_iff]
    | simp +zetaDelta only [onlyEngine_mk_iff]

theorem State.leadAgain_engine {s0 s : State} (h : s0.OnlyEngine s) (sl j : Nat) : s0.OnlyEngine
    (State.leadAgain s sl j) := by
  unfold State.leadAgain
  with_reducible repeat' first
    | intro _ | assumption | apply modSlice_engine | apply ite_of | apply foldl_of | apply foldl_snd_of
    | apply foldl_fst_of | extract_lets | split | simp only [onlyEngine_mk_iff]
    | simp +zetaDelta only [onlyEngine_mk_iff]

theorem State.beatHeld_engine {s0 s : State} (h : s0.OnlyEngine s) (sl j : Nat) : s0.OnlyEngine
    (State.beatHeld s sl j) := by
  unfold State.beatHeld
  with_reducible repeat' first
    | intro _ | assumption | apply satisfied_engine | apply leadAgain_engine | apply ite_of | apply foldl_of
    | apply foldl_snd_of | apply foldl_fst_of | extract_lets | split | simp only [onlyEngine_mk_iff]
    | simp +zetaDelta only [onlyEngine_mk_iff]

theorem State.waitTakes_engine {s0 s : State} (h : s0.OnlyEngine s) (sl j pair : Nat) (room : Bool) : s0.OnlyEngine
    (State.waitTakes s sl j pair room) := by
  unfold State.waitTakes
  with_reducible repeat' first
    | intro _ | assumption | apply claveTake_engine | apply satisfied_engine | apply leadAgain_engine
    | apply ite_of | apply foldl_of | apply foldl_snd_of | apply foldl_fst_of | extract_lets | split
    | simp only [onlyEngine_mk_iff] | simp +zetaDelta only [onlyEngine_mk_iff]

theorem State.startNow_engine {s0 s : State} (h : s0.OnlyEngine s) (sl j : Nat) : s0.OnlyEngine
    (State.startNow s sl j) := by
  unfold State.startNow
  with_reducible repeat' first
    | intro _ | assumption | apply claveTake_engine | apply putF_engine | apply setSlotState_engine
    | apply modSlot_engine | apply ite_of | apply foldl_of | apply foldl_snd_of | apply foldl_fst_of
    | extract_lets | split | simp only [onlyEngine_mk_iff] | simp +zetaDelta only [onlyEngine_mk_iff]

theorem State.claveStarts_engine {s0 s : State} (h : s0.OnlyEngine s) (sl j pair : Nat) : s0.OnlyEngine
    (State.claveStarts s sl j pair) := by
  unfold State.claveStarts
  with_reducible repeat' first
    | intro _ | assumption | apply startNow_engine | apply ite_of | apply foldl_of | apply foldl_snd_of
    | apply foldl_fst_of | extract_lets | split | simp only [onlyEngine_mk_iff]
    | simp +zetaDelta only [onlyEngine_mk_iff]

theorem State.waitsTake_engine {s0 s : State} (h : s0.OnlyEngine s) (sl pair : Nat) (room : Bool) (slots : Nat) :
    s0.OnlyEngine (State.waitsTake s sl pair room slots) := by
  unfold State.waitsTake
  with_reducible repeat' first
    | intro _ | assumption | apply claveTime_engine | apply waitTakes_engine | apply each_engine | apply ite_of
    | apply foldl_of | apply foldl_snd_of | apply foldl_fst_of | extract_lets | split
    | simp only [onlyEngine_mk_iff] | simp +zetaDelta only [onlyEngine_mk_iff]

theorem State.blockingTakes_engine {s0 s : State} (h : s0.OnlyEngine s) (sl pair : Nat) (room : Bool) :
    s0.OnlyEngine (State.blockingTakes s sl pair room) := by
  unfold State.blockingTakes
  with_reducible repeat' first
    | intro _ | assumption | apply waitsTake_engine | apply each_engine | apply claveStarts_engine | apply ite_of
    | apply foldl_of | apply foldl_snd_of | apply foldl_fst_of | extract_lets | split
    | simp only [onlyEngine_mk_iff] | simp +zetaDelta only [onlyEngine_mk_iff]

theorem State.performClave_engine {s0 s : State} (h : s0.OnlyEngine s) (sl ctx : Nat) (o : ClaveOp) : s0.OnlyEngine
    (State.performClave s sl ctx o).2.2 := by
  unfold State.performClave
  with_reducible repeat' first
    | intro _ | assumption | apply claveSignal_engine | apply blockingTakes_engine | apply claveTake_engine
    | apply ite_of | apply foldl_of | apply foldl_snd_of | apply foldl_fst_of | extract_lets | split
    | simp only [onlyEngine_mk_iff] | simp +zetaDelta only [onlyEngine_mk_iff]

theorem State.beginPeal_engine {s0 s : State} (h : s0.OnlyEngine s) (mem : Bool) (off : Nat) (data : Line) (ben
    : ByteEn) (ctx cls : Nat) (tag mirror : Option Nat) : s0.OnlyEngine
    (State.beginPeal s mem off data ben ctx cls tag mirror) := by
  unfold State.beginPeal
  with_reducible repeat' first
    | intro _ | assumption | apply launch_engine | apply ite_of | apply foldl_of | apply foldl_snd_of
    | apply foldl_fst_of | extract_lets | split | simp only [onlyEngine_mk_iff]
    | simp +zetaDelta only [onlyEngine_mk_iff]

theorem State.ctxPauses_engine {s0 s : State} (h : s0.OnlyEngine s) (c : Nat) : s0.OnlyEngine (State.ctxPauses s c)
    := by
  unfold State.ctxPauses
  with_reducible repeat' first
    | intro _ | assumption | apply each_engine | apply setSlotState_engine | apply ite_of | apply foldl_of
    | apply foldl_snd_of | apply foldl_fst_of | extract_lets | split | simp only [onlyEngine_mk_iff]
    | simp +zetaDelta only [onlyEngine_mk_iff]

theorem State.ctxContinues_engine {s0 s : State} (h : s0.OnlyEngine s) (c : Nat) : s0.OnlyEngine
    (State.ctxContinues s c) := by
  unfold State.ctxContinues
  with_reducible repeat' first
    | intro _ | assumption | apply each_engine | apply setSlotState_engine | apply beatHeld_engine | apply ite_of
    | apply foldl_of | apply foldl_snd_of | apply foldl_fst_of | extract_lets | split
    | simp only [onlyEngine_mk_iff] | simp +zetaDelta only [onlyEngine_mk_iff]

theorem State.stepAdvance_engine {s0 s : State} (hs : s0.OnlyEngine s) (sl h : Nat) (write : Bool) (offs : List Nat)
    : s0.OnlyEngine (State.stepAdvance s sl h write offs) := by
  unfold State.stepAdvance
  with_reducible repeat' first
    | intro _ | assumption | apply guardAdvance_engine | apply ite_of | apply foldl_of | apply foldl_snd_of
    | apply foldl_fst_of | extract_lets | split | simp only [onlyEngine_mk_iff]
    | simp +zetaDelta only [onlyEngine_mk_iff]

theorem State.clearGroup_engine {s0 s : State} (h : s0.OnlyEngine s) (sl j no c : Nat) (g : WipeGroup) :
    s0.OnlyEngine (State.clearGroup s sl j no c g) := by
  unfold State.clearGroup
  with_reducible repeat' first
    | intro _ | assumption | apply wipeLine_engine | apply stepAdvance_engine | apply modSlice_engine
    | apply modSlot_engine | apply ite_of | apply foldl_of | apply foldl_snd_of | apply foldl_fst_of
    | extract_lets | split | simp only [onlyEngine_mk_iff] | simp +zetaDelta only [onlyEngine_mk_iff]

theorem State.wipeGroups_engine {s0 s : State} (h : s0.OnlyEngine s) (sl j no : Nat) (l : List WipeGroup) :
    s0.OnlyEngine (State.wipeGroups s sl j no l) := by
  unfold State.wipeGroups
  with_reducible repeat' first
    | intro _ | assumption | apply modSlice_engine | apply clearGroup_engine | apply ite_of | apply foldl_of
    | apply foldl_snd_of | apply foldl_fst_of | extract_lets | split | simp only [onlyEngine_mk_iff]
    | simp +zetaDelta only [onlyEngine_mk_iff]

theorem State.wipeNow_engine {s0 s : State} (h : s0.OnlyEngine s) (sl : Nat) : s0.OnlyEngine (State.wipeNow s sl)
    := by
  unfold State.wipeNow
  with_reducible repeat' first
    | intro _ | assumption | apply each_engine | apply wipeGroups_engine | apply ite_of | apply foldl_of
    | apply foldl_snd_of | apply foldl_fst_of | extract_lets | split | simp only [onlyEngine_mk_iff]
    | simp +zetaDelta only [onlyEngine_mk_iff]

theorem State.consumeSlot_engine {s0 s : State} (h : s0.OnlyEngine s) (sl bset o c : Nat) : s0.OnlyEngine
    (State.consumeSlot s sl bset o c) := by
  unfold State.consumeSlot
  with_reducible repeat' first
    | intro _ | assumption | apply modSlice_engine | apply ite_of | apply foldl_of | apply foldl_snd_of
    | apply foldl_fst_of | extract_lets | split | simp only [onlyEngine_mk_iff]
    | simp +zetaDelta only [onlyEngine_mk_iff]

theorem State.markBad_engine {s0 s : State} (h : s0.OnlyEngine s) (sl b l : Nat) : s0.OnlyEngine
    (State.markBad s sl b l) := by
  unfold State.markBad
  with_reducible repeat' first
    | intro _ | assumption | apply wr_engine | apply countSat_engine | apply ite_of | apply foldl_of
    | apply foldl_snd_of | apply foldl_fst_of | extract_lets | split | simp only [onlyEngine_mk_iff]
    | simp +zetaDelta only [onlyEngine_mk_iff]

theorem State.drainWb_engine {s0 s : State} (h : s0.OnlyEngine s) (sl b : Nat) : s0.OnlyEngine
    (State.drainWb s sl b) := by
  unfold State.drainWb
  with_reducible repeat' first
    | intro _ | assumption | apply writeCoded_engine | apply ite_of | apply foldl_of | apply foldl_snd_of
    | apply foldl_fst_of | extract_lets | split | simp only [onlyEngine_mk_iff]
    | simp +zetaDelta only [onlyEngine_mk_iff]

theorem State.moveRow_engine {s0 s : State} (h : s0.OnlyEngine s) (sl b mac row n : Nat) : s0.OnlyEngine
    (State.moveRow s sl b mac row n) := by
  unfold State.moveRow
  with_reducible repeat' first
    | intro _ | assumption | apply ite_of | apply foldl_of | apply foldl_snd_of | apply foldl_fst_of
    | extract_lets | split | simp only [onlyEngine_mk_iff] | simp +zetaDelta only [onlyEngine_mk_iff]

theorem State.testRead_engine {s0 s : State} (h : s0.OnlyEngine s) (sl b row : Nat) : s0.OnlyEngine
    (State.testRead s sl b row) := by
  unfold State.testRead
  with_reducible repeat' first
    | intro _ | assumption | apply count_engine | apply noteWord_engine | apply sliceRec_engine
    | apply modBank_engine | apply ite_of | apply foldl_of | apply foldl_snd_of | apply foldl_fst_of
    | extract_lets | split | simp only [onlyEngine_mk_iff] | simp +zetaDelta only [onlyEngine_mk_iff]

theorem State.passLasting_engine {s0 s : State} (h : s0.OnlyEngine s) (sl b row : Nat) (lasting : Bool) :
    s0.OnlyEngine (State.passLasting s sl b row lasting) := by
  unfold State.passLasting
  with_reducible repeat' first
    | intro _ | assumption | apply modSlice_engine | apply ite_of | apply foldl_of | apply foldl_snd_of
    | apply foldl_fst_of | extract_lets | split | simp only [onlyEngine_mk_iff]
    | simp +zetaDelta only [onlyEngine_mk_iff]

theorem State.testFlip_engine {s0 s : State} (h : s0.OnlyEngine s) (sl b : Nat) (t : RowTest) : s0.OnlyEngine
    (State.testFlip s sl b t) := by
  unfold State.testFlip
  with_reducible repeat' first
    | intro _ | assumption | apply each_engine | apply putArrayWord_engine | apply modBank_engine | apply ite_of
    | apply foldl_of | apply foldl_snd_of | apply foldl_fst_of | extract_lets | split
    | simp only [onlyEngine_mk_iff] | simp +zetaDelta only [onlyEngine_mk_iff]

theorem State.testWrite_engine {s0 s : State} (h : s0.OnlyEngine s) (sl b : Nat) (t : RowTest) : s0.OnlyEngine
    (State.testWrite s sl b t) := by
  unfold State.testWrite
  with_reducible repeat' first
    | intro _ | assumption | apply modBank_engine | apply each_engine | apply putArrayWord_engine
    | apply modSlice_engine | apply ite_of | apply foldl_of | apply foldl_snd_of | apply foldl_fst_of
    | extract_lets | split | simp only [onlyEngine_mk_iff] | simp +zetaDelta only [onlyEngine_mk_iff]

theorem State.refreshRow_engine {s0 s : State} (h : s0.OnlyEngine s) (sl b row src : Nat) : s0.OnlyEngine
    (State.refreshRow s sl b row src) := by
  unfold State.refreshRow
  with_reducible repeat' first
    | intro _ | assumption | apply each_engine | apply noteWord_engine | apply putArrayWord_engine
    | apply queueTest_engine | apply ite_of | apply foldl_of | apply foldl_snd_of | apply foldl_fst_of
    | extract_lets | split | simp only [onlyEngine_mk_iff] | simp +zetaDelta only [onlyEngine_mk_iff]

theorem State.voteRow_engine {s0 s : State} (h : s0.OnlyEngine s) (sl b row : Nat) : s0.OnlyEngine
    (State.voteRow s sl b row) := by
  unfold State.voteRow
  with_reducible repeat' first
    | intro _ | assumption | apply each_engine | apply putW_engine | apply count_engine | apply ite_of
    | apply foldl_of | apply foldl_snd_of | apply foldl_fst_of | extract_lets | split
    | simp only [onlyEngine_mk_iff] | simp +zetaDelta only [onlyEngine_mk_iff]

theorem State.primary_engine {s0 s : State} (h : s0.OnlyEngine s) (sl b : Nat) : s0.OnlyEngine
    (State.primary s sl b).2 := by
  unfold State.primary
  with_reducible repeat' first
    | intro _ | assumption | apply refreshRow_engine | apply modBank_engine | apply ite_of | apply foldl_of
    | apply foldl_snd_of | apply foldl_fst_of | extract_lets | split | simp only [onlyEngine_mk_iff]
    | simp +zetaDelta only [onlyEngine_mk_iff]

theorem State.historyExpire_engine {s0 s : State} (h : s0.OnlyEngine s) (sl b : Nat) : s0.OnlyEngine
    (State.historyExpire s sl b) := by
  unfold State.historyExpire
  with_reducible repeat' first
    | intro _ | assumption | apply reach_engine | apply setBank_engine | apply ite_of | apply foldl_of
    | apply foldl_snd_of | apply foldl_fst_of | extract_lets | split | simp only [onlyEngine_mk_iff]
    | simp +zetaDelta only [onlyEngine_mk_iff]

theorem State.drainAge_engine {s0 s : State} (h : s0.OnlyEngine s) (sl b : Nat) : s0.OnlyEngine
    (State.drainAge s sl b) := by
  unfold State.drainAge
  with_reducible repeat' first
    | intro _ | assumption | apply drainLine_engine | apply reach_engine | apply ite_of | apply foldl_of
    | apply foldl_snd_of | apply foldl_fst_of | extract_lets | split | simp only [onlyEngine_mk_iff]
    | simp +zetaDelta only [onlyEngine_mk_iff]

theorem State.addAcc_engine {s0 s : State} (h : s0.OnlyEngine s) (sl j : Nat) (a : SeAcc) : s0.OnlyEngine
    (State.addAcc s sl j a) := by
  unfold State.addAcc
  with_reducible repeat' first
    | intro _ | assumption | apply modSlot_engine | apply ite_of | apply foldl_of | apply foldl_snd_of
    | apply foldl_fst_of | extract_lets | split | simp only [onlyEngine_mk_iff]
    | simp +zetaDelta only [onlyEngine_mk_iff]

theorem State.putInst_engine {s0 s : State} (h : s0.OnlyEngine s) (sl j : Nat) (i : Inst) : s0.OnlyEngine
    (State.putInst s sl j i) := by
  unfold State.putInst
  with_reducible repeat' first
    | intro _ | assumption | apply modSlot_engine | apply ite_of | apply foldl_of | apply foldl_snd_of
    | apply foldl_fst_of | extract_lets | split | simp only [onlyEngine_mk_iff]
    | simp +zetaDelta only [onlyEngine_mk_iff]

theorem State.modInst_engine {s0 s : State} (h : s0.OnlyEngine s) (sl j no : Nat) (f : Inst → Inst) : s0.OnlyEngine
    (State.modInst s sl j no f) := by
  unfold State.modInst
  with_reducible repeat' first
    | intro _ | assumption | apply modSlot_engine | apply ite_of | apply foldl_of | apply foldl_snd_of
    | apply foldl_fst_of | extract_lets | split | simp only [onlyEngine_mk_iff]
    | simp +zetaDelta only [onlyEngine_mk_iff]

theorem State.setHalt_engine {s0 s : State} (hs : s0.OnlyEngine s) (sl j : Nat) (h : HaltAt) (from' : Nat := 0) :
    s0.OnlyEngine (State.setHalt s sl j h from') := by
  unfold State.setHalt
  with_reducible repeat' first
    | intro _ | assumption | apply modSlot_engine | apply ite_of | apply foldl_of | apply foldl_snd_of
    | apply foldl_fst_of | extract_lets | split | simp only [onlyEngine_mk_iff]
    | simp +zetaDelta only [onlyEngine_mk_iff]

theorem State.haltAtPc_engine {s0 s : State} (h : s0.OnlyEngine s) (sl j code : Nat) : s0.OnlyEngine
    (State.haltAtPc s sl j code) := by
  unfold State.haltAtPc
  with_reducible repeat' first
    | intro _ | assumption | apply setHalt_engine | apply ite_of | apply foldl_of | apply foldl_snd_of
    | apply foldl_fst_of | extract_lets | split | simp only [onlyEngine_mk_iff]
    | simp +zetaDelta only [onlyEngine_mk_iff]

theorem State.slotRec_engine {s0 s : State} (h : s0.OnlyEngine s) (sl j code : Nat) (detail : Word) : s0.OnlyEngine
    (State.slotRec s sl j code detail) := by
  unfold State.slotRec
  with_reducible repeat' first
    | intro _ | assumption | apply sliceRec_engine | apply ite_of | apply foldl_of | apply foldl_snd_of
    | apply foldl_fst_of | extract_lets | split | simp only [onlyEngine_mk_iff]
    | simp +zetaDelta only [onlyEngine_mk_iff]

theorem State.restoreAccs_engine {s0 s : State} (h : s0.OnlyEngine s) (sl : Nat) : s0.OnlyEngine
    (State.restoreAccs s sl) := by
  unfold State.restoreAccs
  with_reducible repeat' first
    | intro _ | assumption | apply each_engine | apply modBank_engine | apply ite_of | apply foldl_of
    | apply foldl_snd_of | apply foldl_fst_of | extract_lets | split | simp only [onlyEngine_mk_iff]
    | simp +zetaDelta only [onlyEngine_mk_iff]

theorem State.freeAccs_engine {s0 s : State} (h : s0.OnlyEngine s) (sl : Nat) : s0.OnlyEngine (State.freeAccs s sl)
    := by
  unfold State.freeAccs
  with_reducible repeat' first
    | intro _ | assumption | apply each_engine | apply modBank_engine | apply wr_engine | apply ite_of
    | apply foldl_of | apply foldl_snd_of | apply foldl_fst_of | extract_lets | split
    | simp only [onlyEngine_mk_iff] | simp +zetaDelta only [onlyEngine_mk_iff]

theorem State.releaseAccs_engine {s0 s : State} (h : s0.OnlyEngine s) (sl j : Nat) : s0.OnlyEngine
    (State.releaseAccs s sl j) := by
  unfold State.releaseAccs
  with_reducible repeat' first
    | intro _ | assumption | apply freeAccs_engine | apply ite_of | apply foldl_of | apply foldl_snd_of
    | apply foldl_fst_of | extract_lets | split | simp only [onlyEngine_mk_iff]
    | simp +zetaDelta only [onlyEngine_mk_iff]

theorem State.endXfers_engine {s0 s : State} (h : s0.OnlyEngine s) (p : Xfer → Bool) : s0.OnlyEngine
    (State.endXfers s p) := by
  unfold State.endXfers
  with_reducible repeat' first
    | intro _ | assumption | apply ite_of | apply foldl_of | apply foldl_snd_of | apply foldl_fst_of
    | extract_lets | split | simp only [onlyEngine_mk_iff] | simp +zetaDelta only [onlyEngine_mk_iff]

theorem State.dropXfers_engine {s0 s : State} (h : s0.OnlyEngine s) (sl j : Nat) : s0.OnlyEngine
    (State.dropXfers s sl j) := by
  unfold State.dropXfers
  with_reducible repeat' first
    | intro _ | assumption | apply endXfers_engine | apply ite_of | apply foldl_of | apply foldl_snd_of
    | apply foldl_fst_of | extract_lets | split | simp only [onlyEngine_mk_iff]
    | simp +zetaDelta only [onlyEngine_mk_iff]

theorem State.dropScrub_engine {s0 s : State} (h : s0.OnlyEngine s) (sl j : Nat) : s0.OnlyEngine
    (State.dropScrub s sl j) := by
  unfold State.dropScrub
  with_reducible repeat' first
    | intro _ | assumption | apply modSlice_engine | apply putB_engine | apply ite_of | apply foldl_of
    | apply foldl_snd_of | apply foldl_fst_of | extract_lets | split | simp only [onlyEngine_mk_iff]
    | simp +zetaDelta only [onlyEngine_mk_iff]

theorem State.dropHeldOut_engine {s0 s : State} (h : s0.OnlyEngine s) (sl j : Nat) : s0.OnlyEngine
    (State.dropHeldOut s sl j) := by
  unfold State.dropHeldOut
  with_reducible repeat' first
    | intro _ | assumption | apply ite_of | apply foldl_of | apply foldl_snd_of | apply foldl_fst_of
    | extract_lets | split | simp only [onlyEngine_mk_iff] | simp +zetaDelta only [onlyEngine_mk_iff]

theorem State.parkOut_engine {s0 s : State} (h : s0.OnlyEngine s) (sl j : Nat) : s0.OnlyEngine
    (State.parkOut s sl j) := by
  unfold State.parkOut
  with_reducible repeat' first
    | intro _ | assumption | apply ite_of | apply foldl_of | apply foldl_snd_of | apply foldl_fst_of
    | extract_lets | split | simp only [onlyEngine_mk_iff] | simp +zetaDelta only [onlyEngine_mk_iff]

theorem State.enterFault_engine {s0 s : State} (hs : s0.OnlyEngine s) (sl j : Nat) (h : HaltAt) : s0.OnlyEngine
    (State.enterFault s sl j h) := by
  unfold State.enterFault
  with_reducible repeat' first
    | intro _ | assumption | apply modSlot_engine | apply restoreAccs_engine | apply dropXfers_engine
    | apply count_engine | apply setPc_engine | apply putF_engine | apply wr_engine | apply setSlotState_engine
    | apply dropScrub_engine | apply parkOut_engine | apply sliceRec_engine | apply ite_of | apply foldl_of
    | apply foldl_snd_of | apply foldl_fst_of | extract_lets | split | simp only [onlyEngine_mk_iff]
    | simp +zetaDelta only [onlyEngine_mk_iff]

theorem State.settleHalt_engine {s0 s : State} (h : s0.OnlyEngine s) (sl j : Nat) : s0.OnlyEngine
    (State.settleHalt s sl j) := by
  unfold State.settleHalt
  with_reducible repeat' first
    | intro _ | assumption | apply enterFault_engine | apply ite_of | apply foldl_of | apply foldl_snd_of
    | apply foldl_fst_of | extract_lets | split | simp only [onlyEngine_mk_iff]
    | simp +zetaDelta only [onlyEngine_mk_iff]

theorem State.stall_engine {s0 s : State} (h : s0.OnlyEngine s) (sl o : Nat) : s0.OnlyEngine (State.stall s sl o)
    := by
  unfold State.stall
  with_reducible repeat' first
    | intro _ | assumption | apply count_engine | apply modSlice_engine | apply ite_of | apply foldl_of
    | apply foldl_snd_of | apply foldl_fst_of | extract_lets | split | simp only [onlyEngine_mk_iff]
    | simp +zetaDelta only [onlyEngine_mk_iff]

theorem State.losers_engine {s0 s : State} (h : s0.OnlyEngine s) (sl bset won : Nat) (x : Others) : s0.OnlyEngine
    (State.losers s sl bset won x) := by
  unfold State.losers
  with_reducible repeat' first
    | intro _ | assumption | apply stall_engine | apply ite_of | apply foldl_of | apply foldl_snd_of
    | apply foldl_fst_of | extract_lets | split | simp only [onlyEngine_mk_iff]
    | simp +zetaDelta only [onlyEngine_mk_iff]

theorem State.countSlot_engine {s0 s : State} (h : s0.OnlyEngine s) (sl o k : Nat) : s0.OnlyEngine
    (State.countSlot s sl o k) := by
  unfold State.countSlot
  with_reducible repeat' first
    | intro _ | assumption | apply modSlice_engine | apply ite_of | apply foldl_of | apply foldl_snd_of
    | apply foldl_fst_of | extract_lets | split | simp only [onlyEngine_mk_iff]
    | simp +zetaDelta only [onlyEngine_mk_iff]

theorem State.takeLane_engine {s0 s : State} (h : s0.OnlyEngine s) (sl bset : Nat) : s0.OnlyEngine
    (State.takeLane s sl bset) := by
  unfold State.takeLane
  with_reducible repeat' first
    | intro _ | assumption | apply wipeNow_engine | apply modSlice_engine | apply ite_of | apply foldl_of
    | apply foldl_snd_of | apply foldl_fst_of | extract_lets | split | simp only [onlyEngine_mk_iff]
    | simp +zetaDelta only [onlyEngine_mk_iff]

theorem State.stepLfsr_engine {s0 s : State} (h : s0.OnlyEngine s) (sl b rnd : Nat) : s0.OnlyEngine
    (State.stepLfsr s sl b rnd) := by
  unfold State.stepLfsr
  with_reducible repeat' first
    | intro _ | assumption | apply putF_engine | apply modSlice_engine | apply ite_of | apply foldl_of
    | apply foldl_snd_of | apply foldl_fst_of | extract_lets | split | simp only [onlyEngine_mk_iff]
    | simp +zetaDelta only [onlyEngine_mk_iff]

theorem State.tally_engine {s0 s : State} (h : s0.OnlyEngine s) (sl : Nat) (t : Tally) : s0.OnlyEngine
    (State.tally s sl t) := by
  unfold State.tally
  with_reducible repeat' first
    | intro _ | assumption | apply count_engine | apply ite_of | apply foldl_of | apply foldl_snd_of
    | apply foldl_fst_of | extract_lets | split | simp only [onlyEngine_mk_iff]
    | simp +zetaDelta only [onlyEngine_mk_iff]

theorem State.storeAccum_engine {s0 s : State} (h : s0.OnlyEngine s) (sl b : Nat) (a : Accum) : s0.OnlyEngine
    (State.storeAccum s sl b a).2 := by
  unfold State.storeAccum
  with_reducible repeat' first
    | intro _ | assumption | apply modBank_engine | apply putF_engine | apply putB_engine | apply ite_of
    | apply foldl_of | apply foldl_snd_of | apply foldl_fst_of | extract_lets | split
    | simp only [onlyEngine_mk_iff] | simp +zetaDelta only [onlyEngine_mk_iff]

theorem State.reduceLine_engine {s0 s : State} (h : s0.OnlyEngine s) (sl b : Nat) (i : Inst) (os : List Operand) (n
    : Nat) : s0.OnlyEngine (State.reduceLine s sl b i os n).2 := by
  unfold State.reduceLine
  with_reducible repeat' first
    | intro _ | assumption | apply storeAccum_engine | apply count_engine | apply ite_of | apply foldl_of
    | apply foldl_snd_of | apply foldl_fst_of | extract_lets | split | simp only [onlyEngine_mk_iff]
    | simp +zetaDelta only [onlyEngine_mk_iff]

theorem State.chunkActs_engine {s0 s : State} (h : s0.OnlyEngine s) (sl j bset : Nat) (os : List Operand) (c : Nat)
    : s0.OnlyEngine (State.chunkActs s sl j bset os c).2 := by
  unfold State.chunkActs
  with_reducible repeat' first
    | intro _ | assumption | apply touchVec_engine | apply modSlice_engine | apply ite_of | apply foldl_of
    | apply foldl_snd_of | apply foldl_fst_of | extract_lets | split | simp only [onlyEngine_mk_iff]
    | simp +zetaDelta only [onlyEngine_mk_iff]

theorem State.contribute_engine {s0 s : State} (h : s0.OnlyEngine s) (sl b : Nat) (l : List (Nat × Num × Bool)) :
    s0.OnlyEngine (State.contribute s sl b l).2 := by
  unfold State.contribute
  with_reducible repeat' first
    | intro _ | assumption | apply storeAccum_engine | apply ite_of | apply foldl_of | apply foldl_snd_of
    | apply foldl_fst_of | extract_lets | split | simp only [onlyEngine_mk_iff]
    | simp +zetaDelta only [onlyEngine_mk_iff]

theorem State.pumpFetch_engine {s0 s : State} (h : s0.OnlyEngine s) (sl j : Nat) : s0.OnlyEngine
    (State.pumpFetch s sl j) := by
  unfold State.pumpFetch
  with_reducible repeat' first
    | intro _ | assumption | apply addAcc_engine | apply ite_of | apply foldl_of | apply foldl_snd_of
    | apply foldl_fst_of | extract_lets | split | simp only [onlyEngine_mk_iff]
    | simp +zetaDelta only [onlyEngine_mk_iff]

theorem State.pumpDesc_engine {s0 s : State} (h : s0.OnlyEngine s) (sl j : Nat) : s0.OnlyEngine
    (State.pumpDesc s sl j) := by
  unfold State.pumpDesc
  with_reducible repeat' first
    | intro _ | assumption | apply setHalt_engine | apply addAcc_engine | apply ite_of | apply foldl_of
    | apply foldl_snd_of | apply foldl_fst_of | extract_lets | split | simp only [onlyEngine_mk_iff]
    | simp +zetaDelta only [onlyEngine_mk_iff]

theorem State.beginBlock_engine {s0 s : State} (h : s0.OnlyEngine s) (sl j : Nat) (i : Inst) (b : Nat) :
    s0.OnlyEngine (State.beginBlock s sl j i b) := by
  unfold State.beginBlock
  with_reducible repeat' first
    | intro _ | assumption | apply setHalt_engine | apply putInst_engine | apply ite_of | apply foldl_of
    | apply foldl_snd_of | apply foldl_fst_of | extract_lets | split | simp only [onlyEngine_mk_iff]
    | simp +zetaDelta only [onlyEngine_mk_iff]

theorem State.startReads_engine {s0 s : State} (h : s0.OnlyEngine s) (sl j no : Nat) : s0.OnlyEngine
    (State.startReads s sl j no) := by
  unfold State.startReads
  with_reducible repeat' first
    | intro _ | assumption | apply putInst_engine | apply ite_of | apply foldl_of | apply foldl_snd_of
    | apply foldl_fst_of | extract_lets | split | simp only [onlyEngine_mk_iff]
    | simp +zetaDelta only [onlyEngine_mk_iff]

theorem State.readAgain_engine {s0 s : State} (h : s0.OnlyEngine s) (sl j : Nat) (i : Inst) : s0.OnlyEngine
    (State.readAgain s sl j i) := by
  unfold State.readAgain
  with_reducible repeat' first
    | intro _ | assumption | apply putInst_engine | apply ite_of | apply foldl_of | apply foldl_snd_of
    | apply foldl_fst_of | extract_lets | split | simp only [onlyEngine_mk_iff]
    | simp +zetaDelta only [onlyEngine_mk_iff]

theorem State.takeBack_engine {s0 s : State} (h : s0.OnlyEngine s) (sl j : Nat) : s0.OnlyEngine
    (State.takeBack s sl j) := by
  unfold State.takeBack
  with_reducible repeat' first
    | intro _ | assumption | apply modSlot_engine | apply ite_of | apply foldl_of | apply foldl_snd_of
    | apply foldl_fst_of | extract_lets | split | simp only [onlyEngine_mk_iff]
    | simp +zetaDelta only [onlyEngine_mk_iff]

theorem State.pumpRead_engine {s0 s : State} (h : s0.OnlyEngine s) (sl j k : Nat) : s0.OnlyEngine
    (State.pumpRead s sl j k) := by
  induction k generalizing s with
  | zero => unfold State.pumpRead; exact h
  | succ k ih =>
    unfold State.pumpRead
    with_reducible repeat' first
      | intro _ | assumption | apply readAgain_engine | apply beginBlock_engine | apply putInst_engine
      | apply addAcc_engine | apply startReads_engine | apply ih | apply ite_of | apply foldl_of
      | apply foldl_snd_of | apply foldl_fst_of | extract_lets | split | simp only [onlyEngine_mk_iff]
      | simp +zetaDelta only [onlyEngine_mk_iff]

theorem State.shadowAccs_engine {s0 s : State} (h : s0.OnlyEngine s) (sl : Nat) : s0.OnlyEngine
    (State.shadowAccs s sl) := by
  unfold State.shadowAccs
  with_reducible repeat' first
    | intro _ | assumption | apply each_engine | apply modBank_engine | apply ite_of | apply foldl_of
    | apply foldl_snd_of | apply foldl_fst_of | extract_lets | split | simp only [onlyEngine_mk_iff]
    | simp +zetaDelta only [onlyEngine_mk_iff]

theorem State.startWipe_engine {s0 s : State} (h : s0.OnlyEngine s) (sl j : Nat) (i : Inst) : s0.OnlyEngine
    (State.startWipe s sl j i) := by
  unfold State.startWipe
  with_reducible repeat' first
    | intro _ | assumption | apply emptyVec_engine | apply modInst_engine | apply ite_of | apply foldl_of
    | apply foldl_snd_of | apply foldl_fst_of | extract_lets | split | simp only [onlyEngine_mk_iff]
    | simp +zetaDelta only [onlyEngine_mk_iff]

theorem State.pumpBlock_engine {s0 s : State} (h : s0.OnlyEngine s) (sl j : Nat) : s0.OnlyEngine
    (State.pumpBlock s sl j) := by
  unfold State.pumpBlock
  with_reducible repeat' first
    | intro _ | assumption | apply beginBlock_engine | apply putInst_engine | apply startWipe_engine
    | apply modSlice_engine | apply shadowAccs_engine | apply setHalt_engine | apply ite_of | apply foldl_of
    | apply foldl_snd_of | apply foldl_fst_of | extract_lets | split | simp only [onlyEngine_mk_iff]
    | simp +zetaDelta only [onlyEngine_mk_iff]

theorem State.pumpMove_engine {s0 s : State} (h : s0.OnlyEngine s) (sl j k : Nat) : s0.OnlyEngine
    (State.pumpMove s sl j k) := by
  induction k generalizing s with
  | zero => unfold State.pumpMove; exact h
  | succ k ih =>
    unfold State.pumpMove
    with_reducible repeat' first
      | intro _ | assumption | apply putInst_engine | apply setHalt_engine | apply addAcc_engine | apply ih
      | apply ite_of | apply foldl_of | apply foldl_snd_of | apply foldl_fst_of | extract_lets | split
      | simp only [onlyEngine_mk_iff] | simp +zetaDelta only [onlyEngine_mk_iff]

theorem State.pumpOut_engine {s0 s : State} (h : s0.OnlyEngine s) (sl j k : Nat) : s0.OnlyEngine
    (State.pumpOut s sl j k) := by
  induction k generalizing s with
  | zero => unfold State.pumpOut; exact h
  | succ k ih =>
    unfold State.pumpOut
    with_reducible repeat' first
      | intro _ | assumption | apply putInst_engine | apply ih | apply ite_of | apply foldl_of | apply foldl_snd_of
      | apply foldl_fst_of | extract_lets | split | simp only [onlyEngine_mk_iff]
      | simp +zetaDelta only [onlyEngine_mk_iff]

theorem State.pumpBadFetch_engine {s0 s : State} (h : s0.OnlyEngine s) (sl j : Nat) : s0.OnlyEngine
    (State.pumpBadFetch s sl j) := by
  unfold State.pumpBadFetch
  with_reducible repeat' first
    | intro _ | assumption | apply haltAtPc_engine | apply ite_of | apply foldl_of | apply foldl_snd_of
    | apply foldl_fst_of | extract_lets | split | simp only [onlyEngine_mk_iff]
    | simp +zetaDelta only [onlyEngine_mk_iff]

theorem State.pump_engine {s0 s : State} (h : s0.OnlyEngine s) (sl j : Nat) : s0.OnlyEngine (State.pump s sl j)
    := by
  unfold State.pump
  with_reducible repeat' first
    | intro _ | assumption | apply takeBack_engine | apply pumpFetch_engine | apply pumpDesc_engine
    | apply pumpRead_engine | apply pumpMove_engine | apply pumpBadFetch_engine | apply pumpOut_engine
    | apply pumpBlock_engine | apply settleHalt_engine | apply ite_of | apply foldl_of | apply foldl_snd_of
    | apply foldl_fst_of | extract_lets | split | simp only [onlyEngine_mk_iff]
    | simp +zetaDelta only [onlyEngine_mk_iff]

theorem State.pumpSlice_engine {s0 s : State} (h : s0.OnlyEngine s) (sl : Nat) : s0.OnlyEngine
    (State.pumpSlice s sl) := by
  unfold State.pumpSlice
  with_reducible repeat' first
    | intro _ | assumption | apply each_engine | apply pump_engine | apply ite_of | apply foldl_of
    | apply foldl_snd_of | apply foldl_fst_of | extract_lets | split | simp only [onlyEngine_mk_iff]
    | simp +zetaDelta only [onlyEngine_mk_iff]

theorem State.askRecords_engine {s0 s : State} (h : s0.OnlyEngine s) (sl : Nat) : s0.OnlyEngine
    (State.askRecords s sl) := by
  unfold State.askRecords
  with_reducible repeat' first
    | intro _ | assumption | apply modSlice_engine | apply ite_of | apply foldl_of | apply foldl_snd_of
    | apply foldl_fst_of | extract_lets | split | simp only [onlyEngine_mk_iff]
    | simp +zetaDelta only [onlyEngine_mk_iff]

theorem State.decode_engine {s0 s : State} (h : s0.OnlyEngine s) (sl j op : Nat) (f : State → Word → State) (hf : ∀
    (t : State) (y : Word), s0.OnlyEngine t → s0.OnlyEngine (f t y)) : s0.OnlyEngine (State.decode s sl j op f)
    := by
  unfold State.decode
  with_reducible repeat' first
    | intro _ | assumption | apply pumpSlice_engine | apply reach_engine | apply modSlice_engine
    | apply askRecords_engine | apply ite_of | apply foldl_of | apply foldl_snd_of | apply foldl_fst_of
    | extract_lets | split | simp only [onlyEngine_mk_iff] | simp +zetaDelta only [onlyEngine_mk_iff] | apply hf

theorem State.branch_engine {s0 s : State} (h : s0.OnlyEngine s) (sl j : Nat) (d : Int) : s0.OnlyEngine
    (State.branch s sl j d) := by
  unfold State.branch
  with_reducible repeat' first
    | intro _ | assumption | apply haltAtPc_engine | apply setPc_engine | apply modSlot_engine | apply ite_of
    | apply foldl_of | apply foldl_snd_of | apply foldl_fst_of | extract_lets | split
    | simp only [onlyEngine_mk_iff] | simp +zetaDelta only [onlyEngine_mk_iff]

theorem State.setSreg_engine {s0 s : State} (h : s0.OnlyEngine s) (sl j n v : Nat) : s0.OnlyEngine
    (State.setSreg s sl j n v) := by
  unfold State.setSreg
  with_reducible repeat' first
    | intro _ | assumption | apply putF_engine | apply ite_of | apply foldl_of | apply foldl_snd_of
    | apply foldl_fst_of | extract_lets | split | simp only [onlyEngine_mk_iff]
    | simp +zetaDelta only [onlyEngine_mk_iff]

theorem State.setLreg_engine {s0 s : State} (h : s0.OnlyEngine s) (sl j n v : Nat) : s0.OnlyEngine
    (State.setLreg s sl j n v) := by
  unfold State.setLreg
  with_reducible repeat' first
    | intro _ | assumption | apply putF_engine | apply ite_of | apply foldl_of | apply foldl_snd_of
    | apply foldl_fst_of | extract_lets | split | simp only [onlyEngine_mk_iff]
    | simp +zetaDelta only [onlyEngine_mk_iff]

theorem State.loopInstr_engine {s0 s : State} (h : s0.OnlyEngine s) (sl j : Nat) (w : Word) : s0.OnlyEngine
    (State.loopInstr s sl j w) := by
  unfold State.loopInstr
  with_reducible repeat' first
    | intro _ | assumption | apply branch_engine | apply setLreg_engine | apply nextPc_engine | apply ite_of
    | apply foldl_of | apply foldl_snd_of | apply foldl_fst_of | extract_lets | split
    | simp only [onlyEngine_mk_iff] | simp +zetaDelta only [onlyEngine_mk_iff]

theorem State.endlInstr_engine {s0 s : State} (h : s0.OnlyEngine s) (sl j : Nat) (w : Word) : s0.OnlyEngine
    (State.endlInstr s sl j w) := by
  unfold State.endlInstr
  with_reducible repeat' first
    | intro _ | assumption | apply setLreg_engine | apply branch_engine | apply nextPc_engine | apply ite_of
    | apply foldl_of | apply foldl_snd_of | apply foldl_fst_of | extract_lets | split
    | simp only [onlyEngine_mk_iff] | simp +zetaDelta only [onlyEngine_mk_iff]

theorem State.jumpInstr_engine {s0 s : State} (h : s0.OnlyEngine s) (sl j : Nat) (w : Word) : s0.OnlyEngine
    (State.jumpInstr s sl j w) := by
  unfold State.jumpInstr
  with_reducible repeat' first
    | intro _ | assumption | apply branch_engine | apply nextPc_engine | apply ite_of | apply foldl_of
    | apply foldl_snd_of | apply foldl_fst_of | extract_lets | split | simp only [onlyEngine_mk_iff]
    | simp +zetaDelta only [onlyEngine_mk_iff]

theorem State.sethInstr_engine {s0 s : State} (h : s0.OnlyEngine s) (sl j : Nat) (w : Word) : s0.OnlyEngine
    (State.sethInstr s sl j w) := by
  unfold State.sethInstr
  with_reducible repeat' first
    | intro _ | assumption | apply putF_engine | apply nextPc_engine | apply ite_of | apply foldl_of
    | apply foldl_snd_of | apply foldl_fst_of | extract_lets | split | simp only [onlyEngine_mk_iff]
    | simp +zetaDelta only [onlyEngine_mk_iff]

theorem State.setsInstr_engine {s0 s : State} (h : s0.OnlyEngine s) (sl j : Nat) (w : Word) : s0.OnlyEngine
    (State.setsInstr s sl j w) := by
  unfold State.setsInstr
  with_reducible repeat' first
    | intro _ | assumption | apply setSreg_engine | apply nextPc_engine | apply ite_of | apply foldl_of
    | apply foldl_snd_of | apply foldl_fst_of | extract_lets | split | simp only [onlyEngine_mk_iff]
    | simp +zetaDelta only [onlyEngine_mk_iff]

theorem State.waitTake_engine {s0 s : State} (h : s0.OnlyEngine s) (sl j : Nat) (room : Bool) (pair n : Nat) :
    s0.OnlyEngine (State.waitTake s sl j room pair n) := by
  unfold State.waitTake
  with_reducible repeat' first
    | intro _ | assumption | apply waitsTake_engine | apply claveTake_engine | apply modSlot_engine
    | apply satisfied_engine | apply ite_of | apply foldl_of | apply foldl_snd_of | apply foldl_fst_of
    | extract_lets | split | simp only [onlyEngine_mk_iff] | simp +zetaDelta only [onlyEngine_mk_iff]

theorem State.waitInstr_engine {s0 s : State} (h : s0.OnlyEngine s) (sl j : Nat) (w : Word) : s0.OnlyEngine
    (State.waitInstr s sl j w) := by
  unfold State.waitInstr
  with_reducible repeat' first
    | intro _ | assumption | apply haltAtPc_engine | apply waitTake_engine | apply ite_of | apply foldl_of
    | apply foldl_snd_of | apply foldl_fst_of | extract_lets | split | simp only [onlyEngine_mk_iff]
    | simp +zetaDelta only [onlyEngine_mk_iff]

theorem State.waitAgain_engine {s0 s : State} (h : s0.OnlyEngine s) (sl j : Nat) : s0.OnlyEngine
    (State.waitAgain s sl j) := by
  unfold State.waitAgain
  with_reducible repeat' first
    | intro _ | assumption | apply waitsTake_engine | apply pumpSlice_engine | apply ite_of | apply foldl_of
    | apply foldl_snd_of | apply foldl_fst_of | extract_lets | split | simp only [onlyEngine_mk_iff]
    | simp +zetaDelta only [onlyEngine_mk_iff]

theorem State.waitbeatInstr_engine {s0 s : State} (h : s0.OnlyEngine s) (sl j : Nat) (w : Word) : s0.OnlyEngine
    (State.waitbeatInstr s sl j w) := by
  unfold State.waitbeatInstr
  with_reducible repeat' first
    | intro _ | assumption | apply satisfied_engine | apply modSlot_engine | apply ite_of | apply foldl_of
    | apply foldl_snd_of | apply foldl_fst_of | extract_lets | split | simp only [onlyEngine_mk_iff]
    | simp +zetaDelta only [onlyEngine_mk_iff]

theorem State.pushInst_engine {s0 s : State} (h : s0.OnlyEngine s) (sl j : Nat) (i : Inst) : s0.OnlyEngine
    (State.pushInst s sl j i) := by
  unfold State.pushInst
  with_reducible repeat' first
    | intro _ | assumption | apply modSlot_engine | apply putF_engine | apply ite_of | apply foldl_of
    | apply foldl_snd_of | apply foldl_fst_of | extract_lets | split | simp only [onlyEngine_mk_iff]
    | simp +zetaDelta only [onlyEngine_mk_iff]

theorem State.dropHead_engine {s0 s : State} (h : s0.OnlyEngine s) (sl j : Nat) : s0.OnlyEngine
    (State.dropHead s sl j) := by
  unfold State.dropHead
  with_reducible repeat' first
    | intro _ | assumption | apply modSlot_engine | apply ite_of | apply foldl_of | apply foldl_snd_of
    | apply foldl_fst_of | extract_lets | split | simp only [onlyEngine_mk_iff]
    | simp +zetaDelta only [onlyEngine_mk_iff]

theorem State.follow_engine {s0 s : State} (h : s0.OnlyEngine s) (sl j op : Nat) (f : State → Inst → State) (hf : ∀
    (t : State) (y : Inst), s0.OnlyEngine t → s0.OnlyEngine (f t y)) : s0.OnlyEngine (State.follow s sl j op f)
    := by
  unfold State.follow
  with_reducible repeat' first
    | intro _ | assumption | apply reach_engine | apply pumpSlice_engine | apply ite_of | apply foldl_of
    | apply foldl_snd_of | apply foldl_fst_of | extract_lets | split | simp only [onlyEngine_mk_iff]
    | simp +zetaDelta only [onlyEngine_mk_iff] | apply hf

theorem State.leadFollow_engine {s0 s : State} (h : s0.OnlyEngine s) (sl j op : Nat) (hold : Bool) (f
    : State → Inst → State) (hf : ∀ (t : State) (y : Inst), s0.OnlyEngine t → s0.OnlyEngine (f t y)) : s0.OnlyEngine
    (State.leadFollow s sl j op hold f) := by
  unfold State.leadFollow
  with_reducible repeat' first
    | intro _ | assumption | apply pumpSlice_engine | apply follow_engine | apply decode_engine
    | apply pushInst_engine | apply modSlot_engine | apply nextPc_engine | apply ite_of | apply foldl_of
    | apply foldl_snd_of | apply foldl_fst_of | extract_lets | split | simp only [onlyEngine_mk_iff]
    | simp +zetaDelta only [onlyEngine_mk_iff] | apply hf

theorem State.noDeadline_engine {s0 s : State} (h : s0.OnlyEngine s) (sl j : Nat) : s0.OnlyEngine
    (State.noDeadline s sl j) := by
  unfold State.noDeadline
  with_reducible repeat' first
    | intro _ | assumption | apply putF_engine | apply ite_of | apply foldl_of | apply foldl_snd_of
    | apply foldl_fst_of | extract_lets | split | simp only [onlyEngine_mk_iff]
    | simp +zetaDelta only [onlyEngine_mk_iff]

theorem State.haltExec_engine {s0 s : State} (h : s0.OnlyEngine s) (sl j : Nat) : s0.OnlyEngine
    (State.haltExec s sl j) := by
  unfold State.haltExec
  with_reducible repeat' first
    | intro _ | assumption | apply releaseAccs_engine | apply modSlot_engine | apply setSlotState_engine
    | apply noDeadline_engine | apply dropHead_engine | apply setDone_engine | apply ite_of | apply foldl_of
    | apply foldl_snd_of | apply foldl_fst_of | extract_lets | split | simp only [onlyEngine_mk_iff]
    | simp +zetaDelta only [onlyEngine_mk_iff]

theorem State.signalExec_engine {s0 s : State} (h : s0.OnlyEngine s) (sl j : Nat) (i : Inst) : s0.OnlyEngine
    (State.signalExec s sl j i) := by
  unfold State.signalExec
  with_reducible repeat' first
    | intro _ | assumption | apply setHalt_engine | apply addAcc_engine | apply claveSignal_engine
    | apply putInst_engine | apply dropHead_engine | apply ite_of | apply foldl_of | apply foldl_snd_of
    | apply foldl_fst_of | extract_lets | split | simp only [onlyEngine_mk_iff]
    | simp +zetaDelta only [onlyEngine_mk_iff]

theorem State.endScrub_engine {s0 s : State} (h : s0.OnlyEngine s) (sl j : Nat) : s0.OnlyEngine
    (State.endScrub s sl j) := by
  unfold State.endScrub
  with_reducible repeat' first
    | intro _ | assumption | apply dropScrub_engine | apply ite_of | apply foldl_of | apply foldl_snd_of
    | apply foldl_fst_of | extract_lets | split | simp only [onlyEngine_mk_iff]
    | simp +zetaDelta only [onlyEngine_mk_iff]

theorem State.testDeadline_engine {s0 s : State} (h : s0.OnlyEngine s) (sl j : Nat) : s0.OnlyEngine
    (State.testDeadline s sl j) := by
  unfold State.testDeadline
  with_reducible repeat' first
    | intro _ | assumption | apply wipeNow_engine | apply putB_engine | apply slotRec_engine | apply wr_engine
    | apply putF_engine | apply countSat_engine | apply raiseIrq_engine | apply modSlot_engine
    | apply endScrub_engine | apply ite_of | apply foldl_of | apply foldl_snd_of | apply foldl_fst_of
    | extract_lets | split | simp only [onlyEngine_mk_iff] | simp +zetaDelta only [onlyEngine_mk_iff]

theorem State.deadlineInstr_engine {s0 s : State} (h : s0.OnlyEngine s) (sl j : Nat) (w : Word) : s0.OnlyEngine
    (State.deadlineInstr s sl j w) := by
  unfold State.deadlineInstr
  with_reducible repeat' first
    | intro _ | assumption | apply putF_engine | apply putB_engine | apply modSlot_engine | apply nextPc_engine
    | apply pass_engine | apply testDeadline_engine | apply ite_of | apply foldl_of | apply foldl_snd_of
    | apply foldl_fst_of | extract_lets | split | simp only [onlyEngine_mk_iff]
    | simp +zetaDelta only [onlyEngine_mk_iff]

theorem State.deadlineMet_engine {s0 s : State} (h : s0.OnlyEngine s) (sl j : Nat) : s0.OnlyEngine
    (State.deadlineMet s sl j) := by
  unfold State.deadlineMet
  with_reducible repeat' first
    | intro _ | assumption | apply putB_engine | apply ite_of | apply foldl_of | apply foldl_snd_of
    | apply foldl_fst_of | extract_lets | split | simp only [onlyEngine_mk_iff]
    | simp +zetaDelta only [onlyEngine_mk_iff]

theorem State.beatIn_engine {s0 s : State} (h : s0.OnlyEngine s) (sl : Nat) : s0.OnlyEngine (State.beatIn s sl)
    := by
  unfold State.beatIn
  with_reducible repeat' first
    | intro _ | assumption | apply each_engine | apply testDeadline_engine | apply beatHeld_engine
    | apply pumpSlice_engine | apply ite_of | apply foldl_of | apply foldl_snd_of | apply foldl_fst_of
    | extract_lets | split | simp only [onlyEngine_mk_iff] | simp +zetaDelta only [onlyEngine_mk_iff]

theorem State.armSlot_engine {s0 s : State} (h : s0.OnlyEngine s) (sl j : Nat) : s0.OnlyEngine
    (State.armSlot s sl j) := by
  unfold State.armSlot
  with_reducible repeat' first
    | intro _ | assumption | apply setPc_engine | apply wr_engine | apply putF_engine | apply modSlot_engine
    | apply setSlotState_engine | apply noDeadline_engine | apply ite_of | apply foldl_of | apply foldl_snd_of
    | apply foldl_fst_of | extract_lets | split | simp only [onlyEngine_mk_iff]
    | simp +zetaDelta only [onlyEngine_mk_iff]

theorem State.fromNext_engine {s0 s : State} (h : s0.OnlyEngine s) (f : State → State) (hf : ∀ t : State,
    s0.OnlyEngine t → s0.OnlyEngine (f t)) : s0.OnlyEngine (State.fromNext s f) := by
  unfold State.fromNext
  with_reducible repeat' first
    | intro _ | assumption | apply pass_engine | apply ite_of | apply foldl_of | apply foldl_snd_of
    | apply foldl_fst_of | extract_lets | split | simp only [onlyEngine_mk_iff]
    | simp +zetaDelta only [onlyEngine_mk_iff] | apply hf

theorem State.orderFetches_engine {s0 s : State} (h : s0.OnlyEngine s) (sl : Nat) : s0.OnlyEngine
    (State.orderFetches s sl) := by
  unfold State.orderFetches
  with_reducible repeat' first
    | intro _ | assumption | apply modSlot_engine | apply ite_of | apply foldl_of | apply foldl_snd_of
    | apply foldl_fst_of | extract_lets | split | simp only [onlyEngine_mk_iff]
    | simp +zetaDelta only [onlyEngine_mk_iff]

theorem State.stopSlot_engine {s0 s : State} (h : s0.OnlyEngine s) (sl j : Nat) : s0.OnlyEngine
    (State.stopSlot s sl j) := by
  unfold State.stopSlot
  with_reducible repeat' first
    | intro _ | assumption | apply wipeNow_engine | apply dropHeldOut_engine | apply modSlot_engine
    | apply setSlotState_engine | apply releaseAccs_engine | apply noDeadline_engine | apply dropXfers_engine
    | apply dropScrub_engine | apply ite_of | apply foldl_of | apply foldl_snd_of | apply foldl_fst_of
    | extract_lets | split | simp only [onlyEngine_mk_iff] | simp +zetaDelta only [onlyEngine_mk_iff]

theorem State.stopEnds_engine {s0 s : State} (h : s0.OnlyEngine s) (sl j : Nat) : s0.OnlyEngine
    (State.stopEnds s sl j) := by
  unfold State.stopEnds
  with_reducible repeat' first
    | intro _ | assumption | apply reach_engine | apply modSlot_engine | apply setSlotState_engine | apply ite_of
    | apply foldl_of | apply foldl_snd_of | apply foldl_fst_of | extract_lets | split
    | simp only [onlyEngine_mk_iff] | simp +zetaDelta only [onlyEngine_mk_iff]

theorem State.resumeSlot_engine {s0 s : State} (h : s0.OnlyEngine s) (sl j : Nat) : s0.OnlyEngine
    (State.resumeSlot s sl j) := by
  unfold State.resumeSlot
  with_reducible repeat' first
    | intro _ | assumption | apply count_engine | apply modSlot_engine | apply setSlotState_engine
    | apply pumpSlice_engine | apply ite_of | apply foldl_of | apply foldl_snd_of | apply foldl_fst_of
    | extract_lets | split | simp only [onlyEngine_mk_iff] | simp +zetaDelta only [onlyEngine_mk_iff]

theorem State.slotPause_engine {s0 s : State} (h : s0.OnlyEngine s) (sl j : Nat) : s0.OnlyEngine
    (State.slotPause s sl j) := by
  unfold State.slotPause
  with_reducible repeat' first
    | intro _ | assumption | apply pumpSlice_engine | apply setSlotState_engine | apply ite_of | apply foldl_of
    | apply foldl_snd_of | apply foldl_fst_of | extract_lets | split | simp only [onlyEngine_mk_iff]
    | simp +zetaDelta only [onlyEngine_mk_iff]

theorem State.rearmTarget_engine {s0 s : State} (h : s0.OnlyEngine s) (sl j k : Nat) (i : Inst) : s0.OnlyEngine
    (State.rearmTarget s sl j k i) := by
  unfold State.rearmTarget
  with_reducible repeat' first
    | intro _ | assumption | apply putF_engine | apply wr_engine | apply armSlot_engine | apply modSlot_engine
    | apply ite_of | apply foldl_of | apply foldl_snd_of | apply foldl_fst_of | extract_lets | split
    | simp only [onlyEngine_mk_iff] | simp +zetaDelta only [onlyEngine_mk_iff]

theorem State.rearmExec_engine {s0 s : State} (h : s0.OnlyEngine s) (sl j : Nat) (i : Inst) : s0.OnlyEngine
    (State.rearmExec s sl j i) := by
  unfold State.rearmExec
  with_reducible repeat' first
    | intro _ | assumption | apply setHalt_engine | apply dropHead_engine | apply reach_engine
    | apply rearmTarget_engine | apply modSlot_engine | apply nextPc_engine | apply ite_of | apply foldl_of
    | apply foldl_snd_of | apply foldl_fst_of | extract_lets | split | simp only [onlyEngine_mk_iff]
    | simp +zetaDelta only [onlyEngine_mk_iff]

theorem State.illegal_engine {s0 s : State} (h : s0.OnlyEngine s) (sl j : Nat) : s0.OnlyEngine
    (State.illegal s sl j) := by
  unfold State.illegal
  with_reducible repeat' first
    | intro _ | assumption | apply pumpSlice_engine | apply reach_engine | apply modSlice_engine
    | apply haltAtPc_engine | apply ite_of | apply foldl_of | apply foldl_snd_of | apply foldl_fst_of
    | extract_lets | split | simp only [onlyEngine_mk_iff] | simp +zetaDelta only [onlyEngine_mk_iff]

theorem State.strikeHalt_engine {s0 s : State} (h : s0.OnlyEngine s) (sl j : Nat) (i : Inst) (n : Nat) (read : Bool)
    (code : Nat) : s0.OnlyEngine (State.strikeHalt s sl j i n read code) := by
  unfold State.strikeHalt
  with_reducible repeat' first
    | intro _ | assumption | apply setHalt_engine | apply ite_of | apply foldl_of | apply foldl_snd_of
    | apply foldl_fst_of | extract_lets | split | simp only [onlyEngine_mk_iff]
    | simp +zetaDelta only [onlyEngine_mk_iff]

theorem State.metPoison_engine {s0 s : State} (h : s0.OnlyEngine s) (sl j : Nat) (i : Inst) (n : Nat) (read : Bool)
    : s0.OnlyEngine (State.metPoison s sl j i n read) := by
  unfold State.metPoison
  with_reducible repeat' first
    | intro _ | assumption | apply strikeHalt_engine | apply slotRec_engine | apply ite_of | apply foldl_of
    | apply foldl_snd_of | apply foldl_fst_of | extract_lets | split | simp only [onlyEngine_mk_iff]
    | simp +zetaDelta only [onlyEngine_mk_iff]

theorem State.countLines_engine {s0 s : State} (h : s0.OnlyEngine s) (sl n : Nat) : s0.OnlyEngine
    (State.countLines s sl n) := by
  unfold State.countLines
  with_reducible repeat' first
    | intro _ | assumption | apply count_engine | apply ite_of | apply foldl_of | apply foldl_snd_of
    | apply foldl_fst_of | extract_lets | split | simp only [onlyEngine_mk_iff]
    | simp +zetaDelta only [onlyEngine_mk_iff]

theorem State.reduceIn_engine {s0 s : State} (h : s0.OnlyEngine s) (sl j : Nat) (i : Inst) (b : Nat) (l : SrcLine) :
    s0.OnlyEngine (State.reduceIn s sl j i b l) := by
  unfold State.reduceIn
  with_reducible repeat' first
    | intro _ | assumption | apply reduceLine_engine | apply strikeHalt_engine | apply ite_of | apply foldl_of
    | apply foldl_snd_of | apply foldl_fst_of | extract_lets | split | simp only [onlyEngine_mk_iff]
    | simp +zetaDelta only [onlyEngine_mk_iff]

theorem State.takeLines_engine {s0 s : State} (h : s0.OnlyEngine s) (sl j : Nat) (i : Inst) (t : SStep) (rs
    : List LineRsp) : s0.OnlyEngine (State.takeLines s sl j i t rs) := by
  unfold State.takeLines
  with_reducible repeat' first
    | intro _ | assumption | apply modInst_engine | apply reduceIn_engine | apply ite_of | apply foldl_of
    | apply foldl_snd_of | apply foldl_fst_of | extract_lets | split | simp only [onlyEngine_mk_iff]
    | simp +zetaDelta only [onlyEngine_mk_iff]

theorem State.takeScale_engine {s0 s : State} (h : s0.OnlyEngine s) (sl j : Nat) (i : Inst) (n : Nat) (rs
    : List LineRsp) : s0.OnlyEngine (State.takeScale s sl j i n rs) := by
  unfold State.takeScale
  with_reducible repeat' first
    | intro _ | assumption | apply modInst_engine | apply ite_of | apply foldl_of | apply foldl_snd_of
    | apply foldl_fst_of | extract_lets | split | simp only [onlyEngine_mk_iff]
    | simp +zetaDelta only [onlyEngine_mk_iff]

theorem State.stepRead_engine {s0 s : State} (h : s0.OnlyEngine s) (sl j : Nat) (i : Inst) (t : SStep) :
    s0.OnlyEngine (State.stepRead s sl j i t) := by
  unfold State.stepRead
  with_reducible repeat' first
    | intro _ | assumption | apply perform_engine | apply strikeHalt_engine | apply metPoison_engine
    | apply takeScale_engine | apply takeLines_engine | apply countLines_engine | apply stepAdvance_engine
    | apply settleHalt_engine | apply ite_of | apply foldl_of | apply foldl_snd_of | apply foldl_fst_of
    | extract_lets | split | simp only [onlyEngine_mk_iff] | simp +zetaDelta only [onlyEngine_mk_iff]

theorem State.wrote_engine {s0 s : State} (h : s0.OnlyEngine s) (sl j : Nat) (i : Inst) (os : List Operand) (outs
    : List (Nat × OutData)) (next due : Nat) : s0.OnlyEngine (State.wrote s sl j i os outs next due) := by
  unfold State.wrote
  with_reducible repeat' first
    | intro _ | assumption | apply modInst_engine | apply ite_of | apply foldl_of | apply foldl_snd_of
    | apply foldl_fst_of | extract_lets | split | simp only [onlyEngine_mk_iff]
    | simp +zetaDelta only [onlyEngine_mk_iff]

theorem State.stepWrite_engine {s0 s : State} (h : s0.OnlyEngine s) (sl j : Nat) (i : Inst) (t : SStep) :
    s0.OnlyEngine (State.stepWrite s sl j i t) := by
  unfold State.stepWrite
  with_reducible repeat' first
    | intro _ | assumption | apply perform_engine | apply strikeHalt_engine | apply stepLfsr_engine
    | apply tally_engine | apply wrote_engine | apply countLines_engine | apply stepAdvance_engine | apply ite_of
    | apply foldl_of | apply foldl_snd_of | apply foldl_fst_of | extract_lets | split
    | simp only [onlyEngine_mk_iff] | simp +zetaDelta only [onlyEngine_mk_iff]

theorem State.stepScale_engine {s0 s : State} (h : s0.OnlyEngine s) (sl j : Nat) (i : Inst) (t : SStep) (n : Nat) :
    s0.OnlyEngine (State.stepScale s sl j i t n) := by
  unfold State.stepScale
  with_reducible repeat' first
    | intro _ | assumption | apply perform_engine | apply strikeHalt_engine | apply modInst_engine
    | apply countLines_engine | apply stepAdvance_engine | apply ite_of | apply foldl_of | apply foldl_snd_of
    | apply foldl_fst_of | extract_lets | split | simp only [onlyEngine_mk_iff]
    | simp +zetaDelta only [onlyEngine_mk_iff]

theorem State.noteOld_engine {s0 s : State} (h : s0.OnlyEngine s) (sl b l w8 ctx cls : Nat) : s0.OnlyEngine
    (State.noteOld s sl b l w8 ctx cls) := by
  unfold State.noteOld
  with_reducible repeat' first
    | intro _ | assumption | apply noteWord_engine | apply queueTest_engine | apply ite_of | apply foldl_of
    | apply foldl_snd_of | apply foldl_fst_of | extract_lets | split | simp only [onlyEngine_mk_iff]
    | simp +zetaDelta only [onlyEngine_mk_iff]

theorem State.updateLine_engine {s0 s : State} (h : s0.OnlyEngine s) (sl j : Nat) (i : Inst) (os : List Operand) (p
    : Nat × Spot) : s0.OnlyEngine (State.updateLine s sl j i os p).2 := by
  unfold State.updateLine
  with_reducible repeat' first
    | intro _ | assumption | apply noteOld_engine | apply knellOnUe_engine | apply modBank_engine
    | apply drainWord_engine | apply writeCoded_engine | apply stepLfsr_engine | apply each_engine
    | apply tally_engine | apply ite_of | apply foldl_of | apply foldl_snd_of | apply foldl_fst_of | extract_lets
    | split | simp only [onlyEngine_mk_iff] | simp +zetaDelta only [onlyEngine_mk_iff]

theorem State.updateVec_engine {s0 s : State} (h : s0.OnlyEngine s) (sl j : Nat) (i : Inst) (os : List Operand)
    (n line : Nat) : s0.OnlyEngine (State.updateVec s sl j i os n line).2 := by
  unfold State.updateVec
  with_reducible repeat' first
    | intro _ | assumption | apply touchVec_engine | apply putVec_engine | apply stepLfsr_engine
    | apply tally_engine | apply ite_of | apply foldl_of | apply foldl_snd_of | apply foldl_fst_of | extract_lets
    | split | simp only [onlyEngine_mk_iff] | simp +zetaDelta only [onlyEngine_mk_iff]

theorem State.updated_engine {s0 s : State} (h : s0.OnlyEngine s) (sl j : Nat) (i : Inst) (ns bad : List Nat) (next
    : Nat) : s0.OnlyEngine (State.updated s sl j i ns bad next) := by
  unfold State.updated
  with_reducible repeat' first
    | intro _ | assumption | apply modInst_engine | apply metPoison_engine | apply strikeHalt_engine
    | apply ite_of | apply foldl_of | apply foldl_snd_of | apply foldl_fst_of | extract_lets | split
    | simp only [onlyEngine_mk_iff] | simp +zetaDelta only [onlyEngine_mk_iff]

theorem State.stepUpdate_engine {s0 s : State} (h : s0.OnlyEngine s) (sl j : Nat) (i : Inst) (t : SStep) :
    s0.OnlyEngine (State.stepUpdate s sl j i t) := by
  unfold State.stepUpdate
  with_reducible repeat' first
    | intro _ | assumption | apply strikeHalt_engine | apply updateLine_engine | apply countLines_engine
    | apply stepAdvance_engine | apply updated_engine | apply ite_of | apply foldl_of | apply foldl_snd_of
    | apply foldl_fst_of | extract_lets | split | simp only [onlyEngine_mk_iff]
    | simp +zetaDelta only [onlyEngine_mk_iff]

theorem State.macBank_engine {s0 s : State} (h : s0.OnlyEngine s) (sl j : Nat) (i : Inst) (os : List Operand) (b
    : Nat) (x : BankNext) (line : Line × WordEn) (acts : List (Nat × Bool)) : s0.OnlyEngine
    (State.macBank s sl j i os b x line acts) := by
  unfold State.macBank
  with_reducible repeat' first
    | intro _ | assumption | apply modInst_engine | apply contribute_engine | apply strikeHalt_engine
    | apply ite_of | apply foldl_of | apply foldl_snd_of | apply foldl_fst_of | extract_lets | split
    | simp only [onlyEngine_mk_iff] | simp +zetaDelta only [onlyEngine_mk_iff]

theorem State.stepMac_engine {s0 s : State} (h : s0.OnlyEngine s) (sl j bset : Nat) (i : Inst) : s0.OnlyEngine
    (State.stepMac s sl j bset i) := by
  unfold State.stepMac
  with_reducible repeat' first
    | intro _ | assumption | apply strikeHalt_engine | apply perform_engine | apply stepAdvance_engine
    | apply metPoison_engine | apply chunkActs_engine | apply macBank_engine | apply modInst_engine
    | apply countLines_engine | apply ite_of | apply foldl_of | apply foldl_snd_of | apply foldl_fst_of
    | extract_lets | split | simp only [onlyEngine_mk_iff] | simp +zetaDelta only [onlyEngine_mk_iff]

theorem State.strikeAway_engine {s0 s : State} (h : s0.OnlyEngine s) (sl j : Nat) (i : Inst) (t : SStep) :
    s0.OnlyEngine (State.strikeAway s sl j i t) := by
  unfold State.strikeAway
  with_reducible repeat' first
    | intro _ | assumption | apply addAcc_engine | apply takeScale_engine | apply tally_engine
    | apply stepLfsr_engine | apply wrote_engine | apply modInst_engine | apply ite_of | apply foldl_of
    | apply foldl_snd_of | apply foldl_fst_of | extract_lets | split | simp only [onlyEngine_mk_iff]
    | simp +zetaDelta only [onlyEngine_mk_iff]

theorem State.reduceVec_engine {s0 s : State} (h : s0.OnlyEngine s) (sl j : Nat) (i : Inst) : s0.OnlyEngine
    (State.reduceVec s sl j i) := by
  unfold State.reduceVec
  with_reducible repeat' first
    | intro _ | assumption | apply reduceIn_engine | apply modInst_engine | apply ite_of | apply foldl_of
    | apply foldl_snd_of | apply foldl_fst_of | extract_lets | split | simp only [onlyEngine_mk_iff]
    | simp +zetaDelta only [onlyEngine_mk_iff]

theorem State.strikePump_engine {s0 s : State} (h : s0.OnlyEngine s) (sl j k : Nat) : s0.OnlyEngine
    (State.strikePump s sl j k) := by
  induction k generalizing s with
  | zero => unfold State.strikePump; exact h
  | succ k ih =>
    unfold State.strikePump
    with_reducible repeat' first
      | intro _ | assumption | apply strikeHalt_engine | apply reduceVec_engine | apply modInst_engine
      | apply strikeAway_engine | apply settleHalt_engine | apply pump_engine | apply ih | apply ite_of
      | apply foldl_of | apply foldl_snd_of | apply foldl_fst_of | extract_lets | split
      | simp only [onlyEngine_mk_iff] | simp +zetaDelta only [onlyEngine_mk_iff]

theorem State.wipePump_engine {s0 s : State} (h : s0.OnlyEngine s) (sl j k : Nat) : s0.OnlyEngine
    (State.wipePump s sl j k) := by
  induction k generalizing s with
  | zero => unfold State.wipePump; exact h
  | succ k ih =>
    unfold State.wipePump
    with_reducible repeat' first
      | intro _ | assumption | apply strikeHalt_engine | apply modInst_engine | apply settleHalt_engine
      | apply pump_engine | apply wipeNow_engine | apply ih | apply ite_of | apply foldl_of | apply foldl_snd_of
      | apply foldl_fst_of | extract_lets | split | simp only [onlyEngine_mk_iff]
      | simp +zetaDelta only [onlyEngine_mk_iff]

theorem State.pumpAll_engine {s0 s : State} (h : s0.OnlyEngine s) (sl : Nat) : s0.OnlyEngine (State.pumpAll s sl)
    := by
  unfold State.pumpAll
  with_reducible repeat' first
    | intro _ | assumption | apply wipeNow_engine | apply each_engine | apply strikePump_engine
    | apply pumpSlice_engine | apply wipePump_engine | apply askRecords_engine | apply ite_of | apply foldl_of
    | apply foldl_snd_of | apply foldl_fst_of | extract_lets | split | simp only [onlyEngine_mk_iff]
    | simp +zetaDelta only [onlyEngine_mk_iff]

theorem State.wipeOut_engine {s0 s : State} (h : s0.OnlyEngine s) (sl j k : Nat) : s0.OnlyEngine
    (State.wipeOut s sl j k) := by
  induction k generalizing s with
  | zero => unfold State.wipeOut; exact h
  | succ k ih =>
    unfold State.wipeOut
    with_reducible repeat' first
      | intro _ | assumption | apply reach_engine | apply pumpAll_engine | apply ih | apply ite_of | apply foldl_of
      | apply foldl_snd_of | apply foldl_fst_of | extract_lets | split | simp only [onlyEngine_mk_iff]
      | simp +zetaDelta only [onlyEngine_mk_iff]

theorem State.runStep_engine {s0 s : State} (h : s0.OnlyEngine s) (sl bset : Nat) (r : Ready) : s0.OnlyEngine
    (State.runStep s sl bset r) := by
  unfold State.runStep
  with_reducible repeat' first
    | intro _ | assumption | apply stepMac_engine | apply stepRead_engine | apply stepWrite_engine
    | apply stepScale_engine | apply stepUpdate_engine | apply ite_of | apply foldl_of | apply foldl_snd_of
    | apply foldl_fst_of | extract_lets | split | simp only [onlyEngine_mk_iff]
    | simp +zetaDelta only [onlyEngine_mk_iff]

theorem State.strikeOn_engine {s0 s : State} (h : s0.OnlyEngine s) (sl bset : Nat) : s0.OnlyEngine
    (State.strikeOn s sl bset) := by
  unfold State.strikeOn
  with_reducible repeat' first
    | intro _ | assumption | apply pumpAll_engine | apply reach_engine | apply runStep_engine
    | apply losers_engine | apply takeLane_engine | apply countSlot_engine | apply ite_of | apply foldl_of
    | apply foldl_snd_of | apply foldl_fst_of | extract_lets | split | simp only [onlyEngine_mk_iff]
    | simp +zetaDelta only [onlyEngine_mk_iff]

theorem State.takeAccs_engine {s0 s : State} (h : s0.OnlyEngine s) (sl j : Nat) : s0.OnlyEngine
    (State.takeAccs s sl j) := by
  unfold State.takeAccs
  with_reducible repeat' first
    | intro _ | assumption | apply pumpAll_engine | apply reach_engine | apply freeAccs_engine
    | apply modInst_engine | apply wr_engine | apply ite_of | apply foldl_of | apply foldl_snd_of
    | apply foldl_fst_of | extract_lets | split | simp only [onlyEngine_mk_iff]
    | simp +zetaDelta only [onlyEngine_mk_iff]

theorem State.adoptOut_engine {s0 s : State} (h : s0.OnlyEngine s) (sl j no : Nat) (out : Bool) : s0.OnlyEngine
    (State.adoptOut s sl j no out) := by
  unfold State.adoptOut
  with_reducible repeat' first
    | intro _ | assumption | apply ite_of | apply foldl_of | apply foldl_snd_of | apply foldl_fst_of
    | extract_lets | split | simp only [onlyEngine_mk_iff] | simp +zetaDelta only [onlyEngine_mk_iff]

theorem State.pushBlock_engine {s0 s : State} (h : s0.OnlyEngine s) (sl j : Nat) (w : Word) (f : Inst → Inst) :
    s0.OnlyEngine (State.pushBlock s sl j w f) := by
  unfold State.pushBlock
  with_reducible repeat' first
    | intro _ | assumption | apply modSlot_engine | apply pushInst_engine | apply adoptOut_engine
    | apply nextPc_engine | apply ite_of | apply foldl_of | apply foldl_snd_of | apply foldl_fst_of | extract_lets
    | split | simp only [onlyEngine_mk_iff] | simp +zetaDelta only [onlyEngine_mk_iff]

theorem State.blockOp_engine {s0 s : State} (h : s0.OnlyEngine s) (sl j op : Nat) : s0.OnlyEngine
    (State.blockOp s sl j op) := by
  unfold State.blockOp
  with_reducible repeat' first
    | intro _ | assumption | apply decode_engine | apply pushBlock_engine | apply pumpAll_engine | apply ite_of
    | apply foldl_of | apply foldl_snd_of | apply foldl_fst_of | extract_lets | split
    | simp only [onlyEngine_mk_iff] | simp +zetaDelta only [onlyEngine_mk_iff]

theorem State.storeSeed_engine {s0 s : State} (h : s0.OnlyEngine s) (sl b : Nat) (v : Word) : s0.OnlyEngine
    (State.storeSeed s sl b v) := by
  unfold State.storeSeed
  with_reducible repeat' first
    | intro _ | assumption | apply putF_engine | apply modSlice_engine | apply ite_of | apply foldl_of
    | apply foldl_snd_of | apply foldl_fst_of | extract_lets | split | simp only [onlyEngine_mk_iff]
    | simp +zetaDelta only [onlyEngine_mk_iff]

theorem State.modPass_engine {s0 s : State} (h : s0.OnlyEngine s) (sl : Nat) (f : ScrubPass → ScrubPass) :
    s0.OnlyEngine (State.modPass s sl f) := by
  unfold State.modPass
  with_reducible repeat' first
    | intro _ | assumption | apply modSlice_engine | apply ite_of | apply foldl_of | apply foldl_snd_of
    | apply foldl_fst_of | extract_lets | split | simp only [onlyEngine_mk_iff]
    | simp +zetaDelta only [onlyEngine_mk_iff]

theorem State.passTest_engine {s0 s : State} (h : s0.OnlyEngine s) (sl b row : Nat) : s0.OnlyEngine
    (State.passTest s sl b row) := by
  unfold State.passTest
  with_reducible repeat' first
    | intro _ | assumption | apply queueTest_engine | apply modPass_engine | apply ite_of | apply foldl_of
    | apply foldl_snd_of | apply foldl_fst_of | extract_lets | split | simp only [onlyEngine_mk_iff]
    | simp +zetaDelta only [onlyEngine_mk_iff]

theorem State.scrubWord_engine {s0 s : State} (h : s0.OnlyEngine s) (sl b l w8 ctx cls : Nat) : s0.OnlyEngine
    (State.scrubWord s sl b l w8 ctx cls) := by
  unfold State.scrubWord
  with_reducible repeat' first
    | intro _ | assumption | apply modPass_engine | apply noteWord_engine | apply writeBack_engine
    | apply putStored_engine | apply passTest_engine | apply ite_of | apply foldl_of | apply foldl_snd_of
    | apply foldl_fst_of | extract_lets | split | simp only [onlyEngine_mk_iff]
    | simp +zetaDelta only [onlyEngine_mk_iff]

theorem State.scrubLine_engine {s0 s : State} (h : s0.OnlyEngine s) (sl b l ctx cls : Nat) : s0.OnlyEngine
    (State.scrubLine s sl b l ctx cls) := by
  unfold State.scrubLine
  with_reducible repeat' first
    | intro _ | assumption | apply each_engine | apply scrubWord_engine | apply ite_of | apply foldl_of
    | apply foldl_snd_of | apply foldl_fst_of | extract_lets | split | simp only [onlyEngine_mk_iff]
    | simp +zetaDelta only [onlyEngine_mk_iff]

theorem State.beginPass_engine {s0 s : State} (h : s0.OnlyEngine s) (sl : Nat) (p : ScrubPass) : s0.OnlyEngine
    (State.beginPass s sl p) := by
  unfold State.beginPass
  with_reducible repeat' first
    | intro _ | assumption | apply modSlice_engine | apply putB_engine | apply ite_of | apply foldl_of
    | apply foldl_snd_of | apply foldl_fst_of | extract_lets | split | simp only [onlyEngine_mk_iff]
    | simp +zetaDelta only [onlyEngine_mk_iff]

theorem State.scrubPump_engine {s0 s : State} (h : s0.OnlyEngine s) (sl : Nat) : s0.OnlyEngine
    (State.scrubPump s sl) := by
  unfold State.scrubPump
  with_reducible repeat' first
    | intro _ | assumption | apply beginPass_engine | apply modInst_engine | apply ite_of | apply foldl_of
    | apply foldl_snd_of | apply foldl_fst_of | extract_lets | split | simp only [onlyEngine_mk_iff]
    | simp +zetaDelta only [onlyEngine_mk_iff]

theorem State.pumpEngine_engine {s0 s : State} (h : s0.OnlyEngine s) (sl : Nat) : s0.OnlyEngine
    (State.pumpEngine s sl) := by
  unfold State.pumpEngine
  with_reducible repeat' first
    | intro _ | assumption | apply pumpAll_engine | apply scrubPump_engine | apply ite_of | apply foldl_of
    | apply foldl_snd_of | apply foldl_fst_of | extract_lets | split | simp only [onlyEngine_mk_iff]
    | simp +zetaDelta only [onlyEngine_mk_iff]

theorem State.runPass_engine {s0 s : State} (h : s0.OnlyEngine s) (sl : Nat) : s0.OnlyEngine (State.runPass s sl)
    := by
  unfold State.runPass
  with_reducible repeat' first
    | intro _ | assumption | apply modPass_engine | apply scrubLine_engine | apply strikeHalt_engine
    | apply settleHalt_engine | apply ite_of | apply foldl_of | apply foldl_snd_of | apply foldl_fst_of
    | extract_lets | split | simp only [onlyEngine_mk_iff] | simp +zetaDelta only [onlyEngine_mk_iff]

theorem State.passBad_engine {s0 s : State} (h : s0.OnlyEngine s) (sl : Nat) : s0.OnlyEngine (State.passBad s sl)
    := by
  unfold State.passBad
  with_reducible repeat' first
    | intro _ | assumption | apply strikeHalt_engine | apply settleHalt_engine | apply ite_of | apply foldl_of
    | apply foldl_snd_of | apply foldl_fst_of | extract_lets | split | simp only [onlyEngine_mk_iff]
    | simp +zetaDelta only [onlyEngine_mk_iff]

theorem State.writeSummary_engine {s0 s : State} (h : s0.OnlyEngine s) (sl j : Nat) (i : Inst) (ws : List Word) :
    s0.OnlyEngine (State.writeSummary s sl j i ws) := by
  unfold State.writeSummary
  with_reducible repeat' first
    | intro _ | assumption | apply modInst_engine | apply strikeHalt_engine | apply addAcc_engine | apply ite_of
    | apply foldl_of | apply foldl_snd_of | apply foldl_fst_of | extract_lets | split
    | simp only [onlyEngine_mk_iff] | simp +zetaDelta only [onlyEngine_mk_iff]

theorem State.passEnds_engine {s0 s : State} (h : s0.OnlyEngine s) (sl : Nat) : s0.OnlyEngine (State.passEnds s sl)
    := by
  unfold State.passEnds
  with_reducible repeat' first
    | intro _ | assumption | apply pumpEngine_engine | apply reach_engine | apply modSlice_engine
    | apply wr_engine | apply writeSummary_engine | apply putB_engine | apply ite_of | apply foldl_of
    | apply foldl_snd_of | apply foldl_fst_of | extract_lets | split | simp only [onlyEngine_mk_iff]
    | simp +zetaDelta only [onlyEngine_mk_iff]

theorem State.runPatrol_engine {s0 s : State} (h : s0.OnlyEngine s) (sl : Nat) : s0.OnlyEngine
    (State.runPatrol s sl) := by
  unfold State.runPatrol
  with_reducible repeat' first
    | intro _ | assumption | apply each_engine | apply scrubLine_engine | apply putF_engine | apply ite_of
    | apply foldl_of | apply foldl_snd_of | apply foldl_fst_of | extract_lets | split
    | simp only [onlyEngine_mk_iff] | simp +zetaDelta only [onlyEngine_mk_iff]

theorem State.modXfer_engine {s0 s : State} (h : s0.OnlyEngine s) (g : Nat) (f : Xfer → Xfer) : s0.OnlyEngine
    (State.modXfer s g f) := by
  unfold State.modXfer
  with_reducible repeat' first
    | intro _ | assumption | apply ite_of | apply foldl_of | apply foldl_snd_of | apply foldl_fst_of
    | extract_lets | split | simp only [onlyEngine_mk_iff] | simp +zetaDelta only [onlyEngine_mk_iff]

theorem State.noteLag_engine {s0 s : State} (h : s0.OnlyEngine s) (g : Nat) : s0.OnlyEngine (State.noteLag s g)
    := by
  unfold State.noteLag
  with_reducible repeat' first
    | intro _ | assumption | apply modXfer_engine | apply ite_of | apply foldl_of | apply foldl_snd_of
    | apply foldl_fst_of | extract_lets | split | simp only [onlyEngine_mk_iff]
    | simp +zetaDelta only [onlyEngine_mk_iff]

theorem State.signalBlock_engine {s0 s : State} (h : s0.OnlyEngine s) (x : Xfer) (i : Inst) : s0.OnlyEngine
    (State.signalBlock s x i) := by
  unfold State.signalBlock
  with_reducible repeat' first
    | intro _ | assumption | apply claveSignal_engine | apply ite_of | apply foldl_of | apply foldl_snd_of
    | apply foldl_fst_of | extract_lets | split | simp only [onlyEngine_mk_iff]
    | simp +zetaDelta only [onlyEngine_mk_iff]

theorem State.settleXfer_engine {s0 s : State} (h : s0.OnlyEngine s) (g : Nat) : s0.OnlyEngine
    (State.settleXfer s g) := by
  unfold State.settleXfer
  with_reducible repeat' first
    | intro _ | assumption | apply modXfer_engine | apply signalBlock_engine | apply modInst_engine | apply ite_of
    | apply foldl_of | apply foldl_snd_of | apply foldl_fst_of | extract_lets | split
    | simp only [onlyEngine_mk_iff] | simp +zetaDelta only [onlyEngine_mk_iff]

theorem State.settleXfers_engine {s0 s : State} (h : s0.OnlyEngine s) (sl j : Nat) : s0.OnlyEngine
    (State.settleXfers s sl j) := by
  unfold State.settleXfers
  with_reducible repeat' first
    | intro _ | assumption | apply settleXfer_engine | apply ite_of | apply foldl_of | apply foldl_snd_of
    | apply foldl_fst_of | extract_lets | split | simp only [onlyEngine_mk_iff]
    | simp +zetaDelta only [onlyEngine_mk_iff]

theorem State.dropCopy_engine {s0 s : State} (h : s0.OnlyEngine s) (id r : Nat) : s0.OnlyEngine
    (State.dropCopy s id r) := by
  unfold State.dropCopy
  with_reducible repeat' first
    | intro _ | assumption | apply ite_of | apply foldl_of | apply foldl_snd_of | apply foldl_fst_of
    | extract_lets | split | simp only [onlyEngine_mk_iff] | simp +zetaDelta only [onlyEngine_mk_iff]

theorem State.strokeAck_engine {s0 s : State} (h : s0.OnlyEngine s) (r : Nat) (a : Arrived) : s0.OnlyEngine
    (State.strokeAck s r a) := by
  unfold State.strokeAck
  with_reducible repeat' first
    | intro _ | assumption | apply ite_of | apply foldl_of | apply foldl_snd_of | apply foldl_fst_of
    | extract_lets | split | simp only [onlyEngine_mk_iff] | simp +zetaDelta only [onlyEngine_mk_iff]

theorem State.strokePerform_engine {s0 s : State} (h : s0.OnlyEngine s) (r : Nat) (a : Arrived) : s0.OnlyEngine
    (State.strokePerform s r a) := by
  unfold State.strokePerform
  with_reducible repeat' first
    | intro _ | assumption | apply perform_engine | apply strokeAck_engine | apply setHalt_engine
    | apply dropCopy_engine | apply settleHalt_engine | apply ite_of | apply foldl_of | apply foldl_snd_of
    | apply foldl_fst_of | extract_lets | split | simp only [onlyEngine_mk_iff]
    | simp +zetaDelta only [onlyEngine_mk_iff]

theorem State.strokeRefused_engine {s0 s : State} (h : s0.OnlyEngine s) (r : Nat) (a : Arrived) : s0.OnlyEngine
    (State.strokeRefused s r a) := by
  unfold State.strokeRefused
  with_reducible repeat' first
    | intro _ | assumption | apply dropCopy_engine | apply modXfer_engine | apply ite_of | apply foldl_of
    | apply foldl_snd_of | apply foldl_fst_of | extract_lets | split | simp only [onlyEngine_mk_iff]
    | simp +zetaDelta only [onlyEngine_mk_iff]

theorem State.settleStroke_engine {s0 s : State} (h : s0.OnlyEngine s) (r : Nat) (a : Arrived) : s0.OnlyEngine
    (State.settleStroke s r a) := by
  unfold State.settleStroke
  with_reducible repeat' first
    | intro _ | assumption | apply strokeRefused_engine | apply dropCopy_engine | apply ite_of | apply foldl_of
    | apply foldl_snd_of | apply foldl_fst_of | extract_lets | split | simp only [onlyEngine_mk_iff]
    | simp +zetaDelta only [onlyEngine_mk_iff]

theorem State.settleStrokes_engine {s0 s : State} (h : s0.OnlyEngine s) (r : Nat) : s0.OnlyEngine
    (State.settleStrokes s r) := by
  unfold State.settleStrokes
  with_reducible repeat' first
    | intro _ | assumption | apply settleStroke_engine | apply ite_of | apply foldl_of | apply foldl_snd_of
    | apply foldl_fst_of | extract_lets | split | simp only [onlyEngine_mk_iff]
    | simp +zetaDelta only [onlyEngine_mk_iff]

theorem State.landVec_engine {s0 s : State} (h : s0.OnlyEngine s) (r : Nat) (a : Arrived) : s0.OnlyEngine
    (State.landVec s r a) := by
  unfold State.landVec
  with_reducible repeat' first
    | intro _ | assumption | apply reach_engine | apply putVec_engine | apply takeLane_engine
    | apply dropCopy_engine | apply strokeAck_engine | apply ite_of | apply foldl_of | apply foldl_snd_of
    | apply foldl_fst_of | extract_lets | split | simp only [onlyEngine_mk_iff]
    | simp +zetaDelta only [onlyEngine_mk_iff]

theorem State.landVecs_engine {s0 s : State} (h : s0.OnlyEngine s) (r : Nat) : s0.OnlyEngine (State.landVecs s r)
    := by
  unfold State.landVecs
  with_reducible repeat' first
    | intro _ | assumption | apply landVec_engine | apply ite_of | apply foldl_of | apply foldl_snd_of
    | apply foldl_fst_of | extract_lets | split | simp only [onlyEngine_mk_iff]
    | simp +zetaDelta only [onlyEngine_mk_iff]

theorem State.treeWrites_engine {s0 s : State} (h : s0.OnlyEngine s) (sl j start k : Nat) : s0.OnlyEngine
    (State.treeWrites s sl j start k) := by
  induction k generalizing s with
  | zero => unfold State.treeWrites; exact h
  | succ k ih =>
    unfold State.treeWrites
    with_reducible repeat' first
      | intro _ | assumption | apply strikeHalt_engine | apply tally_engine | apply modInst_engine
      | apply reach_engine | apply putVec_engine | apply perform_engine | apply settleHalt_engine
      | apply stepLfsr_engine | apply landVecs_engine | apply takeLane_engine | apply pass_engine
      | apply losers_engine | apply countSlot_engine | apply countLines_engine | apply stepAdvance_engine | apply ih
      | apply ite_of | apply foldl_of | apply foldl_snd_of | apply foldl_fst_of | extract_lets | split
      | simp only [onlyEngine_mk_iff] | simp +zetaDelta only [onlyEngine_mk_iff]

theorem State.reduceTree_engine {s0 s : State} (h : s0.OnlyEngine s) (sl j : Nat) : s0.OnlyEngine
    (State.reduceTree s sl j) := by
  unfold State.reduceTree
  with_reducible repeat' first
    | intro _ | assumption | apply pumpAll_engine | apply modInst_engine | apply treeWrites_engine
    | apply freeAccs_engine | apply ite_of | apply foldl_of | apply foldl_snd_of | apply foldl_fst_of
    | extract_lets | split | simp only [onlyEngine_mk_iff] | simp +zetaDelta only [onlyEngine_mk_iff]

theorem State.answerFault_engine {s0 s : State} (h : s0.OnlyEngine s) (sl j : Nat) (a : SeAcc) (c : Nat) :
    s0.OnlyEngine (State.answerFault s sl j a c) := by
  unfold State.answerFault
  with_reducible repeat' first
    | intro _ | assumption | apply modSlot_engine | apply ite_of | apply foldl_of | apply foldl_snd_of
    | apply foldl_fst_of | extract_lets | split | simp only [onlyEngine_mk_iff]
    | simp +zetaDelta only [onlyEngine_mk_iff]

theorem State.markIssued_engine {s0 s : State} (h : s0.OnlyEngine s) (sl j id : Nat) : s0.OnlyEngine
    (State.markIssued s sl j id) := by
  unfold State.markIssued
  with_reducible repeat' first
    | intro _ | assumption | apply modSlot_engine | apply ite_of | apply foldl_of | apply foldl_snd_of
    | apply foldl_fst_of | extract_lets | split | simp only [onlyEngine_mk_iff]
    | simp +zetaDelta only [onlyEngine_mk_iff]

theorem State.accAdvance_engine {s0 s : State} (h : s0.OnlyEngine s) (sl : Nat) (a : SeAcc) : s0.OnlyEngine
    (State.accAdvance s sl a) := by
  unfold State.accAdvance
  with_reducible repeat' first
    | intro _ | assumption | apply stepAdvance_engine | apply ite_of | apply foldl_of | apply foldl_snd_of
    | apply foldl_fst_of | extract_lets | split | simp only [onlyEngine_mk_iff]
    | simp +zetaDelta only [onlyEngine_mk_iff]

theorem State.cutAcc_engine {s0 s : State} (h : s0.OnlyEngine s) (sl j : Nat) (a : SeAcc) : s0.OnlyEngine
    (State.cutAcc s sl j a) := by
  unfold State.cutAcc
  with_reducible repeat' first
    | intro _ | assumption | apply modSlot_engine | apply ite_of | apply foldl_of | apply foldl_snd_of
    | apply foldl_fst_of | extract_lets | split | simp only [onlyEngine_mk_iff]
    | simp +zetaDelta only [onlyEngine_mk_iff]

theorem State.freeSent_engine {s0 s : State} (h : s0.OnlyEngine s) (sl j : Nat) (a : SeAcc) : s0.OnlyEngine
    (State.freeSent s sl j a) := by
  unfold State.freeSent
  with_reducible repeat' first
    | intro _ | assumption | apply modInst_engine | apply ite_of | apply foldl_of | apply foldl_snd_of
    | apply foldl_fst_of | extract_lets | split | simp only [onlyEngine_mk_iff]
    | simp +zetaDelta only [onlyEngine_mk_iff]

theorem State.issueRemote_engine {s0 s : State} (h : s0.OnlyEngine s) (sl j point : Nat) (a : SeAcc) : s0.OnlyEngine
    (State.issueRemote s sl j point a) := by
  unfold State.issueRemote
  with_reducible repeat' first
    | intro _ | assumption | apply answerFault_engine | apply reach_engine | apply cutAcc_engine
    | apply pumpEngine_engine | apply takeLane_engine | apply markIssued_engine | apply freeSent_engine
    | apply sendPkt_engine | apply accAdvance_engine | apply ite_of | apply foldl_of | apply foldl_snd_of
    | apply foldl_fst_of | extract_lets | split | simp only [onlyEngine_mk_iff]
    | simp +zetaDelta only [onlyEngine_mk_iff]

theorem State.issueLead_engine {s0 s : State} (h : s0.OnlyEngine s) (sl j : Nat) : s0.OnlyEngine
    (State.issueLead s sl j) := by
  unfold State.issueLead
  with_reducible repeat' first
    | intro _ | assumption | apply pumpEngine_engine | apply issueRemote_engine | apply ite_of | apply foldl_of
    | apply foldl_snd_of | apply foldl_fst_of | extract_lets | split | simp only [onlyEngine_mk_iff]
    | simp +zetaDelta only [onlyEngine_mk_iff]

theorem State.issueFollow_engine {s0 s : State} (h : s0.OnlyEngine s) (sl j : Nat) : s0.OnlyEngine
    (State.issueFollow s sl j) := by
  unfold State.issueFollow
  with_reducible repeat' first
    | intro _ | assumption | apply pumpEngine_engine | apply issueRemote_engine | apply ite_of | apply foldl_of
    | apply foldl_snd_of | apply foldl_fst_of | extract_lets | split | simp only [onlyEngine_mk_iff]
    | simp +zetaDelta only [onlyEngine_mk_iff]

theorem State.vecUpdates_engine {s0 s : State} (h : s0.OnlyEngine s) (sl j : Nat) (i : Inst) (a : SeAcc) :
    s0.OnlyEngine (State.vecUpdates s sl j i a) := by
  unfold State.vecUpdates
  with_reducible repeat' first
    | intro _ | assumption | apply updateVec_engine | apply updated_engine | apply ite_of | apply foldl_of
    | apply foldl_snd_of | apply foldl_fst_of | extract_lets | split | simp only [onlyEngine_mk_iff]
    | simp +zetaDelta only [onlyEngine_mk_iff]

theorem State.reissue_engine {s0 s : State} (h : s0.OnlyEngine s) (sl j : Nat) : s0.OnlyEngine
    (State.reissue s sl j) := by
  unfold State.reissue
  with_reducible repeat' first
    | intro _ | assumption | apply reach_engine | apply modSlot_engine | apply pumpEngine_engine | apply ite_of
    | apply foldl_of | apply foldl_snd_of | apply foldl_fst_of | extract_lets | split
    | simp only [onlyEngine_mk_iff] | simp +zetaDelta only [onlyEngine_mk_iff]

theorem State.outLeaves_engine {s0 s : State} (h : s0.OnlyEngine s) (sl : Nat) (o : FpOut) : s0.OnlyEngine
    (State.outLeaves s sl o) := by
  unfold State.outLeaves
  with_reducible repeat' first
    | intro _ | assumption | apply reach_engine | apply fpShow_engine | apply takeLane_engine
    | apply launchOut_engine | apply ite_of | apply foldl_of | apply foldl_snd_of | apply foldl_fst_of
    | extract_lets | split | simp only [onlyEngine_mk_iff] | simp +zetaDelta only [onlyEngine_mk_iff]

theorem State.resendOut_engine {s0 s : State} (h : s0.OnlyEngine s) (sl j : Nat) : s0.OnlyEngine
    (State.resendOut s sl j) := by
  unfold State.resendOut
  with_reducible repeat' first
    | intro _ | assumption | apply reach_engine | apply outLeaves_engine | apply ite_of | apply foldl_of
    | apply foldl_snd_of | apply foldl_fst_of | extract_lets | split | simp only [onlyEngine_mk_iff]
    | simp +zetaDelta only [onlyEngine_mk_iff]

theorem State.releaseBurst_engine {s0 s : State} (h : s0.OnlyEngine s) (sl out : Nat) : s0.OnlyEngine
    (State.releaseBurst s sl out) := by
  unfold State.releaseBurst
  with_reducible repeat' first
    | intro _ | assumption | exact meshEvent_some_engine (by assumption) (by assumption) | apply meshEvent_engine
    | apply burst_engine | apply ite_of | apply foldl_of | apply foldl_snd_of | apply foldl_fst_of | extract_lets
    | split | simp only [onlyEngine_mk_iff] | simp +zetaDelta only [onlyEngine_mk_iff]

theorem State.windowStart_engine {s0 s : State} (h : s0.OnlyEngine s)  : s0.OnlyEngine (State.windowStart s) := by
  unfold State.windowStart
  with_reducible repeat' first
    | intro _ | assumption | apply reach_engine | apply each_engine | apply modSlice_engine | apply ite_of
    | apply foldl_of | apply foldl_snd_of | apply foldl_fst_of | extract_lets | split
    | simp only [onlyEngine_mk_iff] | simp +zetaDelta only [onlyEngine_mk_iff]

theorem State.mcastInstr_engine {s0 s : State} (h : s0.OnlyEngine s) (sl j : Nat) (w : Word) : s0.OnlyEngine
    (State.mcastInstr s sl j w) := by
  unfold State.mcastInstr
  with_reducible repeat' first
    | intro _ | assumption | apply haltAtPc_engine | apply pushBlock_engine | apply count_engine | apply ite_of
    | apply foldl_of | apply foldl_snd_of | apply foldl_fst_of | extract_lets | split
    | simp only [onlyEngine_mk_iff] | simp +zetaDelta only [onlyEngine_mk_iff]

theorem State.mcastBlockEnd_engine {s0 s : State} (h : s0.OnlyEngine s) (x : Xfer) (i : Inst) : s0.OnlyEngine
    (State.mcastBlockEnd s x i) := by
  unfold State.mcastBlockEnd
  with_reducible repeat' first
    | intro _ | assumption | apply modXfer_engine | apply modInst_engine | apply settleXfer_engine | apply ite_of
    | apply foldl_of | apply foldl_snd_of | apply foldl_fst_of | extract_lets | split
    | simp only [onlyEngine_mk_iff] | simp +zetaDelta only [onlyEngine_mk_iff]

theorem State.sendStroke_engine {s0 s : State} (h : s0.OnlyEngine s) (x : Xfer) (k : Stroke) (rs : List Nat) (burst
    : Nat) (last : Bool) : s0.OnlyEngine (State.sendStroke s x k rs burst last).2 := by
  unfold State.sendStroke
  with_reducible repeat' first
    | intro _ | assumption | apply launch_engine | apply ite_of | apply foldl_of | apply foldl_snd_of
    | apply foldl_fst_of | extract_lets | split | simp only [onlyEngine_mk_iff]
    | simp +zetaDelta only [onlyEngine_mk_iff]

theorem State.strokeSend_engine {s0 s : State} (h : s0.OnlyEngine s) (g k : Nat) : s0.OnlyEngine
    (State.strokeSend s g k) := by
  induction k generalizing s with
  | zero => unfold State.strokeSend; exact h
  | succ k ih =>
    unfold State.strokeSend
    with_reducible repeat' first
      | intro _ | assumption | apply mcastBlockEnd_engine | apply strikeHalt_engine | apply reach_engine
      | apply sendStroke_engine | apply burst_engine | apply stepAdvance_engine | apply modInst_engine
      | apply noteLag_engine | apply settleHalt_engine | apply takeLane_engine | apply modXfer_engine
      | apply settleXfer_engine | apply pumpEngine_engine | apply ih | apply ite_of | apply foldl_of
      | apply foldl_snd_of | apply foldl_fst_of | extract_lets | split | simp only [onlyEngine_mk_iff]
      | simp +zetaDelta only [onlyEngine_mk_iff]

theorem State.strokeComes_some_engine {s0 s t : State} {g r : Nat} {a : Arrived} (e : s.strokeComes g r = some (a, t))
    (h : s0.OnlyEngine s) : s0.OnlyEngine t := by
  unfold State.strokeComes at e
  dsimp only at e
  split at e
  · cases e
  · split at e
    · obtain ⟨a', -, hr⟩ := Option.map_eq_some_iff.1 e
      cases hr
      exact State.meshEvent_some_engine (by assumption) h
    · cases e

theorem State.ackMerge_engine {s0 s : State} (h : s0.OnlyEngine s) (g n : Nat) : s0.OnlyEngine
    (State.ackMerge s g n) := by
  unfold State.ackMerge
  with_reducible repeat' first
    | intro _ | assumption | exact meshEvent_some_engine (by assumption) (by assumption) | apply meshEvent_engine
    | apply modXfer_engine | apply noteLag_engine | apply settleXfer_engine | apply pumpEngine_engine
    | apply ite_of | apply foldl_of | apply foldl_snd_of | apply foldl_fst_of | extract_lets | split
    | simp only [onlyEngine_mk_iff] | simp +zetaDelta only [onlyEngine_mk_iff]

theorem State.resendTo_engine {s0 s : State} (h : s0.OnlyEngine s) (x : Xfer) (r : Nat) : s0.OnlyEngine
    (State.resendTo s x r) := by
  unfold State.resendTo
  with_reducible repeat' first
    | intro _ | assumption | apply sendStroke_engine | apply modXfer_engine | apply ite_of | apply foldl_of
    | apply foldl_snd_of | apply foldl_fst_of | extract_lets | split | simp only [onlyEngine_mk_iff]
    | simp +zetaDelta only [onlyEngine_mk_iff]

theorem State.strokeResend_engine {s0 s : State} (h : s0.OnlyEngine s) (g : Nat) : s0.OnlyEngine
    (State.strokeResend s g) := by
  unfold State.strokeResend
  with_reducible repeat' first
    | intro _ | assumption | apply reach_engine | apply resendTo_engine | apply modXfer_engine | apply ite_of
    | apply foldl_of | apply foldl_snd_of | apply foldl_fst_of | extract_lets | split
    | simp only [onlyEngine_mk_iff] | simp +zetaDelta only [onlyEngine_mk_iff]

theorem State.shed_engine {s0 s : State} (h : s0.OnlyEngine s) (g r : Nat) : s0.OnlyEngine (State.shed s g r) := by
  unfold State.shed
  with_reducible repeat' first
    | intro _ | assumption | apply reach_engine | apply slotRec_engine | apply putB_engine | apply modXfer_engine
    | apply settleXfer_engine | apply count_engine | apply pumpEngine_engine | apply ite_of | apply foldl_of
    | apply foldl_snd_of | apply foldl_fst_of | extract_lets | split | simp only [onlyEngine_mk_iff]
    | simp +zetaDelta only [onlyEngine_mk_iff]

theorem State.dropAcc_engine {s0 s : State} (h : s0.OnlyEngine s) (sl j id : Nat) : s0.OnlyEngine
    (State.dropAcc s sl j id) := by
  unfold State.dropAcc
  with_reducible repeat' first
    | intro _ | assumption | apply modSlot_engine | apply ite_of | apply foldl_of | apply foldl_snd_of
    | apply foldl_fst_of | extract_lets | split | simp only [onlyEngine_mk_iff]
    | simp +zetaDelta only [onlyEngine_mk_iff]

theorem State.holdAcc_engine {s0 s : State} (h : s0.OnlyEngine s) (sl j id : Nat) : s0.OnlyEngine
    (State.holdAcc s sl j id) := by
  unfold State.holdAcc
  with_reducible repeat' first
    | intro _ | assumption | apply modSlot_engine | apply ite_of | apply foldl_of | apply foldl_snd_of
    | apply foldl_fst_of | extract_lets | split | simp only [onlyEngine_mk_iff]
    | simp +zetaDelta only [onlyEngine_mk_iff]

theorem State.keepLines_engine {s0 s : State} (h : s0.OnlyEngine s) (sl j : Nat) (a : SeAcc) (r : Resp) (l : List
    ((Nat × Line × WordEn) × Nat)) : s0.OnlyEngine (State.keepLines s sl j a r l) := by
  unfold State.keepLines
  with_reducible repeat' first
    | intro _ | assumption | apply modInst_engine | apply ite_of | apply foldl_of | apply foldl_snd_of
    | apply foldl_fst_of | extract_lets | split | simp only [onlyEngine_mk_iff]
    | simp +zetaDelta only [onlyEngine_mk_iff]

theorem State.keepRead_engine {s0 s : State} (h : s0.OnlyEngine s) (sl j : Nat) (a : SeAcc) (r : Resp) :
    s0.OnlyEngine (State.keepRead s sl j a r) := by
  unfold State.keepRead
  with_reducible repeat' first
    | intro _ | assumption | apply keepLines_engine | apply ite_of | apply foldl_of | apply foldl_snd_of
    | apply foldl_fst_of | extract_lets | split | simp only [onlyEngine_mk_iff]
    | simp +zetaDelta only [onlyEngine_mk_iff]

theorem State.readAnswer_engine {s0 s : State} (h : s0.OnlyEngine s) (sl j : Nat) (a : SeAcc) (r : Resp) :
    s0.OnlyEngine (State.readAnswer s sl j a r) := by
  unfold State.readAnswer
  with_reducible repeat' first
    | intro _ | assumption | apply dropAcc_engine | apply setHalt_engine | apply keepRead_engine
    | apply holdAcc_engine | apply keepLines_engine | apply slotRec_engine | apply ite_of | apply foldl_of
    | apply foldl_snd_of | apply foldl_fst_of | extract_lets | split | simp only [onlyEngine_mk_iff]
    | simp +zetaDelta only [onlyEngine_mk_iff]

theorem State.writeAnswer_engine {s0 s : State} (h : s0.OnlyEngine s) (sl j : Nat) (a : SeAcc) (r : Resp) :
    s0.OnlyEngine (State.writeAnswer s sl j a r) := by
  unfold State.writeAnswer
  with_reducible repeat' first
    | intro _ | assumption | apply dropAcc_engine | apply modInst_engine | apply holdAcc_engine
    | apply setHalt_engine | apply ite_of | apply foldl_of | apply foldl_snd_of | apply foldl_fst_of
    | extract_lets | split | simp only [onlyEngine_mk_iff] | simp +zetaDelta only [onlyEngine_mk_iff]

theorem State.signalAnswer_engine {s0 s : State} (h : s0.OnlyEngine s) (sl j : Nat) (a : SeAcc) (r : Resp) :
    s0.OnlyEngine (State.signalAnswer s sl j a r) := by
  unfold State.signalAnswer
  with_reducible repeat' first
    | intro _ | assumption | apply dropAcc_engine | apply modInst_engine | apply holdAcc_engine
    | apply setHalt_engine | apply ite_of | apply foldl_of | apply foldl_snd_of | apply foldl_fst_of
    | extract_lets | split | simp only [onlyEngine_mk_iff] | simp +zetaDelta only [onlyEngine_mk_iff]

theorem State.accAnswer_engine {s0 s : State} (h : s0.OnlyEngine s) (sl j k : Nat) : s0.OnlyEngine
    (State.accAnswer s sl j k) := by
  unfold State.accAnswer
  with_reducible repeat' first
    | intro _ | assumption | apply reach_engine | apply dropAcc_engine | apply readAnswer_engine
    | apply writeAnswer_engine | apply signalAnswer_engine | apply pumpEngine_engine | apply ite_of
    | apply foldl_of | apply foldl_snd_of | apply foldl_fst_of | extract_lets | split
    | simp only [onlyEngine_mk_iff] | simp +zetaDelta only [onlyEngine_mk_iff]

theorem State.fetchArrives_engine {s0 s : State} (h : s0.OnlyEngine s) (sl j : Nat) : s0.OnlyEngine
    (State.fetchArrives s sl j) := by
  unfold State.fetchArrives
  with_reducible repeat' first
    | intro _ | assumption | apply pumpEngine_engine | apply reach_engine | apply dropAcc_engine
    | apply modSlot_engine | apply holdAcc_engine | apply ite_of | apply foldl_of | apply foldl_snd_of
    | apply foldl_fst_of | extract_lets | split | simp only [onlyEngine_mk_iff]
    | simp +zetaDelta only [onlyEngine_mk_iff]

theorem State.descArrives_engine {s0 s : State} (h : s0.OnlyEngine s) (sl j : Nat) : s0.OnlyEngine
    (State.descArrives s sl j) := by
  unfold State.descArrives
  with_reducible repeat' first
    | intro _ | assumption | apply pumpEngine_engine | apply reach_engine | apply dropAcc_engine
    | apply holdAcc_engine | apply modSlot_engine | apply ite_of | apply foldl_of | apply foldl_snd_of
    | apply foldl_fst_of | extract_lets | split | simp only [onlyEngine_mk_iff]
    | simp +zetaDelta only [onlyEngine_mk_iff]

theorem State.closeTag_engine {s0 s : State} (h : s0.OnlyEngine s) (sl j : Nat) : s0.OnlyEngine
    (State.closeTag s sl j) := by
  unfold State.closeTag
  with_reducible repeat' first
    | intro _ | assumption | apply putB_engine | apply putF_engine | apply ite_of | apply foldl_of
    | apply foldl_snd_of | apply foldl_fst_of | extract_lets | split | simp only [onlyEngine_mk_iff]
    | simp +zetaDelta only [onlyEngine_mk_iff]

theorem State.retire_engine {s0 s : State} (h : s0.OnlyEngine s) (sl j : Nat) : s0.OnlyEngine (State.retire s sl j)
    := by
  unfold State.retire
  with_reducible repeat' first
    | intro _ | assumption | apply pumpEngine_engine | apply wipeOut_engine | apply reach_engine
    | apply dropHead_engine | apply endXfers_engine | apply count_engine | apply closeTag_engine
    | apply releaseAccs_engine | apply deadlineMet_engine | apply settleXfers_engine | apply ite_of
    | apply foldl_of | apply foldl_snd_of | apply foldl_fst_of | extract_lets | split
    | simp only [onlyEngine_mk_iff] | simp +zetaDelta only [onlyEngine_mk_iff]

theorem State.setTag_engine {s0 s : State} (h : s0.OnlyEngine s) (sl j g : Nat) : s0.OnlyEngine
    (State.setTag s sl j g) := by
  unfold State.setTag
  with_reducible repeat' first
    | intro _ | assumption | apply putF_engine | apply putB_engine | apply ite_of | apply foldl_of
    | apply foldl_snd_of | apply foldl_fst_of | extract_lets | split | simp only [onlyEngine_mk_iff]
    | simp +zetaDelta only [onlyEngine_mk_iff]

theorem State.outSend_engine {s0 s : State} (h : s0.OnlyEngine s) (sl j : Nat) (i : Inst) (dst src : Operand) (g
    : List Nat) (last : Bool) (rid : Nat) : s0.OnlyEngine (State.outSend s sl j i dst src g last rid) := by
  unfold State.outSend
  with_reducible repeat' first
    | intro _ | assumption | apply setTag_engine | apply putF_engine | apply modInst_engine
    | apply outLeaves_engine | apply pumpEngine_engine | apply ite_of | apply foldl_of | apply foldl_snd_of
    | apply foldl_fst_of | extract_lets | split | simp only [onlyEngine_mk_iff]
    | simp +zetaDelta only [onlyEngine_mk_iff]

theorem State.outFault_engine {s0 s : State} (h : s0.OnlyEngine s) (sl j : Nat) (i : Inst) (n code : Nat) :
    s0.OnlyEngine (State.outFault s sl j i n code) := by
  unfold State.outFault
  with_reducible repeat' first
    | intro _ | assumption | apply setHalt_engine | apply settleHalt_engine | apply ite_of | apply foldl_of
    | apply foldl_snd_of | apply foldl_fst_of | extract_lets | split | simp only [onlyEngine_mk_iff]
    | simp +zetaDelta only [onlyEngine_mk_iff]

theorem State.packetSend_engine {s0 s : State} (h : s0.OnlyEngine s) (sl j : Nat) : s0.OnlyEngine
    (State.packetSend s sl j) := by
  unfold State.packetSend
  with_reducible repeat' first
    | intro _ | assumption | apply pumpEngine_engine | apply outFault_engine | apply outSend_engine | apply ite_of
    | apply foldl_of | apply foldl_snd_of | apply foldl_fst_of | extract_lets | split
    | simp only [onlyEngine_mk_iff] | simp +zetaDelta only [onlyEngine_mk_iff]

theorem State.absorb_engine {s0 s : State} (h : s0.OnlyEngine s)  : s0.OnlyEngine (State.absorb s) := by
  unfold State.absorb
  with_reducible repeat' first
    | intro _ | assumption | apply count_engine | apply ite_of | apply foldl_of | apply foldl_snd_of
    | apply foldl_fst_of | extract_lets | split | simp only [onlyEngine_mk_iff]
    | simp +zetaDelta only [onlyEngine_mk_iff]

theorem State.absorbRsp_engine {s0 s : State} (h : s0.OnlyEngine s)  : s0.OnlyEngine (State.absorbRsp s) := by
  unfold State.absorbRsp
  with_reducible repeat' first
    | intro _ | assumption | apply absorb_engine | apply lateResponse_engine | apply ite_of | apply foldl_of
    | apply foldl_snd_of | apply foldl_fst_of | extract_lets | split | simp only [onlyEngine_mk_iff]
    | simp +zetaDelta only [onlyEngine_mk_iff]

theorem State.putOut_engine {s0 s : State} (h : s0.OnlyEngine s) (o : FpOut) (f : FpOut → Option FpOut) :
    s0.OnlyEngine (State.putOut s o f) := by
  unfold State.putOut
  with_reducible repeat' first
    | intro _ | assumption | apply ite_of | apply foldl_of | apply foldl_snd_of | apply foldl_fst_of
    | extract_lets | split | simp only [onlyEngine_mk_iff] | simp +zetaDelta only [onlyEngine_mk_iff]

theorem State.outDoneLines_engine {s0 s : State} (h : s0.OnlyEngine s) (sl j no : Nat) (o : FpOut) : s0.OnlyEngine
    (State.outDoneLines s sl j no o) := by
  unfold State.outDoneLines
  with_reducible repeat' first
    | intro _ | assumption | apply count_engine | apply modInst_engine | apply ite_of | apply foldl_of
    | apply foldl_snd_of | apply foldl_fst_of | extract_lets | split | simp only [onlyEngine_mk_iff]
    | simp +zetaDelta only [onlyEngine_mk_iff]

theorem State.outAnswer_engine {s0 s : State} (h : s0.OnlyEngine s) (o : FpOut) (code : Nat) : s0.OnlyEngine
    (State.outAnswer s o code) := by
  unfold State.outAnswer
  with_reducible repeat' first
    | intro _ | assumption | apply putOut_engine | apply outDoneLines_engine | apply pumpEngine_engine
    | apply setHalt_engine | apply ite_of | apply foldl_of | apply foldl_snd_of | apply foldl_fst_of
    | extract_lets | split | simp only [onlyEngine_mk_iff] | simp +zetaDelta only [onlyEngine_mk_iff]

theorem State.fpPerform_engine {s0 s : State} (h : s0.OnlyEngine s) (p : Packet) (l : List (Nat × Spot)) :
    s0.OnlyEngine (State.fpPerform s p l) := by
  unfold State.fpPerform
  with_reducible repeat' first
    | intro _ | assumption | apply fpAnswer_engine | apply sendParts_engine | apply ite_of | apply foldl_of
    | apply foldl_snd_of | apply foldl_fst_of | extract_lets | split | simp only [onlyEngine_mk_iff]
    | simp +zetaDelta only [onlyEngine_mk_iff]

theorem State.fpOpens_engine {s0 s : State} (h : s0.OnlyEngine s) (p : Packet) : s0.OnlyEngine (State.fpOpens s p)
    := by
  unfold State.fpOpens
  with_reducible repeat' first
    | intro _ | assumption | apply putTag_engine | apply ite_of | apply foldl_of | apply foldl_snd_of
    | apply foldl_fst_of | extract_lets | split | simp only [onlyEngine_mk_iff]
    | simp +zetaDelta only [onlyEngine_mk_iff]

theorem State.fpRequest_engine {s0 s : State} (h : s0.OnlyEngine s) (p : Packet) : s0.OnlyEngine
    (State.fpRequest s p) := by
  unfold State.fpRequest
  with_reducible repeat' first
    | intro _ | assumption | apply fpAnswer_engine | apply fpOpens_engine | apply fpPerform_engine | apply ite_of
    | apply foldl_of | apply foldl_snd_of | apply foldl_fst_of | extract_lets | split
    | simp only [onlyEngine_mk_iff] | simp +zetaDelta only [onlyEngine_mk_iff]

theorem State.winDrained_engine {s0 s : State} (h : s0.OnlyEngine s) (w : Nat) : s0.OnlyEngine
    (State.winDrained s w) := by
  unfold State.winDrained
  with_reducible repeat' first
    | intro _ | assumption | apply closeWindow_engine | apply ite_of | apply foldl_of | apply foldl_snd_of
    | apply foldl_fst_of | extract_lets | split | simp only [onlyEngine_mk_iff]
    | simp +zetaDelta only [onlyEngine_mk_iff]

theorem State.winTimeout_engine {s0 s : State} (h : s0.OnlyEngine s) (w : Nat) : s0.OnlyEngine
    (State.winTimeout s w) := by
  unfold State.winTimeout
  with_reducible repeat' first
    | intro _ | assumption | apply reach_engine | apply closeWindow_engine | apply raiseIrq_engine | apply ite_of
    | apply foldl_of | apply foldl_snd_of | apply foldl_fst_of | extract_lets | split
    | simp only [onlyEngine_mk_iff] | simp +zetaDelta only [onlyEngine_mk_iff]

theorem State.freeKill_engine {s0 s : State} (h : s0.OnlyEngine s)  : s0.OnlyEngine (State.freeKill s) := by
  unfold State.freeKill
  with_reducible repeat' first
    | intro _ | assumption | apply killK1_engine | apply ite_of | apply foldl_of | apply foldl_snd_of
    | apply foldl_fst_of | extract_lets | split | simp only [onlyEngine_mk_iff]
    | simp +zetaDelta only [onlyEngine_mk_iff]

theorem State.knellSend_engine {s0 s : State} (h : s0.OnlyEngine s)  : s0.OnlyEngine (State.knellSend s) := by
  unfold State.knellSend
  with_reducible repeat' first
    | intro _ | assumption | apply fpShow_engine | apply count_engine | apply putB_engine | apply freeKill_engine
    | apply ite_of | apply foldl_of | apply foldl_snd_of | apply foldl_fst_of | extract_lets | split
    | simp only [onlyEngine_mk_iff] | simp +zetaDelta only [onlyEngine_mk_iff]

theorem State.receiveKnell_engine {s0 s : State} (h : s0.OnlyEngine s) (p : Packet) : s0.OnlyEngine
    (State.receiveKnell s p) := by
  unfold State.receiveKnell
  with_reducible repeat' first
    | intro _ | assumption | apply wr_engine | apply count_engine | apply raiseIrq_engine
    | apply closeWindows_engine | apply killJob_engine | apply ite_of | apply foldl_of | apply foldl_snd_of
    | apply foldl_fst_of | extract_lets | split | simp only [onlyEngine_mk_iff]
    | simp +zetaDelta only [onlyEngine_mk_iff]

theorem State.reportPair_engine {s0 s : State} (h : s0.OnlyEngine s) (sl n : Nat) (taken : Bool) : s0.OnlyEngine
    (State.reportPair s sl n taken) := by
  unfold State.reportPair
  with_reducible repeat' first
    | intro _ | assumption | apply wr_engine | apply ite_of | apply foldl_of | apply foldl_snd_of
    | apply foldl_fst_of | extract_lets | split | simp only [onlyEngine_mk_iff]
    | simp +zetaDelta only [onlyEngine_mk_iff]

theorem State.semSignal_engine {s0 s : State} (h : s0.OnlyEngine s) (sl : Nat) (v : Word) : s0.OnlyEngine
    (State.semSignal s sl v) := by
  unfold State.semSignal
  with_reducible repeat' first
    | intro _ | assumption | apply claveSignal_engine | apply reportPair_engine | apply ite_of | apply foldl_of
    | apply foldl_snd_of | apply foldl_fst_of | extract_lets | split | simp only [onlyEngine_mk_iff]
    | simp +zetaDelta only [onlyEngine_mk_iff]

theorem State.semTake_engine {s0 s : State} (h : s0.OnlyEngine s) (sl : Nat) (v : Word) : s0.OnlyEngine
    (State.semTake s sl v) := by
  unfold State.semTake
  with_reducible repeat' first
    | intro _ | assumption | apply blockingTakes_engine | apply claveTake_engine | apply reportPair_engine
    | apply ite_of | apply foldl_of | apply foldl_snd_of | apply foldl_fst_of | extract_lets | split
    | simp only [onlyEngine_mk_iff] | simp +zetaDelta only [onlyEngine_mk_iff]

theorem State.countUnread_engine {s0 s : State} (h : s0.OnlyEngine s)  : s0.OnlyEngine (State.countUnread s) := by
  unfold State.countUnread
  with_reducible repeat' first
    | intro _ | assumption | apply putF_engine | apply count_engine | apply ite_of | apply foldl_of
    | apply foldl_snd_of | apply foldl_fst_of | extract_lets | split | simp only [onlyEngine_mk_iff]
    | simp +zetaDelta only [onlyEngine_mk_iff]

theorem State.ringWrite_engine {s0 s : State} (h : s0.OnlyEngine s) (r : ErrRec) : s0.OnlyEngine
    (State.ringWrite s r) := by
  unfold State.ringWrite
  with_reducible repeat' first
    | intro _ | assumption | apply countUnread_engine | apply count_engine | apply putB_engine
    | apply raiseIrq_engine | apply ite_of | apply foldl_of | apply foldl_snd_of | apply foldl_fst_of
    | extract_lets | split | simp only [onlyEngine_mk_iff] | simp +zetaDelta only [onlyEngine_mk_iff]

theorem State.recordWrite_engine {s0 s : State} (h : s0.OnlyEngine s)  : s0.OnlyEngine (State.recordWrite s) := by
  unfold State.recordWrite
  with_reducible repeat' first
    | intro _ | assumption | apply ringWrite_engine | apply each_engine | apply flushSlice_engine | apply ite_of
    | apply foldl_of | apply foldl_snd_of | apply foldl_fst_of | extract_lets | split
    | simp only [onlyEngine_mk_iff] | simp +zetaDelta only [onlyEngine_mk_iff]

theorem State.ceEnds_engine {s0 s : State} (h : s0.OnlyEngine s) (sl : Nat) : s0.OnlyEngine (State.ceEnds s sl)
    := by
  unfold State.ceEnds
  with_reducible repeat' first
    | intro _ | assumption | apply reach_engine | apply modSlice_engine | apply flushSlice_engine | apply ite_of
    | apply foldl_of | apply foldl_snd_of | apply foldl_fst_of | extract_lets | split
    | simp only [onlyEngine_mk_iff] | simp +zetaDelta only [onlyEngine_mk_iff]

theorem State.toBar_engine {s0 s : State} (h : s0.OnlyEngine s) (since : Nat) : s0.OnlyEngine (State.toBar s since)
    := by
  unfold State.toBar
  with_reducible repeat' first
    | intro _ | assumption | apply reach_engine | apply ite_of | apply foldl_of | apply foldl_snd_of
    | apply foldl_fst_of | extract_lets | split | simp only [onlyEngine_mk_iff]
    | simp +zetaDelta only [onlyEngine_mk_iff]

theorem State.beatAnomaly_engine {s0 s : State} (h : s0.OnlyEngine s) (bit : Nat) : s0.OnlyEngine
    (State.beatAnomaly s bit) := by
  unfold State.beatAnomaly
  with_reducible repeat' first
    | intro _ | assumption | apply putB_engine | apply raiseIrq_engine | apply ite_of | apply foldl_of
    | apply foldl_snd_of | apply foldl_fst_of | extract_lets | split | simp only [onlyEngine_mk_iff]
    | simp +zetaDelta only [onlyEngine_mk_iff]

theorem State.measure_engine {s0 s : State} (h : s0.OnlyEngine s) (mhz : Nat) : s0.OnlyEngine (State.measure s mhz)
    := by
  unfold State.measure
  with_reducible repeat' first
    | intro _ | assumption | apply putF_engine | apply putB_engine | apply ite_of | apply foldl_of
    | apply foldl_snd_of | apply foldl_fst_of | extract_lets | split | simp only [onlyEngine_mk_iff]
    | simp +zetaDelta only [onlyEngine_mk_iff]

theorem State.changeM_engine {s0 s : State} (h : s0.OnlyEngine s)  : s0.OnlyEngine (State.changeM s) := by
  unfold State.changeM
  with_reducible repeat' first
    | intro _ | assumption | apply toBar_engine | apply putF_engine | apply putB_engine | apply ite_of
    | apply foldl_of | apply foldl_snd_of | apply foldl_fst_of | extract_lets | split
    | simp only [onlyEngine_mk_iff] | simp +zetaDelta only [onlyEngine_mk_iff]

theorem State.refuseEntry_engine {s0 s : State} (h : s0.OnlyEngine s) (sl a ctx : Nat) : s0.OnlyEngine
    (State.refuseEntry s sl a ctx) := by
  unfold State.refuseEntry
  with_reducible repeat' first
    | intro _ | assumption | apply refuseCfg_engine | apply putB_engine | apply ite_of | apply foldl_of
    | apply foldl_snd_of | apply foldl_fst_of | extract_lets | split | simp only [onlyEngine_mk_iff]
    | simp +zetaDelta only [onlyEngine_mk_iff]

theorem State.storePhase_engine {r0 s : State} (h : r0.OnlyEngine s) (s0 : State) (sl : Nat) (tabB : Bool) (phase
    : Nat) (v : Word) (ctx : Nat) : r0.OnlyEngine (State.storePhase s s0 sl tabB phase v ctx) := by
  unfold State.storePhase
  with_reducible repeat' first
    | intro _ | assumption | apply wr_engine | apply refuseEntry_engine | apply ite_of | apply foldl_of
    | apply foldl_snd_of | apply foldl_fst_of | extract_lets | split | simp only [onlyEngine_mk_iff]
    | simp +zetaDelta only [onlyEngine_mk_iff]

theorem State.putResult_engine {s0 s : State} (h : s0.OnlyEngine s) (bs : List Byte) : s0.OnlyEngine
    (State.putResult s bs) := by
  unfold State.putResult
  with_reducible repeat' first
    | intro _ | assumption | apply each_engine | apply wr_engine | apply ite_of | apply foldl_of
    | apply foldl_snd_of | apply foldl_fst_of | extract_lets | split | simp only [onlyEngine_mk_iff]
    | simp +zetaDelta only [onlyEngine_mk_iff]

theorem State.reachRef_engine {s0 s : State} (h : s0.OnlyEngine s) (t : Nat) : s0.OnlyEngine (State.reachRef s t)
    := by
  unfold State.reachRef
  with_reducible repeat' first
    | intro _ | assumption | apply pass_engine | apply ite_of | apply foldl_of | apply foldl_snd_of
    | apply foldl_fst_of | extract_lets | split | simp only [onlyEngine_mk_iff]
    | simp +zetaDelta only [onlyEngine_mk_iff]

theorem State.reportRegion_engine {s0 s : State} (h : s0.OnlyEngine s) (r : Nat) : s0.OnlyEngine
    (State.reportRegion s r) := by
  unfold State.reportRegion
  with_reducible repeat' first
    | intro _ | assumption | apply putF_engine | apply putB_engine | apply ite_of | apply foldl_of
    | apply foldl_snd_of | apply foldl_fst_of | extract_lets | split | simp only [onlyEngine_mk_iff]
    | simp +zetaDelta only [onlyEngine_mk_iff]

theorem State.tunerRec_engine {s0 s : State} (h : s0.OnlyEngine s) (code r inst : Nat) : s0.OnlyEngine
    (State.tunerRec s code r inst) := by
  unfold State.tunerRec
  with_reducible repeat' first
    | intro _ | assumption | apply sliceRec_engine | apply globalRec_engine | apply ite_of | apply foldl_of
    | apply foldl_snd_of | apply foldl_fst_of | extract_lets | split | simp only [onlyEngine_mk_iff]
    | simp +zetaDelta only [onlyEngine_mk_iff]

theorem State.setMap_engine {s0 s : State} (h : s0.OnlyEngine s) (m' : Mem) (drop : Nat → Bool) : s0.OnlyEngine
    (State.setMap s m' drop) := by
  unfold State.setMap
  with_reducible repeat' first
    | intro _ | assumption | apply ite_of | apply foldl_of | apply foldl_snd_of | apply foldl_fst_of
    | extract_lets | split | simp only [onlyEngine_mk_iff] | simp +zetaDelta only [onlyEngine_mk_iff]

theorem State.putSpare_engine {s0 s : State} (h : s0.OnlyEngine s) (sl b mac row n : Nat) : s0.OnlyEngine
    (State.putSpare s sl b mac row n) := by
  unfold State.putSpare
  with_reducible repeat' first
    | intro _ | assumption | apply setMap_engine | apply ite_of | apply foldl_of | apply foldl_snd_of
    | apply foldl_fst_of | extract_lets | split | simp only [onlyEngine_mk_iff]
    | simp +zetaDelta only [onlyEngine_mk_iff]

theorem State.putGroup_engine {s0 s : State} (h : s0.OnlyEngine s) (sl b mac bit : Nat) : s0.OnlyEngine
    (State.putGroup s sl b mac bit) := by
  unfold State.putGroup
  with_reducible repeat' first
    | intro _ | assumption | apply setMap_engine | apply ite_of | apply foldl_of | apply foldl_snd_of
    | apply foldl_fst_of | extract_lets | split | simp only [onlyEngine_mk_iff]
    | simp +zetaDelta only [onlyEngine_mk_iff]

theorem State.putBank_engine {s0 s : State} (h : s0.OnlyEngine s) (sl b n : Nat) : s0.OnlyEngine
    (State.putBank s sl b n) := by
  unfold State.putBank
  with_reducible repeat' first
    | intro _ | assumption | apply setMap_engine | apply ite_of | apply foldl_of | apply foldl_snd_of
    | apply foldl_fst_of | extract_lets | split | simp only [onlyEngine_mk_iff]
    | simp +zetaDelta only [onlyEngine_mk_iff]

theorem State.takeSpareBank_engine {s0 s : State} (h : s0.OnlyEngine s) (sl b : Nat) : s0.OnlyEngine
    (State.takeSpareBank s sl b) := by
  unfold State.takeSpareBank
  with_reducible repeat' first
    | intro _ | assumption | apply putBank_engine | apply ite_of | apply foldl_of | apply foldl_snd_of
    | apply foldl_fst_of | extract_lets | split | simp only [onlyEngine_mk_iff]
    | simp +zetaDelta only [onlyEngine_mk_iff]

theorem State.countSpares_engine {s0 s : State} (h : s0.OnlyEngine s) (sl b : Nat) : s0.OnlyEngine
    (State.countSpares s sl b) := by
  unfold State.countSpares
  with_reducible repeat' first
    | intro _ | assumption | apply putF_engine | apply ite_of | apply foldl_of | apply foldl_snd_of
    | apply foldl_fst_of | extract_lets | split | simp only [onlyEngine_mk_iff]
    | simp +zetaDelta only [onlyEngine_mk_iff]

theorem State.addRow_engine {s0 s : State} (h : s0.OnlyEngine s) (sl b mac row : Nat) : s0.OnlyEngine
    (State.addRow s sl b mac row) := by
  unfold State.addRow
  with_reducible repeat' first
    | intro _ | assumption | apply moveRow_engine | apply countSpares_engine | apply ite_of | apply foldl_of
    | apply foldl_snd_of | apply foldl_fst_of | extract_lets | split | simp only [onlyEngine_mk_iff]
    | simp +zetaDelta only [onlyEngine_mk_iff]

theorem State.addRepair_engine {s0 s : State} (h : s0.OnlyEngine s) (w : Word) : s0.OnlyEngine (State.addRepair s w)
    := by
  unfold State.addRepair
  with_reducible repeat' first
    | intro _ | assumption | apply markBad_engine | apply addRow_engine | apply ite_of | apply foldl_of
    | apply foldl_snd_of | apply foldl_fst_of | extract_lets | split | simp only [onlyEngine_mk_iff]
    | simp +zetaDelta only [onlyEngine_mk_iff]

theorem State.clearMap_engine {s0 s : State} (h : s0.OnlyEngine s) (sl : Nat) : s0.OnlyEngine (State.clearMap s sl)
    := by
  unfold State.clearMap
  with_reducible repeat' first
    | intro _ | assumption | apply setMap_engine | apply ite_of | apply foldl_of | apply foldl_snd_of
    | apply foldl_fst_of | extract_lets | split | simp only [onlyEngine_mk_iff]
    | simp +zetaDelta only [onlyEngine_mk_iff]

theorem State.fuseRepairs_engine {s0 s : State} (h : s0.OnlyEngine s) (sl : Nat) : s0.OnlyEngine
    (State.fuseRepairs s sl) := by
  unfold State.fuseRepairs
  with_reducible repeat' first
    | intro _ | assumption | apply clearMap_engine | apply takeSpareBank_engine | apply putGroup_engine
    | apply putSpare_engine | apply each_engine | apply countSpares_engine | apply ite_of | apply foldl_of
    | apply foldl_snd_of | apply foldl_fst_of | extract_lets | split | simp only [onlyEngine_mk_iff]
    | simp +zetaDelta only [onlyEngine_mk_iff]

theorem State.loadRepairs_engine {s0 s : State} (h : s0.OnlyEngine s) (sl : Nat) : s0.OnlyEngine
    (State.loadRepairs s sl) := by
  unfold State.loadRepairs
  with_reducible repeat' first
    | intro _ | assumption | apply allToReset_engine | apply fuseRepairs_engine | apply addRepair_engine
    | apply addRow_engine | apply ite_of | apply foldl_of | apply foldl_snd_of | apply foldl_fst_of | extract_lets
    | split | simp only [onlyEngine_mk_iff] | simp +zetaDelta only [onlyEngine_mk_iff]

theorem State.wipeSlice_engine {s0 s : State} (h : s0.OnlyEngine s) (sl : Nat) : s0.OnlyEngine
    (State.wipeSlice s sl) := by
  unfold State.wipeSlice
  with_reducible repeat' first
    | intro _ | assumption | apply each_engine | apply setBank_engine | apply ite_of | apply foldl_of
    | apply foldl_snd_of | apply foldl_fst_of | extract_lets | split | simp only [onlyEngine_mk_iff]
    | simp +zetaDelta only [onlyEngine_mk_iff]

theorem State.saveRhythm_engine {s0 s : State} (h : s0.OnlyEngine s) (sl : Nat) : s0.OnlyEngine
    (State.saveRhythm s sl) := by
  unfold State.saveRhythm
  with_reducible repeat' first
    | intro _ | assumption | apply modSlice_engine | apply ite_of | apply foldl_of | apply foldl_snd_of
    | apply foldl_fst_of | extract_lets | split | simp only [onlyEngine_mk_iff]
    | simp +zetaDelta only [onlyEngine_mk_iff]

theorem State.resetSave_engine {s0 s : State} (h : s0.OnlyEngine s) (sl : Nat) : s0.OnlyEngine
    (State.resetSave s sl) := by
  unfold State.resetSave
  with_reducible repeat' first
    | intro _ | assumption | apply modSlice_engine | apply ite_of | apply foldl_of | apply foldl_snd_of
    | apply foldl_fst_of | extract_lets | split | simp only [onlyEngine_mk_iff]
    | simp +zetaDelta only [onlyEngine_mk_iff]

theorem State.loadRhythm_engine {s0 s : State} (h : s0.OnlyEngine s) (sl : Nat) : s0.OnlyEngine
    (State.loadRhythm s sl) := by
  unfold State.loadRhythm
  with_reducible repeat' first
    | intro _ | assumption | apply wr_engine | apply allToReset_engine | apply modSlice_engine | apply ite_of
    | apply foldl_of | apply foldl_snd_of | apply foldl_fst_of | extract_lets | split
    | simp only [onlyEngine_mk_iff] | simp +zetaDelta only [onlyEngine_mk_iff]

theorem State.ignoreTarget_engine {s0 s : State} (h : s0.OnlyEngine s)  : s0.OnlyEngine (State.ignoreTarget s) := by
  unfold State.ignoreTarget
  with_reducible repeat' first
    | intro _ | assumption | apply putB_engine | apply ite_of | apply foldl_of | apply foldl_snd_of
    | apply foldl_fst_of | extract_lets | split | simp only [onlyEngine_mk_iff]
    | simp +zetaDelta only [onlyEngine_mk_iff]

theorem State.burstBank_engine {s0 s : State} (h : s0.OnlyEngine s) (sl b : Nat) : s0.OnlyEngine
    (State.burstBank s sl b) := by
  unfold State.burstBank
  with_reducible repeat' first
    | intro _ | assumption | apply each_engine | apply refreshRow_engine | apply modBank_engine | apply ite_of
    | apply foldl_of | apply foldl_snd_of | apply foldl_fst_of | extract_lets | split
    | simp only [onlyEngine_mk_iff] | simp +zetaDelta only [onlyEngine_mk_iff]

theorem State.burst_engine {s0 s : State} (h : s0.OnlyEngine s)  : s0.OnlyEngine (State.burst s) := by
  unfold State.burst
  with_reducible repeat' first
    | intro _ | assumption | apply each_engine | apply burstBank_engine | apply pass_engine | apply ite_of
    | apply foldl_of | apply foldl_snd_of | apply foldl_fst_of | extract_lets | split
    | simp only [onlyEngine_mk_iff] | simp +zetaDelta only [onlyEngine_mk_iff]

theorem State.drainTarget_engine {s0 s : State} (h : s0.OnlyEngine s) (e : PwrEntry) : s0.OnlyEngine
    (State.drainTarget s e) := by
  unfold State.drainTarget
  with_reducible repeat' first
    | intro _ | assumption | apply each_engine | apply drainAll_engine | apply pass_engine
    | apply saveRhythm_engine | apply drainWb_engine | apply ite_of | apply foldl_of | apply foldl_snd_of
    | apply foldl_fst_of | extract_lets | split | simp only [onlyEngine_mk_iff]
    | simp +zetaDelta only [onlyEngine_mk_iff]

theorem State.decideHot_engine {s0 s : State} (h : s0.OnlyEngine s) (sl : Nat) (temp : Int) : s0.OnlyEngine
    (State.decideHot s sl temp) := by
  unfold State.decideHot
  with_reducible repeat' first
    | intro _ | assumption | apply modSlice_engine | apply ite_of | apply foldl_of | apply foldl_snd_of
    | apply foldl_fst_of | extract_lets | split | simp only [onlyEngine_mk_iff]
    | simp +zetaDelta only [onlyEngine_mk_iff]

theorem State.nextStage_engine {s0 s : State} (h : s0.OnlyEngine s) (n : Nat) : s0.OnlyEngine (State.nextStage s n)
    := by
  unfold State.nextStage
  with_reducible repeat' first
    | intro _ | assumption | apply putF_engine | apply ite_of | apply foldl_of | apply foldl_snd_of
    | apply foldl_fst_of | extract_lets | split | simp only [onlyEngine_mk_iff]
    | simp +zetaDelta only [onlyEngine_mk_iff]

theorem State.clearRing_engine {s0 s : State} (h : s0.OnlyEngine s)  : s0.OnlyEngine (State.clearRing s) := by
  unfold State.clearRing
  with_reducible repeat' first
    | intro _ | assumption | apply allToReset_engine | apply ite_of | apply foldl_of | apply foldl_snd_of
    | apply foldl_fst_of | extract_lets | split | simp only [onlyEngine_mk_iff]
    | simp +zetaDelta only [onlyEngine_mk_iff]

theorem State.failSlices_engine {s0 s : State} (h : s0.OnlyEngine s) (map : Word) : s0.OnlyEngine
    (State.failSlices s map) := by
  unfold State.failSlices
  with_reducible repeat' first
    | intro _ | assumption | apply wr_engine | apply putB_engine | apply ite_of | apply foldl_of
    | apply foldl_snd_of | apply foldl_fst_of | extract_lets | split | simp only [onlyEngine_mk_iff]
    | simp +zetaDelta only [onlyEngine_mk_iff]

theorem State.zeroCells_engine {s0 s : State} (h : s0.OnlyEngine s) (sl : Nat) : s0.OnlyEngine
    (State.zeroCells s sl) := by
  unfold State.zeroCells
  with_reducible repeat' first
    | intro _ | assumption | apply wipeSlice_engine | apply ite_of | apply foldl_of | apply foldl_snd_of
    | apply foldl_fst_of | extract_lets | split | simp only [onlyEngine_mk_iff]
    | simp +zetaDelta only [onlyEngine_mk_iff]

theorem State.recordBist_engine {s0 s : State} (h : s0.OnlyEngine s) (faults : List BistFault) : s0.OnlyEngine
    (State.recordBist s faults) := by
  unfold State.recordBist
  with_reducible repeat' first
    | intro _ | assumption | apply ite_of | apply foldl_of | apply foldl_snd_of | apply foldl_fst_of
    | extract_lets | split | simp only [onlyEngine_mk_iff] | simp +zetaDelta only [onlyEngine_mk_iff]

theorem State.bistUpdate_engine {s0 s : State} (h : s0.OnlyEngine s) (v : BitVec 80) : s0.OnlyEngine
    (State.bistUpdate s v) := by
  unfold State.bistUpdate
  with_reducible repeat' first
    | intro _ | assumption | apply ite_of | apply foldl_of | apply foldl_snd_of | apply foldl_fst_of
    | extract_lets | split | simp only [onlyEngine_mk_iff] | simp +zetaDelta only [onlyEngine_mk_iff]

theorem State.repairFault_engine {s0 s : State} (h : s0.OnlyEngine s) (f : BistFault) : s0.OnlyEngine
    (State.repairFault s f) := by
  unfold State.repairFault
  with_reducible repeat' first
    | intro _ | assumption | apply addRow_engine | apply putGroup_engine | apply ite_of | apply foldl_of
    | apply foldl_snd_of | apply foldl_fst_of | extract_lets | split | simp only [onlyEngine_mk_iff]
    | simp +zetaDelta only [onlyEngine_mk_iff]

theorem State.repairAll_engine {s0 s : State} (h : s0.OnlyEngine s) (fs : List BistFault) : s0.OnlyEngine
    (State.repairAll s fs) := by
  unfold State.repairAll
  with_reducible repeat' first
    | intro _ | assumption | apply repairFault_engine | apply takeSpareBank_engine | apply ite_of | apply foldl_of
    | apply foldl_snd_of | apply foldl_fst_of | extract_lets | split | simp only [onlyEngine_mk_iff]
    | simp +zetaDelta only [onlyEngine_mk_iff]

theorem State.comparePort_engine {s0 s : State} (h : s0.OnlyEngine s) (sl p : Nat) : s0.OnlyEngine
    (State.comparePort s sl p) := by
  unfold State.comparePort
  with_reducible repeat' first
    | intro _ | assumption | apply putF_engine | apply putB_engine | apply ite_of | apply foldl_of
    | apply foldl_snd_of | apply foldl_fst_of | extract_lets | split | simp only [onlyEngine_mk_iff]
    | simp +zetaDelta only [onlyEngine_mk_iff]

theorem State.orphans_engine {s0 s : State} (h : s0.OnlyEngine s) (mine : Origin → Nat → Bool) : s0.OnlyEngine
    (State.orphans s mine) := by
  unfold State.orphans
  with_reducible repeat' first
    | intro _ | assumption | apply ite_of | apply foldl_of | apply foldl_snd_of | apply foldl_fst_of
    | extract_lets | split | simp only [onlyEngine_mk_iff] | simp +zetaDelta only [onlyEngine_mk_iff]

theorem State.modKill_engine {s0 s : State} (h : s0.OnlyEngine s) (c : Nat) (f : Kill → Kill) : s0.OnlyEngine
    (State.modKill s c f) := by
  unfold State.modKill
  with_reducible repeat' first
    | intro _ | assumption | apply ite_of | apply foldl_of | apply foldl_snd_of | apply foldl_fst_of
    | extract_lets | split | simp only [onlyEngine_mk_iff] | simp +zetaDelta only [onlyEngine_mk_iff]

theorem State.storeKill_engine {r0 s : State} (h : r0.OnlyEngine s) (s0 : State) (v : Word) (ctx : Nat)
    : r0.OnlyEngine (State.storeKill s s0 v ctx) := by
  unfold State.storeKill
  with_reducible repeat' first
    | intro _ | assumption | apply refuseCfg_engine | apply pass_engine | apply beginKill_engine
    | apply each_engine | apply ite_of | apply foldl_of | apply foldl_snd_of | apply foldl_fst_of | extract_lets
    | split | simp only [onlyEngine_mk_iff] | simp +zetaDelta only [onlyEngine_mk_iff]

theorem State.killSlot_engine {s0 s : State} (h : s0.OnlyEngine s) (sl j : Nat) : s0.OnlyEngine
    (State.killSlot s sl j) := by
  unfold State.killSlot
  with_reducible repeat' first
    | intro _ | assumption | apply modSlot_engine | apply stopSlot_engine | apply setSlotState_engine
    | apply stopEnds_engine | apply ite_of | apply foldl_of | apply foldl_snd_of | apply foldl_fst_of
    | extract_lets | split | simp only [onlyEngine_mk_iff] | simp +zetaDelta only [onlyEngine_mk_iff]

theorem State.killPairs_engine {s0 s : State} (h : s0.OnlyEngine s) (sl c : Nat) : s0.OnlyEngine
    (State.killPairs s sl c) := by
  unfold State.killPairs
  with_reducible repeat' first
    | intro _ | assumption | apply allToReset_engine | apply ite_of | apply foldl_of | apply foldl_snd_of
    | apply foldl_fst_of | extract_lets | split | simp only [onlyEngine_mk_iff]
    | simp +zetaDelta only [onlyEngine_mk_iff]

theorem State.dropStrokes_engine {s0 s : State} (h : s0.OnlyEngine s) (c : Nat) : s0.OnlyEngine
    (State.dropStrokes s c) := by
  unfold State.dropStrokes
  with_reducible repeat' first
    | intro _ | assumption | apply ite_of | apply foldl_of | apply foldl_snd_of | apply foldl_fst_of
    | extract_lets | split | simp only [onlyEngine_mk_iff] | simp +zetaDelta only [onlyEngine_mk_iff]

theorem State.killComplete_engine {s0 s : State} (h : s0.OnlyEngine s) (c : Nat) : s0.OnlyEngine
    (State.killComplete s c) := by
  unfold State.killComplete
  with_reducible repeat' first
    | intro _ | assumption | apply pass_engine | apply each_engine | apply boundaryIn_engine | apply wr_engine
    | apply putF_engine | apply putB_engine | apply ite_of | apply foldl_of | apply foldl_snd_of
    | apply foldl_fst_of | extract_lets | split | simp only [onlyEngine_mk_iff]
    | simp +zetaDelta only [onlyEngine_mk_iff]

theorem State.soloPause_engine {s0 s : State} (h : s0.OnlyEngine s) (c : Nat) : s0.OnlyEngine (State.soloPause s c)
    := by
  unfold State.soloPause
  with_reducible repeat' first
    | intro _ | assumption | apply each_engine | apply putF_engine | apply ctxPauses_engine | apply putB_engine
    | apply ite_of | apply foldl_of | apply foldl_snd_of | apply foldl_fst_of | extract_lets | split
    | simp only [onlyEngine_mk_iff] | simp +zetaDelta only [onlyEngine_mk_iff]

theorem State.resetSaves_engine {s0 s : State} (h : s0.OnlyEngine s) (u : UnitReset) : s0.OnlyEngine
    (State.resetSaves s u) := by
  unfold State.resetSaves
  with_reducible repeat' first
    | intro _ | assumption | apply each_engine | apply resetSave_engine | apply ite_of | apply foldl_of
    | apply foldl_snd_of | apply foldl_fst_of | extract_lets | split | simp only [onlyEngine_mk_iff]
    | simp +zetaDelta only [onlyEngine_mk_iff]

theorem State.storeSemOp_engine {s0 s : State} (h : s0.OnlyEngine s) (sl : Nat) (v : Word) : s0.OnlyEngine
    (State.storeSemOp s sl v) := by
  unfold State.storeSemOp
  with_reducible repeat' first
    | intro _ | assumption | apply semTake_engine | apply semSignal_engine | apply ite_of | apply foldl_of
    | apply foldl_snd_of | apply foldl_fst_of | extract_lets | split | simp only [onlyEngine_mk_iff]
    | simp +zetaDelta only [onlyEngine_mk_iff]

theorem State.modPeal_engine {s0 s : State} (h : s0.OnlyEngine s) (id : Nat) (f : Peal → Peal) : s0.OnlyEngine
    (State.modPeal s id f) := by
  unfold State.modPeal
  with_reducible repeat' first
    | intro _ | assumption | apply ite_of | apply foldl_of | apply foldl_snd_of | apply foldl_fst_of
    | extract_lets | split | simp only [onlyEngine_mk_iff] | simp +zetaDelta only [onlyEngine_mk_iff]

theorem State.pealSkip_engine {s0 s : State} (h : s0.OnlyEngine s) (sl : Nat) : s0.OnlyEngine (State.pealSkip s sl)
    := by
  unfold State.pealSkip
  with_reducible repeat' first
    | intro _ | assumption | apply putB_engine | apply ite_of | apply foldl_of | apply foldl_snd_of
    | apply foldl_fst_of | extract_lets | split | simp only [onlyEngine_mk_iff]
    | simp +zetaDelta only [onlyEngine_mk_iff]

theorem State.pealUndone_engine {s0 s : State} (h : s0.OnlyEngine s) (id sl code : Nat) : s0.OnlyEngine
    (State.pealUndone s id sl code) := by
  unfold State.pealUndone
  with_reducible repeat' first
    | intro _ | assumption | apply pealSkip_engine | apply modPeal_engine | apply ite_of | apply foldl_of
    | apply foldl_snd_of | apply foldl_fst_of | extract_lets | split | simp only [onlyEngine_mk_iff]
    | simp +zetaDelta only [onlyEngine_mk_iff]

end Sys2Proof.Machine
end

