-- ==== Sys2Proof/Laws/FrameMem.lean ====
section
/-! SUPPORT. Operations that leave the storage alone (`State.SameMem`). -/

set_option linter.unusedSimpArgs false

namespace Sys2Proof.Machine

open State

theorem State.wr_sameMem {s0 s : State} (h : s0.SameMem s) (a : Nat) (v : Word) : s0.SameMem (State.wr s a v) := by
  unfold State.wr
  with_reducible repeat' first
    | intro _ | assumption | apply ite_of | apply foldl_of | apply foldl_snd_of | apply foldl_fst_of
    | extract_lets | split | simp only [sameMem_mk_iff] | simp +zetaDelta only [sameMem_mk_iff]

theorem State.putF_sameMem {s0 s : State} (h : s0.SameMem s) (a lo n v : Nat) : s0.SameMem (State.putF s a lo n v)
    := by
  unfold State.putF
  with_reducible repeat' first
    | intro _ | assumption | apply wr_sameMem | apply ite_of | apply foldl_of | apply foldl_snd_of
    | apply foldl_fst_of | extract_lets | split | simp only [sameMem_mk_iff]
    | simp +zetaDelta only [sameMem_mk_iff]

theorem State.putB_sameMem {s0 s : State} (h : s0.SameMem s) (a i : Nat) (b : Bool) : s0.SameMem
    (State.putB s a i b) := by
  unfold State.putB
  with_reducible repeat' first
    | intro _ | assumption | apply wr_sameMem | apply ite_of | apply foldl_of | apply foldl_snd_of
    | apply foldl_fst_of | extract_lets | split | simp only [sameMem_mk_iff]
    | simp +zetaDelta only [sameMem_mk_iff]

theorem State.count_sameMem {s0 s : State} (h : s0.SameMem s) (a lo n k : Nat) : s0.SameMem (State.count s a lo n k)
    := by
  unfold State.count
  with_reducible repeat' first
    | intro _ | assumption | apply putF_sameMem | apply ite_of | apply foldl_of | apply foldl_snd_of
    | apply foldl_fst_of | extract_lets | split | simp only [sameMem_mk_iff]
    | simp +zetaDelta only [sameMem_mk_iff]

theorem State.countSat_sameMem {s0 s : State} (h : s0.SameMem s) (a lo n k : Nat) : s0.SameMem
    (State.countSat s a lo n k) := by
  unfold State.countSat
  with_reducible repeat' first
    | intro _ | assumption | apply putF_sameMem | apply ite_of | apply foldl_of | apply foldl_snd_of
    | apply foldl_fst_of | extract_lets | split | simp only [sameMem_mk_iff]
    | simp +zetaDelta only [sameMem_mk_iff]

theorem State.toReset_sameMem {s0 s : State} (h : s0.SameMem s) (a : Nat) : s0.SameMem (State.toReset s a) := by
  unfold State.toReset
  with_reducible repeat' first
    | intro _ | assumption | apply wr_sameMem | apply ite_of | apply foldl_of | apply foldl_snd_of
    | apply foldl_fst_of | extract_lets | split | simp only [sameMem_mk_iff]
    | simp +zetaDelta only [sameMem_mk_iff]

theorem State.allToReset_sameMem {s0 s : State} (h : s0.SameMem s) (l : List Nat) : s0.SameMem
    (State.allToReset s l) := by
  unfold State.allToReset
  with_reducible repeat' first
    | intro _ | assumption | apply toReset_sameMem | apply ite_of | apply foldl_of | apply foldl_snd_of
    | apply foldl_fst_of | extract_lets | split | simp only [sameMem_mk_iff]
    | simp +zetaDelta only [sameMem_mk_iff]

theorem State.setSlice_sameMem {s0 s : State} (h : s0.SameMem s) (sl : Nat) (x : SliceSt) : s0.SameMem
    (State.setSlice s sl x) := by
  unfold State.setSlice
  with_reducible repeat' first
    | intro _ | assumption | apply ite_of | apply foldl_of | apply foldl_snd_of | apply foldl_fst_of
    | extract_lets | split | simp only [sameMem_mk_iff] | simp +zetaDelta only [sameMem_mk_iff]

theorem State.modSlice_sameMem {s0 s : State} (h : s0.SameMem s) (sl : Nat) (f : SliceSt → SliceSt) : s0.SameMem
    (State.modSlice s sl f) := by
  unfold State.modSlice
  with_reducible repeat' first
    | intro _ | assumption | apply setSlice_sameMem | apply ite_of | apply foldl_of | apply foldl_snd_of
    | apply foldl_fst_of | extract_lets | split | simp only [sameMem_mk_iff]
    | simp +zetaDelta only [sameMem_mk_iff]

theorem State.setPort_sameMem {s0 s : State} (h : s0.SameMem s) (sl p : Nat) (x : Port) : s0.SameMem
    (State.setPort s sl p x) := by
  unfold State.setPort
  with_reducible repeat' first
    | intro _ | assumption | apply ite_of | apply foldl_of | apply foldl_snd_of | apply foldl_fst_of
    | extract_lets | split | simp only [sameMem_mk_iff] | simp +zetaDelta only [sameMem_mk_iff]

theorem State.modPort_sameMem {s0 s : State} (h : s0.SameMem s) (sl p : Nat) (f : Port → Port) : s0.SameMem
    (State.modPort s sl p f) := by
  unfold State.modPort
  with_reducible repeat' first
    | intro _ | assumption | apply setPort_sameMem | apply ite_of | apply foldl_of | apply foldl_snd_of
    | apply foldl_fst_of | extract_lets | split | simp only [sameMem_mk_iff]
    | simp +zetaDelta only [sameMem_mk_iff]

theorem State.setSlot_sameMem {s0 s : State} (h : s0.SameMem s) (sl j : Nat) (x : Slot) : s0.SameMem
    (State.setSlot s sl j x) := by
  unfold State.setSlot
  with_reducible repeat' first
    | intro _ | assumption | apply ite_of | apply foldl_of | apply foldl_snd_of | apply foldl_fst_of
    | extract_lets | split | simp only [sameMem_mk_iff] | simp +zetaDelta only [sameMem_mk_iff]

theorem State.modSlot_sameMem {s0 s : State} (h : s0.SameMem s) (sl j : Nat) (f : Slot → Slot) : s0.SameMem
    (State.modSlot s sl j f) := by
  unfold State.modSlot
  with_reducible repeat' first
    | intro _ | assumption | apply setSlot_sameMem | apply ite_of | apply foldl_of | apply foldl_snd_of
    | apply foldl_fst_of | extract_lets | split | simp only [sameMem_mk_iff]
    | simp +zetaDelta only [sameMem_mk_iff]

theorem State.when_sameMem {s0 s : State} (h : s0.SameMem s) (c : Bool) (t : State) (ht : s0.SameMem t) : s0.SameMem
    (State.when s c t) := by
  unfold State.when
  with_reducible repeat' first
    | intro _ | assumption | apply ite_of | apply foldl_of | apply foldl_snd_of | apply foldl_fst_of
    | extract_lets | split | simp only [sameMem_mk_iff] | simp +zetaDelta only [sameMem_mk_iff]

theorem State.pass_sameMem {s0 s : State} (h : s0.SameMem s) (n : Nat) : s0.SameMem (State.pass s n) := by
  unfold State.pass
  with_reducible repeat' first
    | intro _ | assumption | apply ite_of | apply foldl_of | apply foldl_snd_of | apply foldl_fst_of
    | extract_lets | split | simp only [sameMem_mk_iff] | simp +zetaDelta only [sameMem_mk_iff]

theorem State.reach_sameMem {s0 s : State} (h : s0.SameMem s) (t : Nat) : s0.SameMem (State.reach s t) := by
  unfold State.reach
  with_reducible repeat' first
    | intro _ | assumption | apply pass_sameMem | apply ite_of | apply foldl_of | apply foldl_snd_of
    | apply foldl_fst_of | extract_lets | split | simp only [sameMem_mk_iff]
    | simp +zetaDelta only [sameMem_mk_iff]

theorem State.tick_sameMem {s0 s : State} (h : s0.SameMem s)  : s0.SameMem (State.tick s) := by
  unfold State.tick
  with_reducible repeat' first
    | intro _ | assumption | apply pass_sameMem | apply ite_of | apply foldl_of | apply foldl_snd_of
    | apply foldl_fst_of | extract_lets | split | simp only [sameMem_mk_iff]
    | simp +zetaDelta only [sameMem_mk_iff]

theorem State.raiseIrq_sameMem {s0 s : State} (h : s0.SameMem s) (i : Nat) : s0.SameMem (State.raiseIrq s i) := by
  unfold State.raiseIrq
  with_reducible repeat' first
    | intro _ | assumption | apply putB_sameMem | apply ite_of | apply foldl_of | apply foldl_snd_of
    | apply foldl_fst_of | extract_lets | split | simp only [sameMem_mk_iff]
    | simp +zetaDelta only [sameMem_mk_iff]

theorem State.flushSlice_sameMem {s0 s : State} (h : s0.SameMem s) (sl : Nat) : s0.SameMem (State.flushSlice s sl)
    := by
  unfold State.flushSlice
  with_reducible repeat' first
    | intro _ | assumption | apply modSlice_sameMem | apply ite_of | apply foldl_of | apply foldl_snd_of
    | apply foldl_fst_of | extract_lets | split | simp only [sameMem_mk_iff]
    | simp +zetaDelta only [sameMem_mk_iff]

theorem State.pushRec_sameMem {s0 s : State} (h : s0.SameMem s) (sl : Nat) (r : ErrRec) : s0.SameMem
    (State.pushRec s sl r) := by
  unfold State.pushRec
  with_reducible repeat' first
    | intro _ | assumption | apply count_sameMem | apply modSlice_sameMem | apply flushSlice_sameMem
    | apply ite_of | apply foldl_of | apply foldl_snd_of | apply foldl_fst_of | extract_lets | split
    | simp only [sameMem_mk_iff] | simp +zetaDelta only [sameMem_mk_iff]

theorem State.sliceRec_sameMem {s0 s : State} (h : s0.SameMem s) (sl code aux : Nat) (slot : Option Nat) (ctx cls
    : Nat) (detail : Word) : s0.SameMem (State.sliceRec s sl code aux slot ctx cls detail) := by
  unfold State.sliceRec
  with_reducible repeat' first
    | intro _ | assumption | apply pushRec_sameMem | apply ite_of | apply foldl_of | apply foldl_snd_of
    | apply foldl_fst_of | extract_lets | split | simp only [sameMem_mk_iff]
    | simp +zetaDelta only [sameMem_mk_iff]

theorem State.globalRec_sameMem {s0 s : State} (h : s0.SameMem s) (code aux ctx : Nat) (detail : Word) : s0.SameMem
    (State.globalRec s code aux ctx detail) := by
  unfold State.globalRec
  with_reducible repeat' first
    | intro _ | assumption | apply ite_of | apply foldl_of | apply foldl_snd_of | apply foldl_fst_of
    | extract_lets | split | simp only [sameMem_mk_iff] | simp +zetaDelta only [sameMem_mk_iff]

theorem State.refuseCfg_sameMem {s0 s : State} (h : s0.SameMem s) (a ctx : Nat) : s0.SameMem
    (State.refuseCfg s a ctx) := by
  unfold State.refuseCfg
  with_reducible repeat' first
    | intro _ | assumption | apply sliceRec_sameMem | apply globalRec_sameMem | apply ite_of | apply foldl_of
    | apply foldl_snd_of | apply foldl_fst_of | extract_lets | split | simp only [sameMem_mk_iff]
    | simp +zetaDelta only [sameMem_mk_iff]

theorem State.each_sameMem {s0 s : State} (h : s0.SameMem s) (l : List Nat) (f : State → Nat → State) (hf : ∀ (t
    : State) (y : Nat), s0.SameMem t → s0.SameMem (f t y)) : s0.SameMem (State.each s l f) := by
  unfold State.each
  with_reducible repeat' first
    | intro _ | assumption | apply ite_of | apply foldl_of | apply foldl_snd_of | apply foldl_fst_of
    | extract_lets | split | simp only [sameMem_mk_iff] | simp +zetaDelta only [sameMem_mk_iff] | apply hf

theorem State.freeDraw_sameMem {s0 s : State} (h : s0.SameMem s)  : s0.SameMem (State.freeDraw s).2 := by
  unfold State.freeDraw
  with_reducible repeat' first
    | intro _ | assumption | apply ite_of | apply foldl_of | apply foldl_snd_of | apply foldl_fst_of
    | extract_lets | split | simp only [sameMem_mk_iff] | simp +zetaDelta only [sameMem_mk_iff]

theorem State.recordCe_sameMem {s0 s : State} (h : s0.SameMem s) (sl aux ctx cls : Nat) (detail : Word) : s0.SameMem
    (State.recordCe s sl aux ctx cls detail) := by
  unfold State.recordCe
  with_reducible repeat' first
    | intro _ | assumption | apply modSlice_sameMem | apply pushRec_sameMem | apply ite_of | apply foldl_of
    | apply foldl_snd_of | apply foldl_fst_of | extract_lets | split | simp only [sameMem_mk_iff]
    | simp +zetaDelta only [sameMem_mk_iff]

theorem State.noteVecWord_sameMem {s0 s : State} (h : s0.SameMem s) (sl line w8 ctx cls : Nat) (d : Decoded) :
    s0.SameMem (State.noteVecWord s sl line w8 ctx cls d) := by
  unfold State.noteVecWord
  with_reducible repeat' first
    | intro _ | assumption | apply recordCe_sameMem | apply sliceRec_sameMem | apply ite_of | apply foldl_of
    | apply foldl_snd_of | apply foldl_fst_of | extract_lets | split | simp only [sameMem_mk_iff]
    | simp +zetaDelta only [sameMem_mk_iff]

theorem State.putGolden_sameMem {s0 s : State} (h : s0.SameMem s) (r inst : Nat) (v : BitVec 32) : s0.SameMem
    (State.putGolden s r inst v) := by
  unfold State.putGolden
  with_reducible repeat' first
    | intro _ | assumption | apply ite_of | apply foldl_of | apply foldl_snd_of | apply foldl_fst_of
    | extract_lets | split | simp only [sameMem_mk_iff] | simp +zetaDelta only [sameMem_mk_iff]

theorem State.rescan_sameMem {s0 s : State} (h : s0.SameMem s) (r inst : Nat) : s0.SameMem (State.rescan s r inst)
    := by
  unfold State.rescan
  with_reducible repeat' first
    | intro _ | assumption | apply ite_of | apply foldl_of | apply foldl_snd_of | apply foldl_fst_of
    | extract_lets | split | simp only [sameMem_mk_iff] | simp +zetaDelta only [sameMem_mk_iff]

theorem State.moveGolden_sameMem {s0 s : State} (h : s0.SameMem s) (r inst : Nat) (d : BitVec 32) : s0.SameMem
    (State.moveGolden s r inst d) := by
  unfold State.moveGolden
  with_reducible repeat' first
    | intro _ | assumption | apply rescan_sameMem | apply putGolden_sameMem | apply ite_of | apply foldl_of
    | apply foldl_snd_of | apply foldl_fst_of | extract_lets | split | simp only [sameMem_mk_iff]
    | simp +zetaDelta only [sameMem_mk_iff]

theorem State.wrCfg_sameMem {s0 s : State} (h : s0.SameMem s) (a : Nat) (v : Word) : s0.SameMem (State.wrCfg s a v)
    := by
  unfold State.wrCfg
  with_reducible repeat' first
    | intro _ | assumption | apply wr_sameMem | apply moveGolden_sameMem | apply ite_of | apply foldl_of
    | apply foldl_snd_of | apply foldl_fst_of | extract_lets | split | simp only [sameMem_mk_iff]
    | simp +zetaDelta only [sameMem_mk_iff]

theorem State.putCfg_sameMem {s0 s : State} (h : s0.SameMem s) (a lo n v : Nat) : s0.SameMem
    (State.putCfg s a lo n v) := by
  unfold State.putCfg
  with_reducible repeat' first
    | intro _ | assumption | apply wrCfg_sameMem | apply ite_of | apply foldl_of | apply foldl_snd_of
    | apply foldl_fst_of | extract_lets | split | simp only [sameMem_mk_iff]
    | simp +zetaDelta only [sameMem_mk_iff]

theorem State.moveRepair_sameMem {s0 s : State} (h : s0.SameMem s) (s₀ : State) (sl : Nat) (hs₀ : s0.SameMem s₀) :
    s0.SameMem (State.moveRepair s s₀ sl) := by
  unfold State.moveRepair
  with_reducible repeat' first
    | intro _ | assumption | apply moveGolden_sameMem | apply ite_of | apply foldl_of | apply foldl_snd_of
    | apply foldl_fst_of | extract_lets | split | simp only [sameMem_mk_iff]
    | simp +zetaDelta only [sameMem_mk_iff]

theorem State.commitGolden_sameMem {s0 s : State} (h : s0.SameMem s) (r inst : Nat) : s0.SameMem
    (State.commitGolden s r inst) := by
  unfold State.commitGolden
  with_reducible repeat' first
    | intro _ | assumption | apply putGolden_sameMem | apply ite_of | apply foldl_of | apply foldl_snd_of
    | apply foldl_fst_of | extract_lets | split | simp only [sameMem_mk_iff]
    | simp +zetaDelta only [sameMem_mk_iff]

theorem State.instReset_sameMem {s0 s : State} (h : s0.SameMem s) (r inst : Nat) : s0.SameMem
    (State.instReset s r inst) := by
  unfold State.instReset
  with_reducible repeat' first
    | intro _ | assumption | apply putGolden_sameMem | apply ite_of | apply foldl_of | apply foldl_snd_of
    | apply foldl_fst_of | extract_lets | split | simp only [sameMem_mk_iff]
    | simp +zetaDelta only [sameMem_mk_iff]

theorem State.guardAdvance_sameMem {s0 s : State} (hs : s0.SameMem s) (sl h : Nat) (e : HEntry) (write : Bool) (o
    : Nat) : s0.SameMem (State.guardAdvance s sl h e write o) := by
  unfold State.guardAdvance
  with_reducible repeat' first
    | intro _ | assumption | apply count_sameMem | apply putF_sameMem | apply modSlice_sameMem | apply ite_of
    | apply foldl_of | apply foldl_snd_of | apply foldl_fst_of | extract_lets | split | simp only [sameMem_mk_iff]
    | simp +zetaDelta only [sameMem_mk_iff]

theorem State.bindGuard_sameMem {s0 s : State} (hs : s0.SameMem s) (h : Nat) : s0.SameMem (State.bindGuard s h)
    := by
  unfold State.bindGuard
  with_reducible repeat' first
    | intro _ | assumption | apply each_sameMem | apply wr_sameMem | apply putB_sameMem | apply putF_sameMem
    | apply refuseCfg_sameMem | apply ite_of | apply foldl_of | apply foldl_snd_of | apply foldl_fst_of
    | extract_lets | split | simp only [sameMem_mk_iff] | simp +zetaDelta only [sameMem_mk_iff]

theorem State.claveSignal_sameMem {s0 s : State} (h : s0.SameMem s) (sl pair : Nat) (room : Bool) (n : Nat) :
    s0.SameMem (State.claveSignal s sl pair room n) := by
  unfold State.claveSignal
  with_reducible repeat' first
    | intro _ | assumption | apply putF_sameMem | apply putB_sameMem | apply modSlice_sameMem | apply ite_of
    | apply foldl_of | apply foldl_snd_of | apply foldl_fst_of | extract_lets | split | simp only [sameMem_mk_iff]
    | simp +zetaDelta only [sameMem_mk_iff]

theorem State.claveTime_sameMem {s0 s : State} (h : s0.SameMem s) (sl pair : Nat) : s0.SameMem
    (State.claveTime s sl pair) := by
  unfold State.claveTime
  with_reducible repeat' first
    | intro _ | assumption | apply pass_sameMem | apply ite_of | apply foldl_of | apply foldl_snd_of
    | apply foldl_fst_of | extract_lets | split | simp only [sameMem_mk_iff]
    | simp +zetaDelta only [sameMem_mk_iff]

theorem State.claveTake_sameMem {s0 s : State} (h : s0.SameMem s) (sl pair : Nat) (room : Bool) (n : Nat) :
    s0.SameMem (State.claveTake s sl pair room n).2 := by
  unfold State.claveTake
  with_reducible repeat' first
    | intro _ | assumption | apply putF_sameMem | apply ite_of | apply foldl_of | apply foldl_snd_of
    | apply foldl_fst_of | extract_lets | split | simp only [sameMem_mk_iff]
    | simp +zetaDelta only [sameMem_mk_iff]

theorem State.countOutput_sameMem {s0 s : State} (h : s0.SameMem s) (p : (Nat × Nat) × Nat) (flits : Nat) :
    s0.SameMem (State.countOutput s p flits) := by
  unfold State.countOutput
  with_reducible repeat' first
    | intro _ | assumption | apply count_sameMem | apply ite_of | apply foldl_of | apply foldl_snd_of
    | apply foldl_fst_of | extract_lets | split | simp only [sameMem_mk_iff]
    | simp +zetaDelta only [sameMem_mk_iff]

theorem State.monitor_sameMem {s0 s : State} (h : s0.SameMem s) (sl cls lat : Nat) : s0.SameMem
    (State.monitor s sl cls lat) := by
  unfold State.monitor
  with_reducible repeat' first
    | intro _ | assumption | apply putF_sameMem | apply countSat_sameMem | apply putB_sameMem
    | apply raiseIrq_sameMem | apply ite_of | apply foldl_of | apply foldl_snd_of | apply foldl_fst_of
    | extract_lets | split | simp only [sameMem_mk_iff] | simp +zetaDelta only [sameMem_mk_iff]

theorem State.queueKnell_sameMem {s0 s : State} (h : s0.SameMem s) (job reason : Nat) : s0.SameMem
    (State.queueKnell s job reason) := by
  unfold State.queueKnell
  with_reducible repeat' first
    | intro _ | assumption | apply ite_of | apply foldl_of | apply foldl_snd_of | apply foldl_fst_of
    | extract_lets | split | simp only [sameMem_mk_iff] | simp +zetaDelta only [sameMem_mk_iff]

theorem State.killK1_sameMem {s0 s : State} (h : s0.SameMem s) (c : Nat) (byKnell : Bool) : s0.SameMem
    (State.killK1 s c byKnell) := by
  unfold State.killK1
  with_reducible repeat' first
    | intro _ | assumption | apply putF_sameMem | apply queueKnell_sameMem | apply ite_of | apply foldl_of
    | apply foldl_snd_of | apply foldl_fst_of | extract_lets | split | simp only [sameMem_mk_iff]
    | simp +zetaDelta only [sameMem_mk_iff]

theorem State.beginKill_sameMem {s0 s : State} (h : s0.SameMem s) (c : Nat) (byKnell : Bool) : s0.SameMem
    (State.beginKill s c byKnell) := by
  unfold State.beginKill
  with_reducible repeat' first
    | intro _ | assumption | apply putB_sameMem | apply killK1_sameMem | apply ite_of | apply foldl_of
    | apply foldl_snd_of | apply foldl_fst_of | extract_lets | split | simp only [sameMem_mk_iff]
    | simp +zetaDelta only [sameMem_mk_iff]

theorem State.killJob_sameMem {s0 s : State} (h : s0.SameMem s) (job : Nat) : s0.SameMem (State.killJob s job) := by
  unfold State.killJob
  with_reducible repeat' first
    | intro _ | assumption | apply each_sameMem | apply beginKill_sameMem | apply ite_of | apply foldl_of
    | apply foldl_snd_of | apply foldl_fst_of | extract_lets | split | simp only [sameMem_mk_iff]
    | simp +zetaDelta only [sameMem_mk_iff]

theorem State.knellOnUe_sameMem {s0 s : State} (h : s0.SameMem s) (c : Nat) : s0.SameMem (State.knellOnUe s c) := by
  unfold State.knellOnUe
  with_reducible repeat' first
    | intro _ | assumption | apply queueKnell_sameMem | apply killJob_sameMem | apply ite_of | apply foldl_of
    | apply foldl_snd_of | apply foldl_fst_of | extract_lets | split | simp only [sameMem_mk_iff]
    | simp +zetaDelta only [sameMem_mk_iff]

theorem State.touchVec_sameMem {s0 s : State} (h : s0.SameMem s) (sl c cls : Nat) (words : List (Nat × Nat)) :
    s0.SameMem (State.touchVec s sl c cls words) := by
  unfold State.touchVec
  with_reducible repeat' first
    | intro _ | assumption | apply noteVecWord_sameMem | apply knellOnUe_sameMem | apply ite_of | apply foldl_of
    | apply foldl_snd_of | apply foldl_fst_of | extract_lets | split | simp only [sameMem_mk_iff]
    | simp +zetaDelta only [sameMem_mk_iff]

theorem State.setWin_sameMem {s0 s : State} (h : s0.SameMem s) (w v : Nat) : s0.SameMem (State.setWin s w v) := by
  unfold State.setWin
  with_reducible repeat' first
    | intro _ | assumption | apply putF_sameMem | apply ite_of | apply foldl_of | apply foldl_snd_of
    | apply foldl_fst_of | extract_lets | split | simp only [sameMem_mk_iff]
    | simp +zetaDelta only [sameMem_mk_iff]

theorem State.putTag_sameMem {s0 s : State} (h : s0.SameMem s) (w g : Nat) (x : FpTag) : s0.SameMem
    (State.putTag s w g x) := by
  unfold State.putTag
  with_reducible repeat' first
    | intro _ | assumption | apply putF_sameMem | apply ite_of | apply foldl_of | apply foldl_snd_of
    | apply foldl_fst_of | extract_lets | split | simp only [sameMem_mk_iff]
    | simp +zetaDelta only [sameMem_mk_iff]

theorem State.dropTags_sameMem {s0 s : State} (h : s0.SameMem s) (w : Nat) : s0.SameMem (State.dropTags s w) := by
  unfold State.dropTags
  with_reducible repeat' first
    | intro _ | assumption | apply countSat_sameMem | apply putF_sameMem | apply ite_of | apply foldl_of
    | apply foldl_snd_of | apply foldl_fst_of | extract_lets | split | simp only [sameMem_mk_iff]
    | simp +zetaDelta only [sameMem_mk_iff]

theorem State.closeWindow_sameMem {s0 s : State} (h : s0.SameMem s) (w : Nat) : s0.SameMem (State.closeWindow s w)
    := by
  unfold State.closeWindow
  with_reducible repeat' first
    | intro _ | assumption | apply dropTags_sameMem | apply setWin_sameMem | apply ite_of | apply foldl_of
    | apply foldl_snd_of | apply foldl_fst_of | extract_lets | split | simp only [sameMem_mk_iff]
    | simp +zetaDelta only [sameMem_mk_iff]

theorem State.closeWindows_sameMem {s0 s : State} (h : s0.SameMem s) (p : Nat → Bool) : s0.SameMem
    (State.closeWindows s p) := by
  unfold State.closeWindows
  with_reducible repeat' first
    | intro _ | assumption | apply each_sameMem | apply closeWindow_sameMem | apply ite_of | apply foldl_of
    | apply foldl_snd_of | apply foldl_fst_of | extract_lets | split | simp only [sameMem_mk_iff]
    | simp +zetaDelta only [sameMem_mk_iff]

theorem State.fpShow_sameMem {s0 s : State} (h : s0.SameMem s) (p : Packet) : s0.SameMem (State.fpShow s p) := by
  unfold State.fpShow
  with_reducible repeat' first
    | intro _ | assumption | apply ite_of | apply foldl_of | apply foldl_snd_of | apply foldl_fst_of
    | extract_lets | split | simp only [sameMem_mk_iff] | simp +zetaDelta only [sameMem_mk_iff]

theorem State.signalPair_sameMem {s0 s : State} (h : s0.SameMem s) (w : Nat) : s0.SameMem (State.signalPair s w)
    := by
  unfold State.signalPair
  with_reducible repeat' first
    | intro _ | assumption | apply claveSignal_sameMem | apply ite_of | apply foldl_of | apply foldl_snd_of
    | apply foldl_fst_of | extract_lets | split | simp only [sameMem_mk_iff]
    | simp +zetaDelta only [sameMem_mk_iff]

theorem State.tollDone_sameMem {s0 s : State} (h : s0.SameMem s) (p : Packet) (code : Nat) : s0.SameMem
    (State.tollDone s p code).2 := by
  unfold State.tollDone
  with_reducible repeat' first
    | intro _ | assumption | apply putTag_sameMem | apply count_sameMem | apply countSat_sameMem
    | apply signalPair_sameMem | apply raiseIrq_sameMem | apply ite_of | apply foldl_of | apply foldl_snd_of
    | apply foldl_fst_of | extract_lets | split | simp only [sameMem_mk_iff]
    | simp +zetaDelta only [sameMem_mk_iff]

theorem State.arrived_sameMem {s0 s : State} (h : s0.SameMem s) (p : Packet) : s0.SameMem (State.arrived s p) := by
  unfold State.arrived
  with_reducible repeat' first
    | intro _ | assumption | apply putTag_sameMem | apply ite_of | apply foldl_of | apply foldl_snd_of
    | apply foldl_fst_of | extract_lets | split | simp only [sameMem_mk_iff]
    | simp +zetaDelta only [sameMem_mk_iff]

theorem State.fpAnswer_sameMem {s0 s : State} (h : s0.SameMem s) (p : Packet) (code : Nat) (lines : List LineRsp) :
    s0.SameMem (State.fpAnswer s p code lines) := by
  unfold State.fpAnswer
  with_reducible repeat' first
    | intro _ | assumption | apply fpShow_sameMem | apply tollDone_sameMem | apply arrived_sameMem | apply ite_of
    | apply foldl_of | apply foldl_snd_of | apply foldl_fst_of | extract_lets | split | simp only [sameMem_mk_iff]
    | simp +zetaDelta only [sameMem_mk_iff]

theorem State.fpFinish_sameMem {s0 s : State} (h : s0.SameMem s) (id : Nat) : s0.SameMem (State.fpFinish s id) := by
  unfold State.fpFinish
  with_reducible repeat' first
    | intro _ | assumption | apply fpAnswer_sameMem | apply ite_of | apply foldl_of | apply foldl_snd_of
    | apply foldl_fst_of | extract_lets | split | simp only [sameMem_mk_iff]
    | simp +zetaDelta only [sameMem_mk_iff]

theorem State.takeLink_sameMem {s0 s : State} (h : s0.SameMem s) (c o : Nat) (x : Flit) : s0.SameMem
    (State.takeLink s c o x) := by
  unfold State.takeLink
  with_reducible repeat' first
    | intro _ | assumption | apply countOutput_sameMem | apply ite_of | apply foldl_of | apply foldl_snd_of
    | apply foldl_fst_of | extract_lets | split | simp only [sameMem_mk_iff]
    | simp +zetaDelta only [sameMem_mk_iff]

theorem State.breakLink_sameMem {s0 s : State} (h : s0.SameMem s) (o : Nat) : s0.SameMem (State.breakLink s o) := by
  unfold State.breakLink
  with_reducible repeat' first
    | intro _ | assumption | apply count_sameMem | apply ite_of | apply foldl_of | apply foldl_snd_of
    | apply foldl_fst_of | extract_lets | split | simp only [sameMem_mk_iff]
    | simp +zetaDelta only [sameMem_mk_iff]

theorem State.linkStep_sameMem {s0 s : State} (h : s0.SameMem s) (c o : Nat) : s0.SameMem (State.linkStep s c o)
    := by
  unfold State.linkStep
  with_reducible repeat' first
    | intro _ | assumption | apply takeLink_sameMem | apply breakLink_sameMem | apply ite_of | apply foldl_of
    | apply foldl_snd_of | apply foldl_fst_of | extract_lets | split | simp only [sameMem_mk_iff]
    | simp +zetaDelta only [sameMem_mk_iff]

theorem State.joinAck_sameMem {s0 s : State} (h : s0.SameMem s) (a : AckMark) (p : Nat × Nat) (c : Nat) : s0.SameMem
    (State.joinAck s a p c) := by
  unfold State.joinAck
  with_reducible repeat' first
    | intro _ | assumption | apply ite_of | apply foldl_of | apply foldl_snd_of | apply foldl_fst_of
    | extract_lets | split | simp only [sameMem_mk_iff] | simp +zetaDelta only [sameMem_mk_iff]

theorem State.sendAck_sameMem {s0 s : State} (h : s0.SameMem s) (m : Merge) (c : Nat) : s0.SameMem
    (State.sendAck s m c) := by
  unfold State.sendAck
  with_reducible repeat' first
    | intro _ | assumption | apply ite_of | apply foldl_of | apply foldl_snd_of | apply foldl_fst_of
    | extract_lets | split | simp only [sameMem_mk_iff] | simp +zetaDelta only [sameMem_mk_iff]

theorem State.ackStep_sameMem {s0 s : State} (h : s0.SameMem s) (c : Nat) : s0.SameMem (State.ackStep s c) := by
  unfold State.ackStep
  with_reducible repeat' first
    | intro _ | assumption | apply joinAck_sameMem | apply sendAck_sameMem | apply ite_of | apply foldl_of
    | apply foldl_snd_of | apply foldl_fst_of | extract_lets | split | simp only [sameMem_mk_iff]
    | simp +zetaDelta only [sameMem_mk_iff]

theorem State.meshStep_sameMem {s0 s : State} (h : s0.SameMem s)  : s0.SameMem (State.meshStep s) := by
  unfold State.meshStep
  with_reducible repeat' first
    | intro _ | assumption | apply linkStep_sameMem | apply ackStep_sameMem | apply ite_of | apply foldl_of
    | apply foldl_snd_of | apply foldl_fst_of | extract_lets | split | simp only [sameMem_mk_iff]
    | simp +zetaDelta only [sameMem_mk_iff]

theorem State.meshCatch_sameMem {s0 s : State} (h : s0.SameMem s) (k : Nat) : s0.SameMem (State.meshCatch s k) := by
  induction k generalizing s with
  | zero => unfold State.meshCatch; exact h
  | succ k ih =>
    unfold State.meshCatch
    with_reducible repeat' first
      | intro _ | assumption | apply meshStep_sameMem | apply ih | apply ite_of | apply foldl_of
      | apply foldl_snd_of | apply foldl_fst_of | extract_lets | split | simp only [sameMem_mk_iff]
      | simp +zetaDelta only [sameMem_mk_iff]

theorem State.meshNow_sameMem {s0 s : State} (h : s0.SameMem s)  : s0.SameMem (State.meshNow s) := by
  unfold State.meshNow
  with_reducible repeat' first
    | intro _ | assumption | apply meshCatch_sameMem | apply ite_of | apply foldl_of | apply foldl_snd_of
    | apply foldl_fst_of | extract_lets | split | simp only [sameMem_mk_iff]
    | simp +zetaDelta only [sameMem_mk_iff]

theorem State.meshRun_sameMem {s0 s : State} (h : s0.SameMem s) (stop : Net → Option Nat) (k : Nat) {r : Nat × State}
    (e : s.meshRun stop k = some r) : s0.SameMem r.2 := by
  induction k generalizing s with
  | zero => cases e
  | succ k ih =>
    unfold State.meshRun at e
    split at e
    · cases e; exact h
    · split at e
      · cases e
      · exact ih (State.meshStep_sameMem h) e

theorem State.meshEvent_some_sameMem {s0 s t : State} {stop : Net → Option Nat} (e : s.meshEvent stop = some t)
    (h : s0.SameMem s) : s0.SameMem t := by
  obtain ⟨r, hr, rfl⟩ := Option.map_eq_some_iff.1 e
  exact State.reach_sameMem (State.meshRun_sameMem h _ _ hr) _

theorem State.meshEvent_sameMem {s0 s : State} (h : s0.SameMem s) (stop : Net → Option Nat) :
    s0.SameMem ((s.meshEvent stop).getD s) := by
  cases e : s.meshEvent stop with
  | none => exact h
  | some t => exact State.meshEvent_some_sameMem e h

theorem State.launch_sameMem {s0 s : State} (h : s0.SameMem s) (src : Nat) (dsts : List Nat) (response : Bool)
    (cls flits burst : Nat) (last : Bool) (at' gap : Nat) : s0.SameMem
    (State.launch s src dsts response cls flits burst last at' gap).2 := by
  unfold State.launch
  with_reducible repeat' first
    | intro _ | assumption | apply ite_of | apply foldl_of | apply foldl_snd_of | apply foldl_fst_of
    | extract_lets | split | simp only [sameMem_mk_iff] | simp +zetaDelta only [sameMem_mk_iff]

theorem State.portProgress_sameMem {s0 s : State} (h : s0.SameMem s) (c code : Nat) : s0.SameMem
    (State.portProgress s c code) := by
  unfold State.portProgress
  with_reducible repeat' first
    | intro _ | assumption | apply count_sameMem | apply ite_of | apply foldl_of | apply foldl_snd_of
    | apply foldl_fst_of | extract_lets | split | simp only [sameMem_mk_iff]
    | simp +zetaDelta only [sameMem_mk_iff]

theorem State.lateResponse_sameMem {s0 s : State} (h : s0.SameMem s)  : s0.SameMem (State.lateResponse s) := by
  unfold State.lateResponse
  with_reducible repeat' first
    | intro _ | assumption | apply count_sameMem | apply ite_of | apply foldl_of | apply foldl_snd_of
    | apply foldl_fst_of | extract_lets | split | simp only [sameMem_mk_iff]
    | simp +zetaDelta only [sameMem_mk_iff]

theorem State.deliver_sameMem {s0 s : State} (h : s0.SameMem s) (r : Resp) : s0.SameMem (State.deliver s r) := by
  unfold State.deliver
  with_reducible repeat' first
    | intro _ | assumption | apply lateResponse_sameMem | apply modPort_sameMem | apply modSlot_sameMem
    | apply monitor_sameMem | apply wr_sameMem | apply fpFinish_sameMem | apply ite_of | apply foldl_of
    | apply foldl_snd_of | apply foldl_fst_of | extract_lets | split | simp only [sameMem_mk_iff]
    | simp +zetaDelta only [sameMem_mk_iff]

theorem State.portAnswer_sameMem {s0 s : State} (h : s0.SameMem s) (sl p : Nat) (r : Resp) : s0.SameMem
    (State.portAnswer s sl p r) := by
  unfold State.portAnswer
  with_reducible repeat' first
    | intro _ | assumption | apply modPort_sameMem | apply monitor_sameMem | apply ite_of | apply foldl_of
    | apply foldl_snd_of | apply foldl_fst_of | extract_lets | split | simp only [sameMem_mk_iff]
    | simp +zetaDelta only [sameMem_mk_iff]

theorem State.sendRsp_sameMem {s0 s : State} (h : s0.SameMem s) (src dst sent flits burst : Nat) (last : Bool) (r
    : Resp) : s0.SameMem (State.sendRsp s src dst sent flits burst last r) := by
  unfold State.sendRsp
  with_reducible repeat' first
    | intro _ | assumption | apply launch_sameMem | apply ite_of | apply foldl_of | apply foldl_snd_of
    | apply foldl_fst_of | extract_lets | split | simp only [sameMem_mk_iff]
    | simp +zetaDelta only [sameMem_mk_iff]

theorem State.answer_sameMem {s0 s : State} (h : s0.SameMem s) (sl : Nat) (q : Req) (code : Nat) (lines
    : List LineRsp) (clave : Option Word) (issue : Nat) : s0.SameMem (State.answer s sl q code lines clave issue)
    := by
  unfold State.answer
  with_reducible repeat' first
    | intro _ | assumption | apply portAnswer_sameMem | apply sendRsp_sameMem | apply deliver_sameMem
    | apply ite_of | apply foldl_of | apply foldl_snd_of | apply foldl_fst_of | extract_lets | split
    | simp only [sameMem_mk_iff] | simp +zetaDelta only [sameMem_mk_iff]

theorem State.sendPktAt_sameMem {s0 s : State} (h : s0.SameMem s) (src : Nat) (q : Req) (at' gap : Nat) : s0.SameMem
    (State.sendPktAt s src q at' gap) := by
  unfold State.sendPktAt
  with_reducible repeat' first
    | intro _ | assumption | apply launch_sameMem | apply ite_of | apply foldl_of | apply foldl_snd_of
    | apply foldl_fst_of | extract_lets | split | simp only [sameMem_mk_iff]
    | simp +zetaDelta only [sameMem_mk_iff]

theorem State.launchOut_sameMem {s0 s : State} (h : s0.SameMem s) (sl cls flits : Nat) : s0.SameMem
    (State.launchOut s sl cls flits) := by
  unfold State.launchOut
  with_reducible repeat' first
    | intro _ | assumption | apply launch_sameMem | apply ite_of | apply foldl_of | apply foldl_snd_of
    | apply foldl_fst_of | extract_lets | split | simp only [sameMem_mk_iff]
    | simp +zetaDelta only [sameMem_mk_iff]

theorem State.sendPkt_sameMem {s0 s : State} (h : s0.SameMem s) (src : Nat) (q : Req) : s0.SameMem
    (State.sendPkt s src q) := by
  unfold State.sendPkt
  with_reducible repeat' first
    | intro _ | assumption | apply sendPktAt_sameMem | apply ite_of | apply foldl_of | apply foldl_snd_of
    | apply foldl_fst_of | extract_lets | split | simp only [sameMem_mk_iff]
    | simp +zetaDelta only [sameMem_mk_iff]

theorem State.sendParts_sameMem {s0 s : State} (h : s0.SameMem s) (rs : List Req) : s0.SameMem
    (State.sendParts s rs) := by
  unfold State.sendParts
  with_reducible repeat' first
    | intro _ | assumption | apply sendPktAt_sameMem | apply ite_of | apply foldl_of | apply foldl_snd_of
    | apply foldl_fst_of | extract_lets | split | simp only [sameMem_mk_iff]
    | simp +zetaDelta only [sameMem_mk_iff]

theorem State.setSlotState_sameMem {s0 s : State} (h : s0.SameMem s) (sl j v : Nat) : s0.SameMem
    (State.setSlotState s sl j v) := by
  unfold State.setSlotState
  with_reducible repeat' first
    | intro _ | assumption | apply putF_sameMem | apply raiseIrq_sameMem | apply putB_sameMem | apply ite_of
    | apply foldl_of | apply foldl_snd_of | apply foldl_fst_of | extract_lets | split | simp only [sameMem_mk_iff]
    | simp +zetaDelta only [sameMem_mk_iff]

theorem State.setDone_sameMem {s0 s : State} (h : s0.SameMem s) (sl j : Nat) : s0.SameMem (State.setDone s sl j)
    := by
  unfold State.setDone
  with_reducible repeat' first
    | intro _ | assumption | apply putB_sameMem | apply raiseIrq_sameMem | apply ite_of | apply foldl_of
    | apply foldl_snd_of | apply foldl_fst_of | extract_lets | split | simp only [sameMem_mk_iff]
    | simp +zetaDelta only [sameMem_mk_iff]

theorem State.putMirror_sameMem {s0 s : State} (hs : s0.SameMem s) (sl h w : Nat) (v : Word) : s0.SameMem
    (State.putMirror s sl h w v) := by
  unfold State.putMirror
  with_reducible repeat' first
    | intro _ | assumption | apply moveGolden_sameMem | apply ite_of | apply foldl_of | apply foldl_snd_of
    | apply foldl_fst_of | extract_lets | split | simp only [sameMem_mk_iff]
    | simp +zetaDelta only [sameMem_mk_iff]

theorem State.handleEffect_sameMem {s0 s : State} (hs : s0.SameMem s) (h : Nat) : s0.SameMem
    (State.handleEffect s h) := by
  unfold State.handleEffect
  with_reducible repeat' first
    | intro _ | assumption | apply each_sameMem | apply putMirror_sameMem | apply putB_sameMem
    | apply bindGuard_sameMem | apply ite_of | apply foldl_of | apply foldl_snd_of | apply foldl_fst_of
    | extract_lets | split | simp only [sameMem_mk_iff] | simp +zetaDelta only [sameMem_mk_iff]

theorem State.effectReady_sameMem {s0 s : State} (h : s0.SameMem s)  : s0.SameMem (State.effectReady s) := by
  unfold State.effectReady
  with_reducible repeat' first
    | intro _ | assumption | apply handleEffect_sameMem | apply ite_of | apply foldl_of | apply foldl_snd_of
    | apply foldl_fst_of | extract_lets | split | simp only [sameMem_mk_iff]
    | simp +zetaDelta only [sameMem_mk_iff]

theorem State.setSlicePower_sameMem {s0 s : State} (h : s0.SameMem s) (sl v : Nat) : s0.SameMem
    (State.setSlicePower s sl v) := by
  unfold State.setSlicePower
  with_reducible repeat' first
    | intro _ | assumption | apply putF_sameMem | apply ite_of | apply foldl_of | apply foldl_snd_of
    | apply foldl_fst_of | extract_lets | split | simp only [sameMem_mk_iff]
    | simp +zetaDelta only [sameMem_mk_iff]

theorem State.setPower_sameMem {s0 s : State} (h : s0.SameMem s) (t : PowerTarget) (v : Nat) : s0.SameMem
    (State.setPower s t v) := by
  unfold State.setPower
  with_reducible repeat' first
    | intro _ | assumption | apply setSlicePower_sameMem | apply putF_sameMem | apply ite_of | apply foldl_of
    | apply foldl_snd_of | apply foldl_fst_of | extract_lets | split | simp only [sameMem_mk_iff]
    | simp +zetaDelta only [sameMem_mk_iff]

theorem State.beginWake_sameMem {s0 s : State} (h : s0.SameMem s) (t : PowerTarget) (cause : Nat) : s0.SameMem
    (State.beginWake s t cause) := by
  unfold State.beginWake
  with_reducible repeat' first
    | intro _ | assumption | apply setPower_sameMem | apply putF_sameMem | apply ite_of | apply foldl_of
    | apply foldl_snd_of | apply foldl_fst_of | extract_lets | split | simp only [sameMem_mk_iff]
    | simp +zetaDelta only [sameMem_mk_iff]

theorem State.wake_sameMem {s0 s : State} (h : s0.SameMem s) (t : PowerTarget) (cause : Nat) : s0.SameMem
    (State.wake s t cause) := by
  unfold State.wake
  with_reducible repeat' first
    | intro _ | assumption | apply beginWake_sameMem | apply ite_of | apply foldl_of | apply foldl_snd_of
    | apply foldl_fst_of | extract_lets | split | simp only [sameMem_mk_iff]
    | simp +zetaDelta only [sameMem_mk_iff]

theorem State.wakeFor_sameMem {s0 s : State} (h : s0.SameMem s) (sl cause : Nat) : s0.SameMem
    (State.wakeFor s sl cause) := by
  unfold State.wakeFor
  with_reducible repeat' first
    | intro _ | assumption | apply wake_sameMem | apply ite_of | apply foldl_of | apply foldl_snd_of
    | apply foldl_fst_of | extract_lets | split | simp only [sameMem_mk_iff]
    | simp +zetaDelta only [sameMem_mk_iff]

theorem State.wakeAll_sameMem {s0 s : State} (h : s0.SameMem s) (cause : Nat) : s0.SameMem (State.wakeAll s cause)
    := by
  unfold State.wakeAll
  with_reducible repeat' first
    | intro _ | assumption | apply wake_sameMem | apply each_sameMem | apply ite_of | apply foldl_of
    | apply foldl_snd_of | apply foldl_fst_of | extract_lets | split | simp only [sameMem_mk_iff]
    | simp +zetaDelta only [sameMem_mk_iff]

theorem State.keepForce_sameMem {s0 s : State} (h : s0.SameMem s) (a : Nat) (m : RegMasks) (old new : Word) :
    s0.SameMem (State.keepForce s a m old new) := by
  unfold State.keepForce
  with_reducible repeat' first
    | intro _ | assumption | apply ite_of | apply foldl_of | apply foldl_snd_of | apply foldl_fst_of
    | extract_lets | split | simp only [sameMem_mk_iff] | simp +zetaDelta only [sameMem_mk_iff]

theorem State.storeReg_sameMem {s0 s : State} (h : s0.SameMem s) (a : Nat) (v : Word) (idle : Bool) (ctx : Nat) :
    s0.SameMem (State.storeReg s a v idle ctx) := by
  unfold State.storeReg
  with_reducible repeat' first
    | intro _ | assumption | apply keepForce_sameMem | apply refuseCfg_sameMem | apply wrCfg_sameMem
    | apply ite_of | apply foldl_of | apply foldl_snd_of | apply foldl_fst_of | extract_lets | split
    | simp only [sameMem_mk_iff] | simp +zetaDelta only [sameMem_mk_iff]

theorem State.refuseWrite_sameMem {s0 s : State} (h : s0.SameMem s) (a : Nat) (v : Word) (ctx : Nat) : s0.SameMem
    (State.refuseWrite s a v ctx) := by
  unfold State.refuseWrite
  with_reducible repeat' first
    | intro _ | assumption | apply refuseCfg_sameMem | apply ite_of | apply foldl_of | apply foldl_snd_of
    | apply foldl_fst_of | extract_lets | split | simp only [sameMem_mk_iff]
    | simp +zetaDelta only [sameMem_mk_iff]

theorem State.csrAccess_sameMem {s0 s : State} (h : s0.SameMem s) (a ctx : Nat) (f : State → State) (hf : ∀ t
    : State, s0.SameMem t → s0.SameMem (f t)) : s0.SameMem (State.csrAccess s a ctx f) := by
  unfold State.csrAccess
  with_reducible repeat' first
    | intro _ | assumption | apply wake_sameMem | apply ite_of | apply foldl_of | apply foldl_snd_of
    | apply foldl_fst_of | extract_lets | split | simp only [sameMem_mk_iff]
    | simp +zetaDelta only [sameMem_mk_iff] | apply hf

theorem State.setPc_sameMem {s0 s : State} (h : s0.SameMem s) (sl j v : Nat) : s0.SameMem (State.setPc s sl j v)
    := by
  unfold State.setPc
  with_reducible repeat' first
    | intro _ | assumption | apply putF_sameMem | apply ite_of | apply foldl_of | apply foldl_snd_of
    | apply foldl_fst_of | extract_lets | split | simp only [sameMem_mk_iff]
    | simp +zetaDelta only [sameMem_mk_iff]

theorem State.nextPc_sameMem {s0 s : State} (h : s0.SameMem s) (sl j : Nat) : s0.SameMem (State.nextPc s sl j) := by
  unfold State.nextPc
  with_reducible repeat' first
    | intro _ | assumption | apply setPc_sameMem | apply ite_of | apply foldl_of | apply foldl_snd_of
    | apply foldl_fst_of | extract_lets | split | simp only [sameMem_mk_iff]
    | simp +zetaDelta only [sameMem_mk_iff]

theorem State.satisfied_sameMem {s0 s : State} (h : s0.SameMem s) (sl j : Nat) : s0.SameMem (State.satisfied s sl j)
    := by
  unfold State.satisfied
  with_reducible repeat' first
    | intro _ | assumption | apply modSlot_sameMem | apply nextPc_sameMem | apply ite_of | apply foldl_of
    | apply foldl_snd_of | apply foldl_fst_of | extract_lets | split | simp only [sameMem_mk_iff]
    | simp +zetaDelta only [sameMem_mk_iff]

theorem State.leadAgain_sameMem {s0 s : State} (h : s0.SameMem s) (sl j : Nat) : s0.SameMem (State.leadAgain s sl j)
    := by
  unfold State.leadAgain
  with_reducible repeat' first
    | intro _ | assumption | apply modSlice_sameMem | apply ite_of | apply foldl_of | apply foldl_snd_of
    | apply foldl_fst_of | extract_lets | split | simp only [sameMem_mk_iff]
    | simp +zetaDelta only [sameMem_mk_iff]

theorem State.beatHeld_sameMem {s0 s : State} (h : s0.SameMem s) (sl j : Nat) : s0.SameMem (State.beatHeld s sl j)
    := by
  unfold State.beatHeld
  with_reducible repeat' first
    | intro _ | assumption | apply satisfied_sameMem | apply leadAgain_sameMem | apply ite_of | apply foldl_of
    | apply foldl_snd_of | apply foldl_fst_of | extract_lets | split | simp only [sameMem_mk_iff]
    | simp +zetaDelta only [sameMem_mk_iff]

theorem State.waitTakes_sameMem {s0 s : State} (h : s0.SameMem s) (sl j pair : Nat) (room : Bool) : s0.SameMem
    (State.waitTakes s sl j pair room) := by
  unfold State.waitTakes
  with_reducible repeat' first
    | intro _ | assumption | apply claveTake_sameMem | apply satisfied_sameMem | apply leadAgain_sameMem
    | apply ite_of | apply foldl_of | apply foldl_snd_of | apply foldl_fst_of | extract_lets | split
    | simp only [sameMem_mk_iff] | simp +zetaDelta only [sameMem_mk_iff]

theorem State.startNow_sameMem {s0 s : State} (h : s0.SameMem s) (sl j : Nat) : s0.SameMem (State.startNow s sl j)
    := by
  unfold State.startNow
  with_reducible repeat' first
    | intro _ | assumption | apply claveTake_sameMem | apply putF_sameMem | apply setSlotState_sameMem
    | apply modSlot_sameMem | apply ite_of | apply foldl_of | apply foldl_snd_of | apply foldl_fst_of
    | extract_lets | split | simp only [sameMem_mk_iff] | simp +zetaDelta only [sameMem_mk_iff]

theorem State.claveStarts_sameMem {s0 s : State} (h : s0.SameMem s) (sl j pair : Nat) : s0.SameMem
    (State.claveStarts s sl j pair) := by
  unfold State.claveStarts
  with_reducible repeat' first
    | intro _ | assumption | apply startNow_sameMem | apply ite_of | apply foldl_of | apply foldl_snd_of
    | apply foldl_fst_of | extract_lets | split | simp only [sameMem_mk_iff]
    | simp +zetaDelta only [sameMem_mk_iff]

theorem State.waitsTake_sameMem {s0 s : State} (h : s0.SameMem s) (sl pair : Nat) (room : Bool) (slots : Nat) :
    s0.SameMem (State.waitsTake s sl pair room slots) := by
  unfold State.waitsTake
  with_reducible repeat' first
    | intro _ | assumption | apply claveTime_sameMem | apply waitTakes_sameMem | apply each_sameMem | apply ite_of
    | apply foldl_of | apply foldl_snd_of | apply foldl_fst_of | extract_lets | split | simp only [sameMem_mk_iff]
    | simp +zetaDelta only [sameMem_mk_iff]

theorem State.blockingTakes_sameMem {s0 s : State} (h : s0.SameMem s) (sl pair : Nat) (room : Bool) : s0.SameMem
    (State.blockingTakes s sl pair room) := by
  unfold State.blockingTakes
  with_reducible repeat' first
    | intro _ | assumption | apply waitsTake_sameMem | apply each_sameMem | apply claveStarts_sameMem
    | apply ite_of | apply foldl_of | apply foldl_snd_of | apply foldl_fst_of | extract_lets | split
    | simp only [sameMem_mk_iff] | simp +zetaDelta only [sameMem_mk_iff]

theorem State.performClave_sameMem {s0 s : State} (h : s0.SameMem s) (sl ctx : Nat) (o : ClaveOp) : s0.SameMem
    (State.performClave s sl ctx o).2.2 := by
  unfold State.performClave
  with_reducible repeat' first
    | intro _ | assumption | apply claveSignal_sameMem | apply blockingTakes_sameMem | apply claveTake_sameMem
    | apply ite_of | apply foldl_of | apply foldl_snd_of | apply foldl_fst_of | extract_lets | split
    | simp only [sameMem_mk_iff] | simp +zetaDelta only [sameMem_mk_iff]

theorem State.beginPeal_sameMem {s0 s : State} (h : s0.SameMem s) (mem : Bool) (off : Nat) (data : Line) (ben
    : ByteEn) (ctx cls : Nat) (tag mirror : Option Nat) : s0.SameMem
    (State.beginPeal s mem off data ben ctx cls tag mirror) := by
  unfold State.beginPeal
  with_reducible repeat' first
    | intro _ | assumption | apply launch_sameMem | apply ite_of | apply foldl_of | apply foldl_snd_of
    | apply foldl_fst_of | extract_lets | split | simp only [sameMem_mk_iff]
    | simp +zetaDelta only [sameMem_mk_iff]

theorem State.setStage_sameMem {s0 s : State} (h : s0.SameMem s) (ctx : Nat) (g : Stage) : s0.SameMem
    (State.setStage s ctx g) := by
  unfold State.setStage
  with_reducible repeat' first
    | intro _ | assumption | apply ite_of | apply foldl_of | apply foldl_snd_of | apply foldl_fst_of
    | extract_lets | split | simp only [sameMem_mk_iff] | simp +zetaDelta only [sameMem_mk_iff]

theorem State.asSystem_sameMem {s0 s : State} (h : s0.SameMem s) (ctx : Nat) (f : State → State) (hf : ∀ t : State,
    s0.SameMem t → s0.SameMem (f t)) : s0.SameMem (State.asSystem s ctx f) := by
  unfold State.asSystem
  with_reducible repeat' first
    | intro _ | assumption | apply ite_of | apply foldl_of | apply foldl_snd_of | apply foldl_fst_of
    | extract_lets | split | simp only [sameMem_mk_iff] | simp +zetaDelta only [sameMem_mk_iff] | apply hf

theorem State.storeStage_sameMem {s0 s : State} (hs : s0.SameMem s) (h w : Nat) (v : Word) (ctx : Nat) : s0.SameMem
    (State.storeStage s h w v ctx) := by
  unfold State.storeStage
  with_reducible repeat' first
    | intro _ | assumption | apply setStage_sameMem | apply ite_of | apply foldl_of | apply foldl_snd_of
    | apply foldl_fst_of | extract_lets | split | simp only [sameMem_mk_iff]
    | simp +zetaDelta only [sameMem_mk_iff]

theorem State.htabStage_sameMem {s0 s : State} (hs : s0.SameMem s) (h w : Nat) (v : Word) (ctx : Nat) : s0.SameMem
    (State.htabStage s h w v ctx) := by
  unfold State.htabStage
  with_reducible repeat' first
    | intro _ | assumption | apply csrAccess_sameMem | apply storeStage_sameMem | apply ite_of | apply foldl_of
    | apply foldl_snd_of | apply foldl_fst_of | extract_lets | split | simp only [sameMem_mk_iff]
    | simp +zetaDelta only [sameMem_mk_iff]

theorem State.feedMirror_sameMem {s0 s : State} (h : s0.SameMem s)  : s0.SameMem (State.feedMirror s) := by
  unfold State.feedMirror
  with_reducible repeat' first
    | intro _ | assumption | apply beginPeal_sameMem | apply ite_of | apply foldl_of | apply foldl_snd_of
    | apply foldl_fst_of | extract_lets | split | simp only [sameMem_mk_iff]
    | simp +zetaDelta only [sameMem_mk_iff]

theorem State.storeCommit_sameMem {s0 s : State} (hs : s0.SameMem s) (h : Nat) (ws : List Word) (ctx : Nat) :
    s0.SameMem (State.storeCommit s h ws ctx) := by
  unfold State.storeCommit
  with_reducible repeat' first
    | intro _ | assumption | apply wrCfg_sameMem | apply putB_sameMem | apply feedMirror_sameMem | apply ite_of
    | apply foldl_of | apply foldl_snd_of | apply foldl_fst_of | extract_lets | split | simp only [sameMem_mk_iff]
    | simp +zetaDelta only [sameMem_mk_iff]

theorem State.acceptEntry_sameMem {r0 s : State} (hs : r0.SameMem s) (s0 : State) (h : Nat) (v : Word) (ctx : Nat)
    : r0.SameMem (State.acceptEntry s s0 h v ctx) := by
  unfold State.acceptEntry
  with_reducible repeat' first
    | intro _ | assumption | apply setStage_sameMem | apply storeCommit_sameMem | apply refuseCfg_sameMem
    | apply ite_of | apply foldl_of | apply foldl_snd_of | apply foldl_fst_of | extract_lets | split
    | simp only [sameMem_mk_iff] | simp +zetaDelta only [sameMem_mk_iff]

theorem State.htabCommit_sameMem {s0 s : State} (hs : s0.SameMem s) (h : Nat) (v : Word) (ctx : Nat) : s0.SameMem
    (State.htabCommit s h v ctx) := by
  unfold State.htabCommit
  with_reducible repeat' first
    | intro _ | assumption | apply csrAccess_sameMem | apply acceptEntry_sameMem | apply ite_of | apply foldl_of
    | apply foldl_snd_of | apply foldl_fst_of | extract_lets | split | simp only [sameMem_mk_iff]
    | simp +zetaDelta only [sameMem_mk_iff]

theorem State.takeEffect_sameMem {s0 s : State} (hs : s0.SameMem s) (h : Nat) : s0.SameMem (State.takeEffect s h)
    := by
  unfold State.takeEffect
  with_reducible repeat' first
    | intro _ | assumption | apply reach_sameMem | apply handleEffect_sameMem | apply ite_of | apply foldl_of
    | apply foldl_snd_of | apply foldl_fst_of | extract_lets | split | simp only [sameMem_mk_iff]
    | simp +zetaDelta only [sameMem_mk_iff]

theorem State.ctxPauses_sameMem {s0 s : State} (h : s0.SameMem s) (c : Nat) : s0.SameMem (State.ctxPauses s c) := by
  unfold State.ctxPauses
  with_reducible repeat' first
    | intro _ | assumption | apply each_sameMem | apply setSlotState_sameMem | apply ite_of | apply foldl_of
    | apply foldl_snd_of | apply foldl_fst_of | extract_lets | split | simp only [sameMem_mk_iff]
    | simp +zetaDelta only [sameMem_mk_iff]

theorem State.ctxContinues_sameMem {s0 s : State} (h : s0.SameMem s) (c : Nat) : s0.SameMem (State.ctxContinues s c)
    := by
  unfold State.ctxContinues
  with_reducible repeat' first
    | intro _ | assumption | apply each_sameMem | apply setSlotState_sameMem | apply beatHeld_sameMem
    | apply ite_of | apply foldl_of | apply foldl_snd_of | apply foldl_fst_of | extract_lets | split
    | simp only [sameMem_mk_iff] | simp +zetaDelta only [sameMem_mk_iff]

theorem State.stepAdvance_sameMem {s0 s : State} (hs : s0.SameMem s) (sl h : Nat) (write : Bool) (offs : List Nat) :
    s0.SameMem (State.stepAdvance s sl h write offs) := by
  unfold State.stepAdvance
  with_reducible repeat' first
    | intro _ | assumption | apply guardAdvance_sameMem | apply ite_of | apply foldl_of | apply foldl_snd_of
    | apply foldl_fst_of | extract_lets | split | simp only [sameMem_mk_iff]
    | simp +zetaDelta only [sameMem_mk_iff]

theorem State.popPort_sameMem {s0 s : State} (h : s0.SameMem s) (sl p : Nat) : s0.SameMem (State.popPort s sl p)
    := by
  unfold State.popPort
  with_reducible repeat' first
    | intro _ | assumption | apply modPort_sameMem | apply ite_of | apply foldl_of | apply foldl_snd_of
    | apply foldl_fst_of | extract_lets | split | simp only [sameMem_mk_iff]
    | simp +zetaDelta only [sameMem_mk_iff]

theorem State.consumeSlot_sameMem {s0 s : State} (h : s0.SameMem s) (sl bset o c : Nat) : s0.SameMem
    (State.consumeSlot s sl bset o c) := by
  unfold State.consumeSlot
  with_reducible repeat' first
    | intro _ | assumption | apply modSlice_sameMem | apply ite_of | apply foldl_of | apply foldl_snd_of
    | apply foldl_fst_of | extract_lets | split | simp only [sameMem_mk_iff]
    | simp +zetaDelta only [sameMem_mk_iff]

theorem State.refuseAt_sameMem {s0 s : State} (h : s0.SameMem s) (sl : Nat) (r : Req) (code c : Nat) : s0.SameMem
    (State.refuseAt s sl r code c) := by
  unfold State.refuseAt
  with_reducible repeat' first
    | intro _ | assumption | apply consumeSlot_sameMem | apply answer_sameMem | apply ite_of | apply foldl_of
    | apply foldl_snd_of | apply foldl_fst_of | extract_lets | split | simp only [sameMem_mk_iff]
    | simp +zetaDelta only [sameMem_mk_iff]

theorem State.portSettle_sameMem {s0 s : State} (h : s0.SameMem s) (sl p t0 lim k : Nat) : s0.SameMem
    (State.portSettle s sl p t0 lim k) := by
  induction k generalizing s with
  | zero => unfold State.portSettle; exact h
  | succ k ih =>
    unfold State.portSettle
    with_reducible repeat' first
      | intro _ | assumption | apply popPort_sameMem | apply answer_sameMem | apply refuseAt_sameMem
      | apply performClave_sameMem | apply modPort_sameMem | apply ih | apply ite_of | apply foldl_of
      | apply foldl_snd_of | apply foldl_fst_of | extract_lets | split | simp only [sameMem_mk_iff]
      | simp +zetaDelta only [sameMem_mk_iff]

theorem State.settlePort_sameMem {s0 s : State} (h : s0.SameMem s) (sl p t0 : Nat) : s0.SameMem
    (State.settlePort s sl p t0) := by
  unfold State.settlePort
  with_reducible repeat' first
    | intro _ | assumption | apply portSettle_sameMem | apply ite_of | apply foldl_of | apply foldl_snd_of
    | apply foldl_fst_of | extract_lets | split | simp only [sameMem_mk_iff]
    | simp +zetaDelta only [sameMem_mk_iff]

theorem State.settlePast_sameMem {s0 s : State} (h : s0.SameMem s) (sl p : Nat) : s0.SameMem
    (State.settlePast s sl p) := by
  unfold State.settlePast
  with_reducible repeat' first
    | intro _ | assumption | apply portSettle_sameMem | apply ite_of | apply foldl_of | apply foldl_snd_of
    | apply foldl_fst_of | extract_lets | split | simp only [sameMem_mk_iff]
    | simp +zetaDelta only [sameMem_mk_iff]

theorem State.settleSlice_sameMem {s0 s : State} (h : s0.SameMem s) (sl t0 : Nat) : s0.SameMem
    (State.settleSlice s sl t0) := by
  unfold State.settleSlice
  with_reducible repeat' first
    | intro _ | assumption | apply each_sameMem | apply settlePort_sameMem | apply ite_of | apply foldl_of
    | apply foldl_snd_of | apply foldl_fst_of | extract_lets | split | simp only [sameMem_mk_iff]
    | simp +zetaDelta only [sameMem_mk_iff]

theorem State.settleBefore_sameMem {s0 s : State} (h : s0.SameMem s) (sl : Nat) : s0.SameMem
    (State.settleBefore s sl) := by
  unfold State.settleBefore
  with_reducible repeat' first
    | intro _ | assumption | apply each_sameMem | apply settlePast_sameMem | apply ite_of | apply foldl_of
    | apply foldl_snd_of | apply foldl_fst_of | extract_lets | split | simp only [sameMem_mk_iff]
    | simp +zetaDelta only [sameMem_mk_iff]

theorem State.settleHome_sameMem {s0 s : State} (h : s0.SameMem s) (sl : Nat) : s0.SameMem (State.settleHome s sl)
    := by
  unfold State.settleHome
  with_reducible repeat' first
    | intro _ | assumption | apply modSlice_sameMem | apply refuseAt_sameMem | apply ite_of | apply foldl_of
    | apply foldl_snd_of | apply foldl_fst_of | extract_lets | split | simp only [sameMem_mk_iff]
    | simp +zetaDelta only [sameMem_mk_iff]

theorem State.settleAll_sameMem {s0 s : State} (h : s0.SameMem s) (sl : Nat) : s0.SameMem (State.settleAll s sl)
    := by
  unfold State.settleAll
  with_reducible repeat' first
    | intro _ | assumption | apply settleSlice_sameMem | apply settleHome_sameMem | apply ite_of | apply foldl_of
    | apply foldl_snd_of | apply foldl_fst_of | extract_lets | split | simp only [sameMem_mk_iff]
    | simp +zetaDelta only [sameMem_mk_iff]

theorem State.fencingPort_sameMem {s0 s : State} (h : s0.SameMem s) (sl p : Nat) (f : State → State) (hf : ∀ t
    : State, s0.SameMem t → s0.SameMem (f t)) : s0.SameMem (State.fencingPort s sl p f) := by
  unfold State.fencingPort
  with_reducible repeat' first
    | intro _ | assumption | apply settlePast_sameMem | apply settlePort_sameMem | apply ite_of | apply foldl_of
    | apply foldl_snd_of | apply foldl_fst_of | extract_lets | split | simp only [sameMem_mk_iff]
    | simp +zetaDelta only [sameMem_mk_iff] | apply hf

theorem State.accept_sameMem {s0 s : State} (h : s0.SameMem s) (sl p d b : Nat) (mk : Nat → Req) : s0.SameMem
    (State.accept s sl p d b mk) := by
  unfold State.accept
  with_reducible repeat' first
    | intro _ | assumption | apply wakeFor_sameMem | apply reach_sameMem | apply modPort_sameMem
    | apply settlePort_sameMem | apply ite_of | apply foldl_of | apply foldl_snd_of | apply foldl_fst_of
    | extract_lets | split | simp only [sameMem_mk_iff] | simp +zetaDelta only [sameMem_mk_iff]

theorem State.portClave_sameMem {s0 s : State} (h : s0.SameMem s) (r : ClaveReq) (kind : Nat) : s0.SameMem
    (State.portClave s r kind) := by
  unfold State.portClave
  with_reducible repeat' first
    | intro _ | assumption | apply accept_sameMem | apply ite_of | apply foldl_of | apply foldl_snd_of
    | apply foldl_fst_of | extract_lets | split | simp only [sameMem_mk_iff]
    | simp +zetaDelta only [sameMem_mk_iff]

theorem State.settleFirst_sameMem {s0 s : State} (h : s0.SameMem s) (sl p : Nat) : s0.SameMem
    (State.settleFirst s sl p) := by
  unfold State.settleFirst
  with_reducible repeat' first
    | intro _ | assumption | apply reach_sameMem | apply settlePort_sameMem | apply ite_of | apply foldl_of
    | apply foldl_snd_of | apply foldl_fst_of | extract_lets | split | simp only [sameMem_mk_iff]
    | simp +zetaDelta only [sameMem_mk_iff]

theorem State.presentLocal_sameMem {s0 s : State} (h : s0.SameMem s) (sl p : Nat) : s0.SameMem
    (State.presentLocal s sl p) := by
  unfold State.presentLocal
  with_reducible repeat' first
    | intro _ | assumption | apply settleFirst_sameMem | apply reach_sameMem | apply modPort_sameMem
    | apply portProgress_sameMem | apply ite_of | apply foldl_of | apply foldl_snd_of | apply foldl_fst_of
    | extract_lets | split | simp only [sameMem_mk_iff] | simp +zetaDelta only [sameMem_mk_iff]

theorem State.presentRemote_sameMem {s0 s : State} (h : s0.SameMem s) (sl p : Nat) : s0.SameMem
    (State.presentRemote s sl p) := by
  unfold State.presentRemote
  with_reducible repeat' first
    | intro _ | assumption | apply settlePort_sameMem | apply reach_sameMem | apply modPort_sameMem
    | apply portProgress_sameMem | apply ite_of | apply foldl_of | apply foldl_snd_of | apply foldl_fst_of
    | extract_lets | split | simp only [sameMem_mk_iff] | simp +zetaDelta only [sameMem_mk_iff]

theorem State.fenceInRaise_sameMem {s0 s : State} (h : s0.SameMem s) (sl p : Nat) : s0.SameMem
    (State.fenceInRaise s sl p) := by
  unfold State.fenceInRaise
  with_reducible repeat' first
    | intro _ | assumption | apply reach_sameMem | apply modPort_sameMem | apply fencingPort_sameMem
    | apply ite_of | apply foldl_of | apply foldl_snd_of | apply foldl_fst_of | extract_lets | split
    | simp only [sameMem_mk_iff] | simp +zetaDelta only [sameMem_mk_iff]

theorem State.fenceInLower_sameMem {s0 s : State} (h : s0.SameMem s) (sl p : Nat) : s0.SameMem
    (State.fenceInLower s sl p) := by
  unfold State.fenceInLower
  with_reducible repeat' first
    | intro _ | assumption | apply reach_sameMem | apply modPort_sameMem | apply fencingPort_sameMem
    | apply ite_of | apply foldl_of | apply foldl_snd_of | apply foldl_fst_of | extract_lets | split
    | simp only [sameMem_mk_iff] | simp +zetaDelta only [sameMem_mk_iff]

theorem State.idPulse_sameMem {s0 s : State} (h : s0.SameMem s) (sl p e : Nat) : s0.SameMem (State.idPulse s sl p e)
    := by
  unfold State.idPulse
  with_reducible repeat' first
    | intro _ | assumption | apply modPort_sameMem | apply ite_of | apply foldl_of | apply foldl_snd_of
    | apply foldl_fst_of | extract_lets | split | simp only [sameMem_mk_iff]
    | simp +zetaDelta only [sameMem_mk_iff]

theorem State.callPort_sameMem {s0 s : State} (h : s0.SameMem s) (sl p : Nat) : s0.SameMem (State.callPort s sl p)
    := by
  unfold State.callPort
  with_reducible repeat' first
    | intro _ | assumption | apply modPort_sameMem | apply portRc_sameMem | apply idPulse_sameMem
    | apply putB_sameMem | apply ite_of | apply foldl_of | apply foldl_snd_of | apply foldl_fst_of | extract_lets
    | split | simp only [sameMem_mk_iff] | simp +zetaDelta only [sameMem_mk_iff]

theorem State.callSlice_sameMem {s0 s : State} (h : s0.SameMem s) (sl : Nat) : s0.SameMem (State.callSlice s sl)
    := by
  unfold State.callSlice
  with_reducible repeat' first
    | intro _ | assumption | apply each_sameMem | apply callPort_sameMem | apply ite_of | apply foldl_of
    | apply foldl_snd_of | apply foldl_fst_of | extract_lets | split | simp only [sameMem_mk_iff]
    | simp +zetaDelta only [sameMem_mk_iff]

theorem State.storeRc_sameMem {s0 s : State} (h : s0.SameMem s) (sl : Nat) (v : Word) : s0.SameMem
    (State.storeRc s sl v) := by
  unfold State.storeRc
  with_reducible repeat' first
    | intro _ | assumption | apply portRc_sameMem | apply callSlice_sameMem | apply ite_of | apply foldl_of
    | apply foldl_snd_of | apply foldl_fst_of | extract_lets | split | simp only [sameMem_mk_iff]
    | simp +zetaDelta only [sameMem_mk_iff]

theorem State.portRc_sameMem {s0 s : State} (h : s0.SameMem s) (sl : Nat) (v : Word) (ctx : Nat) : s0.SameMem
    (State.portRc s sl v ctx) := by
  unfold State.portRc
  with_reducible repeat' first
    | intro _ | assumption | apply csrAccess_sameMem | apply storeRc_sameMem | apply ite_of | apply foldl_of
    | apply foldl_snd_of | apply foldl_fst_of | extract_lets | split | simp only [sameMem_mk_iff]
    | simp +zetaDelta only [sameMem_mk_iff]

theorem State.callEnds_sameMem {s0 s : State} (h : s0.SameMem s) (sl p res : Nat) (valid : Bool) : s0.SameMem
    (State.callEnds s sl p res valid) := by
  unfold State.callEnds
  with_reducible repeat' first
    | intro _ | assumption | apply settlePast_sameMem | apply putF_sameMem | apply putB_sameMem
    | apply portRc_sameMem | apply modPort_sameMem | apply settlePort_sameMem | apply ite_of | apply foldl_of
    | apply foldl_snd_of | apply foldl_fst_of | extract_lets | split | simp only [sameMem_mk_iff]
    | simp +zetaDelta only [sameMem_mk_iff]

theorem State.idFrame_sameMem {s0 s : State} (h : s0.SameMem s) (sl p : Nat) (id : BitVec 128) (check : BitVec 16) :
    s0.SameMem (State.idFrame s sl p id check) := by
  unfold State.idFrame
  with_reducible repeat' first
    | intro _ | assumption | apply reach_sameMem | apply wr_sameMem | apply callEnds_sameMem
    | apply modPort_sameMem | apply ite_of | apply foldl_of | apply foldl_snd_of | apply foldl_fst_of
    | extract_lets | split | simp only [sameMem_mk_iff] | simp +zetaDelta only [sameMem_mk_iff]

theorem State.idAbsent_sameMem {s0 s : State} (h : s0.SameMem s) (sl p : Nat) : s0.SameMem (State.idAbsent s sl p)
    := by
  unfold State.idAbsent
  with_reducible repeat' first
    | intro _ | assumption | apply reach_sameMem | apply callEnds_sameMem | apply ite_of | apply foldl_of
    | apply foldl_snd_of | apply foldl_fst_of | extract_lets | split | simp only [sameMem_mk_iff]
    | simp +zetaDelta only [sameMem_mk_iff]

theorem State.idRetry_sameMem {s0 s : State} (h : s0.SameMem s) (sl p : Nat) : s0.SameMem (State.idRetry s sl p)
    := by
  unfold State.idRetry
  with_reducible repeat' first
    | intro _ | assumption | apply reach_sameMem | apply idPulse_sameMem | apply ite_of | apply foldl_of
    | apply foldl_snd_of | apply foldl_fst_of | extract_lets | split | simp only [sameMem_mk_iff]
    | simp +zetaDelta only [sameMem_mk_iff]

theorem State.markBad_sameMem {s0 s : State} (h : s0.SameMem s) (sl b l : Nat) : s0.SameMem (State.markBad s sl b l)
    := by
  unfold State.markBad
  with_reducible repeat' first
    | intro _ | assumption | apply wr_sameMem | apply countSat_sameMem | apply ite_of | apply foldl_of
    | apply foldl_snd_of | apply foldl_fst_of | extract_lets | split | simp only [sameMem_mk_iff]
    | simp +zetaDelta only [sameMem_mk_iff]

theorem State.badLine_sameMem {s0 s : State} (h : s0.SameMem s) (sl b l : Nat) : s0.SameMem (State.badLine s sl b l)
    := by
  unfold State.badLine
  with_reducible repeat' first
    | intro _ | assumption | apply markBad_sameMem | apply sliceRec_sameMem | apply ite_of | apply foldl_of
    | apply foldl_snd_of | apply foldl_fst_of | extract_lets | split | simp only [sameMem_mk_iff]
    | simp +zetaDelta only [sameMem_mk_iff]

theorem State.queueRetire_sameMem {s0 s : State} (h : s0.SameMem s) (sl b row : Nat) (lines : List Nat) : s0.SameMem
    (State.queueRetire s sl b row lines) := by
  unfold State.queueRetire
  with_reducible repeat' first
    | intro _ | assumption | apply putB_sameMem | apply badLine_sameMem | apply modSlice_sameMem
    | apply each_sameMem | apply putF_sameMem | apply ite_of | apply foldl_of | apply foldl_snd_of
    | apply foldl_fst_of | extract_lets | split | simp only [sameMem_mk_iff]
    | simp +zetaDelta only [sameMem_mk_iff]

theorem State.passLasting_sameMem {s0 s : State} (h : s0.SameMem s) (sl b row : Nat) (lasting : Bool) : s0.SameMem
    (State.passLasting s sl b row lasting) := by
  unfold State.passLasting
  with_reducible repeat' first
    | intro _ | assumption | apply modSlice_sameMem | apply ite_of | apply foldl_of | apply foldl_snd_of
    | apply foldl_fst_of | extract_lets | split | simp only [sameMem_mk_iff]
    | simp +zetaDelta only [sameMem_mk_iff]

theorem State.storeXferMask_sameMem {r0 s : State} (h : r0.SameMem s) (s0 : State) (sl : Nat) (v : Word) (ctx : Nat)
    : r0.SameMem (State.storeXferMask s s0 sl v ctx) := by
  unfold State.storeXferMask
  with_reducible repeat' first
    | intro _ | assumption | apply refuseWrite_sameMem | apply storeReg_sameMem | apply ite_of | apply foldl_of
    | apply foldl_snd_of | apply foldl_fst_of | extract_lets | split | simp only [sameMem_mk_iff]
    | simp +zetaDelta only [sameMem_mk_iff]

theorem State.giveBank_sameMem {s0 s : State} (h : s0.SameMem s) (sl b c : Nat) : s0.SameMem
    (State.giveBank s sl b c) := by
  unfold State.giveBank
  with_reducible repeat' first
    | intro _ | assumption | apply putF_sameMem | apply putCfg_sameMem | apply ite_of | apply foldl_of
    | apply foldl_snd_of | apply foldl_fst_of | extract_lets | split | simp only [sameMem_mk_iff]
    | simp +zetaDelta only [sameMem_mk_iff]

theorem State.addAcc_sameMem {s0 s : State} (h : s0.SameMem s) (sl j : Nat) (a : SeAcc) : s0.SameMem
    (State.addAcc s sl j a) := by
  unfold State.addAcc
  with_reducible repeat' first
    | intro _ | assumption | apply modSlot_sameMem | apply ite_of | apply foldl_of | apply foldl_snd_of
    | apply foldl_fst_of | extract_lets | split | simp only [sameMem_mk_iff]
    | simp +zetaDelta only [sameMem_mk_iff]

theorem State.putInst_sameMem {s0 s : State} (h : s0.SameMem s) (sl j : Nat) (i : Inst) : s0.SameMem
    (State.putInst s sl j i) := by
  unfold State.putInst
  with_reducible repeat' first
    | intro _ | assumption | apply modSlot_sameMem | apply ite_of | apply foldl_of | apply foldl_snd_of
    | apply foldl_fst_of | extract_lets | split | simp only [sameMem_mk_iff]
    | simp +zetaDelta only [sameMem_mk_iff]

theorem State.modInst_sameMem {s0 s : State} (h : s0.SameMem s) (sl j no : Nat) (f : Inst → Inst) : s0.SameMem
    (State.modInst s sl j no f) := by
  unfold State.modInst
  with_reducible repeat' first
    | intro _ | assumption | apply modSlot_sameMem | apply ite_of | apply foldl_of | apply foldl_snd_of
    | apply foldl_fst_of | extract_lets | split | simp only [sameMem_mk_iff]
    | simp +zetaDelta only [sameMem_mk_iff]

theorem State.setHalt_sameMem {s0 s : State} (hs : s0.SameMem s) (sl j : Nat) (h : HaltAt) (from' : Nat := 0) :
    s0.SameMem (State.setHalt s sl j h from') := by
  unfold State.setHalt
  with_reducible repeat' first
    | intro _ | assumption | apply modSlot_sameMem | apply ite_of | apply foldl_of | apply foldl_snd_of
    | apply foldl_fst_of | extract_lets | split | simp only [sameMem_mk_iff]
    | simp +zetaDelta only [sameMem_mk_iff]

theorem State.haltAtPc_sameMem {s0 s : State} (h : s0.SameMem s) (sl j code : Nat) : s0.SameMem
    (State.haltAtPc s sl j code) := by
  unfold State.haltAtPc
  with_reducible repeat' first
    | intro _ | assumption | apply setHalt_sameMem | apply ite_of | apply foldl_of | apply foldl_snd_of
    | apply foldl_fst_of | extract_lets | split | simp only [sameMem_mk_iff]
    | simp +zetaDelta only [sameMem_mk_iff]

theorem State.slotRec_sameMem {s0 s : State} (h : s0.SameMem s) (sl j code : Nat) (detail : Word) : s0.SameMem
    (State.slotRec s sl j code detail) := by
  unfold State.slotRec
  with_reducible repeat' first
    | intro _ | assumption | apply sliceRec_sameMem | apply ite_of | apply foldl_of | apply foldl_snd_of
    | apply foldl_fst_of | extract_lets | split | simp only [sameMem_mk_iff]
    | simp +zetaDelta only [sameMem_mk_iff]

theorem State.endXfers_sameMem {s0 s : State} (h : s0.SameMem s) (p : Xfer → Bool) : s0.SameMem (State.endXfers s p)
    := by
  unfold State.endXfers
  with_reducible repeat' first
    | intro _ | assumption | apply ite_of | apply foldl_of | apply foldl_snd_of | apply foldl_fst_of
    | extract_lets | split | simp only [sameMem_mk_iff] | simp +zetaDelta only [sameMem_mk_iff]

theorem State.dropXfers_sameMem {s0 s : State} (h : s0.SameMem s) (sl j : Nat) : s0.SameMem (State.dropXfers s sl j)
    := by
  unfold State.dropXfers
  with_reducible repeat' first
    | intro _ | assumption | apply endXfers_sameMem | apply ite_of | apply foldl_of | apply foldl_snd_of
    | apply foldl_fst_of | extract_lets | split | simp only [sameMem_mk_iff]
    | simp +zetaDelta only [sameMem_mk_iff]

theorem State.dropScrub_sameMem {s0 s : State} (h : s0.SameMem s) (sl j : Nat) : s0.SameMem (State.dropScrub s sl j)
    := by
  unfold State.dropScrub
  with_reducible repeat' first
    | intro _ | assumption | apply modSlice_sameMem | apply scrubCtl_sameMem | apply putB_sameMem | apply ite_of
    | apply foldl_of | apply foldl_snd_of | apply foldl_fst_of | extract_lets | split | simp only [sameMem_mk_iff]
    | simp +zetaDelta only [sameMem_mk_iff]

theorem State.dropHeldOut_sameMem {s0 s : State} (h : s0.SameMem s) (sl j : Nat) : s0.SameMem
    (State.dropHeldOut s sl j) := by
  unfold State.dropHeldOut
  with_reducible repeat' first
    | intro _ | assumption | apply ite_of | apply foldl_of | apply foldl_snd_of | apply foldl_fst_of
    | extract_lets | split | simp only [sameMem_mk_iff] | simp +zetaDelta only [sameMem_mk_iff]

theorem State.parkOut_sameMem {s0 s : State} (h : s0.SameMem s) (sl j : Nat) : s0.SameMem (State.parkOut s sl j)
    := by
  unfold State.parkOut
  with_reducible repeat' first
    | intro _ | assumption | apply ite_of | apply foldl_of | apply foldl_snd_of | apply foldl_fst_of
    | extract_lets | split | simp only [sameMem_mk_iff] | simp +zetaDelta only [sameMem_mk_iff]

theorem State.stall_sameMem {s0 s : State} (h : s0.SameMem s) (sl o : Nat) : s0.SameMem (State.stall s sl o) := by
  unfold State.stall
  with_reducible repeat' first
    | intro _ | assumption | apply count_sameMem | apply modSlice_sameMem | apply ite_of | apply foldl_of
    | apply foldl_snd_of | apply foldl_fst_of | extract_lets | split | simp only [sameMem_mk_iff]
    | simp +zetaDelta only [sameMem_mk_iff]

theorem State.losers_sameMem {s0 s : State} (h : s0.SameMem s) (sl bset won : Nat) (x : Others) : s0.SameMem
    (State.losers s sl bset won x) := by
  unfold State.losers
  with_reducible repeat' first
    | intro _ | assumption | apply stall_sameMem | apply ite_of | apply foldl_of | apply foldl_snd_of
    | apply foldl_fst_of | extract_lets | split | simp only [sameMem_mk_iff]
    | simp +zetaDelta only [sameMem_mk_iff]

theorem State.countSlot_sameMem {s0 s : State} (h : s0.SameMem s) (sl o k : Nat) : s0.SameMem
    (State.countSlot s sl o k) := by
  unfold State.countSlot
  with_reducible repeat' first
    | intro _ | assumption | apply modSlice_sameMem | apply ite_of | apply foldl_of | apply foldl_snd_of
    | apply foldl_fst_of | extract_lets | split | simp only [sameMem_mk_iff]
    | simp +zetaDelta only [sameMem_mk_iff]

theorem State.stepLfsr_sameMem {s0 s : State} (h : s0.SameMem s) (sl b rnd : Nat) : s0.SameMem
    (State.stepLfsr s sl b rnd) := by
  unfold State.stepLfsr
  with_reducible repeat' first
    | intro _ | assumption | apply putF_sameMem | apply modSlice_sameMem | apply ite_of | apply foldl_of
    | apply foldl_snd_of | apply foldl_fst_of | extract_lets | split | simp only [sameMem_mk_iff]
    | simp +zetaDelta only [sameMem_mk_iff]

theorem State.tally_sameMem {s0 s : State} (h : s0.SameMem s) (sl : Nat) (t : Tally) : s0.SameMem
    (State.tally s sl t) := by
  unfold State.tally
  with_reducible repeat' first
    | intro _ | assumption | apply count_sameMem | apply ite_of | apply foldl_of | apply foldl_snd_of
    | apply foldl_fst_of | extract_lets | split | simp only [sameMem_mk_iff]
    | simp +zetaDelta only [sameMem_mk_iff]

theorem State.chunkActs_sameMem {s0 s : State} (h : s0.SameMem s) (sl j bset : Nat) (os : List Operand) (c : Nat) :
    s0.SameMem (State.chunkActs s sl j bset os c).2 := by
  unfold State.chunkActs
  with_reducible repeat' first
    | intro _ | assumption | apply touchVec_sameMem | apply modSlice_sameMem | apply ite_of | apply foldl_of
    | apply foldl_snd_of | apply foldl_fst_of | extract_lets | split | simp only [sameMem_mk_iff]
    | simp +zetaDelta only [sameMem_mk_iff]

theorem State.queueLog_sameMem {s0 s : State} (h : s0.SameMem s) (r : LogRec) : s0.SameMem (State.queueLog s r)
    := by
  unfold State.queueLog
  with_reducible repeat' first
    | intro _ | assumption | apply countSat_sameMem | apply ite_of | apply foldl_of | apply foldl_snd_of
    | apply foldl_fst_of | extract_lets | split | simp only [sameMem_mk_iff]
    | simp +zetaDelta only [sameMem_mk_iff]

theorem State.logEvent_sameMem {s0 s : State} (h : s0.SameMem s) (type : Nat) (detail : Word) : s0.SameMem
    (State.logEvent s type detail) := by
  unfold State.logEvent
  with_reducible repeat' first
    | intro _ | assumption | apply queueLog_sameMem | apply ite_of | apply foldl_of | apply foldl_snd_of
    | apply foldl_fst_of | extract_lets | split | simp only [sameMem_mk_iff]
    | simp +zetaDelta only [sameMem_mk_iff]

theorem State.pumpFetch_sameMem {s0 s : State} (h : s0.SameMem s) (sl j : Nat) : s0.SameMem (State.pumpFetch s sl j)
    := by
  unfold State.pumpFetch
  with_reducible repeat' first
    | intro _ | assumption | apply addAcc_sameMem | apply ite_of | apply foldl_of | apply foldl_snd_of
    | apply foldl_fst_of | extract_lets | split | simp only [sameMem_mk_iff]
    | simp +zetaDelta only [sameMem_mk_iff]

theorem State.pumpDesc_sameMem {s0 s : State} (h : s0.SameMem s) (sl j : Nat) : s0.SameMem (State.pumpDesc s sl j)
    := by
  unfold State.pumpDesc
  with_reducible repeat' first
    | intro _ | assumption | apply setHalt_sameMem | apply addAcc_sameMem | apply ite_of | apply foldl_of
    | apply foldl_snd_of | apply foldl_fst_of | extract_lets | split | simp only [sameMem_mk_iff]
    | simp +zetaDelta only [sameMem_mk_iff]

theorem State.beginBlock_sameMem {s0 s : State} (h : s0.SameMem s) (sl j : Nat) (i : Inst) (b : Nat) : s0.SameMem
    (State.beginBlock s sl j i b) := by
  unfold State.beginBlock
  with_reducible repeat' first
    | intro _ | assumption | apply setHalt_sameMem | apply putInst_sameMem | apply ite_of | apply foldl_of
    | apply foldl_snd_of | apply foldl_fst_of | extract_lets | split | simp only [sameMem_mk_iff]
    | simp +zetaDelta only [sameMem_mk_iff]

theorem State.startReads_sameMem {s0 s : State} (h : s0.SameMem s) (sl j no : Nat) : s0.SameMem
    (State.startReads s sl j no) := by
  unfold State.startReads
  with_reducible repeat' first
    | intro _ | assumption | apply putInst_sameMem | apply ite_of | apply foldl_of | apply foldl_snd_of
    | apply foldl_fst_of | extract_lets | split | simp only [sameMem_mk_iff]
    | simp +zetaDelta only [sameMem_mk_iff]

theorem State.readAgain_sameMem {s0 s : State} (h : s0.SameMem s) (sl j : Nat) (i : Inst) : s0.SameMem
    (State.readAgain s sl j i) := by
  unfold State.readAgain
  with_reducible repeat' first
    | intro _ | assumption | apply putInst_sameMem | apply ite_of | apply foldl_of | apply foldl_snd_of
    | apply foldl_fst_of | extract_lets | split | simp only [sameMem_mk_iff]
    | simp +zetaDelta only [sameMem_mk_iff]

theorem State.takeBack_sameMem {s0 s : State} (h : s0.SameMem s) (sl j : Nat) : s0.SameMem (State.takeBack s sl j)
    := by
  unfold State.takeBack
  with_reducible repeat' first
    | intro _ | assumption | apply modSlot_sameMem | apply ite_of | apply foldl_of | apply foldl_snd_of
    | apply foldl_fst_of | extract_lets | split | simp only [sameMem_mk_iff]
    | simp +zetaDelta only [sameMem_mk_iff]

theorem State.pumpRead_sameMem {s0 s : State} (h : s0.SameMem s) (sl j k : Nat) : s0.SameMem
    (State.pumpRead s sl j k) := by
  induction k generalizing s with
  | zero => unfold State.pumpRead; exact h
  | succ k ih =>
    unfold State.pumpRead
    with_reducible repeat' first
      | intro _ | assumption | apply readAgain_sameMem | apply beginBlock_sameMem | apply putInst_sameMem
      | apply addAcc_sameMem | apply startReads_sameMem | apply ih | apply ite_of | apply foldl_of
      | apply foldl_snd_of | apply foldl_fst_of | extract_lets | split | simp only [sameMem_mk_iff]
      | simp +zetaDelta only [sameMem_mk_iff]

theorem State.pumpMove_sameMem {s0 s : State} (h : s0.SameMem s) (sl j k : Nat) : s0.SameMem
    (State.pumpMove s sl j k) := by
  induction k generalizing s with
  | zero => unfold State.pumpMove; exact h
  | succ k ih =>
    unfold State.pumpMove
    with_reducible repeat' first
      | intro _ | assumption | apply putInst_sameMem | apply setHalt_sameMem | apply addAcc_sameMem | apply ih
      | apply ite_of | apply foldl_of | apply foldl_snd_of | apply foldl_fst_of | extract_lets | split
      | simp only [sameMem_mk_iff] | simp +zetaDelta only [sameMem_mk_iff]

theorem State.pumpOut_sameMem {s0 s : State} (h : s0.SameMem s) (sl j k : Nat) : s0.SameMem (State.pumpOut s sl j k)
    := by
  induction k generalizing s with
  | zero => unfold State.pumpOut; exact h
  | succ k ih =>
    unfold State.pumpOut
    with_reducible repeat' first
      | intro _ | assumption | apply putInst_sameMem | apply ih | apply ite_of | apply foldl_of | apply foldl_snd_of
      | apply foldl_fst_of | extract_lets | split | simp only [sameMem_mk_iff]
      | simp +zetaDelta only [sameMem_mk_iff]

theorem State.pumpBadFetch_sameMem {s0 s : State} (h : s0.SameMem s) (sl j : Nat) : s0.SameMem
    (State.pumpBadFetch s sl j) := by
  unfold State.pumpBadFetch
  with_reducible repeat' first
    | intro _ | assumption | apply haltAtPc_sameMem | apply ite_of | apply foldl_of | apply foldl_snd_of
    | apply foldl_fst_of | extract_lets | split | simp only [sameMem_mk_iff]
    | simp +zetaDelta only [sameMem_mk_iff]

theorem State.askRecords_sameMem {s0 s : State} (h : s0.SameMem s) (sl : Nat) : s0.SameMem (State.askRecords s sl)
    := by
  unfold State.askRecords
  with_reducible repeat' first
    | intro _ | assumption | apply modSlice_sameMem | apply ite_of | apply foldl_of | apply foldl_snd_of
    | apply foldl_fst_of | extract_lets | split | simp only [sameMem_mk_iff]
    | simp +zetaDelta only [sameMem_mk_iff]

theorem State.branch_sameMem {s0 s : State} (h : s0.SameMem s) (sl j : Nat) (d : Int) : s0.SameMem
    (State.branch s sl j d) := by
  unfold State.branch
  with_reducible repeat' first
    | intro _ | assumption | apply haltAtPc_sameMem | apply setPc_sameMem | apply modSlot_sameMem | apply ite_of
    | apply foldl_of | apply foldl_snd_of | apply foldl_fst_of | extract_lets | split | simp only [sameMem_mk_iff]
    | simp +zetaDelta only [sameMem_mk_iff]

theorem State.setSreg_sameMem {s0 s : State} (h : s0.SameMem s) (sl j n v : Nat) : s0.SameMem
    (State.setSreg s sl j n v) := by
  unfold State.setSreg
  with_reducible repeat' first
    | intro _ | assumption | apply putF_sameMem | apply ite_of | apply foldl_of | apply foldl_snd_of
    | apply foldl_fst_of | extract_lets | split | simp only [sameMem_mk_iff]
    | simp +zetaDelta only [sameMem_mk_iff]

theorem State.setLreg_sameMem {s0 s : State} (h : s0.SameMem s) (sl j n v : Nat) : s0.SameMem
    (State.setLreg s sl j n v) := by
  unfold State.setLreg
  with_reducible repeat' first
    | intro _ | assumption | apply putF_sameMem | apply ite_of | apply foldl_of | apply foldl_snd_of
    | apply foldl_fst_of | extract_lets | split | simp only [sameMem_mk_iff]
    | simp +zetaDelta only [sameMem_mk_iff]

theorem State.loopInstr_sameMem {s0 s : State} (h : s0.SameMem s) (sl j : Nat) (w : Word) : s0.SameMem
    (State.loopInstr s sl j w) := by
  unfold State.loopInstr
  with_reducible repeat' first
    | intro _ | assumption | apply branch_sameMem | apply setLreg_sameMem | apply nextPc_sameMem | apply ite_of
    | apply foldl_of | apply foldl_snd_of | apply foldl_fst_of | extract_lets | split | simp only [sameMem_mk_iff]
    | simp +zetaDelta only [sameMem_mk_iff]

theorem State.endlInstr_sameMem {s0 s : State} (h : s0.SameMem s) (sl j : Nat) (w : Word) : s0.SameMem
    (State.endlInstr s sl j w) := by
  unfold State.endlInstr
  with_reducible repeat' first
    | intro _ | assumption | apply setLreg_sameMem | apply branch_sameMem | apply nextPc_sameMem | apply ite_of
    | apply foldl_of | apply foldl_snd_of | apply foldl_fst_of | extract_lets | split | simp only [sameMem_mk_iff]
    | simp +zetaDelta only [sameMem_mk_iff]

theorem State.jumpInstr_sameMem {s0 s : State} (h : s0.SameMem s) (sl j : Nat) (w : Word) : s0.SameMem
    (State.jumpInstr s sl j w) := by
  unfold State.jumpInstr
  with_reducible repeat' first
    | intro _ | assumption | apply branch_sameMem | apply nextPc_sameMem | apply ite_of | apply foldl_of
    | apply foldl_snd_of | apply foldl_fst_of | extract_lets | split | simp only [sameMem_mk_iff]
    | simp +zetaDelta only [sameMem_mk_iff]

theorem State.sethInstr_sameMem {s0 s : State} (h : s0.SameMem s) (sl j : Nat) (w : Word) : s0.SameMem
    (State.sethInstr s sl j w) := by
  unfold State.sethInstr
  with_reducible repeat' first
    | intro _ | assumption | apply putF_sameMem | apply nextPc_sameMem | apply ite_of | apply foldl_of
    | apply foldl_snd_of | apply foldl_fst_of | extract_lets | split | simp only [sameMem_mk_iff]
    | simp +zetaDelta only [sameMem_mk_iff]

theorem State.setsInstr_sameMem {s0 s : State} (h : s0.SameMem s) (sl j : Nat) (w : Word) : s0.SameMem
    (State.setsInstr s sl j w) := by
  unfold State.setsInstr
  with_reducible repeat' first
    | intro _ | assumption | apply setSreg_sameMem | apply nextPc_sameMem | apply ite_of | apply foldl_of
    | apply foldl_snd_of | apply foldl_fst_of | extract_lets | split | simp only [sameMem_mk_iff]
    | simp +zetaDelta only [sameMem_mk_iff]

theorem State.waitTake_sameMem {s0 s : State} (h : s0.SameMem s) (sl j : Nat) (room : Bool) (pair n : Nat) :
    s0.SameMem (State.waitTake s sl j room pair n) := by
  unfold State.waitTake
  with_reducible repeat' first
    | intro _ | assumption | apply waitsTake_sameMem | apply claveTake_sameMem | apply modSlot_sameMem
    | apply satisfied_sameMem | apply ite_of | apply foldl_of | apply foldl_snd_of | apply foldl_fst_of
    | extract_lets | split | simp only [sameMem_mk_iff] | simp +zetaDelta only [sameMem_mk_iff]

theorem State.waitInstr_sameMem {s0 s : State} (h : s0.SameMem s) (sl j : Nat) (w : Word) : s0.SameMem
    (State.waitInstr s sl j w) := by
  unfold State.waitInstr
  with_reducible repeat' first
    | intro _ | assumption | apply haltAtPc_sameMem | apply waitTake_sameMem | apply ite_of | apply foldl_of
    | apply foldl_snd_of | apply foldl_fst_of | extract_lets | split | simp only [sameMem_mk_iff]
    | simp +zetaDelta only [sameMem_mk_iff]

theorem State.waitbeatInstr_sameMem {s0 s : State} (h : s0.SameMem s) (sl j : Nat) (w : Word) : s0.SameMem
    (State.waitbeatInstr s sl j w) := by
  unfold State.waitbeatInstr
  with_reducible repeat' first
    | intro _ | assumption | apply satisfied_sameMem | apply modSlot_sameMem | apply ite_of | apply foldl_of
    | apply foldl_snd_of | apply foldl_fst_of | extract_lets | split | simp only [sameMem_mk_iff]
    | simp +zetaDelta only [sameMem_mk_iff]

theorem State.pushInst_sameMem {s0 s : State} (h : s0.SameMem s) (sl j : Nat) (i : Inst) : s0.SameMem
    (State.pushInst s sl j i) := by
  unfold State.pushInst
  with_reducible repeat' first
    | intro _ | assumption | apply modSlot_sameMem | apply putF_sameMem | apply ite_of | apply foldl_of
    | apply foldl_snd_of | apply foldl_fst_of | extract_lets | split | simp only [sameMem_mk_iff]
    | simp +zetaDelta only [sameMem_mk_iff]

theorem State.dropHead_sameMem {s0 s : State} (h : s0.SameMem s) (sl j : Nat) : s0.SameMem (State.dropHead s sl j)
    := by
  unfold State.dropHead
  with_reducible repeat' first
    | intro _ | assumption | apply modSlot_sameMem | apply ite_of | apply foldl_of | apply foldl_snd_of
    | apply foldl_fst_of | extract_lets | split | simp only [sameMem_mk_iff]
    | simp +zetaDelta only [sameMem_mk_iff]

theorem State.noDeadline_sameMem {s0 s : State} (h : s0.SameMem s) (sl j : Nat) : s0.SameMem
    (State.noDeadline s sl j) := by
  unfold State.noDeadline
  with_reducible repeat' first
    | intro _ | assumption | apply putF_sameMem | apply ite_of | apply foldl_of | apply foldl_snd_of
    | apply foldl_fst_of | extract_lets | split | simp only [sameMem_mk_iff]
    | simp +zetaDelta only [sameMem_mk_iff]

theorem State.markExec_sameMem {s0 s : State} (h : s0.SameMem s) (sl j : Nat) (i : Inst) : s0.SameMem
    (State.markExec s sl j i) := by
  unfold State.markExec
  with_reducible repeat' first
    | intro _ | assumption | apply dropHead_sameMem | apply queueLog_sameMem | apply count_sameMem | apply ite_of
    | apply foldl_of | apply foldl_snd_of | apply foldl_fst_of | extract_lets | split | simp only [sameMem_mk_iff]
    | simp +zetaDelta only [sameMem_mk_iff]

theorem State.signalExec_sameMem {s0 s : State} (h : s0.SameMem s) (sl j : Nat) (i : Inst) : s0.SameMem
    (State.signalExec s sl j i) := by
  unfold State.signalExec
  with_reducible repeat' first
    | intro _ | assumption | apply setHalt_sameMem | apply addAcc_sameMem | apply claveSignal_sameMem
    | apply putInst_sameMem | apply dropHead_sameMem | apply ite_of | apply foldl_of | apply foldl_snd_of
    | apply foldl_fst_of | extract_lets | split | simp only [sameMem_mk_iff]
    | simp +zetaDelta only [sameMem_mk_iff]

theorem State.endScrub_sameMem {s0 s : State} (h : s0.SameMem s) (sl j : Nat) : s0.SameMem (State.endScrub s sl j)
    := by
  unfold State.endScrub
  with_reducible repeat' first
    | intro _ | assumption | apply dropScrub_sameMem | apply ite_of | apply foldl_of | apply foldl_snd_of
    | apply foldl_fst_of | extract_lets | split | simp only [sameMem_mk_iff]
    | simp +zetaDelta only [sameMem_mk_iff]

theorem State.deadlineMet_sameMem {s0 s : State} (h : s0.SameMem s) (sl j : Nat) : s0.SameMem
    (State.deadlineMet s sl j) := by
  unfold State.deadlineMet
  with_reducible repeat' first
    | intro _ | assumption | apply putB_sameMem | apply ite_of | apply foldl_of | apply foldl_snd_of
    | apply foldl_fst_of | extract_lets | split | simp only [sameMem_mk_iff]
    | simp +zetaDelta only [sameMem_mk_iff]

theorem State.armSlot_sameMem {s0 s : State} (h : s0.SameMem s) (sl j : Nat) : s0.SameMem (State.armSlot s sl j)
    := by
  unfold State.armSlot
  with_reducible repeat' first
    | intro _ | assumption | apply setPc_sameMem | apply wr_sameMem | apply putF_sameMem | apply modSlot_sameMem
    | apply setSlotState_sameMem | apply noDeadline_sameMem | apply ite_of | apply foldl_of | apply foldl_snd_of
    | apply foldl_fst_of | extract_lets | split | simp only [sameMem_mk_iff]
    | simp +zetaDelta only [sameMem_mk_iff]

theorem State.fromNext_sameMem {s0 s : State} (h : s0.SameMem s) (f : State → State) (hf : ∀ t : State,
    s0.SameMem t → s0.SameMem (f t)) : s0.SameMem (State.fromNext s f) := by
  unfold State.fromNext
  with_reducible repeat' first
    | intro _ | assumption | apply pass_sameMem | apply ite_of | apply foldl_of | apply foldl_snd_of
    | apply foldl_fst_of | extract_lets | split | simp only [sameMem_mk_iff]
    | simp +zetaDelta only [sameMem_mk_iff] | apply hf

theorem State.orderFetches_sameMem {s0 s : State} (h : s0.SameMem s) (sl : Nat) : s0.SameMem
    (State.orderFetches s sl) := by
  unfold State.orderFetches
  with_reducible repeat' first
    | intro _ | assumption | apply modSlot_sameMem | apply ite_of | apply foldl_of | apply foldl_snd_of
    | apply foldl_fst_of | extract_lets | split | simp only [sameMem_mk_iff]
    | simp +zetaDelta only [sameMem_mk_iff]

theorem State.stopEnds_sameMem {s0 s : State} (h : s0.SameMem s) (sl j : Nat) : s0.SameMem (State.stopEnds s sl j)
    := by
  unfold State.stopEnds
  with_reducible repeat' first
    | intro _ | assumption | apply reach_sameMem | apply modSlot_sameMem | apply setSlotState_sameMem
    | apply ite_of | apply foldl_of | apply foldl_snd_of | apply foldl_fst_of | extract_lets | split
    | simp only [sameMem_mk_iff] | simp +zetaDelta only [sameMem_mk_iff]

theorem State.rearmTarget_sameMem {s0 s : State} (h : s0.SameMem s) (sl j k : Nat) (i : Inst) : s0.SameMem
    (State.rearmTarget s sl j k i) := by
  unfold State.rearmTarget
  with_reducible repeat' first
    | intro _ | assumption | apply putF_sameMem | apply wr_sameMem | apply armSlot_sameMem | apply modSlot_sameMem
    | apply ite_of | apply foldl_of | apply foldl_snd_of | apply foldl_fst_of | extract_lets | split
    | simp only [sameMem_mk_iff] | simp +zetaDelta only [sameMem_mk_iff]

theorem State.rearmExec_sameMem {s0 s : State} (h : s0.SameMem s) (sl j : Nat) (i : Inst) : s0.SameMem
    (State.rearmExec s sl j i) := by
  unfold State.rearmExec
  with_reducible repeat' first
    | intro _ | assumption | apply setHalt_sameMem | apply dropHead_sameMem | apply reach_sameMem
    | apply rearmTarget_sameMem | apply modSlot_sameMem | apply nextPc_sameMem | apply ite_of | apply foldl_of
    | apply foldl_snd_of | apply foldl_fst_of | extract_lets | split | simp only [sameMem_mk_iff]
    | simp +zetaDelta only [sameMem_mk_iff]

theorem State.strikeHalt_sameMem {s0 s : State} (h : s0.SameMem s) (sl j : Nat) (i : Inst) (n : Nat) (read : Bool)
    (code : Nat) : s0.SameMem (State.strikeHalt s sl j i n read code) := by
  unfold State.strikeHalt
  with_reducible repeat' first
    | intro _ | assumption | apply setHalt_sameMem | apply ite_of | apply foldl_of | apply foldl_snd_of
    | apply foldl_fst_of | extract_lets | split | simp only [sameMem_mk_iff]
    | simp +zetaDelta only [sameMem_mk_iff]

theorem State.metPoison_sameMem {s0 s : State} (h : s0.SameMem s) (sl j : Nat) (i : Inst) (n : Nat) (read : Bool) :
    s0.SameMem (State.metPoison s sl j i n read) := by
  unfold State.metPoison
  with_reducible repeat' first
    | intro _ | assumption | apply strikeHalt_sameMem | apply slotRec_sameMem | apply ite_of | apply foldl_of
    | apply foldl_snd_of | apply foldl_fst_of | extract_lets | split | simp only [sameMem_mk_iff]
    | simp +zetaDelta only [sameMem_mk_iff]

theorem State.countLines_sameMem {s0 s : State} (h : s0.SameMem s) (sl n : Nat) : s0.SameMem
    (State.countLines s sl n) := by
  unfold State.countLines
  with_reducible repeat' first
    | intro _ | assumption | apply count_sameMem | apply ite_of | apply foldl_of | apply foldl_snd_of
    | apply foldl_fst_of | extract_lets | split | simp only [sameMem_mk_iff]
    | simp +zetaDelta only [sameMem_mk_iff]

theorem State.takeScale_sameMem {s0 s : State} (h : s0.SameMem s) (sl j : Nat) (i : Inst) (n : Nat) (rs
    : List LineRsp) : s0.SameMem (State.takeScale s sl j i n rs) := by
  unfold State.takeScale
  with_reducible repeat' first
    | intro _ | assumption | apply modInst_sameMem | apply ite_of | apply foldl_of | apply foldl_snd_of
    | apply foldl_fst_of | extract_lets | split | simp only [sameMem_mk_iff]
    | simp +zetaDelta only [sameMem_mk_iff]

theorem State.wrote_sameMem {s0 s : State} (h : s0.SameMem s) (sl j : Nat) (i : Inst) (os : List Operand) (outs
    : List (Nat × OutData)) (next due : Nat) : s0.SameMem (State.wrote s sl j i os outs next due) := by
  unfold State.wrote
  with_reducible repeat' first
    | intro _ | assumption | apply modInst_sameMem | apply ite_of | apply foldl_of | apply foldl_snd_of
    | apply foldl_fst_of | extract_lets | split | simp only [sameMem_mk_iff]
    | simp +zetaDelta only [sameMem_mk_iff]

theorem State.updated_sameMem {s0 s : State} (h : s0.SameMem s) (sl j : Nat) (i : Inst) (ns bad : List Nat) (next
    : Nat) : s0.SameMem (State.updated s sl j i ns bad next) := by
  unfold State.updated
  with_reducible repeat' first
    | intro _ | assumption | apply modInst_sameMem | apply metPoison_sameMem | apply strikeHalt_sameMem
    | apply ite_of | apply foldl_of | apply foldl_snd_of | apply foldl_fst_of | extract_lets | split
    | simp only [sameMem_mk_iff] | simp +zetaDelta only [sameMem_mk_iff]

theorem State.strikeAway_sameMem {s0 s : State} (h : s0.SameMem s) (sl j : Nat) (i : Inst) (t : SStep) : s0.SameMem
    (State.strikeAway s sl j i t) := by
  unfold State.strikeAway
  with_reducible repeat' first
    | intro _ | assumption | apply addAcc_sameMem | apply takeScale_sameMem | apply tally_sameMem
    | apply stepLfsr_sameMem | apply wrote_sameMem | apply modInst_sameMem | apply ite_of | apply foldl_of
    | apply foldl_snd_of | apply foldl_fst_of | extract_lets | split | simp only [sameMem_mk_iff]
    | simp +zetaDelta only [sameMem_mk_iff]

theorem State.adoptOut_sameMem {s0 s : State} (h : s0.SameMem s) (sl j no : Nat) (out : Bool) : s0.SameMem
    (State.adoptOut s sl j no out) := by
  unfold State.adoptOut
  with_reducible repeat' first
    | intro _ | assumption | apply ite_of | apply foldl_of | apply foldl_snd_of | apply foldl_fst_of
    | extract_lets | split | simp only [sameMem_mk_iff] | simp +zetaDelta only [sameMem_mk_iff]

theorem State.pushBlock_sameMem {s0 s : State} (h : s0.SameMem s) (sl j : Nat) (w : Word) (f : Inst → Inst) :
    s0.SameMem (State.pushBlock s sl j w f) := by
  unfold State.pushBlock
  with_reducible repeat' first
    | intro _ | assumption | apply modSlot_sameMem | apply pushInst_sameMem | apply adoptOut_sameMem
    | apply nextPc_sameMem | apply ite_of | apply foldl_of | apply foldl_snd_of | apply foldl_fst_of
    | extract_lets | split | simp only [sameMem_mk_iff] | simp +zetaDelta only [sameMem_mk_iff]

theorem State.storeSeed_sameMem {s0 s : State} (h : s0.SameMem s) (sl b : Nat) (v : Word) : s0.SameMem
    (State.storeSeed s sl b v) := by
  unfold State.storeSeed
  with_reducible repeat' first
    | intro _ | assumption | apply putF_sameMem | apply modSlice_sameMem | apply ite_of | apply foldl_of
    | apply foldl_snd_of | apply foldl_fst_of | extract_lets | split | simp only [sameMem_mk_iff]
    | simp +zetaDelta only [sameMem_mk_iff]

theorem State.modPass_sameMem {s0 s : State} (h : s0.SameMem s) (sl : Nat) (f : ScrubPass → ScrubPass) : s0.SameMem
    (State.modPass s sl f) := by
  unfold State.modPass
  with_reducible repeat' first
    | intro _ | assumption | apply modSlice_sameMem | apply ite_of | apply foldl_of | apply foldl_snd_of
    | apply foldl_fst_of | extract_lets | split | simp only [sameMem_mk_iff]
    | simp +zetaDelta only [sameMem_mk_iff]

theorem State.beginPass_sameMem {s0 s : State} (h : s0.SameMem s) (sl : Nat) (p : ScrubPass) : s0.SameMem
    (State.beginPass s sl p) := by
  unfold State.beginPass
  with_reducible repeat' first
    | intro _ | assumption | apply modSlice_sameMem | apply scrubCtl_sameMem | apply putB_sameMem | apply ite_of
    | apply foldl_of | apply foldl_snd_of | apply foldl_fst_of | extract_lets | split | simp only [sameMem_mk_iff]
    | simp +zetaDelta only [sameMem_mk_iff]

theorem State.scrubPump_sameMem {s0 s : State} (h : s0.SameMem s) (sl : Nat) : s0.SameMem (State.scrubPump s sl)
    := by
  unfold State.scrubPump
  with_reducible repeat' first
    | intro _ | assumption | apply beginPass_sameMem | apply modInst_sameMem | apply ite_of | apply foldl_of
    | apply foldl_snd_of | apply foldl_fst_of | extract_lets | split | simp only [sameMem_mk_iff]
    | simp +zetaDelta only [sameMem_mk_iff]

theorem State.writeSummary_sameMem {s0 s : State} (h : s0.SameMem s) (sl j : Nat) (i : Inst) (ws : List Word) :
    s0.SameMem (State.writeSummary s sl j i ws) := by
  unfold State.writeSummary
  with_reducible repeat' first
    | intro _ | assumption | apply modInst_sameMem | apply strikeHalt_sameMem | apply addAcc_sameMem
    | apply ite_of | apply foldl_of | apply foldl_snd_of | apply foldl_fst_of | extract_lets | split
    | simp only [sameMem_mk_iff] | simp +zetaDelta only [sameMem_mk_iff]

theorem State.storeScrub_sameMem {r0 s : State} (h : r0.SameMem s) (s0 : State) (sl : Nat) (v : Word) (ctx : Nat)
    : r0.SameMem (State.storeScrub s s0 sl v ctx) := by
  unfold State.storeScrub
  with_reducible repeat' first
    | intro _ | assumption | apply scrubCtl_sameMem | apply storeReg_sameMem | apply refuseCfg_sameMem
    | apply modPass_sameMem | apply beginPass_sameMem | apply ite_of | apply foldl_of | apply foldl_snd_of
    | apply foldl_fst_of | extract_lets | split | simp only [sameMem_mk_iff]
    | simp +zetaDelta only [sameMem_mk_iff]

theorem State.scrubCtl_sameMem {s0 s : State} (h : s0.SameMem s) (sl : Nat) (v : Word) (ctx : Nat) : s0.SameMem
    (State.scrubCtl s sl v ctx) := by
  unfold State.scrubCtl
  with_reducible repeat' first
    | intro _ | assumption | apply csrAccess_sameMem | apply storeScrub_sameMem | apply ite_of | apply foldl_of
    | apply foldl_snd_of | apply foldl_fst_of | extract_lets | split | simp only [sameMem_mk_iff]
    | simp +zetaDelta only [sameMem_mk_iff]

theorem State.modXfer_sameMem {s0 s : State} (h : s0.SameMem s) (g : Nat) (f : Xfer → Xfer) : s0.SameMem
    (State.modXfer s g f) := by
  unfold State.modXfer
  with_reducible repeat' first
    | intro _ | assumption | apply ite_of | apply foldl_of | apply foldl_snd_of | apply foldl_fst_of
    | extract_lets | split | simp only [sameMem_mk_iff] | simp +zetaDelta only [sameMem_mk_iff]

theorem State.noteLag_sameMem {s0 s : State} (h : s0.SameMem s) (g : Nat) : s0.SameMem (State.noteLag s g) := by
  unfold State.noteLag
  with_reducible repeat' first
    | intro _ | assumption | apply modXfer_sameMem | apply ite_of | apply foldl_of | apply foldl_snd_of
    | apply foldl_fst_of | extract_lets | split | simp only [sameMem_mk_iff]
    | simp +zetaDelta only [sameMem_mk_iff]

theorem State.signalBlock_sameMem {s0 s : State} (h : s0.SameMem s) (x : Xfer) (i : Inst) : s0.SameMem
    (State.signalBlock s x i) := by
  unfold State.signalBlock
  with_reducible repeat' first
    | intro _ | assumption | apply claveSignal_sameMem | apply ite_of | apply foldl_of | apply foldl_snd_of
    | apply foldl_fst_of | extract_lets | split | simp only [sameMem_mk_iff]
    | simp +zetaDelta only [sameMem_mk_iff]

theorem State.settleXfer_sameMem {s0 s : State} (h : s0.SameMem s) (g : Nat) : s0.SameMem (State.settleXfer s g)
    := by
  unfold State.settleXfer
  with_reducible repeat' first
    | intro _ | assumption | apply modXfer_sameMem | apply signalBlock_sameMem | apply modInst_sameMem
    | apply ite_of | apply foldl_of | apply foldl_snd_of | apply foldl_fst_of | extract_lets | split
    | simp only [sameMem_mk_iff] | simp +zetaDelta only [sameMem_mk_iff]

theorem State.settleXfers_sameMem {s0 s : State} (h : s0.SameMem s) (sl j : Nat) : s0.SameMem
    (State.settleXfers s sl j) := by
  unfold State.settleXfers
  with_reducible repeat' first
    | intro _ | assumption | apply settleXfer_sameMem | apply ite_of | apply foldl_of | apply foldl_snd_of
    | apply foldl_fst_of | extract_lets | split | simp only [sameMem_mk_iff]
    | simp +zetaDelta only [sameMem_mk_iff]

theorem State.dropCopy_sameMem {s0 s : State} (h : s0.SameMem s) (id r : Nat) : s0.SameMem (State.dropCopy s id r)
    := by
  unfold State.dropCopy
  with_reducible repeat' first
    | intro _ | assumption | apply ite_of | apply foldl_of | apply foldl_snd_of | apply foldl_fst_of
    | extract_lets | split | simp only [sameMem_mk_iff] | simp +zetaDelta only [sameMem_mk_iff]

theorem State.strokeAck_sameMem {s0 s : State} (h : s0.SameMem s) (r : Nat) (a : Arrived) : s0.SameMem
    (State.strokeAck s r a) := by
  unfold State.strokeAck
  with_reducible repeat' first
    | intro _ | assumption | apply ite_of | apply foldl_of | apply foldl_snd_of | apply foldl_fst_of
    | extract_lets | split | simp only [sameMem_mk_iff] | simp +zetaDelta only [sameMem_mk_iff]

theorem State.strokeRefused_sameMem {s0 s : State} (h : s0.SameMem s) (r : Nat) (a : Arrived) : s0.SameMem
    (State.strokeRefused s r a) := by
  unfold State.strokeRefused
  with_reducible repeat' first
    | intro _ | assumption | apply dropCopy_sameMem | apply modXfer_sameMem | apply ite_of | apply foldl_of
    | apply foldl_snd_of | apply foldl_fst_of | extract_lets | split | simp only [sameMem_mk_iff]
    | simp +zetaDelta only [sameMem_mk_iff]

theorem State.settleStroke_sameMem {s0 s : State} (h : s0.SameMem s) (r : Nat) (a : Arrived) : s0.SameMem
    (State.settleStroke s r a) := by
  unfold State.settleStroke
  with_reducible repeat' first
    | intro _ | assumption | apply strokeRefused_sameMem | apply dropCopy_sameMem | apply ite_of | apply foldl_of
    | apply foldl_snd_of | apply foldl_fst_of | extract_lets | split | simp only [sameMem_mk_iff]
    | simp +zetaDelta only [sameMem_mk_iff]

theorem State.settleStrokes_sameMem {s0 s : State} (h : s0.SameMem s) (r : Nat) : s0.SameMem
    (State.settleStrokes s r) := by
  unfold State.settleStrokes
  with_reducible repeat' first
    | intro _ | assumption | apply settleStroke_sameMem | apply ite_of | apply foldl_of | apply foldl_snd_of
    | apply foldl_fst_of | extract_lets | split | simp only [sameMem_mk_iff]
    | simp +zetaDelta only [sameMem_mk_iff]

theorem State.answerFault_sameMem {s0 s : State} (h : s0.SameMem s) (sl j : Nat) (a : SeAcc) (c : Nat) : s0.SameMem
    (State.answerFault s sl j a c) := by
  unfold State.answerFault
  with_reducible repeat' first
    | intro _ | assumption | apply modSlot_sameMem | apply ite_of | apply foldl_of | apply foldl_snd_of
    | apply foldl_fst_of | extract_lets | split | simp only [sameMem_mk_iff]
    | simp +zetaDelta only [sameMem_mk_iff]

theorem State.markIssued_sameMem {s0 s : State} (h : s0.SameMem s) (sl j id : Nat) : s0.SameMem
    (State.markIssued s sl j id) := by
  unfold State.markIssued
  with_reducible repeat' first
    | intro _ | assumption | apply modSlot_sameMem | apply ite_of | apply foldl_of | apply foldl_snd_of
    | apply foldl_fst_of | extract_lets | split | simp only [sameMem_mk_iff]
    | simp +zetaDelta only [sameMem_mk_iff]

theorem State.accAdvance_sameMem {s0 s : State} (h : s0.SameMem s) (sl : Nat) (a : SeAcc) : s0.SameMem
    (State.accAdvance s sl a) := by
  unfold State.accAdvance
  with_reducible repeat' first
    | intro _ | assumption | apply stepAdvance_sameMem | apply ite_of | apply foldl_of | apply foldl_snd_of
    | apply foldl_fst_of | extract_lets | split | simp only [sameMem_mk_iff]
    | simp +zetaDelta only [sameMem_mk_iff]

theorem State.cutAcc_sameMem {s0 s : State} (h : s0.SameMem s) (sl j : Nat) (a : SeAcc) : s0.SameMem
    (State.cutAcc s sl j a) := by
  unfold State.cutAcc
  with_reducible repeat' first
    | intro _ | assumption | apply modSlot_sameMem | apply ite_of | apply foldl_of | apply foldl_snd_of
    | apply foldl_fst_of | extract_lets | split | simp only [sameMem_mk_iff]
    | simp +zetaDelta only [sameMem_mk_iff]

theorem State.settleReady_sameMem {s0 s : State} (h : s0.SameMem s) (sl : Nat) : s0.SameMem (State.settleReady s sl)
    := by
  unfold State.settleReady
  with_reducible repeat' first
    | intro _ | assumption | apply meshNow_sameMem | apply settleSlice_sameMem | apply settleHome_sameMem
    | apply settleStrokes_sameMem | apply ite_of | apply foldl_of | apply foldl_snd_of | apply foldl_fst_of
    | extract_lets | split | simp only [sameMem_mk_iff] | simp +zetaDelta only [sameMem_mk_iff]

theorem State.freeSent_sameMem {s0 s : State} (h : s0.SameMem s) (sl j : Nat) (a : SeAcc) : s0.SameMem
    (State.freeSent s sl j a) := by
  unfold State.freeSent
  with_reducible repeat' first
    | intro _ | assumption | apply modInst_sameMem | apply ite_of | apply foldl_of | apply foldl_snd_of
    | apply foldl_fst_of | extract_lets | split | simp only [sameMem_mk_iff]
    | simp +zetaDelta only [sameMem_mk_iff]

theorem State.issuePort_sameMem {s0 s : State} (h : s0.SameMem s) (sl p : Nat) : s0.SameMem (State.issuePort s sl p)
    := by
  unfold State.issuePort
  with_reducible repeat' first
    | intro _ | assumption | apply settlePort_sameMem | apply reach_sameMem | apply popPort_sameMem
    | apply sendPkt_sameMem | apply modPort_sameMem | apply ite_of | apply foldl_of | apply foldl_snd_of
    | apply foldl_fst_of | extract_lets | split | simp only [sameMem_mk_iff]
    | simp +zetaDelta only [sameMem_mk_iff]

theorem State.requestArrives_sameMem {s0 s : State} (h : s0.SameMem s) (k : Nat) : s0.SameMem
    (State.requestArrives s k) := by
  unfold State.requestArrives
  with_reducible repeat' first
    | intro _ | assumption | exact meshEvent_some_sameMem (by assumption) (by assumption)
    | apply meshEvent_sameMem | apply wakeFor_sameMem | apply answer_sameMem | apply performClave_sameMem
    | apply modSlice_sameMem | apply ite_of | apply foldl_of | apply foldl_snd_of | apply foldl_fst_of
    | extract_lets | split | simp only [sameMem_mk_iff] | simp +zetaDelta only [sameMem_mk_iff]

theorem State.releaseBurst_sameMem {s0 s : State} (h : s0.SameMem s) (sl out : Nat) : s0.SameMem
    (State.releaseBurst s sl out) := by
  unfold State.releaseBurst
  with_reducible repeat' first
    | intro _ | assumption | exact meshEvent_some_sameMem (by assumption) (by assumption)
    | apply meshEvent_sameMem | apply ite_of | apply foldl_of | apply foldl_snd_of | apply foldl_fst_of
    | extract_lets | split | simp only [sameMem_mk_iff] | simp +zetaDelta only [sameMem_mk_iff]

theorem State.windowStart_sameMem {s0 s : State} (h : s0.SameMem s)  : s0.SameMem (State.windowStart s) := by
  unfold State.windowStart
  with_reducible repeat' first
    | intro _ | assumption | apply reach_sameMem | apply each_sameMem | apply modSlice_sameMem | apply ite_of
    | apply foldl_of | apply foldl_snd_of | apply foldl_fst_of | extract_lets | split | simp only [sameMem_mk_iff]
    | simp +zetaDelta only [sameMem_mk_iff]

theorem State.storeShare_sameMem {r0 s : State} (h : r0.SameMem s) (s0 : State) (c : Nat) (v : Word) (ctx : Nat)
    : r0.SameMem (State.storeShare s s0 c v ctx) := by
  unfold State.storeShare
  with_reducible repeat' first
    | intro _ | assumption | apply meshNow_sameMem | apply storeReg_sameMem | apply refuseCfg_sameMem
    | apply ite_of | apply foldl_of | apply foldl_snd_of | apply foldl_fst_of | extract_lets | split
    | simp only [sameMem_mk_iff] | simp +zetaDelta only [sameMem_mk_iff]

theorem State.shareWrite_sameMem {s0 s : State} (h : s0.SameMem s) (c : Nat) (v : Word) (ctx : Nat) : s0.SameMem
    (State.shareWrite s c v ctx) := by
  unfold State.shareWrite
  with_reducible repeat' first
    | intro _ | assumption | apply csrAccess_sameMem | apply storeShare_sameMem | apply ite_of | apply foldl_of
    | apply foldl_snd_of | apply foldl_fst_of | extract_lets | split | simp only [sameMem_mk_iff]
    | simp +zetaDelta only [sameMem_mk_iff]

theorem State.mcastInstr_sameMem {s0 s : State} (h : s0.SameMem s) (sl j : Nat) (w : Word) : s0.SameMem
    (State.mcastInstr s sl j w) := by
  unfold State.mcastInstr
  with_reducible repeat' first
    | intro _ | assumption | apply haltAtPc_sameMem | apply pushBlock_sameMem | apply count_sameMem | apply ite_of
    | apply foldl_of | apply foldl_snd_of | apply foldl_fst_of | extract_lets | split | simp only [sameMem_mk_iff]
    | simp +zetaDelta only [sameMem_mk_iff]

theorem State.mcastBlockEnd_sameMem {s0 s : State} (h : s0.SameMem s) (x : Xfer) (i : Inst) : s0.SameMem
    (State.mcastBlockEnd s x i) := by
  unfold State.mcastBlockEnd
  with_reducible repeat' first
    | intro _ | assumption | apply modXfer_sameMem | apply modInst_sameMem | apply settleXfer_sameMem
    | apply ite_of | apply foldl_of | apply foldl_snd_of | apply foldl_fst_of | extract_lets | split
    | simp only [sameMem_mk_iff] | simp +zetaDelta only [sameMem_mk_iff]

theorem State.sendStroke_sameMem {s0 s : State} (h : s0.SameMem s) (x : Xfer) (k : Stroke) (rs : List Nat) (burst
    : Nat) (last : Bool) : s0.SameMem (State.sendStroke s x k rs burst last).2 := by
  unfold State.sendStroke
  with_reducible repeat' first
    | intro _ | assumption | apply launch_sameMem | apply ite_of | apply foldl_of | apply foldl_snd_of
    | apply foldl_fst_of | extract_lets | split | simp only [sameMem_mk_iff]
    | simp +zetaDelta only [sameMem_mk_iff]

theorem State.strokeComes_some_sameMem {s0 s t : State} {g r : Nat} {a : Arrived} (e : s.strokeComes g r = some (a, t))
    (h : s0.SameMem s) : s0.SameMem t := by
  unfold State.strokeComes at e
  dsimp only at e
  split at e
  · cases e
  · split at e
    · obtain ⟨a', -, hr⟩ := Option.map_eq_some_iff.1 e
      cases hr
      exact State.meshEvent_some_sameMem (by assumption) h
    · cases e

theorem State.resendTo_sameMem {s0 s : State} (h : s0.SameMem s) (x : Xfer) (r : Nat) : s0.SameMem
    (State.resendTo s x r) := by
  unfold State.resendTo
  with_reducible repeat' first
    | intro _ | assumption | apply sendStroke_sameMem | apply modXfer_sameMem | apply ite_of | apply foldl_of
    | apply foldl_snd_of | apply foldl_fst_of | extract_lets | split | simp only [sameMem_mk_iff]
    | simp +zetaDelta only [sameMem_mk_iff]

theorem State.strokeResend_sameMem {s0 s : State} (h : s0.SameMem s) (g : Nat) : s0.SameMem (State.strokeResend s g)
    := by
  unfold State.strokeResend
  with_reducible repeat' first
    | intro _ | assumption | apply reach_sameMem | apply resendTo_sameMem | apply modXfer_sameMem | apply ite_of
    | apply foldl_of | apply foldl_snd_of | apply foldl_fst_of | extract_lets | split | simp only [sameMem_mk_iff]
    | simp +zetaDelta only [sameMem_mk_iff]

theorem State.dropAcc_sameMem {s0 s : State} (h : s0.SameMem s) (sl j id : Nat) : s0.SameMem
    (State.dropAcc s sl j id) := by
  unfold State.dropAcc
  with_reducible repeat' first
    | intro _ | assumption | apply modSlot_sameMem | apply ite_of | apply foldl_of | apply foldl_snd_of
    | apply foldl_fst_of | extract_lets | split | simp only [sameMem_mk_iff]
    | simp +zetaDelta only [sameMem_mk_iff]

theorem State.holdAcc_sameMem {s0 s : State} (h : s0.SameMem s) (sl j id : Nat) : s0.SameMem
    (State.holdAcc s sl j id) := by
  unfold State.holdAcc
  with_reducible repeat' first
    | intro _ | assumption | apply modSlot_sameMem | apply ite_of | apply foldl_of | apply foldl_snd_of
    | apply foldl_fst_of | extract_lets | split | simp only [sameMem_mk_iff]
    | simp +zetaDelta only [sameMem_mk_iff]

theorem State.keepLines_sameMem {s0 s : State} (h : s0.SameMem s) (sl j : Nat) (a : SeAcc) (r : Resp) (l : List
    ((Nat × Line × WordEn) × Nat)) : s0.SameMem (State.keepLines s sl j a r l) := by
  unfold State.keepLines
  with_reducible repeat' first
    | intro _ | assumption | apply modInst_sameMem | apply ite_of | apply foldl_of | apply foldl_snd_of
    | apply foldl_fst_of | extract_lets | split | simp only [sameMem_mk_iff]
    | simp +zetaDelta only [sameMem_mk_iff]

theorem State.keepRead_sameMem {s0 s : State} (h : s0.SameMem s) (sl j : Nat) (a : SeAcc) (r : Resp) : s0.SameMem
    (State.keepRead s sl j a r) := by
  unfold State.keepRead
  with_reducible repeat' first
    | intro _ | assumption | apply keepLines_sameMem | apply ite_of | apply foldl_of | apply foldl_snd_of
    | apply foldl_fst_of | extract_lets | split | simp only [sameMem_mk_iff]
    | simp +zetaDelta only [sameMem_mk_iff]

theorem State.readAnswer_sameMem {s0 s : State} (h : s0.SameMem s) (sl j : Nat) (a : SeAcc) (r : Resp) : s0.SameMem
    (State.readAnswer s sl j a r) := by
  unfold State.readAnswer
  with_reducible repeat' first
    | intro _ | assumption | apply dropAcc_sameMem | apply setHalt_sameMem | apply keepRead_sameMem
    | apply holdAcc_sameMem | apply keepLines_sameMem | apply slotRec_sameMem | apply ite_of | apply foldl_of
    | apply foldl_snd_of | apply foldl_fst_of | extract_lets | split | simp only [sameMem_mk_iff]
    | simp +zetaDelta only [sameMem_mk_iff]

theorem State.writeAnswer_sameMem {s0 s : State} (h : s0.SameMem s) (sl j : Nat) (a : SeAcc) (r : Resp) : s0.SameMem
    (State.writeAnswer s sl j a r) := by
  unfold State.writeAnswer
  with_reducible repeat' first
    | intro _ | assumption | apply dropAcc_sameMem | apply modInst_sameMem | apply holdAcc_sameMem
    | apply setHalt_sameMem | apply ite_of | apply foldl_of | apply foldl_snd_of | apply foldl_fst_of
    | extract_lets | split | simp only [sameMem_mk_iff] | simp +zetaDelta only [sameMem_mk_iff]

theorem State.signalAnswer_sameMem {s0 s : State} (h : s0.SameMem s) (sl j : Nat) (a : SeAcc) (r : Resp) :
    s0.SameMem (State.signalAnswer s sl j a r) := by
  unfold State.signalAnswer
  with_reducible repeat' first
    | intro _ | assumption | apply dropAcc_sameMem | apply modInst_sameMem | apply holdAcc_sameMem
    | apply setHalt_sameMem | apply ite_of | apply foldl_of | apply foldl_snd_of | apply foldl_fst_of
    | extract_lets | split | simp only [sameMem_mk_iff] | simp +zetaDelta only [sameMem_mk_iff]

theorem State.closeTag_sameMem {s0 s : State} (h : s0.SameMem s) (sl j : Nat) : s0.SameMem (State.closeTag s sl j)
    := by
  unfold State.closeTag
  with_reducible repeat' first
    | intro _ | assumption | apply putB_sameMem | apply putF_sameMem | apply ite_of | apply foldl_of
    | apply foldl_snd_of | apply foldl_fst_of | extract_lets | split | simp only [sameMem_mk_iff]
    | simp +zetaDelta only [sameMem_mk_iff]

theorem State.setTag_sameMem {s0 s : State} (h : s0.SameMem s) (sl j g : Nat) : s0.SameMem (State.setTag s sl j g)
    := by
  unfold State.setTag
  with_reducible repeat' first
    | intro _ | assumption | apply putF_sameMem | apply putB_sameMem | apply ite_of | apply foldl_of
    | apply foldl_snd_of | apply foldl_fst_of | extract_lets | split | simp only [sameMem_mk_iff]
    | simp +zetaDelta only [sameMem_mk_iff]

theorem State.absorb_sameMem {s0 s : State} (h : s0.SameMem s)  : s0.SameMem (State.absorb s) := by
  unfold State.absorb
  with_reducible repeat' first
    | intro _ | assumption | apply count_sameMem | apply ite_of | apply foldl_of | apply foldl_snd_of
    | apply foldl_fst_of | extract_lets | split | simp only [sameMem_mk_iff]
    | simp +zetaDelta only [sameMem_mk_iff]

theorem State.absorbRsp_sameMem {s0 s : State} (h : s0.SameMem s)  : s0.SameMem (State.absorbRsp s) := by
  unfold State.absorbRsp
  with_reducible repeat' first
    | intro _ | assumption | apply absorb_sameMem | apply lateResponse_sameMem | apply ite_of | apply foldl_of
    | apply foldl_snd_of | apply foldl_fst_of | extract_lets | split | simp only [sameMem_mk_iff]
    | simp +zetaDelta only [sameMem_mk_iff]

theorem State.putOut_sameMem {s0 s : State} (h : s0.SameMem s) (o : FpOut) (f : FpOut → Option FpOut) : s0.SameMem
    (State.putOut s o f) := by
  unfold State.putOut
  with_reducible repeat' first
    | intro _ | assumption | apply ite_of | apply foldl_of | apply foldl_snd_of | apply foldl_fst_of
    | extract_lets | split | simp only [sameMem_mk_iff] | simp +zetaDelta only [sameMem_mk_iff]

theorem State.outDoneLines_sameMem {s0 s : State} (h : s0.SameMem s) (sl j no : Nat) (o : FpOut) : s0.SameMem
    (State.outDoneLines s sl j no o) := by
  unfold State.outDoneLines
  with_reducible repeat' first
    | intro _ | assumption | apply count_sameMem | apply modInst_sameMem | apply ite_of | apply foldl_of
    | apply foldl_snd_of | apply foldl_fst_of | extract_lets | split | simp only [sameMem_mk_iff]
    | simp +zetaDelta only [sameMem_mk_iff]

theorem State.fpTake_sameMem {s0 s : State} (h : s0.SameMem s) (f : State → State) (hf : ∀ t : State, s0.SameMem t →
    s0.SameMem (f t)) : s0.SameMem (State.fpTake s f) := by
  unfold State.fpTake
  with_reducible repeat' first
    | intro _ | assumption | apply wake_sameMem | apply ite_of | apply foldl_of | apply foldl_snd_of
    | apply foldl_fst_of | extract_lets | split | simp only [sameMem_mk_iff]
    | simp +zetaDelta only [sameMem_mk_iff] | apply hf

theorem State.fpPerform_sameMem {s0 s : State} (h : s0.SameMem s) (p : Packet) (l : List (Nat × Spot)) : s0.SameMem
    (State.fpPerform s p l) := by
  unfold State.fpPerform
  with_reducible repeat' first
    | intro _ | assumption | apply fpAnswer_sameMem | apply sendParts_sameMem | apply ite_of | apply foldl_of
    | apply foldl_snd_of | apply foldl_fst_of | extract_lets | split | simp only [sameMem_mk_iff]
    | simp +zetaDelta only [sameMem_mk_iff]

theorem State.fpOpens_sameMem {s0 s : State} (h : s0.SameMem s) (p : Packet) : s0.SameMem (State.fpOpens s p) := by
  unfold State.fpOpens
  with_reducible repeat' first
    | intro _ | assumption | apply putTag_sameMem | apply ite_of | apply foldl_of | apply foldl_snd_of
    | apply foldl_fst_of | extract_lets | split | simp only [sameMem_mk_iff]
    | simp +zetaDelta only [sameMem_mk_iff]

theorem State.fpRequest_sameMem {s0 s : State} (h : s0.SameMem s) (p : Packet) : s0.SameMem (State.fpRequest s p)
    := by
  unfold State.fpRequest
  with_reducible repeat' first
    | intro _ | assumption | apply fpAnswer_sameMem | apply fpOpens_sameMem | apply fpPerform_sameMem
    | apply ite_of | apply foldl_of | apply foldl_snd_of | apply foldl_fst_of | extract_lets | split
    | simp only [sameMem_mk_iff] | simp +zetaDelta only [sameMem_mk_iff]

theorem State.storeWinCtl_sameMem {r0 s : State} (h : r0.SameMem s) (s0 : State) (w : Nat) (v : Word) (ctx : Nat)
    : r0.SameMem (State.storeWinCtl s s0 w v ctx) := by
  unfold State.storeWinCtl
  with_reducible repeat' first
    | intro _ | assumption | apply storeReg_sameMem | apply refuseCfg_sameMem | apply dropTags_sameMem
    | apply setWin_sameMem | apply ite_of | apply foldl_of | apply foldl_snd_of | apply foldl_fst_of
    | extract_lets | split | simp only [sameMem_mk_iff] | simp +zetaDelta only [sameMem_mk_iff]

theorem State.storeWin_sameMem {r0 s : State} (h : r0.SameMem s) (s0 : State) (w a : Nat) (v : Word) (ctx : Nat)
    : r0.SameMem (State.storeWin s s0 w a v ctx) := by
  unfold State.storeWin
  with_reducible repeat' first
    | intro _ | assumption | apply storeReg_sameMem | apply ite_of | apply foldl_of | apply foldl_snd_of
    | apply foldl_fst_of | extract_lets | split | simp only [sameMem_mk_iff]
    | simp +zetaDelta only [sameMem_mk_iff]

theorem State.winDrained_sameMem {s0 s : State} (h : s0.SameMem s) (w : Nat) : s0.SameMem (State.winDrained s w)
    := by
  unfold State.winDrained
  with_reducible repeat' first
    | intro _ | assumption | apply closeWindow_sameMem | apply ite_of | apply foldl_of | apply foldl_snd_of
    | apply foldl_fst_of | extract_lets | split | simp only [sameMem_mk_iff]
    | simp +zetaDelta only [sameMem_mk_iff]

theorem State.winTimeout_sameMem {s0 s : State} (h : s0.SameMem s) (w : Nat) : s0.SameMem (State.winTimeout s w)
    := by
  unfold State.winTimeout
  with_reducible repeat' first
    | intro _ | assumption | apply reach_sameMem | apply closeWindow_sameMem | apply raiseIrq_sameMem
    | apply ite_of | apply foldl_of | apply foldl_snd_of | apply foldl_fst_of | extract_lets | split
    | simp only [sameMem_mk_iff] | simp +zetaDelta only [sameMem_mk_iff]

theorem State.storeChipId_sameMem {r0 s : State} (h : r0.SameMem s) (s0 : State) (v : Word) (ctx : Nat) : r0.SameMem
    (State.storeChipId s s0 v ctx) := by
  unfold State.storeChipId
  with_reducible repeat' first
    | intro _ | assumption | apply storeReg_sameMem | apply putB_sameMem | apply ite_of | apply foldl_of
    | apply foldl_snd_of | apply foldl_fst_of | extract_lets | split | simp only [sameMem_mk_iff]
    | simp +zetaDelta only [sameMem_mk_iff]

theorem State.storeKnell_sameMem {s0 s : State} (h : s0.SameMem s) (v : Word) (ctx : Nat) : s0.SameMem
    (State.storeKnell s v ctx) := by
  unfold State.storeKnell
  with_reducible repeat' first
    | intro _ | assumption | apply storeReg_sameMem | apply queueKnell_sameMem | apply putB_sameMem | apply ite_of
    | apply foldl_of | apply foldl_snd_of | apply foldl_fst_of | extract_lets | split | simp only [sameMem_mk_iff]
    | simp +zetaDelta only [sameMem_mk_iff]

theorem State.freeKill_sameMem {s0 s : State} (h : s0.SameMem s)  : s0.SameMem (State.freeKill s) := by
  unfold State.freeKill
  with_reducible repeat' first
    | intro _ | assumption | apply killK1_sameMem | apply ite_of | apply foldl_of | apply foldl_snd_of
    | apply foldl_fst_of | extract_lets | split | simp only [sameMem_mk_iff]
    | simp +zetaDelta only [sameMem_mk_iff]

theorem State.knellSend_sameMem {s0 s : State} (h : s0.SameMem s)  : s0.SameMem (State.knellSend s) := by
  unfold State.knellSend
  with_reducible repeat' first
    | intro _ | assumption | apply fpShow_sameMem | apply count_sameMem | apply putB_sameMem
    | apply freeKill_sameMem | apply ite_of | apply foldl_of | apply foldl_snd_of | apply foldl_fst_of
    | extract_lets | split | simp only [sameMem_mk_iff] | simp +zetaDelta only [sameMem_mk_iff]

theorem State.receiveKnell_sameMem {s0 s : State} (h : s0.SameMem s) (p : Packet) : s0.SameMem
    (State.receiveKnell s p) := by
  unfold State.receiveKnell
  with_reducible repeat' first
    | intro _ | assumption | apply wr_sameMem | apply count_sameMem | apply raiseIrq_sameMem
    | apply closeWindows_sameMem | apply killJob_sameMem | apply ite_of | apply foldl_of | apply foldl_snd_of
    | apply foldl_fst_of | extract_lets | split | simp only [sameMem_mk_iff]
    | simp +zetaDelta only [sameMem_mk_iff]

theorem State.releaseKnells_sameMem {s0 s : State} (h : s0.SameMem s)  : s0.SameMem (State.releaseKnells s) := by
  unfold State.releaseKnells
  with_reducible repeat' first
    | intro _ | assumption | apply receiveKnell_sameMem | apply ite_of | apply foldl_of | apply foldl_snd_of
    | apply foldl_fst_of | extract_lets | split | simp only [sameMem_mk_iff]
    | simp +zetaDelta only [sameMem_mk_iff]

theorem State.knellIn_sameMem {s0 s : State} (h : s0.SameMem s) (p : Packet) : s0.SameMem (State.knellIn s p) := by
  unfold State.knellIn
  with_reducible repeat' first
    | intro _ | assumption | apply absorb_sameMem | apply pass_sameMem | apply receiveKnell_sameMem
    | apply wakeAll_sameMem | apply ite_of | apply foldl_of | apply foldl_snd_of | apply foldl_fst_of
    | extract_lets | split | simp only [sameMem_mk_iff] | simp +zetaDelta only [sameMem_mk_iff]

theorem State.storePair_sameMem {s0 s : State} (h : s0.SameMem s) (sl n : Nat) (v : Word) (ctx : Nat) : s0.SameMem
    (State.storePair s sl n v ctx) := by
  unfold State.storePair
  with_reducible repeat' first
    | intro _ | assumption | apply claveTime_sameMem | apply storeReg_sameMem | apply ite_of | apply foldl_of
    | apply foldl_snd_of | apply foldl_fst_of | extract_lets | split | simp only [sameMem_mk_iff]
    | simp +zetaDelta only [sameMem_mk_iff]

theorem State.reportPair_sameMem {s0 s : State} (h : s0.SameMem s) (sl n : Nat) (taken : Bool) : s0.SameMem
    (State.reportPair s sl n taken) := by
  unfold State.reportPair
  with_reducible repeat' first
    | intro _ | assumption | apply wr_sameMem | apply ite_of | apply foldl_of | apply foldl_snd_of
    | apply foldl_fst_of | extract_lets | split | simp only [sameMem_mk_iff]
    | simp +zetaDelta only [sameMem_mk_iff]

theorem State.semSignal_sameMem {s0 s : State} (h : s0.SameMem s) (sl : Nat) (v : Word) : s0.SameMem
    (State.semSignal s sl v) := by
  unfold State.semSignal
  with_reducible repeat' first
    | intro _ | assumption | apply claveSignal_sameMem | apply reportPair_sameMem | apply ite_of | apply foldl_of
    | apply foldl_snd_of | apply foldl_fst_of | extract_lets | split | simp only [sameMem_mk_iff]
    | simp +zetaDelta only [sameMem_mk_iff]

theorem State.semTake_sameMem {s0 s : State} (h : s0.SameMem s) (sl : Nat) (v : Word) : s0.SameMem
    (State.semTake s sl v) := by
  unfold State.semTake
  with_reducible repeat' first
    | intro _ | assumption | apply blockingTakes_sameMem | apply claveTake_sameMem | apply reportPair_sameMem
    | apply ite_of | apply foldl_of | apply foldl_snd_of | apply foldl_fst_of | extract_lets | split
    | simp only [sameMem_mk_iff] | simp +zetaDelta only [sameMem_mk_iff]

theorem State.countUnread_sameMem {s0 s : State} (h : s0.SameMem s)  : s0.SameMem (State.countUnread s) := by
  unfold State.countUnread
  with_reducible repeat' first
    | intro _ | assumption | apply putF_sameMem | apply count_sameMem | apply ite_of | apply foldl_of
    | apply foldl_snd_of | apply foldl_fst_of | extract_lets | split | simp only [sameMem_mk_iff]
    | simp +zetaDelta only [sameMem_mk_iff]

theorem State.ringWrite_sameMem {s0 s : State} (h : s0.SameMem s) (r : ErrRec) : s0.SameMem (State.ringWrite s r)
    := by
  unfold State.ringWrite
  with_reducible repeat' first
    | intro _ | assumption | apply countUnread_sameMem | apply count_sameMem | apply putB_sameMem
    | apply raiseIrq_sameMem | apply ite_of | apply foldl_of | apply foldl_snd_of | apply foldl_fst_of
    | extract_lets | split | simp only [sameMem_mk_iff] | simp +zetaDelta only [sameMem_mk_iff]

theorem State.recordWrite_sameMem {s0 s : State} (h : s0.SameMem s)  : s0.SameMem (State.recordWrite s) := by
  unfold State.recordWrite
  with_reducible repeat' first
    | intro _ | assumption | apply ringWrite_sameMem | apply each_sameMem | apply flushSlice_sameMem
    | apply ite_of | apply foldl_of | apply foldl_snd_of | apply foldl_fst_of | extract_lets | split
    | simp only [sameMem_mk_iff] | simp +zetaDelta only [sameMem_mk_iff]

theorem State.ceEnds_sameMem {s0 s : State} (h : s0.SameMem s) (sl : Nat) : s0.SameMem (State.ceEnds s sl) := by
  unfold State.ceEnds
  with_reducible repeat' first
    | intro _ | assumption | apply reach_sameMem | apply modSlice_sameMem | apply flushSlice_sameMem
    | apply ite_of | apply foldl_of | apply foldl_snd_of | apply foldl_fst_of | extract_lets | split
    | simp only [sameMem_mk_iff] | simp +zetaDelta only [sameMem_mk_iff]

theorem State.storeErrRd_sameMem {s0 s : State} (h : s0.SameMem s) (v : Word) (ctx : Nat) : s0.SameMem
    (State.storeErrRd s v ctx) := by
  unfold State.storeErrRd
  with_reducible repeat' first
    | intro _ | assumption | apply storeReg_sameMem | apply putF_sameMem | apply ite_of | apply foldl_of
    | apply foldl_snd_of | apply foldl_fst_of | extract_lets | split | simp only [sameMem_mk_iff]
    | simp +zetaDelta only [sameMem_mk_iff]

theorem State.storeErrStat_sameMem {s0 s : State} (h : s0.SameMem s) (v : Word) (ctx : Nat) : s0.SameMem
    (State.storeErrStat s v ctx) := by
  unfold State.storeErrStat
  with_reducible repeat' first
    | intro _ | assumption | apply storeReg_sameMem | apply putB_sameMem | apply ite_of | apply foldl_of
    | apply foldl_snd_of | apply foldl_fst_of | extract_lets | split | simp only [sameMem_mk_iff]
    | simp +zetaDelta only [sameMem_mk_iff]

theorem State.storeErrCfg_sameMem {s0 s : State} (h : s0.SameMem s) (v : Word) (ctx : Nat) : s0.SameMem
    (State.storeErrCfg s v ctx) := by
  unfold State.storeErrCfg
  with_reducible repeat' first
    | intro _ | assumption | apply storeReg_sameMem | apply ite_of | apply foldl_of | apply foldl_snd_of
    | apply foldl_fst_of | extract_lets | split | simp only [sameMem_mk_iff]
    | simp +zetaDelta only [sameMem_mk_iff]

theorem State.toBar_sameMem {s0 s : State} (h : s0.SameMem s) (since : Nat) : s0.SameMem (State.toBar s since) := by
  unfold State.toBar
  with_reducible repeat' first
    | intro _ | assumption | apply reach_sameMem | apply ite_of | apply foldl_of | apply foldl_snd_of
    | apply foldl_fst_of | extract_lets | split | simp only [sameMem_mk_iff]
    | simp +zetaDelta only [sameMem_mk_iff]

theorem State.beatAnomaly_sameMem {s0 s : State} (h : s0.SameMem s) (bit : Nat) : s0.SameMem
    (State.beatAnomaly s bit) := by
  unfold State.beatAnomaly
  with_reducible repeat' first
    | intro _ | assumption | apply putB_sameMem | apply raiseIrq_sameMem | apply ite_of | apply foldl_of
    | apply foldl_snd_of | apply foldl_fst_of | extract_lets | split | simp only [sameMem_mk_iff]
    | simp +zetaDelta only [sameMem_mk_iff]

theorem State.beatAccept_sameMem {s0 s : State} (h : s0.SameMem s) (n : Nat) : s0.SameMem (State.beatAccept s n)
    := by
  unfold State.beatAccept
  with_reducible repeat' first
    | intro _ | assumption | apply ite_of | apply foldl_of | apply foldl_snd_of | apply foldl_fst_of
    | extract_lets | split | simp only [sameMem_mk_iff] | simp +zetaDelta only [sameMem_mk_iff]

theorem State.beatJudge_sameMem {s0 s : State} (h : s0.SameMem s) (n : Nat) : s0.SameMem (State.beatJudge s n) := by
  unfold State.beatJudge
  with_reducible repeat' first
    | intro _ | assumption | apply beatAccept_sameMem | apply beatAnomaly_sameMem | apply ite_of | apply foldl_of
    | apply foldl_snd_of | apply foldl_fst_of | extract_lets | split | simp only [sameMem_mk_iff]
    | simp +zetaDelta only [sameMem_mk_iff]

theorem State.beatStrobe_sameMem {s0 s : State} (h : s0.SameMem s) (n : Nat) : s0.SameMem (State.beatStrobe s n)
    := by
  unfold State.beatStrobe
  with_reducible repeat' first
    | intro _ | assumption | apply beatJudge_sameMem | apply ite_of | apply foldl_of | apply foldl_snd_of
    | apply foldl_fst_of | extract_lets | split | simp only [sameMem_mk_iff]
    | simp +zetaDelta only [sameMem_mk_iff]

theorem State.measure_sameMem {s0 s : State} (h : s0.SameMem s) (mhz : Nat) : s0.SameMem (State.measure s mhz) := by
  unfold State.measure
  with_reducible repeat' first
    | intro _ | assumption | apply putF_sameMem | apply putB_sameMem | apply ite_of | apply foldl_of
    | apply foldl_snd_of | apply foldl_fst_of | extract_lets | split | simp only [sameMem_mk_iff]
    | simp +zetaDelta only [sameMem_mk_iff]

theorem State.changeM_sameMem {s0 s : State} (h : s0.SameMem s)  : s0.SameMem (State.changeM s) := by
  unfold State.changeM
  with_reducible repeat' first
    | intro _ | assumption | apply toBar_sameMem | apply putF_sameMem | apply putB_sameMem | apply ite_of
    | apply foldl_of | apply foldl_snd_of | apply foldl_fst_of | extract_lets | split | simp only [sameMem_mk_iff]
    | simp +zetaDelta only [sameMem_mk_iff]

theorem State.barBoundary_sameMem {s0 s : State} (h : s0.SameMem s)  : s0.SameMem (State.barBoundary s) := by
  unfold State.barBoundary
  with_reducible repeat' first
    | intro _ | assumption | apply reach_sameMem | apply toBar_sameMem | apply ite_of | apply foldl_of
    | apply foldl_snd_of | apply foldl_fst_of | extract_lets | split | simp only [sameMem_mk_iff]
    | simp +zetaDelta only [sameMem_mk_iff]

theorem State.refuseEntry_sameMem {s0 s : State} (h : s0.SameMem s) (sl a ctx : Nat) : s0.SameMem
    (State.refuseEntry s sl a ctx) := by
  unfold State.refuseEntry
  with_reducible repeat' first
    | intro _ | assumption | apply refuseCfg_sameMem | apply rhyCtrl_sameMem | apply putB_sameMem | apply ite_of
    | apply foldl_of | apply foldl_snd_of | apply foldl_fst_of | extract_lets | split | simp only [sameMem_mk_iff]
    | simp +zetaDelta only [sameMem_mk_iff]

theorem State.storePhase_sameMem {r0 s : State} (h : r0.SameMem s) (s0 : State) (sl : Nat) (tabB : Bool) (phase
    : Nat) (v : Word) (ctx : Nat) : r0.SameMem (State.storePhase s s0 sl tabB phase v ctx) := by
  unfold State.storePhase
  with_reducible repeat' first
    | intro _ | assumption | apply wr_sameMem | apply refuseEntry_sameMem | apply ite_of | apply foldl_of
    | apply foldl_snd_of | apply foldl_fst_of | extract_lets | split | simp only [sameMem_mk_iff]
    | simp +zetaDelta only [sameMem_mk_iff]

theorem State.rhyTable_sameMem {s0 s : State} (h : s0.SameMem s) (sl : Nat) (tabB : Bool) (phase : Nat) (v : Word)
    (ctx : Nat) : s0.SameMem (State.rhyTable s sl tabB phase v ctx) := by
  unfold State.rhyTable
  with_reducible repeat' first
    | intro _ | assumption | apply csrAccess_sameMem | apply storePhase_sameMem | apply ite_of | apply foldl_of
    | apply foldl_snd_of | apply foldl_fst_of | extract_lets | split | simp only [sameMem_mk_iff]
    | simp +zetaDelta only [sameMem_mk_iff]

theorem State.storeRhyCtrl_sameMem {s0 s : State} (h : s0.SameMem s) (sl : Nat) (v : Word) (ctx : Nat) : s0.SameMem
    (State.storeRhyCtrl s sl v ctx) := by
  unfold State.storeRhyCtrl
  with_reducible repeat' first
    | intro _ | assumption | apply storeReg_sameMem | apply rhyCtrl_sameMem | apply modSlice_sameMem
    | apply ite_of | apply foldl_of | apply foldl_snd_of | apply foldl_fst_of | extract_lets | split
    | simp only [sameMem_mk_iff] | simp +zetaDelta only [sameMem_mk_iff]

theorem State.rhyCtrl_sameMem {s0 s : State} (h : s0.SameMem s) (sl : Nat) (v : Word) (ctx : Nat) : s0.SameMem
    (State.rhyCtrl s sl v ctx) := by
  unfold State.rhyCtrl
  with_reducible repeat' first
    | intro _ | assumption | apply csrAccess_sameMem | apply storeRhyCtrl_sameMem | apply ite_of | apply foldl_of
    | apply foldl_snd_of | apply foldl_fst_of | extract_lets | split | simp only [sameMem_mk_iff]
    | simp +zetaDelta only [sameMem_mk_iff]

theorem State.makeActive_sameMem {s0 s : State} (h : s0.SameMem s) (sl since : Nat) : s0.SameMem
    (State.makeActive s sl since) := by
  unfold State.makeActive
  with_reducible repeat' first
    | intro _ | assumption | apply toBar_sameMem | apply putB_sameMem | apply rhyCtrl_sameMem
    | apply rescan_sameMem | apply commitGolden_sameMem | apply ite_of | apply foldl_of | apply foldl_snd_of
    | apply foldl_fst_of | extract_lets | split | simp only [sameMem_mk_iff]
    | simp +zetaDelta only [sameMem_mk_iff]

theorem State.tableSwitch_sameMem {s0 s : State} (h : s0.SameMem s) (sl : Nat) : s0.SameMem (State.tableSwitch s sl)
    := by
  unfold State.tableSwitch
  with_reducible repeat' first
    | intro _ | assumption | apply rhyCtrl_sameMem | apply makeActive_sameMem | apply ite_of | apply foldl_of
    | apply foldl_snd_of | apply foldl_fst_of | extract_lets | split | simp only [sameMem_mk_iff]
    | simp +zetaDelta only [sameMem_mk_iff]

theorem State.beatSwitch_sameMem {s0 s : State} (h : s0.SameMem s) (sl : Nat) : s0.SameMem (State.beatSwitch s sl)
    := by
  unfold State.beatSwitch
  with_reducible repeat' first
    | intro _ | assumption | apply rhyCtrl_sameMem | apply makeActive_sameMem | apply ite_of | apply foldl_of
    | apply foldl_snd_of | apply foldl_fst_of | extract_lets | split | simp only [sameMem_mk_iff]
    | simp +zetaDelta only [sameMem_mk_iff]

theorem State.noteVote_sameMem {s0 s : State} (h : s0.SameMem s) (k : Nat) : s0.SameMem (State.noteVote s k) := by
  unfold State.noteVote
  with_reducible repeat' first
    | intro _ | assumption | apply putB_sameMem | apply ite_of | apply foldl_of | apply foldl_snd_of
    | apply foldl_fst_of | extract_lets | split | simp only [sameMem_mk_iff]
    | simp +zetaDelta only [sameMem_mk_iff]

theorem State.voteWrite_sameMem {s0 s : State} (h : s0.SameMem s) (k : Nat) : s0.SameMem (State.voteWrite s k) := by
  unfold State.voteWrite
  with_reducible repeat' first
    | intro _ | assumption | apply ite_of | apply foldl_of | apply foldl_snd_of | apply foldl_fst_of
    | extract_lets | split | simp only [sameMem_mk_iff] | simp +zetaDelta only [sameMem_mk_iff]

theorem State.tuncfgWrite_sameMem {s0 s : State} (h : s0.SameMem s) (a : Nat) : s0.SameMem (State.tuncfgWrite s a)
    := by
  unfold State.tuncfgWrite
  with_reducible repeat' first
    | intro _ | assumption | apply voteWrite_sameMem | apply putB_sameMem | apply ite_of | apply foldl_of
    | apply foldl_snd_of | apply foldl_fst_of | extract_lets | split | simp only [sameMem_mk_iff]
    | simp +zetaDelta only [sameMem_mk_iff]

theorem State.logRecord_sameMem {s0 s : State} (h : s0.SameMem s)  : s0.SameMem (State.logRecord s) := by
  unfold State.logRecord
  with_reducible repeat' first
    | intro _ | assumption | apply count_sameMem | apply ite_of | apply foldl_of | apply foldl_snd_of
    | apply foldl_fst_of | extract_lets | split | simp only [sameMem_mk_iff]
    | simp +zetaDelta only [sameMem_mk_iff]

theorem State.writeDump_sameMem {s0 s : State} (h : s0.SameMem s) (reason : Nat) (keep : Bool) : s0.SameMem
    (State.writeDump s reason keep) := by
  unfold State.writeDump
  with_reducible repeat' first
    | intro _ | assumption | apply logEvent_sameMem | apply countSat_sameMem | apply freeDraw_sameMem
    | apply ite_of | apply foldl_of | apply foldl_snd_of | apply foldl_fst_of | extract_lets | split
    | simp only [sameMem_mk_iff] | simp +zetaDelta only [sameMem_mk_iff]

theorem State.freeDump_sameMem {s0 s : State} (h : s0.SameMem s) (e : Nat) : s0.SameMem (State.freeDump s e) := by
  unfold State.freeDump
  with_reducible repeat' first
    | intro _ | assumption | apply ite_of | apply foldl_of | apply foldl_snd_of | apply foldl_fst_of
    | extract_lets | split | simp only [sameMem_mk_iff] | simp +zetaDelta only [sameMem_mk_iff]

theorem State.clearStore_sameMem {s0 s : State} (h : s0.SameMem s)  : s0.SameMem (State.clearStore s) := by
  unfold State.clearStore
  with_reducible repeat' first
    | intro _ | assumption | apply toReset_sameMem | apply ite_of | apply foldl_of | apply foldl_snd_of
    | apply foldl_fst_of | extract_lets | split | simp only [sameMem_mk_iff]
    | simp +zetaDelta only [sameMem_mk_iff]

theorem State.putResult_sameMem {s0 s : State} (h : s0.SameMem s) (bs : List Byte) : s0.SameMem
    (State.putResult s bs) := by
  unfold State.putResult
  with_reducible repeat' first
    | intro _ | assumption | apply each_sameMem | apply wr_sameMem | apply ite_of | apply foldl_of
    | apply foldl_snd_of | apply foldl_fst_of | extract_lets | split | simp only [sameMem_mk_iff]
    | simp +zetaDelta only [sameMem_mk_iff]

theorem State.publish_sameMem {s0 s : State} (h : s0.SameMem s) (status : Nat) (bs : List Byte) : s0.SameMem
    (State.publish s status bs) := by
  unfold State.publish
  with_reducible repeat' first
    | intro _ | assumption | apply putResult_sameMem | apply wr_sameMem | apply raiseIrq_sameMem | apply ite_of
    | apply foldl_of | apply foldl_snd_of | apply foldl_fst_of | extract_lets | split | simp only [sameMem_mk_iff]
    | simp +zetaDelta only [sameMem_mk_iff]

theorem State.haltBelfry_sameMem {s0 s : State} (h : s0.SameMem s)  : s0.SameMem (State.haltBelfry s) := by
  unfold State.haltBelfry
  with_reducible repeat' first
    | intro _ | assumption | apply publish_sameMem | apply ite_of | apply foldl_of | apply foldl_snd_of
    | apply foldl_fst_of | extract_lets | split | simp only [sameMem_mk_iff]
    | simp +zetaDelta only [sameMem_mk_iff]

theorem State.eraseFlash_sameMem {s0 s : State} (h : s0.SameMem s) (lo hi : Nat) : s0.SameMem
    (State.eraseFlash s lo hi) := by
  unfold State.eraseFlash
  with_reducible repeat' first
    | intro _ | assumption | apply ite_of | apply foldl_of | apply foldl_snd_of | apply foldl_fst_of
    | extract_lets | split | simp only [sameMem_mk_iff] | simp +zetaDelta only [sameMem_mk_iff]

theorem State.programFlash_sameMem {s0 s : State} (h : s0.SameMem s) (a : Nat) (bs : List Byte) : s0.SameMem
    (State.programFlash s a bs) := by
  unfold State.programFlash
  with_reducible repeat' first
    | intro _ | assumption | apply ite_of | apply foldl_of | apply foldl_snd_of | apply foldl_fst_of
    | extract_lets | split | simp only [sameMem_mk_iff] | simp +zetaDelta only [sameMem_mk_iff]

theorem State.spoilFlash_sameMem {s0 s : State} (h : s0.SameMem s) (lo hi : Nat) : s0.SameMem
    (State.spoilFlash s lo hi) := by
  unfold State.spoilFlash
  with_reducible repeat' first
    | intro _ | assumption | apply programFlash_sameMem | apply ite_of | apply foldl_of | apply foldl_snd_of
    | apply foldl_fst_of | extract_lets | split | simp only [sameMem_mk_iff]
    | simp +zetaDelta only [sameMem_mk_iff]

theorem State.reachRef_sameMem {s0 s : State} (h : s0.SameMem s) (t : Nat) : s0.SameMem (State.reachRef s t) := by
  unfold State.reachRef
  with_reducible repeat' first
    | intro _ | assumption | apply pass_sameMem | apply ite_of | apply foldl_of | apply foldl_snd_of
    | apply foldl_fst_of | extract_lets | split | simp only [sameMem_mk_iff]
    | simp +zetaDelta only [sameMem_mk_iff]

theorem State.reportRegion_sameMem {s0 s : State} (h : s0.SameMem s) (r : Nat) : s0.SameMem (State.reportRegion s r)
    := by
  unfold State.reportRegion
  with_reducible repeat' first
    | intro _ | assumption | apply putF_sameMem | apply putB_sameMem | apply ite_of | apply foldl_of
    | apply foldl_snd_of | apply foldl_fst_of | extract_lets | split | simp only [sameMem_mk_iff]
    | simp +zetaDelta only [sameMem_mk_iff]

theorem State.tunerRec_sameMem {s0 s : State} (h : s0.SameMem s) (code r inst : Nat) : s0.SameMem
    (State.tunerRec s code r inst) := by
  unfold State.tunerRec
  with_reducible repeat' first
    | intro _ | assumption | apply sliceRec_sameMem | apply globalRec_sameMem | apply ite_of | apply foldl_of
    | apply foldl_snd_of | apply foldl_fst_of | extract_lets | split | simp only [sameMem_mk_iff]
    | simp +zetaDelta only [sameMem_mk_iff]

theorem State.mismatchWake_sameMem {s0 s : State} (h : s0.SameMem s)  : s0.SameMem (State.mismatchWake s) := by
  unfold State.mismatchWake
  with_reducible repeat' first
    | intro _ | assumption | apply wakeAll_sameMem | apply ite_of | apply foldl_of | apply foldl_snd_of
    | apply foldl_fst_of | extract_lets | split | simp only [sameMem_mk_iff]
    | simp +zetaDelta only [sameMem_mk_iff]

theorem State.beginScans_sameMem {s0 s : State} (h : s0.SameMem s)  : s0.SameMem (State.beginScans s) := by
  unfold State.beginScans
  with_reducible repeat' first
    | intro _ | assumption | apply putB_sameMem | apply ite_of | apply foldl_of | apply foldl_snd_of
    | apply foldl_fst_of | extract_lets | split | simp only [sameMem_mk_iff]
    | simp +zetaDelta only [sameMem_mk_iff]

theorem State.endScans_sameMem {s0 s : State} (h : s0.SameMem s)  : s0.SameMem (State.endScans s) := by
  unfold State.endScans
  with_reducible repeat' first
    | intro _ | assumption | apply putB_sameMem | apply count_sameMem | apply ite_of | apply foldl_of
    | apply foldl_snd_of | apply foldl_fst_of | extract_lets | split | simp only [sameMem_mk_iff]
    | simp +zetaDelta only [sameMem_mk_iff]

theorem State.passStart_sameMem {s0 s : State} (h : s0.SameMem s)  : s0.SameMem (State.passStart s) := by
  unfold State.passStart
  with_reducible repeat' first
    | intro _ | assumption | apply reach_sameMem | apply beginScans_sameMem | apply endScans_sameMem
    | apply ite_of | apply foldl_of | apply foldl_snd_of | apply foldl_fst_of | extract_lets | split
    | simp only [sameMem_mk_iff] | simp +zetaDelta only [sameMem_mk_iff]

theorem State.leavePass_sameMem {s0 s : State} (h : s0.SameMem s) (r inst : Nat) : s0.SameMem
    (State.leavePass s r inst) := by
  unfold State.leavePass
  with_reducible repeat' first
    | intro _ | assumption | apply ite_of | apply foldl_of | apply foldl_snd_of | apply foldl_fst_of
    | extract_lets | split | simp only [sameMem_mk_iff] | simp +zetaDelta only [sameMem_mk_iff]

theorem State.reloadMirror_sameMem {s0 s : State} (h : s0.SameMem s) (sl : Nat) : s0.SameMem
    (State.reloadMirror s sl) := by
  unfold State.reloadMirror
  with_reducible repeat' first
    | intro _ | assumption | apply each_sameMem | apply putMirror_sameMem | apply ite_of | apply foldl_of
    | apply foldl_snd_of | apply foldl_fst_of | extract_lets | split | simp only [sameMem_mk_iff]
    | simp +zetaDelta only [sameMem_mk_iff]

theorem State.storeTunerCtl_sameMem {s0 s : State} (h : s0.SameMem s) (v : Word) (ctx : Nat) : s0.SameMem
    (State.storeTunerCtl s v ctx) := by
  unfold State.storeTunerCtl
  with_reducible repeat' first
    | intro _ | assumption | apply storeReg_sameMem | apply tuncfgWrite_sameMem | apply ite_of | apply foldl_of
    | apply foldl_snd_of | apply foldl_fst_of | extract_lets | split | simp only [sameMem_mk_iff]
    | simp +zetaDelta only [sameMem_mk_iff]

theorem State.runChallenge_sameMem {s0 s : State} (h : s0.SameMem s)  : s0.SameMem (State.runChallenge s) := by
  unfold State.runChallenge
  with_reducible repeat' first
    | intro _ | assumption | apply wr_sameMem | apply ite_of | apply foldl_of | apply foldl_snd_of
    | apply foldl_fst_of | extract_lets | split | simp only [sameMem_mk_iff]
    | simp +zetaDelta only [sameMem_mk_iff]

theorem State.tunerPrivate_sameMem {s0 s : State} (h : s0.SameMem s) (a ctx : Nat) (f : State → State) (hf : ∀ t
    : State, s0.SameMem t → s0.SameMem (f t)) : s0.SameMem (State.tunerPrivate s a ctx f) := by
  unfold State.tunerPrivate
  with_reducible repeat' first
    | intro _ | assumption | apply csrAccess_sameMem | apply refuseCfg_sameMem | apply ite_of | apply foldl_of
    | apply foldl_snd_of | apply foldl_fst_of | extract_lets | split | simp only [sameMem_mk_iff]
    | simp +zetaDelta only [sameMem_mk_iff] | apply hf

theorem State.chexpGo_sameMem {s0 s : State} (h : s0.SameMem s) (v : Word) (ctx : Nat) : s0.SameMem
    (State.chexpGo s v ctx) := by
  unfold State.chexpGo
  with_reducible repeat' first
    | intro _ | assumption | apply tunerPrivate_sameMem | apply storeReg_sameMem | apply runChallenge_sameMem
    | apply ite_of | apply foldl_of | apply foldl_snd_of | apply foldl_fst_of | extract_lets | split
    | simp only [sameMem_mk_iff] | simp +zetaDelta only [sameMem_mk_iff]

theorem State.challenge_sameMem {s0 s : State} (h : s0.SameMem s) (words : List Word) : s0.SameMem
    (State.challenge s words) := by
  unfold State.challenge
  with_reducible repeat' first
    | intro _ | assumption | apply wr_sameMem | apply chexpGo_sameMem | apply ite_of | apply foldl_of
    | apply foldl_snd_of | apply foldl_fst_of | extract_lets | split | simp only [sameMem_mk_iff]
    | simp +zetaDelta only [sameMem_mk_iff]

theorem State.rewriteTuncfg_sameMem {s0 s : State} (h : s0.SameMem s)  : s0.SameMem (State.rewriteTuncfg s) := by
  unfold State.rewriteTuncfg
  with_reducible repeat' first
    | intro _ | assumption | apply tuncfgWrite_sameMem | apply ite_of | apply foldl_of | apply foldl_snd_of
    | apply foldl_fst_of | extract_lets | split | simp only [sameMem_mk_iff]
    | simp +zetaDelta only [sameMem_mk_iff]

theorem State.judge_sameMem {s0 s : State} (h : s0.SameMem s)  : s0.SameMem (State.judge s) := by
  unfold State.judge
  with_reducible repeat' first
    | intro _ | assumption | apply rewriteTuncfg_sameMem | apply chexpGo_sameMem | apply globalRec_sameMem
    | apply raiseIrq_sameMem | apply logEvent_sameMem | apply writeDump_sameMem | apply ite_of | apply foldl_of
    | apply foldl_snd_of | apply foldl_fst_of | extract_lets | split | simp only [sameMem_mk_iff]
    | simp +zetaDelta only [sameMem_mk_iff]

theorem State.challengeLate_sameMem {s0 s : State} (h : s0.SameMem s)  : s0.SameMem (State.challengeLate s) := by
  unfold State.challengeLate
  with_reducible repeat' first
    | intro _ | assumption | apply reachRef_sameMem | apply putB_sameMem | apply globalRec_sameMem
    | apply raiseIrq_sameMem | apply ite_of | apply foldl_of | apply foldl_snd_of | apply foldl_fst_of
    | extract_lets | split | simp only [sameMem_mk_iff] | simp +zetaDelta only [sameMem_mk_iff]

theorem State.countSpares_sameMem {s0 s : State} (h : s0.SameMem s) (sl b : Nat) : s0.SameMem
    (State.countSpares s sl b) := by
  unfold State.countSpares
  with_reducible repeat' first
    | intro _ | assumption | apply putF_sameMem | apply ite_of | apply foldl_of | apply foldl_snd_of
    | apply foldl_fst_of | extract_lets | split | simp only [sameMem_mk_iff]
    | simp +zetaDelta only [sameMem_mk_iff]

theorem State.clearWindow_sameMem {s0 s : State} (h : s0.SameMem s) (sl : Nat) (keep : Nat → Bool) : s0.SameMem
    (State.clearWindow s sl keep) := by
  unfold State.clearWindow
  with_reducible repeat' first
    | intro _ | assumption | apply ite_of | apply foldl_of | apply foldl_snd_of | apply foldl_fst_of
    | extract_lets | split | simp only [sameMem_mk_iff] | simp +zetaDelta only [sameMem_mk_iff]

theorem State.ownAll_sameMem {s0 s : State} (h : s0.SameMem s) (sl : Nat) : s0.SameMem (State.ownAll s sl) := by
  unfold State.ownAll
  with_reducible repeat' first
    | intro _ | assumption | apply each_sameMem | apply giveBank_sameMem | apply ite_of | apply foldl_of
    | apply foldl_snd_of | apply foldl_fst_of | extract_lets | split | simp only [sameMem_mk_iff]
    | simp +zetaDelta only [sameMem_mk_iff]

theorem State.saveRhythm_sameMem {s0 s : State} (h : s0.SameMem s) (sl : Nat) : s0.SameMem (State.saveRhythm s sl)
    := by
  unfold State.saveRhythm
  with_reducible repeat' first
    | intro _ | assumption | apply modSlice_sameMem | apply ite_of | apply foldl_of | apply foldl_snd_of
    | apply foldl_fst_of | extract_lets | split | simp only [sameMem_mk_iff]
    | simp +zetaDelta only [sameMem_mk_iff]

theorem State.resetSave_sameMem {s0 s : State} (h : s0.SameMem s) (sl : Nat) : s0.SameMem (State.resetSave s sl)
    := by
  unfold State.resetSave
  with_reducible repeat' first
    | intro _ | assumption | apply modSlice_sameMem | apply ite_of | apply foldl_of | apply foldl_snd_of
    | apply foldl_fst_of | extract_lets | split | simp only [sameMem_mk_iff]
    | simp +zetaDelta only [sameMem_mk_iff]

theorem State.loadRhythm_sameMem {s0 s : State} (h : s0.SameMem s) (sl : Nat) : s0.SameMem (State.loadRhythm s sl)
    := by
  unfold State.loadRhythm
  with_reducible repeat' first
    | intro _ | assumption | apply wr_sameMem | apply allToReset_sameMem | apply modSlice_sameMem | apply ite_of
    | apply foldl_of | apply foldl_snd_of | apply foldl_fst_of | extract_lets | split | simp only [sameMem_mk_iff]
    | simp +zetaDelta only [sameMem_mk_iff]

theorem State.ignoreTarget_sameMem {s0 s : State} (h : s0.SameMem s)  : s0.SameMem (State.ignoreTarget s) := by
  unfold State.ignoreTarget
  with_reducible repeat' first
    | intro _ | assumption | apply putB_sameMem | apply ite_of | apply foldl_of | apply foldl_snd_of
    | apply foldl_fst_of | extract_lets | split | simp only [sameMem_mk_iff]
    | simp +zetaDelta only [sameMem_mk_iff]

theorem State.beginEntry_sameMem {s0 s : State} (h : s0.SameMem s) (t : PowerTarget) (enters : Nat) : s0.SameMem
    (State.beginEntry s t enters) := by
  unfold State.beginEntry
  with_reducible repeat' first
    | intro _ | assumption | apply setPower_sameMem | apply ite_of | apply foldl_of | apply foldl_snd_of
    | apply foldl_fst_of | extract_lets | split | simp only [sameMem_mk_iff]
    | simp +zetaDelta only [sameMem_mk_iff]

theorem State.actSlice_sameMem {s0 s : State} (h : s0.SameMem s) (sl v : Nat) : s0.SameMem (State.actSlice s sl v)
    := by
  unfold State.actSlice
  with_reducible repeat' first
    | intro _ | assumption | apply beginEntry_sameMem | apply beginWake_sameMem | apply ite_of | apply foldl_of
    | apply foldl_snd_of | apply foldl_fst_of | extract_lets | split | simp only [sameMem_mk_iff]
    | simp +zetaDelta only [sameMem_mk_iff]

theorem State.storeSliceTarget_sameMem {s0 s : State} (h : s0.SameMem s) (sl v : Nat) : s0.SameMem
    (State.storeSliceTarget s sl v) := by
  unfold State.storeSliceTarget
  with_reducible repeat' first
    | intro _ | assumption | apply ignoreTarget_sameMem | apply putF_sameMem | apply actSlice_sameMem
    | apply ite_of | apply foldl_of | apply foldl_snd_of | apply foldl_fst_of | extract_lets | split
    | simp only [sameMem_mk_iff] | simp +zetaDelta only [sameMem_mk_iff]

theorem State.reqSlice_sameMem {s0 s : State} (h : s0.SameMem s) (sl v ctx : Nat) : s0.SameMem
    (State.reqSlice s sl v ctx) := by
  unfold State.reqSlice
  with_reducible repeat' first
    | intro _ | assumption | apply csrAccess_sameMem | apply storeSliceTarget_sameMem | apply ite_of
    | apply foldl_of | apply foldl_snd_of | apply foldl_fst_of | extract_lets | split | simp only [sameMem_mk_iff]
    | simp +zetaDelta only [sameMem_mk_iff]

theorem State.storePwrReq_sameMem {s0 s : State} (h : s0.SameMem s) (i : Nat) (v : Word) : s0.SameMem
    (State.storePwrReq s i v) := by
  unfold State.storePwrReq
  with_reducible repeat' first
    | intro _ | assumption | apply each_sameMem | apply storeSliceTarget_sameMem | apply ite_of | apply foldl_of
    | apply foldl_snd_of | apply foldl_fst_of | extract_lets | split | simp only [sameMem_mk_iff]
    | simp +zetaDelta only [sameMem_mk_iff]

theorem State.storeCplx_sameMem {s0 s : State} (h : s0.SameMem s) (v p : Nat) : s0.SameMem (State.storeCplx s v p)
    := by
  unfold State.storeCplx
  with_reducible repeat' first
    | intro _ | assumption | apply ignoreTarget_sameMem | apply putF_sameMem | apply beginEntry_sameMem
    | apply beginWake_sameMem | apply ite_of | apply foldl_of | apply foldl_snd_of | apply foldl_fst_of
    | extract_lets | split | simp only [sameMem_mk_iff] | simp +zetaDelta only [sameMem_mk_iff]

theorem State.reqCplx_sameMem {s0 s : State} (h : s0.SameMem s) (v ctx : Nat) : s0.SameMem (State.reqCplx s v ctx)
    := by
  unfold State.reqCplx
  with_reducible repeat' first
    | intro _ | assumption | apply csrAccess_sameMem | apply storeCplx_sameMem | apply ite_of | apply foldl_of
    | apply foldl_snd_of | apply foldl_fst_of | extract_lets | split | simp only [sameMem_mk_iff]
    | simp +zetaDelta only [sameMem_mk_iff]

theorem State.commitEntry_sameMem {s0 s : State} (h : s0.SameMem s) (e : PwrEntry) : s0.SameMem
    (State.commitEntry s e) := by
  unfold State.commitEntry
  with_reducible repeat' first
    | intro _ | assumption | apply setPower_sameMem | apply each_sameMem | apply modSlice_sameMem
    | apply wake_sameMem | apply beginWake_sameMem | apply ite_of | apply foldl_of | apply foldl_snd_of
    | apply foldl_fst_of | extract_lets | split | simp only [sameMem_mk_iff]
    | simp +zetaDelta only [sameMem_mk_iff]

theorem State.wakeEvent_sameMem {s0 s : State} (h : s0.SameMem s) (t : PowerTarget) (c : Nat) : s0.SameMem
    (State.wakeEvent s t c) := by
  unfold State.wakeEvent
  with_reducible repeat' first
    | intro _ | assumption | apply wakeAll_sameMem | apply wakeFor_sameMem | apply wake_sameMem | apply ite_of
    | apply foldl_of | apply foldl_snd_of | apply foldl_fst_of | extract_lets | split | simp only [sameMem_mk_iff]
    | simp +zetaDelta only [sameMem_mk_iff]

theorem State.putWake_sameMem {s0 s : State} (h : s0.SameMem s) (t : PowerTarget) (f : PwrWake → Option PwrWake) :
    s0.SameMem (State.putWake s t f) := by
  unfold State.putWake
  with_reducible repeat' first
    | intro _ | assumption | apply ite_of | apply foldl_of | apply foldl_snd_of | apply foldl_fst_of
    | extract_lets | split | simp only [sameMem_mk_iff] | simp +zetaDelta only [sameMem_mk_iff]

theorem State.nextWakeStep_sameMem {s0 s : State} (h : s0.SameMem s) (w : PwrWake) : s0.SameMem
    (State.nextWakeStep s w) := by
  unfold State.nextWakeStep
  with_reducible repeat' first
    | intro _ | assumption | apply putWake_sameMem | apply ite_of | apply foldl_of | apply foldl_snd_of
    | apply foldl_fst_of | extract_lets | split | simp only [sameMem_mk_iff]
    | simp +zetaDelta only [sameMem_mk_iff]

theorem State.flashAgain_sameMem {s0 s : State} (h : s0.SameMem s)  : s0.SameMem (State.flashAgain s) := by
  unfold State.flashAgain
  with_reducible repeat' first
    | intro _ | assumption | apply ite_of | apply foldl_of | apply foldl_snd_of | apply foldl_fst_of
    | extract_lets | split | simp only [sameMem_mk_iff] | simp +zetaDelta only [sameMem_mk_iff]

theorem State.tapRequest_sameMem {s0 s : State} (h : s0.SameMem s)  : s0.SameMem (State.tapRequest s) := by
  unfold State.tapRequest
  with_reducible repeat' first
    | intro _ | assumption | apply reachRef_sameMem | apply ite_of | apply foldl_of | apply foldl_snd_of
    | apply foldl_fst_of | extract_lets | split | simp only [sameMem_mk_iff]
    | simp +zetaDelta only [sameMem_mk_iff]

theorem State.tapSleep_sameMem {s0 s : State} (h : s0.SameMem s)  : s0.SameMem (State.tapSleep s) := by
  unfold State.tapSleep
  with_reducible repeat' first
    | intro _ | assumption | apply pass_sameMem | apply ite_of | apply foldl_of | apply foldl_snd_of
    | apply foldl_fst_of | extract_lets | split | simp only [sameMem_mk_iff]
    | simp +zetaDelta only [sameMem_mk_iff]

theorem State.storeVreq_sameMem {s0 s : State} (h : s0.SameMem s) (v : Word) (ctx : Nat) : s0.SameMem
    (State.storeVreq s v ctx) := by
  unfold State.storeVreq
  with_reducible repeat' first
    | intro _ | assumption | apply storeReg_sameMem | apply putF_sameMem | apply putB_sameMem | apply ite_of
    | apply foldl_of | apply foldl_snd_of | apply foldl_fst_of | extract_lets | split | simp only [sameMem_mk_iff]
    | simp +zetaDelta only [sameMem_mk_iff]

theorem State.endVreq_sameMem {s0 s : State} (h : s0.SameMem s) (r : Nat) : s0.SameMem (State.endVreq s r) := by
  unfold State.endVreq
  with_reducible repeat' first
    | intro _ | assumption | apply putB_sameMem | apply putF_sameMem | apply raiseIrq_sameMem
    | apply logEvent_sameMem | apply ite_of | apply foldl_of | apply foldl_snd_of | apply foldl_fst_of
    | extract_lets | split | simp only [sameMem_mk_iff] | simp +zetaDelta only [sameMem_mk_iff]

theorem State.avsAck_sameMem {s0 s : State} (h : s0.SameMem s) (ack : Nat) : s0.SameMem (State.avsAck s ack) := by
  unfold State.avsAck
  with_reducible repeat' first
    | intro _ | assumption | apply endVreq_sameMem | apply ite_of | apply foldl_of | apply foldl_snd_of
    | apply foldl_fst_of | extract_lets | split | simp only [sameMem_mk_iff]
    | simp +zetaDelta only [sameMem_mk_iff]

theorem State.avsRetry_sameMem {s0 s : State} (h : s0.SameMem s)  : s0.SameMem (State.avsRetry s) := by
  unfold State.avsRetry
  with_reducible repeat' first
    | intro _ | assumption | apply reachRef_sameMem | apply ite_of | apply foldl_of | apply foldl_snd_of
    | apply foldl_fst_of | extract_lets | split | simp only [sameMem_mk_iff]
    | simp +zetaDelta only [sameMem_mk_iff]

theorem State.avsPoll_sameMem {s0 s : State} (h : s0.SameMem s) (mv : Nat) : s0.SameMem (State.avsPoll s mv) := by
  unfold State.avsPoll
  with_reducible repeat' first
    | intro _ | assumption | apply reachRef_sameMem | apply putF_sameMem | apply endVreq_sameMem | apply ite_of
    | apply foldl_of | apply foldl_snd_of | apply foldl_fst_of | extract_lets | split | simp only [sameMem_mk_iff]
    | simp +zetaDelta only [sameMem_mk_iff]

theorem State.avsTimeout_sameMem {s0 s : State} (h : s0.SameMem s)  : s0.SameMem (State.avsTimeout s) := by
  unfold State.avsTimeout
  with_reducible repeat' first
    | intro _ | assumption | apply reachRef_sameMem | apply endVreq_sameMem | apply ite_of | apply foldl_of
    | apply foldl_snd_of | apply foldl_fst_of | extract_lets | split | simp only [sameMem_mk_iff]
    | simp +zetaDelta only [sameMem_mk_iff]

theorem State.logSensor_sameMem {s0 s : State} (h : s0.SameMem s) (sl a : Nat) : s0.SameMem (State.logSensor s sl a)
    := by
  unfold State.logSensor
  with_reducible repeat' first
    | intro _ | assumption | apply queueLog_sameMem | apply ite_of | apply foldl_of | apply foldl_snd_of
    | apply foldl_fst_of | extract_lets | split | simp only [sameMem_mk_iff]
    | simp +zetaDelta only [sameMem_mk_iff]

theorem State.decideHot_sameMem {s0 s : State} (h : s0.SameMem s) (sl : Nat) (temp : Int) : s0.SameMem
    (State.decideHot s sl temp) := by
  unfold State.decideHot
  with_reducible repeat' first
    | intro _ | assumption | apply modSlice_sameMem | apply ite_of | apply foldl_of | apply foldl_snd_of
    | apply foldl_fst_of | extract_lets | split | simp only [sameMem_mk_iff]
    | simp +zetaDelta only [sameMem_mk_iff]

theorem State.sensorWindow_sameMem {s0 s : State} (h : s0.SameMem s) (sl : Nat) (temp : BitVec 10) : s0.SameMem
    (State.sensorWindow s sl temp) := by
  unfold State.sensorWindow
  with_reducible repeat' first
    | intro _ | assumption | apply putF_sameMem | apply putB_sameMem | apply modSlice_sameMem
    | apply logSensor_sameMem | apply wakeAll_sameMem | apply decideHot_sameMem | apply raiseIrq_sameMem
    | apply ite_of | apply foldl_of | apply foldl_snd_of | apply foldl_fst_of | extract_lets | split
    | simp only [sameMem_mk_iff] | simp +zetaDelta only [sameMem_mk_iff]

theorem State.droop_sameMem {s0 s : State} (h : s0.SameMem s) (sl : Nat) : s0.SameMem (State.droop s sl) := by
  unfold State.droop
  with_reducible repeat' first
    | intro _ | assumption | apply count_sameMem | apply modSlice_sameMem | apply logSensor_sameMem
    | apply wakeAll_sameMem | apply putB_sameMem | apply ite_of | apply foldl_of | apply foldl_snd_of
    | apply foldl_fst_of | extract_lets | split | simp only [sameMem_mk_iff]
    | simp +zetaDelta only [sameMem_mk_iff]

theorem State.powerUp_sameMem {s0 s : State} (h : s0.SameMem s)  : s0.SameMem (State.powerUp s) := by
  unfold State.powerUp
  with_reducible repeat' first
    | intro _ | assumption | apply putB_sameMem | apply ite_of | apply foldl_of | apply foldl_snd_of
    | apply foldl_fst_of | extract_lets | split | simp only [sameMem_mk_iff]
    | simp +zetaDelta only [sameMem_mk_iff]

theorem State.stageReport_sameMem {s0 s : State} (h : s0.SameMem s) (k result detail : Nat) (map : Word) :
    s0.SameMem (State.stageReport s k result detail map) := by
  unfold State.stageReport
  with_reducible repeat' first
    | intro _ | assumption | apply wr_sameMem | apply logEvent_sameMem | apply ite_of | apply foldl_of
    | apply foldl_snd_of | apply foldl_fst_of | extract_lets | split | simp only [sameMem_mk_iff]
    | simp +zetaDelta only [sameMem_mk_iff]

theorem State.nextStage_sameMem {s0 s : State} (h : s0.SameMem s) (n : Nat) : s0.SameMem (State.nextStage s n) := by
  unfold State.nextStage
  with_reducible repeat' first
    | intro _ | assumption | apply putF_sameMem | apply ite_of | apply foldl_of | apply foldl_snd_of
    | apply foldl_fst_of | extract_lets | split | simp only [sameMem_mk_iff]
    | simp +zetaDelta only [sameMem_mk_iff]

theorem State.endStage_sameMem {s0 s : State} (h : s0.SameMem s) (k result detail : Nat) (map : Word) : s0.SameMem
    (State.endStage s k result detail map) := by
  unfold State.endStage
  with_reducible repeat' first
    | intro _ | assumption | apply stageReport_sameMem | apply nextStage_sameMem | apply ite_of | apply foldl_of
    | apply foldl_snd_of | apply foldl_fst_of | extract_lets | split | simp only [sameMem_mk_iff]
    | simp +zetaDelta only [sameMem_mk_iff]

theorem State.failStage_sameMem {s0 s : State} (h : s0.SameMem s) (k detail : Nat) (map : Word) : s0.SameMem
    (State.failStage s k detail map) := by
  unfold State.failStage
  with_reducible repeat' first
    | intro _ | assumption | apply stageReport_sameMem | apply nextStage_sameMem | apply raiseIrq_sameMem
    | apply writeDump_sameMem | apply ite_of | apply foldl_of | apply foldl_snd_of | apply foldl_fst_of
    | extract_lets | split | simp only [sameMem_mk_iff] | simp +zetaDelta only [sameMem_mk_iff]

theorem State.release_sameMem {s0 s : State} (h : s0.SameMem s)  : s0.SameMem (State.release s) := by
  unfold State.release
  with_reducible repeat' first
    | intro _ | assumption | apply putB_sameMem | apply endStage_sameMem | apply ite_of | apply foldl_of
    | apply foldl_snd_of | apply foldl_fst_of | extract_lets | split | simp only [sameMem_mk_iff]
    | simp +zetaDelta only [sameMem_mk_iff]

theorem State.porRelease_sameMem {s0 s : State} (h : s0.SameMem s)  : s0.SameMem (State.porRelease s) := by
  unfold State.porRelease
  with_reducible repeat' first
    | intro _ | assumption | apply release_sameMem | apply ite_of | apply foldl_of | apply foldl_snd_of
    | apply foldl_fst_of | extract_lets | split | simp only [sameMem_mk_iff]
    | simp +zetaDelta only [sameMem_mk_iff]

theorem State.pgoodLost_sameMem {s0 s : State} (h : s0.SameMem s)  : s0.SameMem (State.pgoodLost s) := by
  unfold State.pgoodLost
  with_reducible repeat' first
    | intro _ | assumption | apply putF_sameMem | apply putB_sameMem | apply raiseIrq_sameMem
    | apply logEvent_sameMem | apply ite_of | apply foldl_of | apply foldl_snd_of | apply foldl_fst_of
    | extract_lets | split | simp only [sameMem_mk_iff] | simp +zetaDelta only [sameMem_mk_iff]

theorem State.bootBelfry_sameMem {s0 s : State} (h : s0.SameMem s)  : s0.SameMem (State.bootBelfry s) := by
  unfold State.bootBelfry
  with_reducible repeat' first
    | intro _ | assumption | apply ite_of | apply foldl_of | apply foldl_snd_of | apply foldl_fst_of
    | extract_lets | split | simp only [sameMem_mk_iff] | simp +zetaDelta only [sameMem_mk_iff]

theorem State.belfryConfig_sameMem {s0 s : State} (h : s0.SameMem s)  : s0.SameMem (State.belfryConfig s) := by
  unfold State.belfryConfig
  with_reducible repeat' first
    | intro _ | assumption | apply instReset_sameMem | apply commitGolden_sameMem | apply reportRegion_sameMem
    | apply ite_of | apply foldl_of | apply foldl_snd_of | apply foldl_fst_of | extract_lets | split
    | simp only [sameMem_mk_iff] | simp +zetaDelta only [sameMem_mk_iff]

theorem State.rebootBelfry_sameMem {s0 s : State} (h : s0.SameMem s)  : s0.SameMem (State.rebootBelfry s) := by
  unfold State.rebootBelfry
  with_reducible repeat' first
    | intro _ | assumption | apply bootBelfry_sameMem | apply stageReport_sameMem | apply belfryConfig_sameMem
    | apply putB_sameMem | apply putF_sameMem | apply ite_of | apply foldl_of | apply foldl_snd_of
    | apply foldl_fst_of | extract_lets | split | simp only [sameMem_mk_iff]
    | simp +zetaDelta only [sameMem_mk_iff]

theorem State.imageBoot_sameMem {s0 s : State} (h : s0.SameMem s)  : s0.SameMem (State.imageBoot s) := by
  unfold State.imageBoot
  with_reducible repeat' first
    | intro _ | assumption | apply bootBelfry_sameMem | apply endStage_sameMem | apply rebootBelfry_sameMem
    | apply ite_of | apply foldl_of | apply foldl_snd_of | apply foldl_fst_of | extract_lets | split
    | simp only [sameMem_mk_iff] | simp +zetaDelta only [sameMem_mk_iff]

theorem State.clearRing_sameMem {s0 s : State} (h : s0.SameMem s)  : s0.SameMem (State.clearRing s) := by
  unfold State.clearRing
  with_reducible repeat' first
    | intro _ | assumption | apply allToReset_sameMem | apply ite_of | apply foldl_of | apply foldl_snd_of
    | apply foldl_fst_of | extract_lets | split | simp only [sameMem_mk_iff]
    | simp +zetaDelta only [sameMem_mk_iff]

theorem State.failSlices_sameMem {s0 s : State} (h : s0.SameMem s) (map : Word) : s0.SameMem
    (State.failSlices s map) := by
  unfold State.failSlices
  with_reducible repeat' first
    | intro _ | assumption | apply wr_sameMem | apply putB_sameMem | apply ite_of | apply foldl_of
    | apply foldl_snd_of | apply foldl_fst_of | extract_lets | split | simp only [sameMem_mk_iff]
    | simp +zetaDelta only [sameMem_mk_iff]

theorem State.skipStage_sameMem {s0 s : State} (h : s0.SameMem s) (k : Nat) : s0.SameMem (State.skipStage s k) := by
  unfold State.skipStage
  with_reducible repeat' first
    | intro _ | assumption | apply stageReport_sameMem | apply nextStage_sameMem | apply ite_of | apply foldl_of
    | apply foldl_snd_of | apply foldl_fst_of | extract_lets | split | simp only [sameMem_mk_iff]
    | simp +zetaDelta only [sameMem_mk_iff]

theorem State.fastCheck_sameMem {s0 s : State} (h : s0.SameMem s) (failing : List (Nat × Nat)) : s0.SameMem
    (State.fastCheck s failing) := by
  unfold State.fastCheck
  with_reducible repeat' first
    | intro _ | assumption | apply putB_sameMem | apply failSlices_sameMem | apply each_sameMem
    | apply modSlice_sameMem | apply endStage_sameMem | apply skipStage_sameMem | apply stageReport_sameMem
    | apply ite_of | apply foldl_of | apply foldl_snd_of | apply foldl_fst_of | extract_lets | split
    | simp only [sameMem_mk_iff] | simp +zetaDelta only [sameMem_mk_iff]

theorem State.recordBist_sameMem {s0 s : State} (h : s0.SameMem s) (faults : List BistFault) : s0.SameMem
    (State.recordBist s faults) := by
  unfold State.recordBist
  with_reducible repeat' first
    | intro _ | assumption | apply ite_of | apply foldl_of | apply foldl_snd_of | apply foldl_fst_of
    | extract_lets | split | simp only [sameMem_mk_iff] | simp +zetaDelta only [sameMem_mk_iff]

theorem State.bistUpdate_sameMem {s0 s : State} (h : s0.SameMem s) (v : BitVec 80) : s0.SameMem
    (State.bistUpdate s v) := by
  unfold State.bistUpdate
  with_reducible repeat' first
    | intro _ | assumption | apply ite_of | apply foldl_of | apply foldl_snd_of | apply foldl_fst_of
    | extract_lets | split | simp only [sameMem_mk_iff] | simp +zetaDelta only [sameMem_mk_iff]

theorem State.endRoll_sameMem {s0 s : State} (h : s0.SameMem s)  : s0.SameMem (State.endRoll s) := by
  unfold State.endRoll
  with_reducible repeat' first
    | intro _ | assumption | apply rollCall_sameMem | apply endStage_sameMem | apply ite_of | apply foldl_of
    | apply foldl_snd_of | apply foldl_fst_of | extract_lets | split | simp only [sameMem_mk_iff]
    | simp +zetaDelta only [sameMem_mk_iff]

theorem State.rollCall_sameMem {s0 s : State} (h : s0.SameMem s)  : s0.SameMem (State.rollCall s) := by
  unfold State.rollCall
  with_reducible repeat' first
    | intro _ | assumption | apply each_sameMem | apply callSlice_sameMem | apply endRoll_sameMem | apply ite_of
    | apply foldl_of | apply foldl_snd_of | apply foldl_fst_of | extract_lets | split | simp only [sameMem_mk_iff]
    | simp +zetaDelta only [sameMem_mk_iff]

theorem State.setpoint_sameMem {s0 s : State} (h : s0.SameMem s) (mv reading lo : Nat) : s0.SameMem
    (State.setpoint s mv reading lo) := by
  unfold State.setpoint
  with_reducible repeat' first
    | intro _ | assumption | apply putF_sameMem | apply putB_sameMem | apply raiseIrq_sameMem
    | apply logEvent_sameMem | apply ite_of | apply foldl_of | apply foldl_snd_of | apply foldl_fst_of
    | extract_lets | split | simp only [sameMem_mk_iff] | simp +zetaDelta only [sameMem_mk_iff]

theorem State.comparePort_sameMem {s0 s : State} (h : s0.SameMem s) (sl p : Nat) : s0.SameMem
    (State.comparePort s sl p) := by
  unfold State.comparePort
  with_reducible repeat' first
    | intro _ | assumption | apply putF_sameMem | apply portRc_sameMem | apply putB_sameMem | apply ite_of
    | apply foldl_of | apply foldl_snd_of | apply foldl_fst_of | extract_lets | split | simp only [sameMem_mk_iff]
    | simp +zetaDelta only [sameMem_mk_iff]

theorem State.settingsRead_sameMem {s0 s : State} (h : s0.SameMem s) (version : Word) (logicMv arrayMv : Nat) :
    s0.SameMem (State.settingsRead s version logicMv arrayMv) := by
  unfold State.settingsRead
  with_reducible repeat' first
    | intro _ | assumption | apply endRoll_sameMem | apply setpoint_sameMem | apply each_sameMem
    | apply comparePort_sameMem | apply endStage_sameMem | apply ite_of | apply foldl_of | apply foldl_snd_of
    | apply foldl_fst_of | extract_lets | split | simp only [sameMem_mk_iff]
    | simp +zetaDelta only [sameMem_mk_iff]

theorem State.fullRelease_sameMem {s0 s : State} (h : s0.SameMem s)  : s0.SameMem (State.fullRelease s) := by
  unfold State.fullRelease
  with_reducible repeat' first
    | intro _ | assumption | apply endStage_sameMem | apply putB_sameMem | apply ite_of | apply foldl_of
    | apply foldl_snd_of | apply foldl_fst_of | extract_lets | split | simp only [sameMem_mk_iff]
    | simp +zetaDelta only [sameMem_mk_iff]

theorem State.orphans_sameMem {s0 s : State} (h : s0.SameMem s) (mine : Origin → Nat → Bool) : s0.SameMem
    (State.orphans s mine) := by
  unfold State.orphans
  with_reducible repeat' first
    | intro _ | assumption | apply ite_of | apply foldl_of | apply foldl_snd_of | apply foldl_fst_of
    | extract_lets | split | simp only [sameMem_mk_iff] | simp +zetaDelta only [sameMem_mk_iff]

theorem State.abort_sameMem {s0 s : State} (h : s0.SameMem s) (mine : Origin → Nat → Bool) (host : SpInit → Bool)
    (out : FpOut → Bool) : s0.SameMem (State.abort s mine host out).2 := by
  unfold State.abort
  with_reducible repeat' first
    | intro _ | assumption | apply orphans_sameMem | apply deliver_sameMem | apply ite_of | apply foldl_of
    | apply foldl_snd_of | apply foldl_fst_of | extract_lets | split | simp only [sameMem_mk_iff]
    | simp +zetaDelta only [sameMem_mk_iff]

theorem State.cutLocal_sameMem {s0 s : State} (h : s0.SameMem s) (sl last : Nat) (mine : Resp → Bool) : s0.SameMem
    (State.cutLocal s sl last mine).2 := by
  unfold State.cutLocal
  with_reducible repeat' first
    | intro _ | assumption | apply each_sameMem | apply modPort_sameMem | apply modSlot_sameMem
    | apply count_sameMem | apply ite_of | apply foldl_of | apply foldl_snd_of | apply foldl_fst_of | extract_lets
    | split | simp only [sameMem_mk_iff] | simp +zetaDelta only [sameMem_mk_iff]

theorem State.modKill_sameMem {s0 s : State} (h : s0.SameMem s) (c : Nat) (f : Kill → Kill) : s0.SameMem
    (State.modKill s c f) := by
  unfold State.modKill
  with_reducible repeat' first
    | intro _ | assumption | apply ite_of | apply foldl_of | apply foldl_snd_of | apply foldl_fst_of
    | extract_lets | split | simp only [sameMem_mk_iff] | simp +zetaDelta only [sameMem_mk_iff]

theorem State.storeKill_sameMem {r0 s : State} (h : r0.SameMem s) (s0 : State) (v : Word) (ctx : Nat) : r0.SameMem
    (State.storeKill s s0 v ctx) := by
  unfold State.storeKill
  with_reducible repeat' first
    | intro _ | assumption | apply refuseCfg_sameMem | apply pass_sameMem | apply beginKill_sameMem
    | apply each_sameMem | apply ite_of | apply foldl_of | apply foldl_snd_of | apply foldl_fst_of | extract_lets
    | split | simp only [sameMem_mk_iff] | simp +zetaDelta only [sameMem_mk_iff]

theorem State.killPairs_sameMem {s0 s : State} (h : s0.SameMem s) (sl c : Nat) : s0.SameMem (State.killPairs s sl c)
    := by
  unfold State.killPairs
  with_reducible repeat' first
    | intro _ | assumption | apply allToReset_sameMem | apply ite_of | apply foldl_of | apply foldl_snd_of
    | apply foldl_fst_of | extract_lets | split | simp only [sameMem_mk_iff]
    | simp +zetaDelta only [sameMem_mk_iff]

theorem State.dropStrokes_sameMem {s0 s : State} (h : s0.SameMem s) (c : Nat) : s0.SameMem (State.dropStrokes s c)
    := by
  unfold State.dropStrokes
  with_reducible repeat' first
    | intro _ | assumption | apply ite_of | apply foldl_of | apply foldl_snd_of | apply foldl_fst_of
    | extract_lets | split | simp only [sameMem_mk_iff] | simp +zetaDelta only [sameMem_mk_iff]

theorem State.soloPause_sameMem {s0 s : State} (h : s0.SameMem s) (c : Nat) : s0.SameMem (State.soloPause s c) := by
  unfold State.soloPause
  with_reducible repeat' first
    | intro _ | assumption | apply each_sameMem | apply putF_sameMem | apply ctxPauses_sameMem
    | apply putB_sameMem | apply ite_of | apply foldl_of | apply foldl_snd_of | apply foldl_fst_of | extract_lets
    | split | simp only [sameMem_mk_iff] | simp +zetaDelta only [sameMem_mk_iff]

theorem State.resetSaves_sameMem {s0 s : State} (h : s0.SameMem s) (u : UnitReset) : s0.SameMem
    (State.resetSaves s u) := by
  unfold State.resetSaves
  with_reducible repeat' first
    | intro _ | assumption | apply each_sameMem | apply resetSave_sameMem | apply ite_of | apply foldl_of
    | apply foldl_snd_of | apply foldl_fst_of | extract_lets | split | simp only [sameMem_mk_iff]
    | simp +zetaDelta only [sameMem_mk_iff]

theorem State.resetPort_sameMem {s0 s : State} (h : s0.SameMem s) (sl p : Nat) : s0.SameMem (State.resetPort s sl p)
    := by
  unfold State.resetPort
  with_reducible repeat' first
    | intro _ | assumption | apply pass_sameMem | apply toReset_sameMem | apply modPort_sameMem
    | apply putF_sameMem | apply callPort_sameMem | apply ite_of | apply foldl_of | apply foldl_snd_of
    | apply foldl_fst_of | extract_lets | split | simp only [sameMem_mk_iff]
    | simp +zetaDelta only [sameMem_mk_iff]

theorem State.settleUnit_sameMem {s0 s : State} (h : s0.SameMem s) (u : UnitReset) : s0.SameMem
    (State.settleUnit s u) := by
  unfold State.settleUnit
  with_reducible repeat' first
    | intro _ | assumption | apply settlePort_sameMem | apply ite_of | apply foldl_of | apply foldl_snd_of
    | apply foldl_fst_of | extract_lets | split | simp only [sameMem_mk_iff]
    | simp +zetaDelta only [sameMem_mk_iff]

theorem State.storeMboxCmd_sameMem {s0 s : State} (h : s0.SameMem s) (v : Word) (ctx : Nat) : s0.SameMem
    (State.storeMboxCmd s v ctx) := by
  unfold State.storeMboxCmd
  with_reducible repeat' first
    | intro _ | assumption | apply putB_sameMem | apply storeReg_sameMem | apply pass_sameMem
    | apply publish_sameMem | apply ite_of | apply foldl_of | apply foldl_snd_of | apply foldl_fst_of
    | extract_lets | split | simp only [sameMem_mk_iff] | simp +zetaDelta only [sameMem_mk_iff]

theorem State.storeMboxArg_sameMem {s0 s : State} (h : s0.SameMem s) (w : Nat) (v : Word) (ctx : Nat) : s0.SameMem
    (State.storeMboxArg s w v ctx) := by
  unfold State.storeMboxArg
  with_reducible repeat' first
    | intro _ | assumption | apply putB_sameMem | apply storeReg_sameMem | apply ite_of | apply foldl_of
    | apply foldl_snd_of | apply foldl_fst_of | extract_lets | split | simp only [sameMem_mk_iff]
    | simp +zetaDelta only [sameMem_mk_iff]

theorem State.earlyGo_sameMem {s0 s : State} (h : s0.SameMem s) (v : Word) (ctx : Nat) : s0.SameMem
    (State.earlyGo s v ctx) := by
  unfold State.earlyGo
  with_reducible repeat' first
    | intro _ | assumption | apply csrAccess_sameMem | apply storeMboxCmd_sameMem | apply ite_of | apply foldl_of
    | apply foldl_snd_of | apply foldl_fst_of | extract_lets | split | simp only [sameMem_mk_iff]
    | simp +zetaDelta only [sameMem_mk_iff]

theorem State.reply_sameMem {s0 s : State} (h : s0.SameMem s) (status : Nat) (bs : List Byte) : s0.SameMem
    (State.reply s status bs) := by
  unfold State.reply
  with_reducible repeat' first
    | intro _ | assumption | apply ite_of | apply foldl_of | apply foldl_snd_of | apply foldl_fst_of
    | extract_lets | split | simp only [sameMem_mk_iff] | simp +zetaDelta only [sameMem_mk_iff]

theorem State.serve_sameMem {s0 s : State} (h : s0.SameMem s) (op : Nat) (f : State → State) (hf : ∀ t : State,
    s0.SameMem t → s0.SameMem (f t)) : s0.SameMem (State.serve s op f) := by
  unfold State.serve
  with_reducible repeat' first
    | intro _ | assumption | apply reply_sameMem | apply ite_of | apply foldl_of | apply foldl_snd_of
    | apply foldl_fst_of | extract_lets | split | simp only [sameMem_mk_iff]
    | simp +zetaDelta only [sameMem_mk_iff] | apply hf

theorem State.unknownOp_sameMem {s0 s : State} (h : s0.SameMem s)  : s0.SameMem (State.unknownOp s) := by
  unfold State.unknownOp
  with_reducible repeat' first
    | intro _ | assumption | apply reply_sameMem | apply ite_of | apply foldl_of | apply foldl_snd_of
    | apply foldl_fst_of | extract_lets | split | simp only [sameMem_mk_iff]
    | simp +zetaDelta only [sameMem_mk_iff]

theorem State.info_sameMem {s0 s : State} (h : s0.SameMem s)  : s0.SameMem (State.info s) := by
  unfold State.info
  with_reducible repeat' first
    | intro _ | assumption | apply reply_sameMem | apply ite_of | apply foldl_of | apply foldl_snd_of
    | apply foldl_fst_of | extract_lets | split | simp only [sameMem_mk_iff]
    | simp +zetaDelta only [sameMem_mk_iff]

theorem State.sensors_sameMem {s0 s : State} (h : s0.SameMem s) (current temperature : Nat) : s0.SameMem
    (State.sensors s current temperature) := by
  unfold State.sensors
  with_reducible repeat' first
    | intro _ | assumption | apply reply_sameMem | apply ite_of | apply foldl_of | apply foldl_snd_of
    | apply foldl_fst_of | extract_lets | split | simp only [sameMem_mk_iff]
    | simp +zetaDelta only [sameMem_mk_iff]

theorem State.readLog_sameMem {s0 s : State} (h : s0.SameMem s)  : s0.SameMem (State.readLog s) := by
  unfold State.readLog
  with_reducible repeat' first
    | intro _ | assumption | apply reply_sameMem | apply ite_of | apply foldl_of | apply foldl_snd_of
    | apply foldl_fst_of | extract_lets | split | simp only [sameMem_mk_iff]
    | simp +zetaDelta only [sameMem_mk_iff]

theorem State.dumpList_sameMem {s0 s : State} (h : s0.SameMem s)  : s0.SameMem (State.dumpList s) := by
  unfold State.dumpList
  with_reducible repeat' first
    | intro _ | assumption | apply reply_sameMem | apply ite_of | apply foldl_of | apply foldl_snd_of
    | apply foldl_fst_of | extract_lets | split | simp only [sameMem_mk_iff]
    | simp +zetaDelta only [sameMem_mk_iff]

theorem State.readDump_sameMem {s0 s : State} (h : s0.SameMem s)  : s0.SameMem (State.readDump s) := by
  unfold State.readDump
  with_reducible repeat' first
    | intro _ | assumption | apply reply_sameMem | apply ite_of | apply foldl_of | apply foldl_snd_of
    | apply foldl_fst_of | extract_lets | split | simp only [sameMem_mk_iff]
    | simp +zetaDelta only [sameMem_mk_iff]

theorem State.capture_sameMem {r0 s0 : State} (h : r0.SameMem s0)  : r0.SameMem (State.capture s0) := by
  unfold State.capture
  with_reducible repeat' first
    | intro _ | assumption | apply reachRef_sameMem | apply writeDump_sameMem | apply reply_sameMem | apply ite_of
    | apply foldl_of | apply foldl_snd_of | apply foldl_fst_of | extract_lets | split | simp only [sameMem_mk_iff]
    | simp +zetaDelta only [sameMem_mk_iff]

theorem State.dumpRelease_sameMem {s0 s : State} (h : s0.SameMem s)  : s0.SameMem (State.dumpRelease s) := by
  unfold State.dumpRelease
  with_reducible repeat' first
    | intro _ | assumption | apply freeDump_sameMem | apply reply_sameMem | apply ite_of | apply foldl_of
    | apply foldl_snd_of | apply foldl_fst_of | extract_lets | split | simp only [sameMem_mk_iff]
    | simp +zetaDelta only [sameMem_mk_iff]

theorem State.flashBegin_sameMem {s0 s : State} (h : s0.SameMem s) (erase : Bool) (lo hi : Nat) : s0.SameMem
    (State.flashBegin s erase lo hi) := by
  unfold State.flashBegin
  with_reducible repeat' first
    | intro _ | assumption | apply ite_of | apply foldl_of | apply foldl_snd_of | apply foldl_fst_of
    | extract_lets | split | simp only [sameMem_mk_iff] | simp +zetaDelta only [sameMem_mk_iff]

theorem State.pollFlash_sameMem {s0 s : State} (h : s0.SameMem s) (busy : Bool) : s0.SameMem
    (State.pollFlash s busy) := by
  unfold State.pollFlash
  with_reducible repeat' first
    | intro _ | assumption | apply ite_of | apply foldl_of | apply foldl_snd_of | apply foldl_fst_of
    | extract_lets | split | simp only [sameMem_mk_iff] | simp +zetaDelta only [sameMem_mk_iff]

theorem State.flashLate_sameMem {s0 s : State} (h : s0.SameMem s)  : s0.SameMem (State.flashLate s) := by
  unfold State.flashLate
  with_reducible repeat' first
    | intro _ | assumption | apply reachRef_sameMem | apply spoilFlash_sameMem | apply reply_sameMem
    | apply ite_of | apply foldl_of | apply foldl_snd_of | apply foldl_fst_of | extract_lets | split
    | simp only [sameMem_mk_iff] | simp +zetaDelta only [sameMem_mk_iff]

theorem State.copyImage_sameMem {s0 s : State} (h : s0.SameMem s) (src : Bool) : s0.SameMem (State.copyImage s src)
    := by
  unfold State.copyImage
  with_reducible repeat' first
    | intro _ | assumption | apply eraseFlash_sameMem | apply programFlash_sameMem | apply ite_of | apply foldl_of
    | apply foldl_snd_of | apply foldl_fst_of | extract_lets | split | simp only [sameMem_mk_iff]
    | simp +zetaDelta only [sameMem_mk_iff]

theorem State.beginUpdate_sameMem {s0 s : State} (h : s0.SameMem s) (target total lo hi : Nat) : s0.SameMem
    (State.beginUpdate s target total lo hi) := by
  unfold State.beginUpdate
  with_reducible repeat' first
    | intro _ | assumption | apply eraseFlash_sameMem | apply flashBegin_sameMem | apply reply_sameMem
    | apply ite_of | apply foldl_of | apply foldl_snd_of | apply foldl_fst_of | extract_lets | split
    | simp only [sameMem_mk_iff] | simp +zetaDelta only [sameMem_mk_iff]

theorem State.beginFirmware_sameMem {s0 s : State} (h : s0.SameMem s) (total : Nat) : s0.SameMem
    (State.beginFirmware s total) := by
  unfold State.beginFirmware
  with_reducible repeat' first
    | intro _ | assumption | apply reply_sameMem | apply copyImage_sameMem | apply beginUpdate_sameMem
    | apply ite_of | apply foldl_of | apply foldl_snd_of | apply foldl_fst_of | extract_lets | split
    | simp only [sameMem_mk_iff] | simp +zetaDelta only [sameMem_mk_iff]

theorem State.beginSettings_sameMem {s0 s : State} (h : s0.SameMem s) (total : Nat) : s0.SameMem
    (State.beginSettings s total) := by
  unfold State.beginSettings
  with_reducible repeat' first
    | intro _ | assumption | apply reply_sameMem | apply beginUpdate_sameMem | apply ite_of | apply foldl_of
    | apply foldl_snd_of | apply foldl_fst_of | extract_lets | split | simp only [sameMem_mk_iff]
    | simp +zetaDelta only [sameMem_mk_iff]

theorem State.updateBegin_sameMem {s0 s : State} (h : s0.SameMem s)  : s0.SameMem (State.updateBegin s) := by
  unfold State.updateBegin
  with_reducible repeat' first
    | intro _ | assumption | apply reply_sameMem | apply beginSettings_sameMem | apply beginFirmware_sameMem
    | apply ite_of | apply foldl_of | apply foldl_snd_of | apply foldl_fst_of | extract_lets | split
    | simp only [sameMem_mk_iff] | simp +zetaDelta only [sameMem_mk_iff]

theorem State.updateData_sameMem {s0 s : State} (h : s0.SameMem s)  : s0.SameMem (State.updateData s) := by
  unfold State.updateData
  with_reducible repeat' first
    | intro _ | assumption | apply reply_sameMem | apply programFlash_sameMem | apply flashBegin_sameMem
    | apply ite_of | apply foldl_of | apply foldl_snd_of | apply foldl_fst_of | extract_lets | split
    | simp only [sameMem_mk_iff] | simp +zetaDelta only [sameMem_mk_iff]

theorem State.answerSeq_sameMem {s0 s : State} (h : s0.SameMem s) (seq : Nat) : s0.SameMem (State.answerSeq s seq)
    := by
  unfold State.answerSeq
  with_reducible repeat' first
    | intro _ | assumption | apply reply_sameMem | apply ite_of | apply foldl_of | apply foldl_snd_of
    | apply foldl_fst_of | extract_lets | split | simp only [sameMem_mk_iff]
    | simp +zetaDelta only [sameMem_mk_iff]

theorem State.endFirmware_sameMem {s0 s : State} (h : s0.SameMem s)  : s0.SameMem (State.endFirmware s) := by
  unfold State.endFirmware
  with_reducible repeat' first
    | intro _ | assumption | apply logEvent_sameMem | apply copyImage_sameMem | apply answerSeq_sameMem
    | apply flashBegin_sameMem | apply reply_sameMem | apply ite_of | apply foldl_of | apply foldl_snd_of
    | apply foldl_fst_of | extract_lets | split | simp only [sameMem_mk_iff]
    | simp +zetaDelta only [sameMem_mk_iff]

theorem State.endSettings_sameMem {s0 s : State} (h : s0.SameMem s) (n : Nat) : s0.SameMem (State.endSettings s n)
    := by
  unfold State.endSettings
  with_reducible repeat' first
    | intro _ | assumption | apply logEvent_sameMem | apply eraseFlash_sameMem | apply answerSeq_sameMem
    | apply flashBegin_sameMem | apply reply_sameMem | apply ite_of | apply foldl_of | apply foldl_snd_of
    | apply foldl_fst_of | extract_lets | split | simp only [sameMem_mk_iff]
    | simp +zetaDelta only [sameMem_mk_iff]

theorem State.updateEnd_sameMem {s0 s : State} (h : s0.SameMem s)  : s0.SameMem (State.updateEnd s) := by
  unfold State.updateEnd
  with_reducible repeat' first
    | intro _ | assumption | apply reply_sameMem | apply endFirmware_sameMem | apply endSettings_sameMem
    | apply ite_of | apply foldl_of | apply foldl_snd_of | apply foldl_fst_of | extract_lets | split
    | simp only [sameMem_mk_iff] | simp +zetaDelta only [sameMem_mk_iff]

theorem State.saveRepairs_sameMem {s0 s : State} (h : s0.SameMem s)  : s0.SameMem (State.saveRepairs s) := by
  unfold State.saveRepairs
  with_reducible repeat' first
    | intro _ | assumption | apply reply_sameMem | apply eraseFlash_sameMem | apply flashBegin_sameMem
    | apply programFlash_sameMem | apply answerSeq_sameMem | apply ite_of | apply foldl_of | apply foldl_snd_of
    | apply foldl_fst_of | extract_lets | split | simp only [sameMem_mk_iff]
    | simp +zetaDelta only [sameMem_mk_iff]

theorem State.drawNonce_sameMem {s0 s : State} (h : s0.SameMem s)  : s0.SameMem (State.drawNonce s) := by
  unfold State.drawNonce
  with_reducible repeat' first
    | intro _ | assumption | apply reply_sameMem | apply ite_of | apply foldl_of | apply foldl_snd_of
    | apply foldl_fst_of | extract_lets | split | simp only [sameMem_mk_iff]
    | simp +zetaDelta only [sameMem_mk_iff]

theorem State.burn_sameMem {s0 s : State} (h : s0.SameMem s) (target : Nat) : s0.SameMem (State.burn s target) := by
  unfold State.burn
  with_reducible repeat' first
    | intro _ | assumption | apply logEvent_sameMem | apply ite_of | apply foldl_of | apply foldl_snd_of
    | apply foldl_fst_of | extract_lets | split | simp only [sameMem_mk_iff]
    | simp +zetaDelta only [sameMem_mk_iff]

theorem State.lifeChange_sameMem {s0 s : State} (h : s0.SameMem s)  : s0.SameMem (State.lifeChange s) := by
  unfold State.lifeChange
  with_reducible repeat' first
    | intro _ | assumption | apply reply_sameMem | apply burn_sameMem | apply ite_of | apply foldl_of
    | apply foldl_snd_of | apply foldl_fst_of | extract_lets | split | simp only [sameMem_mk_iff]
    | simp +zetaDelta only [sameMem_mk_iff]

theorem State.trap_sameMem {s0 s : State} (h : s0.SameMem s)  : s0.SameMem (State.trap s) := by
  unfold State.trap
  with_reducible repeat' first
    | intro _ | assumption | apply writeDump_sameMem | apply haltBelfry_sameMem | apply ite_of | apply foldl_of
    | apply foldl_snd_of | apply foldl_fst_of | extract_lets | split | simp only [sameMem_mk_iff]
    | simp +zetaDelta only [sameMem_mk_iff]

theorem State.storeMaint_sameMem {s0 s : State} (h : s0.SameMem s) (v : Word) (ctx : Nat) : s0.SameMem
    (State.storeMaint s v ctx) := by
  unfold State.storeMaint
  with_reducible repeat' first
    | intro _ | assumption | apply storeReg_sameMem | apply ite_of | apply foldl_of | apply foldl_snd_of
    | apply foldl_fst_of | extract_lets | split | simp only [sameMem_mk_iff]
    | simp +zetaDelta only [sameMem_mk_iff]

theorem State.storeGroup_sameMem {r0 s : State} (h : r0.SameMem s) (s0 : State) (a : Nat) (v : Word) (ctx : Nat)
    : r0.SameMem (State.storeGroup s s0 a v ctx) := by
  unfold State.storeGroup
  with_reducible repeat' first
    | intro _ | assumption | apply storeReg_sameMem | apply ite_of | apply foldl_of | apply foldl_snd_of
    | apply foldl_fst_of | extract_lets | split | simp only [sameMem_mk_iff]
    | simp +zetaDelta only [sameMem_mk_iff]

theorem State.storeSyswin_sameMem {r0 s : State} (h : r0.SameMem s) (s0 : State) (a : Nat) (v : Word) (ctx : Nat)
    : r0.SameMem (State.storeSyswin s s0 a v ctx) := by
  unfold State.storeSyswin
  with_reducible repeat' first
    | intro _ | assumption | apply storeReg_sameMem | apply refuseCfg_sameMem | apply ite_of | apply foldl_of
    | apply foldl_snd_of | apply foldl_fst_of | extract_lets | split | simp only [sameMem_mk_iff]
    | simp +zetaDelta only [sameMem_mk_iff]

theorem State.storeChipWin_sameMem {r0 s : State} (h : r0.SameMem s) (s0 : State) (a : Nat) (v : Word) (ctx : Nat)
    : r0.SameMem (State.storeChipWin s s0 a v ctx) := by
  unfold State.storeChipWin
  with_reducible repeat' first
    | intro _ | assumption | apply storeWinCtl_sameMem | apply storeWin_sameMem | apply ite_of | apply foldl_of
    | apply foldl_snd_of | apply foldl_fst_of | extract_lets | split | simp only [sameMem_mk_iff]
    | simp +zetaDelta only [sameMem_mk_iff]

theorem State.storeHtab_sameMem {r0 s : State} (h : r0.SameMem s) (s0 : State) (a : Nat) (v : Word) (ctx : Nat)
    : r0.SameMem (State.storeHtab s s0 a v ctx) := by
  unfold State.storeHtab
  with_reducible repeat' first
    | intro _ | assumption | apply acceptEntry_sameMem | apply storeStage_sameMem | apply ite_of | apply foldl_of
    | apply foldl_snd_of | apply foldl_fst_of | extract_lets | split | simp only [sameMem_mk_iff]
    | simp +zetaDelta only [sameMem_mk_iff]

theorem State.storeTap_sameMem {r0 s : State} (h : r0.SameMem s) (s0 : State) (v : Word) (ctx : Nat) : r0.SameMem
    (State.storeTap s s0 v ctx) := by
  unfold State.storeTap
  with_reducible repeat' first
    | intro _ | assumption | apply storeReg_sameMem | apply ite_of | apply foldl_of | apply foldl_snd_of
    | apply foldl_fst_of | extract_lets | split | simp only [sameMem_mk_iff]
    | simp +zetaDelta only [sameMem_mk_iff]

theorem State.storeChal_sameMem {s0 s : State} (h : s0.SameMem s) (a : Nat) (v : Word) (ctx : Nat) : s0.SameMem
    (State.storeChal s a v ctx) := by
  unfold State.storeChal
  with_reducible repeat' first
    | intro _ | assumption | apply refuseCfg_sameMem | apply storeReg_sameMem | apply runChallenge_sameMem
    | apply ite_of | apply foldl_of | apply foldl_snd_of | apply foldl_fst_of | extract_lets | split
    | simp only [sameMem_mk_iff] | simp +zetaDelta only [sameMem_mk_iff]

theorem State.storeSemOp_sameMem {s0 s : State} (h : s0.SameMem s) (sl : Nat) (v : Word) : s0.SameMem
    (State.storeSemOp s sl v) := by
  unfold State.storeSemOp
  with_reducible repeat' first
    | intro _ | assumption | apply semTake_sameMem | apply semSignal_sameMem | apply ite_of | apply foldl_of
    | apply foldl_snd_of | apply foldl_fst_of | extract_lets | split | simp only [sameMem_mk_iff]
    | simp +zetaDelta only [sameMem_mk_iff]

theorem State.storeSeEnable_sameMem {s0 s : State} (h : s0.SameMem s) (sl off : Nat) (v : Word) (ctx : Nat) :
    s0.SameMem (State.storeSeEnable s sl off v ctx) := by
  unfold State.storeSeEnable
  with_reducible repeat' first
    | intro _ | assumption | apply storeReg_sameMem | apply raiseIrq_sameMem | apply ite_of | apply foldl_of
    | apply foldl_snd_of | apply foldl_fst_of | extract_lets | split | simp only [sameMem_mk_iff]
    | simp +zetaDelta only [sameMem_mk_iff]

theorem State.storeSlot_sameMem {r0 s : State} (h : r0.SameMem s) (s0 : State) (sl j off : Nat) (v : Word) (ctx
    : Nat) : r0.SameMem (State.storeSlot s s0 sl j off v ctx) := by
  unfold State.storeSlot
  with_reducible repeat' first
    | intro _ | assumption | apply storeReg_sameMem | apply modSlot_sameMem | apply ite_of | apply foldl_of
    | apply foldl_snd_of | apply foldl_fst_of | extract_lets | split | simp only [sameMem_mk_iff]
    | simp +zetaDelta only [sameMem_mk_iff]

theorem State.storePatrol_sameMem {s0 s : State} (h : s0.SameMem s) (sl : Nat) (v : Word) (ctx : Nat) : s0.SameMem
    (State.storePatrol s sl v ctx) := by
  unfold State.storePatrol
  with_reducible repeat' first
    | intro _ | assumption | apply storeReg_sameMem | apply ite_of | apply foldl_of | apply foldl_snd_of
    | apply foldl_fst_of | extract_lets | split | simp only [sameMem_mk_iff]
    | simp +zetaDelta only [sameMem_mk_iff]

theorem State.storeEccCfg_sameMem {s0 s : State} (h : s0.SameMem s) (sl : Nat) (v : Word) (ctx : Nat) : s0.SameMem
    (State.storeEccCfg s sl v ctx) := by
  unfold State.storeEccCfg
  with_reducible repeat' first
    | intro _ | assumption | apply storeReg_sameMem | apply ite_of | apply foldl_of | apply foldl_snd_of
    | apply foldl_fst_of | extract_lets | split | simp only [sameMem_mk_iff]
    | simp +zetaDelta only [sameMem_mk_iff]

theorem State.storePortCfg_sameMem {r0 s : State} (h : r0.SameMem s) (s0 : State) (sl p : Nat) (v : Word) (ctx
    : Nat) : r0.SameMem (State.storePortCfg s s0 sl p v ctx) := by
  unfold State.storePortCfg
  with_reducible repeat' first
    | intro _ | assumption | apply storeReg_sameMem | apply ite_of | apply foldl_of | apply foldl_snd_of
    | apply foldl_fst_of | extract_lets | split | simp only [sameMem_mk_iff]
    | simp +zetaDelta only [sameMem_mk_iff]

theorem State.csrPeal_sameMem {s0 s : State} (h : s0.SameMem s) (off : Nat) (v : Word) (ctx : Nat) : s0.SameMem
    (State.csrPeal s off v ctx) := by
  unfold State.csrPeal
  with_reducible repeat' first
    | intro _ | assumption | apply csrAccess_sameMem | apply beginPeal_sameMem | apply ite_of | apply foldl_of
    | apply foldl_snd_of | apply foldl_fst_of | extract_lets | split | simp only [sameMem_mk_iff]
    | simp +zetaDelta only [sameMem_mk_iff]

theorem State.memPeal_sameMem {s0 s : State} (h : s0.SameMem s) (off : Nat) (data : Line) (ben : ByteEn) (ctx : Nat)
    : s0.SameMem (State.memPeal s off data ben ctx) := by
  unfold State.memPeal
  with_reducible repeat' first
    | intro _ | assumption | apply csrAccess_sameMem | apply beginPeal_sameMem | apply ite_of | apply foldl_of
    | apply foldl_snd_of | apply foldl_fst_of | extract_lets | split | simp only [sameMem_mk_iff]
    | simp +zetaDelta only [sameMem_mk_iff]

theorem State.modPeal_sameMem {s0 s : State} (h : s0.SameMem s) (id : Nat) (f : Peal → Peal) : s0.SameMem
    (State.modPeal s id f) := by
  unfold State.modPeal
  with_reducible repeat' first
    | intro _ | assumption | apply ite_of | apply foldl_of | apply foldl_snd_of | apply foldl_fst_of
    | extract_lets | split | simp only [sameMem_mk_iff] | simp +zetaDelta only [sameMem_mk_iff]

theorem State.mirrorDone_sameMem {s0 s : State} (hs : s0.SameMem s) (h : Nat) : s0.SameMem (State.mirrorDone s h)
    := by
  unfold State.mirrorDone
  with_reducible repeat' first
    | intro _ | assumption | apply ite_of | apply foldl_of | apply foldl_snd_of | apply foldl_fst_of
    | extract_lets | split | simp only [sameMem_mk_iff] | simp +zetaDelta only [sameMem_mk_iff]

theorem State.pealReached_sameMem {s0 s : State} (h : s0.SameMem s) (id sl : Nat) : s0.SameMem
    (State.pealReached s id sl) := by
  unfold State.pealReached
  with_reducible repeat' first
    | intro _ | assumption | apply modPeal_sameMem | apply mirrorDone_sameMem | apply ite_of | apply foldl_of
    | apply foldl_snd_of | apply foldl_fst_of | extract_lets | split | simp only [sameMem_mk_iff]
    | simp +zetaDelta only [sameMem_mk_iff]

theorem State.pealSkip_sameMem {s0 s : State} (h : s0.SameMem s) (sl : Nat) : s0.SameMem (State.pealSkip s sl) := by
  unfold State.pealSkip
  with_reducible repeat' first
    | intro _ | assumption | apply putB_sameMem | apply ite_of | apply foldl_of | apply foldl_snd_of
    | apply foldl_fst_of | extract_lets | split | simp only [sameMem_mk_iff]
    | simp +zetaDelta only [sameMem_mk_iff]

theorem State.pealUndone_sameMem {s0 s : State} (h : s0.SameMem s) (id sl code : Nat) : s0.SameMem
    (State.pealUndone s id sl code) := by
  unfold State.pealUndone
  with_reducible repeat' first
    | intro _ | assumption | apply pealSkip_sameMem | apply modPeal_sameMem | apply ite_of | apply foldl_of
    | apply foldl_snd_of | apply foldl_fst_of | extract_lets | split | simp only [sameMem_mk_iff]
    | simp +zetaDelta only [sameMem_mk_iff]

theorem State.spPart_sameMem {s0 s : State} (h : s0.SameMem s) (tag code due : Nat) : s0.SameMem
    (State.spPart s tag code due) := by
  unfold State.spPart
  with_reducible repeat' first
    | intro _ | assumption | apply ite_of | apply foldl_of | apply foldl_snd_of | apply foldl_fst_of
    | extract_lets | split | simp only [sameMem_mk_iff] | simp +zetaDelta only [sameMem_mk_iff]

theorem State.feedPeal_sameMem {s0 s : State} (h : s0.SameMem s)  : s0.SameMem (State.feedPeal s) := by
  unfold State.feedPeal
  with_reducible repeat' first
    | intro _ | assumption | apply beginPeal_sameMem | apply ite_of | apply foldl_of | apply foldl_snd_of
    | apply foldl_fst_of | extract_lets | split | simp only [sameMem_mk_iff]
    | simp +zetaDelta only [sameMem_mk_iff]

theorem State.feedPeals_sameMem {s0 s : State} (h : s0.SameMem s)  : s0.SameMem (State.feedPeals s) := by
  unfold State.feedPeals
  with_reducible repeat' first
    | intro _ | assumption | apply feedMirror_sameMem | apply feedPeal_sameMem | apply ite_of | apply foldl_of
    | apply foldl_snd_of | apply foldl_fst_of | extract_lets | split | simp only [sameMem_mk_iff]
    | simp +zetaDelta only [sameMem_mk_iff]

theorem State.pealDone_sameMem {s0 s : State} (h : s0.SameMem s) (id : Nat) : s0.SameMem (State.pealDone s id) := by
  unfold State.pealDone
  with_reducible repeat' first
    | intro _ | assumption | apply spPart_sameMem | apply feedPeals_sameMem | apply ite_of | apply foldl_of
    | apply foldl_snd_of | apply foldl_fst_of | extract_lets | split | simp only [sameMem_mk_iff]
    | simp +zetaDelta only [sameMem_mk_iff]

theorem State.initResponse_sameMem {s0 s : State} (h : s0.SameMem s) (tag code : Nat) (data : List Line) :
    s0.SameMem (State.initResponse s tag code data) := by
  unfold State.initResponse
  with_reducible repeat' first
    | intro _ | assumption | apply lateResponse_sameMem | apply sendRsp_sameMem | apply ite_of | apply foldl_of
    | apply foldl_snd_of | apply foldl_fst_of | extract_lets | split | simp only [sameMem_mk_iff]
    | simp +zetaDelta only [sameMem_mk_iff]

theorem State.spOpen_sameMem {s0 s : State} (h : s0.SameMem s) (r : SpStaged) (win cls ctx need code : Nat) (lines
    : List LineRsp) (peals : List (Bool × Nat × Line × ByteEn)) : s0.SameMem
    (State.spOpen s r win cls ctx need code lines peals) := by
  unfold State.spOpen
  with_reducible repeat' first
    | intro _ | assumption | apply ite_of | apply foldl_of | apply foldl_snd_of | apply foldl_fst_of
    | extract_lets | split | simp only [sameMem_mk_iff] | simp +zetaDelta only [sameMem_mk_iff]

theorem State.spMemory_sameMem {s0 s : State} (h : s0.SameMem s) (i : Nat) (r : SpStaged) : s0.SameMem
    (State.spMemory s i r) := by
  unfold State.spMemory
  with_reducible repeat' first
    | intro _ | assumption | apply spOpen_sameMem | apply sendParts_sameMem | apply ite_of | apply foldl_of
    | apply foldl_snd_of | apply foldl_fst_of | extract_lets | split | simp only [sameMem_mk_iff]
    | simp +zetaDelta only [sameMem_mk_iff]

theorem State.csrWake_sameMem {s0 s : State} (h : s0.SameMem s) (a : Nat) : s0.SameMem (State.csrWake s a) := by
  unfold State.csrWake
  with_reducible repeat' first
    | intro _ | assumption | apply wake_sameMem | apply ite_of | apply foldl_of | apply foldl_snd_of
    | apply foldl_fst_of | extract_lets | split | simp only [sameMem_mk_iff]
    | simp +zetaDelta only [sameMem_mk_iff]

theorem State.spRange_sameMem {s0 s : State} (h : s0.SameMem s) (r : SpStaged) : s0.SameMem (State.spRange s r)
    := by
  unfold State.spRange
  with_reducible repeat' first
    | intro _ | assumption | apply spOpen_sameMem | apply ite_of | apply foldl_of | apply foldl_snd_of
    | apply foldl_fst_of | extract_lets | split | simp only [sameMem_mk_iff]
    | simp +zetaDelta only [sameMem_mk_iff]

theorem State.spAwake_sameMem {s0 s : State} (h : s0.SameMem s) (r : SpStaged) : s0.SameMem (State.spAwake s r).2
    := by
  unfold State.spAwake
  with_reducible repeat' first
    | intro _ | assumption | apply csrWake_sameMem | apply wake_sameMem | apply ite_of | apply foldl_of
    | apply foldl_snd_of | apply foldl_fst_of | extract_lets | split | simp only [sameMem_mk_iff]
    | simp +zetaDelta only [sameMem_mk_iff]

theorem State.takeGoldens_sameMem {s0 s : State} (h : s0.SameMem s)  : s0.SameMem (State.takeGoldens s) := by
  unfold State.takeGoldens
  with_reducible repeat' first
    | intro _ | assumption | apply commitGolden_sameMem | apply ite_of | apply foldl_of | apply foldl_snd_of
    | apply foldl_fst_of | extract_lets | split | simp only [sameMem_mk_iff]
    | simp +zetaDelta only [sameMem_mk_iff]

end Sys2Proof.Machine
end

