-- ==== Sys2Proof/Laws/FrameRegs.lean ====
section
/-! SUPPORT. Operations that change registers only (`State.OnlyRegs`). -/

set_option linter.unusedSimpArgs false

namespace Sys2Proof.Machine

open State

theorem State.wr_regs {s0 s : State} (h : s0.OnlyRegs s) (a : Nat) (v : Word) : s0.OnlyRegs (State.wr s a v) := by
  unfold State.wr
  with_reducible repeat' first
    | intro _ | assumption | apply ite_of | extract_lets | split | simp only [onlyRegs_mk_iff]

theorem State.putF_regs {s0 s : State} (h : s0.OnlyRegs s) (a lo n v : Nat) : s0.OnlyRegs (State.putF s a lo n v)
    := by
  unfold State.putF
  with_reducible repeat' first
    | intro _ | assumption | apply wr_regs | apply ite_of | split

theorem State.putB_regs {s0 s : State} (h : s0.OnlyRegs s) (a i : Nat) (b : Bool) : s0.OnlyRegs (State.putB s a i b)
    := by
  unfold State.putB
  with_reducible repeat' first
    | intro _ | assumption | apply wr_regs | apply ite_of | split

theorem State.count_regs {s0 s : State} (h : s0.OnlyRegs s) (a lo n k : Nat) : s0.OnlyRegs (State.count s a lo n k)
    := by
  unfold State.count
  with_reducible repeat' first
    | intro _ | assumption | apply putF_regs | apply ite_of | split

theorem State.countSat_regs {s0 s : State} (h : s0.OnlyRegs s) (a lo n k : Nat) : s0.OnlyRegs
    (State.countSat s a lo n k) := by
  unfold State.countSat
  with_reducible repeat' first
    | intro _ | assumption | apply putF_regs | apply ite_of | split

theorem State.toReset_regs {s0 s : State} (h : s0.OnlyRegs s) (a : Nat) : s0.OnlyRegs (State.toReset s a) := by
  unfold State.toReset
  with_reducible repeat' first
    | intro _ | assumption | apply wr_regs | apply ite_of | split

theorem State.allToReset_regs {s0 s : State} (h : s0.OnlyRegs s) (l : List Nat) : s0.OnlyRegs (State.allToReset s l)
    := by
  unfold State.allToReset
  with_reducible repeat' first
    | intro _ | assumption | apply toReset_regs | apply ite_of | apply foldl_of | apply foldl_snd_of
    | apply foldl_fst_of | extract_lets | split | simp only [onlyRegs_mk_iff]
    | simp +zetaDelta only [onlyRegs_mk_iff]

theorem State.setSlice_regs {s0 s : State} (h : s0.OnlyRegs s) (sl : Nat) (x : SliceSt) : s0.OnlyRegs
    (State.setSlice s sl x) := by
  unfold State.setSlice
  with_reducible repeat' first
    | intro _ | assumption | apply ite_of | extract_lets | split | simp only [onlyRegs_mk_iff]

theorem State.modSlice_regs {s0 s : State} (h : s0.OnlyRegs s) (sl : Nat) (f : SliceSt → SliceSt) : s0.OnlyRegs
    (State.modSlice s sl f) := by
  unfold State.modSlice
  with_reducible repeat' first
    | intro _ | assumption | apply setSlice_regs | apply ite_of | split

theorem State.when_regs {s0 s : State} (h : s0.OnlyRegs s) (c : Bool) (t : State) (ht : s0.OnlyRegs t) : s0.OnlyRegs
    (State.when s c t) := by
  unfold State.when
  with_reducible repeat' first
    | intro _ | assumption | apply ite_of | split

theorem State.raiseIrq_regs {s0 s : State} (h : s0.OnlyRegs s) (i : Nat) : s0.OnlyRegs (State.raiseIrq s i) := by
  unfold State.raiseIrq
  exact onlyRegs_mk_iff.mpr (putB_regs h _ _ _)

theorem State.flushSlice_regs {s0 s : State} (h : s0.OnlyRegs s) (sl : Nat) : s0.OnlyRegs (State.flushSlice s sl)
    := by
  unfold State.flushSlice
  with_reducible repeat' first
    | intro _ | assumption | apply modSlice_regs | apply ite_of | extract_lets | split
    | simp only [onlyRegs_mk_iff]

theorem State.pushRec_regs {s0 s : State} (h : s0.OnlyRegs s) (sl : Nat) (r : ErrRec) : s0.OnlyRegs
    (State.pushRec s sl r) := by
  unfold State.pushRec
  with_reducible repeat' first
    | intro _ | assumption | apply count_regs | apply modSlice_regs | apply flushSlice_regs | apply ite_of | split

theorem State.sliceRec_regs {s0 s : State} (h : s0.OnlyRegs s) (sl code aux : Nat) (slot : Option Nat) (ctx cls
    : Nat) (detail : Word) : s0.OnlyRegs (State.sliceRec s sl code aux slot ctx cls detail) := by
  unfold State.sliceRec
  with_reducible repeat' first
    | intro _ | assumption | apply pushRec_regs | apply ite_of | split

theorem State.globalRec_regs {s0 s : State} (h : s0.OnlyRegs s) (code aux ctx : Nat) (detail : Word) : s0.OnlyRegs
    (State.globalRec s code aux ctx detail) := by
  unfold State.globalRec
  with_reducible repeat' first
    | intro _ | assumption | apply ite_of | extract_lets | split | simp only [onlyRegs_mk_iff]

theorem State.refuseCfg_regs {s0 s : State} (h : s0.OnlyRegs s) (a ctx : Nat) : s0.OnlyRegs
    (State.refuseCfg s a ctx) := by
  unfold State.refuseCfg
  with_reducible repeat' first
    | intro _ | assumption | apply sliceRec_regs | apply globalRec_regs | apply ite_of | split

theorem State.each_regs {s0 s : State} (h : s0.OnlyRegs s) (l : List Nat) (f : State → Nat → State) (hf : ∀ (t
    : State) (y : Nat), s0.OnlyRegs t → s0.OnlyRegs (f t y)) : s0.OnlyRegs (State.each s l f) := by
  unfold State.each
  with_reducible repeat' first
    | intro _ | assumption | apply ite_of | apply foldl_of | apply foldl_snd_of | apply foldl_fst_of
    | extract_lets | split | simp only [onlyRegs_mk_iff] | simp +zetaDelta only [onlyRegs_mk_iff] | apply hf

theorem State.recordCe_regs {s0 s : State} (h : s0.OnlyRegs s) (sl aux ctx cls : Nat) (detail : Word) : s0.OnlyRegs
    (State.recordCe s sl aux ctx cls detail) := by
  unfold State.recordCe
  with_reducible repeat' first
    | intro _ | assumption | apply modSlice_regs | apply pushRec_regs | apply ite_of | split

theorem State.noteVecWord_regs {s0 s : State} (h : s0.OnlyRegs s) (sl line w8 ctx cls : Nat) (d : Decoded) :
    s0.OnlyRegs (State.noteVecWord s sl line w8 ctx cls d) := by
  unfold State.noteVecWord
  with_reducible repeat' first
    | intro _ | assumption | apply recordCe_regs | apply sliceRec_regs | apply ite_of | apply foldl_of
    | apply foldl_snd_of | apply foldl_fst_of | extract_lets | split | simp only [onlyRegs_mk_iff]
    | simp +zetaDelta only [onlyRegs_mk_iff]

theorem State.putGolden_regs {s0 s : State} (h : s0.OnlyRegs s) (r inst : Nat) (v : BitVec 32) : s0.OnlyRegs
    (State.putGolden s r inst v) := by
  unfold State.putGolden
  with_reducible repeat' first
    | intro _ | assumption | apply ite_of | extract_lets | split | simp only [onlyRegs_mk_iff]

theorem State.rescan_regs {s0 s : State} (h : s0.OnlyRegs s) (r inst : Nat) : s0.OnlyRegs (State.rescan s r inst)
    := by
  unfold State.rescan
  with_reducible repeat' first
    | intro _ | assumption | apply ite_of | extract_lets | split | simp only [onlyRegs_mk_iff]

theorem State.moveGolden_regs {s0 s : State} (h : s0.OnlyRegs s) (r inst : Nat) (d : BitVec 32) : s0.OnlyRegs
    (State.moveGolden s r inst d) := by
  unfold State.moveGolden
  with_reducible repeat' first
    | intro _ | assumption | apply rescan_regs | apply putGolden_regs | apply ite_of | split

theorem State.wrCfg_regs {s0 s : State} (h : s0.OnlyRegs s) (a : Nat) (v : Word) : s0.OnlyRegs (State.wrCfg s a v)
    := by
  unfold State.wrCfg
  with_reducible repeat' first
    | intro _ | assumption | apply wr_regs | apply moveGolden_regs | apply ite_of | split

theorem State.putCfg_regs {s0 s : State} (h : s0.OnlyRegs s) (a lo n v : Nat) : s0.OnlyRegs
    (State.putCfg s a lo n v) := by
  unfold State.putCfg
  with_reducible repeat' first
    | intro _ | assumption | apply wrCfg_regs | apply ite_of | split

theorem State.moveRepair_regs {s0 s : State} (h : s0.OnlyRegs s) (s₀ : State) (sl : Nat) (hs₀ : s0.OnlyRegs s₀) :
    s0.OnlyRegs (State.moveRepair s s₀ sl) := by
  unfold State.moveRepair
  with_reducible repeat' first
    | intro _ | assumption | apply moveGolden_regs | apply ite_of | apply foldl_of | apply foldl_snd_of
    | apply foldl_fst_of | extract_lets | split | simp only [onlyRegs_mk_iff]
    | simp +zetaDelta only [onlyRegs_mk_iff]

theorem State.commitGolden_regs {s0 s : State} (h : s0.OnlyRegs s) (r inst : Nat) : s0.OnlyRegs
    (State.commitGolden s r inst) := by
  unfold State.commitGolden
  with_reducible repeat' first
    | intro _ | assumption | apply putGolden_regs | apply ite_of | split

theorem State.instReset_regs {s0 s : State} (h : s0.OnlyRegs s) (r inst : Nat) : s0.OnlyRegs
    (State.instReset s r inst) := by
  unfold State.instReset
  with_reducible repeat' first
    | intro _ | assumption | apply putGolden_regs | apply ite_of | extract_lets | split
    | simp only [onlyRegs_mk_iff]

theorem State.guardAdvance_regs {s0 s : State} (hs : s0.OnlyRegs s) (sl h : Nat) (e : HEntry) (write : Bool) (o
    : Nat) : s0.OnlyRegs (State.guardAdvance s sl h e write o) := by
  unfold State.guardAdvance
  with_reducible repeat' first
    | intro _ | assumption | apply count_regs | apply putF_regs | apply modSlice_regs | apply ite_of | split

theorem State.bindGuard_regs {s0 s : State} (hs : s0.OnlyRegs s) (h : Nat) : s0.OnlyRegs (State.bindGuard s h) := by
  unfold State.bindGuard
  with_reducible repeat' first
    | intro _ | assumption | apply each_regs | apply wr_regs | apply putB_regs | apply putF_regs
    | apply refuseCfg_regs | apply ite_of | extract_lets | split | simp only [onlyRegs_mk_iff]

theorem State.claveSignal_regs {s0 s : State} (h : s0.OnlyRegs s) (sl pair : Nat) (room : Bool) (n : Nat) :
    s0.OnlyRegs (State.claveSignal s sl pair room n) := by
  unfold State.claveSignal
  with_reducible repeat' first
    | intro _ | assumption | apply putF_regs | apply putB_regs | apply modSlice_regs | apply ite_of | split

theorem State.claveTake_regs {s0 s : State} (h : s0.OnlyRegs s) (sl pair : Nat) (room : Bool) (n : Nat) :
    s0.OnlyRegs (State.claveTake s sl pair room n).2 := by
  unfold State.claveTake
  with_reducible repeat' first
    | intro _ | assumption | apply putF_regs | apply ite_of | extract_lets | split | simp only [onlyRegs_mk_iff]

theorem State.countOutput_regs {s0 s : State} (h : s0.OnlyRegs s) (p : (Nat × Nat) × Nat) (flits : Nat) :
    s0.OnlyRegs (State.countOutput s p flits) := by
  unfold State.countOutput
  with_reducible repeat' first
    | intro _ | assumption | apply count_regs | apply ite_of | split

theorem State.monitor_regs {s0 s : State} (h : s0.OnlyRegs s) (sl cls lat : Nat) : s0.OnlyRegs
    (State.monitor s sl cls lat) := by
  unfold State.monitor
  with_reducible repeat' first
    | intro _ | assumption | apply putF_regs | apply countSat_regs | apply putB_regs | apply raiseIrq_regs
    | apply ite_of | split

theorem State.setWin_regs {s0 s : State} (h : s0.OnlyRegs s) (w v : Nat) : s0.OnlyRegs (State.setWin s w v) := by
  unfold State.setWin
  with_reducible repeat' first
    | intro _ | assumption | apply putF_regs | apply ite_of | split

theorem State.signalPair_regs {s0 s : State} (h : s0.OnlyRegs s) (w : Nat) : s0.OnlyRegs (State.signalPair s w)
    := by
  unfold State.signalPair
  with_reducible repeat' first
    | intro _ | assumption | apply claveSignal_regs | apply ite_of | split

theorem State.portProgress_regs {s0 s : State} (h : s0.OnlyRegs s) (c code : Nat) : s0.OnlyRegs
    (State.portProgress s c code) := by
  unfold State.portProgress
  with_reducible repeat' first
    | intro _ | assumption | apply count_regs | apply ite_of | split

theorem State.lateResponse_regs {s0 s : State} (h : s0.OnlyRegs s)  : s0.OnlyRegs (State.lateResponse s) := by
  unfold State.lateResponse
  with_reducible repeat' first
    | intro _ | assumption | apply count_regs | apply ite_of | split

theorem State.setSlotState_regs {s0 s : State} (h : s0.OnlyRegs s) (sl j v : Nat) : s0.OnlyRegs
    (State.setSlotState s sl j v) := by
  unfold State.setSlotState
  with_reducible repeat' first
    | intro _ | assumption | apply putF_regs | apply raiseIrq_regs | apply putB_regs | apply ite_of | split

theorem State.setDone_regs {s0 s : State} (h : s0.OnlyRegs s) (sl j : Nat) : s0.OnlyRegs (State.setDone s sl j)
    := by
  unfold State.setDone
  with_reducible repeat' first
    | intro _ | assumption | apply putB_regs | apply raiseIrq_regs | apply ite_of | split

theorem State.putMirror_regs {s0 s : State} (hs : s0.OnlyRegs s) (sl h w : Nat) (v : Word) : s0.OnlyRegs
    (State.putMirror s sl h w v) := by
  unfold State.putMirror
  with_reducible repeat' first
    | intro _ | assumption | apply moveGolden_regs | apply ite_of | extract_lets | split
    | simp only [onlyRegs_mk_iff]

theorem State.handleEffect_regs {s0 s : State} (hs : s0.OnlyRegs s) (h : Nat) : s0.OnlyRegs (State.handleEffect s h)
    := by
  unfold State.handleEffect
  with_reducible repeat' first
    | intro _ | assumption | apply each_regs | apply putMirror_regs | apply putB_regs | apply bindGuard_regs
    | apply ite_of | apply foldl_of | apply foldl_snd_of | apply foldl_fst_of | extract_lets | split
    | simp only [onlyRegs_mk_iff] | simp +zetaDelta only [onlyRegs_mk_iff]

theorem State.effectReady_regs {s0 s : State} (h : s0.OnlyRegs s)  : s0.OnlyRegs (State.effectReady s) := by
  unfold State.effectReady
  with_reducible repeat' first
    | intro _ | assumption | apply handleEffect_regs | apply ite_of | apply foldl_of | apply foldl_snd_of
    | apply foldl_fst_of | extract_lets | split | simp only [onlyRegs_mk_iff]
    | simp +zetaDelta only [onlyRegs_mk_iff]

theorem State.setSlicePower_regs {s0 s : State} (h : s0.OnlyRegs s) (sl v : Nat) : s0.OnlyRegs
    (State.setSlicePower s sl v) := by
  unfold State.setSlicePower
  with_reducible repeat' first
    | intro _ | assumption | apply putF_regs | apply ite_of | split

theorem State.setPower_regs {s0 s : State} (h : s0.OnlyRegs s) (t : PowerTarget) (v : Nat) : s0.OnlyRegs
    (State.setPower s t v) := by
  unfold State.setPower
  with_reducible repeat' first
    | intro _ | assumption | apply setSlicePower_regs | apply putF_regs | apply ite_of | split

theorem State.beginWake_regs {s0 s : State} (h : s0.OnlyRegs s) (t : PowerTarget) (cause : Nat) : s0.OnlyRegs
    (State.beginWake s t cause) := by
  unfold State.beginWake
  with_reducible repeat' first
    | intro _ | assumption | apply setPower_regs | apply putF_regs | apply ite_of | apply foldl_of
    | apply foldl_snd_of | apply foldl_fst_of | extract_lets | split | simp only [onlyRegs_mk_iff]
    | simp +zetaDelta only [onlyRegs_mk_iff]

theorem State.wake_regs {s0 s : State} (h : s0.OnlyRegs s) (t : PowerTarget) (cause : Nat) : s0.OnlyRegs
    (State.wake s t cause) := by
  unfold State.wake
  with_reducible repeat' first
    | intro _ | assumption | apply beginWake_regs | apply ite_of | extract_lets | split
    | simp only [onlyRegs_mk_iff]

theorem State.wakeFor_regs {s0 s : State} (h : s0.OnlyRegs s) (sl cause : Nat) : s0.OnlyRegs
    (State.wakeFor s sl cause) := by
  unfold State.wakeFor
  with_reducible repeat' first
    | intro _ | assumption | apply wake_regs | apply ite_of | split

theorem State.wakeAll_regs {s0 s : State} (h : s0.OnlyRegs s) (cause : Nat) : s0.OnlyRegs (State.wakeAll s cause)
    := by
  unfold State.wakeAll
  with_reducible repeat' first
    | intro _ | assumption | apply wake_regs | apply each_regs | apply ite_of | split

theorem State.keepForce_regs {s0 s : State} (h : s0.OnlyRegs s) (a : Nat) (m : RegMasks) (old new : Word) :
    s0.OnlyRegs (State.keepForce s a m old new) := by
  unfold State.keepForce
  with_reducible repeat' first
    | intro _ | assumption | apply ite_of | extract_lets | split | simp only [onlyRegs_mk_iff]

theorem State.storeReg_regs {s0 s : State} (h : s0.OnlyRegs s) (a : Nat) (v : Word) (idle : Bool) (ctx : Nat) :
    s0.OnlyRegs (State.storeReg s a v idle ctx) := by
  unfold State.storeReg
  with_reducible repeat' first
    | intro _ | assumption | apply keepForce_regs | apply refuseCfg_regs | apply wrCfg_regs | apply ite_of | split

theorem State.refuseWrite_regs {s0 s : State} (h : s0.OnlyRegs s) (a : Nat) (v : Word) (ctx : Nat) : s0.OnlyRegs
    (State.refuseWrite s a v ctx) := by
  unfold State.refuseWrite
  with_reducible repeat' first
    | intro _ | assumption | apply refuseCfg_regs | apply ite_of | apply foldl_of | apply foldl_snd_of
    | apply foldl_fst_of | extract_lets | split | simp only [onlyRegs_mk_iff]
    | simp +zetaDelta only [onlyRegs_mk_iff]

theorem State.csrAccess_regs {s0 s : State} (h : s0.OnlyRegs s) (a ctx : Nat) (f : State → State) (hf : ∀ t : State,
    s0.OnlyRegs t → s0.OnlyRegs (f t)) : s0.OnlyRegs (State.csrAccess s a ctx f) := by
  unfold State.csrAccess
  with_reducible repeat' first
    | intro _ | assumption | apply wake_regs | apply ite_of | apply foldl_of | apply foldl_snd_of
    | apply foldl_fst_of | extract_lets | split | simp only [onlyRegs_mk_iff]
    | simp +zetaDelta only [onlyRegs_mk_iff] | apply hf

theorem State.setPc_regs {s0 s : State} (h : s0.OnlyRegs s) (sl j v : Nat) : s0.OnlyRegs (State.setPc s sl j v)
    := by
  unfold State.setPc
  with_reducible repeat' first
    | intro _ | assumption | apply putF_regs | apply ite_of | split

theorem State.nextPc_regs {s0 s : State} (h : s0.OnlyRegs s) (sl j : Nat) : s0.OnlyRegs (State.nextPc s sl j) := by
  unfold State.nextPc
  with_reducible repeat' first
    | intro _ | assumption | apply setPc_regs | apply ite_of | split

theorem State.leadAgain_regs {s0 s : State} (h : s0.OnlyRegs s) (sl j : Nat) : s0.OnlyRegs (State.leadAgain s sl j)
    := by
  unfold State.leadAgain
  with_reducible repeat' first
    | intro _ | assumption | apply modSlice_regs | apply ite_of | apply foldl_of | apply foldl_snd_of
    | apply foldl_fst_of | extract_lets | split | simp only [onlyRegs_mk_iff]
    | simp +zetaDelta only [onlyRegs_mk_iff]

theorem State.setStage_regs {s0 s : State} (h : s0.OnlyRegs s) (ctx : Nat) (g : Stage) : s0.OnlyRegs
    (State.setStage s ctx g) := by
  unfold State.setStage
  with_reducible repeat' first
    | intro _ | assumption | apply ite_of | extract_lets | split | simp only [onlyRegs_mk_iff]

theorem State.asSystem_regs {s0 s : State} (h : s0.OnlyRegs s) (ctx : Nat) (f : State → State) (hf : ∀ t : State,
    s0.OnlyRegs t → s0.OnlyRegs (f t)) : s0.OnlyRegs (State.asSystem s ctx f) := by
  unfold State.asSystem
  with_reducible repeat' first
    | intro _ | assumption | apply ite_of | apply foldl_of | apply foldl_snd_of | apply foldl_fst_of
    | extract_lets | split | simp only [onlyRegs_mk_iff] | simp +zetaDelta only [onlyRegs_mk_iff] | apply hf

theorem State.storeStage_regs {s0 s : State} (hs : s0.OnlyRegs s) (h w : Nat) (v : Word) (ctx : Nat) : s0.OnlyRegs
    (State.storeStage s h w v ctx) := by
  unfold State.storeStage
  with_reducible repeat' first
    | intro _ | assumption | apply setStage_regs | apply ite_of | split

theorem State.htabStage_regs {s0 s : State} (hs : s0.OnlyRegs s) (h w : Nat) (v : Word) (ctx : Nat) : s0.OnlyRegs
    (State.htabStage s h w v ctx) := by
  unfold State.htabStage
  with_reducible repeat' first
    | intro _ | assumption | apply csrAccess_regs | apply storeStage_regs | apply ite_of | split

theorem State.ctxPauses_regs {s0 s : State} (h : s0.OnlyRegs s) (c : Nat) : s0.OnlyRegs (State.ctxPauses s c) := by
  unfold State.ctxPauses
  with_reducible repeat' first
    | intro _ | assumption | apply each_regs | apply setSlotState_regs | apply ite_of | apply foldl_of
    | apply foldl_snd_of | apply foldl_fst_of | extract_lets | split | simp only [onlyRegs_mk_iff]
    | simp +zetaDelta only [onlyRegs_mk_iff]

theorem State.stepAdvance_regs {s0 s : State} (hs : s0.OnlyRegs s) (sl h : Nat) (write : Bool) (offs : List Nat) :
    s0.OnlyRegs (State.stepAdvance s sl h write offs) := by
  unfold State.stepAdvance
  with_reducible repeat' first
    | intro _ | assumption | apply guardAdvance_regs | apply ite_of | apply foldl_of | apply foldl_snd_of
    | apply foldl_fst_of | extract_lets | split | simp only [onlyRegs_mk_iff]
    | simp +zetaDelta only [onlyRegs_mk_iff]

theorem State.consumeSlot_regs {s0 s : State} (h : s0.OnlyRegs s) (sl bset o c : Nat) : s0.OnlyRegs
    (State.consumeSlot s sl bset o c) := by
  unfold State.consumeSlot
  with_reducible repeat' first
    | intro _ | assumption | apply modSlice_regs | apply ite_of | apply foldl_of | apply foldl_snd_of
    | apply foldl_fst_of | extract_lets | split | simp only [onlyRegs_mk_iff]
    | simp +zetaDelta only [onlyRegs_mk_iff]

theorem State.markBad_regs {s0 s : State} (h : s0.OnlyRegs s) (sl b l : Nat) : s0.OnlyRegs (State.markBad s sl b l)
    := by
  unfold State.markBad
  with_reducible repeat' first
    | intro _ | assumption | apply wr_regs | apply countSat_regs | apply ite_of | split

theorem State.passLasting_regs {s0 s : State} (h : s0.OnlyRegs s) (sl b row : Nat) (lasting : Bool) : s0.OnlyRegs
    (State.passLasting s sl b row lasting) := by
  unfold State.passLasting
  with_reducible repeat' first
    | intro _ | assumption | apply modSlice_regs | apply ite_of | split

theorem State.storeXferMask_regs {r0 s : State} (h : r0.OnlyRegs s) (s0 : State) (sl : Nat) (v : Word) (ctx : Nat)
    : r0.OnlyRegs (State.storeXferMask s s0 sl v ctx) := by
  unfold State.storeXferMask
  with_reducible repeat' first
    | intro _ | assumption | apply refuseWrite_regs | apply storeReg_regs | apply ite_of | split

theorem State.giveBank_regs {s0 s : State} (h : s0.OnlyRegs s) (sl b c : Nat) : s0.OnlyRegs
    (State.giveBank s sl b c) := by
  unfold State.giveBank
  with_reducible repeat' first
    | intro _ | assumption | apply putF_regs | apply putCfg_regs | apply ite_of | split

theorem State.slotRec_regs {s0 s : State} (h : s0.OnlyRegs s) (sl j code : Nat) (detail : Word) : s0.OnlyRegs
    (State.slotRec s sl j code detail) := by
  unfold State.slotRec
  with_reducible repeat' first
    | intro _ | assumption | apply sliceRec_regs | apply ite_of | split

theorem State.dropScrub_regs {s0 s : State} (h : s0.OnlyRegs s) (sl j : Nat) : s0.OnlyRegs (State.dropScrub s sl j)
    := by
  unfold State.dropScrub
  with_reducible repeat' first
    | intro _ | assumption | apply modSlice_regs | apply scrubCtl_regs | apply putB_regs | apply ite_of | split

theorem State.stall_regs {s0 s : State} (h : s0.OnlyRegs s) (sl o : Nat) : s0.OnlyRegs (State.stall s sl o) := by
  unfold State.stall
  with_reducible repeat' first
    | intro _ | assumption | apply count_regs | apply modSlice_regs | apply ite_of | split

theorem State.losers_regs {s0 s : State} (h : s0.OnlyRegs s) (sl bset won : Nat) (x : Others) : s0.OnlyRegs
    (State.losers s sl bset won x) := by
  unfold State.losers
  with_reducible repeat' first
    | intro _ | assumption | apply stall_regs | apply ite_of | apply foldl_of | apply foldl_snd_of
    | apply foldl_fst_of | extract_lets | split | simp only [onlyRegs_mk_iff]
    | simp +zetaDelta only [onlyRegs_mk_iff]

theorem State.countSlot_regs {s0 s : State} (h : s0.OnlyRegs s) (sl o k : Nat) : s0.OnlyRegs
    (State.countSlot s sl o k) := by
  unfold State.countSlot
  with_reducible repeat' first
    | intro _ | assumption | apply modSlice_regs | apply ite_of | split

theorem State.stepLfsr_regs {s0 s : State} (h : s0.OnlyRegs s) (sl b rnd : Nat) : s0.OnlyRegs
    (State.stepLfsr s sl b rnd) := by
  unfold State.stepLfsr
  with_reducible repeat' first
    | intro _ | assumption | apply putF_regs | apply modSlice_regs | apply ite_of | split

theorem State.tally_regs {s0 s : State} (h : s0.OnlyRegs s) (sl : Nat) (t : Tally) : s0.OnlyRegs
    (State.tally s sl t) := by
  unfold State.tally
  with_reducible repeat' first
    | intro _ | assumption | apply count_regs | apply ite_of | split

theorem State.askRecords_regs {s0 s : State} (h : s0.OnlyRegs s) (sl : Nat) : s0.OnlyRegs (State.askRecords s sl)
    := by
  unfold State.askRecords
  with_reducible repeat' first
    | intro _ | assumption | apply modSlice_regs | apply ite_of | apply foldl_of | apply foldl_snd_of
    | apply foldl_fst_of | extract_lets | split | simp only [onlyRegs_mk_iff]
    | simp +zetaDelta only [onlyRegs_mk_iff]

theorem State.setSreg_regs {s0 s : State} (h : s0.OnlyRegs s) (sl j n v : Nat) : s0.OnlyRegs
    (State.setSreg s sl j n v) := by
  unfold State.setSreg
  with_reducible repeat' first
    | intro _ | assumption | apply putF_regs | apply ite_of | split

theorem State.setLreg_regs {s0 s : State} (h : s0.OnlyRegs s) (sl j n v : Nat) : s0.OnlyRegs
    (State.setLreg s sl j n v) := by
  unfold State.setLreg
  with_reducible repeat' first
    | intro _ | assumption | apply putF_regs | apply ite_of | split

theorem State.sethInstr_regs {s0 s : State} (h : s0.OnlyRegs s) (sl j : Nat) (w : Word) : s0.OnlyRegs
    (State.sethInstr s sl j w) := by
  unfold State.sethInstr
  with_reducible repeat' first
    | intro _ | assumption | apply putF_regs | apply nextPc_regs | apply ite_of | split

theorem State.setsInstr_regs {s0 s : State} (h : s0.OnlyRegs s) (sl j : Nat) (w : Word) : s0.OnlyRegs
    (State.setsInstr s sl j w) := by
  unfold State.setsInstr
  with_reducible repeat' first
    | intro _ | assumption | apply setSreg_regs | apply nextPc_regs | apply ite_of | split

theorem State.noDeadline_regs {s0 s : State} (h : s0.OnlyRegs s) (sl j : Nat) : s0.OnlyRegs
    (State.noDeadline s sl j) := by
  unfold State.noDeadline
  with_reducible repeat' first
    | intro _ | assumption | apply putF_regs | apply ite_of | split

theorem State.endScrub_regs {s0 s : State} (h : s0.OnlyRegs s) (sl j : Nat) : s0.OnlyRegs (State.endScrub s sl j)
    := by
  unfold State.endScrub
  with_reducible repeat' first
    | intro _ | assumption | apply dropScrub_regs | apply ite_of | apply foldl_of | apply foldl_snd_of
    | apply foldl_fst_of | extract_lets | split | simp only [onlyRegs_mk_iff]
    | simp +zetaDelta only [onlyRegs_mk_iff]

theorem State.deadlineMet_regs {s0 s : State} (h : s0.OnlyRegs s) (sl j : Nat) : s0.OnlyRegs
    (State.deadlineMet s sl j) := by
  unfold State.deadlineMet
  with_reducible repeat' first
    | intro _ | assumption | apply putB_regs | apply ite_of | split

theorem State.countLines_regs {s0 s : State} (h : s0.OnlyRegs s) (sl n : Nat) : s0.OnlyRegs
    (State.countLines s sl n) := by
  unfold State.countLines
  with_reducible repeat' first
    | intro _ | assumption | apply count_regs | apply ite_of | split

theorem State.storeSeed_regs {s0 s : State} (h : s0.OnlyRegs s) (sl b : Nat) (v : Word) : s0.OnlyRegs
    (State.storeSeed s sl b v) := by
  unfold State.storeSeed
  with_reducible repeat' first
    | intro _ | assumption | apply putF_regs | apply modSlice_regs | apply ite_of | split

theorem State.modPass_regs {s0 s : State} (h : s0.OnlyRegs s) (sl : Nat) (f : ScrubPass → ScrubPass) : s0.OnlyRegs
    (State.modPass s sl f) := by
  unfold State.modPass
  with_reducible repeat' first
    | intro _ | assumption | apply modSlice_regs | apply ite_of | split

theorem State.beginPass_regs {s0 s : State} (h : s0.OnlyRegs s) (sl : Nat) (p : ScrubPass) : s0.OnlyRegs
    (State.beginPass s sl p) := by
  unfold State.beginPass
  with_reducible repeat' first
    | intro _ | assumption | apply modSlice_regs | apply scrubCtl_regs | apply putB_regs | apply ite_of | split

theorem State.storeScrub_regs {r0 s : State} (h : r0.OnlyRegs s) (s0 : State) (sl : Nat) (v : Word) (ctx : Nat)
    : r0.OnlyRegs (State.storeScrub s s0 sl v ctx) := by
  unfold State.storeScrub
  with_reducible repeat' first
    | intro _ | assumption | apply scrubCtl_regs | apply storeReg_regs | apply refuseCfg_regs | apply modPass_regs
    | apply beginPass_regs | apply ite_of | split

theorem State.scrubCtl_regs {s0 s : State} (h : s0.OnlyRegs s) (sl : Nat) (v : Word) (ctx : Nat) : s0.OnlyRegs
    (State.scrubCtl s sl v ctx) := by
  unfold State.scrubCtl
  with_reducible repeat' first
    | intro _ | assumption | apply csrAccess_regs | apply storeScrub_regs | apply ite_of | split

theorem State.signalBlock_regs {s0 s : State} (h : s0.OnlyRegs s) (x : Xfer) (i : Inst) : s0.OnlyRegs
    (State.signalBlock s x i) := by
  unfold State.signalBlock
  with_reducible repeat' first
    | intro _ | assumption | apply claveSignal_regs | apply ite_of | apply foldl_of | apply foldl_snd_of
    | apply foldl_fst_of | extract_lets | split | simp only [onlyRegs_mk_iff]
    | simp +zetaDelta only [onlyRegs_mk_iff]

theorem State.accAdvance_regs {s0 s : State} (h : s0.OnlyRegs s) (sl : Nat) (a : SeAcc) : s0.OnlyRegs
    (State.accAdvance s sl a) := by
  unfold State.accAdvance
  with_reducible repeat' first
    | intro _ | assumption | apply stepAdvance_regs | apply ite_of | split

theorem State.closeTag_regs {s0 s : State} (h : s0.OnlyRegs s) (sl j : Nat) : s0.OnlyRegs (State.closeTag s sl j)
    := by
  unfold State.closeTag
  with_reducible repeat' first
    | intro _ | assumption | apply putB_regs | apply putF_regs | apply ite_of | split

theorem State.setTag_regs {s0 s : State} (h : s0.OnlyRegs s) (sl j g : Nat) : s0.OnlyRegs (State.setTag s sl j g)
    := by
  unfold State.setTag
  with_reducible repeat' first
    | intro _ | assumption | apply putF_regs | apply putB_regs | apply ite_of | split

theorem State.absorb_regs {s0 s : State} (h : s0.OnlyRegs s)  : s0.OnlyRegs (State.absorb s) := by
  unfold State.absorb
  with_reducible repeat' first
    | intro _ | assumption | apply count_regs | apply ite_of | split

theorem State.absorbRsp_regs {s0 s : State} (h : s0.OnlyRegs s)  : s0.OnlyRegs (State.absorbRsp s) := by
  unfold State.absorbRsp
  with_reducible repeat' first
    | intro _ | assumption | apply absorb_regs | apply lateResponse_regs | apply ite_of | split

theorem State.fpTake_regs {s0 s : State} (h : s0.OnlyRegs s) (f : State → State) (hf : ∀ t : State, s0.OnlyRegs t →
    s0.OnlyRegs (f t)) : s0.OnlyRegs (State.fpTake s f) := by
  unfold State.fpTake
  with_reducible repeat' first
    | intro _ | assumption | apply wake_regs | apply ite_of | apply foldl_of | apply foldl_snd_of
    | apply foldl_fst_of | extract_lets | split | simp only [onlyRegs_mk_iff]
    | simp +zetaDelta only [onlyRegs_mk_iff] | apply hf

theorem State.storeWin_regs {r0 s : State} (h : r0.OnlyRegs s) (s0 : State) (w a : Nat) (v : Word) (ctx : Nat)
    : r0.OnlyRegs (State.storeWin s s0 w a v ctx) := by
  unfold State.storeWin
  with_reducible repeat' first
    | intro _ | assumption | apply storeReg_regs | apply ite_of | split

theorem State.storeChipId_regs {r0 s : State} (h : r0.OnlyRegs s) (s0 : State) (v : Word) (ctx : Nat) : r0.OnlyRegs
    (State.storeChipId s s0 v ctx) := by
  unfold State.storeChipId
  with_reducible repeat' first
    | intro _ | assumption | apply storeReg_regs | apply putB_regs | apply ite_of | split

theorem State.reportPair_regs {s0 s : State} (h : s0.OnlyRegs s) (sl n : Nat) (taken : Bool) : s0.OnlyRegs
    (State.reportPair s sl n taken) := by
  unfold State.reportPair
  with_reducible repeat' first
    | intro _ | assumption | apply wr_regs | apply ite_of | split

theorem State.semSignal_regs {s0 s : State} (h : s0.OnlyRegs s) (sl : Nat) (v : Word) : s0.OnlyRegs
    (State.semSignal s sl v) := by
  unfold State.semSignal
  with_reducible repeat' first
    | intro _ | assumption | apply claveSignal_regs | apply reportPair_regs | apply ite_of | split

theorem State.countUnread_regs {s0 s : State} (h : s0.OnlyRegs s)  : s0.OnlyRegs (State.countUnread s) := by
  unfold State.countUnread
  with_reducible repeat' first
    | intro _ | assumption | apply putF_regs | apply count_regs | apply ite_of | split

theorem State.ringWrite_regs {s0 s : State} (h : s0.OnlyRegs s) (r : ErrRec) : s0.OnlyRegs (State.ringWrite s r)
    := by
  unfold State.ringWrite
  with_reducible repeat' first
    | intro _ | assumption | apply countUnread_regs | apply count_regs | apply putB_regs | apply raiseIrq_regs
    | apply ite_of | extract_lets | split | simp only [onlyRegs_mk_iff]

theorem State.recordWrite_regs {s0 s : State} (h : s0.OnlyRegs s)  : s0.OnlyRegs (State.recordWrite s) := by
  unfold State.recordWrite
  with_reducible repeat' first
    | intro _ | assumption | apply ringWrite_regs | apply each_regs | apply flushSlice_regs | apply ite_of
    | extract_lets | split | simp only [onlyRegs_mk_iff]

theorem State.storeErrRd_regs {s0 s : State} (h : s0.OnlyRegs s) (v : Word) (ctx : Nat) : s0.OnlyRegs
    (State.storeErrRd s v ctx) := by
  unfold State.storeErrRd
  with_reducible repeat' first
    | intro _ | assumption | apply storeReg_regs | apply putF_regs | apply ite_of | split

theorem State.storeErrStat_regs {s0 s : State} (h : s0.OnlyRegs s) (v : Word) (ctx : Nat) : s0.OnlyRegs
    (State.storeErrStat s v ctx) := by
  unfold State.storeErrStat
  with_reducible repeat' first
    | intro _ | assumption | apply storeReg_regs | apply putB_regs | apply ite_of | extract_lets | split
    | simp only [onlyRegs_mk_iff]

theorem State.storeErrCfg_regs {s0 s : State} (h : s0.OnlyRegs s) (v : Word) (ctx : Nat) : s0.OnlyRegs
    (State.storeErrCfg s v ctx) := by
  unfold State.storeErrCfg
  with_reducible repeat' first
    | intro _ | assumption | apply storeReg_regs | apply ite_of | split

theorem State.beatAnomaly_regs {s0 s : State} (h : s0.OnlyRegs s) (bit : Nat) : s0.OnlyRegs
    (State.beatAnomaly s bit) := by
  unfold State.beatAnomaly
  with_reducible repeat' first
    | intro _ | assumption | apply putB_regs | apply raiseIrq_regs | apply ite_of | split

theorem State.refuseEntry_regs {s0 s : State} (h : s0.OnlyRegs s) (sl a ctx : Nat) : s0.OnlyRegs
    (State.refuseEntry s sl a ctx) := by
  unfold State.refuseEntry
  with_reducible repeat' first
    | intro _ | assumption | apply refuseCfg_regs | apply rhyCtrl_regs | apply putB_regs | apply ite_of | split

theorem State.storePhase_regs {r0 s : State} (h : r0.OnlyRegs s) (s0 : State) (sl : Nat) (tabB : Bool) (phase : Nat)
    (v : Word) (ctx : Nat) : r0.OnlyRegs (State.storePhase s s0 sl tabB phase v ctx) := by
  unfold State.storePhase
  with_reducible repeat' first
    | intro _ | assumption | apply wr_regs | apply refuseEntry_regs | apply ite_of | split

theorem State.rhyTable_regs {s0 s : State} (h : s0.OnlyRegs s) (sl : Nat) (tabB : Bool) (phase : Nat) (v : Word)
    (ctx : Nat) : s0.OnlyRegs (State.rhyTable s sl tabB phase v ctx) := by
  unfold State.rhyTable
  with_reducible repeat' first
    | intro _ | assumption | apply csrAccess_regs | apply storePhase_regs | apply ite_of | split

theorem State.storeRhyCtrl_regs {s0 s : State} (h : s0.OnlyRegs s) (sl : Nat) (v : Word) (ctx : Nat) : s0.OnlyRegs
    (State.storeRhyCtrl s sl v ctx) := by
  unfold State.storeRhyCtrl
  with_reducible repeat' first
    | intro _ | assumption | apply storeReg_regs | apply rhyCtrl_regs | apply modSlice_regs | apply ite_of | split

theorem State.rhyCtrl_regs {s0 s : State} (h : s0.OnlyRegs s) (sl : Nat) (v : Word) (ctx : Nat) : s0.OnlyRegs
    (State.rhyCtrl s sl v ctx) := by
  unfold State.rhyCtrl
  with_reducible repeat' first
    | intro _ | assumption | apply csrAccess_regs | apply storeRhyCtrl_regs | apply ite_of | split

theorem State.noteVote_regs {s0 s : State} (h : s0.OnlyRegs s) (k : Nat) : s0.OnlyRegs (State.noteVote s k) := by
  unfold State.noteVote
  with_reducible repeat' first
    | intro _ | assumption | apply putB_regs | apply ite_of | apply foldl_of | apply foldl_snd_of
    | apply foldl_fst_of | extract_lets | split | simp only [onlyRegs_mk_iff]
    | simp +zetaDelta only [onlyRegs_mk_iff]

theorem State.voteWrite_regs {s0 s : State} (h : s0.OnlyRegs s) (k : Nat) : s0.OnlyRegs (State.voteWrite s k) := by
  unfold State.voteWrite
  with_reducible repeat' first
    | intro _ | assumption | apply ite_of | extract_lets | split | simp only [onlyRegs_mk_iff]

theorem State.tuncfgWrite_regs {s0 s : State} (h : s0.OnlyRegs s) (a : Nat) : s0.OnlyRegs (State.tuncfgWrite s a)
    := by
  unfold State.tuncfgWrite
  with_reducible repeat' first
    | intro _ | assumption | apply voteWrite_regs | apply putB_regs | apply ite_of | apply foldl_of
    | apply foldl_snd_of | apply foldl_fst_of | extract_lets | split | simp only [onlyRegs_mk_iff]
    | simp +zetaDelta only [onlyRegs_mk_iff]

theorem State.putResult_regs {s0 s : State} (h : s0.OnlyRegs s) (bs : List Byte) : s0.OnlyRegs
    (State.putResult s bs) := by
  unfold State.putResult
  with_reducible repeat' first
    | intro _ | assumption | apply each_regs | apply wr_regs | apply ite_of | split

theorem State.reportRegion_regs {s0 s : State} (h : s0.OnlyRegs s) (r : Nat) : s0.OnlyRegs (State.reportRegion s r)
    := by
  unfold State.reportRegion
  with_reducible repeat' first
    | intro _ | assumption | apply putF_regs | apply putB_regs | apply ite_of | split

theorem State.tunerRec_regs {s0 s : State} (h : s0.OnlyRegs s) (code r inst : Nat) : s0.OnlyRegs
    (State.tunerRec s code r inst) := by
  unfold State.tunerRec
  with_reducible repeat' first
    | intro _ | assumption | apply sliceRec_regs | apply globalRec_regs | apply ite_of | split

theorem State.mismatchWake_regs {s0 s : State} (h : s0.OnlyRegs s)  : s0.OnlyRegs (State.mismatchWake s) := by
  unfold State.mismatchWake
  with_reducible repeat' first
    | intro _ | assumption | apply wakeAll_regs | apply ite_of | split

theorem State.beginScans_regs {s0 s : State} (h : s0.OnlyRegs s)  : s0.OnlyRegs (State.beginScans s) := by
  unfold State.beginScans
  with_reducible repeat' first
    | intro _ | assumption | apply putB_regs | apply ite_of | extract_lets | split | simp only [onlyRegs_mk_iff]

theorem State.endScans_regs {s0 s : State} (h : s0.OnlyRegs s)  : s0.OnlyRegs (State.endScans s) := by
  unfold State.endScans
  with_reducible repeat' first
    | intro _ | assumption | apply putB_regs | apply count_regs | apply ite_of | extract_lets | split
    | simp only [onlyRegs_mk_iff]

theorem State.leavePass_regs {s0 s : State} (h : s0.OnlyRegs s) (r inst : Nat) : s0.OnlyRegs
    (State.leavePass s r inst) := by
  unfold State.leavePass
  with_reducible repeat' first
    | intro _ | assumption | apply ite_of | extract_lets | split | simp only [onlyRegs_mk_iff]

theorem State.reloadMirror_regs {s0 s : State} (h : s0.OnlyRegs s) (sl : Nat) : s0.OnlyRegs
    (State.reloadMirror s sl) := by
  unfold State.reloadMirror
  with_reducible repeat' first
    | intro _ | assumption | apply each_regs | apply putMirror_regs | apply ite_of | apply foldl_of
    | apply foldl_snd_of | apply foldl_fst_of | extract_lets | split | simp only [onlyRegs_mk_iff]
    | simp +zetaDelta only [onlyRegs_mk_iff]

theorem State.storeTunerCtl_regs {s0 s : State} (h : s0.OnlyRegs s) (v : Word) (ctx : Nat) : s0.OnlyRegs
    (State.storeTunerCtl s v ctx) := by
  unfold State.storeTunerCtl
  with_reducible repeat' first
    | intro _ | assumption | apply storeReg_regs | apply tuncfgWrite_regs | apply ite_of | split

theorem State.runChallenge_regs {s0 s : State} (h : s0.OnlyRegs s)  : s0.OnlyRegs (State.runChallenge s) := by
  unfold State.runChallenge
  with_reducible repeat' first
    | intro _ | assumption | apply wr_regs | apply ite_of | extract_lets | split | simp only [onlyRegs_mk_iff]

theorem State.tunerPrivate_regs {s0 s : State} (h : s0.OnlyRegs s) (a ctx : Nat) (f : State → State) (hf : ∀ t
    : State, s0.OnlyRegs t → s0.OnlyRegs (f t)) : s0.OnlyRegs (State.tunerPrivate s a ctx f) := by
  unfold State.tunerPrivate
  with_reducible repeat' first
    | intro _ | assumption | apply csrAccess_regs | apply refuseCfg_regs | apply ite_of | apply foldl_of
    | apply foldl_snd_of | apply foldl_fst_of | extract_lets | split | simp only [onlyRegs_mk_iff]
    | simp +zetaDelta only [onlyRegs_mk_iff] | apply hf

theorem State.chexpGo_regs {s0 s : State} (h : s0.OnlyRegs s) (v : Word) (ctx : Nat) : s0.OnlyRegs
    (State.chexpGo s v ctx) := by
  unfold State.chexpGo
  with_reducible repeat' first
    | intro _ | assumption | apply tunerPrivate_regs | apply storeReg_regs | apply runChallenge_regs
    | apply ite_of | split

theorem State.challenge_regs {s0 s : State} (h : s0.OnlyRegs s) (words : List Word) : s0.OnlyRegs
    (State.challenge s words) := by
  unfold State.challenge
  with_reducible repeat' first
    | intro _ | assumption | apply wr_regs | apply chexpGo_regs | apply ite_of | apply foldl_of
    | apply foldl_snd_of | apply foldl_fst_of | extract_lets | split | simp only [onlyRegs_mk_iff]
    | simp +zetaDelta only [onlyRegs_mk_iff]

theorem State.rewriteTuncfg_regs {s0 s : State} (h : s0.OnlyRegs s)  : s0.OnlyRegs (State.rewriteTuncfg s) := by
  unfold State.rewriteTuncfg
  with_reducible repeat' first
    | intro _ | assumption | apply tuncfgWrite_regs | apply ite_of | apply foldl_of | apply foldl_snd_of
    | apply foldl_fst_of | extract_lets | split | simp only [onlyRegs_mk_iff]
    | simp +zetaDelta only [onlyRegs_mk_iff]

theorem State.countSpares_regs {s0 s : State} (h : s0.OnlyRegs s) (sl b : Nat) : s0.OnlyRegs
    (State.countSpares s sl b) := by
  unfold State.countSpares
  with_reducible repeat' first
    | intro _ | assumption | apply putF_regs | apply ite_of | apply foldl_of | apply foldl_snd_of
    | apply foldl_fst_of | extract_lets | split | simp only [onlyRegs_mk_iff]
    | simp +zetaDelta only [onlyRegs_mk_iff]

theorem State.clearWindow_regs {s0 s : State} (h : s0.OnlyRegs s) (sl : Nat) (keep : Nat → Bool) : s0.OnlyRegs
    (State.clearWindow s sl keep) := by
  unfold State.clearWindow
  with_reducible repeat' first
    | intro _ | assumption | apply ite_of | extract_lets | split | simp only [onlyRegs_mk_iff]

theorem State.ownAll_regs {s0 s : State} (h : s0.OnlyRegs s) (sl : Nat) : s0.OnlyRegs (State.ownAll s sl) := by
  unfold State.ownAll
  with_reducible repeat' first
    | intro _ | assumption | apply each_regs | apply giveBank_regs | apply ite_of | split

theorem State.saveRhythm_regs {s0 s : State} (h : s0.OnlyRegs s) (sl : Nat) : s0.OnlyRegs (State.saveRhythm s sl)
    := by
  unfold State.saveRhythm
  with_reducible repeat' first
    | intro _ | assumption | apply modSlice_regs | apply ite_of | split

theorem State.resetSave_regs {s0 s : State} (h : s0.OnlyRegs s) (sl : Nat) : s0.OnlyRegs (State.resetSave s sl)
    := by
  unfold State.resetSave
  with_reducible repeat' first
    | intro _ | assumption | apply modSlice_regs | apply ite_of | split

theorem State.loadRhythm_regs {s0 s : State} (h : s0.OnlyRegs s) (sl : Nat) : s0.OnlyRegs (State.loadRhythm s sl)
    := by
  unfold State.loadRhythm
  with_reducible repeat' first
    | intro _ | assumption | apply wr_regs | apply allToReset_regs | apply modSlice_regs | apply ite_of
    | apply foldl_of | apply foldl_snd_of | apply foldl_fst_of | extract_lets | split
    | simp only [onlyRegs_mk_iff] | simp +zetaDelta only [onlyRegs_mk_iff]

theorem State.ignoreTarget_regs {s0 s : State} (h : s0.OnlyRegs s)  : s0.OnlyRegs (State.ignoreTarget s) := by
  unfold State.ignoreTarget
  with_reducible repeat' first
    | intro _ | assumption | apply putB_regs | apply ite_of | split

theorem State.beginEntry_regs {s0 s : State} (h : s0.OnlyRegs s) (t : PowerTarget) (enters : Nat) : s0.OnlyRegs
    (State.beginEntry s t enters) := by
  unfold State.beginEntry
  with_reducible repeat' first
    | intro _ | assumption | apply setPower_regs | apply ite_of | extract_lets | split
    | simp only [onlyRegs_mk_iff]

theorem State.actSlice_regs {s0 s : State} (h : s0.OnlyRegs s) (sl v : Nat) : s0.OnlyRegs (State.actSlice s sl v)
    := by
  unfold State.actSlice
  with_reducible repeat' first
    | intro _ | assumption | apply beginEntry_regs | apply beginWake_regs | apply ite_of | split

theorem State.storeSliceTarget_regs {s0 s : State} (h : s0.OnlyRegs s) (sl v : Nat) : s0.OnlyRegs
    (State.storeSliceTarget s sl v) := by
  unfold State.storeSliceTarget
  with_reducible repeat' first
    | intro _ | assumption | apply ignoreTarget_regs | apply putF_regs | apply actSlice_regs | apply ite_of
    | split

theorem State.reqSlice_regs {s0 s : State} (h : s0.OnlyRegs s) (sl v ctx : Nat) : s0.OnlyRegs
    (State.reqSlice s sl v ctx) := by
  unfold State.reqSlice
  with_reducible repeat' first
    | intro _ | assumption | apply csrAccess_regs | apply storeSliceTarget_regs | apply ite_of | split

theorem State.storePwrReq_regs {s0 s : State} (h : s0.OnlyRegs s) (i : Nat) (v : Word) : s0.OnlyRegs
    (State.storePwrReq s i v) := by
  unfold State.storePwrReq
  with_reducible repeat' first
    | intro _ | assumption | apply each_regs | apply storeSliceTarget_regs | apply ite_of | split

theorem State.storeCplx_regs {s0 s : State} (h : s0.OnlyRegs s) (v p : Nat) : s0.OnlyRegs (State.storeCplx s v p)
    := by
  unfold State.storeCplx
  with_reducible repeat' first
    | intro _ | assumption | apply ignoreTarget_regs | apply putF_regs | apply beginEntry_regs
    | apply beginWake_regs | apply ite_of | split

theorem State.reqCplx_regs {s0 s : State} (h : s0.OnlyRegs s) (v ctx : Nat) : s0.OnlyRegs (State.reqCplx s v ctx)
    := by
  unfold State.reqCplx
  with_reducible repeat' first
    | intro _ | assumption | apply csrAccess_regs | apply storeCplx_regs | apply ite_of | split

theorem State.wakeEvent_regs {s0 s : State} (h : s0.OnlyRegs s) (t : PowerTarget) (c : Nat) : s0.OnlyRegs
    (State.wakeEvent s t c) := by
  unfold State.wakeEvent
  with_reducible repeat' first
    | intro _ | assumption | apply wakeAll_regs | apply wakeFor_regs | apply wake_regs | apply ite_of | split

theorem State.putWake_regs {s0 s : State} (h : s0.OnlyRegs s) (t : PowerTarget) (f : PwrWake → Option PwrWake) :
    s0.OnlyRegs (State.putWake s t f) := by
  unfold State.putWake
  with_reducible repeat' first
    | intro _ | assumption | apply ite_of | extract_lets | split | simp only [onlyRegs_mk_iff]

theorem State.nextWakeStep_regs {s0 s : State} (h : s0.OnlyRegs s) (w : PwrWake) : s0.OnlyRegs
    (State.nextWakeStep s w) := by
  unfold State.nextWakeStep
  with_reducible repeat' first
    | intro _ | assumption | apply putWake_regs | apply ite_of | split

theorem State.storeVreq_regs {s0 s : State} (h : s0.OnlyRegs s) (v : Word) (ctx : Nat) : s0.OnlyRegs
    (State.storeVreq s v ctx) := by
  unfold State.storeVreq
  with_reducible repeat' first
    | intro _ | assumption | apply storeReg_regs | apply putF_regs | apply putB_regs | apply ite_of | extract_lets
    | split | simp only [onlyRegs_mk_iff]

theorem State.belfryConfig_regs {s0 s : State} (h : s0.OnlyRegs s)  : s0.OnlyRegs (State.belfryConfig s) := by
  unfold State.belfryConfig
  with_reducible repeat' first
    | intro _ | assumption | apply instReset_regs | apply commitGolden_regs | apply reportRegion_regs
    | apply ite_of | extract_lets | split | simp only [onlyRegs_mk_iff]

theorem State.clearRing_regs {s0 s : State} (h : s0.OnlyRegs s)  : s0.OnlyRegs (State.clearRing s) := by
  unfold State.clearRing
  with_reducible repeat' first
    | intro _ | assumption | apply allToReset_regs | apply ite_of | extract_lets | split
    | simp only [onlyRegs_mk_iff]

theorem State.failSlices_regs {s0 s : State} (h : s0.OnlyRegs s) (map : Word) : s0.OnlyRegs (State.failSlices s map)
    := by
  unfold State.failSlices
  with_reducible repeat' first
    | intro _ | assumption | apply wr_regs | apply putB_regs | apply ite_of | split

theorem State.comparePort_regs {s0 s : State} (h : s0.OnlyRegs s) (sl p : Nat) : s0.OnlyRegs
    (State.comparePort s sl p) := by
  unfold State.comparePort
  with_reducible repeat' first
    | intro _ | assumption | apply putF_regs | apply putB_regs | apply ite_of | split

theorem State.killPairs_regs {s0 s : State} (h : s0.OnlyRegs s) (sl c : Nat) : s0.OnlyRegs (State.killPairs s sl c)
    := by
  unfold State.killPairs
  with_reducible repeat' first
    | intro _ | assumption | apply allToReset_regs | apply ite_of | split

theorem State.soloPause_regs {s0 s : State} (h : s0.OnlyRegs s) (c : Nat) : s0.OnlyRegs (State.soloPause s c) := by
  unfold State.soloPause
  with_reducible repeat' first
    | intro _ | assumption | apply each_regs | apply putF_regs | apply ctxPauses_regs | apply putB_regs
    | apply ite_of | split

theorem State.resetSaves_regs {s0 s : State} (h : s0.OnlyRegs s) (u : UnitReset) : s0.OnlyRegs
    (State.resetSaves s u) := by
  unfold State.resetSaves
  with_reducible repeat' first
    | intro _ | assumption | apply each_regs | apply resetSave_regs | apply ite_of | apply foldl_of
    | apply foldl_snd_of | apply foldl_fst_of | extract_lets | split | simp only [onlyRegs_mk_iff]
    | simp +zetaDelta only [onlyRegs_mk_iff]

theorem State.storeMboxArg_regs {s0 s : State} (h : s0.OnlyRegs s) (w : Nat) (v : Word) (ctx : Nat) : s0.OnlyRegs
    (State.storeMboxArg s w v ctx) := by
  unfold State.storeMboxArg
  with_reducible repeat' first
    | intro _ | assumption | apply putB_regs | apply storeReg_regs | apply ite_of | split

theorem State.storeGroup_regs {r0 s : State} (h : r0.OnlyRegs s) (s0 : State) (a : Nat) (v : Word) (ctx : Nat)
    : r0.OnlyRegs (State.storeGroup s s0 a v ctx) := by
  unfold State.storeGroup
  with_reducible repeat' first
    | intro _ | assumption | apply storeReg_regs | apply ite_of | split

theorem State.storeSyswin_regs {r0 s : State} (h : r0.OnlyRegs s) (s0 : State) (a : Nat) (v : Word) (ctx : Nat)
    : r0.OnlyRegs (State.storeSyswin s s0 a v ctx) := by
  unfold State.storeSyswin
  with_reducible repeat' first
    | intro _ | assumption | apply storeReg_regs | apply refuseCfg_regs | apply ite_of | split

theorem State.storeTap_regs {r0 s : State} (h : r0.OnlyRegs s) (s0 : State) (v : Word) (ctx : Nat) : r0.OnlyRegs
    (State.storeTap s s0 v ctx) := by
  unfold State.storeTap
  with_reducible repeat' first
    | intro _ | assumption | apply storeReg_regs | apply ite_of | split

theorem State.storeChal_regs {s0 s : State} (h : s0.OnlyRegs s) (a : Nat) (v : Word) (ctx : Nat) : s0.OnlyRegs
    (State.storeChal s a v ctx) := by
  unfold State.storeChal
  with_reducible repeat' first
    | intro _ | assumption | apply refuseCfg_regs | apply storeReg_regs | apply runChallenge_regs | apply ite_of
    | split

theorem State.storeSeEnable_regs {s0 s : State} (h : s0.OnlyRegs s) (sl off : Nat) (v : Word) (ctx : Nat) :
    s0.OnlyRegs (State.storeSeEnable s sl off v ctx) := by
  unfold State.storeSeEnable
  with_reducible repeat' first
    | intro _ | assumption | apply storeReg_regs | apply raiseIrq_regs | apply ite_of | split

theorem State.storePatrol_regs {s0 s : State} (h : s0.OnlyRegs s) (sl : Nat) (v : Word) (ctx : Nat) : s0.OnlyRegs
    (State.storePatrol s sl v ctx) := by
  unfold State.storePatrol
  with_reducible repeat' first
    | intro _ | assumption | apply storeReg_regs | apply ite_of | split

theorem State.storeEccCfg_regs {s0 s : State} (h : s0.OnlyRegs s) (sl : Nat) (v : Word) (ctx : Nat) : s0.OnlyRegs
    (State.storeEccCfg s sl v ctx) := by
  unfold State.storeEccCfg
  with_reducible repeat' first
    | intro _ | assumption | apply storeReg_regs | apply ite_of | split

theorem State.storePortCfg_regs {r0 s : State} (h : r0.OnlyRegs s) (s0 : State) (sl p : Nat) (v : Word) (ctx : Nat)
    : r0.OnlyRegs (State.storePortCfg s s0 sl p v ctx) := by
  unfold State.storePortCfg
  with_reducible repeat' first
    | intro _ | assumption | apply storeReg_regs | apply ite_of | split

theorem State.mirrorDone_regs {s0 s : State} (hs : s0.OnlyRegs s) (h : Nat) : s0.OnlyRegs (State.mirrorDone s h)
    := by
  unfold State.mirrorDone
  with_reducible repeat' first
    | intro _ | assumption | apply ite_of | apply foldl_of | apply foldl_snd_of | apply foldl_fst_of
    | extract_lets | split | simp only [onlyRegs_mk_iff] | simp +zetaDelta only [onlyRegs_mk_iff]

theorem State.pealSkip_regs {s0 s : State} (h : s0.OnlyRegs s) (sl : Nat) : s0.OnlyRegs (State.pealSkip s sl) := by
  unfold State.pealSkip
  with_reducible repeat' first
    | intro _ | assumption | apply putB_regs | apply ite_of | split

theorem State.csrWake_regs {s0 s : State} (h : s0.OnlyRegs s) (a : Nat) : s0.OnlyRegs (State.csrWake s a) := by
  unfold State.csrWake
  with_reducible repeat' first
    | intro _ | assumption | apply wake_regs | apply ite_of | split

theorem State.spAwake_regs {s0 s : State} (h : s0.OnlyRegs s) (r : SpStaged) : s0.OnlyRegs (State.spAwake s r).2
    := by
  unfold State.spAwake
  with_reducible repeat' first
    | intro _ | assumption | apply csrWake_regs | apply wake_regs | apply ite_of | extract_lets | split
    | simp only [onlyRegs_mk_iff]

theorem State.takeGoldens_regs {s0 s : State} (h : s0.OnlyRegs s)  : s0.OnlyRegs (State.takeGoldens s) := by
  unfold State.takeGoldens
  with_reducible repeat' first
    | intro _ | assumption | apply commitGolden_regs | apply ite_of | apply foldl_of | apply foldl_snd_of
    | apply foldl_fst_of | extract_lets | split | simp only [onlyRegs_mk_iff]
    | simp +zetaDelta only [onlyRegs_mk_iff]

end Sys2Proof.Machine
end

