-- ==== Sys2Proof/Laws/KeptStorage.lean ====
section
/-! SUPPORT. Every operation keeps what no command changes. -/

set_option linter.unusedSimpArgs false

namespace Sys2Proof.Machine

open State

theorem State.putF_kept {s0 s : State} (h : s0.Kept s) (a lo n v : Nat) : s0.Kept (State.putF s a lo n v) := by
  unfold State.putF
  with_reducible repeat' first
    | intro _ | assumption | apply wr_kept | apply ite_of | split

theorem State.putB_kept {s0 s : State} (h : s0.Kept s) (a i : Nat) (b : Bool) : s0.Kept (State.putB s a i b) := by
  unfold State.putB
  with_reducible repeat' first
    | intro _ | assumption | apply wr_kept | apply ite_of | split

theorem State.count_kept {s0 s : State} (h : s0.Kept s) (a lo n k : Nat) : s0.Kept (State.count s a lo n k) := by
  unfold State.count
  with_reducible repeat' first
    | intro _ | assumption | apply putF_kept | apply ite_of | split

theorem State.countSat_kept {s0 s : State} (h : s0.Kept s) (a lo n k : Nat) : s0.Kept (State.countSat s a lo n k)
    := by
  unfold State.countSat
  with_reducible repeat' first
    | intro _ | assumption | apply putF_kept | apply ite_of | split

theorem State.toReset_kept {s0 s : State} (h : s0.Kept s) (a : Nat) : s0.Kept (State.toReset s a) := by
  unfold State.toReset
  with_reducible repeat' first
    | intro _ | assumption | apply wr_kept | apply ite_of | split

theorem State.allToReset_kept {s0 s : State} (h : s0.Kept s) (l : List Nat) : s0.Kept (State.allToReset s l) := by
  unfold State.allToReset
  with_reducible repeat' first
    | intro _ | assumption | apply toReset_kept | apply ite_of | apply foldl_of | apply foldl_snd_of
    | apply foldl_fst_of | extract_lets | split | simp only [kept_mk_iff] | simp only [kept_mkBelfry_iff]
    | simp +zetaDelta only [kept_mk_iff] | simp +zetaDelta only [kept_mkBelfry_iff]

theorem State.modSlice_kept {s0 s : State} (h : s0.Kept s) (sl : Nat) (f : SliceSt → SliceSt) : s0.Kept
    (State.modSlice s sl f) := by
  unfold State.modSlice
  with_reducible repeat' first
    | intro _ | assumption | apply setSlice_kept | apply ite_of | split

theorem State.modPort_kept {s0 s : State} (h : s0.Kept s) (sl p : Nat) (f : Port → Port) : s0.Kept
    (State.modPort s sl p f) := by
  unfold State.modPort
  with_reducible repeat' first
    | intro _ | assumption | apply setPort_kept | apply ite_of | split

theorem State.modSlot_kept {s0 s : State} (h : s0.Kept s) (sl j : Nat) (f : Slot → Slot) : s0.Kept
    (State.modSlot s sl j f) := by
  unfold State.modSlot
  with_reducible repeat' first
    | intro _ | assumption | apply setSlot_kept | apply ite_of | split

theorem State.modBank_kept {s0 s : State} (h : s0.Kept s) (sl b : Nat) (f : Bank → Bank) : s0.Kept
    (State.modBank s sl b f) := by
  unfold State.modBank
  with_reducible repeat' first
    | intro _ | assumption | apply setBank_kept | apply ite_of | split

theorem State.pass_kept {s0 s : State} (h : s0.Kept s) (n : Nat) : s0.Kept (State.pass s n) := by
  unfold State.pass
  with_reducible repeat' first
    | intro _ | assumption | apply ite_of | extract_lets | split | simp only [kept_mk_iff]

theorem State.reach_kept {s0 s : State} (h : s0.Kept s) (t : Nat) : s0.Kept (State.reach s t) := by
  unfold State.reach
  with_reducible repeat' first
    | intro _ | assumption | apply pass_kept | apply ite_of | split

theorem State.tick_kept {s0 s : State} (h : s0.Kept s)  : s0.Kept (State.tick s) := by
  unfold State.tick
  with_reducible repeat' first
    | intro _ | assumption | apply pass_kept | apply ite_of | extract_lets | split | simp only [kept_mk_iff]

theorem State.raiseIrq_kept {s0 s : State} (h : s0.Kept s) (i : Nat) : s0.Kept (State.raiseIrq s i) := by
  unfold State.raiseIrq
  exact kept_mk_iff.mpr (putB_kept h _ _ _)

theorem State.flushSlice_kept {s0 s : State} (h : s0.Kept s) (sl : Nat) : s0.Kept (State.flushSlice s sl) := by
  unfold State.flushSlice
  with_reducible repeat' first
    | intro _ | assumption | apply modSlice_kept | apply ite_of | extract_lets | split | simp only [kept_mk_iff]

theorem State.pushRec_kept {s0 s : State} (h : s0.Kept s) (sl : Nat) (r : ErrRec) : s0.Kept (State.pushRec s sl r)
    := by
  unfold State.pushRec
  with_reducible repeat' first
    | intro _ | assumption | apply count_kept | apply modSlice_kept | apply flushSlice_kept | apply ite_of | split

theorem State.sliceRec_kept {s0 s : State} (h : s0.Kept s) (sl code aux : Nat) (slot : Option Nat) (ctx cls : Nat)
    (detail : Word) : s0.Kept (State.sliceRec s sl code aux slot ctx cls detail) := by
  unfold State.sliceRec
  with_reducible repeat' first
    | intro _ | assumption | apply pushRec_kept | apply ite_of | split

theorem State.globalRec_kept {s0 s : State} (h : s0.Kept s) (code aux ctx : Nat) (detail : Word) : s0.Kept
    (State.globalRec s code aux ctx detail) := by
  unfold State.globalRec
  with_reducible repeat' first
    | intro _ | assumption | apply ite_of | extract_lets | split | simp only [kept_mk_iff]

theorem State.refuseCfg_kept {s0 s : State} (h : s0.Kept s) (a ctx : Nat) : s0.Kept (State.refuseCfg s a ctx) := by
  unfold State.refuseCfg
  with_reducible repeat' first
    | intro _ | assumption | apply sliceRec_kept | apply globalRec_kept | apply ite_of | split

theorem State.putStored_kept {s0 s : State} (h : s0.Kept s) (sl b l w8 : Nat) (w : BitVec 80) : s0.Kept
    (State.putStored s sl b l w8 w) := by
  unfold State.putStored
  with_reducible repeat' first
    | intro _ | assumption | apply modBank_kept | apply putArrayWord_kept | apply ite_of | split

theorem State.writeCoded_kept {s0 s : State} (h : s0.Kept s) (sl b l w8 : Nat) (d : Word) (psn : Bool) : s0.Kept
    (State.writeCoded s sl b l w8 d psn) := by
  unfold State.writeCoded
  with_reducible repeat' first
    | intro _ | assumption | apply putStored_kept | apply modBank_kept | apply putW_kept | apply ite_of | split

theorem State.recordCe_kept {s0 s : State} (h : s0.Kept s) (sl aux ctx cls : Nat) (detail : Word) : s0.Kept
    (State.recordCe s sl aux ctx cls detail) := by
  unfold State.recordCe
  with_reducible repeat' first
    | intro _ | assumption | apply modSlice_kept | apply pushRec_kept | apply ite_of | split

theorem State.queueTest_kept {s0 s : State} (h : s0.Kept s) (sl b row : Nat) : s0.Kept (State.queueTest s sl b row)
    := by
  unfold State.queueTest
  with_reducible repeat' first
    | intro _ | assumption | apply count_kept | apply setBank_kept | apply retire_kept | apply ite_of | split

theorem State.noteWord_kept {s0 s : State} (h : s0.Kept s) (sl b l w8 src ctx cls : Nat) (d : Decoded) : s0.Kept
    (State.noteWord s sl b l w8 src ctx cls d) := by
  unfold State.noteWord
  with_reducible repeat' first
    | intro _ | assumption | apply count_kept | apply recordCe_kept | apply sliceRec_kept | apply modBank_kept
    | apply ite_of | split

theorem State.noteVecWord_kept {s0 s : State} (h : s0.Kept s) (sl line w8 ctx cls : Nat) (d : Decoded) : s0.Kept
    (State.noteVecWord s sl line w8 ctx cls d) := by
  unfold State.noteVecWord
  with_reducible repeat' first
    | intro _ | assumption | apply recordCe_kept | apply sliceRec_kept | apply ite_of | apply foldl_of
    | apply foldl_snd_of | apply foldl_fst_of | extract_lets | split | simp only [kept_mk_iff]
    | simp only [kept_mkBelfry_iff] | simp +zetaDelta only [kept_mk_iff]
    | simp +zetaDelta only [kept_mkBelfry_iff]

theorem State.drainWord_kept {s0 s : State} (h : s0.Kept s) (sl b : Nat) (e : MergeEntry) (w8 : Nat) : s0.Kept
    (State.drainWord s sl b e w8) := by
  unfold State.drainWord
  with_reducible repeat' first
    | intro _ | assumption | apply writeCoded_kept | apply noteWord_kept | apply queueTest_kept | apply ite_of
    | split

theorem State.drainLine_kept {s0 s : State} (h : s0.Kept s) (sl b l : Nat) : s0.Kept (State.drainLine s sl b l)
    := by
  unfold State.drainLine
  with_reducible repeat' first
    | intro _ | assumption | apply modBank_kept | apply drainWord_kept | apply each_kept | apply ite_of | split

theorem State.drainAll_kept {s0 s : State} (h : s0.Kept s) (sl b : Nat) : s0.Kept (State.drainAll s sl b) := by
  unfold State.drainAll
  with_reducible repeat' first
    | intro _ | assumption | apply drainLine_kept | apply ite_of | apply foldl_of | apply foldl_snd_of
    | apply foldl_fst_of | extract_lets | split | simp only [kept_mk_iff] | simp only [kept_mkBelfry_iff]
    | simp +zetaDelta only [kept_mk_iff] | simp +zetaDelta only [kept_mkBelfry_iff]

theorem State.landLine_kept {s0 s : State} (h : s0.Kept s) (sl b l : Nat) (ben : ByteEn) (data : Line) (psn
    : WordEn) : s0.Kept (State.landLine s sl b l ben data psn) := by
  unfold State.landLine
  with_reducible repeat' first
    | intro _ | assumption | apply modBank_kept | apply writeCoded_kept | apply drainLine_kept
    | apply putEntry_kept | apply each_kept | apply ite_of | apply foldl_of | apply foldl_snd_of
    | apply foldl_fst_of | extract_lets | split | simp only [kept_mk_iff] | simp only [kept_mkBelfry_iff]
    | simp +zetaDelta only [kept_mk_iff] | simp +zetaDelta only [kept_mkBelfry_iff]

theorem State.writeLine_kept {s0 s : State} (h : s0.Kept s) (sl b l : Nat) (ben : ByteEn) (data : Line) (psn
    : WordEn) : s0.Kept (State.writeLine s sl b l ben data psn) := by
  unfold State.writeLine
  with_reducible repeat' first
    | intro _ | assumption | apply modBank_kept | apply landLine_kept | apply ite_of | split

theorem State.writeBack_kept {s0 s : State} (h : s0.Kept s) (sl b l w8 : Nat) (d : Word) : s0.Kept
    (State.writeBack s sl b l w8 d) := by
  unfold State.writeBack
  with_reducible repeat' first
    | intro _ | assumption | apply setBank_kept | apply putEntry_kept | apply count_kept | apply ite_of
    | extract_lets | split | simp only [kept_mk_iff]

theorem State.touchWord_kept {s0 s : State} (h : s0.Kept s) (sl b l w8 src ctx cls : Nat) : s0.Kept
    (State.touchWord s sl b l w8 src ctx cls) := by
  unfold State.touchWord
  with_reducible repeat' first
    | intro _ | assumption | apply noteWord_kept | apply writeBack_kept | apply queueTest_kept | apply ite_of
    | split

theorem State.touchLine_kept {s0 s : State} (h : s0.Kept s) (sl b l : Nat) (wen : WordEn) (src ctx cls : Nat) :
    s0.Kept (State.touchLine s sl b l wen src ctx cls) := by
  unfold State.touchLine
  with_reducible repeat' first
    | intro _ | assumption | apply each_kept | apply touchWord_kept | apply ite_of | split

theorem State.wipeLine_kept {s0 s : State} (h : s0.Kept s) (sl b l : Nat) : s0.Kept (State.wipeLine s sl b l) := by
  unfold State.wipeLine
  with_reducible repeat' first
    | intro _ | assumption | apply modBank_kept | apply putW_kept | apply landLine_kept | apply each_kept
    | apply wrote_kept | apply ite_of | split

theorem State.wipeBank_kept {s0 s : State} (h : s0.Kept s) (sl b : Nat) : s0.Kept (State.wipeBank s sl b) := by
  unfold State.wipeBank
  exact State.modBank_kept (State.kept_mkMem h fun y => by exact Mem.filterW_canon y _) sl b _

theorem State.putGolden_kept {s0 s : State} (h : s0.Kept s) (r inst : Nat) (v : BitVec 32) : s0.Kept
    (State.putGolden s r inst v) := by
  unfold State.putGolden
  with_reducible repeat' first
    | intro _ | assumption | apply ite_of | extract_lets | split | simp only [kept_mk_iff]

theorem State.rescan_kept {s0 s : State} (h : s0.Kept s) (r inst : Nat) : s0.Kept (State.rescan s r inst) := by
  unfold State.rescan
  with_reducible repeat' first
    | intro _ | assumption | apply ite_of | extract_lets | split | simp only [kept_mk_iff]

theorem State.moveGolden_kept {s0 s : State} (h : s0.Kept s) (r inst : Nat) (d : BitVec 32) : s0.Kept
    (State.moveGolden s r inst d) := by
  unfold State.moveGolden
  with_reducible repeat' first
    | intro _ | assumption | apply rescan_kept | apply putGolden_kept | apply ite_of | split

theorem State.wrCfg_kept {s0 s : State} (h : s0.Kept s) (a : Nat) (v : Word) : s0.Kept (State.wrCfg s a v) := by
  unfold State.wrCfg
  with_reducible repeat' first
    | intro _ | assumption | apply wr_kept | apply moveGolden_kept | apply ite_of | split

theorem State.putCfg_kept {s0 s : State} (h : s0.Kept s) (a lo n v : Nat) : s0.Kept (State.putCfg s a lo n v) := by
  unfold State.putCfg
  with_reducible repeat' first
    | intro _ | assumption | apply wrCfg_kept | apply ite_of | split

theorem State.moveRepair_kept {s0 s : State} (h : s0.Kept s) (s₀ : State) (sl : Nat) (hs₀ : s0.Kept s₀) : s0.Kept
    (State.moveRepair s s₀ sl) := by
  unfold State.moveRepair
  with_reducible repeat' first
    | intro _ | assumption | apply moveGolden_kept | apply ite_of | apply foldl_of | apply foldl_snd_of
    | apply foldl_fst_of | extract_lets | split | simp only [kept_mk_iff] | simp only [kept_mkBelfry_iff]
    | simp +zetaDelta only [kept_mk_iff] | simp +zetaDelta only [kept_mkBelfry_iff]

theorem State.commitGolden_kept {s0 s : State} (h : s0.Kept s) (r inst : Nat) : s0.Kept
    (State.commitGolden s r inst) := by
  unfold State.commitGolden
  with_reducible repeat' first
    | intro _ | assumption | apply putGolden_kept | apply ite_of | split

theorem State.instReset_kept {s0 s : State} (h : s0.Kept s) (r inst : Nat) : s0.Kept (State.instReset s r inst)
    := by
  unfold State.instReset
  with_reducible repeat' first
    | intro _ | assumption | apply putGolden_kept | apply ite_of | extract_lets | split | simp only [kept_mk_iff]

theorem State.guardAdvance_kept {s0 s : State} (hs : s0.Kept s) (sl h : Nat) (e : HEntry) (write : Bool) (o : Nat) :
    s0.Kept (State.guardAdvance s sl h e write o) := by
  unfold State.guardAdvance
  with_reducible repeat' first
    | intro _ | assumption | apply count_kept | apply putF_kept | apply modSlice_kept | apply ite_of | split

theorem State.bindGuard_kept {s0 s : State} (hs : s0.Kept s) (h : Nat) : s0.Kept (State.bindGuard s h) := by
  unfold State.bindGuard
  with_reducible repeat' first
    | intro _ | assumption | apply each_kept | apply wr_kept | apply putB_kept | apply putF_kept
    | apply refuseCfg_kept | apply ite_of | extract_lets | split | simp only [kept_mk_iff]

theorem State.claveSignal_kept {s0 s : State} (h : s0.Kept s) (sl pair : Nat) (room : Bool) (n : Nat) : s0.Kept
    (State.claveSignal s sl pair room n) := by
  unfold State.claveSignal
  with_reducible repeat' first
    | intro _ | assumption | apply putF_kept | apply putB_kept | apply modSlice_kept | apply ite_of | split

theorem State.claveTime_kept {s0 s : State} (h : s0.Kept s) (sl pair : Nat) : s0.Kept (State.claveTime s sl pair)
    := by
  unfold State.claveTime
  with_reducible repeat' first
    | intro _ | assumption | apply pass_kept | apply ite_of | split

theorem State.claveTake_kept {s0 s : State} (h : s0.Kept s) (sl pair : Nat) (room : Bool) (n : Nat) : s0.Kept
    (State.claveTake s sl pair room n).2 := by
  unfold State.claveTake
  with_reducible repeat' first
    | intro _ | assumption | apply putF_kept | apply ite_of | extract_lets | split | simp only [kept_mk_iff]

theorem State.putVec_kept {s0 s : State} (h : s0.Kept s) (sl line : Nat) (ben : ByteEn) (data : Line) (psn : WordEn)
    : s0.Kept (State.putVec s sl line ben data psn) := by
  unfold State.putVec
  refine State.each_kept h _ _ fun t x ht => ?_
  dsimp only
  split
  · exact ht
  · exact State.kept_mkMem ht fun y => by exact Mem.putVec_canon y _ _

theorem State.emptyVec_kept {s0 s : State} (h : s0.Kept s) (sl line : Nat) : s0.Kept (State.emptyVec s sl line)
    := by
  unfold State.emptyVec
  exact State.each_kept h _ _ fun t x ht => State.kept_mkMem ht fun y => by exact Mem.putVec_canon y _ _

theorem State.countOutput_kept {s0 s : State} (h : s0.Kept s) (p : (Nat × Nat) × Nat) (flits : Nat) : s0.Kept
    (State.countOutput s p flits) := by
  unfold State.countOutput
  with_reducible repeat' first
    | intro _ | assumption | apply count_kept | apply ite_of | split

theorem State.monitor_kept {s0 s : State} (h : s0.Kept s) (sl cls lat : Nat) : s0.Kept (State.monitor s sl cls lat)
    := by
  unfold State.monitor
  with_reducible repeat' first
    | intro _ | assumption | apply putF_kept | apply countSat_kept | apply putB_kept | apply raiseIrq_kept
    | apply ite_of | split

theorem State.queueKnell_kept {s0 s : State} (h : s0.Kept s) (job reason : Nat) : s0.Kept
    (State.queueKnell s job reason) := by
  unfold State.queueKnell
  with_reducible repeat' first
    | intro _ | assumption | apply ite_of | extract_lets | split | simp only [kept_mk_iff]

theorem State.killK1_kept {s0 s : State} (h : s0.Kept s) (c : Nat) (byKnell : Bool) : s0.Kept
    (State.killK1 s c byKnell) := by
  unfold State.killK1
  with_reducible repeat' first
    | intro _ | assumption | apply putF_kept | apply ctxE0_kept | apply queueKnell_kept | apply ite_of
    | extract_lets | split | simp only [kept_mk_iff]

theorem State.beginKill_kept {s0 s : State} (h : s0.Kept s) (c : Nat) (byKnell : Bool) : s0.Kept
    (State.beginKill s c byKnell) := by
  unfold State.beginKill
  with_reducible repeat' first
    | intro _ | assumption | apply putB_kept | apply ctxE0_kept | apply killK1_kept | apply ite_of | extract_lets
    | split | simp only [kept_mk_iff]

theorem State.killJob_kept {s0 s : State} (h : s0.Kept s) (job : Nat) : s0.Kept (State.killJob s job) := by
  unfold State.killJob
  with_reducible repeat' first
    | intro _ | assumption | apply each_kept | apply beginKill_kept | apply ite_of | split

theorem State.knellOnUe_kept {s0 s : State} (h : s0.Kept s) (c : Nat) : s0.Kept (State.knellOnUe s c) := by
  unfold State.knellOnUe
  with_reducible repeat' first
    | intro _ | assumption | apply ctxE0_kept | apply queueKnell_kept | apply killJob_kept | apply ite_of | split

theorem State.touchVec_kept {s0 s : State} (h : s0.Kept s) (sl c cls : Nat) (words : List (Nat × Nat)) : s0.Kept
    (State.touchVec s sl c cls words) := by
  unfold State.touchVec
  with_reducible repeat' first
    | intro _ | assumption | apply noteVecWord_kept | apply knellOnUe_kept | apply ite_of | apply foldl_of
    | apply foldl_snd_of | apply foldl_fst_of | extract_lets | split | simp only [kept_mk_iff]
    | simp only [kept_mkBelfry_iff] | simp +zetaDelta only [kept_mk_iff]
    | simp +zetaDelta only [kept_mkBelfry_iff]

theorem State.touchLines_kept {s0 s : State} (h : s0.Kept s) (sl : Nat) (r : Req) (src : Nat) : s0.Kept
    (State.touchLines s sl r src) := by
  unfold State.touchLines
  with_reducible repeat' first
    | intro _ | assumption | apply touchLine_kept | apply knellOnUe_kept | apply ite_of | apply foldl_of
    | apply foldl_snd_of | apply foldl_fst_of | extract_lets | split | simp only [kept_mk_iff]
    | simp only [kept_mkBelfry_iff] | simp +zetaDelta only [kept_mk_iff]
    | simp +zetaDelta only [kept_mkBelfry_iff]

theorem State.writeLines_kept {s0 s : State} (h : s0.Kept s) (sl : Nat) (r : Req) : s0.Kept
    (State.writeLines s sl r) := by
  unfold State.writeLines
  with_reducible repeat' first
    | intro _ | assumption | apply writeLine_kept | apply ite_of | apply foldl_of | apply foldl_snd_of
    | apply foldl_fst_of | extract_lets | split | simp only [kept_mk_iff] | simp only [kept_mkBelfry_iff]
    | simp +zetaDelta only [kept_mk_iff] | simp +zetaDelta only [kept_mkBelfry_iff]

theorem State.perform_kept {s0 s : State} (h : s0.Kept s) (sl : Nat) (r : Req) : s0.Kept (State.perform s sl r).2.2
    := by
  unfold State.perform
  with_reducible repeat' first
    | intro _ | assumption | apply writeLines_kept | apply touchLines_kept | apply ite_of | extract_lets | split
    | simp only [kept_mk_iff]

theorem State.setWin_kept {s0 s : State} (h : s0.Kept s) (w v : Nat) : s0.Kept (State.setWin s w v) := by
  unfold State.setWin
  with_reducible repeat' first
    | intro _ | assumption | apply putF_kept | apply ite_of | split

theorem State.putTag_kept {s0 s : State} (h : s0.Kept s) (w g : Nat) (x : FpTag) : s0.Kept (State.putTag s w g x)
    := by
  unfold State.putTag
  with_reducible repeat' first
    | intro _ | assumption | apply putF_kept | apply ite_of | extract_lets | split | simp only [kept_mk_iff]

theorem State.dropTags_kept {s0 s : State} (h : s0.Kept s) (w : Nat) : s0.Kept (State.dropTags s w) := by
  unfold State.dropTags
  with_reducible repeat' first
    | intro _ | assumption | apply countSat_kept | apply putF_kept | apply ite_of | extract_lets | split
    | simp only [kept_mk_iff]

theorem State.closeWindow_kept {s0 s : State} (h : s0.Kept s) (w : Nat) : s0.Kept (State.closeWindow s w) := by
  unfold State.closeWindow
  with_reducible repeat' first
    | intro _ | assumption | apply dropTags_kept | apply setWin_kept | apply ite_of | extract_lets | split
    | simp only [kept_mk_iff]

theorem State.closeWindows_kept {s0 s : State} (h : s0.Kept s) (p : Nat → Bool) : s0.Kept (State.closeWindows s p)
    := by
  unfold State.closeWindows
  with_reducible repeat' first
    | intro _ | assumption | apply each_kept | apply closeWindow_kept | apply ite_of | split

theorem State.fpShow_kept {s0 s : State} (h : s0.Kept s) (p : Packet) : s0.Kept (State.fpShow s p) := by
  unfold State.fpShow
  with_reducible repeat' first
    | intro _ | assumption | apply ite_of | extract_lets | split | simp only [kept_mk_iff]

theorem State.signalPair_kept {s0 s : State} (h : s0.Kept s) (w : Nat) : s0.Kept (State.signalPair s w) := by
  unfold State.signalPair
  with_reducible repeat' first
    | intro _ | assumption | apply claveSignal_kept | apply ite_of | split

theorem State.tollDone_kept {s0 s : State} (h : s0.Kept s) (p : Packet) (code : Nat) : s0.Kept
    (State.tollDone s p code).2 := by
  unfold State.tollDone
  with_reducible repeat' first
    | intro _ | assumption | apply putTag_kept | apply count_kept | apply countSat_kept | apply signalPair_kept
    | apply raiseIrq_kept | apply ite_of | split

theorem State.arrived_kept {s0 s : State} (h : s0.Kept s) (p : Packet) : s0.Kept (State.arrived s p) := by
  unfold State.arrived
  with_reducible repeat' first
    | intro _ | assumption | apply putTag_kept | apply ite_of | split

theorem State.fpAnswer_kept {s0 s : State} (h : s0.Kept s) (p : Packet) (code : Nat) (lines : List LineRsp) :
    s0.Kept (State.fpAnswer s p code lines) := by
  unfold State.fpAnswer
  with_reducible repeat' first
    | intro _ | assumption | apply fpShow_kept | apply tollDone_kept | apply arrived_kept | apply ite_of | split

theorem State.fpFinish_kept {s0 s : State} (h : s0.Kept s) (id : Nat) : s0.Kept (State.fpFinish s id) := by
  unfold State.fpFinish
  with_reducible repeat' first
    | intro _ | assumption | apply fpAnswer_kept | apply ite_of | apply foldl_of | apply foldl_snd_of
    | apply foldl_fst_of | extract_lets | split | simp only [kept_mk_iff] | simp only [kept_mkBelfry_iff]
    | simp +zetaDelta only [kept_mk_iff] | simp +zetaDelta only [kept_mkBelfry_iff]

theorem State.takeLink_kept {s0 s : State} (h : s0.Kept s) (c o : Nat) (x : Flit) : s0.Kept (State.takeLink s c o x)
    := by
  unfold State.takeLink
  with_reducible repeat' first
    | intro _ | assumption | apply burst_kept | apply countOutput_kept | apply ite_of | apply foldl_of
    | apply foldl_snd_of | apply foldl_fst_of | extract_lets | split | simp only [kept_mk_iff]
    | simp only [kept_mkBelfry_iff] | simp +zetaDelta only [kept_mk_iff]
    | simp +zetaDelta only [kept_mkBelfry_iff]

theorem State.breakLink_kept {s0 s : State} (h : s0.Kept s) (o : Nat) : s0.Kept (State.breakLink s o) := by
  unfold State.breakLink
  with_reducible repeat' first
    | intro _ | assumption | apply count_kept | apply ite_of | apply foldl_of | apply foldl_snd_of
    | apply foldl_fst_of | extract_lets | split | simp only [kept_mk_iff] | simp only [kept_mkBelfry_iff]
    | simp +zetaDelta only [kept_mk_iff] | simp +zetaDelta only [kept_mkBelfry_iff]

theorem State.linkStep_kept {s0 s : State} (h : s0.Kept s) (c o : Nat) : s0.Kept (State.linkStep s c o) := by
  unfold State.linkStep
  with_reducible repeat' first
    | intro _ | assumption | apply takeLink_kept | apply burst_kept | apply breakLink_kept | apply ite_of
    | apply foldl_of | apply foldl_snd_of | apply foldl_fst_of | extract_lets | split | simp only [kept_mk_iff]
    | simp only [kept_mkBelfry_iff] | simp +zetaDelta only [kept_mk_iff]
    | simp +zetaDelta only [kept_mkBelfry_iff]

theorem State.joinAck_kept {s0 s : State} (h : s0.Kept s) (a : AckMark) (p : Nat × Nat) (c : Nat) : s0.Kept
    (State.joinAck s a p c) := by
  unfold State.joinAck
  with_reducible repeat' first
    | intro _ | assumption | apply ite_of | apply foldl_of | apply foldl_snd_of | apply foldl_fst_of
    | extract_lets | split | simp only [kept_mk_iff] | simp only [kept_mkBelfry_iff]
    | simp +zetaDelta only [kept_mk_iff] | simp +zetaDelta only [kept_mkBelfry_iff]

theorem State.sendAck_kept {s0 s : State} (h : s0.Kept s) (m : Merge) (c : Nat) : s0.Kept (State.sendAck s m c)
    := by
  unfold State.sendAck
  with_reducible repeat' first
    | intro _ | assumption | apply ite_of | apply foldl_of | apply foldl_snd_of | apply foldl_fst_of
    | extract_lets | split | simp only [kept_mk_iff] | simp only [kept_mkBelfry_iff]
    | simp +zetaDelta only [kept_mk_iff] | simp +zetaDelta only [kept_mkBelfry_iff]

theorem State.ackStep_kept {s0 s : State} (h : s0.Kept s) (c : Nat) : s0.Kept (State.ackStep s c) := by
  unfold State.ackStep
  with_reducible repeat' first
    | intro _ | assumption | apply joinAck_kept | apply sendAck_kept | apply ite_of | apply foldl_of
    | apply foldl_snd_of | apply foldl_fst_of | extract_lets | split | simp only [kept_mk_iff]
    | simp only [kept_mkBelfry_iff] | simp +zetaDelta only [kept_mk_iff]
    | simp +zetaDelta only [kept_mkBelfry_iff]

theorem State.meshStep_kept {s0 s : State} (h : s0.Kept s)  : s0.Kept (State.meshStep s) := by
  unfold State.meshStep
  with_reducible repeat' first
    | intro _ | assumption | apply linkStep_kept | apply ackStep_kept | apply ite_of | apply foldl_of
    | apply foldl_snd_of | apply foldl_fst_of | extract_lets | split | simp only [kept_mk_iff]
    | simp only [kept_mkBelfry_iff] | simp +zetaDelta only [kept_mk_iff]
    | simp +zetaDelta only [kept_mkBelfry_iff]

theorem State.meshCatch_kept {s0 s : State} (h : s0.Kept s) (k : Nat) : s0.Kept (State.meshCatch s k) := by
  induction k generalizing s with
  | zero => unfold State.meshCatch; exact h
  | succ k ih =>
    unfold State.meshCatch
    with_reducible repeat' first
      | intro _ | assumption | apply meshStep_kept | apply ih | apply ite_of | apply foldl_of | apply foldl_snd_of
      | apply foldl_fst_of | extract_lets | split | simp only [kept_mk_iff] | simp only [kept_mkBelfry_iff]
      | simp +zetaDelta only [kept_mk_iff] | simp +zetaDelta only [kept_mkBelfry_iff]

theorem State.meshNow_kept {s0 s : State} (h : s0.Kept s)  : s0.Kept (State.meshNow s) := by
  unfold State.meshNow
  with_reducible repeat' first
    | intro _ | assumption | apply meshCatch_kept | apply ite_of | apply foldl_of | apply foldl_snd_of
    | apply foldl_fst_of | extract_lets | split | simp only [kept_mk_iff] | simp only [kept_mkBelfry_iff]
    | simp +zetaDelta only [kept_mk_iff] | simp +zetaDelta only [kept_mkBelfry_iff]

theorem State.meshRun_kept {s0 s : State} (h : s0.Kept s) (stop : Net → Option Nat) (k : Nat) {r : Nat × State}
    (e : s.meshRun stop k = some r) : s0.Kept r.2 := by
  induction k generalizing s with
  | zero => cases e
  | succ k ih =>
    unfold State.meshRun at e
    split at e
    · cases e; exact h
    · split at e
      · cases e
      · exact ih (State.meshStep_kept h) e

theorem State.meshEvent_some_kept {s0 s t : State} {stop : Net → Option Nat} (e : s.meshEvent stop = some t)
    (h : s0.Kept s) : s0.Kept t := by
  obtain ⟨r, hr, rfl⟩ := Option.map_eq_some_iff.1 e
  exact State.reach_kept (State.meshRun_kept h _ _ hr) _

theorem State.meshEvent_kept {s0 s : State} (h : s0.Kept s) (stop : Net → Option Nat) :
    s0.Kept ((s.meshEvent stop).getD s) := by
  cases e : s.meshEvent stop with
  | none => exact h
  | some t => exact State.meshEvent_some_kept e h

theorem State.launch_kept {s0 s : State} (h : s0.Kept s) (src : Nat) (dsts : List Nat) (response : Bool)
    (cls flits burst : Nat) (last : Bool) (at' gap : Nat) : s0.Kept
    (State.launch s src dsts response cls flits burst last at' gap).2 := by
  unfold State.launch
  with_reducible repeat' first
    | intro _ | assumption | apply ite_of | apply foldl_of | apply foldl_snd_of | apply foldl_fst_of
    | extract_lets | split | simp only [kept_mk_iff] | simp only [kept_mkBelfry_iff]
    | simp +zetaDelta only [kept_mk_iff] | simp +zetaDelta only [kept_mkBelfry_iff]

theorem State.portProgress_kept {s0 s : State} (h : s0.Kept s) (c code : Nat) : s0.Kept
    (State.portProgress s c code) := by
  unfold State.portProgress
  with_reducible repeat' first
    | intro _ | assumption | apply count_kept | apply ite_of | split

theorem State.lateResponse_kept {s0 s : State} (h : s0.Kept s)  : s0.Kept (State.lateResponse s) := by
  unfold State.lateResponse
  with_reducible repeat' first
    | intro _ | assumption | apply count_kept | apply ite_of | split

theorem State.deliver_kept {s0 s : State} (h : s0.Kept s) (r : Resp) : s0.Kept (State.deliver s r) := by
  unfold State.deliver
  with_reducible repeat' first
    | intro _ | assumption | apply lateResponse_kept | apply modPort_kept | apply modSlot_kept
    | apply monitor_kept | apply wr_kept | apply fpFinish_kept | apply ite_of | extract_lets | split
    | simp only [kept_mk_iff]

theorem State.portAnswer_kept {s0 s : State} (h : s0.Kept s) (sl p : Nat) (r : Resp) : s0.Kept
    (State.portAnswer s sl p r) := by
  unfold State.portAnswer
  with_reducible repeat' first
    | intro _ | assumption | apply modPort_kept | apply monitor_kept | apply ite_of | split

theorem State.sendRsp_kept {s0 s : State} (h : s0.Kept s) (src dst sent flits burst : Nat) (last : Bool) (r : Resp)
    : s0.Kept (State.sendRsp s src dst sent flits burst last r) := by
  unfold State.sendRsp
  with_reducible repeat' first
    | intro _ | assumption | apply launch_kept | apply ite_of | extract_lets | split | simp only [kept_mk_iff]

theorem State.answer_kept {s0 s : State} (h : s0.Kept s) (sl : Nat) (q : Req) (code : Nat) (lines : List LineRsp)
    (clave : Option Word) (issue : Nat) : s0.Kept (State.answer s sl q code lines clave issue) := by
  unfold State.answer
  with_reducible repeat' first
    | intro _ | assumption | apply portAnswer_kept | apply sendRsp_kept | apply burst_kept | apply deliver_kept
    | apply ite_of | split

theorem State.sendPktAt_kept {s0 s : State} (h : s0.Kept s) (src : Nat) (q : Req) (at' gap : Nat) : s0.Kept
    (State.sendPktAt s src q at' gap) := by
  unfold State.sendPktAt
  with_reducible repeat' first
    | intro _ | assumption | apply launch_kept | apply burst_kept | apply ite_of | apply foldl_of
    | apply foldl_snd_of | apply foldl_fst_of | extract_lets | split | simp only [kept_mk_iff]
    | simp only [kept_mkBelfry_iff] | simp +zetaDelta only [kept_mk_iff]
    | simp +zetaDelta only [kept_mkBelfry_iff]

theorem State.launchOut_kept {s0 s : State} (h : s0.Kept s) (sl cls flits : Nat) : s0.Kept
    (State.launchOut s sl cls flits) := by
  unfold State.launchOut
  with_reducible repeat' first
    | intro _ | assumption | apply launch_kept | apply ite_of | apply foldl_of | apply foldl_snd_of
    | apply foldl_fst_of | extract_lets | split | simp only [kept_mk_iff] | simp only [kept_mkBelfry_iff]
    | simp +zetaDelta only [kept_mk_iff] | simp +zetaDelta only [kept_mkBelfry_iff]

theorem State.sendPkt_kept {s0 s : State} (h : s0.Kept s) (src : Nat) (q : Req) : s0.Kept (State.sendPkt s src q)
    := by
  unfold State.sendPkt
  with_reducible repeat' first
    | intro _ | assumption | apply sendPktAt_kept | apply ite_of | extract_lets | split | simp only [kept_mk_iff]

theorem State.sendParts_kept {s0 s : State} (h : s0.Kept s) (rs : List Req) : s0.Kept (State.sendParts s rs) := by
  unfold State.sendParts
  with_reducible repeat' first
    | intro _ | assumption | apply sendPktAt_kept | apply ite_of | apply foldl_of | apply foldl_snd_of
    | apply foldl_fst_of | extract_lets | split | simp only [kept_mk_iff] | simp only [kept_mkBelfry_iff]
    | simp +zetaDelta only [kept_mk_iff] | simp +zetaDelta only [kept_mkBelfry_iff]

theorem State.setSlotState_kept {s0 s : State} (h : s0.Kept s) (sl j v : Nat) : s0.Kept
    (State.setSlotState s sl j v) := by
  unfold State.setSlotState
  with_reducible repeat' first
    | intro _ | assumption | apply putF_kept | apply raiseIrq_kept | apply putB_kept | apply ite_of | split

theorem State.setDone_kept {s0 s : State} (h : s0.Kept s) (sl j : Nat) : s0.Kept (State.setDone s sl j) := by
  unfold State.setDone
  with_reducible repeat' first
    | intro _ | assumption | apply putB_kept | apply raiseIrq_kept | apply ite_of | split

theorem State.putMirror_kept {s0 s : State} (hs : s0.Kept s) (sl h w : Nat) (v : Word) : s0.Kept
    (State.putMirror s sl h w v) := by
  unfold State.putMirror
  with_reducible repeat' first
    | intro _ | assumption | apply moveGolden_kept | apply ite_of | extract_lets | split | simp only [kept_mk_iff]

theorem State.handleEffect_kept {s0 s : State} (hs : s0.Kept s) (h : Nat) : s0.Kept (State.handleEffect s h) := by
  unfold State.handleEffect
  with_reducible repeat' first
    | intro _ | assumption | apply each_kept | apply putMirror_kept | apply putB_kept | apply bindGuard_kept
    | apply ite_of | apply foldl_of | apply foldl_snd_of | apply foldl_fst_of | extract_lets | split
    | simp only [kept_mk_iff] | simp only [kept_mkBelfry_iff] | simp +zetaDelta only [kept_mk_iff]
    | simp +zetaDelta only [kept_mkBelfry_iff]

theorem State.effectReady_kept {s0 s : State} (h : s0.Kept s)  : s0.Kept (State.effectReady s) := by
  unfold State.effectReady
  with_reducible repeat' first
    | intro _ | assumption | apply handleEffect_kept | apply ite_of | apply foldl_of | apply foldl_snd_of
    | apply foldl_fst_of | extract_lets | split | simp only [kept_mk_iff] | simp only [kept_mkBelfry_iff]
    | simp +zetaDelta only [kept_mk_iff] | simp +zetaDelta only [kept_mkBelfry_iff]

theorem State.emptyVectors_kept {s0 s : State} (h : s0.Kept s) (sl c : Nat) (keep : List Nat) : s0.Kept
    (State.emptyVectors s sl c keep) := by
  unfold State.emptyVectors
  with_reducible repeat' first
    | intro _ | assumption | apply each_kept | apply emptyVec_kept | apply ite_of | split

theorem State.boundaryIn_kept {s0 s : State} (h : s0.Kept s) (sl c : Nat) : s0.Kept (State.boundaryIn s sl c) := by
  unfold State.boundaryIn
  with_reducible repeat' first
    | intro _ | assumption | apply each_kept | apply modSlot_kept | apply modSlice_kept | apply emptyVectors_kept
    | apply ite_of | split

theorem State.kernelBoundary_kept {s0 s : State} (h : s0.Kept s) (c : Nat) : s0.Kept (State.kernelBoundary s c)
    := by
  unfold State.kernelBoundary
  with_reducible repeat' first
    | intro _ | assumption | apply count_kept | apply ctxE0_kept | apply each_kept | apply boundaryIn_kept
    | apply effectReady_kept | apply ite_of | extract_lets | split | simp only [kept_mk_iff]

theorem State.setSlicePower_kept {s0 s : State} (h : s0.Kept s) (sl v : Nat) : s0.Kept (State.setSlicePower s sl v)
    := by
  unfold State.setSlicePower
  with_reducible repeat' first
    | intro _ | assumption | apply putF_kept | apply ite_of | split

theorem State.setPower_kept {s0 s : State} (h : s0.Kept s) (t : PowerTarget) (v : Nat) : s0.Kept
    (State.setPower s t v) := by
  unfold State.setPower
  with_reducible repeat' first
    | intro _ | assumption | apply setSlicePower_kept | apply putF_kept | apply ite_of | split

theorem State.beginWake_kept {s0 s : State} (h : s0.Kept s) (t : PowerTarget) (cause : Nat) : s0.Kept
    (State.beginWake s t cause) := by
  unfold State.beginWake
  with_reducible repeat' first
    | intro _ | assumption | apply setPower_kept | apply putF_kept | apply ite_of | apply foldl_of
    | apply foldl_snd_of | apply foldl_fst_of | extract_lets | split | simp only [kept_mk_iff]
    | simp only [kept_mkBelfry_iff] | simp +zetaDelta only [kept_mk_iff]
    | simp +zetaDelta only [kept_mkBelfry_iff]

theorem State.wake_kept {s0 s : State} (h : s0.Kept s) (t : PowerTarget) (cause : Nat) : s0.Kept
    (State.wake s t cause) := by
  unfold State.wake
  with_reducible repeat' first
    | intro _ | assumption | apply beginWake_kept | apply ite_of | extract_lets | split | simp only [kept_mk_iff]

theorem State.wakeFor_kept {s0 s : State} (h : s0.Kept s) (sl cause : Nat) : s0.Kept (State.wakeFor s sl cause)
    := by
  unfold State.wakeFor
  with_reducible repeat' first
    | intro _ | assumption | apply wake_kept | apply ite_of | split

theorem State.wakeAll_kept {s0 s : State} (h : s0.Kept s) (cause : Nat) : s0.Kept (State.wakeAll s cause) := by
  unfold State.wakeAll
  with_reducible repeat' first
    | intro _ | assumption | apply wake_kept | apply each_kept | apply ite_of | split

theorem State.keepForce_kept {s0 s : State} (h : s0.Kept s) (a : Nat) (m : RegMasks) (old new : Word) : s0.Kept
    (State.keepForce s a m old new) := by
  unfold State.keepForce
  with_reducible repeat' first
    | intro _ | assumption | apply ite_of | extract_lets | split | simp only [kept_mk_iff]

theorem State.storeReg_kept {s0 s : State} (h : s0.Kept s) (a : Nat) (v : Word) (idle : Bool) (ctx : Nat) : s0.Kept
    (State.storeReg s a v idle ctx) := by
  unfold State.storeReg
  with_reducible repeat' first
    | intro _ | assumption | apply keepForce_kept | apply refuseCfg_kept | apply wrCfg_kept | apply ite_of | split

theorem State.refuseWrite_kept {s0 s : State} (h : s0.Kept s) (a : Nat) (v : Word) (ctx : Nat) : s0.Kept
    (State.refuseWrite s a v ctx) := by
  unfold State.refuseWrite
  with_reducible repeat' first
    | intro _ | assumption | apply refuseCfg_kept | apply ite_of | apply foldl_of | apply foldl_snd_of
    | apply foldl_fst_of | extract_lets | split | simp only [kept_mk_iff] | simp only [kept_mkBelfry_iff]
    | simp +zetaDelta only [kept_mk_iff] | simp +zetaDelta only [kept_mkBelfry_iff]

theorem State.csrAccess_kept {s0 s : State} (h : s0.Kept s) (a ctx : Nat) (f : State → State) (hf : ∀ t : State,
    s0.Kept t → s0.Kept (f t)) : s0.Kept (State.csrAccess s a ctx f) := by
  unfold State.csrAccess
  with_reducible repeat' first
    | intro _ | assumption | apply wake_kept | apply ite_of | apply foldl_of | apply foldl_snd_of
    | apply foldl_fst_of | extract_lets | split | simp only [kept_mk_iff] | simp only [kept_mkBelfry_iff]
    | simp +zetaDelta only [kept_mk_iff] | simp +zetaDelta only [kept_mkBelfry_iff] | apply hf

end Sys2Proof.Machine
end

