-- ==== Sys2Proof/Laws/KeptUnits.lean ====
section
/-! SUPPORT. Every operation keeps what no command changes. -/

set_option linter.unusedSimpArgs false

namespace Sys2Proof.Machine

open State

theorem State.setPc_kept {s0 s : State} (h : s0.Kept s) (sl j v : Nat) : s0.Kept (State.setPc s sl j v) := by
  unfold State.setPc
  with_reducible repeat' first
    | intro _ | assumption | apply putF_kept | apply ite_of | split

theorem State.nextPc_kept {s0 s : State} (h : s0.Kept s) (sl j : Nat) : s0.Kept (State.nextPc s sl j) := by
  unfold State.nextPc
  with_reducible repeat' first
    | intro _ | assumption | apply setPc_kept | apply ite_of | split

theorem State.satisfied_kept {s0 s : State} (h : s0.Kept s) (sl j : Nat) : s0.Kept (State.satisfied s sl j) := by
  unfold State.satisfied
  with_reducible repeat' first
    | intro _ | assumption | apply modSlot_kept | apply nextPc_kept | apply ite_of | split

theorem State.leadAgain_kept {s0 s : State} (h : s0.Kept s) (sl j : Nat) : s0.Kept (State.leadAgain s sl j) := by
  unfold State.leadAgain
  with_reducible repeat' first
    | intro _ | assumption | apply modSlice_kept | apply ite_of | apply foldl_of | apply foldl_snd_of
    | apply foldl_fst_of | extract_lets | split | simp only [kept_mk_iff] | simp only [kept_mkBelfry_iff]
    | simp +zetaDelta only [kept_mk_iff] | simp +zetaDelta only [kept_mkBelfry_iff]

theorem State.beatHeld_kept {s0 s : State} (h : s0.Kept s) (sl j : Nat) : s0.Kept (State.beatHeld s sl j) := by
  unfold State.beatHeld
  with_reducible repeat' first
    | intro _ | assumption | apply satisfied_kept | apply leadAgain_kept | apply ite_of | split

theorem State.waitTakes_kept {s0 s : State} (h : s0.Kept s) (sl j pair : Nat) (room : Bool) : s0.Kept
    (State.waitTakes s sl j pair room) := by
  unfold State.waitTakes
  with_reducible repeat' first
    | intro _ | assumption | apply claveTake_kept | apply satisfied_kept | apply leadAgain_kept | apply ite_of
    | apply foldl_of | apply foldl_snd_of | apply foldl_fst_of | extract_lets | split | simp only [kept_mk_iff]
    | simp only [kept_mkBelfry_iff] | simp +zetaDelta only [kept_mk_iff]
    | simp +zetaDelta only [kept_mkBelfry_iff]

theorem State.startNow_kept {s0 s : State} (h : s0.Kept s) (sl j : Nat) : s0.Kept (State.startNow s sl j) := by
  unfold State.startNow
  with_reducible repeat' first
    | intro _ | assumption | apply claveTake_kept | apply putF_kept | apply setSlotState_kept | apply modSlot_kept
    | apply ite_of | apply foldl_of | apply foldl_snd_of | apply foldl_fst_of | extract_lets | split
    | simp only [kept_mk_iff] | simp only [kept_mkBelfry_iff] | simp +zetaDelta only [kept_mk_iff]
    | simp +zetaDelta only [kept_mkBelfry_iff]

theorem State.claveStarts_kept {s0 s : State} (h : s0.Kept s) (sl j pair : Nat) : s0.Kept
    (State.claveStarts s sl j pair) := by
  unfold State.claveStarts
  with_reducible repeat' first
    | intro _ | assumption | apply startNow_kept | apply ite_of | apply foldl_of | apply foldl_snd_of
    | apply foldl_fst_of | extract_lets | split | simp only [kept_mk_iff] | simp only [kept_mkBelfry_iff]
    | simp +zetaDelta only [kept_mk_iff] | simp +zetaDelta only [kept_mkBelfry_iff]

theorem State.waitsTake_kept {s0 s : State} (h : s0.Kept s) (sl pair : Nat) (room : Bool) (slots : Nat) : s0.Kept
    (State.waitsTake s sl pair room slots) := by
  unfold State.waitsTake
  with_reducible repeat' first
    | intro _ | assumption | apply claveTime_kept | apply waitTakes_kept | apply each_kept | apply ite_of
    | apply foldl_of | apply foldl_snd_of | apply foldl_fst_of | extract_lets | split | simp only [kept_mk_iff]
    | simp only [kept_mkBelfry_iff] | simp +zetaDelta only [kept_mk_iff]
    | simp +zetaDelta only [kept_mkBelfry_iff]

theorem State.blockingTakes_kept {s0 s : State} (h : s0.Kept s) (sl pair : Nat) (room : Bool) : s0.Kept
    (State.blockingTakes s sl pair room) := by
  unfold State.blockingTakes
  with_reducible repeat' first
    | intro _ | assumption | apply waitsTake_kept | apply each_kept | apply claveStarts_kept | apply ite_of
    | apply foldl_of | apply foldl_snd_of | apply foldl_fst_of | extract_lets | split | simp only [kept_mk_iff]
    | simp only [kept_mkBelfry_iff] | simp +zetaDelta only [kept_mk_iff]
    | simp +zetaDelta only [kept_mkBelfry_iff]

theorem State.performClave_kept {s0 s : State} (h : s0.Kept s) (sl ctx : Nat) (o : ClaveOp) : s0.Kept
    (State.performClave s sl ctx o).2.2 := by
  unfold State.performClave
  with_reducible repeat' first
    | intro _ | assumption | apply claveSignal_kept | apply blockingTakes_kept | apply claveTake_kept
    | apply ite_of | split

theorem State.beginPeal_kept {s0 s : State} (h : s0.Kept s) (mem : Bool) (off : Nat) (data : Line) (ben : ByteEn)
    (ctx cls : Nat) (tag mirror : Option Nat) : s0.Kept (State.beginPeal s mem off data ben ctx cls tag mirror)
    := by
  unfold State.beginPeal
  with_reducible repeat' first
    | intro _ | assumption | apply launch_kept | apply ite_of | extract_lets | split | simp only [kept_mk_iff]

theorem State.setStage_kept {s0 s : State} (h : s0.Kept s) (ctx : Nat) (g : Stage) : s0.Kept
    (State.setStage s ctx g) := by
  unfold State.setStage
  with_reducible repeat' first
    | intro _ | assumption | apply ite_of | extract_lets | split | simp only [kept_mk_iff]

theorem State.asSystem_kept {s0 s : State} (h : s0.Kept s) (ctx : Nat) (f : State → State) (hf : ∀ t : State,
    s0.Kept t → s0.Kept (f t)) : s0.Kept (State.asSystem s ctx f) := by
  unfold State.asSystem
  with_reducible repeat' first
    | intro _ | assumption | apply ite_of | apply foldl_of | apply foldl_snd_of | apply foldl_fst_of
    | extract_lets | split | simp only [kept_mk_iff] | simp only [kept_mkBelfry_iff]
    | simp +zetaDelta only [kept_mk_iff] | simp +zetaDelta only [kept_mkBelfry_iff] | apply hf

theorem State.storeStage_kept {s0 s : State} (hs : s0.Kept s) (h w : Nat) (v : Word) (ctx : Nat) : s0.Kept
    (State.storeStage s h w v ctx) := by
  unfold State.storeStage
  with_reducible repeat' first
    | intro _ | assumption | apply setStage_kept | apply ite_of | split

theorem State.htabStage_kept {s0 s : State} (hs : s0.Kept s) (h w : Nat) (v : Word) (ctx : Nat) : s0.Kept
    (State.htabStage s h w v ctx) := by
  unfold State.htabStage
  with_reducible repeat' first
    | intro _ | assumption | apply csrAccess_kept | apply storeStage_kept | apply ite_of | split

theorem State.feedMirror_kept {s0 s : State} (h : s0.Kept s)  : s0.Kept (State.feedMirror s) := by
  unfold State.feedMirror
  with_reducible repeat' first
    | intro _ | assumption | apply beginPeal_kept | apply ite_of | apply foldl_of | apply foldl_snd_of
    | apply foldl_fst_of | extract_lets | split | simp only [kept_mk_iff] | simp only [kept_mkBelfry_iff]
    | simp +zetaDelta only [kept_mk_iff] | simp +zetaDelta only [kept_mkBelfry_iff]

theorem State.storeCommit_kept {s0 s : State} (hs : s0.Kept s) (h : Nat) (ws : List Word) (ctx : Nat) : s0.Kept
    (State.storeCommit s h ws ctx) := by
  unfold State.storeCommit
  with_reducible repeat' first
    | intro _ | assumption | apply wrCfg_kept | apply putB_kept | apply feedMirror_kept | apply ite_of
    | apply foldl_of | apply foldl_snd_of | apply foldl_fst_of | extract_lets | split | simp only [kept_mk_iff]
    | simp only [kept_mkBelfry_iff] | simp +zetaDelta only [kept_mk_iff]
    | simp +zetaDelta only [kept_mkBelfry_iff]

theorem State.acceptEntry_kept {r0 s : State} (hs : r0.Kept s) (s0 : State) (h : Nat) (v : Word) (ctx : Nat)
    : r0.Kept (State.acceptEntry s s0 h v ctx) := by
  unfold State.acceptEntry
  with_reducible repeat' first
    | intro _ | assumption | apply setStage_kept | apply storeCommit_kept | apply refuseCfg_kept | apply ite_of
    | split

theorem State.htabCommit_kept {s0 s : State} (hs : s0.Kept s) (h : Nat) (v : Word) (ctx : Nat) : s0.Kept
    (State.htabCommit s h v ctx) := by
  unfold State.htabCommit
  with_reducible repeat' first
    | intro _ | assumption | apply csrAccess_kept | apply acceptEntry_kept | apply ite_of | split

theorem State.takeEffect_kept {s0 s : State} (hs : s0.Kept s) (h : Nat) : s0.Kept (State.takeEffect s h) := by
  unfold State.takeEffect
  with_reducible repeat' first
    | intro _ | assumption | apply reach_kept | apply handleEffect_kept | apply ite_of | split

theorem State.ctxPauses_kept {s0 s : State} (h : s0.Kept s) (c : Nat) : s0.Kept (State.ctxPauses s c) := by
  unfold State.ctxPauses
  with_reducible repeat' first
    | intro _ | assumption | apply each_kept | apply setSlotState_kept | apply ite_of | apply foldl_of
    | apply foldl_snd_of | apply foldl_fst_of | extract_lets | split | simp only [kept_mk_iff]
    | simp only [kept_mkBelfry_iff] | simp +zetaDelta only [kept_mk_iff]
    | simp +zetaDelta only [kept_mkBelfry_iff]

theorem State.ctxContinues_kept {s0 s : State} (h : s0.Kept s) (c : Nat) : s0.Kept (State.ctxContinues s c) := by
  unfold State.ctxContinues
  with_reducible repeat' first
    | intro _ | assumption | apply each_kept | apply setSlotState_kept | apply beatHeld_kept | apply ite_of
    | apply foldl_of | apply foldl_snd_of | apply foldl_fst_of | extract_lets | split | simp only [kept_mk_iff]
    | simp only [kept_mkBelfry_iff] | simp +zetaDelta only [kept_mk_iff]
    | simp +zetaDelta only [kept_mkBelfry_iff]

theorem State.storeCtx_kept {r0 s : State} (h : r0.Kept s) (s0 : State) (c : Nat) (v : Word) (ctx : Nat) : r0.Kept
    (State.storeCtx s s0 c v ctx) := by
  unfold State.storeCtx
  with_reducible repeat' first
    | intro _ | assumption | apply ctxE0_kept | apply storeReg_kept | apply refuseCfg_kept
    | apply kernelBoundary_kept | apply ctxPauses_kept | apply ctxContinues_kept | apply ite_of | split

theorem State.ctxE0_kept {s0 s : State} (h : s0.Kept s) (c : Nat) (v : Word) (ctx : Nat) : s0.Kept
    (State.ctxE0 s c v ctx) := by
  unfold State.ctxE0
  with_reducible repeat' first
    | intro _ | assumption | apply csrAccess_kept | apply storeCtx_kept | apply ite_of | split

theorem State.storeKnext_kept {s0 s : State} (h : s0.Kept s) (c : Nat) (v : Word) : s0.Kept (State.storeKnext s c v)
    := by
  unfold State.storeKnext
  with_reducible repeat' first
    | intro _ | assumption | apply kernelBoundary_kept | apply ite_of | split

theorem State.ctxKnext_kept {s0 s : State} (h : s0.Kept s) (c : Nat) (v : Word) (ctx : Nat) : s0.Kept
    (State.ctxKnext s c v ctx) := by
  unfold State.ctxKnext
  with_reducible repeat' first
    | intro _ | assumption | apply csrAccess_kept | apply storeKnext_kept | apply ite_of | split

theorem State.stepAdvance_kept {s0 s : State} (hs : s0.Kept s) (sl h : Nat) (write : Bool) (offs : List Nat) :
    s0.Kept (State.stepAdvance s sl h write offs) := by
  unfold State.stepAdvance
  with_reducible repeat' first
    | intro _ | assumption | apply guardAdvance_kept | apply ite_of | apply foldl_of | apply foldl_snd_of
    | apply foldl_fst_of | extract_lets | split | simp only [kept_mk_iff] | simp only [kept_mkBelfry_iff]
    | simp +zetaDelta only [kept_mk_iff] | simp +zetaDelta only [kept_mkBelfry_iff]

theorem State.clearGroup_kept {s0 s : State} (h : s0.Kept s) (sl j no c : Nat) (g : WipeGroup) : s0.Kept
    (State.clearGroup s sl j no c g) := by
  unfold State.clearGroup
  with_reducible repeat' first
    | intro _ | assumption | apply wipeLine_kept | apply stepAdvance_kept | apply modSlice_kept
    | apply modSlot_kept | apply ite_of | apply foldl_of | apply foldl_snd_of | apply foldl_fst_of | extract_lets
    | split | simp only [kept_mk_iff] | simp only [kept_mkBelfry_iff] | simp +zetaDelta only [kept_mk_iff]
    | simp +zetaDelta only [kept_mkBelfry_iff]

theorem State.wipeGroups_kept {s0 s : State} (h : s0.Kept s) (sl j no : Nat) (l : List WipeGroup) : s0.Kept
    (State.wipeGroups s sl j no l) := by
  unfold State.wipeGroups
  with_reducible repeat' first
    | intro _ | assumption | apply modSlice_kept | apply clearGroup_kept | apply ite_of | apply foldl_of
    | apply foldl_snd_of | apply foldl_fst_of | extract_lets | split | simp only [kept_mk_iff]
    | simp only [kept_mkBelfry_iff] | simp +zetaDelta only [kept_mk_iff]
    | simp +zetaDelta only [kept_mkBelfry_iff]

theorem State.wipeNow_kept {s0 s : State} (h : s0.Kept s) (sl : Nat) : s0.Kept (State.wipeNow s sl) := by
  unfold State.wipeNow
  with_reducible repeat' first
    | intro _ | assumption | apply each_kept | apply wipeGroups_kept | apply ite_of | apply foldl_of
    | apply foldl_snd_of | apply foldl_fst_of | extract_lets | split | simp only [kept_mk_iff]
    | simp only [kept_mkBelfry_iff] | simp +zetaDelta only [kept_mk_iff]
    | simp +zetaDelta only [kept_mkBelfry_iff]

theorem State.popPort_kept {s0 s : State} (h : s0.Kept s) (sl p : Nat) : s0.Kept (State.popPort s sl p) := by
  unfold State.popPort
  with_reducible repeat' first
    | intro _ | assumption | apply modPort_kept | apply ite_of | split

theorem State.consumeSlot_kept {s0 s : State} (h : s0.Kept s) (sl bset o c : Nat) : s0.Kept
    (State.consumeSlot s sl bset o c) := by
  unfold State.consumeSlot
  with_reducible repeat' first
    | intro _ | assumption | apply modSlice_kept | apply ite_of | apply foldl_of | apply foldl_snd_of
    | apply foldl_fst_of | extract_lets | split | simp only [kept_mk_iff] | simp only [kept_mkBelfry_iff]
    | simp +zetaDelta only [kept_mk_iff] | simp +zetaDelta only [kept_mkBelfry_iff]

theorem State.refuseAt_kept {s0 s : State} (h : s0.Kept s) (sl : Nat) (r : Req) (code c : Nat) : s0.Kept
    (State.refuseAt s sl r code c) := by
  unfold State.refuseAt
  with_reducible repeat' first
    | intro _ | assumption | apply consumeSlot_kept | apply answer_kept | apply ite_of | apply foldl_of
    | apply foldl_snd_of | apply foldl_fst_of | extract_lets | split | simp only [kept_mk_iff]
    | simp only [kept_mkBelfry_iff] | simp +zetaDelta only [kept_mk_iff]
    | simp +zetaDelta only [kept_mkBelfry_iff]

theorem State.portSettle_kept {s0 s : State} (h : s0.Kept s) (sl p t0 lim k : Nat) : s0.Kept
    (State.portSettle s sl p t0 lim k) := by
  induction k generalizing s with
  | zero => unfold State.portSettle; exact h
  | succ k ih =>
    unfold State.portSettle
    with_reducible repeat' first
      | intro _ | assumption | apply popPort_kept | apply answer_kept | apply refuseAt_kept
      | apply performClave_kept | apply modPort_kept | apply ih | apply ite_of | split

theorem State.settlePort_kept {s0 s : State} (h : s0.Kept s) (sl p t0 : Nat) : s0.Kept (State.settlePort s sl p t0)
    := by
  unfold State.settlePort
  with_reducible repeat' first
    | intro _ | assumption | apply portSettle_kept | apply ite_of | split

theorem State.settlePast_kept {s0 s : State} (h : s0.Kept s) (sl p : Nat) : s0.Kept (State.settlePast s sl p) := by
  unfold State.settlePast
  with_reducible repeat' first
    | intro _ | assumption | apply portSettle_kept | apply ite_of | apply foldl_of | apply foldl_snd_of
    | apply foldl_fst_of | extract_lets | split | simp only [kept_mk_iff] | simp only [kept_mkBelfry_iff]
    | simp +zetaDelta only [kept_mk_iff] | simp +zetaDelta only [kept_mkBelfry_iff]

theorem State.settleSlice_kept {s0 s : State} (h : s0.Kept s) (sl t0 : Nat) : s0.Kept (State.settleSlice s sl t0)
    := by
  unfold State.settleSlice
  with_reducible repeat' first
    | intro _ | assumption | apply each_kept | apply settlePort_kept | apply ite_of | split

theorem State.settleBefore_kept {s0 s : State} (h : s0.Kept s) (sl : Nat) : s0.Kept (State.settleBefore s sl) := by
  unfold State.settleBefore
  with_reducible repeat' first
    | intro _ | assumption | apply each_kept | apply settlePast_kept | apply ite_of | apply foldl_of
    | apply foldl_snd_of | apply foldl_fst_of | extract_lets | split | simp only [kept_mk_iff]
    | simp only [kept_mkBelfry_iff] | simp +zetaDelta only [kept_mk_iff]
    | simp +zetaDelta only [kept_mkBelfry_iff]

theorem State.settleHome_kept {s0 s : State} (h : s0.Kept s) (sl : Nat) : s0.Kept (State.settleHome s sl) := by
  unfold State.settleHome
  with_reducible repeat' first
    | intro _ | assumption | apply modSlice_kept | apply refuseAt_kept | apply ite_of | apply foldl_of
    | apply foldl_snd_of | apply foldl_fst_of | extract_lets | split | simp only [kept_mk_iff]
    | simp only [kept_mkBelfry_iff] | simp +zetaDelta only [kept_mk_iff]
    | simp +zetaDelta only [kept_mkBelfry_iff]

theorem State.settleAll_kept {s0 s : State} (h : s0.Kept s) (sl : Nat) : s0.Kept (State.settleAll s sl) := by
  unfold State.settleAll
  with_reducible repeat' first
    | intro _ | assumption | apply settleSlice_kept | apply settleHome_kept | apply ite_of | split

theorem State.fencing_kept {s0 s : State} (h : s0.Kept s) (sl : Nat) (f : State → State) (hf : ∀ t : State,
    s0.Kept t → s0.Kept (f t)) : s0.Kept (State.fencing s sl f) := by
  unfold State.fencing
  with_reducible repeat' first
    | intro _ | assumption | apply wipeNow_kept | apply settleBefore_kept | apply settleAll_kept | apply ite_of
    | apply foldl_of | apply foldl_snd_of | apply foldl_fst_of | extract_lets | split | simp only [kept_mk_iff]
    | simp only [kept_mkBelfry_iff] | simp +zetaDelta only [kept_mk_iff]
    | simp +zetaDelta only [kept_mkBelfry_iff] | apply hf

theorem State.fencingPort_kept {s0 s : State} (h : s0.Kept s) (sl p : Nat) (f : State → State) (hf : ∀ t : State,
    s0.Kept t → s0.Kept (f t)) : s0.Kept (State.fencingPort s sl p f) := by
  unfold State.fencingPort
  with_reducible repeat' first
    | intro _ | assumption | apply settlePast_kept | apply settlePort_kept | apply ite_of | apply foldl_of
    | apply foldl_snd_of | apply foldl_fst_of | extract_lets | split | simp only [kept_mk_iff]
    | simp only [kept_mkBelfry_iff] | simp +zetaDelta only [kept_mk_iff]
    | simp +zetaDelta only [kept_mkBelfry_iff] | apply hf

theorem State.accept_kept {s0 s : State} (h : s0.Kept s) (sl p d b : Nat) (mk : Nat → Req) : s0.Kept
    (State.accept s sl p d b mk) := by
  unfold State.accept
  with_reducible repeat' first
    | intro _ | assumption | apply wakeFor_kept | apply reach_kept | apply modPort_kept | apply settlePort_kept
    | apply ite_of | split

theorem State.portClave_kept {s0 s : State} (h : s0.Kept s) (r : ClaveReq) (kind : Nat) : s0.Kept
    (State.portClave s r kind) := by
  unfold State.portClave
  with_reducible repeat' first
    | intro _ | assumption | apply accept_kept | apply ite_of | split

theorem State.settleFirst_kept {s0 s : State} (h : s0.Kept s) (sl p : Nat) : s0.Kept (State.settleFirst s sl p)
    := by
  unfold State.settleFirst
  with_reducible repeat' first
    | intro _ | assumption | apply reach_kept | apply settlePort_kept | apply ite_of | split

theorem State.presentLocal_kept {s0 s : State} (h : s0.Kept s) (sl p : Nat) : s0.Kept (State.presentLocal s sl p)
    := by
  unfold State.presentLocal
  with_reducible repeat' first
    | intro _ | assumption | apply settleFirst_kept | apply reach_kept | apply modPort_kept
    | apply portProgress_kept | apply ite_of | extract_lets | split | simp only [kept_mk_iff]

theorem State.presentRemote_kept {s0 s : State} (h : s0.Kept s) (sl p : Nat) : s0.Kept (State.presentRemote s sl p)
    := by
  unfold State.presentRemote
  with_reducible repeat' first
    | intro _ | assumption | apply settlePort_kept | apply reach_kept | apply modPort_kept
    | apply portProgress_kept | apply ite_of | apply foldl_of | apply foldl_snd_of | apply foldl_fst_of
    | extract_lets | split | simp only [kept_mk_iff] | simp only [kept_mkBelfry_iff]
    | simp +zetaDelta only [kept_mk_iff] | simp +zetaDelta only [kept_mkBelfry_iff]

theorem State.fenceInRaise_kept {s0 s : State} (h : s0.Kept s) (sl p : Nat) : s0.Kept (State.fenceInRaise s sl p)
    := by
  unfold State.fenceInRaise
  with_reducible repeat' first
    | intro _ | assumption | apply reach_kept | apply modPort_kept | apply fencingPort_kept | apply ite_of | split

theorem State.fenceInLower_kept {s0 s : State} (h : s0.Kept s) (sl p : Nat) : s0.Kept (State.fenceInLower s sl p)
    := by
  unfold State.fenceInLower
  with_reducible repeat' first
    | intro _ | assumption | apply reach_kept | apply modPort_kept | apply fencingPort_kept | apply ite_of | split

theorem State.storePfence_kept {s0 s : State} (h : s0.Kept s) (sl : Nat) (v : Word) (ctx : Nat) : s0.Kept
    (State.storePfence s sl v ctx) := by
  unfold State.storePfence
  with_reducible repeat' first
    | intro _ | assumption | apply fencing_kept | apply storeReg_kept | apply rhyPfence_kept | apply ite_of
    | split

theorem State.rhyPfence_kept {s0 s : State} (h : s0.Kept s) (sl : Nat) (v : Word) (ctx : Nat) : s0.Kept
    (State.rhyPfence s sl v ctx) := by
  unfold State.rhyPfence
  with_reducible repeat' first
    | intro _ | assumption | apply csrAccess_kept | apply storePfence_kept | apply ite_of | split

theorem State.idPulse_kept {s0 s : State} (h : s0.Kept s) (sl p e : Nat) : s0.Kept (State.idPulse s sl p e) := by
  unfold State.idPulse
  with_reducible repeat' first
    | intro _ | assumption | apply modPort_kept | apply ite_of | apply foldl_of | apply foldl_snd_of
    | apply foldl_fst_of | extract_lets | split | simp only [kept_mk_iff] | simp only [kept_mkBelfry_iff]
    | simp +zetaDelta only [kept_mk_iff] | simp +zetaDelta only [kept_mkBelfry_iff]

theorem State.callPort_kept {s0 s : State} (h : s0.Kept s) (sl p : Nat) : s0.Kept (State.callPort s sl p) := by
  unfold State.callPort
  with_reducible repeat' first
    | intro _ | assumption | apply modPort_kept | apply portRc_kept | apply idPulse_kept | apply putB_kept
    | apply ite_of | split

theorem State.callSlice_kept {s0 s : State} (h : s0.Kept s) (sl : Nat) : s0.Kept (State.callSlice s sl) := by
  unfold State.callSlice
  with_reducible repeat' first
    | intro _ | assumption | apply each_kept | apply callPort_kept | apply ite_of | split

theorem State.storeRc_kept {s0 s : State} (h : s0.Kept s) (sl : Nat) (v : Word) : s0.Kept (State.storeRc s sl v)
    := by
  unfold State.storeRc
  with_reducible repeat' first
    | intro _ | assumption | apply portRc_kept | apply callSlice_kept | apply ite_of | split

theorem State.portRc_kept {s0 s : State} (h : s0.Kept s) (sl : Nat) (v : Word) (ctx : Nat) : s0.Kept
    (State.portRc s sl v ctx) := by
  unfold State.portRc
  with_reducible repeat' first
    | intro _ | assumption | apply csrAccess_kept | apply storeRc_kept | apply ite_of | split

theorem State.callEnds_kept {s0 s : State} (h : s0.Kept s) (sl p res : Nat) (valid : Bool) : s0.Kept
    (State.callEnds s sl p res valid) := by
  unfold State.callEnds
  with_reducible repeat' first
    | intro _ | assumption | apply settlePast_kept | apply putF_kept | apply putB_kept | apply portRc_kept
    | apply modPort_kept | apply settlePort_kept | apply ite_of | split

theorem State.idFrame_kept {s0 s : State} (h : s0.Kept s) (sl p : Nat) (id : BitVec 128) (check : BitVec 16) :
    s0.Kept (State.idFrame s sl p id check) := by
  unfold State.idFrame
  with_reducible repeat' first
    | intro _ | assumption | apply reach_kept | apply wr_kept | apply callEnds_kept | apply modPort_kept
    | apply ite_of | split

theorem State.idAbsent_kept {s0 s : State} (h : s0.Kept s) (sl p : Nat) : s0.Kept (State.idAbsent s sl p) := by
  unfold State.idAbsent
  with_reducible repeat' first
    | intro _ | assumption | apply reach_kept | apply callEnds_kept | apply ite_of | split

theorem State.idRetry_kept {s0 s : State} (h : s0.Kept s) (sl p : Nat) : s0.Kept (State.idRetry s sl p) := by
  unfold State.idRetry
  with_reducible repeat' first
    | intro _ | assumption | apply reach_kept | apply idPulse_kept | apply ite_of | split

theorem State.markBad_kept {s0 s : State} (h : s0.Kept s) (sl b l : Nat) : s0.Kept (State.markBad s sl b l) := by
  unfold State.markBad
  with_reducible repeat' first
    | intro _ | assumption | apply wr_kept | apply countSat_kept | apply ite_of | split

theorem State.badLine_kept {s0 s : State} (h : s0.Kept s) (sl b l : Nat) : s0.Kept (State.badLine s sl b l) := by
  unfold State.badLine
  with_reducible repeat' first
    | intro _ | assumption | apply markBad_kept | apply sliceRec_kept | apply ite_of | apply foldl_of
    | apply foldl_snd_of | apply foldl_fst_of | extract_lets | split | simp only [kept_mk_iff]
    | simp only [kept_mkBelfry_iff] | simp +zetaDelta only [kept_mk_iff]
    | simp +zetaDelta only [kept_mkBelfry_iff]

theorem State.queueRetire_kept {s0 s : State} (h : s0.Kept s) (sl b row : Nat) (lines : List Nat) : s0.Kept
    (State.queueRetire s sl b row lines) := by
  unfold State.queueRetire
  with_reducible repeat' first
    | intro _ | assumption | apply putB_kept | apply eccRetire_kept | apply badLine_kept | apply modSlice_kept
    | apply retire_kept | apply each_kept | apply putF_kept | apply ite_of | split

theorem State.drainWb_kept {s0 s : State} (h : s0.Kept s) (sl b : Nat) : s0.Kept (State.drainWb s sl b) := by
  unfold State.drainWb
  with_reducible repeat' first
    | intro _ | assumption | apply writeCoded_kept | apply ite_of | split

theorem State.moveRow_kept {s0 s : State} (h : s0.Kept s) (sl b mac row n : Nat) : s0.Kept
    (State.moveRow s sl b mac row n) := by
  unfold State.moveRow
  refine State.kept_mkMem h fun y => ?_
  refine Mem.foldl_canon _ _ (Mem.withMap_canon y _ ?_) fun m p hm => Mem.putWord80_canon hm _ _ _ _ _ _
  exact Mem.putRemap_canon (Mem.noCells_canon y) (remapKey sl b mac row) (n + 1)

theorem State.fenceRetire_kept {s0 s : State} (h : s0.Kept s) (sl b : Nat) : s0.Kept (State.fenceRetire s sl b)
    := by
  unfold State.fenceRetire
  with_reducible repeat' first
    | intro _ | assumption | apply freeDraw_kept | apply modBank_kept | apply ite_of | apply foldl_of
    | apply foldl_snd_of | apply foldl_fst_of | extract_lets | split | simp only [kept_mk_iff]
    | simp only [kept_mkBelfry_iff] | simp +zetaDelta only [kept_mk_iff]
    | simp +zetaDelta only [kept_mkBelfry_iff]

theorem State.retireRow_kept {s0 s : State} (h : s0.Kept s) (sl b mac row : Nat) : s0.Kept
    (State.retireRow s sl b mac row) := by
  unfold State.retireRow
  with_reducible repeat' first
    | intro _ | assumption | apply modSlice_kept | apply retire_kept | apply putF_kept | apply eccRetire_kept
    | apply fencing_kept | apply fenceRetire_kept | apply drainAll_kept | apply moveRow_kept
    | apply moveRepair_kept | apply sliceRec_kept | apply drainWb_kept | apply ite_of | apply foldl_of
    | apply foldl_snd_of | apply foldl_fst_of | extract_lets | split | simp only [kept_mk_iff]
    | simp only [kept_mkBelfry_iff] | simp +zetaDelta only [kept_mk_iff]
    | simp +zetaDelta only [kept_mkBelfry_iff]

theorem State.retireAll_kept {s0 s : State} (h : s0.Kept s) (sl : Nat) (l : List (Nat × Nat × Nat)) : s0.Kept
    (State.retireAll s sl l) := by
  unfold State.retireAll
  with_reducible repeat' first
    | intro _ | assumption | apply retireRow_kept | apply ite_of | apply foldl_of | apply foldl_snd_of
    | apply foldl_fst_of | extract_lets | split | simp only [kept_mk_iff] | simp only [kept_mkBelfry_iff]
    | simp +zetaDelta only [kept_mk_iff] | simp +zetaDelta only [kept_mkBelfry_iff]

theorem State.rowRetire_kept {s0 s : State} (h : s0.Kept s) (sl b : Nat) : s0.Kept (State.rowRetire s sl b) := by
  unfold State.rowRetire
  with_reducible repeat' first
    | intro _ | assumption | apply retireRow_kept | apply retire_kept | apply ite_of | split

theorem State.storeRetire_kept {s0 s : State} (h : s0.Kept s) (sl : Nat) (v : Word) (ctx : Nat) : s0.Kept
    (State.storeRetire s sl v ctx) := by
  unfold State.storeRetire
  with_reducible repeat' first
    | intro _ | assumption | apply storeReg_kept | apply eccRetire_kept | apply retireAll_kept | apply retire_kept
    | apply ite_of | split

theorem State.eccRetire_kept {s0 s : State} (h : s0.Kept s) (sl : Nat) (v : Word) (ctx : Nat) : s0.Kept
    (State.eccRetire s sl v ctx) := by
  unfold State.eccRetire
  with_reducible repeat' first
    | intro _ | assumption | apply csrAccess_kept | apply storeRetire_kept | apply ite_of | split

theorem State.historyNote_kept {s0 s : State} (h : s0.Kept s) (sl b row : Nat) : s0.Kept
    (State.historyNote s sl b row) := by
  unfold State.historyNote
  with_reducible repeat' first
    | intro _ | assumption | apply count_kept | apply setBank_kept | apply sliceRec_kept | apply queueRetire_kept
    | apply ite_of | split

theorem State.testRead_kept {s0 s : State} (h : s0.Kept s) (sl b row : Nat) : s0.Kept (State.testRead s sl b row)
    := by
  unfold State.testRead
  with_reducible repeat' first
    | intro _ | assumption | apply count_kept | apply noteWord_kept | apply sliceRec_kept | apply modBank_kept
    | apply ite_of | apply foldl_of | apply foldl_snd_of | apply foldl_fst_of | extract_lets | split
    | simp only [kept_mk_iff] | simp only [kept_mkBelfry_iff] | simp +zetaDelta only [kept_mk_iff]
    | simp +zetaDelta only [kept_mkBelfry_iff]

theorem State.passLasting_kept {s0 s : State} (h : s0.Kept s) (sl b row : Nat) (lasting : Bool) : s0.Kept
    (State.passLasting s sl b row lasting) := by
  unfold State.passLasting
  with_reducible repeat' first
    | intro _ | assumption | apply modSlice_kept | apply ite_of | split

theorem State.testFlip_kept {s0 s : State} (h : s0.Kept s) (sl b : Nat) (t : RowTest) : s0.Kept
    (State.testFlip s sl b t) := by
  unfold State.testFlip
  with_reducible repeat' first
    | intro _ | assumption | apply each_kept | apply putArrayWord_kept | apply modBank_kept | apply ite_of
    | apply foldl_of | apply foldl_snd_of | apply foldl_fst_of | extract_lets | split | simp only [kept_mk_iff]
    | simp only [kept_mkBelfry_iff] | simp +zetaDelta only [kept_mk_iff]
    | simp +zetaDelta only [kept_mkBelfry_iff]

theorem State.testClass_kept {s0 s : State} (h : s0.Kept s) (sl b : Nat) (t : RowTest) (seen : List Nat) : s0.Kept
    (State.testClass s sl b t seen) := by
  unfold State.testClass
  with_reducible repeat' first
    | intro _ | assumption | apply modBank_kept | apply count_kept | apply queueRetire_kept
    | apply historyNote_kept | apply sliceRec_kept | apply passLasting_kept | apply ite_of | apply foldl_of
    | apply foldl_snd_of | apply foldl_fst_of | extract_lets | split | simp only [kept_mk_iff]
    | simp only [kept_mkBelfry_iff] | simp +zetaDelta only [kept_mk_iff]
    | simp +zetaDelta only [kept_mkBelfry_iff]

theorem State.testWrite_kept {s0 s : State} (h : s0.Kept s) (sl b : Nat) (t : RowTest) : s0.Kept
    (State.testWrite s sl b t) := by
  unfold State.testWrite
  with_reducible repeat' first
    | intro _ | assumption | apply modBank_kept | apply each_kept | apply putArrayWord_kept | apply modSlice_kept
    | apply ite_of | split

theorem State.testStep_kept {s0 s : State} (h : s0.Kept s) (sl b : Nat) (fails : List Nat) : s0.Kept
    (State.testStep s sl b fails) := by
  unfold State.testStep
  with_reducible repeat' first
    | intro _ | assumption | apply testRead_kept | apply testFlip_kept | apply testClass_kept
    | apply testWrite_kept | apply ite_of | extract_lets | split | simp only [kept_mk_iff]

theorem State.refreshRow_kept {s0 s : State} (h : s0.Kept s) (sl b row src : Nat) : s0.Kept
    (State.refreshRow s sl b row src) := by
  unfold State.refreshRow
  with_reducible repeat' first
    | intro _ | assumption | apply each_kept | apply noteWord_kept | apply putArrayWord_kept
    | apply queueTest_kept | apply ite_of | split

theorem State.voteRow_kept {s0 s : State} (h : s0.Kept s) (sl b row : Nat) : s0.Kept (State.voteRow s sl b row)
    := by
  unfold State.voteRow
  with_reducible repeat' first
    | intro _ | assumption | apply each_kept | apply putW_kept | apply count_kept | apply ite_of | split

theorem State.primary_kept {s0 s : State} (h : s0.Kept s) (sl b : Nat) : s0.Kept (State.primary s sl b).2 := by
  unfold State.primary
  with_reducible repeat' first
    | intro _ | assumption | apply refreshRow_kept | apply modBank_kept | apply ite_of | split

theorem State.secondary_kept {s0 s : State} (h : s0.Kept s) (sl b : Nat) (mac : Option Nat) (fails : List Nat) :
    s0.Kept (State.secondary s sl b mac fails) := by
  unfold State.secondary
  with_reducible repeat' first
    | intro _ | assumption | apply testStep_kept | apply drainWb_kept | apply drainLine_kept | apply ite_of
    | split

theorem State.maintBank_kept {s0 s : State} (h : s0.Kept s) (sl b : Nat) (fails : List Nat) : s0.Kept
    (State.maintBank s sl b fails) := by
  unfold State.maintBank
  with_reducible repeat' first
    | intro _ | assumption | apply primary_kept | apply modBank_kept | apply secondary_kept | apply voteRow_kept
    | apply ite_of | split

theorem State.maintenance_kept {s0 s : State} (h : s0.Kept s) (sl bset : Nat) (t3fail : List (Nat × Nat)) : s0.Kept
    (State.maintenance s sl bset t3fail) := by
  unfold State.maintenance
  with_reducible repeat' first
    | intro _ | assumption | apply reach_kept | apply maintBank_kept | apply each_kept | apply ite_of | split

theorem State.historyExpire_kept {s0 s : State} (h : s0.Kept s) (sl b : Nat) : s0.Kept (State.historyExpire s sl b)
    := by
  unfold State.historyExpire
  with_reducible repeat' first
    | intro _ | assumption | apply reach_kept | apply setBank_kept | apply ite_of | extract_lets | split
    | simp only [kept_mk_iff]

theorem State.drainAge_kept {s0 s : State} (h : s0.Kept s) (sl b : Nat) : s0.Kept (State.drainAge s sl b) := by
  unfold State.drainAge
  with_reducible repeat' first
    | intro _ | assumption | apply drainLine_kept | apply reach_kept | apply ite_of | extract_lets | split
    | simp only [kept_mk_iff]

theorem State.startHandover_kept {s0 s : State} (h : s0.Kept s) (sl : Nat) (mask : BitVec 64) (owner : Nat) (keep
    : Bool) (kill : Option Nat) : s0.Kept (State.startHandover s sl mask owner keep kill) := by
  unfold State.startHandover
  with_reducible repeat' first
    | intro _ | assumption | apply fencing_kept | apply modSlice_kept | apply putB_kept | apply putF_kept
    | apply ite_of | split

theorem State.storeXfer_kept {r0 s : State} (h : r0.Kept s) (s0 : State) (sl : Nat) (v : Word) (ctx : Nat) : r0.Kept
    (State.storeXfer s s0 sl v ctx) := by
  unfold State.storeXfer
  with_reducible repeat' first
    | intro _ | assumption | apply refuseWrite_kept | apply storeReg_kept | apply putF_kept | apply pass_kept
    | apply startHandover_kept | apply ite_of | split

theorem State.storeXferMask_kept {r0 s : State} (h : r0.Kept s) (s0 : State) (sl : Nat) (v : Word) (ctx : Nat)
    : r0.Kept (State.storeXferMask s s0 sl v ctx) := by
  unfold State.storeXferMask
  with_reducible repeat' first
    | intro _ | assumption | apply refuseWrite_kept | apply storeReg_kept | apply ite_of | split

theorem State.drainHandover_kept {s0 s : State} (hs : s0.Kept s) (sl : Nat) (h : Handover) : s0.Kept
    (State.drainHandover s sl h) := by
  unfold State.drainHandover
  with_reducible repeat' first
    | intro _ | assumption | apply each_kept | apply drainAll_kept | apply retireAll_kept | apply freeDraw_kept
    | apply wipeBank_kept | apply modSlice_kept | apply drainWb_kept | apply retire_kept | apply ite_of | split

theorem State.handoverDrainEnd_kept {s0 s : State} (h : s0.Kept s) (sl : Nat) : s0.Kept
    (State.handoverDrainEnd s sl) := by
  unfold State.handoverDrainEnd
  with_reducible repeat' first
    | intro _ | assumption | apply reach_kept | apply drainHandover_kept | apply ite_of | split

theorem State.giveBank_kept {s0 s : State} (h : s0.Kept s) (sl b c : Nat) : s0.Kept (State.giveBank s sl b c) := by
  unfold State.giveBank
  with_reducible repeat' first
    | intro _ | assumption | apply putF_kept | apply putCfg_kept | apply ite_of | split

theorem State.killHandover_kept {s0 s : State} (h : s0.Kept s) (sl c : Nat) : s0.Kept (State.killHandover s sl c)
    := by
  unfold State.killHandover
  with_reducible repeat' first
    | intro _ | assumption | apply modSlice_kept | apply startHandover_kept | apply ctxE0_kept | apply ite_of
    | split

theorem State.nextKillHandover_kept {s0 s : State} (h : s0.Kept s) (sl k : Nat) : s0.Kept
    (State.nextKillHandover s sl k) := by
  induction k generalizing s with
  | zero => unfold State.nextKillHandover; exact h
  | succ k ih =>
    unfold State.nextKillHandover
    with_reducible repeat' first
      | intro _ | assumption | apply modSlice_kept | apply killHandover_kept | apply ih | apply ite_of
      | extract_lets | split | simp only [kept_mk_iff]

theorem State.endHandover_kept {s0 s : State} (hs : s0.Kept s) (sl : Nat) (h : Handover) (result : Nat) : s0.Kept
    (State.endHandover s sl h result) := by
  unfold State.endHandover
  with_reducible repeat' first
    | intro _ | assumption | apply fencing_kept | apply modSlice_kept | apply putB_kept | apply putF_kept
    | apply ite_of | split

theorem State.handoverComplete_kept {s0 s : State} (h : s0.Kept s) (sl : Nat) : s0.Kept
    (State.handoverComplete s sl) := by
  unfold State.handoverComplete
  with_reducible repeat' first
    | intro _ | assumption | apply reach_kept | apply giveBank_kept | apply pass_kept
    | apply nextKillHandover_kept | apply each_kept | apply endHandover_kept | apply ite_of | split

end Sys2Proof.Machine
end

