-- ==== Sys2Proof/Laws/KeptWalk.lean ====
section
/-! SUPPORT. Every operation keeps what no command changes. -/

set_option linter.unusedSimpArgs false

namespace Sys2Proof.Machine

open State

theorem State.addAcc_kept {s0 s : State} (h : s0.Kept s) (sl j : Nat) (a : SeAcc) : s0.Kept (State.addAcc s sl j a)
    := by
  unfold State.addAcc
  with_reducible repeat' first
    | intro _ | assumption | apply modSlot_kept | apply ite_of | split

theorem State.putInst_kept {s0 s : State} (h : s0.Kept s) (sl j : Nat) (i : Inst) : s0.Kept (State.putInst s sl j i)
    := by
  unfold State.putInst
  with_reducible repeat' first
    | intro _ | assumption | apply modSlot_kept | apply ite_of | split

theorem State.modInst_kept {s0 s : State} (h : s0.Kept s) (sl j no : Nat) (f : Inst → Inst) : s0.Kept
    (State.modInst s sl j no f) := by
  unfold State.modInst
  with_reducible repeat' first
    | intro _ | assumption | apply modSlot_kept | apply ite_of | split

theorem State.setHalt_kept {s0 s : State} (hs : s0.Kept s) (sl j : Nat) (h : HaltAt) (from' : Nat := 0) : s0.Kept
    (State.setHalt s sl j h from') := by
  unfold State.setHalt
  with_reducible repeat' first
    | intro _ | assumption | apply modSlot_kept | apply ite_of | split

theorem State.haltAtPc_kept {s0 s : State} (h : s0.Kept s) (sl j code : Nat) : s0.Kept (State.haltAtPc s sl j code)
    := by
  unfold State.haltAtPc
  with_reducible repeat' first
    | intro _ | assumption | apply setHalt_kept | apply ite_of | split

theorem State.slotRec_kept {s0 s : State} (h : s0.Kept s) (sl j code : Nat) (detail : Word) : s0.Kept
    (State.slotRec s sl j code detail) := by
  unfold State.slotRec
  with_reducible repeat' first
    | intro _ | assumption | apply sliceRec_kept | apply ite_of | split

theorem State.restoreAccs_kept {s0 s : State} (h : s0.Kept s) (sl : Nat) : s0.Kept (State.restoreAccs s sl) := by
  unfold State.restoreAccs
  with_reducible repeat' first
    | intro _ | assumption | apply each_kept | apply modBank_kept | apply ite_of | split

theorem State.freeAccs_kept {s0 s : State} (h : s0.Kept s) (sl : Nat) : s0.Kept (State.freeAccs s sl) := by
  unfold State.freeAccs
  with_reducible repeat' first
    | intro _ | assumption | apply each_kept | apply modBank_kept | apply wr_kept | apply ite_of | split

theorem State.releaseAccs_kept {s0 s : State} (h : s0.Kept s) (sl j : Nat) : s0.Kept (State.releaseAccs s sl j)
    := by
  unfold State.releaseAccs
  with_reducible repeat' first
    | intro _ | assumption | apply freeAccs_kept | apply ite_of | split

theorem State.endXfers_kept {s0 s : State} (h : s0.Kept s) (p : Xfer → Bool) : s0.Kept (State.endXfers s p) := by
  unfold State.endXfers
  with_reducible repeat' first
    | intro _ | assumption | apply ite_of | apply foldl_of | apply foldl_snd_of | apply foldl_fst_of
    | extract_lets | split | simp only [kept_mk_iff] | simp only [kept_mkBelfry_iff]
    | simp +zetaDelta only [kept_mk_iff] | simp +zetaDelta only [kept_mkBelfry_iff]

theorem State.dropXfers_kept {s0 s : State} (h : s0.Kept s) (sl j : Nat) : s0.Kept (State.dropXfers s sl j) := by
  unfold State.dropXfers
  with_reducible repeat' first
    | intro _ | assumption | apply endXfers_kept | apply ite_of | extract_lets | split | simp only [kept_mk_iff]

theorem State.dropScrub_kept {s0 s : State} (h : s0.Kept s) (sl j : Nat) : s0.Kept (State.dropScrub s sl j) := by
  unfold State.dropScrub
  with_reducible repeat' first
    | intro _ | assumption | apply modSlice_kept | apply scrubCtl_kept | apply putB_kept | apply ite_of | split

theorem State.dropHeldOut_kept {s0 s : State} (h : s0.Kept s) (sl j : Nat) : s0.Kept (State.dropHeldOut s sl j)
    := by
  unfold State.dropHeldOut
  with_reducible repeat' first
    | intro _ | assumption | apply ite_of | extract_lets | split | simp only [kept_mk_iff]

theorem State.parkOut_kept {s0 s : State} (h : s0.Kept s) (sl j : Nat) : s0.Kept (State.parkOut s sl j) := by
  unfold State.parkOut
  with_reducible repeat' first
    | intro _ | assumption | apply ite_of | extract_lets | split | simp only [kept_mk_iff]

theorem State.enterFault_kept {s0 s : State} (hs : s0.Kept s) (sl j : Nat) (h : HaltAt) : s0.Kept
    (State.enterFault s sl j h) := by
  unfold State.enterFault
  with_reducible repeat' first
    | intro _ | assumption | apply modSlot_kept | apply restoreAccs_kept | apply dropXfers_kept | apply count_kept
    | apply setPc_kept | apply putF_kept | apply wr_kept | apply setSlotState_kept | apply dropScrub_kept
    | apply parkOut_kept | apply sliceRec_kept | apply ite_of | split

theorem State.settleHalt_kept {s0 s : State} (h : s0.Kept s) (sl j : Nat) : s0.Kept (State.settleHalt s sl j) := by
  unfold State.settleHalt
  with_reducible repeat' first
    | intro _ | assumption | apply enterFault_kept | apply ite_of | split

theorem State.stall_kept {s0 s : State} (h : s0.Kept s) (sl o : Nat) : s0.Kept (State.stall s sl o) := by
  unfold State.stall
  with_reducible repeat' first
    | intro _ | assumption | apply count_kept | apply modSlice_kept | apply ite_of | split

theorem State.losers_kept {s0 s : State} (h : s0.Kept s) (sl bset won : Nat) (x : Others) : s0.Kept
    (State.losers s sl bset won x) := by
  unfold State.losers
  with_reducible repeat' first
    | intro _ | assumption | apply stall_kept | apply ite_of | apply foldl_of | apply foldl_snd_of
    | apply foldl_fst_of | extract_lets | split | simp only [kept_mk_iff] | simp only [kept_mkBelfry_iff]
    | simp +zetaDelta only [kept_mk_iff] | simp +zetaDelta only [kept_mkBelfry_iff]

theorem State.countSlot_kept {s0 s : State} (h : s0.Kept s) (sl o k : Nat) : s0.Kept (State.countSlot s sl o k)
    := by
  unfold State.countSlot
  with_reducible repeat' first
    | intro _ | assumption | apply modSlice_kept | apply ite_of | split

theorem State.takeLane_kept {s0 s : State} (h : s0.Kept s) (sl bset : Nat) : s0.Kept (State.takeLane s sl bset)
    := by
  unfold State.takeLane
  with_reducible repeat' first
    | intro _ | assumption | apply wipeNow_kept | apply modSlice_kept | apply ite_of | split

theorem State.stepLfsr_kept {s0 s : State} (h : s0.Kept s) (sl b rnd : Nat) : s0.Kept (State.stepLfsr s sl b rnd)
    := by
  unfold State.stepLfsr
  with_reducible repeat' first
    | intro _ | assumption | apply putF_kept | apply modSlice_kept | apply ite_of | split

theorem State.tally_kept {s0 s : State} (h : s0.Kept s) (sl : Nat) (t : Tally) : s0.Kept (State.tally s sl t) := by
  unfold State.tally
  with_reducible repeat' first
    | intro _ | assumption | apply count_kept | apply ite_of | split

theorem State.storeAccum_kept {s0 s : State} (h : s0.Kept s) (sl b : Nat) (a : Accum) : s0.Kept
    (State.storeAccum s sl b a).2 := by
  unfold State.storeAccum
  with_reducible repeat' first
    | intro _ | assumption | apply modBank_kept | apply putF_kept | apply putB_kept | apply ite_of | split

theorem State.reduceLine_kept {s0 s : State} (h : s0.Kept s) (sl b : Nat) (i : Inst) (os : List Operand) (n : Nat) :
    s0.Kept (State.reduceLine s sl b i os n).2 := by
  unfold State.reduceLine
  with_reducible repeat' first
    | intro _ | assumption | apply storeAccum_kept | apply count_kept | apply ite_of | apply foldl_of
    | apply foldl_snd_of | apply foldl_fst_of | extract_lets | split | simp only [kept_mk_iff]
    | simp only [kept_mkBelfry_iff] | simp +zetaDelta only [kept_mk_iff]
    | simp +zetaDelta only [kept_mkBelfry_iff]

theorem State.chunkActs_kept {s0 s : State} (h : s0.Kept s) (sl j bset : Nat) (os : List Operand) (c : Nat) :
    s0.Kept (State.chunkActs s sl j bset os c).2 := by
  unfold State.chunkActs
  with_reducible repeat' first
    | intro _ | assumption | apply touchVec_kept | apply modSlice_kept | apply ite_of | split

theorem State.contribute_kept {s0 s : State} (h : s0.Kept s) (sl b : Nat) (l : List (Nat × Num × Bool)) : s0.Kept
    (State.contribute s sl b l).2 := by
  unfold State.contribute
  with_reducible repeat' first
    | intro _ | assumption | apply storeAccum_kept | apply ite_of | apply foldl_of | apply foldl_snd_of
    | apply foldl_fst_of | extract_lets | split | simp only [kept_mk_iff] | simp only [kept_mkBelfry_iff]
    | simp +zetaDelta only [kept_mk_iff] | simp +zetaDelta only [kept_mkBelfry_iff]

end Sys2Proof.Machine
end

