-- ==== Sys2Proof/Laws/KeptEngine.lean ====
section
/-! SUPPORT. Every operation keeps what no command changes. -/

set_option linter.unusedSimpArgs false

namespace Sys2Proof.Machine

open State

theorem State.queueLog_kept {s0 s : State} (h : s0.Kept s) (r : LogRec) : s0.Kept (State.queueLog s r) := by
  unfold State.queueLog
  with_reducible repeat' first
    | intro _ | assumption | apply countSat_kept | apply ite_of | apply foldl_of | apply foldl_snd_of
    | apply foldl_fst_of | extract_lets | split | simp only [kept_mk_iff] | simp only [kept_mkBelfry_iff]
    | simp +zetaDelta only [kept_mk_iff] | simp +zetaDelta only [kept_mkBelfry_iff]

theorem State.logEvent_kept {s0 s : State} (h : s0.Kept s) (type : Nat) (detail : Word) : s0.Kept
    (State.logEvent s type detail) := by
  unfold State.logEvent
  with_reducible repeat' first
    | intro _ | assumption | apply queueLog_kept | apply ite_of | split

theorem State.pumpFetch_kept {s0 s : State} (h : s0.Kept s) (sl j : Nat) : s0.Kept (State.pumpFetch s sl j) := by
  unfold State.pumpFetch
  with_reducible repeat' first
    | intro _ | assumption | apply addAcc_kept | apply ite_of | split

theorem State.pumpDesc_kept {s0 s : State} (h : s0.Kept s) (sl j : Nat) : s0.Kept (State.pumpDesc s sl j) := by
  unfold State.pumpDesc
  with_reducible repeat' first
    | intro _ | assumption | apply setHalt_kept | apply addAcc_kept | apply ite_of | apply foldl_of
    | apply foldl_snd_of | apply foldl_fst_of | extract_lets | split | simp only [kept_mk_iff]
    | simp only [kept_mkBelfry_iff] | simp +zetaDelta only [kept_mk_iff]
    | simp +zetaDelta only [kept_mkBelfry_iff]

theorem State.beginBlock_kept {s0 s : State} (h : s0.Kept s) (sl j : Nat) (i : Inst) (b : Nat) : s0.Kept
    (State.beginBlock s sl j i b) := by
  unfold State.beginBlock
  with_reducible repeat' first
    | intro _ | assumption | apply setHalt_kept | apply putInst_kept | apply ite_of | apply foldl_of
    | apply foldl_snd_of | apply foldl_fst_of | extract_lets | split | simp only [kept_mk_iff]
    | simp only [kept_mkBelfry_iff] | simp +zetaDelta only [kept_mk_iff]
    | simp +zetaDelta only [kept_mkBelfry_iff]

theorem State.startReads_kept {s0 s : State} (h : s0.Kept s) (sl j no : Nat) : s0.Kept (State.startReads s sl j no)
    := by
  unfold State.startReads
  with_reducible repeat' first
    | intro _ | assumption | apply putInst_kept | apply ite_of | split

theorem State.readAgain_kept {s0 s : State} (h : s0.Kept s) (sl j : Nat) (i : Inst) : s0.Kept
    (State.readAgain s sl j i) := by
  unfold State.readAgain
  with_reducible repeat' first
    | intro _ | assumption | apply putInst_kept | apply ite_of | split

theorem State.takeBack_kept {s0 s : State} (h : s0.Kept s) (sl j : Nat) : s0.Kept (State.takeBack s sl j) := by
  unfold State.takeBack
  with_reducible repeat' first
    | intro _ | assumption | apply modSlot_kept | apply ite_of | apply foldl_of | apply foldl_snd_of
    | apply foldl_fst_of | extract_lets | split | simp only [kept_mk_iff] | simp only [kept_mkBelfry_iff]
    | simp +zetaDelta only [kept_mk_iff] | simp +zetaDelta only [kept_mkBelfry_iff]

theorem State.pumpRead_kept {s0 s : State} (h : s0.Kept s) (sl j k : Nat) : s0.Kept (State.pumpRead s sl j k) := by
  induction k generalizing s with
  | zero => unfold State.pumpRead; exact h
  | succ k ih =>
    unfold State.pumpRead
    with_reducible repeat' first
      | intro _ | assumption | apply readAgain_kept | apply beginBlock_kept | apply putInst_kept | apply addAcc_kept
      | apply startReads_kept | apply ih | apply ite_of | apply foldl_of | apply foldl_snd_of | apply foldl_fst_of
      | extract_lets | split | simp only [kept_mk_iff] | simp only [kept_mkBelfry_iff]
      | simp +zetaDelta only [kept_mk_iff] | simp +zetaDelta only [kept_mkBelfry_iff]

theorem State.shadowAccs_kept {s0 s : State} (h : s0.Kept s) (sl : Nat) : s0.Kept (State.shadowAccs s sl) := by
  unfold State.shadowAccs
  with_reducible repeat' first
    | intro _ | assumption | apply each_kept | apply modBank_kept | apply ite_of | split

theorem State.startWipe_kept {s0 s : State} (h : s0.Kept s) (sl j : Nat) (i : Inst) : s0.Kept
    (State.startWipe s sl j i) := by
  unfold State.startWipe
  with_reducible repeat' first
    | intro _ | assumption | apply emptyVec_kept | apply modInst_kept | apply ite_of | apply foldl_of
    | apply foldl_snd_of | apply foldl_fst_of | extract_lets | split | simp only [kept_mk_iff]
    | simp only [kept_mkBelfry_iff] | simp +zetaDelta only [kept_mk_iff]
    | simp +zetaDelta only [kept_mkBelfry_iff]

theorem State.pumpBlock_kept {s0 s : State} (h : s0.Kept s) (sl j : Nat) : s0.Kept (State.pumpBlock s sl j) := by
  unfold State.pumpBlock
  with_reducible repeat' first
    | intro _ | assumption | apply beginBlock_kept | apply putInst_kept | apply startWipe_kept
    | apply modSlice_kept | apply shadowAccs_kept | apply setHalt_kept | apply ite_of | extract_lets | split
    | simp only [kept_mk_iff]

theorem State.pumpMove_kept {s0 s : State} (h : s0.Kept s) (sl j k : Nat) : s0.Kept (State.pumpMove s sl j k) := by
  induction k generalizing s with
  | zero => unfold State.pumpMove; exact h
  | succ k ih =>
    unfold State.pumpMove
    with_reducible repeat' first
      | intro _ | assumption | apply putInst_kept | apply setHalt_kept | apply addAcc_kept | apply ih | apply ite_of
      | extract_lets | split | simp only [kept_mk_iff]

theorem State.pumpOut_kept {s0 s : State} (h : s0.Kept s) (sl j k : Nat) : s0.Kept (State.pumpOut s sl j k) := by
  induction k generalizing s with
  | zero => unfold State.pumpOut; exact h
  | succ k ih =>
    unfold State.pumpOut
    with_reducible repeat' first
      | intro _ | assumption | apply putInst_kept | apply ih | apply ite_of | extract_lets | split
      | simp only [kept_mk_iff]

theorem State.pumpBadFetch_kept {s0 s : State} (h : s0.Kept s) (sl j : Nat) : s0.Kept (State.pumpBadFetch s sl j)
    := by
  unfold State.pumpBadFetch
  with_reducible repeat' first
    | intro _ | assumption | apply haltAtPc_kept | apply ite_of | extract_lets | split | simp only [kept_mk_iff]

theorem State.pump_kept {s0 s : State} (h : s0.Kept s) (sl j : Nat) : s0.Kept (State.pump s sl j) := by
  unfold State.pump
  with_reducible repeat' first
    | intro _ | assumption | apply takeBack_kept | apply pumpFetch_kept | apply pumpDesc_kept
    | apply pumpRead_kept | apply pumpMove_kept | apply pumpBadFetch_kept | apply pumpOut_kept
    | apply pumpBlock_kept | apply settleHalt_kept | apply ite_of | split

theorem State.pumpSlice_kept {s0 s : State} (h : s0.Kept s) (sl : Nat) : s0.Kept (State.pumpSlice s sl) := by
  unfold State.pumpSlice
  with_reducible repeat' first
    | intro _ | assumption | apply each_kept | apply pump_kept | apply ite_of | split

theorem State.askRecords_kept {s0 s : State} (h : s0.Kept s) (sl : Nat) : s0.Kept (State.askRecords s sl) := by
  unfold State.askRecords
  with_reducible repeat' first
    | intro _ | assumption | apply modSlice_kept | apply ite_of | apply foldl_of | apply foldl_snd_of
    | apply foldl_fst_of | extract_lets | split | simp only [kept_mk_iff] | simp only [kept_mkBelfry_iff]
    | simp +zetaDelta only [kept_mk_iff] | simp +zetaDelta only [kept_mkBelfry_iff]

theorem State.decode_kept {s0 s : State} (h : s0.Kept s) (sl j op : Nat) (f : State → Word → State) (hf : ∀ (t
    : State) (y : Word), s0.Kept t → s0.Kept (f t y)) : s0.Kept (State.decode s sl j op f) := by
  unfold State.decode
  with_reducible repeat' first
    | intro _ | assumption | apply pumpSlice_kept | apply reach_kept | apply modSlice_kept | apply askRecords_kept
    | apply ite_of | apply foldl_of | apply foldl_snd_of | apply foldl_fst_of | extract_lets | split
    | simp only [kept_mk_iff] | simp only [kept_mkBelfry_iff] | simp +zetaDelta only [kept_mk_iff]
    | simp +zetaDelta only [kept_mkBelfry_iff] | apply hf

theorem State.branch_kept {s0 s : State} (h : s0.Kept s) (sl j : Nat) (d : Int) : s0.Kept (State.branch s sl j d)
    := by
  unfold State.branch
  with_reducible repeat' first
    | intro _ | assumption | apply haltAtPc_kept | apply setPc_kept | apply modSlot_kept | apply ite_of | split

theorem State.setSreg_kept {s0 s : State} (h : s0.Kept s) (sl j n v : Nat) : s0.Kept (State.setSreg s sl j n v)
    := by
  unfold State.setSreg
  with_reducible repeat' first
    | intro _ | assumption | apply putF_kept | apply ite_of | split

theorem State.setLreg_kept {s0 s : State} (h : s0.Kept s) (sl j n v : Nat) : s0.Kept (State.setLreg s sl j n v)
    := by
  unfold State.setLreg
  with_reducible repeat' first
    | intro _ | assumption | apply putF_kept | apply ite_of | split

theorem State.loopInstr_kept {s0 s : State} (h : s0.Kept s) (sl j : Nat) (w : Word) : s0.Kept
    (State.loopInstr s sl j w) := by
  unfold State.loopInstr
  with_reducible repeat' first
    | intro _ | assumption | apply branch_kept | apply setLreg_kept | apply nextPc_kept | apply ite_of | split

theorem State.endlInstr_kept {s0 s : State} (h : s0.Kept s) (sl j : Nat) (w : Word) : s0.Kept
    (State.endlInstr s sl j w) := by
  unfold State.endlInstr
  with_reducible repeat' first
    | intro _ | assumption | apply setLreg_kept | apply branch_kept | apply nextPc_kept | apply ite_of | split

theorem State.jumpInstr_kept {s0 s : State} (h : s0.Kept s) (sl j : Nat) (w : Word) : s0.Kept
    (State.jumpInstr s sl j w) := by
  unfold State.jumpInstr
  with_reducible repeat' first
    | intro _ | assumption | apply branch_kept | apply nextPc_kept | apply ite_of | split

theorem State.sethInstr_kept {s0 s : State} (h : s0.Kept s) (sl j : Nat) (w : Word) : s0.Kept
    (State.sethInstr s sl j w) := by
  unfold State.sethInstr
  with_reducible repeat' first
    | intro _ | assumption | apply putF_kept | apply nextPc_kept | apply ite_of | split

theorem State.setsInstr_kept {s0 s : State} (h : s0.Kept s) (sl j : Nat) (w : Word) : s0.Kept
    (State.setsInstr s sl j w) := by
  unfold State.setsInstr
  with_reducible repeat' first
    | intro _ | assumption | apply setSreg_kept | apply nextPc_kept | apply ite_of | split

theorem State.waitTake_kept {s0 s : State} (h : s0.Kept s) (sl j : Nat) (room : Bool) (pair n : Nat) : s0.Kept
    (State.waitTake s sl j room pair n) := by
  unfold State.waitTake
  with_reducible repeat' first
    | intro _ | assumption | apply waitsTake_kept | apply claveTake_kept | apply modSlot_kept
    | apply satisfied_kept | apply ite_of | split

theorem State.waitInstr_kept {s0 s : State} (h : s0.Kept s) (sl j : Nat) (w : Word) : s0.Kept
    (State.waitInstr s sl j w) := by
  unfold State.waitInstr
  with_reducible repeat' first
    | intro _ | assumption | apply haltAtPc_kept | apply waitTake_kept | apply ite_of | split

theorem State.waitAgain_kept {s0 s : State} (h : s0.Kept s) (sl j : Nat) : s0.Kept (State.waitAgain s sl j) := by
  unfold State.waitAgain
  with_reducible repeat' first
    | intro _ | assumption | apply waitsTake_kept | apply pumpSlice_kept | apply ite_of | split

theorem State.waitbeatInstr_kept {s0 s : State} (h : s0.Kept s) (sl j : Nat) (w : Word) : s0.Kept
    (State.waitbeatInstr s sl j w) := by
  unfold State.waitbeatInstr
  with_reducible repeat' first
    | intro _ | assumption | apply satisfied_kept | apply modSlot_kept | apply ite_of | split

theorem State.pushInst_kept {s0 s : State} (h : s0.Kept s) (sl j : Nat) (i : Inst) : s0.Kept
    (State.pushInst s sl j i) := by
  unfold State.pushInst
  with_reducible repeat' first
    | intro _ | assumption | apply modSlot_kept | apply putF_kept | apply ite_of | split

theorem State.dropHead_kept {s0 s : State} (h : s0.Kept s) (sl j : Nat) : s0.Kept (State.dropHead s sl j) := by
  unfold State.dropHead
  with_reducible repeat' first
    | intro _ | assumption | apply modSlot_kept | apply ite_of | split

theorem State.follow_kept {s0 s : State} (h : s0.Kept s) (sl j op : Nat) (f : State → Inst → State) (hf : ∀ (t
    : State) (y : Inst), s0.Kept t → s0.Kept (f t y)) : s0.Kept (State.follow s sl j op f) := by
  unfold State.follow
  with_reducible repeat' first
    | intro _ | assumption | apply reach_kept | apply pumpSlice_kept | apply ite_of | apply foldl_of
    | apply foldl_snd_of | apply foldl_fst_of | extract_lets | split | simp only [kept_mk_iff]
    | simp only [kept_mkBelfry_iff] | simp +zetaDelta only [kept_mk_iff]
    | simp +zetaDelta only [kept_mkBelfry_iff] | apply hf

theorem State.leadFollow_kept {s0 s : State} (h : s0.Kept s) (sl j op : Nat) (hold : Bool) (f
    : State → Inst → State) (hf : ∀ (t : State) (y : Inst), s0.Kept t → s0.Kept (f t y)) : s0.Kept
    (State.leadFollow s sl j op hold f) := by
  unfold State.leadFollow
  with_reducible repeat' first
    | intro _ | assumption | apply pumpSlice_kept | apply follow_kept | apply decode_kept | apply pushInst_kept
    | apply modSlot_kept | apply nextPc_kept | apply ite_of | apply foldl_of | apply foldl_snd_of
    | apply foldl_fst_of | extract_lets | split | simp only [kept_mk_iff] | simp only [kept_mkBelfry_iff]
    | simp +zetaDelta only [kept_mk_iff] | simp +zetaDelta only [kept_mkBelfry_iff] | apply hf

theorem State.noDeadline_kept {s0 s : State} (h : s0.Kept s) (sl j : Nat) : s0.Kept (State.noDeadline s sl j) := by
  unfold State.noDeadline
  with_reducible repeat' first
    | intro _ | assumption | apply putF_kept | apply ite_of | split

theorem State.haltExec_kept {s0 s : State} (h : s0.Kept s) (sl j : Nat) : s0.Kept (State.haltExec s sl j) := by
  unfold State.haltExec
  with_reducible repeat' first
    | intro _ | assumption | apply releaseAccs_kept | apply modSlot_kept | apply setSlotState_kept
    | apply noDeadline_kept | apply dropHead_kept | apply setDone_kept | apply ite_of | split

theorem State.markExec_kept {s0 s : State} (h : s0.Kept s) (sl j : Nat) (i : Inst) : s0.Kept
    (State.markExec s sl j i) := by
  unfold State.markExec
  with_reducible repeat' first
    | intro _ | assumption | apply dropHead_kept | apply queueLog_kept | apply count_kept | apply ite_of | split

theorem State.signalExec_kept {s0 s : State} (h : s0.Kept s) (sl j : Nat) (i : Inst) : s0.Kept
    (State.signalExec s sl j i) := by
  unfold State.signalExec
  with_reducible repeat' first
    | intro _ | assumption | apply setHalt_kept | apply addAcc_kept | apply claveSignal_kept | apply putInst_kept
    | apply dropHead_kept | apply ite_of | split

theorem State.knextExec_kept {s0 s : State} (h : s0.Kept s) (sl j : Nat) : s0.Kept (State.knextExec s sl j) := by
  unfold State.knextExec
  with_reducible repeat' first
    | intro _ | assumption | apply dropHead_kept | apply kernelBoundary_kept | apply modSlot_kept
    | apply nextPc_kept | apply ite_of | split

theorem State.endScrub_kept {s0 s : State} (h : s0.Kept s) (sl j : Nat) : s0.Kept (State.endScrub s sl j) := by
  unfold State.endScrub
  with_reducible repeat' first
    | intro _ | assumption | apply dropScrub_kept | apply ite_of | apply foldl_of | apply foldl_snd_of
    | apply foldl_fst_of | extract_lets | split | simp only [kept_mk_iff] | simp only [kept_mkBelfry_iff]
    | simp +zetaDelta only [kept_mk_iff] | simp +zetaDelta only [kept_mkBelfry_iff]

theorem State.testDeadline_kept {s0 s : State} (h : s0.Kept s) (sl j : Nat) : s0.Kept (State.testDeadline s sl j)
    := by
  unfold State.testDeadline
  with_reducible repeat' first
    | intro _ | assumption | apply wipeNow_kept | apply putB_kept | apply slotRec_kept | apply wr_kept
    | apply putF_kept | apply countSat_kept | apply raiseIrq_kept | apply modSlot_kept | apply endScrub_kept
    | apply ite_of | split

theorem State.deadlineInstr_kept {s0 s : State} (h : s0.Kept s) (sl j : Nat) (w : Word) : s0.Kept
    (State.deadlineInstr s sl j w) := by
  unfold State.deadlineInstr
  with_reducible repeat' first
    | intro _ | assumption | apply putF_kept | apply putB_kept | apply modSlot_kept | apply nextPc_kept
    | apply pass_kept | apply testDeadline_kept | apply ite_of | split

theorem State.deadlineMet_kept {s0 s : State} (h : s0.Kept s) (sl j : Nat) : s0.Kept (State.deadlineMet s sl j)
    := by
  unfold State.deadlineMet
  with_reducible repeat' first
    | intro _ | assumption | apply putB_kept | apply ite_of | split

theorem State.beatIn_kept {s0 s : State} (h : s0.Kept s) (sl : Nat) : s0.Kept (State.beatIn s sl) := by
  unfold State.beatIn
  with_reducible repeat' first
    | intro _ | assumption | apply each_kept | apply testDeadline_kept | apply beatHeld_kept
    | apply pumpSlice_kept | apply ite_of | split

theorem State.beatVisible_kept {s0 s : State} (h : s0.Kept s)  : s0.Kept (State.beatVisible s) := by
  unfold State.beatVisible
  with_reducible repeat' first
    | intro _ | assumption | apply reach_kept | apply putF_kept | apply each_kept | apply beatIn_kept
    | apply putB_kept | apply ite_of | extract_lets | split | simp only [kept_mk_iff]

theorem State.armSlot_kept {s0 s : State} (h : s0.Kept s) (sl j : Nat) : s0.Kept (State.armSlot s sl j) := by
  unfold State.armSlot
  with_reducible repeat' first
    | intro _ | assumption | apply setPc_kept | apply wr_kept | apply putF_kept | apply modSlot_kept
    | apply setSlotState_kept | apply noDeadline_kept | apply ite_of | split

theorem State.fromNext_kept {s0 s : State} (h : s0.Kept s) (f : State → State) (hf : ∀ t : State, s0.Kept t →
    s0.Kept (f t)) : s0.Kept (State.fromNext s f) := by
  unfold State.fromNext
  with_reducible repeat' first
    | intro _ | assumption | apply pass_kept | apply ite_of | apply foldl_of | apply foldl_snd_of
    | apply foldl_fst_of | extract_lets | split | simp only [kept_mk_iff] | simp only [kept_mkBelfry_iff]
    | simp +zetaDelta only [kept_mk_iff] | simp +zetaDelta only [kept_mkBelfry_iff] | apply hf

theorem State.orderFetches_kept {s0 s : State} (h : s0.Kept s) (sl : Nat) : s0.Kept (State.orderFetches s sl) := by
  unfold State.orderFetches
  with_reducible repeat' first
    | intro _ | assumption | apply modSlot_kept | apply ite_of | apply foldl_of | apply foldl_snd_of
    | apply foldl_fst_of | extract_lets | split | simp only [kept_mk_iff] | simp only [kept_mkBelfry_iff]
    | simp +zetaDelta only [kept_mk_iff] | simp +zetaDelta only [kept_mkBelfry_iff]

theorem State.slotStart_kept {s0 s : State} (h : s0.Kept s) (sl j : Nat) : s0.Kept (State.slotStart s sl j) := by
  unfold State.slotStart
  with_reducible repeat' first
    | intro _ | assumption | apply enterFault_kept | apply wakeFor_kept | apply reach_kept | apply waitsTake_kept
    | apply claveStarts_kept | apply startNow_kept | apply pumpSlice_kept | apply each_kept | apply fromNext_kept
    | apply orderFetches_kept | apply ite_of | split

theorem State.stopSlot_kept {s0 s : State} (h : s0.Kept s) (sl j : Nat) : s0.Kept (State.stopSlot s sl j) := by
  unfold State.stopSlot
  with_reducible repeat' first
    | intro _ | assumption | apply wipeNow_kept | apply dropHeldOut_kept | apply modSlot_kept
    | apply setSlotState_kept | apply releaseAccs_kept | apply noDeadline_kept | apply dropXfers_kept
    | apply dropScrub_kept | apply ite_of | split

theorem State.stopEnds_kept {s0 s : State} (h : s0.Kept s) (sl j : Nat) : s0.Kept (State.stopEnds s sl j) := by
  unfold State.stopEnds
  with_reducible repeat' first
    | intro _ | assumption | apply reach_kept | apply modSlot_kept | apply setSlotState_kept | apply ite_of
    | split

theorem State.resumeSlot_kept {s0 s : State} (h : s0.Kept s) (sl j : Nat) : s0.Kept (State.resumeSlot s sl j) := by
  unfold State.resumeSlot
  with_reducible repeat' first
    | intro _ | assumption | apply count_kept | apply modSlot_kept | apply setSlotState_kept
    | apply pumpSlice_kept | apply ite_of | split

theorem State.storeCtl_kept {r0 s : State} (h : r0.Kept s) (s0 : State) (sl j : Nat) (v : Word) (ctx : Nat)
    : r0.Kept (State.storeCtl s s0 sl j v ctx) := by
  unfold State.storeCtl
  with_reducible repeat' first
    | intro _ | assumption | apply storeReg_kept | apply modSlot_kept | apply refuseCfg_kept | apply stopSlot_kept
    | apply resumeSlot_kept | apply armSlot_kept | apply stopEnds_kept | apply ite_of | split

theorem State.ctlUnlessReset_kept {r0 s : State} (h : r0.Kept s) (s0 : State) (sl j : Nat) (v : Word) (ctx : Nat)
    : r0.Kept (State.ctlUnlessReset s s0 sl j v ctx) := by
  unfold State.ctlUnlessReset
  with_reducible repeat' first
    | intro _ | assumption | apply refuseWrite_kept | apply storeCtl_kept | apply ite_of | split

theorem State.ctlWrite_kept {s0 s : State} (h : s0.Kept s) (sl j : Nat) (v : Word) (ctx : Nat) : s0.Kept
    (State.ctlWrite s sl j v ctx) := by
  unfold State.ctlWrite
  with_reducible repeat' first
    | intro _ | assumption | apply csrAccess_kept | apply ctlUnlessReset_kept | apply ite_of | split

theorem State.slotPause_kept {s0 s : State} (h : s0.Kept s) (sl j : Nat) : s0.Kept (State.slotPause s sl j) := by
  unfold State.slotPause
  with_reducible repeat' first
    | intro _ | assumption | apply pumpSlice_kept | apply setSlotState_kept | apply ite_of | split

theorem State.rearmTarget_kept {s0 s : State} (h : s0.Kept s) (sl j k : Nat) (i : Inst) : s0.Kept
    (State.rearmTarget s sl j k i) := by
  unfold State.rearmTarget
  with_reducible repeat' first
    | intro _ | assumption | apply putF_kept | apply wr_kept | apply armSlot_kept | apply modSlot_kept
    | apply ite_of | apply foldl_of | apply foldl_snd_of | apply foldl_fst_of | extract_lets | split
    | simp only [kept_mk_iff] | simp only [kept_mkBelfry_iff] | simp +zetaDelta only [kept_mk_iff]
    | simp +zetaDelta only [kept_mkBelfry_iff]

theorem State.rearmExec_kept {s0 s : State} (h : s0.Kept s) (sl j : Nat) (i : Inst) : s0.Kept
    (State.rearmExec s sl j i) := by
  unfold State.rearmExec
  with_reducible repeat' first
    | intro _ | assumption | apply setHalt_kept | apply dropHead_kept | apply reach_kept | apply rearmTarget_kept
    | apply modSlot_kept | apply nextPc_kept | apply ite_of | split

theorem State.illegal_kept {s0 s : State} (h : s0.Kept s) (sl j : Nat) : s0.Kept (State.illegal s sl j) := by
  unfold State.illegal
  with_reducible repeat' first
    | intro _ | assumption | apply pumpSlice_kept | apply reach_kept | apply modSlice_kept | apply haltAtPc_kept
    | apply ite_of | extract_lets | split | simp only [kept_mk_iff]

end Sys2Proof.Machine
end

