-- ==== Sys2Proof/Laws/KeptStrike.lean ====
section
/-! SUPPORT. Every operation keeps what no command changes. -/

set_option linter.unusedSimpArgs false

namespace Sys2Proof.Machine

open State

theorem State.strikeHalt_kept {s0 s : State} (h : s0.Kept s) (sl j : Nat) (i : Inst) (n : Nat) (read : Bool) (code
    : Nat) : s0.Kept (State.strikeHalt s sl j i n read code) := by
  unfold State.strikeHalt
  with_reducible repeat' first
    | intro _ | assumption | apply setHalt_kept | apply ite_of | split

theorem State.metPoison_kept {s0 s : State} (h : s0.Kept s) (sl j : Nat) (i : Inst) (n : Nat) (read : Bool) :
    s0.Kept (State.metPoison s sl j i n read) := by
  unfold State.metPoison
  with_reducible repeat' first
    | intro _ | assumption | apply strikeHalt_kept | apply slotRec_kept | apply ite_of | split

theorem State.countLines_kept {s0 s : State} (h : s0.Kept s) (sl n : Nat) : s0.Kept (State.countLines s sl n) := by
  unfold State.countLines
  with_reducible repeat' first
    | intro _ | assumption | apply count_kept | apply ite_of | split

theorem State.reduceIn_kept {s0 s : State} (h : s0.Kept s) (sl j : Nat) (i : Inst) (b : Nat) (l : SrcLine) : s0.Kept
    (State.reduceIn s sl j i b l) := by
  unfold State.reduceIn
  with_reducible repeat' first
    | intro _ | assumption | apply reduceLine_kept | apply strikeHalt_kept | apply ite_of | split

theorem State.takeLines_kept {s0 s : State} (h : s0.Kept s) (sl j : Nat) (i : Inst) (t : SStep) (rs : List LineRsp)
    : s0.Kept (State.takeLines s sl j i t rs) := by
  unfold State.takeLines
  with_reducible repeat' first
    | intro _ | assumption | apply modInst_kept | apply reduceIn_kept | apply ite_of | apply foldl_of
    | apply foldl_snd_of | apply foldl_fst_of | extract_lets | split | simp only [kept_mk_iff]
    | simp only [kept_mkBelfry_iff] | simp +zetaDelta only [kept_mk_iff]
    | simp +zetaDelta only [kept_mkBelfry_iff]

theorem State.takeScale_kept {s0 s : State} (h : s0.Kept s) (sl j : Nat) (i : Inst) (n : Nat) (rs : List LineRsp) :
    s0.Kept (State.takeScale s sl j i n rs) := by
  unfold State.takeScale
  with_reducible repeat' first
    | intro _ | assumption | apply modInst_kept | apply ite_of | split

theorem State.stepRead_kept {s0 s : State} (h : s0.Kept s) (sl j : Nat) (i : Inst) (t : SStep) : s0.Kept
    (State.stepRead s sl j i t) := by
  unfold State.stepRead
  with_reducible repeat' first
    | intro _ | assumption | apply perform_kept | apply strikeHalt_kept | apply metPoison_kept
    | apply takeScale_kept | apply takeLines_kept | apply countLines_kept | apply stepAdvance_kept
    | apply settleHalt_kept | apply ite_of | split

theorem State.wrote_kept {s0 s : State} (h : s0.Kept s) (sl j : Nat) (i : Inst) (os : List Operand) (outs : List
    (Nat × OutData)) (next due : Nat) : s0.Kept (State.wrote s sl j i os outs next due) := by
  unfold State.wrote
  with_reducible repeat' first
    | intro _ | assumption | apply modInst_kept | apply ite_of | split

theorem State.stepWrite_kept {s0 s : State} (h : s0.Kept s) (sl j : Nat) (i : Inst) (t : SStep) : s0.Kept
    (State.stepWrite s sl j i t) := by
  unfold State.stepWrite
  with_reducible repeat' first
    | intro _ | assumption | apply perform_kept | apply strikeHalt_kept | apply stepLfsr_kept | apply tally_kept
    | apply wrote_kept | apply countLines_kept | apply stepAdvance_kept | apply ite_of | apply foldl_of
    | apply foldl_snd_of | apply foldl_fst_of | extract_lets | split | simp only [kept_mk_iff]
    | simp only [kept_mkBelfry_iff] | simp +zetaDelta only [kept_mk_iff]
    | simp +zetaDelta only [kept_mkBelfry_iff]

theorem State.stepScale_kept {s0 s : State} (h : s0.Kept s) (sl j : Nat) (i : Inst) (t : SStep) (n : Nat) : s0.Kept
    (State.stepScale s sl j i t n) := by
  unfold State.stepScale
  with_reducible repeat' first
    | intro _ | assumption | apply perform_kept | apply strikeHalt_kept | apply modInst_kept
    | apply countLines_kept | apply stepAdvance_kept | apply ite_of | split

theorem State.noteOld_kept {s0 s : State} (h : s0.Kept s) (sl b l w8 ctx cls : Nat) : s0.Kept
    (State.noteOld s sl b l w8 ctx cls) := by
  unfold State.noteOld
  with_reducible repeat' first
    | intro _ | assumption | apply noteWord_kept | apply queueTest_kept | apply ite_of | split

theorem State.updateLine_kept {s0 s : State} (h : s0.Kept s) (sl j : Nat) (i : Inst) (os : List Operand) (p
    : Nat × Spot) : s0.Kept (State.updateLine s sl j i os p).2 := by
  unfold State.updateLine
  with_reducible repeat' first
    | intro _ | assumption | apply noteOld_kept | apply knellOnUe_kept | apply modBank_kept | apply drainWord_kept
    | apply writeCoded_kept | apply stepLfsr_kept | apply each_kept | apply tally_kept | apply ite_of
    | apply foldl_of | apply foldl_snd_of | apply foldl_fst_of | extract_lets | split | simp only [kept_mk_iff]
    | simp only [kept_mkBelfry_iff] | simp +zetaDelta only [kept_mk_iff]
    | simp +zetaDelta only [kept_mkBelfry_iff]

theorem State.updateVec_kept {s0 s : State} (h : s0.Kept s) (sl j : Nat) (i : Inst) (os : List Operand) (n line
    : Nat) : s0.Kept (State.updateVec s sl j i os n line).2 := by
  unfold State.updateVec
  with_reducible repeat' first
    | intro _ | assumption | apply touchVec_kept | apply putVec_kept | apply stepLfsr_kept | apply tally_kept
    | apply ite_of | apply foldl_of | apply foldl_snd_of | apply foldl_fst_of | extract_lets | split
    | simp only [kept_mk_iff] | simp only [kept_mkBelfry_iff] | simp +zetaDelta only [kept_mk_iff]
    | simp +zetaDelta only [kept_mkBelfry_iff]

theorem State.updated_kept {s0 s : State} (h : s0.Kept s) (sl j : Nat) (i : Inst) (ns bad : List Nat) (next : Nat) :
    s0.Kept (State.updated s sl j i ns bad next) := by
  unfold State.updated
  with_reducible repeat' first
    | intro _ | assumption | apply modInst_kept | apply metPoison_kept | apply strikeHalt_kept | apply ite_of
    | apply foldl_of | apply foldl_snd_of | apply foldl_fst_of | extract_lets | split | simp only [kept_mk_iff]
    | simp only [kept_mkBelfry_iff] | simp +zetaDelta only [kept_mk_iff]
    | simp +zetaDelta only [kept_mkBelfry_iff]

theorem State.stepUpdate_kept {s0 s : State} (h : s0.Kept s) (sl j : Nat) (i : Inst) (t : SStep) : s0.Kept
    (State.stepUpdate s sl j i t) := by
  unfold State.stepUpdate
  with_reducible repeat' first
    | intro _ | assumption | apply strikeHalt_kept | apply updateLine_kept | apply countLines_kept
    | apply stepAdvance_kept | apply updated_kept | apply ite_of | apply foldl_of | apply foldl_snd_of
    | apply foldl_fst_of | extract_lets | split | simp only [kept_mk_iff] | simp only [kept_mkBelfry_iff]
    | simp +zetaDelta only [kept_mk_iff] | simp +zetaDelta only [kept_mkBelfry_iff]

theorem State.macBank_kept {s0 s : State} (h : s0.Kept s) (sl j : Nat) (i : Inst) (os : List Operand) (b : Nat) (x
    : BankNext) (line : Line × WordEn) (acts : List (Nat × Bool)) : s0.Kept
    (State.macBank s sl j i os b x line acts) := by
  unfold State.macBank
  with_reducible repeat' first
    | intro _ | assumption | apply modInst_kept | apply contribute_kept | apply strikeHalt_kept | apply ite_of
    | split

theorem State.stepMac_kept {s0 s : State} (h : s0.Kept s) (sl j bset : Nat) (i : Inst) : s0.Kept
    (State.stepMac s sl j bset i) := by
  unfold State.stepMac
  with_reducible repeat' first
    | intro _ | assumption | apply strikeHalt_kept | apply perform_kept | apply stepAdvance_kept
    | apply metPoison_kept | apply chunkActs_kept | apply macBank_kept | apply modInst_kept
    | apply countLines_kept | apply ite_of | apply foldl_of | apply foldl_snd_of | apply foldl_fst_of
    | extract_lets | split | simp only [kept_mk_iff] | simp only [kept_mkBelfry_iff]
    | simp +zetaDelta only [kept_mk_iff] | simp +zetaDelta only [kept_mkBelfry_iff]

theorem State.strikeAway_kept {s0 s : State} (h : s0.Kept s) (sl j : Nat) (i : Inst) (t : SStep) : s0.Kept
    (State.strikeAway s sl j i t) := by
  unfold State.strikeAway
  with_reducible repeat' first
    | intro _ | assumption | apply addAcc_kept | apply takeScale_kept | apply tally_kept | apply stepLfsr_kept
    | apply wrote_kept | apply modInst_kept | apply ite_of | apply foldl_of | apply foldl_snd_of
    | apply foldl_fst_of | extract_lets | split | simp only [kept_mk_iff] | simp only [kept_mkBelfry_iff]
    | simp +zetaDelta only [kept_mk_iff] | simp +zetaDelta only [kept_mkBelfry_iff]

theorem State.reduceVec_kept {s0 s : State} (h : s0.Kept s) (sl j : Nat) (i : Inst) : s0.Kept
    (State.reduceVec s sl j i) := by
  unfold State.reduceVec
  with_reducible repeat' first
    | intro _ | assumption | apply reduceIn_kept | apply modInst_kept | apply ite_of | apply foldl_of
    | apply foldl_snd_of | apply foldl_fst_of | extract_lets | split | simp only [kept_mk_iff]
    | simp only [kept_mkBelfry_iff] | simp +zetaDelta only [kept_mk_iff]
    | simp +zetaDelta only [kept_mkBelfry_iff]

theorem State.strikePump_kept {s0 s : State} (h : s0.Kept s) (sl j k : Nat) : s0.Kept (State.strikePump s sl j k)
    := by
  induction k generalizing s with
  | zero => unfold State.strikePump; exact h
  | succ k ih =>
    unfold State.strikePump
    with_reducible repeat' first
      | intro _ | assumption | apply strikeHalt_kept | apply reduceVec_kept | apply modInst_kept
      | apply strikeAway_kept | apply settleHalt_kept | apply pump_kept | apply ih | apply ite_of | apply foldl_of
      | apply foldl_snd_of | apply foldl_fst_of | extract_lets | split | simp only [kept_mk_iff]
      | simp only [kept_mkBelfry_iff] | simp +zetaDelta only [kept_mk_iff]
      | simp +zetaDelta only [kept_mkBelfry_iff]

theorem State.wipePump_kept {s0 s : State} (h : s0.Kept s) (sl j k : Nat) : s0.Kept (State.wipePump s sl j k) := by
  induction k generalizing s with
  | zero => unfold State.wipePump; exact h
  | succ k ih =>
    unfold State.wipePump
    with_reducible repeat' first
      | intro _ | assumption | apply strikeHalt_kept | apply modInst_kept | apply settleHalt_kept | apply pump_kept
      | apply wipeNow_kept | apply ih | apply ite_of | apply foldl_of | apply foldl_snd_of | apply foldl_fst_of
      | extract_lets | split | simp only [kept_mk_iff] | simp only [kept_mkBelfry_iff]
      | simp +zetaDelta only [kept_mk_iff] | simp +zetaDelta only [kept_mkBelfry_iff]

theorem State.pumpAll_kept {s0 s : State} (h : s0.Kept s) (sl : Nat) : s0.Kept (State.pumpAll s sl) := by
  unfold State.pumpAll
  with_reducible repeat' first
    | intro _ | assumption | apply wipeNow_kept | apply each_kept | apply strikePump_kept | apply pumpSlice_kept
    | apply wipePump_kept | apply askRecords_kept | apply ite_of | split

theorem State.wipeOut_kept {s0 s : State} (h : s0.Kept s) (sl j k : Nat) : s0.Kept (State.wipeOut s sl j k) := by
  induction k generalizing s with
  | zero => unfold State.wipeOut; exact h
  | succ k ih =>
    unfold State.wipeOut
    with_reducible repeat' first
      | intro _ | assumption | apply reach_kept | apply pumpAll_kept | apply ih | apply ite_of | apply foldl_of
      | apply foldl_snd_of | apply foldl_fst_of | extract_lets | split | simp only [kept_mk_iff]
      | simp only [kept_mkBelfry_iff] | simp +zetaDelta only [kept_mk_iff]
      | simp +zetaDelta only [kept_mkBelfry_iff]

theorem State.runStep_kept {s0 s : State} (h : s0.Kept s) (sl bset : Nat) (r : Ready) : s0.Kept
    (State.runStep s sl bset r) := by
  unfold State.runStep
  with_reducible repeat' first
    | intro _ | assumption | apply stepMac_kept | apply stepRead_kept | apply stepWrite_kept
    | apply stepScale_kept | apply stepUpdate_kept | apply ite_of | split

theorem State.strikeOn_kept {s0 s : State} (h : s0.Kept s) (sl bset : Nat) : s0.Kept (State.strikeOn s sl bset)
    := by
  unfold State.strikeOn
  with_reducible repeat' first
    | intro _ | assumption | apply pumpAll_kept | apply reach_kept | apply runStep_kept | apply losers_kept
    | apply takeLane_kept | apply countSlot_kept | apply ite_of | apply foldl_of | apply foldl_snd_of
    | apply foldl_fst_of | extract_lets | split | simp only [kept_mk_iff] | simp only [kept_mkBelfry_iff]
    | simp +zetaDelta only [kept_mk_iff] | simp +zetaDelta only [kept_mkBelfry_iff]

theorem State.takeAccs_kept {s0 s : State} (h : s0.Kept s) (sl j : Nat) : s0.Kept (State.takeAccs s sl j) := by
  unfold State.takeAccs
  with_reducible repeat' first
    | intro _ | assumption | apply pumpAll_kept | apply reach_kept | apply freeAccs_kept | apply modInst_kept
    | apply wr_kept | apply ite_of | extract_lets | split | simp only [kept_mk_iff]

theorem State.adoptOut_kept {s0 s : State} (h : s0.Kept s) (sl j no : Nat) (out : Bool) : s0.Kept
    (State.adoptOut s sl j no out) := by
  unfold State.adoptOut
  with_reducible repeat' first
    | intro _ | assumption | apply ite_of | extract_lets | split | simp only [kept_mk_iff]

theorem State.pushBlock_kept {s0 s : State} (h : s0.Kept s) (sl j : Nat) (w : Word) (f : Inst → Inst) : s0.Kept
    (State.pushBlock s sl j w f) := by
  unfold State.pushBlock
  with_reducible repeat' first
    | intro _ | assumption | apply modSlot_kept | apply pushInst_kept | apply adoptOut_kept | apply nextPc_kept
    | apply ite_of | split

theorem State.blockOp_kept {s0 s : State} (h : s0.Kept s) (sl j op : Nat) : s0.Kept (State.blockOp s sl j op) := by
  unfold State.blockOp
  with_reducible repeat' first
    | intro _ | assumption | apply decode_kept | apply pushBlock_kept | apply pumpAll_kept | apply ite_of | split

theorem State.storeSeed_kept {s0 s : State} (h : s0.Kept s) (sl b : Nat) (v : Word) : s0.Kept
    (State.storeSeed s sl b v) := by
  unfold State.storeSeed
  with_reducible repeat' first
    | intro _ | assumption | apply putF_kept | apply modSlice_kept | apply ite_of | split

theorem State.modPass_kept {s0 s : State} (h : s0.Kept s) (sl : Nat) (f : ScrubPass → ScrubPass) : s0.Kept
    (State.modPass s sl f) := by
  unfold State.modPass
  with_reducible repeat' first
    | intro _ | assumption | apply modSlice_kept | apply ite_of | split

theorem State.passTest_kept {s0 s : State} (h : s0.Kept s) (sl b row : Nat) : s0.Kept (State.passTest s sl b row)
    := by
  unfold State.passTest
  with_reducible repeat' first
    | intro _ | assumption | apply queueTest_kept | apply modPass_kept | apply ite_of | split

theorem State.scrubWord_kept {s0 s : State} (h : s0.Kept s) (sl b l w8 ctx cls : Nat) : s0.Kept
    (State.scrubWord s sl b l w8 ctx cls) := by
  unfold State.scrubWord
  with_reducible repeat' first
    | intro _ | assumption | apply modPass_kept | apply noteWord_kept | apply writeBack_kept
    | apply putStored_kept | apply passTest_kept | apply ite_of | split

theorem State.scrubLine_kept {s0 s : State} (h : s0.Kept s) (sl b l ctx cls : Nat) : s0.Kept
    (State.scrubLine s sl b l ctx cls) := by
  unfold State.scrubLine
  with_reducible repeat' first
    | intro _ | assumption | apply each_kept | apply scrubWord_kept | apply ite_of | split

theorem State.beginPass_kept {s0 s : State} (h : s0.Kept s) (sl : Nat) (p : ScrubPass) : s0.Kept
    (State.beginPass s sl p) := by
  unfold State.beginPass
  with_reducible repeat' first
    | intro _ | assumption | apply modSlice_kept | apply scrubCtl_kept | apply putB_kept | apply ite_of | split

theorem State.scrubPump_kept {s0 s : State} (h : s0.Kept s) (sl : Nat) : s0.Kept (State.scrubPump s sl) := by
  unfold State.scrubPump
  with_reducible repeat' first
    | intro _ | assumption | apply beginPass_kept | apply modInst_kept | apply ite_of | extract_lets | split
    | simp only [kept_mk_iff]

theorem State.pumpEngine_kept {s0 s : State} (h : s0.Kept s) (sl : Nat) : s0.Kept (State.pumpEngine s sl) := by
  unfold State.pumpEngine
  with_reducible repeat' first
    | intro _ | assumption | apply pumpAll_kept | apply scrubPump_kept | apply ite_of | split

theorem State.runPass_kept {s0 s : State} (h : s0.Kept s) (sl : Nat) : s0.Kept (State.runPass s sl) := by
  unfold State.runPass
  with_reducible repeat' first
    | intro _ | assumption | apply modPass_kept | apply scrubLine_kept | apply strikeHalt_kept
    | apply settleHalt_kept | apply ite_of | apply foldl_of | apply foldl_snd_of | apply foldl_fst_of
    | extract_lets | split | simp only [kept_mk_iff] | simp only [kept_mkBelfry_iff]
    | simp +zetaDelta only [kept_mk_iff] | simp +zetaDelta only [kept_mkBelfry_iff]

theorem State.passBad_kept {s0 s : State} (h : s0.Kept s) (sl : Nat) : s0.Kept (State.passBad s sl) := by
  unfold State.passBad
  with_reducible repeat' first
    | intro _ | assumption | apply strikeHalt_kept | apply settleHalt_kept | apply ite_of | split

theorem State.writeSummary_kept {s0 s : State} (h : s0.Kept s) (sl j : Nat) (i : Inst) (ws : List Word) : s0.Kept
    (State.writeSummary s sl j i ws) := by
  unfold State.writeSummary
  with_reducible repeat' first
    | intro _ | assumption | apply modInst_kept | apply strikeHalt_kept | apply addAcc_kept | apply ite_of
    | apply foldl_of | apply foldl_snd_of | apply foldl_fst_of | extract_lets | split | simp only [kept_mk_iff]
    | simp only [kept_mkBelfry_iff] | simp +zetaDelta only [kept_mk_iff]
    | simp +zetaDelta only [kept_mkBelfry_iff]

theorem State.passEnds_kept {s0 s : State} (h : s0.Kept s) (sl : Nat) : s0.Kept (State.passEnds s sl) := by
  unfold State.passEnds
  with_reducible repeat' first
    | intro _ | assumption | apply pumpEngine_kept | apply reach_kept | apply modSlice_kept | apply scrubCtl_kept
    | apply wr_kept | apply writeSummary_kept | apply putB_kept | apply ite_of | apply foldl_of
    | apply foldl_snd_of | apply foldl_fst_of | extract_lets | split | simp only [kept_mk_iff]
    | simp only [kept_mkBelfry_iff] | simp +zetaDelta only [kept_mk_iff]
    | simp +zetaDelta only [kept_mkBelfry_iff]

theorem State.storeScrub_kept {r0 s : State} (h : r0.Kept s) (s0 : State) (sl : Nat) (v : Word) (ctx : Nat)
    : r0.Kept (State.storeScrub s s0 sl v ctx) := by
  unfold State.storeScrub
  with_reducible repeat' first
    | intro _ | assumption | apply scrubCtl_kept | apply storeReg_kept | apply refuseCfg_kept | apply modPass_kept
    | apply beginPass_kept | apply ite_of | split

theorem State.scrubCtl_kept {s0 s : State} (h : s0.Kept s) (sl : Nat) (v : Word) (ctx : Nat) : s0.Kept
    (State.scrubCtl s sl v ctx) := by
  unfold State.scrubCtl
  with_reducible repeat' first
    | intro _ | assumption | apply csrAccess_kept | apply storeScrub_kept | apply ite_of | split

theorem State.runPatrol_kept {s0 s : State} (h : s0.Kept s) (sl : Nat) : s0.Kept (State.runPatrol s sl) := by
  unfold State.runPatrol
  with_reducible repeat' first
    | intro _ | assumption | apply each_kept | apply scrubLine_kept | apply putF_kept | apply ite_of | split

theorem State.modXfer_kept {s0 s : State} (h : s0.Kept s) (g : Nat) (f : Xfer → Xfer) : s0.Kept
    (State.modXfer s g f) := by
  unfold State.modXfer
  with_reducible repeat' first
    | intro _ | assumption | apply ite_of | extract_lets | split | simp only [kept_mk_iff]

theorem State.noteLag_kept {s0 s : State} (h : s0.Kept s) (g : Nat) : s0.Kept (State.noteLag s g) := by
  unfold State.noteLag
  with_reducible repeat' first
    | intro _ | assumption | apply modXfer_kept | apply ite_of | split

theorem State.signalBlock_kept {s0 s : State} (h : s0.Kept s) (x : Xfer) (i : Inst) : s0.Kept
    (State.signalBlock s x i) := by
  unfold State.signalBlock
  with_reducible repeat' first
    | intro _ | assumption | apply claveSignal_kept | apply ite_of | apply foldl_of | apply foldl_snd_of
    | apply foldl_fst_of | extract_lets | split | simp only [kept_mk_iff] | simp only [kept_mkBelfry_iff]
    | simp +zetaDelta only [kept_mk_iff] | simp +zetaDelta only [kept_mkBelfry_iff]

theorem State.settleXfer_kept {s0 s : State} (h : s0.Kept s) (g : Nat) : s0.Kept (State.settleXfer s g) := by
  unfold State.settleXfer
  with_reducible repeat' first
    | intro _ | assumption | apply modXfer_kept | apply signalBlock_kept | apply modInst_kept | apply ite_of
    | apply foldl_of | apply foldl_snd_of | apply foldl_fst_of | extract_lets | split | simp only [kept_mk_iff]
    | simp only [kept_mkBelfry_iff] | simp +zetaDelta only [kept_mk_iff]
    | simp +zetaDelta only [kept_mkBelfry_iff]

theorem State.settleXfers_kept {s0 s : State} (h : s0.Kept s) (sl j : Nat) : s0.Kept (State.settleXfers s sl j)
    := by
  unfold State.settleXfers
  with_reducible repeat' first
    | intro _ | assumption | apply settleXfer_kept | apply ite_of | apply foldl_of | apply foldl_snd_of
    | apply foldl_fst_of | extract_lets | split | simp only [kept_mk_iff] | simp only [kept_mkBelfry_iff]
    | simp +zetaDelta only [kept_mk_iff] | simp +zetaDelta only [kept_mkBelfry_iff]

theorem State.dropCopy_kept {s0 s : State} (h : s0.Kept s) (id r : Nat) : s0.Kept (State.dropCopy s id r) := by
  unfold State.dropCopy
  with_reducible repeat' first
    | intro _ | assumption | apply ite_of | apply foldl_of | apply foldl_snd_of | apply foldl_fst_of
    | extract_lets | split | simp only [kept_mk_iff] | simp only [kept_mkBelfry_iff]
    | simp +zetaDelta only [kept_mk_iff] | simp +zetaDelta only [kept_mkBelfry_iff]

theorem State.strokeAck_kept {s0 s : State} (h : s0.Kept s) (r : Nat) (a : Arrived) : s0.Kept
    (State.strokeAck s r a) := by
  unfold State.strokeAck
  with_reducible repeat' first
    | intro _ | assumption | apply ite_of | apply foldl_of | apply foldl_snd_of | apply foldl_fst_of
    | extract_lets | split | simp only [kept_mk_iff] | simp only [kept_mkBelfry_iff]
    | simp +zetaDelta only [kept_mk_iff] | simp +zetaDelta only [kept_mkBelfry_iff]

theorem State.strokePerform_kept {s0 s : State} (h : s0.Kept s) (r : Nat) (a : Arrived) : s0.Kept
    (State.strokePerform s r a) := by
  unfold State.strokePerform
  with_reducible repeat' first
    | intro _ | assumption | apply perform_kept | apply strokeAck_kept | apply setHalt_kept | apply dropCopy_kept
    | apply settleHalt_kept | apply ite_of | apply foldl_of | apply foldl_snd_of | apply foldl_fst_of
    | extract_lets | split | simp only [kept_mk_iff] | simp only [kept_mkBelfry_iff]
    | simp +zetaDelta only [kept_mk_iff] | simp +zetaDelta only [kept_mkBelfry_iff]

theorem State.strokeRefused_kept {s0 s : State} (h : s0.Kept s) (r : Nat) (a : Arrived) : s0.Kept
    (State.strokeRefused s r a) := by
  unfold State.strokeRefused
  with_reducible repeat' first
    | intro _ | assumption | apply dropCopy_kept | apply modXfer_kept | apply ite_of | split

theorem State.settleStroke_kept {s0 s : State} (h : s0.Kept s) (r : Nat) (a : Arrived) : s0.Kept
    (State.settleStroke s r a) := by
  unfold State.settleStroke
  with_reducible repeat' first
    | intro _ | assumption | apply strokeRefused_kept | apply dropCopy_kept | apply ite_of | apply foldl_of
    | apply foldl_snd_of | apply foldl_fst_of | extract_lets | split | simp only [kept_mk_iff]
    | simp only [kept_mkBelfry_iff] | simp +zetaDelta only [kept_mk_iff]
    | simp +zetaDelta only [kept_mkBelfry_iff]

theorem State.settleStrokes_kept {s0 s : State} (h : s0.Kept s) (r : Nat) : s0.Kept (State.settleStrokes s r) := by
  unfold State.settleStrokes
  with_reducible repeat' first
    | intro _ | assumption | apply settleStroke_kept | apply ite_of | apply foldl_of | apply foldl_snd_of
    | apply foldl_fst_of | extract_lets | split | simp only [kept_mk_iff] | simp only [kept_mkBelfry_iff]
    | simp +zetaDelta only [kept_mk_iff] | simp +zetaDelta only [kept_mkBelfry_iff]

theorem State.landVec_kept {s0 s : State} (h : s0.Kept s) (r : Nat) (a : Arrived) : s0.Kept (State.landVec s r a)
    := by
  unfold State.landVec
  with_reducible repeat' first
    | intro _ | assumption | apply reach_kept | apply putVec_kept | apply takeLane_kept | apply dropCopy_kept
    | apply strokeAck_kept | apply ite_of | apply foldl_of | apply foldl_snd_of | apply foldl_fst_of
    | extract_lets | split | simp only [kept_mk_iff] | simp only [kept_mkBelfry_iff]
    | simp +zetaDelta only [kept_mk_iff] | simp +zetaDelta only [kept_mkBelfry_iff]

theorem State.landVecs_kept {s0 s : State} (h : s0.Kept s) (r : Nat) : s0.Kept (State.landVecs s r) := by
  unfold State.landVecs
  with_reducible repeat' first
    | intro _ | assumption | apply landVec_kept | apply ite_of | apply foldl_of | apply foldl_snd_of
    | apply foldl_fst_of | extract_lets | split | simp only [kept_mk_iff] | simp only [kept_mkBelfry_iff]
    | simp +zetaDelta only [kept_mk_iff] | simp +zetaDelta only [kept_mkBelfry_iff]

theorem State.treeWrites_kept {s0 s : State} (h : s0.Kept s) (sl j start k : Nat) : s0.Kept
    (State.treeWrites s sl j start k) := by
  induction k generalizing s with
  | zero => unfold State.treeWrites; exact h
  | succ k ih =>
    unfold State.treeWrites
    with_reducible repeat' first
      | intro _ | assumption | apply strikeHalt_kept | apply tally_kept | apply modInst_kept | apply reach_kept
      | apply putVec_kept | apply perform_kept | apply settleHalt_kept | apply stepLfsr_kept | apply landVecs_kept
      | apply takeLane_kept | apply pass_kept | apply losers_kept | apply countSlot_kept | apply countLines_kept
      | apply stepAdvance_kept | apply ih | apply ite_of | apply foldl_of | apply foldl_snd_of | apply foldl_fst_of
      | extract_lets | split | simp only [kept_mk_iff] | simp only [kept_mkBelfry_iff]
      | simp +zetaDelta only [kept_mk_iff] | simp +zetaDelta only [kept_mkBelfry_iff]

theorem State.reduceTree_kept {s0 s : State} (h : s0.Kept s) (sl j : Nat) : s0.Kept (State.reduceTree s sl j) := by
  unfold State.reduceTree
  with_reducible repeat' first
    | intro _ | assumption | apply pumpAll_kept | apply modInst_kept | apply treeWrites_kept | apply freeAccs_kept
    | apply ite_of | extract_lets | split | simp only [kept_mk_iff]

theorem State.answerFault_kept {s0 s : State} (h : s0.Kept s) (sl j : Nat) (a : SeAcc) (c : Nat) : s0.Kept
    (State.answerFault s sl j a c) := by
  unfold State.answerFault
  with_reducible repeat' first
    | intro _ | assumption | apply modSlot_kept | apply ite_of | split

theorem State.markIssued_kept {s0 s : State} (h : s0.Kept s) (sl j id : Nat) : s0.Kept (State.markIssued s sl j id)
    := by
  unfold State.markIssued
  with_reducible repeat' first
    | intro _ | assumption | apply modSlot_kept | apply ite_of | split

theorem State.accAdvance_kept {s0 s : State} (h : s0.Kept s) (sl : Nat) (a : SeAcc) : s0.Kept
    (State.accAdvance s sl a) := by
  unfold State.accAdvance
  with_reducible repeat' first
    | intro _ | assumption | apply stepAdvance_kept | apply ite_of | split

theorem State.cutAcc_kept {s0 s : State} (h : s0.Kept s) (sl j : Nat) (a : SeAcc) : s0.Kept (State.cutAcc s sl j a)
    := by
  unfold State.cutAcc
  with_reducible repeat' first
    | intro _ | assumption | apply modSlot_kept | apply ite_of | apply foldl_of | apply foldl_snd_of
    | apply foldl_fst_of | extract_lets | split | simp only [kept_mk_iff] | simp only [kept_mkBelfry_iff]
    | simp +zetaDelta only [kept_mk_iff] | simp +zetaDelta only [kept_mkBelfry_iff]

theorem State.issueAcc_kept {s0 s : State} (h : s0.Kept s) (sl j : Nat) (a : SeAcc) : s0.Kept
    (State.issueAcc s sl j a) := by
  unfold State.issueAcc
  with_reducible repeat' first
    | intro _ | assumption | apply answerFault_kept | apply cutAcc_kept | apply answer_kept
    | apply markIssued_kept | apply perform_kept | apply accAdvance_kept | apply ite_of | split

theorem State.issueCand_kept {s0 s : State} (h : s0.Kept s) (sl : Nat) (c : Cand) : s0.Kept (State.issueCand s sl c)
    := by
  unfold State.issueCand
  with_reducible repeat' first
    | intro _ | assumption | apply popPort_kept | apply modSlice_kept | apply perform_kept
    | apply strokePerform_kept | apply issueAcc_kept | apply modPort_kept | apply answer_kept
    | apply settlePort_kept | apply ite_of | split

theorem State.settleReady_kept {s0 s : State} (h : s0.Kept s) (sl : Nat) : s0.Kept (State.settleReady s sl) := by
  unfold State.settleReady
  with_reducible repeat' first
    | intro _ | assumption | apply meshNow_kept | apply settleSlice_kept | apply settleHome_kept
    | apply settleStrokes_kept | apply ite_of | split

theorem State.issueLane_kept {s0 s : State} (h : s0.Kept s) (sl bset : Nat) : s0.Kept (State.issueLane s sl bset)
    := by
  unfold State.issueLane
  with_reducible repeat' first
    | intro _ | assumption | apply settleReady_kept | apply reach_kept | apply countSlot_kept
    | apply runPatrol_kept | apply pumpEngine_kept | apply losers_kept | apply takeLane_kept | apply runPass_kept
    | apply passBad_kept | apply issueCand_kept | apply ite_of | extract_lets | split | simp only [kept_mk_iff]

theorem State.freeSent_kept {s0 s : State} (h : s0.Kept s) (sl j : Nat) (a : SeAcc) : s0.Kept
    (State.freeSent s sl j a) := by
  unfold State.freeSent
  with_reducible repeat' first
    | intro _ | assumption | apply modInst_kept | apply ite_of | apply foldl_of | apply foldl_snd_of
    | apply foldl_fst_of | extract_lets | split | simp only [kept_mk_iff] | simp only [kept_mkBelfry_iff]
    | simp +zetaDelta only [kept_mk_iff] | simp +zetaDelta only [kept_mkBelfry_iff]

theorem State.issueRemote_kept {s0 s : State} (h : s0.Kept s) (sl j point : Nat) (a : SeAcc) : s0.Kept
    (State.issueRemote s sl j point a) := by
  unfold State.issueRemote
  with_reducible repeat' first
    | intro _ | assumption | apply answerFault_kept | apply reach_kept | apply cutAcc_kept | apply pumpEngine_kept
    | apply takeLane_kept | apply markIssued_kept | apply freeSent_kept | apply sendPkt_kept
    | apply accAdvance_kept | apply ite_of | split

theorem State.issueLead_kept {s0 s : State} (h : s0.Kept s) (sl j : Nat) : s0.Kept (State.issueLead s sl j) := by
  unfold State.issueLead
  with_reducible repeat' first
    | intro _ | assumption | apply pumpEngine_kept | apply issueRemote_kept | apply ite_of | extract_lets | split
    | simp only [kept_mk_iff]

theorem State.issueFollow_kept {s0 s : State} (h : s0.Kept s) (sl j : Nat) : s0.Kept (State.issueFollow s sl j)
    := by
  unfold State.issueFollow
  with_reducible repeat' first
    | intro _ | assumption | apply pumpEngine_kept | apply issueRemote_kept | apply ite_of | extract_lets | split
    | simp only [kept_mk_iff]

theorem State.issuePort_kept {s0 s : State} (h : s0.Kept s) (sl p : Nat) : s0.Kept (State.issuePort s sl p) := by
  unfold State.issuePort
  with_reducible repeat' first
    | intro _ | assumption | apply settlePort_kept | apply reach_kept | apply popPort_kept | apply sendPkt_kept
    | apply modPort_kept | apply ite_of | extract_lets | split | simp only [kept_mk_iff]

theorem State.issueVecRead_kept {s0 s : State} (h : s0.Kept s) (sl j : Nat) : s0.Kept (State.issueVecRead s sl j)
    := by
  unfold State.issueVecRead
  with_reducible repeat' first
    | intro _ | assumption | apply pumpEngine_kept | apply reach_kept | apply touchVec_kept | apply answer_kept
    | apply takeLane_kept | apply markIssued_kept | apply ite_of | extract_lets | split | simp only [kept_mk_iff]

theorem State.vecUpdates_kept {s0 s : State} (h : s0.Kept s) (sl j : Nat) (i : Inst) (a : SeAcc) : s0.Kept
    (State.vecUpdates s sl j i a) := by
  unfold State.vecUpdates
  with_reducible repeat' first
    | intro _ | assumption | apply updateVec_kept | apply updated_kept | apply ite_of | apply foldl_of
    | apply foldl_snd_of | apply foldl_fst_of | extract_lets | split | simp only [kept_mk_iff]
    | simp only [kept_mkBelfry_iff] | simp +zetaDelta only [kept_mk_iff]
    | simp +zetaDelta only [kept_mkBelfry_iff]

theorem State.issueVecWrite_kept {s0 s : State} (h : s0.Kept s) (sl j : Nat) : s0.Kept (State.issueVecWrite s sl j)
    := by
  unfold State.issueVecWrite
  with_reducible repeat' first
    | intro _ | assumption | apply pumpEngine_kept | apply reach_kept | apply takeLane_kept | apply answer_kept
    | apply vecUpdates_kept | apply putVec_kept | apply landVecs_kept | apply markIssued_kept
    | apply freeSent_kept | apply ite_of | apply foldl_of | apply foldl_snd_of | apply foldl_fst_of | extract_lets
    | split | simp only [kept_mk_iff] | simp only [kept_mkBelfry_iff] | simp +zetaDelta only [kept_mk_iff]
    | simp +zetaDelta only [kept_mkBelfry_iff]

theorem State.issueHost_kept {s0 s : State} (h : s0.Kept s) (sl j : Nat) (write : Bool) : s0.Kept
    (State.issueHost s sl j write) := by
  unfold State.issueHost
  with_reducible repeat' first
    | intro _ | assumption | apply pumpEngine_kept | apply reach_kept | apply launchOut_kept
    | apply markIssued_kept | apply ite_of | extract_lets | split | simp only [kept_mk_iff]

theorem State.issueAt_kept {s0 s : State} (h : s0.Kept s) (sl : Nat) (k : IssuePoint) : s0.Kept
    (State.issueAt s sl k) := by
  unfold State.issueAt
  with_reducible repeat' first
    | intro _ | assumption | apply issueLane_kept | apply issueVecRead_kept | apply issueVecWrite_kept
    | apply issuePort_kept | apply issueLead_kept | apply issueFollow_kept | apply issueHost_kept | apply ite_of
    | split

theorem State.reissue_kept {s0 s : State} (h : s0.Kept s) (sl j : Nat) : s0.Kept (State.reissue s sl j) := by
  unfold State.reissue
  with_reducible repeat' first
    | intro _ | assumption | apply reach_kept | apply modSlot_kept | apply pumpEngine_kept | apply ite_of | split

theorem State.outLeaves_kept {s0 s : State} (h : s0.Kept s) (sl : Nat) (o : FpOut) : s0.Kept
    (State.outLeaves s sl o) := by
  unfold State.outLeaves
  with_reducible repeat' first
    | intro _ | assumption | apply reach_kept | apply fpShow_kept | apply takeLane_kept | apply launchOut_kept
    | apply ite_of | extract_lets | split | simp only [kept_mk_iff]

theorem State.resendOut_kept {s0 s : State} (h : s0.Kept s) (sl j : Nat) : s0.Kept (State.resendOut s sl j) := by
  unfold State.resendOut
  with_reducible repeat' first
    | intro _ | assumption | apply reach_kept | apply outLeaves_kept | apply ite_of | split

theorem State.guardRetry_kept {s0 s : State} (h : s0.Kept s) (sl j : Nat) : s0.Kept (State.guardRetry s sl j) := by
  unfold State.guardRetry
  with_reducible repeat' first
    | intro _ | assumption | apply pumpEngine_kept | apply issueRemote_kept | apply reach_kept
    | apply issueAcc_kept | apply losers_kept | apply takeLane_kept | apply countSlot_kept | apply ite_of
    | extract_lets | split | simp only [kept_mk_iff]

theorem State.requestArrives_kept {s0 s : State} (h : s0.Kept s) (k : Nat) : s0.Kept (State.requestArrives s k)
    := by
  unfold State.requestArrives
  with_reducible repeat' first
    | intro _ | assumption | exact meshEvent_some_kept (by assumption) (by assumption) | apply meshEvent_kept
    | apply wakeFor_kept | apply answer_kept | apply performClave_kept | apply modSlice_kept | apply ite_of
    | apply foldl_of | apply foldl_snd_of | apply foldl_fst_of | extract_lets | split | simp only [kept_mk_iff]
    | simp only [kept_mkBelfry_iff] | simp +zetaDelta only [kept_mk_iff]
    | simp +zetaDelta only [kept_mkBelfry_iff]

theorem State.responseArrives_kept {s0 s : State} (h : s0.Kept s) (k : Nat) : s0.Kept (State.responseArrives s k)
    := by
  unfold State.responseArrives
  with_reducible repeat' first
    | intro _ | assumption | exact meshEvent_some_kept (by assumption) (by assumption) | apply meshEvent_kept
    | apply deliver_kept | apply pumpEngine_kept | apply ite_of | extract_lets | split | simp only [kept_mk_iff]

theorem State.releaseBurst_kept {s0 s : State} (h : s0.Kept s) (sl out : Nat) : s0.Kept
    (State.releaseBurst s sl out) := by
  unfold State.releaseBurst
  with_reducible repeat' first
    | intro _ | assumption | exact meshEvent_some_kept (by assumption) (by assumption) | apply meshEvent_kept
    | apply burst_kept | apply ite_of | extract_lets | split | simp only [kept_mk_iff]

theorem State.windowStart_kept {s0 s : State} (h : s0.Kept s)  : s0.Kept (State.windowStart s) := by
  unfold State.windowStart
  with_reducible repeat' first
    | intro _ | assumption | apply reach_kept | apply each_kept | apply modSlice_kept | apply ite_of
    | extract_lets | split | simp only [kept_mk_iff]

theorem State.storeShare_kept {r0 s : State} (h : r0.Kept s) (s0 : State) (c : Nat) (v : Word) (ctx : Nat) : r0.Kept
    (State.storeShare s s0 c v ctx) := by
  unfold State.storeShare
  with_reducible repeat' first
    | intro _ | assumption | apply meshNow_kept | apply storeReg_kept | apply refuseCfg_kept | apply ite_of
    | split

theorem State.shareWrite_kept {s0 s : State} (h : s0.Kept s) (c : Nat) (v : Word) (ctx : Nat) : s0.Kept
    (State.shareWrite s c v ctx) := by
  unfold State.shareWrite
  with_reducible repeat' first
    | intro _ | assumption | apply csrAccess_kept | apply storeShare_kept | apply ite_of | split

theorem State.mcastInstr_kept {s0 s : State} (h : s0.Kept s) (sl j : Nat) (w : Word) : s0.Kept
    (State.mcastInstr s sl j w) := by
  unfold State.mcastInstr
  with_reducible repeat' first
    | intro _ | assumption | apply haltAtPc_kept | apply pushBlock_kept | apply count_kept | apply ite_of
    | extract_lets | split | simp only [kept_mk_iff]

theorem State.mcastBlockEnd_kept {s0 s : State} (h : s0.Kept s) (x : Xfer) (i : Inst) : s0.Kept
    (State.mcastBlockEnd s x i) := by
  unfold State.mcastBlockEnd
  with_reducible repeat' first
    | intro _ | assumption | apply modXfer_kept | apply modInst_kept | apply settleXfer_kept | apply ite_of
    | split

theorem State.sendStroke_kept {s0 s : State} (h : s0.Kept s) (x : Xfer) (k : Stroke) (rs : List Nat) (burst : Nat)
    (last : Bool) : s0.Kept (State.sendStroke s x k rs burst last).2 := by
  unfold State.sendStroke
  with_reducible repeat' first
    | intro _ | assumption | apply launch_kept | apply ite_of | apply foldl_of | apply foldl_snd_of
    | apply foldl_fst_of | extract_lets | split | simp only [kept_mk_iff] | simp only [kept_mkBelfry_iff]
    | simp +zetaDelta only [kept_mk_iff] | simp +zetaDelta only [kept_mkBelfry_iff]

theorem State.strokeSend_kept {s0 s : State} (h : s0.Kept s) (g k : Nat) : s0.Kept (State.strokeSend s g k) := by
  induction k generalizing s with
  | zero => unfold State.strokeSend; exact h
  | succ k ih =>
    unfold State.strokeSend
    with_reducible repeat' first
      | intro _ | assumption | apply mcastBlockEnd_kept | apply strikeHalt_kept | apply reach_kept
      | apply sendStroke_kept | apply burst_kept | apply stepAdvance_kept | apply modInst_kept | apply noteLag_kept
      | apply settleHalt_kept | apply takeLane_kept | apply modXfer_kept | apply settleXfer_kept
      | apply pumpEngine_kept | apply ih | apply ite_of | apply foldl_of | apply foldl_snd_of | apply foldl_fst_of
      | extract_lets | split | simp only [kept_mk_iff] | simp only [kept_mkBelfry_iff]
      | simp +zetaDelta only [kept_mk_iff] | simp +zetaDelta only [kept_mkBelfry_iff]

theorem State.strokeComes_some_kept {s0 s t : State} {g r : Nat} {a : Arrived} (e : s.strokeComes g r = some (a, t))
    (h : s0.Kept s) : s0.Kept t := by
  unfold State.strokeComes at e
  dsimp only at e
  split at e
  · cases e
  · split at e
    · obtain ⟨a', -, hr⟩ := Option.map_eq_some_iff.1 e
      cases hr
      exact State.meshEvent_some_kept (by assumption) h
    · cases e

theorem State.strokeWrite_kept {s0 s : State} (h : s0.Kept s) (r : Nat) (a : Arrived) (k : Nat) : s0.Kept
    (State.strokeWrite s r a k) := by
  induction k generalizing s with
  | zero => unfold State.strokeWrite; exact h
  | succ k ih =>
    unfold State.strokeWrite
    with_reducible repeat' first
      | intro _ | assumption | apply reach_kept | apply countSlot_kept | apply losers_kept | apply takeLane_kept
      | apply issueCand_kept | apply pumpEngine_kept | apply ih | apply ite_of | apply foldl_of | apply foldl_snd_of
      | apply foldl_fst_of | extract_lets | split | simp only [kept_mk_iff] | simp only [kept_mkBelfry_iff]
      | simp +zetaDelta only [kept_mk_iff] | simp +zetaDelta only [kept_mkBelfry_iff]

theorem State.strokeLand_kept {s0 s : State} (h : s0.Kept s) (g r : Nat) : s0.Kept (State.strokeLand s g r) := by
  unfold State.strokeLand
  with_reducible repeat' first
    | intro _ | assumption | exact strokeComes_some_kept (by assumption) (by assumption) | apply wakeFor_kept
    | apply settleReady_kept | apply landVec_kept | apply strokeWrite_kept | apply ite_of | apply foldl_of
    | apply foldl_snd_of | apply foldl_fst_of | extract_lets | split | simp only [kept_mk_iff]
    | simp only [kept_mkBelfry_iff] | simp +zetaDelta only [kept_mk_iff]
    | simp +zetaDelta only [kept_mkBelfry_iff]

theorem State.ackMerge_kept {s0 s : State} (h : s0.Kept s) (g n : Nat) : s0.Kept (State.ackMerge s g n) := by
  unfold State.ackMerge
  with_reducible repeat' first
    | intro _ | assumption | exact meshEvent_some_kept (by assumption) (by assumption) | apply meshEvent_kept
    | apply modXfer_kept | apply noteLag_kept | apply settleXfer_kept | apply pumpEngine_kept | apply ite_of
    | apply foldl_of | apply foldl_snd_of | apply foldl_fst_of | extract_lets | split | simp only [kept_mk_iff]
    | simp only [kept_mkBelfry_iff] | simp +zetaDelta only [kept_mk_iff]
    | simp +zetaDelta only [kept_mkBelfry_iff]

theorem State.resendTo_kept {s0 s : State} (h : s0.Kept s) (x : Xfer) (r : Nat) : s0.Kept (State.resendTo s x r)
    := by
  unfold State.resendTo
  with_reducible repeat' first
    | intro _ | assumption | apply sendStroke_kept | apply modXfer_kept | apply ite_of | apply foldl_of
    | apply foldl_snd_of | apply foldl_fst_of | extract_lets | split | simp only [kept_mk_iff]
    | simp only [kept_mkBelfry_iff] | simp +zetaDelta only [kept_mk_iff]
    | simp +zetaDelta only [kept_mkBelfry_iff]

theorem State.strokeResend_kept {s0 s : State} (h : s0.Kept s) (g : Nat) : s0.Kept (State.strokeResend s g) := by
  unfold State.strokeResend
  with_reducible repeat' first
    | intro _ | assumption | apply reach_kept | apply resendTo_kept | apply modXfer_kept | apply ite_of
    | apply foldl_of | apply foldl_snd_of | apply foldl_fst_of | extract_lets | split | simp only [kept_mk_iff]
    | simp only [kept_mkBelfry_iff] | simp +zetaDelta only [kept_mk_iff]
    | simp +zetaDelta only [kept_mkBelfry_iff]

theorem State.shed_kept {s0 s : State} (h : s0.Kept s) (g r : Nat) : s0.Kept (State.shed s g r) := by
  unfold State.shed
  with_reducible repeat' first
    | intro _ | assumption | apply reach_kept | apply slotRec_kept | apply putB_kept | apply modXfer_kept
    | apply settleXfer_kept | apply count_kept | apply pumpEngine_kept | apply ite_of | split

theorem State.dropAcc_kept {s0 s : State} (h : s0.Kept s) (sl j id : Nat) : s0.Kept (State.dropAcc s sl j id) := by
  unfold State.dropAcc
  with_reducible repeat' first
    | intro _ | assumption | apply modSlot_kept | apply ite_of | split

theorem State.holdAcc_kept {s0 s : State} (h : s0.Kept s) (sl j id : Nat) : s0.Kept (State.holdAcc s sl j id) := by
  unfold State.holdAcc
  with_reducible repeat' first
    | intro _ | assumption | apply modSlot_kept | apply ite_of | split

theorem State.keepLines_kept {s0 s : State} (h : s0.Kept s) (sl j : Nat) (a : SeAcc) (r : Resp) (l : List
    ((Nat × Line × WordEn) × Nat)) : s0.Kept (State.keepLines s sl j a r l) := by
  unfold State.keepLines
  with_reducible repeat' first
    | intro _ | assumption | apply modInst_kept | apply ite_of | split

theorem State.keepRead_kept {s0 s : State} (h : s0.Kept s) (sl j : Nat) (a : SeAcc) (r : Resp) : s0.Kept
    (State.keepRead s sl j a r) := by
  unfold State.keepRead
  with_reducible repeat' first
    | intro _ | assumption | apply keepLines_kept | apply ite_of | split

theorem State.readAnswer_kept {s0 s : State} (h : s0.Kept s) (sl j : Nat) (a : SeAcc) (r : Resp) : s0.Kept
    (State.readAnswer s sl j a r) := by
  unfold State.readAnswer
  with_reducible repeat' first
    | intro _ | assumption | apply dropAcc_kept | apply setHalt_kept | apply keepRead_kept | apply holdAcc_kept
    | apply keepLines_kept | apply slotRec_kept | apply ite_of | split

theorem State.writeAnswer_kept {s0 s : State} (h : s0.Kept s) (sl j : Nat) (a : SeAcc) (r : Resp) : s0.Kept
    (State.writeAnswer s sl j a r) := by
  unfold State.writeAnswer
  with_reducible repeat' first
    | intro _ | assumption | apply dropAcc_kept | apply modInst_kept | apply holdAcc_kept | apply setHalt_kept
    | apply ite_of | split

theorem State.signalAnswer_kept {s0 s : State} (h : s0.Kept s) (sl j : Nat) (a : SeAcc) (r : Resp) : s0.Kept
    (State.signalAnswer s sl j a r) := by
  unfold State.signalAnswer
  with_reducible repeat' first
    | intro _ | assumption | apply dropAcc_kept | apply modInst_kept | apply holdAcc_kept | apply setHalt_kept
    | apply ite_of | split

theorem State.accAnswer_kept {s0 s : State} (h : s0.Kept s) (sl j k : Nat) : s0.Kept (State.accAnswer s sl j k)
    := by
  unfold State.accAnswer
  with_reducible repeat' first
    | intro _ | assumption | apply reach_kept | apply dropAcc_kept | apply readAnswer_kept
    | apply writeAnswer_kept | apply signalAnswer_kept | apply pumpEngine_kept | apply ite_of | split

theorem State.fetchArrives_kept {s0 s : State} (h : s0.Kept s) (sl j : Nat) : s0.Kept (State.fetchArrives s sl j)
    := by
  unfold State.fetchArrives
  with_reducible repeat' first
    | intro _ | assumption | apply pumpEngine_kept | apply reach_kept | apply dropAcc_kept | apply modSlot_kept
    | apply holdAcc_kept | apply ite_of | extract_lets | split | simp only [kept_mk_iff]

theorem State.descArrives_kept {s0 s : State} (h : s0.Kept s) (sl j : Nat) : s0.Kept (State.descArrives s sl j)
    := by
  unfold State.descArrives
  with_reducible repeat' first
    | intro _ | assumption | apply pumpEngine_kept | apply reach_kept | apply dropAcc_kept | apply holdAcc_kept
    | apply modSlot_kept | apply ite_of | extract_lets | split | simp only [kept_mk_iff]

theorem State.closeTag_kept {s0 s : State} (h : s0.Kept s) (sl j : Nat) : s0.Kept (State.closeTag s sl j) := by
  unfold State.closeTag
  with_reducible repeat' first
    | intro _ | assumption | apply putB_kept | apply putF_kept | apply ite_of | split

theorem State.retire_kept {s0 s : State} (h : s0.Kept s) (sl j : Nat) : s0.Kept (State.retire s sl j) := by
  unfold State.retire
  with_reducible repeat' first
    | intro _ | assumption | apply pumpEngine_kept | apply wipeOut_kept | apply reach_kept | apply dropHead_kept
    | apply endXfers_kept | apply count_kept | apply closeTag_kept | apply releaseAccs_kept
    | apply deadlineMet_kept | apply settleXfers_kept | apply ite_of | extract_lets | split
    | simp only [kept_mk_iff]

end Sys2Proof.Machine
end

