-- ==== Sys2Proof/Laws/KeptGlobal.lean ====
section
/-! SUPPORT. Every operation keeps what no command changes. -/

set_option linter.unusedSimpArgs false

namespace Sys2Proof.Machine

open State

theorem State.setTag_kept {s0 s : State} (h : s0.Kept s) (sl j g : Nat) : s0.Kept (State.setTag s sl j g) := by
  unfold State.setTag
  with_reducible repeat' first
    | intro _ | assumption | apply putF_kept | apply putB_kept | apply ite_of | split

theorem State.outSend_kept {s0 s : State} (h : s0.Kept s) (sl j : Nat) (i : Inst) (dst src : Operand) (g : List Nat)
    (last : Bool) (rid : Nat) : s0.Kept (State.outSend s sl j i dst src g last rid) := by
  unfold State.outSend
  with_reducible repeat' first
    | intro _ | assumption | apply setTag_kept | apply putF_kept | apply modInst_kept | apply outLeaves_kept
    | apply pumpEngine_kept | apply ite_of | split

theorem State.outFault_kept {s0 s : State} (h : s0.Kept s) (sl j : Nat) (i : Inst) (n code : Nat) : s0.Kept
    (State.outFault s sl j i n code) := by
  unfold State.outFault
  with_reducible repeat' first
    | intro _ | assumption | apply setHalt_kept | apply settleHalt_kept | apply ite_of | split

theorem State.packetSend_kept {s0 s : State} (h : s0.Kept s) (sl j : Nat) : s0.Kept (State.packetSend s sl j) := by
  unfold State.packetSend
  with_reducible repeat' first
    | intro _ | assumption | apply pumpEngine_kept | apply outFault_kept | apply outSend_kept | apply ite_of
    | extract_lets | split | simp only [kept_mk_iff]

theorem State.absorb_kept {s0 s : State} (h : s0.Kept s)  : s0.Kept (State.absorb s) := by
  unfold State.absorb
  with_reducible repeat' first
    | intro _ | assumption | apply count_kept | apply ite_of | split

theorem State.absorbRsp_kept {s0 s : State} (h : s0.Kept s)  : s0.Kept (State.absorbRsp s) := by
  unfold State.absorbRsp
  with_reducible repeat' first
    | intro _ | assumption | apply absorb_kept | apply lateResponse_kept | apply ite_of | split

theorem State.putOut_kept {s0 s : State} (h : s0.Kept s) (o : FpOut) (f : FpOut → Option FpOut) : s0.Kept
    (State.putOut s o f) := by
  unfold State.putOut
  with_reducible repeat' first
    | intro _ | assumption | apply ite_of | extract_lets | split | simp only [kept_mk_iff]

theorem State.outDoneLines_kept {s0 s : State} (h : s0.Kept s) (sl j no : Nat) (o : FpOut) : s0.Kept
    (State.outDoneLines s sl j no o) := by
  unfold State.outDoneLines
  with_reducible repeat' first
    | intro _ | assumption | apply count_kept | apply modInst_kept | apply ite_of | split

theorem State.outAnswer_kept {s0 s : State} (h : s0.Kept s) (o : FpOut) (code : Nat) : s0.Kept
    (State.outAnswer s o code) := by
  unfold State.outAnswer
  with_reducible repeat' first
    | intro _ | assumption | apply putOut_kept | apply outDoneLines_kept | apply pumpEngine_kept
    | apply setHalt_kept | apply ite_of | split

theorem State.fpTake_kept {s0 s : State} (h : s0.Kept s) (f : State → State) (hf : ∀ t : State, s0.Kept t → s0.Kept
    (f t)) : s0.Kept (State.fpTake s f) := by
  unfold State.fpTake
  with_reducible repeat' first
    | intro _ | assumption | apply wake_kept | apply ite_of | apply foldl_of | apply foldl_snd_of
    | apply foldl_fst_of | extract_lets | split | simp only [kept_mk_iff] | simp only [kept_mkBelfry_iff]
    | simp +zetaDelta only [kept_mk_iff] | simp +zetaDelta only [kept_mkBelfry_iff] | apply hf

theorem State.fpPerform_kept {s0 s : State} (h : s0.Kept s) (p : Packet) (l : List (Nat × Spot)) : s0.Kept
    (State.fpPerform s p l) := by
  unfold State.fpPerform
  with_reducible repeat' first
    | intro _ | assumption | apply fpAnswer_kept | apply sendParts_kept | apply ite_of | apply foldl_of
    | apply foldl_snd_of | apply foldl_fst_of | extract_lets | split | simp only [kept_mk_iff]
    | simp only [kept_mkBelfry_iff] | simp +zetaDelta only [kept_mk_iff]
    | simp +zetaDelta only [kept_mkBelfry_iff]

theorem State.fpOpens_kept {s0 s : State} (h : s0.Kept s) (p : Packet) : s0.Kept (State.fpOpens s p) := by
  unfold State.fpOpens
  with_reducible repeat' first
    | intro _ | assumption | apply putTag_kept | apply ite_of | split

theorem State.fpRequest_kept {s0 s : State} (h : s0.Kept s) (p : Packet) : s0.Kept (State.fpRequest s p) := by
  unfold State.fpRequest
  with_reducible repeat' first
    | intro _ | assumption | apply fpAnswer_kept | apply fpOpens_kept | apply fpPerform_kept | apply ite_of
    | split

theorem State.storeWinCtl_kept {r0 s : State} (h : r0.Kept s) (s0 : State) (w : Nat) (v : Word) (ctx : Nat)
    : r0.Kept (State.storeWinCtl s s0 w v ctx) := by
  unfold State.storeWinCtl
  with_reducible repeat' first
    | intro _ | assumption | apply storeReg_kept | apply refuseCfg_kept | apply dropTags_kept | apply setWin_kept
    | apply ite_of | extract_lets | split | simp only [kept_mk_iff]

theorem State.storeWin_kept {r0 s : State} (h : r0.Kept s) (s0 : State) (w a : Nat) (v : Word) (ctx : Nat) : r0.Kept
    (State.storeWin s s0 w a v ctx) := by
  unfold State.storeWin
  with_reducible repeat' first
    | intro _ | assumption | apply storeReg_kept | apply ite_of | split

theorem State.winDrained_kept {s0 s : State} (h : s0.Kept s) (w : Nat) : s0.Kept (State.winDrained s w) := by
  unfold State.winDrained
  with_reducible repeat' first
    | intro _ | assumption | apply closeWindow_kept | apply ite_of | split

theorem State.winTimeout_kept {s0 s : State} (h : s0.Kept s) (w : Nat) : s0.Kept (State.winTimeout s w) := by
  unfold State.winTimeout
  with_reducible repeat' first
    | intro _ | assumption | apply reach_kept | apply closeWindow_kept | apply raiseIrq_kept | apply ite_of
    | split

theorem State.storeChipId_kept {r0 s : State} (h : r0.Kept s) (s0 : State) (v : Word) (ctx : Nat) : r0.Kept
    (State.storeChipId s s0 v ctx) := by
  unfold State.storeChipId
  with_reducible repeat' first
    | intro _ | assumption | apply storeReg_kept | apply putB_kept | apply ite_of | split

theorem State.storeKnell_kept {s0 s : State} (h : s0.Kept s) (v : Word) (ctx : Nat) : s0.Kept
    (State.storeKnell s v ctx) := by
  unfold State.storeKnell
  with_reducible repeat' first
    | intro _ | assumption | apply storeReg_kept | apply queueKnell_kept | apply putB_kept | apply ite_of | split

theorem State.freeKill_kept {s0 s : State} (h : s0.Kept s)  : s0.Kept (State.freeKill s) := by
  unfold State.freeKill
  with_reducible repeat' first
    | intro _ | assumption | apply killK1_kept | apply ite_of | split

theorem State.knellSend_kept {s0 s : State} (h : s0.Kept s)  : s0.Kept (State.knellSend s) := by
  unfold State.knellSend
  with_reducible repeat' first
    | intro _ | assumption | apply fpShow_kept | apply count_kept | apply putB_kept | apply freeKill_kept
    | apply ite_of | extract_lets | split | simp only [kept_mk_iff]

theorem State.receiveKnell_kept {s0 s : State} (h : s0.Kept s) (p : Packet) : s0.Kept (State.receiveKnell s p) := by
  unfold State.receiveKnell
  with_reducible repeat' first
    | intro _ | assumption | apply wr_kept | apply count_kept | apply raiseIrq_kept | apply closeWindows_kept
    | apply killJob_kept | apply ite_of | split

theorem State.releaseKnells_kept {s0 s : State} (h : s0.Kept s)  : s0.Kept (State.releaseKnells s) := by
  unfold State.releaseKnells
  with_reducible repeat' first
    | intro _ | assumption | apply receiveKnell_kept | apply ite_of | apply foldl_of | apply foldl_snd_of
    | apply foldl_fst_of | extract_lets | split | simp only [kept_mk_iff] | simp only [kept_mkBelfry_iff]
    | simp +zetaDelta only [kept_mk_iff] | simp +zetaDelta only [kept_mkBelfry_iff]

theorem State.knellIn_kept {s0 s : State} (h : s0.Kept s) (p : Packet) : s0.Kept (State.knellIn s p) := by
  unfold State.knellIn
  with_reducible repeat' first
    | intro _ | assumption | apply absorb_kept | apply pass_kept | apply receiveKnell_kept | apply wakeAll_kept
    | apply ite_of | extract_lets | split | simp only [kept_mk_iff]

theorem State.storePair_kept {s0 s : State} (h : s0.Kept s) (sl n : Nat) (v : Word) (ctx : Nat) : s0.Kept
    (State.storePair s sl n v ctx) := by
  unfold State.storePair
  with_reducible repeat' first
    | intro _ | assumption | apply claveTime_kept | apply storeReg_kept | apply ite_of | split

theorem State.reportPair_kept {s0 s : State} (h : s0.Kept s) (sl n : Nat) (taken : Bool) : s0.Kept
    (State.reportPair s sl n taken) := by
  unfold State.reportPair
  with_reducible repeat' first
    | intro _ | assumption | apply wr_kept | apply ite_of | split

theorem State.semSignal_kept {s0 s : State} (h : s0.Kept s) (sl : Nat) (v : Word) : s0.Kept (State.semSignal s sl v)
    := by
  unfold State.semSignal
  with_reducible repeat' first
    | intro _ | assumption | apply claveSignal_kept | apply reportPair_kept | apply ite_of | split

theorem State.semTake_kept {s0 s : State} (h : s0.Kept s) (sl : Nat) (v : Word) : s0.Kept (State.semTake s sl v)
    := by
  unfold State.semTake
  with_reducible repeat' first
    | intro _ | assumption | apply blockingTakes_kept | apply claveTake_kept | apply reportPair_kept
    | apply ite_of | split

theorem State.countUnread_kept {s0 s : State} (h : s0.Kept s)  : s0.Kept (State.countUnread s) := by
  unfold State.countUnread
  with_reducible repeat' first
    | intro _ | assumption | apply putF_kept | apply count_kept | apply ite_of | split

theorem State.ringWrite_kept {s0 s : State} (h : s0.Kept s) (r : ErrRec) : s0.Kept (State.ringWrite s r) := by
  unfold State.ringWrite
  with_reducible repeat' first
    | intro _ | assumption | apply countUnread_kept | apply count_kept | apply putB_kept | apply raiseIrq_kept
    | apply ite_of | extract_lets | split | simp only [kept_mk_iff]

theorem State.recordWrite_kept {s0 s : State} (h : s0.Kept s)  : s0.Kept (State.recordWrite s) := by
  unfold State.recordWrite
  with_reducible repeat' first
    | intro _ | assumption | apply ringWrite_kept | apply each_kept | apply flushSlice_kept | apply ite_of
    | extract_lets | split | simp only [kept_mk_iff]

theorem State.ceEnds_kept {s0 s : State} (h : s0.Kept s) (sl : Nat) : s0.Kept (State.ceEnds s sl) := by
  unfold State.ceEnds
  with_reducible repeat' first
    | intro _ | assumption | apply reach_kept | apply modSlice_kept | apply flushSlice_kept | apply ite_of | split

theorem State.storeErrRd_kept {s0 s : State} (h : s0.Kept s) (v : Word) (ctx : Nat) : s0.Kept
    (State.storeErrRd s v ctx) := by
  unfold State.storeErrRd
  with_reducible repeat' first
    | intro _ | assumption | apply storeReg_kept | apply putF_kept | apply ite_of | split

theorem State.storeErrStat_kept {s0 s : State} (h : s0.Kept s) (v : Word) (ctx : Nat) : s0.Kept
    (State.storeErrStat s v ctx) := by
  unfold State.storeErrStat
  with_reducible repeat' first
    | intro _ | assumption | apply storeReg_kept | apply putB_kept | apply ite_of | extract_lets | split
    | simp only [kept_mk_iff]

theorem State.storeErrCfg_kept {s0 s : State} (h : s0.Kept s) (v : Word) (ctx : Nat) : s0.Kept
    (State.storeErrCfg s v ctx) := by
  unfold State.storeErrCfg
  with_reducible repeat' first
    | intro _ | assumption | apply storeReg_kept | apply ite_of | split

theorem State.toBar_kept {s0 s : State} (h : s0.Kept s) (since : Nat) : s0.Kept (State.toBar s since) := by
  unfold State.toBar
  with_reducible repeat' first
    | intro _ | assumption | apply reach_kept | apply ite_of | split

theorem State.beatAnomaly_kept {s0 s : State} (h : s0.Kept s) (bit : Nat) : s0.Kept (State.beatAnomaly s bit) := by
  unfold State.beatAnomaly
  with_reducible repeat' first
    | intro _ | assumption | apply putB_kept | apply raiseIrq_kept | apply ite_of | split

theorem State.beatAccept_kept {s0 s : State} (h : s0.Kept s) (n : Nat) : s0.Kept (State.beatAccept s n) := by
  unfold State.beatAccept
  with_reducible repeat' first
    | intro _ | assumption | apply ite_of | extract_lets | split | simp only [kept_mk_iff]

theorem State.beatJudge_kept {s0 s : State} (h : s0.Kept s) (n : Nat) : s0.Kept (State.beatJudge s n) := by
  unfold State.beatJudge
  with_reducible repeat' first
    | intro _ | assumption | apply beatAccept_kept | apply beatAnomaly_kept | apply ite_of | apply foldl_of
    | apply foldl_snd_of | apply foldl_fst_of | extract_lets | split | simp only [kept_mk_iff]
    | simp only [kept_mkBelfry_iff] | simp +zetaDelta only [kept_mk_iff]
    | simp +zetaDelta only [kept_mkBelfry_iff]

theorem State.beatStrobe_kept {s0 s : State} (h : s0.Kept s) (n : Nat) : s0.Kept (State.beatStrobe s n) := by
  unfold State.beatStrobe
  with_reducible repeat' first
    | intro _ | assumption | apply beatJudge_kept | apply ite_of | apply foldl_of | apply foldl_snd_of
    | apply foldl_fst_of | extract_lets | split | simp only [kept_mk_iff] | simp only [kept_mkBelfry_iff]
    | simp +zetaDelta only [kept_mk_iff] | simp +zetaDelta only [kept_mkBelfry_iff]

theorem State.measure_kept {s0 s : State} (h : s0.Kept s) (mhz : Nat) : s0.Kept (State.measure s mhz) := by
  unfold State.measure
  with_reducible repeat' first
    | intro _ | assumption | apply putF_kept | apply putB_kept | apply ite_of | extract_lets | split
    | simp only [kept_mk_iff]

theorem State.changeM_kept {s0 s : State} (h : s0.Kept s)  : s0.Kept (State.changeM s) := by
  unfold State.changeM
  with_reducible repeat' first
    | intro _ | assumption | apply toBar_kept | apply putF_kept | apply putB_kept | apply ite_of | extract_lets
    | split | simp only [kept_mk_iff]

theorem State.barBoundary_kept {s0 s : State} (h : s0.Kept s)  : s0.Kept (State.barBoundary s) := by
  unfold State.barBoundary
  with_reducible repeat' first
    | intro _ | assumption | apply reach_kept | apply toBar_kept | apply ite_of | extract_lets | split
    | simp only [kept_mk_iff]

theorem State.refuseEntry_kept {s0 s : State} (h : s0.Kept s) (sl a ctx : Nat) : s0.Kept
    (State.refuseEntry s sl a ctx) := by
  unfold State.refuseEntry
  with_reducible repeat' first
    | intro _ | assumption | apply refuseCfg_kept | apply rhyCtrl_kept | apply putB_kept | apply ite_of | split

theorem State.storePhase_kept {r0 s : State} (h : r0.Kept s) (s0 : State) (sl : Nat) (tabB : Bool) (phase : Nat) (v
    : Word) (ctx : Nat) : r0.Kept (State.storePhase s s0 sl tabB phase v ctx) := by
  unfold State.storePhase
  with_reducible repeat' first
    | intro _ | assumption | apply wr_kept | apply refuseEntry_kept | apply ite_of | split

theorem State.rhyTable_kept {s0 s : State} (h : s0.Kept s) (sl : Nat) (tabB : Bool) (phase : Nat) (v : Word) (ctx
    : Nat) : s0.Kept (State.rhyTable s sl tabB phase v ctx) := by
  unfold State.rhyTable
  with_reducible repeat' first
    | intro _ | assumption | apply csrAccess_kept | apply storePhase_kept | apply ite_of | split

theorem State.storeRhyCtrl_kept {s0 s : State} (h : s0.Kept s) (sl : Nat) (v : Word) (ctx : Nat) : s0.Kept
    (State.storeRhyCtrl s sl v ctx) := by
  unfold State.storeRhyCtrl
  with_reducible repeat' first
    | intro _ | assumption | apply storeReg_kept | apply rhyCtrl_kept | apply modSlice_kept | apply ite_of | split

theorem State.rhyCtrl_kept {s0 s : State} (h : s0.Kept s) (sl : Nat) (v : Word) (ctx : Nat) : s0.Kept
    (State.rhyCtrl s sl v ctx) := by
  unfold State.rhyCtrl
  with_reducible repeat' first
    | intro _ | assumption | apply csrAccess_kept | apply storeRhyCtrl_kept | apply ite_of | split

theorem State.makeActive_kept {s0 s : State} (h : s0.Kept s) (sl since : Nat) : s0.Kept
    (State.makeActive s sl since) := by
  unfold State.makeActive
  with_reducible repeat' first
    | intro _ | assumption | apply toBar_kept | apply putB_kept | apply rhyCtrl_kept | apply rescan_kept
    | apply commitGolden_kept | apply ite_of | split

theorem State.tableSwitch_kept {s0 s : State} (h : s0.Kept s) (sl : Nat) : s0.Kept (State.tableSwitch s sl) := by
  unfold State.tableSwitch
  with_reducible repeat' first
    | intro _ | assumption | apply rhyCtrl_kept | apply makeActive_kept | apply ite_of | split

theorem State.beatSwitch_kept {s0 s : State} (h : s0.Kept s) (sl : Nat) : s0.Kept (State.beatSwitch s sl) := by
  unfold State.beatSwitch
  with_reducible repeat' first
    | intro _ | assumption | apply rhyCtrl_kept | apply makeActive_kept | apply ite_of | split

theorem State.noteVote_kept {s0 s : State} (h : s0.Kept s) (k : Nat) : s0.Kept (State.noteVote s k) := by
  unfold State.noteVote
  with_reducible repeat' first
    | intro _ | assumption | apply putB_kept | apply ite_of | apply foldl_of | apply foldl_snd_of
    | apply foldl_fst_of | extract_lets | split | simp only [kept_mk_iff] | simp only [kept_mkBelfry_iff]
    | simp +zetaDelta only [kept_mk_iff] | simp +zetaDelta only [kept_mkBelfry_iff]

theorem State.voteWrite_kept {s0 s : State} (h : s0.Kept s) (k : Nat) : s0.Kept (State.voteWrite s k) := by
  unfold State.voteWrite
  with_reducible repeat' first
    | intro _ | assumption | apply ite_of | extract_lets | split | simp only [kept_mk_iff]

theorem State.tuncfgWrite_kept {s0 s : State} (h : s0.Kept s) (a : Nat) : s0.Kept (State.tuncfgWrite s a) := by
  unfold State.tuncfgWrite
  with_reducible repeat' first
    | intro _ | assumption | apply voteWrite_kept | apply putB_kept | apply ite_of | apply foldl_of
    | apply foldl_snd_of | apply foldl_fst_of | extract_lets | split | simp only [kept_mk_iff]
    | simp only [kept_mkBelfry_iff] | simp +zetaDelta only [kept_mk_iff]
    | simp +zetaDelta only [kept_mkBelfry_iff]

theorem State.logRecord_kept {s0 s : State} (h : s0.Kept s)  : s0.Kept (State.logRecord s) := by
  unfold State.logRecord
  with_reducible repeat' first
    | intro _ | assumption | apply count_kept | apply ite_of | apply foldl_of | apply foldl_snd_of
    | apply foldl_fst_of | extract_lets | split | simp only [kept_mk_iff] | simp only [kept_mkBelfry_iff]
    | simp +zetaDelta only [kept_mk_iff] | simp +zetaDelta only [kept_mkBelfry_iff]

theorem State.writeDump_kept {s0 s : State} (h : s0.Kept s) (reason : Nat) (keep : Bool) : s0.Kept
    (State.writeDump s reason keep) := by
  unfold State.writeDump
  split
  · exact h
  · split
    · exact State.logEvent_kept h _ _
    · split
      · exact State.countSat_kept h _ _ _ _
      · extract_lets bs d store src t
        have hs : s0.Canon → Tbl.wf (fun _ => (0 : Byte)) store = true := fun x =>
          Tbl.wf_foldl_put (d := fun _ => (0 : Byte)) bs.zipIdx (fun p => dumpKey _ p.2) (fun p => p.1)
            (Tbl.wf_filter _ (h.2.2.2 x).2.2.2.2.2.2)
        clear_value store bs
        have ht : s0.Kept t := by
          refine ⟨h.1, h.2.1, h.2.2.1, fun x => ?_⟩
          obtain ⟨y1, y2, y3, y4, y5, y6, y7⟩ := h.2.2.2 x
          exact ⟨y1, y2, y3, y4, y5, y6, hs x⟩
        exact State.logEvent_kept ht _ _

theorem State.freeDump_kept {s0 s : State} (h : s0.Kept s) (e : Nat) : s0.Kept (State.freeDump s e) := by
  refine ⟨h.1, h.2.1, h.2.2.1, fun x => ?_⟩
  obtain ⟨y1, y2, y3, y4, y5, y6, y7⟩ := h.2.2.2 x
  exact ⟨y1, y2, y3, y4, y5, y6, Tbl.wf_filter _ y7⟩

theorem State.clearStore_kept {s0 s : State} (h : s0.Kept s)  : s0.Kept (State.clearStore s) := by
  unfold State.clearStore
  refine State.toReset_kept ?_ _
  refine ⟨h.1, h.2.1, h.2.2.1, fun x => ?_⟩
  obtain ⟨y1, y2, y3, y4, y5, y6, y7⟩ := h.2.2.2 x
  exact ⟨y1, y2, y3, y4, y5, y6, rfl⟩

theorem State.putResult_kept {s0 s : State} (h : s0.Kept s) (bs : List Byte) : s0.Kept (State.putResult s bs) := by
  unfold State.putResult
  with_reducible repeat' first
    | intro _ | assumption | apply each_kept | apply wr_kept | apply ite_of | split

theorem State.publish_kept {s0 s : State} (h : s0.Kept s) (status : Nat) (bs : List Byte) : s0.Kept
    (State.publish s status bs) := by
  unfold State.publish
  with_reducible repeat' first
    | intro _ | assumption | apply putResult_kept | apply wr_kept | apply raiseIrq_kept | apply ite_of
    | apply foldl_of | apply foldl_snd_of | apply foldl_fst_of | extract_lets | split | simp only [kept_mk_iff]
    | simp only [kept_mkBelfry_iff] | simp +zetaDelta only [kept_mk_iff]
    | simp +zetaDelta only [kept_mkBelfry_iff]

theorem State.haltBelfry_kept {s0 s : State} (h : s0.Kept s)  : s0.Kept (State.haltBelfry s) := by
  unfold State.haltBelfry
  extract_lets busy s1 src t
  have h1 : s0.Kept s1 := by
    refine ⟨h.1, h.2.1, h.2.2.1, fun x => ?_⟩
    obtain ⟨y1, y2, y3, y4, y5⟩ := h.2.2.2 x
    refine ⟨y1, y2, y3, ?_, y5⟩
    rw [Tbl.wf_iff] at y4 ⊢
    refine ⟨List.pairwise_map.2 y4.1, fun e he => ?_⟩
    obtain ⟨a, ha, rfl⟩ := List.mem_map.1 he
    exact Port.callWaits_ne (y4.2 a ha)
  have ht : s0.Kept t := (State.kept_mkBelfry_iff rfl rfl).2 h1
  exact ite_of _ (State.publish_kept ht _ _) ht

theorem State.eraseFlash_kept {s0 s : State} (h : s0.Kept s) (lo hi : Nat) : s0.Kept (State.eraseFlash s lo hi)
    := by
  refine ⟨h.1, h.2.1, h.2.2.1, fun x => ?_⟩
  obtain ⟨y1, y2, y3, y4, y5, y6, y7⟩ := h.2.2.2 x
  exact ⟨y1, y2, y3, y4, y5, Tbl.wf_filter _ y6, y7⟩

theorem State.programFlash_kept {s0 s : State} (h : s0.Kept s) (a : Nat) (bs : List Byte) : s0.Kept
    (State.programFlash s a bs) := by
  refine ⟨h.1, h.2.1, h.2.2.1, fun x => ?_⟩
  obtain ⟨y1, y2, y3, y4, y5, y6, y7⟩ := h.2.2.2 x
  exact ⟨y1, y2, y3, y4, y5, Tbl.wf_foldl_put (d := fun _ => 0xFF) bs.zipIdx (fun p => a + p.2) (fun p => p.1) y6, y7⟩

theorem State.spoilFlash_kept {s0 s : State} (h : s0.Kept s) (lo hi : Nat) : s0.Kept (State.spoilFlash s lo hi)
    := by
  unfold State.spoilFlash
  with_reducible repeat' first
    | intro _ | assumption | apply programFlash_kept | apply ite_of | extract_lets | split
    | simp only [kept_mk_iff]

theorem State.reachRef_kept {s0 s : State} (h : s0.Kept s) (t : Nat) : s0.Kept (State.reachRef s t) := by
  unfold State.reachRef
  with_reducible repeat' first
    | intro _ | assumption | apply pass_kept | apply ite_of | extract_lets | split | simp only [kept_mk_iff]

theorem State.reportRegion_kept {s0 s : State} (h : s0.Kept s) (r : Nat) : s0.Kept (State.reportRegion s r) := by
  unfold State.reportRegion
  with_reducible repeat' first
    | intro _ | assumption | apply putF_kept | apply putB_kept | apply ite_of | split

theorem State.setInst_kept {s0 s : State} (h : s0.Kept s) (r inst v : Nat) : s0.Kept (State.setInst s r inst v)
    := by
  unfold State.setInst
  with_reducible repeat' first
    | intro _ | assumption | apply fencing_kept | apply reportRegion_kept | apply ite_of | extract_lets | split
    | simp only [kept_mk_iff]

theorem State.tunerRec_kept {s0 s : State} (h : s0.Kept s) (code r inst : Nat) : s0.Kept
    (State.tunerRec s code r inst) := by
  unfold State.tunerRec
  with_reducible repeat' first
    | intro _ | assumption | apply sliceRec_kept | apply globalRec_kept | apply ite_of | split

theorem State.mismatchWake_kept {s0 s : State} (h : s0.Kept s)  : s0.Kept (State.mismatchWake s) := by
  unfold State.mismatchWake
  with_reducible repeat' first
    | intro _ | assumption | apply wakeAll_kept | apply ite_of | split

theorem State.mismatch_kept {s0 s : State} (h : s0.Kept s) (r inst : Nat) : s0.Kept (State.mismatch s r inst) := by
  unfold State.mismatch
  with_reducible repeat' first
    | intro _ | assumption | apply countSat_kept | apply mismatchWake_kept | apply tunerRec_kept
    | apply allToReset_kept | apply putF_kept | apply putB_kept | apply raiseIrq_kept | apply setInst_kept
    | apply writeDump_kept | apply haltBelfry_kept | apply ite_of | apply foldl_of | apply foldl_snd_of
    | apply foldl_fst_of | extract_lets | split | simp only [kept_mk_iff] | simp only [kept_mkBelfry_iff]
    | simp +zetaDelta only [kept_mk_iff] | simp +zetaDelta only [kept_mkBelfry_iff]

theorem State.restored_kept {s0 s : State} (h : s0.Kept s) (r inst : Nat) : s0.Kept (State.restored s r inst) := by
  unfold State.restored
  with_reducible repeat' first
    | intro _ | assumption | apply tunerRec_kept | apply setInst_kept | apply ite_of | extract_lets | split
    | simp only [kept_mk_iff]

theorem State.compare_kept {s0 s : State} (h : s0.Kept s) (r inst : Nat) : s0.Kept (State.compare s r inst) := by
  unfold State.compare
  with_reducible repeat' first
    | intro _ | assumption | apply noteVote_kept | apply restored_kept | apply mismatch_kept | apply ite_of
    | split

theorem State.scanNow_kept {s0 s : State} (h : s0.Kept s) (r inst : Nat) : s0.Kept (State.scanNow s r inst) := by
  unfold State.scanNow
  with_reducible repeat' first
    | intro _ | assumption | apply pass_kept | apply compare_kept | apply ite_of | split

theorem State.beginScans_kept {s0 s : State} (h : s0.Kept s)  : s0.Kept (State.beginScans s) := by
  unfold State.beginScans
  with_reducible repeat' first
    | intro _ | assumption | apply putB_kept | apply ite_of | extract_lets | split | simp only [kept_mk_iff]

theorem State.endScans_kept {s0 s : State} (h : s0.Kept s)  : s0.Kept (State.endScans s) := by
  unfold State.endScans
  with_reducible repeat' first
    | intro _ | assumption | apply putB_kept | apply count_kept | apply ite_of | extract_lets | split
    | simp only [kept_mk_iff]

theorem State.passStart_kept {s0 s : State} (h : s0.Kept s)  : s0.Kept (State.passStart s) := by
  unfold State.passStart
  with_reducible repeat' first
    | intro _ | assumption | apply reach_kept | apply beginScans_kept | apply endScans_kept | apply ite_of | split

theorem State.leavePass_kept {s0 s : State} (h : s0.Kept s) (r inst : Nat) : s0.Kept (State.leavePass s r inst)
    := by
  unfold State.leavePass
  with_reducible repeat' first
    | intro _ | assumption | apply ite_of | extract_lets | split | simp only [kept_mk_iff]

theorem State.scanEnd_kept {s0 s : State} (h : s0.Kept s) (r inst : Nat) : s0.Kept (State.scanEnd s r inst) := by
  unfold State.scanEnd
  with_reducible repeat' first
    | intro _ | assumption | apply reach_kept | apply compare_kept | apply leavePass_kept | apply endScans_kept
    | apply ite_of | split

theorem State.reloadMirror_kept {s0 s : State} (h : s0.Kept s) (sl : Nat) : s0.Kept (State.reloadMirror s sl) := by
  unfold State.reloadMirror
  with_reducible repeat' first
    | intro _ | assumption | apply each_kept | apply putMirror_kept | apply ite_of | apply foldl_of
    | apply foldl_snd_of | apply foldl_fst_of | extract_lets | split | simp only [kept_mk_iff]
    | simp only [kept_mkBelfry_iff] | simp +zetaDelta only [kept_mk_iff]
    | simp +zetaDelta only [kept_mkBelfry_iff]

theorem State.reloadDone_kept {s0 s : State} (h : s0.Kept s) (r inst : Nat) : s0.Kept (State.reloadDone s r inst)
    := by
  unfold State.reloadDone
  with_reducible repeat' first
    | intro _ | assumption | apply reloadMirror_kept | apply scanNow_kept | apply ite_of | extract_lets | split
    | simp only [kept_mk_iff]

theorem State.rebase_kept {s0 s : State} (h : s0.Kept s) (r inst : Nat) : s0.Kept (State.rebase s r inst) := by
  unfold State.rebase
  with_reducible repeat' first
    | intro _ | assumption | apply putGolden_kept | apply voteWrite_kept | apply restored_kept | apply ite_of
    | split

theorem State.storeRegion_kept {s0 s : State} (h : s0.Kept s) (r : Nat) (v : Word) (ctx : Nat) : s0.Kept
    (State.storeRegion s r v ctx) := by
  unfold State.storeRegion
  with_reducible repeat' first
    | intro _ | assumption | apply storeReg_kept | apply rebase_kept | apply scanNow_kept | apply tuncfgWrite_kept
    | apply ite_of | split

theorem State.storeTunerCtl_kept {s0 s : State} (h : s0.Kept s) (v : Word) (ctx : Nat) : s0.Kept
    (State.storeTunerCtl s v ctx) := by
  unfold State.storeTunerCtl
  with_reducible repeat' first
    | intro _ | assumption | apply storeReg_kept | apply tuncfgWrite_kept | apply ite_of | split

theorem State.runChallenge_kept {s0 s : State} (h : s0.Kept s)  : s0.Kept (State.runChallenge s) := by
  unfold State.runChallenge
  with_reducible repeat' first
    | intro _ | assumption | apply wr_kept | apply ite_of | extract_lets | split | simp only [kept_mk_iff]

theorem State.tunerPrivate_kept {s0 s : State} (h : s0.Kept s) (a ctx : Nat) (f : State → State) (hf : ∀ t : State,
    s0.Kept t → s0.Kept (f t)) : s0.Kept (State.tunerPrivate s a ctx f) := by
  unfold State.tunerPrivate
  with_reducible repeat' first
    | intro _ | assumption | apply csrAccess_kept | apply refuseCfg_kept | apply ite_of | apply foldl_of
    | apply foldl_snd_of | apply foldl_fst_of | extract_lets | split | simp only [kept_mk_iff]
    | simp only [kept_mkBelfry_iff] | simp +zetaDelta only [kept_mk_iff]
    | simp +zetaDelta only [kept_mkBelfry_iff] | apply hf

theorem State.chexpGo_kept {s0 s : State} (h : s0.Kept s) (v : Word) (ctx : Nat) : s0.Kept (State.chexpGo s v ctx)
    := by
  unfold State.chexpGo
  with_reducible repeat' first
    | intro _ | assumption | apply tunerPrivate_kept | apply storeReg_kept | apply runChallenge_kept
    | apply ite_of | split

theorem State.challenge_kept {s0 s : State} (h : s0.Kept s) (words : List Word) : s0.Kept (State.challenge s words)
    := by
  unfold State.challenge
  with_reducible repeat' first
    | intro _ | assumption | apply wr_kept | apply chexpGo_kept | apply ite_of | apply foldl_of
    | apply foldl_snd_of | apply foldl_fst_of | extract_lets | split | simp only [kept_mk_iff]
    | simp only [kept_mkBelfry_iff] | simp +zetaDelta only [kept_mk_iff]
    | simp +zetaDelta only [kept_mkBelfry_iff]

theorem State.rewriteTuncfg_kept {s0 s : State} (h : s0.Kept s)  : s0.Kept (State.rewriteTuncfg s) := by
  unfold State.rewriteTuncfg
  with_reducible repeat' first
    | intro _ | assumption | apply tuncfgWrite_kept | apply ite_of | apply foldl_of | apply foldl_snd_of
    | apply foldl_fst_of | extract_lets | split | simp only [kept_mk_iff] | simp only [kept_mkBelfry_iff]
    | simp +zetaDelta only [kept_mk_iff] | simp +zetaDelta only [kept_mkBelfry_iff]

theorem State.judge_kept {s0 s : State} (h : s0.Kept s)  : s0.Kept (State.judge s) := by
  unfold State.judge
  with_reducible repeat' first
    | intro _ | assumption | apply rewriteTuncfg_kept | apply chexpGo_kept | apply globalRec_kept
    | apply raiseIrq_kept | apply logEvent_kept | apply writeDump_kept | apply ite_of | extract_lets | split
    | simp only [kept_mk_iff]

theorem State.challengeLate_kept {s0 s : State} (h : s0.Kept s)  : s0.Kept (State.challengeLate s) := by
  unfold State.challengeLate
  with_reducible repeat' first
    | intro _ | assumption | apply reachRef_kept | apply putB_kept | apply globalRec_kept | apply raiseIrq_kept
    | apply ite_of | extract_lets | split | simp only [kept_mk_iff]

theorem State.putSpare_kept {s0 s : State} (h : s0.Kept s) (sl b mac row n : Nat) : s0.Kept
    (State.putSpare s sl b mac row n) := by
  unfold State.putSpare
  exact State.setMap_kept h _ _ fun y => by exact Mem.putRemap_canon (Mem.noCells_canon y) (remapKey sl b mac row) (n + 1)

theorem State.putGroup_kept {s0 s : State} (h : s0.Kept s) (sl b mac bit : Nat) : s0.Kept
    (State.putGroup s sl b mac bit) := by
  unfold State.putGroup
  exact State.setMap_kept h _ _ fun y => by exact Mem.putGroup_canon (Mem.noCells_canon y) (groupKey sl b mac) (bit + 1)

theorem State.putBank_kept {s0 s : State} (h : s0.Kept s) (sl b n : Nat) : s0.Kept (State.putBank s sl b n) := by
  unfold State.putBank
  exact State.setMap_kept h _ _ fun y => by exact Mem.putSpare_canon (Mem.noCells_canon y) (2 * sl + n) (b + 1)

theorem State.takeSpareBank_kept {s0 s : State} (h : s0.Kept s) (sl b : Nat) : s0.Kept (State.takeSpareBank s sl b)
    := by
  unfold State.takeSpareBank
  with_reducible repeat' first
    | intro _ | assumption | apply putBank_kept | apply ite_of | split

theorem State.countSpares_kept {s0 s : State} (h : s0.Kept s) (sl b : Nat) : s0.Kept (State.countSpares s sl b)
    := by
  unfold State.countSpares
  with_reducible repeat' first
    | intro _ | assumption | apply putF_kept | apply ite_of | apply foldl_of | apply foldl_snd_of
    | apply foldl_fst_of | extract_lets | split | simp only [kept_mk_iff] | simp only [kept_mkBelfry_iff]
    | simp +zetaDelta only [kept_mk_iff] | simp +zetaDelta only [kept_mkBelfry_iff]

theorem State.addRow_kept {s0 s : State} (h : s0.Kept s) (sl b mac row : Nat) : s0.Kept
    (State.addRow s sl b mac row) := by
  unfold State.addRow
  with_reducible repeat' first
    | intro _ | assumption | apply moveRow_kept | apply countSpares_kept | apply ite_of | apply foldl_of
    | apply foldl_snd_of | apply foldl_fst_of | extract_lets | split | simp only [kept_mk_iff]
    | simp only [kept_mkBelfry_iff] | simp +zetaDelta only [kept_mk_iff]
    | simp +zetaDelta only [kept_mkBelfry_iff]

theorem State.addRepair_kept {s0 s : State} (h : s0.Kept s) (w : Word) : s0.Kept (State.addRepair s w) := by
  unfold State.addRepair
  with_reducible repeat' first
    | intro _ | assumption | apply markBad_kept | apply addRow_kept | apply ite_of | split

theorem State.clearMap_kept {s0 s : State} (h : s0.Kept s) (sl : Nat) : s0.Kept (State.clearMap s sl) := by
  unfold State.clearMap
  refine State.setMap_kept h _ _ fun y => ?_
  obtain ⟨y1, y2, y3, y4, y5, y6, y7⟩ := Mem.noCells_canon y
  exact ⟨y1, y2, Tbl.wf_filter _ y3, y4, y5, Tbl.wf_filter _ y6, Tbl.wf_filter _ y7⟩

theorem State.fuseRepairs_kept {s0 s : State} (h : s0.Kept s) (sl : Nat) : s0.Kept (State.fuseRepairs s sl) := by
  unfold State.fuseRepairs
  with_reducible repeat' first
    | intro _ | assumption | apply clearMap_kept | apply takeSpareBank_kept | apply putGroup_kept
    | apply putSpare_kept | apply each_kept | apply countSpares_kept | apply ite_of | apply foldl_of
    | apply foldl_snd_of | apply foldl_fst_of | extract_lets | split | simp only [kept_mk_iff]
    | simp only [kept_mkBelfry_iff] | simp +zetaDelta only [kept_mk_iff]
    | simp +zetaDelta only [kept_mkBelfry_iff]

theorem State.loadRepairs_kept {s0 s : State} (h : s0.Kept s) (sl : Nat) : s0.Kept (State.loadRepairs s sl) := by
  unfold State.loadRepairs
  with_reducible repeat' first
    | intro _ | assumption | apply allToReset_kept | apply fuseRepairs_kept | apply addRepair_kept
    | apply addRow_kept | apply ite_of | apply foldl_of | apply foldl_snd_of | apply foldl_fst_of | extract_lets
    | split | simp only [kept_mk_iff] | simp only [kept_mkBelfry_iff] | simp +zetaDelta only [kept_mk_iff]
    | simp +zetaDelta only [kept_mkBelfry_iff]

theorem State.clearWindow_kept {s0 s : State} (h : s0.Kept s) (sl : Nat) (keep : Nat → Bool) : s0.Kept
    (State.clearWindow s sl keep) := by
  exact State.kept_mkCsr h _

theorem State.resetSlots_kept {s0 s : State} (h : s0.Kept s) (sl : Nat) : s0.Kept (State.resetSlots s sl) := by
  unfold State.resetSlots
  with_reducible repeat' first
    | intro _ | assumption | apply each_kept | apply setSlot_kept | apply clearWindow_kept | apply modBank_kept
    | apply modSlice_kept | apply putB_kept | apply scrubCtl_kept | apply endXfers_kept | apply putF_kept
    | apply ite_of | extract_lets | split | simp only [kept_mk_iff]

theorem State.wipeSlice_kept {s0 s : State} (h : s0.Kept s) (sl : Nat) : s0.Kept (State.wipeSlice s sl) := by
  unfold State.wipeSlice
  dsimp only
  have ht := State.each_kept h (List.range 64) (fun t b => t.setBank sl b Bank.init) fun t b ht => State.setBank_kept ht sl b Bank.init
  revert ht
  generalize (s.each (List.range 64) fun t b => t.setBank sl b Bank.init) = t
  intro ht
  exact State.kept_mkMem ht fun y => by exact Mem.filterVec_canon (Mem.filterW_canon y _) _

theorem State.ownAll_kept {s0 s : State} (h : s0.Kept s) (sl : Nat) : s0.Kept (State.ownAll s sl) := by
  unfold State.ownAll
  with_reducible repeat' first
    | intro _ | assumption | apply each_kept | apply giveBank_kept | apply ite_of | split

theorem State.saveRhythm_kept {s0 s : State} (h : s0.Kept s) (sl : Nat) : s0.Kept (State.saveRhythm s sl) := by
  unfold State.saveRhythm
  with_reducible repeat' first
    | intro _ | assumption | apply modSlice_kept | apply ite_of | split

theorem State.resetSave_kept {s0 s : State} (h : s0.Kept s) (sl : Nat) : s0.Kept (State.resetSave s sl) := by
  unfold State.resetSave
  with_reducible repeat' first
    | intro _ | assumption | apply modSlice_kept | apply ite_of | split

theorem State.loadRhythm_kept {s0 s : State} (h : s0.Kept s) (sl : Nat) : s0.Kept (State.loadRhythm s sl) := by
  unfold State.loadRhythm
  with_reducible repeat' first
    | intro _ | assumption | apply wr_kept | apply allToReset_kept | apply modSlice_kept | apply ite_of
    | apply foldl_of | apply foldl_snd_of | apply foldl_fst_of | extract_lets | split | simp only [kept_mk_iff]
    | simp only [kept_mkBelfry_iff] | simp +zetaDelta only [kept_mk_iff]
    | simp +zetaDelta only [kept_mkBelfry_iff]

theorem State.restoreSlice_kept {s0 s : State} (h : s0.Kept s) (sl : Nat) : s0.Kept (State.restoreSlice s sl) := by
  unfold State.restoreSlice
  with_reducible repeat' first
    | intro _ | assumption | apply allToReset_kept | apply resetSlots_kept | apply instReset_kept
    | apply reloadMirror_kept | apply commitGolden_kept | apply ownAll_kept | apply loadRhythm_kept
    | apply reportRegion_kept | apply ite_of | apply foldl_of | apply foldl_snd_of | apply foldl_fst_of
    | extract_lets | split | simp only [kept_mk_iff] | simp only [kept_mkBelfry_iff]
    | simp +zetaDelta only [kept_mk_iff] | simp +zetaDelta only [kept_mkBelfry_iff]

theorem State.ignoreTarget_kept {s0 s : State} (h : s0.Kept s)  : s0.Kept (State.ignoreTarget s) := by
  unfold State.ignoreTarget
  with_reducible repeat' first
    | intro _ | assumption | apply putB_kept | apply ite_of | split

theorem State.beginEntry_kept {s0 s : State} (h : s0.Kept s) (t : PowerTarget) (enters : Nat) : s0.Kept
    (State.beginEntry s t enters) := by
  unfold State.beginEntry
  with_reducible repeat' first
    | intro _ | assumption | apply setPower_kept | apply ite_of | extract_lets | split | simp only [kept_mk_iff]

theorem State.actSlice_kept {s0 s : State} (h : s0.Kept s) (sl v : Nat) : s0.Kept (State.actSlice s sl v) := by
  unfold State.actSlice
  with_reducible repeat' first
    | intro _ | assumption | apply beginEntry_kept | apply beginWake_kept | apply ite_of | split

theorem State.storeSliceTarget_kept {s0 s : State} (h : s0.Kept s) (sl v : Nat) : s0.Kept
    (State.storeSliceTarget s sl v) := by
  unfold State.storeSliceTarget
  with_reducible repeat' first
    | intro _ | assumption | apply ignoreTarget_kept | apply putF_kept | apply actSlice_kept | apply ite_of
    | split

theorem State.reqSlice_kept {s0 s : State} (h : s0.Kept s) (sl v ctx : Nat) : s0.Kept (State.reqSlice s sl v ctx)
    := by
  unfold State.reqSlice
  with_reducible repeat' first
    | intro _ | assumption | apply csrAccess_kept | apply storeSliceTarget_kept | apply ite_of | split

theorem State.storePwrReq_kept {s0 s : State} (h : s0.Kept s) (i : Nat) (v : Word) : s0.Kept
    (State.storePwrReq s i v) := by
  unfold State.storePwrReq
  with_reducible repeat' first
    | intro _ | assumption | apply each_kept | apply storeSliceTarget_kept | apply ite_of | split

theorem State.storeCplx_kept {s0 s : State} (h : s0.Kept s) (v p : Nat) : s0.Kept (State.storeCplx s v p) := by
  unfold State.storeCplx
  with_reducible repeat' first
    | intro _ | assumption | apply ignoreTarget_kept | apply putF_kept | apply beginEntry_kept
    | apply beginWake_kept | apply ite_of | split

theorem State.reqCplx_kept {s0 s : State} (h : s0.Kept s) (v ctx : Nat) : s0.Kept (State.reqCplx s v ctx) := by
  unfold State.reqCplx
  with_reducible repeat' first
    | intro _ | assumption | apply csrAccess_kept | apply storeCplx_kept | apply ite_of | split

theorem State.unfenceOff_kept {s0 s : State} (h : s0.Kept s) (t : PowerTarget) : s0.Kept (State.unfenceOff s t)
    := by
  unfold State.unfenceOff
  with_reducible repeat' first
    | intro _ | assumption | apply each_kept | apply fencing_kept | apply modSlice_kept | apply ite_of | split

theorem State.raiseOff_kept {s0 s : State} (h : s0.Kept s) (t : PowerTarget) : s0.Kept (State.raiseOff s t) := by
  unfold State.raiseOff
  with_reducible repeat' first
    | intro _ | assumption | apply each_kept | apply fencing_kept | apply modSlice_kept | apply ite_of | split

theorem State.endEntry_kept {s0 s : State} (h : s0.Kept s) (e : PwrEntry) (code point cause : Nat) : s0.Kept
    (State.endEntry s e code point cause) := by
  unfold State.endEntry
  with_reducible repeat' first
    | intro _ | assumption | apply unfenceOff_kept | apply logEvent_kept | apply setPower_kept | apply wr_kept
    | apply releaseKnells_kept | apply ite_of | extract_lets | split | simp only [kept_mk_iff]

theorem State.refuseEntry2_kept {s0 s : State} (h : s0.Kept s) (e : PwrEntry) (c : Nat) : s0.Kept
    (State.refuseEntry2 s e c) := by
  unfold State.refuseEntry2
  with_reducible repeat' first
    | intro _ | assumption | apply count_kept | apply wake_kept | apply endEntry_kept | apply ite_of | split

theorem State.passPoint_kept {s0 s : State} (h : s0.Kept s) (e : PwrEntry) (k : Nat) : s0.Kept
    (State.passPoint s e k) := by
  unfold State.passPoint
  with_reducible repeat' first
    | intro _ | assumption | apply wake_kept | apply count_kept | apply endEntry_kept | apply ite_of
    | extract_lets | split | simp only [kept_mk_iff]

theorem State.burstBank_kept {s0 s : State} (h : s0.Kept s) (sl b : Nat) : s0.Kept (State.burstBank s sl b) := by
  unfold State.burstBank
  with_reducible repeat' first
    | intro _ | assumption | apply each_kept | apply refreshRow_kept | apply modBank_kept | apply ite_of | split

theorem State.burst_kept {s0 s : State} (h : s0.Kept s)  : s0.Kept (State.burst s) := by
  unfold State.burst
  with_reducible repeat' first
    | intro _ | assumption | apply each_kept | apply burstBank_kept | apply pass_kept | apply ite_of | split

theorem State.drainTarget_kept {s0 s : State} (h : s0.Kept s) (e : PwrEntry) : s0.Kept (State.drainTarget s e) := by
  unfold State.drainTarget
  with_reducible repeat' first
    | intro _ | assumption | apply each_kept | apply drainAll_kept | apply pass_kept | apply saveRhythm_kept
    | apply drainWb_kept | apply ite_of | split

theorem State.entryBurst_kept {s0 s : State} (h : s0.Kept s) (e : PwrEntry) : s0.Kept (State.entryBurst s e) := by
  unfold State.entryBurst
  with_reducible repeat' first
    | intro _ | assumption | apply each_kept | apply modSlice_kept | apply burst_kept | apply ite_of
    | extract_lets | split | simp only [kept_mk_iff]

theorem State.commitEntry_kept {s0 s : State} (h : s0.Kept s) (e : PwrEntry) : s0.Kept (State.commitEntry s e) := by
  unfold State.commitEntry
  with_reducible repeat' first
    | intro _ | assumption | apply setPower_kept | apply each_kept | apply modSlice_kept | apply wake_kept
    | apply beginWake_kept | apply ite_of | apply foldl_of | apply foldl_snd_of | apply foldl_fst_of
    | extract_lets | split | simp only [kept_mk_iff] | simp only [kept_mkBelfry_iff]
    | simp +zetaDelta only [kept_mk_iff] | simp +zetaDelta only [kept_mkBelfry_iff]

theorem State.entryDone_kept {s0 s : State} (h : s0.Kept s) (t : PowerTarget) : s0.Kept (State.entryDone s t) := by
  unfold State.entryDone
  with_reducible repeat' first
    | intro _ | assumption | apply refuseEntry2_kept | apply passPoint_kept | apply reach_kept
    | apply drainTarget_kept | apply entryBurst_kept | apply raiseOff_kept | apply commitEntry_kept | apply ite_of
    | split

theorem State.wakeEvent_kept {s0 s : State} (h : s0.Kept s) (t : PowerTarget) (c : Nat) : s0.Kept
    (State.wakeEvent s t c) := by
  unfold State.wakeEvent
  with_reducible repeat' first
    | intro _ | assumption | apply wakeAll_kept | apply wakeFor_kept | apply wake_kept | apply ite_of | split

theorem State.putWake_kept {s0 s : State} (h : s0.Kept s) (t : PowerTarget) (f : PwrWake → Option PwrWake) : s0.Kept
    (State.putWake s t f) := by
  unfold State.putWake
  with_reducible repeat' first
    | intro _ | assumption | apply ite_of | extract_lets | split | simp only [kept_mk_iff]

theorem State.nextWakeStep_kept {s0 s : State} (h : s0.Kept s) (w : PwrWake) : s0.Kept (State.nextWakeStep s w)
    := by
  unfold State.nextWakeStep
  with_reducible repeat' first
    | intro _ | assumption | apply putWake_kept | apply ite_of | split

theorem State.flashAgain_kept {s0 s : State} (h : s0.Kept s)  : s0.Kept (State.flashAgain s) := by
  unfold State.flashAgain
  with_reducible repeat' first
    | intro _ | assumption | apply ite_of | apply foldl_of | apply foldl_snd_of | apply foldl_fst_of
    | extract_lets | split | simp only [kept_mk_iff] | simp only [kept_mkBelfry_iff]
    | simp +zetaDelta only [kept_mk_iff] | simp +zetaDelta only [kept_mkBelfry_iff]

theorem State.awake_kept {s0 s : State} (h : s0.Kept s) (w : PwrWake) : s0.Kept (State.awake s w) := by
  unfold State.awake
  with_reducible repeat' first
    | intro _ | assumption | apply putWake_kept | apply releaseKnells_kept | apply beginEntry_kept
    | apply flashAgain_kept | apply setPower_kept | apply unfenceOff_kept | apply ite_of | split

theorem State.wakeReady_kept {s0 s : State} (h : s0.Kept s) (t : PowerTarget) : s0.Kept (State.wakeReady s t) := by
  unfold State.wakeReady
  with_reducible repeat' first
    | intro _ | assumption | apply nextWakeStep_kept | apply burst_kept | apply pass_kept | apply awake_kept
    | apply ite_of | extract_lets | split | simp only [kept_mk_iff]

theorem State.wakeTimeout_kept {s0 s : State} (h : s0.Kept s) (t : PowerTarget) : s0.Kept (State.wakeTimeout s t)
    := by
  unfold State.wakeTimeout
  with_reducible repeat' first
    | intro _ | assumption | apply reachRef_kept | apply wr_kept | apply raiseOff_kept | apply putWake_kept
    | apply raiseIrq_kept | apply logEvent_kept | apply releaseKnells_kept | apply ite_of | extract_lets | split
    | simp only [kept_mk_iff]

theorem State.restoreOff_kept {s0 s : State} (h : s0.Kept s) (sl : Nat) : s0.Kept (State.restoreOff s sl) := by
  unfold State.restoreOff
  extract_lets t src m' t2 t3 t4
  have ht : s0.Kept t := State.wipeSlice_kept (State.pass_kept h 64) sl
  clear_value t
  have h2 : s0.Kept t2 := State.newEpoch_kept ht sl _ _
  clear_value t2
  exact State.restoreSlice_kept (State.loadRepairs_kept (State.each_kept (State.modSlice_kept (State.clearWindow_kept h2 _ _) _ _)
    _ _ fun t p ht => State.modPort_kept ht _ _ _) _) _

theorem State.restoreDone_kept {s0 s : State} (h : s0.Kept s) (sl : Nat) : s0.Kept (State.restoreDone s sl) := by
  unfold State.restoreDone
  with_reducible repeat' first
    | intro _ | assumption | apply restoreOff_kept | apply awake_kept | apply ite_of | apply foldl_of
    | apply foldl_snd_of | apply foldl_fst_of | extract_lets | split | simp only [kept_mk_iff]
    | simp only [kept_mkBelfry_iff] | simp +zetaDelta only [kept_mk_iff]
    | simp +zetaDelta only [kept_mkBelfry_iff]

theorem State.tapRequest_kept {s0 s : State} (h : s0.Kept s)  : s0.Kept (State.tapRequest s) := by
  unfold State.tapRequest
  with_reducible repeat' first
    | intro _ | assumption | apply reachRef_kept | apply ite_of | extract_lets | split | simp only [kept_mk_iff]

theorem State.tapWake_kept {s0 s : State} (h : s0.Kept s)  : s0.Kept (State.tapWake s) := by
  unfold State.tapWake
  with_reducible repeat' first
    | intro _ | assumption | apply reachRef_kept | apply putB_kept | apply each_kept | apply modSlice_kept
    | apply wakeAll_kept | apply beginScans_kept | apply endScans_kept | apply burst_kept | apply ite_of
    | extract_lets | split | simp only [kept_mk_iff]

theorem State.tapSleep_kept {s0 s : State} (h : s0.Kept s)  : s0.Kept (State.tapSleep s) := by
  unfold State.tapSleep
  with_reducible repeat' first
    | intro _ | assumption | apply pass_kept | apply ite_of | extract_lets | split | simp only [kept_mk_iff]

theorem State.storeVreq_kept {s0 s : State} (h : s0.Kept s) (v : Word) (ctx : Nat) : s0.Kept
    (State.storeVreq s v ctx) := by
  unfold State.storeVreq
  with_reducible repeat' first
    | intro _ | assumption | apply storeReg_kept | apply putF_kept | apply putB_kept | apply ite_of | extract_lets
    | split | simp only [kept_mk_iff]

theorem State.endVreq_kept {s0 s : State} (h : s0.Kept s) (r : Nat) : s0.Kept (State.endVreq s r) := by
  unfold State.endVreq
  with_reducible repeat' first
    | intro _ | assumption | apply putB_kept | apply putF_kept | apply raiseIrq_kept | apply logEvent_kept
    | apply ite_of | extract_lets | split | simp only [kept_mk_iff]

theorem State.avsAck_kept {s0 s : State} (h : s0.Kept s) (ack : Nat) : s0.Kept (State.avsAck s ack) := by
  unfold State.avsAck
  with_reducible repeat' first
    | intro _ | assumption | apply endVreq_kept | apply ite_of | extract_lets | split | simp only [kept_mk_iff]

theorem State.avsRetry_kept {s0 s : State} (h : s0.Kept s)  : s0.Kept (State.avsRetry s) := by
  unfold State.avsRetry
  with_reducible repeat' first
    | intro _ | assumption | apply reachRef_kept | apply ite_of | extract_lets | split | simp only [kept_mk_iff]

theorem State.avsPoll_kept {s0 s : State} (h : s0.Kept s) (mv : Nat) : s0.Kept (State.avsPoll s mv) := by
  unfold State.avsPoll
  with_reducible repeat' first
    | intro _ | assumption | apply reachRef_kept | apply putF_kept | apply endVreq_kept | apply ite_of
    | extract_lets | split | simp only [kept_mk_iff]

theorem State.avsTimeout_kept {s0 s : State} (h : s0.Kept s)  : s0.Kept (State.avsTimeout s) := by
  unfold State.avsTimeout
  with_reducible repeat' first
    | intro _ | assumption | apply reachRef_kept | apply endVreq_kept | apply ite_of | split

theorem State.logSensor_kept {s0 s : State} (h : s0.Kept s) (sl a : Nat) : s0.Kept (State.logSensor s sl a) := by
  unfold State.logSensor
  with_reducible repeat' first
    | intro _ | assumption | apply queueLog_kept | apply ite_of | split

theorem State.decideHot_kept {s0 s : State} (h : s0.Kept s) (sl : Nat) (temp : Int) : s0.Kept
    (State.decideHot s sl temp) := by
  unfold State.decideHot
  with_reducible repeat' first
    | intro _ | assumption | apply modSlice_kept | apply ite_of | extract_lets | split | simp only [kept_mk_iff]

theorem State.sensorWindow_kept {s0 s : State} (h : s0.Kept s) (sl : Nat) (temp : BitVec 10) : s0.Kept
    (State.sensorWindow s sl temp) := by
  unfold State.sensorWindow
  with_reducible repeat' first
    | intro _ | assumption | apply putF_kept | apply putB_kept | apply modSlice_kept | apply logSensor_kept
    | apply wakeAll_kept | apply decideHot_kept | apply raiseIrq_kept | apply ite_of | split

theorem State.droop_kept {s0 s : State} (h : s0.Kept s) (sl : Nat) : s0.Kept (State.droop s sl) := by
  unfold State.droop
  with_reducible repeat' first
    | intro _ | assumption | apply count_kept | apply modSlice_kept | apply logSensor_kept | apply wakeAll_kept
    | apply putB_kept | apply ite_of | split

theorem State.restart_kept {s0 s : State} (h : s0.Kept s) (fast : Bool) : s0.Kept (State.restart s fast) := by
  unfold State.restart
  refine State.each_kept (State.putB_kept ?_ _ _ _) _ _ fun t sl ht => ?_
  · refine ⟨h.1, h.2.1, h.2.2.1, fun x => ?_⟩
    obtain ⟨y1, y2, y3, y4, y5, y6, y7⟩ := h.2.2.2 x
    exact ⟨State.restartMem_canon s y1, Tbl.wf_filter _ y2, rfl, Tbl.wf_filterMap _ (by
      intro e x hx
      dsimp only at hx
      split at hx
      · cases hx; exact ⟨rfl, fun hc => by cases congrArg Port.fenceIn hc⟩
      · cases hx) y4, rfl, y6, y7⟩
  · split
    · exact State.putF_kept (State.putF_kept ht _ _ _ _) _ _ _ _
    · exact ht

theorem State.powerUp_kept {s0 s : State} (h : s0.Kept s)  : s0.Kept (State.powerUp s) := by
  unfold State.powerUp
  with_reducible repeat' first
    | intro _ | assumption | apply putB_kept | apply ite_of | apply foldl_of | apply foldl_snd_of
    | apply foldl_fst_of | extract_lets | split | simp only [kept_mk_iff] | simp only [kept_mkBelfry_iff]
    | simp +zetaDelta only [kept_mk_iff] | simp +zetaDelta only [kept_mkBelfry_iff]

theorem State.stageReport_kept {s0 s : State} (h : s0.Kept s) (k result detail : Nat) (map : Word) : s0.Kept
    (State.stageReport s k result detail map) := by
  unfold State.stageReport
  with_reducible repeat' first
    | intro _ | assumption | apply wr_kept | apply logEvent_kept | apply ite_of | split

theorem State.nextStage_kept {s0 s : State} (h : s0.Kept s) (n : Nat) : s0.Kept (State.nextStage s n) := by
  unfold State.nextStage
  with_reducible repeat' first
    | intro _ | assumption | apply putF_kept | apply ite_of | extract_lets | split | simp only [kept_mk_iff]

theorem State.endStage_kept {s0 s : State} (h : s0.Kept s) (k result detail : Nat) (map : Word) : s0.Kept
    (State.endStage s k result detail map) := by
  unfold State.endStage
  with_reducible repeat' first
    | intro _ | assumption | apply stageReport_kept | apply nextStage_kept | apply ite_of | split

theorem State.failStage_kept {s0 s : State} (h : s0.Kept s) (k detail : Nat) (map : Word) : s0.Kept
    (State.failStage s k detail map) := by
  unfold State.failStage
  with_reducible repeat' first
    | intro _ | assumption | apply stageReport_kept | apply nextStage_kept | apply raiseIrq_kept
    | apply writeDump_kept | apply ite_of | extract_lets | split | simp only [kept_mk_iff]

theorem State.release_kept {s0 s : State} (h : s0.Kept s)  : s0.Kept (State.release s) := by
  unfold State.release
  with_reducible repeat' first
    | intro _ | assumption | apply putB_kept | apply endStage_kept | apply ite_of | extract_lets | split
    | simp only [kept_mk_iff]

theorem State.porRelease_kept {s0 s : State} (h : s0.Kept s)  : s0.Kept (State.porRelease s) := by
  unfold State.porRelease
  with_reducible repeat' first
    | intro _ | assumption | apply release_kept | apply ite_of | extract_lets | split | simp only [kept_mk_iff]

theorem State.pgoodLost_kept {s0 s : State} (h : s0.Kept s)  : s0.Kept (State.pgoodLost s) := by
  unfold State.pgoodLost
  with_reducible repeat' first
    | intro _ | assumption | apply putF_kept | apply putB_kept | apply raiseIrq_kept | apply logEvent_kept
    | apply ite_of | apply foldl_of | apply foldl_snd_of | apply foldl_fst_of | extract_lets | split
    | simp only [kept_mk_iff] | simp only [kept_mkBelfry_iff] | simp +zetaDelta only [kept_mk_iff]
    | simp +zetaDelta only [kept_mkBelfry_iff]

theorem State.inputLow_kept {s0 s : State} (h : s0.Kept s) (pin : ResetPin) : s0.Kept (State.inputLow s pin) := by
  unfold State.inputLow
  with_reducible repeat' first
    | intro _ | assumption | apply restart_kept | apply pgoodLost_kept | apply powerUp_kept | apply ite_of
    | extract_lets | split | simp only [kept_mk_iff]

theorem State.clkFall_kept {s0 s : State} (h : s0.Kept s)  : s0.Kept (State.clkFall s) := by
  unfold State.clkFall
  with_reducible repeat' first
    | intro _ | assumption | apply restart_kept | apply ite_of | extract_lets | split | simp only [kept_mk_iff]

theorem State.bootBelfry_kept {s0 s : State} (h : s0.Kept s)  : s0.Kept (State.bootBelfry s) := by
  unfold State.bootBelfry
  with_reducible repeat' first
    | intro _ | assumption | apply ite_of | apply foldl_of | apply foldl_snd_of | apply foldl_fst_of
    | extract_lets | split | simp only [kept_mk_iff] | simp only [kept_mkBelfry_iff]
    | simp +zetaDelta only [kept_mk_iff] | simp +zetaDelta only [kept_mkBelfry_iff]

theorem State.belfryConfig_kept {s0 s : State} (h : s0.Kept s)  : s0.Kept (State.belfryConfig s) := by
  unfold State.belfryConfig
  with_reducible repeat' first
    | intro _ | assumption | apply instReset_kept | apply commitGolden_kept | apply reportRegion_kept
    | apply ite_of | extract_lets | split | simp only [kept_mk_iff]

theorem State.rebootBelfry_kept {s0 s : State} (h : s0.Kept s)  : s0.Kept (State.rebootBelfry s) := by
  unfold State.rebootBelfry
  with_reducible repeat' first
    | intro _ | assumption | apply bootBelfry_kept | apply stageReport_kept | apply belfryConfig_kept
    | apply putB_kept | apply putF_kept | apply ite_of | apply foldl_of | apply foldl_snd_of | apply foldl_fst_of
    | extract_lets | split | simp only [kept_mk_iff] | simp only [kept_mkBelfry_iff]
    | simp +zetaDelta only [kept_mk_iff] | simp +zetaDelta only [kept_mkBelfry_iff]

theorem State.imageBoot_kept {s0 s : State} (h : s0.Kept s)  : s0.Kept (State.imageBoot s) := by
  unfold State.imageBoot
  with_reducible repeat' first
    | intro _ | assumption | apply bootBelfry_kept | apply endStage_kept | apply rebootBelfry_kept | apply ite_of
    | split

theorem State.copyRepairs_kept {s0 s : State} (h : s0.Kept s)  : s0.Kept (State.copyRepairs s) := by
  unfold State.copyRepairs
  split
  · exact h
  · exact State.each_kept (State.kept_mkCsr h _) _ _ fun t sl ht => State.instReset_kept (State.fuseRepairs_kept ht _) _ _

theorem State.fuseCopy_kept {s0 s : State} (h : s0.Kept s)  : s0.Kept (State.fuseCopy s) := by
  unfold State.fuseCopy
  with_reducible repeat' first
    | intro _ | assumption | apply wr_kept | apply failStage_kept | apply copyRepairs_kept | apply endStage_kept
    | apply ite_of | split

theorem State.clearRing_kept {s0 s : State} (h : s0.Kept s)  : s0.Kept (State.clearRing s) := by
  unfold State.clearRing
  with_reducible repeat' first
    | intro _ | assumption | apply allToReset_kept | apply ite_of | extract_lets | split | simp only [kept_mk_iff]

theorem State.hardwareFill_kept {s0 s : State} (h : s0.Kept s)  : s0.Kept (State.hardwareFill s) := by
  unfold State.hardwareFill
  split
  · exact h
  · have h1 : s0.Kept ({ s with
        csr := s.csr.filter fun e => !(filledAt3 e.1)
        force := { s.force with mirror := [] }
        mem := { s.mem with wbits := [] } } : State) := by
      refine ⟨h.1, h.2.1, h.2.2.1, fun x => ?_⟩
      have y := h.2.2.2 x
      refine ⟨⟨?_, y.1.2⟩, Tbl.wf_filter _ y.2.1, y.2.2⟩
      have z := y.1.1
      simp only [Mem.wf, Bool.and_eq_true] at z ⊢
      exact ⟨z.1, rfl⟩
    refine State.endStage_kept (ite_of _ ?_ (State.putF_kept h1 _ _ _ _)) _ _ _ _
    exact State.kept_mk (State.clearStore_kept (State.clearRing_kept (State.putF_kept h1 _ _ _ _)))

theorem State.failSlices_kept {s0 s : State} (h : s0.Kept s) (map : Word) : s0.Kept (State.failSlices s map) := by
  unfold State.failSlices
  with_reducible repeat' first
    | intro _ | assumption | apply wr_kept | apply putB_kept | apply ite_of | split

theorem State.skipStage_kept {s0 s : State} (h : s0.Kept s) (k : Nat) : s0.Kept (State.skipStage s k) := by
  unfold State.skipStage
  with_reducible repeat' first
    | intro _ | assumption | apply stageReport_kept | apply nextStage_kept | apply ite_of | split

theorem State.fastCheck_kept {s0 s : State} (h : s0.Kept s) (failing : List (Nat × Nat)) : s0.Kept
    (State.fastCheck s failing) := by
  unfold State.fastCheck
  with_reducible repeat' first
    | intro _ | assumption | apply putB_kept | apply failSlices_kept | apply each_kept | apply modSlice_kept
    | apply endStage_kept | apply skipStage_kept | apply stageReport_kept | apply ite_of | extract_lets | split
    | simp only [kept_mk_iff]

theorem State.zeroCells_kept {s0 s : State} (h : s0.Kept s) (sl : Nat) : s0.Kept (State.zeroCells s sl) := by
  unfold State.zeroCells
  exact State.wipeSlice_kept (State.newEpoch_kept h sl 0 _) sl

theorem State.recordBist_kept {s0 s : State} (h : s0.Kept s) (faults : List BistFault) : s0.Kept
    (State.recordBist s faults) := by
  unfold State.recordBist
  with_reducible repeat' first
    | intro _ | assumption | apply ite_of | extract_lets | split | simp only [kept_mk_iff]

theorem State.bistUpdate_kept {s0 s : State} (h : s0.Kept s) (v : BitVec 80) : s0.Kept (State.bistUpdate s v) := by
  unfold State.bistUpdate
  with_reducible repeat' first
    | intro _ | assumption | apply ite_of | apply foldl_of | apply foldl_snd_of | apply foldl_fst_of
    | extract_lets | split | simp only [kept_mk_iff] | simp only [kept_mkBelfry_iff]
    | simp +zetaDelta only [kept_mk_iff] | simp +zetaDelta only [kept_mkBelfry_iff]

theorem State.bist_kept {s0 s : State} (h : s0.Kept s) (faults : List BistFault) (startMv : Nat) : s0.Kept
    (State.bist s faults startMv) := by
  unfold State.bist
  with_reducible repeat' first
    | intro _ | assumption | apply each_kept | apply zeroCells_kept | apply recordBist_kept | apply endStage_kept
    | apply putF_kept | apply ite_of | split

theorem State.repairFault_kept {s0 s : State} (h : s0.Kept s) (f : BistFault) : s0.Kept (State.repairFault s f)
    := by
  unfold State.repairFault
  with_reducible repeat' first
    | intro _ | assumption | apply addRow_kept | apply putGroup_kept | apply ite_of | split

theorem State.repairAll_kept {s0 s : State} (h : s0.Kept s) (fs : List BistFault) : s0.Kept (State.repairAll s fs)
    := by
  unfold State.repairAll
  with_reducible repeat' first
    | intro _ | assumption | apply repairFault_kept | apply takeSpareBank_kept | apply ite_of | apply foldl_of
    | apply foldl_snd_of | apply foldl_fst_of | extract_lets | split | simp only [kept_mk_iff]
    | simp only [kept_mkBelfry_iff] | simp +zetaDelta only [kept_mk_iff]
    | simp +zetaDelta only [kept_mkBelfry_iff]

theorem State.repairApply_kept {s0 s : State} (h : s0.Kept s)  : s0.Kept (State.repairApply s) := by
  unfold State.repairApply
  with_reducible repeat' first
    | intro _ | assumption | apply repairAll_kept | apply failSlices_kept | apply fencing_kept
    | apply modSlice_kept | apply each_kept | apply instReset_kept | apply putB_kept | apply commitGolden_kept
    | apply reportRegion_kept | apply endStage_kept | apply ite_of | extract_lets | split
    | simp only [kept_mk_iff]

theorem State.endRoll_kept {s0 s : State} (h : s0.Kept s)  : s0.Kept (State.endRoll s) := by
  unfold State.endRoll
  with_reducible repeat' first
    | intro _ | assumption | apply rollCall_kept | apply endStage_kept | apply ite_of | split

theorem State.rollCall_kept {s0 s : State} (h : s0.Kept s)  : s0.Kept (State.rollCall s) := by
  unfold State.rollCall
  with_reducible repeat' first
    | intro _ | assumption | apply each_kept | apply callSlice_kept | apply endRoll_kept | apply ite_of
    | extract_lets | split | simp only [kept_mk_iff]

theorem State.setpoint_kept {s0 s : State} (h : s0.Kept s) (mv reading lo : Nat) : s0.Kept
    (State.setpoint s mv reading lo) := by
  unfold State.setpoint
  with_reducible repeat' first
    | intro _ | assumption | apply putF_kept | apply putB_kept | apply raiseIrq_kept | apply logEvent_kept
    | apply ite_of | split

theorem State.comparePort_kept {s0 s : State} (h : s0.Kept s) (sl p : Nat) : s0.Kept (State.comparePort s sl p)
    := by
  unfold State.comparePort
  with_reducible repeat' first
    | intro _ | assumption | apply putF_kept | apply portRc_kept | apply putB_kept | apply ite_of | split

theorem State.settingsRead_kept {s0 s : State} (h : s0.Kept s) (version : Word) (logicMv arrayMv : Nat) : s0.Kept
    (State.settingsRead s version logicMv arrayMv) := by
  unfold State.settingsRead
  with_reducible repeat' first
    | intro _ | assumption | apply endRoll_kept | apply setpoint_kept | apply each_kept | apply comparePort_kept
    | apply endStage_kept | apply ite_of | apply foldl_of | apply foldl_snd_of | apply foldl_fst_of | extract_lets
    | split | simp only [kept_mk_iff] | simp only [kept_mkBelfry_iff] | simp +zetaDelta only [kept_mk_iff]
    | simp +zetaDelta only [kept_mkBelfry_iff]

theorem State.fullRelease_kept {s0 s : State} (h : s0.Kept s)  : s0.Kept (State.fullRelease s) := by
  unfold State.fullRelease
  with_reducible repeat' first
    | intro _ | assumption | apply endStage_kept | apply putB_kept | apply ite_of | split

end Sys2Proof.Machine
end

