-- ==== Sys2Proof/Laws/KeptBelfry.lean ====
section
/-! SUPPORT. Every operation keeps what no command changes. -/

set_option linter.unusedSimpArgs false

namespace Sys2Proof.Machine

open State

theorem State.orphans_kept {s0 s : State} (h : s0.Kept s) (mine : Origin → Nat → Bool) : s0.Kept
    (State.orphans s mine) := by
  refine ⟨h.1, h.2.1, h.2.2.1, fun x => ?_⟩
  obtain ⟨y1, y2, y3, y4⟩ := h.2.2.2 x
  refine ⟨y1, y2, ?_, y4⟩
  rw [Tbl.wf_iff] at y3 ⊢
  refine ⟨List.pairwise_map.2 y3.1, fun e he => ?_⟩
  obtain ⟨a, ha, rfl⟩ := List.mem_map.1 he
  intro hc
  apply y3.2 a ha
  obtain ⟨n, v⟩ := a
  cases v
  simp only [SliceSt.init, SliceSt.mk.injEq, List.map_eq_nil_iff] at hc ⊢
  exact hc

theorem State.abort_kept {s0 s : State} (h : s0.Kept s) (mine : Origin → Nat → Bool) (host : SpInit → Bool) (out
    : FpOut → Bool) : s0.Kept (State.abort s mine host out).2 := by
  unfold State.abort
  with_reducible repeat' first
    | intro _ | assumption | apply orphans_kept | apply deliver_kept | apply ite_of | apply foldl_of
    | apply foldl_snd_of | apply foldl_fst_of | extract_lets | split | simp only [kept_mk_iff]
    | simp only [kept_mkBelfry_iff] | simp +zetaDelta only [kept_mk_iff]
    | simp +zetaDelta only [kept_mkBelfry_iff]

theorem State.cutLocal_kept {s0 s : State} (h : s0.Kept s) (sl last : Nat) (mine : Resp → Bool) : s0.Kept
    (State.cutLocal s sl last mine).2 := by
  unfold State.cutLocal
  with_reducible repeat' first
    | intro _ | assumption | apply each_kept | apply modPort_kept | apply modSlot_kept | apply count_kept
    | apply ite_of | split

theorem State.modKill_kept {s0 s : State} (h : s0.Kept s) (c : Nat) (f : Kill → Kill) : s0.Kept
    (State.modKill s c f) := by
  unfold State.modKill
  with_reducible repeat' first
    | intro _ | assumption | apply ite_of | extract_lets | split | simp only [kept_mk_iff]

theorem State.storeKill_kept {r0 s : State} (h : r0.Kept s) (s0 : State) (v : Word) (ctx : Nat) : r0.Kept
    (State.storeKill s s0 v ctx) := by
  unfold State.storeKill
  with_reducible repeat' first
    | intro _ | assumption | apply refuseCfg_kept | apply pass_kept | apply beginKill_kept | apply each_kept
    | apply ite_of | split

theorem State.killSlot_kept {s0 s : State} (h : s0.Kept s) (sl j : Nat) : s0.Kept (State.killSlot s sl j) := by
  unfold State.killSlot
  with_reducible repeat' first
    | intro _ | assumption | apply modSlot_kept | apply stopSlot_kept | apply setSlotState_kept
    | apply stopEnds_kept | apply ite_of | split

theorem State.killPairs_kept {s0 s : State} (h : s0.Kept s) (sl c : Nat) : s0.Kept (State.killPairs s sl c) := by
  unfold State.killPairs
  with_reducible repeat' first
    | intro _ | assumption | apply allToReset_kept | apply ite_of | split

theorem State.killMark_kept {s0 s : State} (h : s0.Kept s) (c sl : Nat) : s0.Kept (State.killMark s c sl) := by
  unfold State.killMark
  with_reducible repeat' first
    | intro _ | assumption | apply reach_kept | apply closeWindows_kept | apply fencing_kept | apply modKill_kept
    | apply each_kept | apply killSlot_kept | apply pumpEngine_kept | apply killPairs_kept | apply ite_of | split

theorem State.dropStrokes_kept {s0 s : State} (h : s0.Kept s) (c : Nat) : s0.Kept (State.dropStrokes s c) := by
  unfold State.dropStrokes
  with_reducible repeat' first
    | intro _ | assumption | apply ite_of | apply foldl_of | apply foldl_snd_of | apply foldl_fst_of
    | extract_lets | split | simp only [kept_mk_iff] | simp only [kept_mkBelfry_iff]
    | simp +zetaDelta only [kept_mk_iff] | simp +zetaDelta only [kept_mkBelfry_iff]

theorem State.killBanks_kept {s0 s : State} (h : s0.Kept s) (c n : Nat) : s0.Kept (State.killBanks s c n) := by
  unfold State.killBanks
  with_reducible repeat' first
    | intro _ | assumption | apply each_kept | apply stopEnds_kept | apply modKill_kept | apply killHandover_kept
    | apply ite_of | apply foldl_of | apply foldl_snd_of | apply foldl_fst_of | extract_lets | split
    | simp only [kept_mk_iff] | simp only [kept_mkBelfry_iff] | simp +zetaDelta only [kept_mk_iff]
    | simp +zetaDelta only [kept_mkBelfry_iff]

theorem State.killDrainEnd_kept {s0 s : State} (h : s0.Kept s) (c : Nat) : s0.Kept (State.killDrainEnd s c) := by
  unfold State.killDrainEnd
  with_reducible repeat' first
    | intro _ | assumption | apply reach_kept | apply killBanks_kept | apply ite_of | split

theorem State.killTimeout_kept {s0 s : State} (h : s0.Kept s) (c : Nat) : s0.Kept (State.killTimeout s c) := by
  unfold State.killTimeout
  with_reducible repeat' first
    | intro _ | assumption | apply reach_kept | apply abort_kept | apply cutLocal_kept | apply dropStrokes_kept
    | apply killBanks_kept | apply ite_of | apply foldl_of | apply foldl_snd_of | apply foldl_fst_of
    | extract_lets | split | simp only [kept_mk_iff] | simp only [kept_mkBelfry_iff]
    | simp +zetaDelta only [kept_mk_iff] | simp +zetaDelta only [kept_mkBelfry_iff]

theorem State.killComplete_kept {s0 s : State} (h : s0.Kept s) (c : Nat) : s0.Kept (State.killComplete s c) := by
  unfold State.killComplete
  with_reducible repeat' first
    | intro _ | assumption | apply pass_kept | apply each_kept | apply boundaryIn_kept | apply wr_kept
    | apply ctxE0_kept | apply putF_kept | apply putB_kept | apply ite_of | extract_lets | split
    | simp only [kept_mk_iff]

theorem State.soloPause_kept {s0 s : State} (h : s0.Kept s) (c : Nat) : s0.Kept (State.soloPause s c) := by
  unfold State.soloPause
  with_reducible repeat' first
    | intro _ | assumption | apply each_kept | apply putF_kept | apply ctxE0_kept | apply ctxPauses_kept
    | apply putB_kept | apply ite_of | split

theorem State.soloResume_kept {s0 s : State} (h : s0.Kept s)  : s0.Kept (State.soloResume s) := by
  unfold State.soloResume
  with_reducible repeat' first
    | intro _ | assumption | apply each_kept | apply putF_kept | apply ctxE0_kept | apply kernelBoundary_kept
    | apply ctxContinues_kept | apply wr_kept | apply ite_of | split

theorem State.storeSolo_kept {s0 s : State} (h : s0.Kept s) (v : Word) (ctx : Nat) : s0.Kept
    (State.storeSolo s v ctx) := by
  unfold State.storeSolo
  with_reducible repeat' first
    | intro _ | assumption | apply refuseCfg_kept | apply storeReg_kept | apply soloPause_kept
    | apply soloResume_kept | apply ite_of | split

theorem State.resetSaves_kept {s0 s : State} (h : s0.Kept s) (u : UnitReset) : s0.Kept (State.resetSaves s u) := by
  unfold State.resetSaves
  with_reducible repeat' first
    | intro _ | assumption | apply each_kept | apply resetSave_kept | apply ite_of | apply foldl_of
    | apply foldl_snd_of | apply foldl_fst_of | extract_lets | split | simp only [kept_mk_iff]
    | simp only [kept_mkBelfry_iff] | simp +zetaDelta only [kept_mk_iff]
    | simp +zetaDelta only [kept_mkBelfry_iff]

theorem State.abandonHandover_kept {s0 s : State} (h : s0.Kept s) (sl : Nat) : s0.Kept (State.abandonHandover s sl)
    := by
  unfold State.abandonHandover
  with_reducible repeat' first
    | intro _ | assumption | apply endHandover_kept | apply modSlice_kept | apply ite_of | split

theorem State.fenceForReset_kept {s0 s : State} (h : s0.Kept s) (sl : Nat) : s0.Kept (State.fenceForReset s sl)
    := by
  unfold State.fenceForReset
  with_reducible repeat' first
    | intro _ | assumption | apply abandonHandover_kept | apply fencing_kept | apply modSlice_kept | apply ite_of
    | split

theorem State.fenceUnit_kept {s0 s : State} (h : s0.Kept s) (u : UnitReset) : s0.Kept (State.fenceUnit s u) := by
  unfold State.fenceUnit
  with_reducible repeat' first
    | intro _ | assumption | apply fencingPort_kept | apply modPort_kept | apply modSlice_kept | apply each_kept
    | apply fenceForReset_kept | apply ite_of | split

theorem State.beginReset_kept {s0 s : State} (h : s0.Kept s) (u : UnitReset) : s0.Kept (State.beginReset s u) := by
  unfold State.beginReset
  with_reducible repeat' first
    | intro _ | assumption | apply putB_kept | apply haltBelfry_kept | apply each_kept | apply wake_kept
    | apply fenceUnit_kept | apply putF_kept | apply ite_of | extract_lets | split | simp only [kept_mk_iff]

theorem State.storeReset_kept {r0 s : State} (h : r0.Kept s) (s0 : State) (v : Word) (ctx : Nat) : r0.Kept
    (State.storeReset s s0 v ctx) := by
  unfold State.storeReset
  with_reducible repeat' first
    | intro _ | assumption | apply refuseWrite_kept | apply storeReg_kept | apply putF_kept
    | apply resetSaves_kept | apply beginReset_kept | apply ite_of | split

theorem State.startReset_kept {s0 s : State} (h : s0.Kept s) (unit sl index ctx : Nat) : s0.Kept
    (State.startReset s unit sl index ctx) := by
  unfold State.startReset
  with_reducible repeat' first
    | intro _ | assumption | apply csrAccess_kept | apply storeReset_kept | apply ite_of | split

theorem State.resetPort_kept {s0 s : State} (h : s0.Kept s) (sl p : Nat) : s0.Kept (State.resetPort s sl p) := by
  unfold State.resetPort
  with_reducible repeat' first
    | intro _ | assumption | apply pass_kept | apply toReset_kept | apply modPort_kept | apply putF_kept
    | apply callPort_kept | apply ite_of | split

theorem State.resetEngine_kept {s0 s : State} (h : s0.Kept s) (sl : Nat) : s0.Kept (State.resetEngine s sl) := by
  unfold State.resetEngine
  with_reducible repeat' first
    | intro _ | assumption | apply pass_kept | apply resetSlots_kept | apply modSlice_kept | apply ite_of | split

theorem State.resetSlice_kept {s0 s : State} (h : s0.Kept s) (sl : Nat) : s0.Kept (State.resetSlice s sl) := by
  unfold State.resetSlice
  with_reducible repeat' first
    | intro _ | assumption | apply abandonHandover_kept | apply clearWindow_kept | apply modSlice_kept
    | apply modPort_kept | apply resetSave_kept | apply fencing_kept | apply wipeSlice_kept
    | apply allToReset_kept | apply each_kept | apply restoreSlice_kept | apply setSlicePower_kept | apply wr_kept
    | apply callSlice_kept | apply ite_of | extract_lets | split | simp only [kept_mk_iff]

theorem State.resetUnit_kept {s0 s : State} (h : s0.Kept s) (u : UnitReset) : s0.Kept (State.resetUnit s u) := by
  unfold State.resetUnit
  with_reducible repeat' first
    | intro _ | assumption | apply restart_kept | apply powerUp_kept | apply resetPort_kept
    | apply resetEngine_kept | apply pass_kept | apply resetSlice_kept | apply putB_kept | apply release_kept
    | apply each_kept | apply resetSaves_kept | apply putF_kept | apply ite_of | extract_lets | split
    | simp only [kept_mk_iff]

theorem State.settleUnit_kept {s0 s : State} (h : s0.Kept s) (u : UnitReset) : s0.Kept (State.settleUnit s u) := by
  unfold State.settleUnit
  with_reducible repeat' first
    | intro _ | assumption | apply settlePort_kept | apply ite_of | apply foldl_of | apply foldl_snd_of
    | apply foldl_fst_of | extract_lets | split | simp only [kept_mk_iff] | simp only [kept_mkBelfry_iff]
    | simp +zetaDelta only [kept_mk_iff] | simp +zetaDelta only [kept_mkBelfry_iff]

theorem State.resetDrained_kept {s0 s : State} (h : s0.Kept s)  : s0.Kept (State.resetDrained s) := by
  unfold State.resetDrained
  with_reducible repeat' first
    | intro _ | assumption | apply reach_kept | apply resetUnit_kept | apply settleUnit_kept | apply ite_of
    | split

theorem State.resetTimeout_kept {s0 s : State} (h : s0.Kept s)  : s0.Kept (State.resetTimeout s) := by
  unfold State.resetTimeout
  with_reducible repeat' first
    | intro _ | assumption | apply reach_kept | apply abort_kept | apply settleUnit_kept | apply resetUnit_kept
    | apply ite_of | split

theorem State.handoverTimeout_kept {s0 s : State} (h : s0.Kept s) (sl : Nat) : s0.Kept (State.handoverTimeout s sl)
    := by
  unfold State.handoverTimeout
  with_reducible repeat' first
    | intro _ | assumption | apply reach_kept | apply cutLocal_kept | apply drainHandover_kept | apply ite_of
    | split

theorem State.storeMboxCmd_kept {s0 s : State} (h : s0.Kept s) (v : Word) (ctx : Nat) : s0.Kept
    (State.storeMboxCmd s v ctx) := by
  unfold State.storeMboxCmd
  with_reducible repeat' first
    | intro _ | assumption | apply putB_kept | apply storeReg_kept | apply pass_kept | apply publish_kept
    | apply ite_of | apply foldl_of | apply foldl_snd_of | apply foldl_fst_of | extract_lets | split
    | simp only [kept_mk_iff] | simp only [kept_mkBelfry_iff] | simp +zetaDelta only [kept_mk_iff]
    | simp +zetaDelta only [kept_mkBelfry_iff]

theorem State.storeMboxArg_kept {s0 s : State} (h : s0.Kept s) (w : Nat) (v : Word) (ctx : Nat) : s0.Kept
    (State.storeMboxArg s w v ctx) := by
  unfold State.storeMboxArg
  with_reducible repeat' first
    | intro _ | assumption | apply putB_kept | apply storeReg_kept | apply ite_of | split

theorem State.earlyGo_kept {s0 s : State} (h : s0.Kept s) (v : Word) (ctx : Nat) : s0.Kept (State.earlyGo s v ctx)
    := by
  unfold State.earlyGo
  with_reducible repeat' first
    | intro _ | assumption | apply csrAccess_kept | apply storeMboxCmd_kept | apply ite_of | split

theorem State.reply_kept {s0 s : State} (h : s0.Kept s) (status : Nat) (bs : List Byte) : s0.Kept
    (State.reply s status bs) := by
  unfold State.reply
  with_reducible repeat' first
    | intro _ | assumption | apply ite_of | apply foldl_of | apply foldl_snd_of | apply foldl_fst_of
    | extract_lets | split | simp only [kept_mk_iff] | simp only [kept_mkBelfry_iff]
    | simp +zetaDelta only [kept_mk_iff] | simp +zetaDelta only [kept_mkBelfry_iff]

theorem State.serve_kept {s0 s : State} (h : s0.Kept s) (op : Nat) (f : State → State) (hf : ∀ t : State,
    s0.Kept t → s0.Kept (f t)) : s0.Kept (State.serve s op f) := by
  unfold State.serve
  with_reducible repeat' first
    | intro _ | assumption | apply reply_kept | apply ite_of | apply foldl_of | apply foldl_snd_of
    | apply foldl_fst_of | extract_lets | split | simp only [kept_mk_iff] | simp only [kept_mkBelfry_iff]
    | simp +zetaDelta only [kept_mk_iff] | simp +zetaDelta only [kept_mkBelfry_iff] | apply hf

theorem State.unknownOp_kept {s0 s : State} (h : s0.Kept s)  : s0.Kept (State.unknownOp s) := by
  unfold State.unknownOp
  with_reducible repeat' first
    | intro _ | assumption | apply reply_kept | apply ite_of | split

theorem State.commandDone_kept {s0 s : State} (h : s0.Kept s)  : s0.Kept (State.commandDone s) := by
  unfold State.commandDone
  with_reducible repeat' first
    | intro _ | assumption | apply answer_kept | apply publish_kept | apply startReset_kept | apply ite_of | split

theorem State.info_kept {s0 s : State} (h : s0.Kept s)  : s0.Kept (State.info s) := by
  unfold State.info
  with_reducible repeat' first
    | intro _ | assumption | apply reply_kept | apply ite_of | split

theorem State.sensors_kept {s0 s : State} (h : s0.Kept s) (current temperature : Nat) : s0.Kept
    (State.sensors s current temperature) := by
  unfold State.sensors
  with_reducible repeat' first
    | intro _ | assumption | apply reply_kept | apply ite_of | extract_lets | split | simp only [kept_mk_iff]

theorem State.readLog_kept {s0 s : State} (h : s0.Kept s)  : s0.Kept (State.readLog s) := by
  unfold State.readLog
  with_reducible repeat' first
    | intro _ | assumption | apply reply_kept | apply ite_of | split

theorem State.dumpList_kept {s0 s : State} (h : s0.Kept s)  : s0.Kept (State.dumpList s) := by
  unfold State.dumpList
  with_reducible repeat' first
    | intro _ | assumption | apply reply_kept | apply ite_of | split

theorem State.readDump_kept {s0 s : State} (h : s0.Kept s)  : s0.Kept (State.readDump s) := by
  unfold State.readDump
  with_reducible repeat' first
    | intro _ | assumption | apply reply_kept | apply ite_of | split

theorem State.capture_kept {r0 s0 : State} (h : r0.Kept s0)  : r0.Kept (State.capture s0) := by
  unfold State.capture
  with_reducible repeat' first
    | intro _ | assumption | apply reachRef_kept | apply writeDump_kept | apply reply_kept | apply ite_of
    | apply foldl_of | apply foldl_snd_of | apply foldl_fst_of | extract_lets | split | simp only [kept_mk_iff]
    | simp only [kept_mkBelfry_iff] | simp +zetaDelta only [kept_mk_iff]
    | simp +zetaDelta only [kept_mkBelfry_iff]

theorem State.dumpRelease_kept {s0 s : State} (h : s0.Kept s)  : s0.Kept (State.dumpRelease s) := by
  unfold State.dumpRelease
  with_reducible repeat' first
    | intro _ | assumption | apply freeDump_kept | apply reply_kept | apply ite_of | split

theorem State.flashBegin_kept {s0 s : State} (h : s0.Kept s) (erase : Bool) (lo hi : Nat) : s0.Kept
    (State.flashBegin s erase lo hi) := by
  unfold State.flashBegin
  with_reducible repeat' first
    | intro _ | assumption | apply ite_of | apply foldl_of | apply foldl_snd_of | apply foldl_fst_of
    | extract_lets | split | simp only [kept_mk_iff] | simp only [kept_mkBelfry_iff]
    | simp +zetaDelta only [kept_mk_iff] | simp +zetaDelta only [kept_mkBelfry_iff]

theorem State.pollFlash_kept {s0 s : State} (h : s0.Kept s) (busy : Bool) : s0.Kept (State.pollFlash s busy) := by
  unfold State.pollFlash
  with_reducible repeat' first
    | intro _ | assumption | apply ite_of | apply foldl_of | apply foldl_snd_of | apply foldl_fst_of
    | extract_lets | split | simp only [kept_mk_iff] | simp only [kept_mkBelfry_iff]
    | simp +zetaDelta only [kept_mk_iff] | simp +zetaDelta only [kept_mkBelfry_iff]

theorem State.flashLate_kept {s0 s : State} (h : s0.Kept s)  : s0.Kept (State.flashLate s) := by
  unfold State.flashLate
  with_reducible repeat' first
    | intro _ | assumption | apply reachRef_kept | apply spoilFlash_kept | apply reply_kept | apply ite_of
    | apply foldl_of | apply foldl_snd_of | apply foldl_fst_of | extract_lets | split | simp only [kept_mk_iff]
    | simp only [kept_mkBelfry_iff] | simp +zetaDelta only [kept_mk_iff]
    | simp +zetaDelta only [kept_mkBelfry_iff]

theorem State.copyImage_kept {s0 s : State} (h : s0.Kept s) (src : Bool) : s0.Kept (State.copyImage s src) := by
  unfold State.copyImage
  with_reducible repeat' first
    | intro _ | assumption | apply eraseFlash_kept | apply programFlash_kept | apply ite_of | split

theorem State.beginUpdate_kept {s0 s : State} (h : s0.Kept s) (target total lo hi : Nat) : s0.Kept
    (State.beginUpdate s target total lo hi) := by
  unfold State.beginUpdate
  with_reducible repeat' first
    | intro _ | assumption | apply eraseFlash_kept | apply flashBegin_kept | apply reply_kept | apply ite_of
    | apply foldl_of | apply foldl_snd_of | apply foldl_fst_of | extract_lets | split | simp only [kept_mk_iff]
    | simp only [kept_mkBelfry_iff] | simp +zetaDelta only [kept_mk_iff]
    | simp +zetaDelta only [kept_mkBelfry_iff]

theorem State.beginFirmware_kept {s0 s : State} (h : s0.Kept s) (total : Nat) : s0.Kept
    (State.beginFirmware s total) := by
  unfold State.beginFirmware
  with_reducible repeat' first
    | intro _ | assumption | apply reply_kept | apply copyImage_kept | apply beginUpdate_kept | apply ite_of
    | split

theorem State.beginSettings_kept {s0 s : State} (h : s0.Kept s) (total : Nat) : s0.Kept
    (State.beginSettings s total) := by
  unfold State.beginSettings
  with_reducible repeat' first
    | intro _ | assumption | apply reply_kept | apply beginUpdate_kept | apply ite_of | split

theorem State.updateBegin_kept {s0 s : State} (h : s0.Kept s)  : s0.Kept (State.updateBegin s) := by
  unfold State.updateBegin
  with_reducible repeat' first
    | intro _ | assumption | apply reply_kept | apply beginSettings_kept | apply beginFirmware_kept | apply ite_of
    | split

theorem State.updateData_kept {s0 s : State} (h : s0.Kept s)  : s0.Kept (State.updateData s) := by
  unfold State.updateData
  with_reducible repeat' first
    | intro _ | assumption | apply reply_kept | apply programFlash_kept | apply flashBegin_kept | apply ite_of
    | apply foldl_of | apply foldl_snd_of | apply foldl_fst_of | extract_lets | split | simp only [kept_mk_iff]
    | simp only [kept_mkBelfry_iff] | simp +zetaDelta only [kept_mk_iff]
    | simp +zetaDelta only [kept_mkBelfry_iff]

theorem State.answerSeq_kept {s0 s : State} (h : s0.Kept s) (seq : Nat) : s0.Kept (State.answerSeq s seq) := by
  unfold State.answerSeq
  with_reducible repeat' first
    | intro _ | assumption | apply reply_kept | apply ite_of | split

theorem State.endFirmware_kept {s0 s : State} (h : s0.Kept s)  : s0.Kept (State.endFirmware s) := by
  unfold State.endFirmware
  with_reducible repeat' first
    | intro _ | assumption | apply logEvent_kept | apply copyImage_kept | apply answerSeq_kept
    | apply flashBegin_kept | apply reply_kept | apply ite_of | split

theorem State.endSettings_kept {s0 s : State} (h : s0.Kept s) (n : Nat) : s0.Kept (State.endSettings s n) := by
  unfold State.endSettings
  with_reducible repeat' first
    | intro _ | assumption | apply logEvent_kept | apply eraseFlash_kept | apply answerSeq_kept
    | apply flashBegin_kept | apply reply_kept | apply ite_of | split

theorem State.updateEnd_kept {s0 s : State} (h : s0.Kept s)  : s0.Kept (State.updateEnd s) := by
  unfold State.updateEnd
  with_reducible repeat' first
    | intro _ | assumption | apply reply_kept | apply endFirmware_kept | apply endSettings_kept | apply ite_of
    | apply foldl_of | apply foldl_snd_of | apply foldl_fst_of | extract_lets | split | simp only [kept_mk_iff]
    | simp only [kept_mkBelfry_iff] | simp +zetaDelta only [kept_mk_iff]
    | simp +zetaDelta only [kept_mkBelfry_iff]

theorem State.saveRepairs_kept {s0 s : State} (h : s0.Kept s)  : s0.Kept (State.saveRepairs s) := by
  unfold State.saveRepairs
  with_reducible repeat' first
    | intro _ | assumption | apply reply_kept | apply eraseFlash_kept | apply flashBegin_kept
    | apply programFlash_kept | apply answerSeq_kept | apply ite_of | apply foldl_of | apply foldl_snd_of
    | apply foldl_fst_of | extract_lets | split | simp only [kept_mk_iff] | simp only [kept_mkBelfry_iff]
    | simp +zetaDelta only [kept_mk_iff] | simp +zetaDelta only [kept_mkBelfry_iff]

theorem State.drawNonce_kept {s0 s : State} (h : s0.Kept s)  : s0.Kept (State.drawNonce s) := by
  unfold State.drawNonce
  with_reducible repeat' first
    | intro _ | assumption | apply reply_kept | apply ite_of | apply foldl_of | apply foldl_snd_of
    | apply foldl_fst_of | extract_lets | split | simp only [kept_mk_iff] | simp only [kept_mkBelfry_iff]
    | simp +zetaDelta only [kept_mk_iff] | simp +zetaDelta only [kept_mkBelfry_iff]

theorem State.burn_kept {s0 s : State} (h : s0.Kept s) (target : Nat) : s0.Kept (State.burn s target) := by
  unfold State.burn
  have ht := State.logEvent_kept h 0x06 0
  exact ⟨ht.1, ht.2.1, ht.2.2.1, ht.2.2.2⟩

theorem State.lifeChange_kept {s0 s : State} (h : s0.Kept s)  : s0.Kept (State.lifeChange s) := by
  unfold State.lifeChange
  with_reducible repeat' first
    | intro _ | assumption | apply reply_kept | apply burn_kept | apply ite_of | apply foldl_of
    | apply foldl_snd_of | apply foldl_fst_of | extract_lets | split | simp only [kept_mk_iff]
    | simp only [kept_mkBelfry_iff] | simp +zetaDelta only [kept_mk_iff]
    | simp +zetaDelta only [kept_mkBelfry_iff]

theorem State.trap_kept {s0 s : State} (h : s0.Kept s)  : s0.Kept (State.trap s) := by
  unfold State.trap
  with_reducible repeat' first
    | intro _ | assumption | apply writeDump_kept | apply haltBelfry_kept | apply ite_of | split

theorem State.storeMaint_kept {s0 s : State} (h : s0.Kept s) (v : Word) (ctx : Nat) : s0.Kept
    (State.storeMaint s v ctx) := by
  unfold State.storeMaint
  with_reducible repeat' first
    | intro _ | assumption | apply storeReg_kept | apply ite_of | extract_lets | split | simp only [kept_mk_iff]

theorem State.storeCtxWord_kept {r0 s : State} (h : r0.Kept s) (s0 : State) (a : Nat) (v : Word) (ctx : Nat)
    : r0.Kept (State.storeCtxWord s s0 a v ctx) := by
  unfold State.storeCtxWord
  with_reducible repeat' first
    | intro _ | assumption | apply storeCtx_kept | apply storeKnext_kept | apply ite_of | split

theorem State.storeGroup_kept {r0 s : State} (h : r0.Kept s) (s0 : State) (a : Nat) (v : Word) (ctx : Nat) : r0.Kept
    (State.storeGroup s s0 a v ctx) := by
  unfold State.storeGroup
  with_reducible repeat' first
    | intro _ | assumption | apply storeReg_kept | apply ite_of | split

theorem State.storeSyswin_kept {r0 s : State} (h : r0.Kept s) (s0 : State) (a : Nat) (v : Word) (ctx : Nat)
    : r0.Kept (State.storeSyswin s s0 a v ctx) := by
  unfold State.storeSyswin
  with_reducible repeat' first
    | intro _ | assumption | apply storeReg_kept | apply refuseCfg_kept | apply ite_of | split

theorem State.storeChipWin_kept {r0 s : State} (h : r0.Kept s) (s0 : State) (a : Nat) (v : Word) (ctx : Nat)
    : r0.Kept (State.storeChipWin s s0 a v ctx) := by
  unfold State.storeChipWin
  with_reducible repeat' first
    | intro _ | assumption | apply storeWinCtl_kept | apply storeWin_kept | apply ite_of | split

theorem State.storeHtab_kept {r0 s : State} (h : r0.Kept s) (s0 : State) (a : Nat) (v : Word) (ctx : Nat) : r0.Kept
    (State.storeHtab s s0 a v ctx) := by
  unfold State.storeHtab
  with_reducible repeat' first
    | intro _ | assumption | apply acceptEntry_kept | apply storeStage_kept | apply ite_of | split

theorem State.storeTap_kept {r0 s : State} (h : r0.Kept s) (s0 : State) (v : Word) (ctx : Nat) : r0.Kept
    (State.storeTap s s0 v ctx) := by
  unfold State.storeTap
  with_reducible repeat' first
    | intro _ | assumption | apply storeReg_kept | apply ite_of | split

theorem State.storeChal_kept {s0 s : State} (h : s0.Kept s) (a : Nat) (v : Word) (ctx : Nat) : s0.Kept
    (State.storeChal s a v ctx) := by
  unfold State.storeChal
  with_reducible repeat' first
    | intro _ | assumption | apply refuseCfg_kept | apply storeReg_kept | apply runChallenge_kept | apply ite_of
    | split

theorem State.storeLow_kept {r0 s : State} (h : r0.Kept s) (s0 : State) (a : Nat) (v : Word) (ctx : Nat) : r0.Kept
    (State.storeLow s s0 a v ctx) := by
  unfold State.storeLow
  with_reducible repeat' first
    | intro _ | assumption | apply storeMaint_kept | apply storeReg_kept | apply storeCtxWord_kept
    | apply storeKill_kept | apply storeSolo_kept | apply storeShare_kept | apply storeGroup_kept
    | apply storeSyswin_kept | apply storeChipId_kept | apply storeKnell_kept | apply storeChipWin_kept
    | apply ite_of | split

theorem State.storeHigh_kept {r0 s : State} (h : r0.Kept s) (s0 : State) (a : Nat) (v : Word) (ctx : Nat) : r0.Kept
    (State.storeHigh s s0 a v ctx) := by
  unfold State.storeHigh
  with_reducible repeat' first
    | intro _ | assumption | apply storeHtab_kept | apply storePwrReq_kept | apply storeCplx_kept
    | apply storeTap_kept | apply storeReg_kept | apply storeVreq_kept | apply storeErrCfg_kept
    | apply storeErrStat_kept | apply storeErrRd_kept | apply storeTunerCtl_kept | apply storeChal_kept
    | apply storeRegion_kept | apply storeMboxCmd_kept | apply storeMboxArg_kept | apply storeReset_kept
    | apply ite_of | split

theorem State.storeSemOp_kept {s0 s : State} (h : s0.Kept s) (sl : Nat) (v : Word) : s0.Kept
    (State.storeSemOp s sl v) := by
  unfold State.storeSemOp
  with_reducible repeat' first
    | intro _ | assumption | apply semTake_kept | apply semSignal_kept | apply ite_of | split

theorem State.storeSeEnable_kept {s0 s : State} (h : s0.Kept s) (sl off : Nat) (v : Word) (ctx : Nat) : s0.Kept
    (State.storeSeEnable s sl off v ctx) := by
  unfold State.storeSeEnable
  with_reducible repeat' first
    | intro _ | assumption | apply storeReg_kept | apply raiseIrq_kept | apply ite_of | split

theorem State.storeSlot_kept {r0 s : State} (h : r0.Kept s) (s0 : State) (sl j off : Nat) (v : Word) (ctx : Nat)
    : r0.Kept (State.storeSlot s s0 sl j off v ctx) := by
  unfold State.storeSlot
  with_reducible repeat' first
    | intro _ | assumption | apply storeReg_kept | apply modSlot_kept | apply ite_of | split

theorem State.storeSe_kept {r0 s : State} (h : r0.Kept s) (s0 : State) (sl off : Nat) (v : Word) (ctx : Nat)
    : r0.Kept (State.storeSe s s0 sl off v ctx) := by
  unfold State.storeSe
  with_reducible repeat' first
    | intro _ | assumption | apply refuseWrite_kept | apply storeCtl_kept | apply storeSlot_kept
    | apply storeSeEnable_kept | apply storeReg_kept | apply ite_of | split

theorem State.storePatrol_kept {s0 s : State} (h : s0.Kept s) (sl : Nat) (v : Word) (ctx : Nat) : s0.Kept
    (State.storePatrol s sl v ctx) := by
  unfold State.storePatrol
  with_reducible repeat' first
    | intro _ | assumption | apply storeReg_kept | apply ite_of | split

theorem State.storeEccCfg_kept {s0 s : State} (h : s0.Kept s) (sl : Nat) (v : Word) (ctx : Nat) : s0.Kept
    (State.storeEccCfg s sl v ctx) := by
  unfold State.storeEccCfg
  with_reducible repeat' first
    | intro _ | assumption | apply storeReg_kept | apply ite_of | split

theorem State.storePortCfg_kept {r0 s : State} (h : r0.Kept s) (s0 : State) (sl p : Nat) (v : Word) (ctx : Nat)
    : r0.Kept (State.storePortCfg s s0 sl p v ctx) := by
  unfold State.storePortCfg
  with_reducible repeat' first
    | intro _ | assumption | apply storeReg_kept | apply ite_of | split

theorem State.storeSlice_kept {r0 s : State} (h : r0.Kept s) (s0 : State) (sl off : Nat) (v : Word) (ctx : Nat)
    : r0.Kept (State.storeSlice s s0 sl off v ctx) := by
  unfold State.storeSlice
  with_reducible repeat' first
    | intro _ | assumption | apply storeRhyCtrl_kept | apply storePfence_kept | apply storePhase_kept
    | apply storeXferMask_kept | apply storeXfer_kept | apply storeSe_kept | apply storePair_kept
    | apply storeSemOp_kept | apply storeSeed_kept | apply storePatrol_kept | apply storeScrub_kept
    | apply storeRetire_kept | apply storeEccCfg_kept | apply storePortCfg_kept | apply storeRc_kept
    | apply storeReg_kept | apply ite_of | split

theorem State.storeCsr_kept {r0 s : State} (h : r0.Kept s) (s0 : State) (a : Nat) (v : Word) (ctx : Nat) : r0.Kept
    (State.storeCsr s s0 a v ctx) := by
  unfold State.storeCsr
  with_reducible repeat' first
    | intro _ | assumption | apply storeSlice_kept | apply storeLow_kept | apply storeHigh_kept | apply ite_of
    | split

theorem State.regWrite_kept {s0 s : State} (h : s0.Kept s) (a : Nat) (v : Word) (ctx : Nat) : s0.Kept
    (State.regWrite s a v ctx) := by
  unfold State.regWrite
  with_reducible repeat' first
    | intro _ | assumption | apply earlyGo_kept | apply csrAccess_kept | apply storeCsr_kept | apply ite_of
    | split

theorem State.csrPeal_kept {s0 s : State} (h : s0.Kept s) (off : Nat) (v : Word) (ctx : Nat) : s0.Kept
    (State.csrPeal s off v ctx) := by
  unfold State.csrPeal
  with_reducible repeat' first
    | intro _ | assumption | apply csrAccess_kept | apply beginPeal_kept | apply ite_of | split

theorem State.memPeal_kept {s0 s : State} (h : s0.Kept s) (off : Nat) (data : Line) (ben : ByteEn) (ctx : Nat) :
    s0.Kept (State.memPeal s off data ben ctx) := by
  unfold State.memPeal
  with_reducible repeat' first
    | intro _ | assumption | apply csrAccess_kept | apply beginPeal_kept | apply ite_of | split

theorem State.modPeal_kept {s0 s : State} (h : s0.Kept s) (id : Nat) (f : Peal → Peal) : s0.Kept
    (State.modPeal s id f) := by
  unfold State.modPeal
  with_reducible repeat' first
    | intro _ | assumption | apply ite_of | extract_lets | split | simp only [kept_mk_iff]

theorem State.mirrorDone_kept {s0 s : State} (hs : s0.Kept s) (h : Nat) : s0.Kept (State.mirrorDone s h) := by
  unfold State.mirrorDone
  with_reducible repeat' first
    | intro _ | assumption | apply ite_of | apply foldl_of | apply foldl_snd_of | apply foldl_fst_of
    | extract_lets | split | simp only [kept_mk_iff] | simp only [kept_mkBelfry_iff]
    | simp +zetaDelta only [kept_mk_iff] | simp +zetaDelta only [kept_mkBelfry_iff]

theorem State.pealReached_kept {s0 s : State} (h : s0.Kept s) (id sl : Nat) : s0.Kept (State.pealReached s id sl)
    := by
  unfold State.pealReached
  with_reducible repeat' first
    | intro _ | assumption | apply modPeal_kept | apply mirrorDone_kept | apply ite_of | apply foldl_of
    | apply foldl_snd_of | apply foldl_fst_of | extract_lets | split | simp only [kept_mk_iff]
    | simp only [kept_mkBelfry_iff] | simp +zetaDelta only [kept_mk_iff]
    | simp +zetaDelta only [kept_mkBelfry_iff]

theorem State.pealSkip_kept {s0 s : State} (h : s0.Kept s) (sl : Nat) : s0.Kept (State.pealSkip s sl) := by
  unfold State.pealSkip
  with_reducible repeat' first
    | intro _ | assumption | apply putB_kept | apply ite_of | split

theorem State.pealUndone_kept {s0 s : State} (h : s0.Kept s) (id sl code : Nat) : s0.Kept
    (State.pealUndone s id sl code) := by
  unfold State.pealUndone
  with_reducible repeat' first
    | intro _ | assumption | apply pealSkip_kept | apply modPeal_kept | apply ite_of | split

theorem State.pealApply_kept {s0 s : State} (h : s0.Kept s) (p : Peal) (sl : Nat) : s0.Kept (State.pealApply s p sl)
    := by
  unfold State.pealApply
  with_reducible repeat' first
    | intro _ | assumption | apply storeSlice_kept | apply modPeal_kept | apply pealUndone_kept
    | apply modSlice_kept | apply ite_of | extract_lets | split | simp only [kept_mk_iff]

theorem State.pealArrives_kept {s0 s : State} (h : s0.Kept s) (id sl : Nat) : s0.Kept (State.pealArrives s id sl)
    := by
  unfold State.pealArrives
  with_reducible repeat' first
    | intro _ | assumption | exact meshEvent_some_kept (by assumption) (by assumption) | apply meshEvent_kept
    | apply pealReached_kept | apply wakeFor_kept | apply pealSkip_kept | apply pealUndone_kept
    | apply pealApply_kept | apply ite_of | split

theorem State.spPart_kept {s0 s : State} (h : s0.Kept s) (tag code due : Nat) : s0.Kept
    (State.spPart s tag code due) := by
  unfold State.spPart
  with_reducible repeat' first
    | intro _ | assumption | apply ite_of | extract_lets | split | simp only [kept_mk_iff]

theorem State.feedPeal_kept {s0 s : State} (h : s0.Kept s)  : s0.Kept (State.feedPeal s) := by
  unfold State.feedPeal
  with_reducible repeat' first
    | intro _ | assumption | apply beginPeal_kept | apply ite_of | extract_lets | split | simp only [kept_mk_iff]

theorem State.feedPeals_kept {s0 s : State} (h : s0.Kept s)  : s0.Kept (State.feedPeals s) := by
  unfold State.feedPeals
  with_reducible repeat' first
    | intro _ | assumption | apply feedMirror_kept | apply feedPeal_kept | apply ite_of | apply foldl_of
    | apply foldl_snd_of | apply foldl_fst_of | extract_lets | split | simp only [kept_mk_iff]
    | simp only [kept_mkBelfry_iff] | simp +zetaDelta only [kept_mk_iff]
    | simp +zetaDelta only [kept_mkBelfry_iff]

theorem State.pealDone_kept {s0 s : State} (h : s0.Kept s) (id : Nat) : s0.Kept (State.pealDone s id) := by
  unfold State.pealDone
  with_reducible repeat' first
    | intro _ | assumption | apply spPart_kept | apply feedPeals_kept | apply ite_of | apply foldl_of
    | apply foldl_snd_of | apply foldl_fst_of | extract_lets | split | simp only [kept_mk_iff]
    | simp only [kept_mkBelfry_iff] | simp +zetaDelta only [kept_mk_iff]
    | simp +zetaDelta only [kept_mkBelfry_iff]

theorem State.csrWrite_kept {s0 s : State} (h : s0.Kept s) (a : Nat) (v : Word) (ctx : Nat) : s0.Kept
    (State.csrWrite s a v ctx) := by
  unfold State.csrWrite
  with_reducible repeat' first
    | intro _ | assumption | apply csrPeal_kept | apply memPeal_kept | apply regWrite_kept | apply ite_of | split

theorem State.initResponse_kept {s0 s : State} (h : s0.Kept s) (tag code : Nat) (data : List Line) : s0.Kept
    (State.initResponse s tag code data) := by
  unfold State.initResponse
  with_reducible repeat' first
    | intro _ | assumption | apply lateResponse_kept | apply sendRsp_kept | apply ite_of | apply foldl_of
    | apply foldl_snd_of | apply foldl_fst_of | extract_lets | split | simp only [kept_mk_iff]
    | simp only [kept_mkBelfry_iff] | simp +zetaDelta only [kept_mk_iff]
    | simp +zetaDelta only [kept_mkBelfry_iff]

theorem State.spOpen_kept {s0 s : State} (h : s0.Kept s) (r : SpStaged) (win cls ctx need code : Nat) (lines
    : List LineRsp) (peals : List (Bool × Nat × Line × ByteEn)) : s0.Kept
    (State.spOpen s r win cls ctx need code lines peals) := by
  unfold State.spOpen
  with_reducible repeat' first
    | intro _ | assumption | apply ite_of | extract_lets | split | simp only [kept_mk_iff]

theorem State.spMemory_kept {s0 s : State} (h : s0.Kept s) (i : Nat) (r : SpStaged) : s0.Kept (State.spMemory s i r)
    := by
  unfold State.spMemory
  with_reducible repeat' first
    | intro _ | assumption | apply spOpen_kept | apply sendParts_kept | apply ite_of | apply foldl_of
    | apply foldl_snd_of | apply foldl_fst_of | extract_lets | split | simp only [kept_mk_iff]
    | simp only [kept_mkBelfry_iff] | simp +zetaDelta only [kept_mk_iff]
    | simp +zetaDelta only [kept_mkBelfry_iff]

theorem State.csrWake_kept {s0 s : State} (h : s0.Kept s) (a : Nat) : s0.Kept (State.csrWake s a) := by
  unfold State.csrWake
  with_reducible repeat' first
    | intro _ | assumption | apply wake_kept | apply ite_of | split

theorem State.spCsr_kept {s0 s : State} (h : s0.Kept s) (i : Nat) (r : SpStaged) (o : Nat) : s0.Kept
    (State.spCsr s i r o) := by
  unfold State.spCsr
  with_reducible repeat' first
    | intro _ | assumption | apply meshNow_kept | apply spOpen_kept | apply feedPeals_kept | apply csrAccess_kept
    | apply asSystem_kept | apply storeCsr_kept | apply csrWake_kept | apply ite_of | apply foldl_of
    | apply foldl_snd_of | apply foldl_fst_of | extract_lets | split | simp only [kept_mk_iff]
    | simp only [kept_mkBelfry_iff] | simp +zetaDelta only [kept_mk_iff]
    | simp +zetaDelta only [kept_mkBelfry_iff]

theorem State.spRange_kept {s0 s : State} (h : s0.Kept s) (r : SpStaged) : s0.Kept (State.spRange s r) := by
  unfold State.spRange
  with_reducible repeat' first
    | intro _ | assumption | apply spOpen_kept | apply ite_of | split

theorem State.spProceed_kept {s0 s : State} (h : s0.Kept s) (r : SpStaged) : s0.Kept (State.spProceed s r) := by
  unfold State.spProceed
  with_reducible repeat' first
    | intro _ | assumption | apply spRange_kept | apply spOpen_kept | apply spCsr_kept | apply spMemory_kept
    | apply ite_of | split

theorem State.spAwake_kept {s0 s : State} (h : s0.Kept s) (r : SpStaged) : s0.Kept (State.spAwake s r).2 := by
  unfold State.spAwake
  with_reducible repeat' first
    | intro _ | assumption | apply csrWake_kept | apply wake_kept | apply ite_of | extract_lets | split
    | simp only [kept_mk_iff]

theorem State.spDrain_kept {s0 s : State} (h : s0.Kept s)  : s0.Kept (State.spDrain s) := by
  unfold State.spDrain
  with_reducible repeat' first
    | intro _ | assumption | apply spProceed_kept | apply ite_of | apply foldl_of | apply foldl_snd_of
    | apply foldl_fst_of | extract_lets | split | simp only [kept_mk_iff] | simp only [kept_mkBelfry_iff]
    | simp +zetaDelta only [kept_mk_iff] | simp +zetaDelta only [kept_mkBelfry_iff]

theorem State.spAccept_kept {s0 s : State} (h : s0.Kept s) (r : SpStaged) : s0.Kept (State.spAccept s r) := by
  unfold State.spAccept
  with_reducible repeat' first
    | intro _ | assumption | apply spProceed_kept | apply ite_of | apply foldl_of | apply foldl_snd_of
    | apply foldl_fst_of | extract_lets | split | simp only [kept_mk_iff] | simp only [kept_mkBelfry_iff]
    | simp +zetaDelta only [kept_mk_iff] | simp +zetaDelta only [kept_mkBelfry_iff]

theorem State.spRequest_kept {s0 s : State} (h : s0.Kept s) (r : SpStaged) : s0.Kept (State.spRequest s r) := by
  unfold State.spRequest
  with_reducible repeat' first
    | intro _ | assumption | apply spAwake_kept | apply spAccept_kept | apply ite_of | extract_lets | split
    | simp only [kept_mk_iff]

theorem State.badOp_kept {s0 s : State} (h : s0.Kept s) (op tag : Nat) : s0.Kept (State.badOp s op tag) := by
  unfold State.badOp
  with_reducible repeat' first
    | intro _ | assumption | apply wake_kept | apply spAccept_kept | apply ite_of | split

theorem State.spRespond_kept {s0 s : State} (h : s0.Kept s) (tag : Nat) : s0.Kept (State.spRespond s tag) := by
  unfold State.spRespond
  with_reducible repeat' first
    | intro _ | assumption | apply reach_kept | apply spDrain_kept | apply ite_of | extract_lets | split
    | simp only [kept_mk_iff]

theorem State.putEntry_kept {s0 s : State} (h : s0.Kept s) (type a : Nat) (v : Word) : s0.Kept
    (State.putEntry s type a v) := by
  unfold State.putEntry
  with_reducible repeat' first
    | intro _ | assumption | apply regWrite_kept | apply ite_of | split

theorem State.applyEntry_kept {s0 s : State} (h : s0.Kept s) (e : Nat × Word × Word) : s0.Kept
    (State.applyEntry s e) := by
  unfold State.applyEntry
  with_reducible repeat' first
    | intro _ | assumption | apply each_kept | apply putEntry_kept | apply logEvent_kept | apply ite_of | split

theorem State.applyRecord_kept {s0 s : State} (h : s0.Kept s)  : s0.Kept (State.applyRecord s) := by
  unfold State.applyRecord
  with_reducible repeat' first
    | intro _ | assumption | apply addRepair_kept | apply applyEntry_kept | apply ite_of | apply foldl_of
    | apply foldl_snd_of | apply foldl_fst_of | extract_lets | split | simp only [kept_mk_iff]
    | simp only [kept_mkBelfry_iff] | simp +zetaDelta only [kept_mk_iff]
    | simp +zetaDelta only [kept_mkBelfry_iff]

theorem State.takeGoldens_kept {s0 s : State} (h : s0.Kept s)  : s0.Kept (State.takeGoldens s) := by
  unfold State.takeGoldens
  with_reducible repeat' first
    | intro _ | assumption | apply commitGolden_kept | apply ite_of | apply foldl_of | apply foldl_snd_of
    | apply foldl_fst_of | extract_lets | split | simp only [kept_mk_iff] | simp only [kept_mkBelfry_iff]
    | simp +zetaDelta only [kept_mk_iff] | simp +zetaDelta only [kept_mkBelfry_iff]

theorem State.wholePass_kept {s0 s : State} (h : s0.Kept s)  : s0.Kept (State.wholePass s) := by
  unfold State.wholePass
  with_reducible repeat' first
    | intro _ | assumption | apply beginScans_kept | apply pass_kept | apply compare_kept | apply endScans_kept
    | apply ite_of | apply foldl_of | apply foldl_snd_of | apply foldl_fst_of | extract_lets | split
    | simp only [kept_mk_iff] | simp only [kept_mkBelfry_iff] | simp +zetaDelta only [kept_mk_iff]
    | simp +zetaDelta only [kept_mkBelfry_iff]

theorem State.commitSettings_kept {s0 s : State} (h : s0.Kept s)  : s0.Kept (State.commitSettings s) := by
  unfold State.commitSettings
  with_reducible repeat' first
    | intro _ | assumption | apply wakeAll_kept | apply applyRecord_kept | apply belfryConfig_kept
    | apply takeGoldens_kept | apply wholePass_kept | apply failStage_kept | apply endStage_kept | apply ite_of
    | split

end Sys2Proof.Machine
end

