-- ==== Sys2Proof/Laws/State.lean ====
section
/-! SUPPORT. Small laws of the state: what each update of a unit or register leaves alone, a read after a write, fields of
registers, the passing of time, and when the guards of commands let them act. -/

namespace Sys2Proof.Machine

variable (s : State)

/-! ### Each field under each update -/

@[simp] theorem State.wr_build (a : Nat) (v : Word) : (s.wr a v).build = s.build := rfl
@[simp] theorem State.wr_fuse (a : Nat) (v : Word) : (s.wr a v).fuse = s.fuse := rfl
@[simp] theorem State.wr_pins (a : Nat) (v : Word) : (s.wr a v).pins = s.pins := rfl
@[simp] theorem State.wr_time (a : Nat) (v : Word) : (s.wr a v).time = s.time := rfl
@[simp] theorem State.wr_beat (a : Nat) (v : Word) : (s.wr a v).beat = s.beat := rfl
@[simp] theorem State.wr_force (a : Nat) (v : Word) : (s.wr a v).force = s.force := rfl
@[simp] theorem State.wr_mem (a : Nat) (v : Word) : (s.wr a v).mem = s.mem := rfl
@[simp] theorem State.wr_slices (a : Nat) (v : Word) : (s.wr a v).slices = s.slices := rfl
@[simp] theorem State.wr_ports (a : Nat) (v : Word) : (s.wr a v).ports = s.ports := rfl
@[simp] theorem State.wr_slots (a : Nat) (v : Word) : (s.wr a v).slots = s.slots := rfl
@[simp] theorem State.wr_net (a : Nat) (v : Word) : (s.wr a v).net = s.net := rfl
@[simp] theorem State.wr_sysport (a : Nat) (v : Word) : (s.wr a v).sysport = s.sysport := rfl
@[simp] theorem State.wr_fabric (a : Nat) (v : Word) : (s.wr a v).fabric = s.fabric := rfl
@[simp] theorem State.wr_errors (a : Nat) (v : Word) : (s.wr a v).errors = s.errors := rfl
@[simp] theorem State.wr_tuner (a : Nat) (v : Word) : (s.wr a v).tuner = s.tuner := rfl
@[simp] theorem State.wr_power (a : Nat) (v : Word) : (s.wr a v).power = s.power := rfl
@[simp] theorem State.wr_boot (a : Nat) (v : Word) : (s.wr a v).boot = s.boot := rfl
@[simp] theorem State.wr_belfry (a : Nat) (v : Word) : (s.wr a v).belfry = s.belfry := rfl
@[simp] theorem State.wr_free (a : Nat) (v : Word) : (s.wr a v).free = s.free := rfl
@[simp] theorem State.wr_pending (a : Nat) (v : Word) : (s.wr a v).pending = s.pending := rfl

@[simp] theorem State.setSlice_build (sl : Nat) (x : SliceSt) : (s.setSlice sl x).build = s.build := rfl
@[simp] theorem State.setSlice_fuse (sl : Nat) (x : SliceSt) : (s.setSlice sl x).fuse = s.fuse := rfl
@[simp] theorem State.setSlice_pins (sl : Nat) (x : SliceSt) : (s.setSlice sl x).pins = s.pins := rfl
@[simp] theorem State.setSlice_time (sl : Nat) (x : SliceSt) : (s.setSlice sl x).time = s.time := rfl
@[simp] theorem State.setSlice_beat (sl : Nat) (x : SliceSt) : (s.setSlice sl x).beat = s.beat := rfl
@[simp] theorem State.setSlice_csr (sl : Nat) (x : SliceSt) : (s.setSlice sl x).csr = s.csr := rfl
@[simp] theorem State.setSlice_force (sl : Nat) (x : SliceSt) : (s.setSlice sl x).force = s.force := rfl
@[simp] theorem State.setSlice_mem (sl : Nat) (x : SliceSt) : (s.setSlice sl x).mem = s.mem := rfl
@[simp] theorem State.setSlice_ports (sl : Nat) (x : SliceSt) : (s.setSlice sl x).ports = s.ports := rfl
@[simp] theorem State.setSlice_slots (sl : Nat) (x : SliceSt) : (s.setSlice sl x).slots = s.slots := rfl
@[simp] theorem State.setSlice_net (sl : Nat) (x : SliceSt) : (s.setSlice sl x).net = s.net := rfl
@[simp] theorem State.setSlice_sysport (sl : Nat) (x : SliceSt) : (s.setSlice sl x).sysport = s.sysport := rfl
@[simp] theorem State.setSlice_fabric (sl : Nat) (x : SliceSt) : (s.setSlice sl x).fabric = s.fabric := rfl
@[simp] theorem State.setSlice_errors (sl : Nat) (x : SliceSt) : (s.setSlice sl x).errors = s.errors := rfl
@[simp] theorem State.setSlice_tuner (sl : Nat) (x : SliceSt) : (s.setSlice sl x).tuner = s.tuner := rfl
@[simp] theorem State.setSlice_power (sl : Nat) (x : SliceSt) : (s.setSlice sl x).power = s.power := rfl
@[simp] theorem State.setSlice_boot (sl : Nat) (x : SliceSt) : (s.setSlice sl x).boot = s.boot := rfl
@[simp] theorem State.setSlice_belfry (sl : Nat) (x : SliceSt) : (s.setSlice sl x).belfry = s.belfry := rfl
@[simp] theorem State.setSlice_free (sl : Nat) (x : SliceSt) : (s.setSlice sl x).free = s.free := rfl
@[simp] theorem State.setSlice_pending (sl : Nat) (x : SliceSt) : (s.setSlice sl x).pending = s.pending := rfl

@[simp] theorem State.setPort_build (sl p : Nat) (x : Port) : (s.setPort sl p x).build = s.build := rfl
@[simp] theorem State.setPort_fuse (sl p : Nat) (x : Port) : (s.setPort sl p x).fuse = s.fuse := rfl
@[simp] theorem State.setPort_pins (sl p : Nat) (x : Port) : (s.setPort sl p x).pins = s.pins := rfl
@[simp] theorem State.setPort_time (sl p : Nat) (x : Port) : (s.setPort sl p x).time = s.time := rfl
@[simp] theorem State.setPort_beat (sl p : Nat) (x : Port) : (s.setPort sl p x).beat = s.beat := rfl
@[simp] theorem State.setPort_csr (sl p : Nat) (x : Port) : (s.setPort sl p x).csr = s.csr := rfl
@[simp] theorem State.setPort_force (sl p : Nat) (x : Port) : (s.setPort sl p x).force = s.force := rfl
@[simp] theorem State.setPort_mem (sl p : Nat) (x : Port) : (s.setPort sl p x).mem = s.mem := rfl
@[simp] theorem State.setPort_slices (sl p : Nat) (x : Port) : (s.setPort sl p x).slices = s.slices := rfl
@[simp] theorem State.setPort_slots (sl p : Nat) (x : Port) : (s.setPort sl p x).slots = s.slots := rfl
@[simp] theorem State.setPort_net (sl p : Nat) (x : Port) : (s.setPort sl p x).net = s.net := rfl
@[simp] theorem State.setPort_sysport (sl p : Nat) (x : Port) : (s.setPort sl p x).sysport = s.sysport := rfl
@[simp] theorem State.setPort_fabric (sl p : Nat) (x : Port) : (s.setPort sl p x).fabric = s.fabric := rfl
@[simp] theorem State.setPort_errors (sl p : Nat) (x : Port) : (s.setPort sl p x).errors = s.errors := rfl
@[simp] theorem State.setPort_tuner (sl p : Nat) (x : Port) : (s.setPort sl p x).tuner = s.tuner := rfl
@[simp] theorem State.setPort_power (sl p : Nat) (x : Port) : (s.setPort sl p x).power = s.power := rfl
@[simp] theorem State.setPort_boot (sl p : Nat) (x : Port) : (s.setPort sl p x).boot = s.boot := rfl
@[simp] theorem State.setPort_belfry (sl p : Nat) (x : Port) : (s.setPort sl p x).belfry = s.belfry := rfl
@[simp] theorem State.setPort_free (sl p : Nat) (x : Port) : (s.setPort sl p x).free = s.free := rfl
@[simp] theorem State.setPort_pending (sl p : Nat) (x : Port) : (s.setPort sl p x).pending = s.pending := rfl

@[simp] theorem State.setSlot_build (sl j : Nat) (x : Slot) : (s.setSlot sl j x).build = s.build := rfl
@[simp] theorem State.setSlot_fuse (sl j : Nat) (x : Slot) : (s.setSlot sl j x).fuse = s.fuse := rfl
@[simp] theorem State.setSlot_pins (sl j : Nat) (x : Slot) : (s.setSlot sl j x).pins = s.pins := rfl
@[simp] theorem State.setSlot_time (sl j : Nat) (x : Slot) : (s.setSlot sl j x).time = s.time := rfl
@[simp] theorem State.setSlot_beat (sl j : Nat) (x : Slot) : (s.setSlot sl j x).beat = s.beat := rfl
@[simp] theorem State.setSlot_csr (sl j : Nat) (x : Slot) : (s.setSlot sl j x).csr = s.csr := rfl
@[simp] theorem State.setSlot_force (sl j : Nat) (x : Slot) : (s.setSlot sl j x).force = s.force := rfl
@[simp] theorem State.setSlot_mem (sl j : Nat) (x : Slot) : (s.setSlot sl j x).mem = s.mem := rfl
@[simp] theorem State.setSlot_slices (sl j : Nat) (x : Slot) : (s.setSlot sl j x).slices = s.slices := rfl
@[simp] theorem State.setSlot_ports (sl j : Nat) (x : Slot) : (s.setSlot sl j x).ports = s.ports := rfl
@[simp] theorem State.setSlot_net (sl j : Nat) (x : Slot) : (s.setSlot sl j x).net = s.net := rfl
@[simp] theorem State.setSlot_sysport (sl j : Nat) (x : Slot) : (s.setSlot sl j x).sysport = s.sysport := rfl
@[simp] theorem State.setSlot_fabric (sl j : Nat) (x : Slot) : (s.setSlot sl j x).fabric = s.fabric := rfl
@[simp] theorem State.setSlot_errors (sl j : Nat) (x : Slot) : (s.setSlot sl j x).errors = s.errors := rfl
@[simp] theorem State.setSlot_tuner (sl j : Nat) (x : Slot) : (s.setSlot sl j x).tuner = s.tuner := rfl
@[simp] theorem State.setSlot_power (sl j : Nat) (x : Slot) : (s.setSlot sl j x).power = s.power := rfl
@[simp] theorem State.setSlot_boot (sl j : Nat) (x : Slot) : (s.setSlot sl j x).boot = s.boot := rfl
@[simp] theorem State.setSlot_belfry (sl j : Nat) (x : Slot) : (s.setSlot sl j x).belfry = s.belfry := rfl
@[simp] theorem State.setSlot_free (sl j : Nat) (x : Slot) : (s.setSlot sl j x).free = s.free := rfl
@[simp] theorem State.setSlot_pending (sl j : Nat) (x : Slot) : (s.setSlot sl j x).pending = s.pending := rfl

@[simp] theorem State.setBank_build (sl b : Nat) (x : Bank) : (s.setBank sl b x).build = s.build := rfl
@[simp] theorem State.setBank_fuse (sl b : Nat) (x : Bank) : (s.setBank sl b x).fuse = s.fuse := rfl
@[simp] theorem State.setBank_pins (sl b : Nat) (x : Bank) : (s.setBank sl b x).pins = s.pins := rfl
@[simp] theorem State.setBank_time (sl b : Nat) (x : Bank) : (s.setBank sl b x).time = s.time := rfl
@[simp] theorem State.setBank_beat (sl b : Nat) (x : Bank) : (s.setBank sl b x).beat = s.beat := rfl
@[simp] theorem State.setBank_csr (sl b : Nat) (x : Bank) : (s.setBank sl b x).csr = s.csr := rfl
@[simp] theorem State.setBank_force (sl b : Nat) (x : Bank) : (s.setBank sl b x).force = s.force := rfl
@[simp] theorem State.setBank_slices (sl b : Nat) (x : Bank) : (s.setBank sl b x).slices = s.slices := rfl
@[simp] theorem State.setBank_ports (sl b : Nat) (x : Bank) : (s.setBank sl b x).ports = s.ports := rfl
@[simp] theorem State.setBank_slots (sl b : Nat) (x : Bank) : (s.setBank sl b x).slots = s.slots := rfl
@[simp] theorem State.setBank_net (sl b : Nat) (x : Bank) : (s.setBank sl b x).net = s.net := rfl
@[simp] theorem State.setBank_sysport (sl b : Nat) (x : Bank) : (s.setBank sl b x).sysport = s.sysport := rfl
@[simp] theorem State.setBank_fabric (sl b : Nat) (x : Bank) : (s.setBank sl b x).fabric = s.fabric := rfl
@[simp] theorem State.setBank_errors (sl b : Nat) (x : Bank) : (s.setBank sl b x).errors = s.errors := rfl
@[simp] theorem State.setBank_tuner (sl b : Nat) (x : Bank) : (s.setBank sl b x).tuner = s.tuner := rfl
@[simp] theorem State.setBank_power (sl b : Nat) (x : Bank) : (s.setBank sl b x).power = s.power := rfl
@[simp] theorem State.setBank_boot (sl b : Nat) (x : Bank) : (s.setBank sl b x).boot = s.boot := rfl
@[simp] theorem State.setBank_belfry (sl b : Nat) (x : Bank) : (s.setBank sl b x).belfry = s.belfry := rfl
@[simp] theorem State.setBank_free (sl b : Nat) (x : Bank) : (s.setBank sl b x).free = s.free := rfl
@[simp] theorem State.setBank_pending (sl b : Nat) (x : Bank) : (s.setBank sl b x).pending = s.pending := rfl

@[simp] theorem State.modSlice_build (sl : Nat) (f : SliceSt → SliceSt) : (s.modSlice sl f).build = s.build := rfl
@[simp] theorem State.modSlice_fuse (sl : Nat) (f : SliceSt → SliceSt) : (s.modSlice sl f).fuse = s.fuse := rfl
@[simp] theorem State.modSlice_pins (sl : Nat) (f : SliceSt → SliceSt) : (s.modSlice sl f).pins = s.pins := rfl
@[simp] theorem State.modSlice_time (sl : Nat) (f : SliceSt → SliceSt) : (s.modSlice sl f).time = s.time := rfl
@[simp] theorem State.modSlice_beat (sl : Nat) (f : SliceSt → SliceSt) : (s.modSlice sl f).beat = s.beat := rfl
@[simp] theorem State.modSlice_csr (sl : Nat) (f : SliceSt → SliceSt) : (s.modSlice sl f).csr = s.csr := rfl
@[simp] theorem State.modSlice_force (sl : Nat) (f : SliceSt → SliceSt) : (s.modSlice sl f).force = s.force := rfl
@[simp] theorem State.modSlice_mem (sl : Nat) (f : SliceSt → SliceSt) : (s.modSlice sl f).mem = s.mem := rfl
@[simp] theorem State.modSlice_ports (sl : Nat) (f : SliceSt → SliceSt) : (s.modSlice sl f).ports = s.ports := rfl
@[simp] theorem State.modSlice_slots (sl : Nat) (f : SliceSt → SliceSt) : (s.modSlice sl f).slots = s.slots := rfl
@[simp] theorem State.modSlice_net (sl : Nat) (f : SliceSt → SliceSt) : (s.modSlice sl f).net = s.net := rfl
@[simp] theorem State.modSlice_sysport (sl : Nat) (f : SliceSt → SliceSt) : (s.modSlice sl f).sysport = s.sysport := rfl
@[simp] theorem State.modSlice_fabric (sl : Nat) (f : SliceSt → SliceSt) : (s.modSlice sl f).fabric = s.fabric := rfl
@[simp] theorem State.modSlice_errors (sl : Nat) (f : SliceSt → SliceSt) : (s.modSlice sl f).errors = s.errors := rfl
@[simp] theorem State.modSlice_tuner (sl : Nat) (f : SliceSt → SliceSt) : (s.modSlice sl f).tuner = s.tuner := rfl
@[simp] theorem State.modSlice_power (sl : Nat) (f : SliceSt → SliceSt) : (s.modSlice sl f).power = s.power := rfl
@[simp] theorem State.modSlice_boot (sl : Nat) (f : SliceSt → SliceSt) : (s.modSlice sl f).boot = s.boot := rfl
@[simp] theorem State.modSlice_belfry (sl : Nat) (f : SliceSt → SliceSt) : (s.modSlice sl f).belfry = s.belfry := rfl
@[simp] theorem State.modSlice_free (sl : Nat) (f : SliceSt → SliceSt) : (s.modSlice sl f).free = s.free := rfl
@[simp] theorem State.modSlice_pending (sl : Nat) (f : SliceSt → SliceSt) : (s.modSlice sl f).pending = s.pending := rfl

@[simp] theorem State.modPort_build (sl p : Nat) (f : Port → Port) : (s.modPort sl p f).build = s.build := rfl
@[simp] theorem State.modPort_fuse (sl p : Nat) (f : Port → Port) : (s.modPort sl p f).fuse = s.fuse := rfl
@[simp] theorem State.modPort_pins (sl p : Nat) (f : Port → Port) : (s.modPort sl p f).pins = s.pins := rfl
@[simp] theorem State.modPort_time (sl p : Nat) (f : Port → Port) : (s.modPort sl p f).time = s.time := rfl
@[simp] theorem State.modPort_beat (sl p : Nat) (f : Port → Port) : (s.modPort sl p f).beat = s.beat := rfl
@[simp] theorem State.modPort_csr (sl p : Nat) (f : Port → Port) : (s.modPort sl p f).csr = s.csr := rfl
@[simp] theorem State.modPort_force (sl p : Nat) (f : Port → Port) : (s.modPort sl p f).force = s.force := rfl
@[simp] theorem State.modPort_mem (sl p : Nat) (f : Port → Port) : (s.modPort sl p f).mem = s.mem := rfl
@[simp] theorem State.modPort_slices (sl p : Nat) (f : Port → Port) : (s.modPort sl p f).slices = s.slices := rfl
@[simp] theorem State.modPort_slots (sl p : Nat) (f : Port → Port) : (s.modPort sl p f).slots = s.slots := rfl
@[simp] theorem State.modPort_net (sl p : Nat) (f : Port → Port) : (s.modPort sl p f).net = s.net := rfl
@[simp] theorem State.modPort_sysport (sl p : Nat) (f : Port → Port) : (s.modPort sl p f).sysport = s.sysport := rfl
@[simp] theorem State.modPort_fabric (sl p : Nat) (f : Port → Port) : (s.modPort sl p f).fabric = s.fabric := rfl
@[simp] theorem State.modPort_errors (sl p : Nat) (f : Port → Port) : (s.modPort sl p f).errors = s.errors := rfl
@[simp] theorem State.modPort_tuner (sl p : Nat) (f : Port → Port) : (s.modPort sl p f).tuner = s.tuner := rfl
@[simp] theorem State.modPort_power (sl p : Nat) (f : Port → Port) : (s.modPort sl p f).power = s.power := rfl
@[simp] theorem State.modPort_boot (sl p : Nat) (f : Port → Port) : (s.modPort sl p f).boot = s.boot := rfl
@[simp] theorem State.modPort_belfry (sl p : Nat) (f : Port → Port) : (s.modPort sl p f).belfry = s.belfry := rfl
@[simp] theorem State.modPort_free (sl p : Nat) (f : Port → Port) : (s.modPort sl p f).free = s.free := rfl
@[simp] theorem State.modPort_pending (sl p : Nat) (f : Port → Port) : (s.modPort sl p f).pending = s.pending := rfl

@[simp] theorem State.modSlot_build (sl j : Nat) (f : Slot → Slot) : (s.modSlot sl j f).build = s.build := rfl
@[simp] theorem State.modSlot_fuse (sl j : Nat) (f : Slot → Slot) : (s.modSlot sl j f).fuse = s.fuse := rfl
@[simp] theorem State.modSlot_pins (sl j : Nat) (f : Slot → Slot) : (s.modSlot sl j f).pins = s.pins := rfl
@[simp] theorem State.modSlot_time (sl j : Nat) (f : Slot → Slot) : (s.modSlot sl j f).time = s.time := rfl
@[simp] theorem State.modSlot_beat (sl j : Nat) (f : Slot → Slot) : (s.modSlot sl j f).beat = s.beat := rfl
@[simp] theorem State.modSlot_csr (sl j : Nat) (f : Slot → Slot) : (s.modSlot sl j f).csr = s.csr := rfl
@[simp] theorem State.modSlot_force (sl j : Nat) (f : Slot → Slot) : (s.modSlot sl j f).force = s.force := rfl
@[simp] theorem State.modSlot_mem (sl j : Nat) (f : Slot → Slot) : (s.modSlot sl j f).mem = s.mem := rfl
@[simp] theorem State.modSlot_slices (sl j : Nat) (f : Slot → Slot) : (s.modSlot sl j f).slices = s.slices := rfl
@[simp] theorem State.modSlot_ports (sl j : Nat) (f : Slot → Slot) : (s.modSlot sl j f).ports = s.ports := rfl
@[simp] theorem State.modSlot_net (sl j : Nat) (f : Slot → Slot) : (s.modSlot sl j f).net = s.net := rfl
@[simp] theorem State.modSlot_sysport (sl j : Nat) (f : Slot → Slot) : (s.modSlot sl j f).sysport = s.sysport := rfl
@[simp] theorem State.modSlot_fabric (sl j : Nat) (f : Slot → Slot) : (s.modSlot sl j f).fabric = s.fabric := rfl
@[simp] theorem State.modSlot_errors (sl j : Nat) (f : Slot → Slot) : (s.modSlot sl j f).errors = s.errors := rfl
@[simp] theorem State.modSlot_tuner (sl j : Nat) (f : Slot → Slot) : (s.modSlot sl j f).tuner = s.tuner := rfl
@[simp] theorem State.modSlot_power (sl j : Nat) (f : Slot → Slot) : (s.modSlot sl j f).power = s.power := rfl
@[simp] theorem State.modSlot_boot (sl j : Nat) (f : Slot → Slot) : (s.modSlot sl j f).boot = s.boot := rfl
@[simp] theorem State.modSlot_belfry (sl j : Nat) (f : Slot → Slot) : (s.modSlot sl j f).belfry = s.belfry := rfl
@[simp] theorem State.modSlot_free (sl j : Nat) (f : Slot → Slot) : (s.modSlot sl j f).free = s.free := rfl
@[simp] theorem State.modSlot_pending (sl j : Nat) (f : Slot → Slot) : (s.modSlot sl j f).pending = s.pending := rfl

@[simp] theorem State.modBank_build (sl b : Nat) (f : Bank → Bank) : (s.modBank sl b f).build = s.build := rfl
@[simp] theorem State.modBank_fuse (sl b : Nat) (f : Bank → Bank) : (s.modBank sl b f).fuse = s.fuse := rfl
@[simp] theorem State.modBank_pins (sl b : Nat) (f : Bank → Bank) : (s.modBank sl b f).pins = s.pins := rfl
@[simp] theorem State.modBank_time (sl b : Nat) (f : Bank → Bank) : (s.modBank sl b f).time = s.time := rfl
@[simp] theorem State.modBank_beat (sl b : Nat) (f : Bank → Bank) : (s.modBank sl b f).beat = s.beat := rfl
@[simp] theorem State.modBank_csr (sl b : Nat) (f : Bank → Bank) : (s.modBank sl b f).csr = s.csr := rfl
@[simp] theorem State.modBank_force (sl b : Nat) (f : Bank → Bank) : (s.modBank sl b f).force = s.force := rfl
@[simp] theorem State.modBank_slices (sl b : Nat) (f : Bank → Bank) : (s.modBank sl b f).slices = s.slices := rfl
@[simp] theorem State.modBank_ports (sl b : Nat) (f : Bank → Bank) : (s.modBank sl b f).ports = s.ports := rfl
@[simp] theorem State.modBank_slots (sl b : Nat) (f : Bank → Bank) : (s.modBank sl b f).slots = s.slots := rfl
@[simp] theorem State.modBank_net (sl b : Nat) (f : Bank → Bank) : (s.modBank sl b f).net = s.net := rfl
@[simp] theorem State.modBank_sysport (sl b : Nat) (f : Bank → Bank) : (s.modBank sl b f).sysport = s.sysport := rfl
@[simp] theorem State.modBank_fabric (sl b : Nat) (f : Bank → Bank) : (s.modBank sl b f).fabric = s.fabric := rfl
@[simp] theorem State.modBank_errors (sl b : Nat) (f : Bank → Bank) : (s.modBank sl b f).errors = s.errors := rfl
@[simp] theorem State.modBank_tuner (sl b : Nat) (f : Bank → Bank) : (s.modBank sl b f).tuner = s.tuner := rfl
@[simp] theorem State.modBank_power (sl b : Nat) (f : Bank → Bank) : (s.modBank sl b f).power = s.power := rfl
@[simp] theorem State.modBank_boot (sl b : Nat) (f : Bank → Bank) : (s.modBank sl b f).boot = s.boot := rfl
@[simp] theorem State.modBank_belfry (sl b : Nat) (f : Bank → Bank) : (s.modBank sl b f).belfry = s.belfry := rfl
@[simp] theorem State.modBank_free (sl b : Nat) (f : Bank → Bank) : (s.modBank sl b f).free = s.free := rfl
@[simp] theorem State.modBank_pending (sl b : Nat) (f : Bank → Bank) : (s.modBank sl b f).pending = s.pending := rfl

@[simp] theorem State.putF_build (a lo n v : Nat) : (s.putF a lo n v).build = s.build := rfl
@[simp] theorem State.putF_fuse (a lo n v : Nat) : (s.putF a lo n v).fuse = s.fuse := rfl
@[simp] theorem State.putF_pins (a lo n v : Nat) : (s.putF a lo n v).pins = s.pins := rfl
@[simp] theorem State.putF_time (a lo n v : Nat) : (s.putF a lo n v).time = s.time := rfl
@[simp] theorem State.putF_beat (a lo n v : Nat) : (s.putF a lo n v).beat = s.beat := rfl
@[simp] theorem State.putF_force (a lo n v : Nat) : (s.putF a lo n v).force = s.force := rfl
@[simp] theorem State.putF_mem (a lo n v : Nat) : (s.putF a lo n v).mem = s.mem := rfl
@[simp] theorem State.putF_slices (a lo n v : Nat) : (s.putF a lo n v).slices = s.slices := rfl
@[simp] theorem State.putF_ports (a lo n v : Nat) : (s.putF a lo n v).ports = s.ports := rfl
@[simp] theorem State.putF_slots (a lo n v : Nat) : (s.putF a lo n v).slots = s.slots := rfl
@[simp] theorem State.putF_net (a lo n v : Nat) : (s.putF a lo n v).net = s.net := rfl
@[simp] theorem State.putF_sysport (a lo n v : Nat) : (s.putF a lo n v).sysport = s.sysport := rfl
@[simp] theorem State.putF_fabric (a lo n v : Nat) : (s.putF a lo n v).fabric = s.fabric := rfl
@[simp] theorem State.putF_errors (a lo n v : Nat) : (s.putF a lo n v).errors = s.errors := rfl
@[simp] theorem State.putF_tuner (a lo n v : Nat) : (s.putF a lo n v).tuner = s.tuner := rfl
@[simp] theorem State.putF_power (a lo n v : Nat) : (s.putF a lo n v).power = s.power := rfl
@[simp] theorem State.putF_boot (a lo n v : Nat) : (s.putF a lo n v).boot = s.boot := rfl
@[simp] theorem State.putF_belfry (a lo n v : Nat) : (s.putF a lo n v).belfry = s.belfry := rfl
@[simp] theorem State.putF_free (a lo n v : Nat) : (s.putF a lo n v).free = s.free := rfl
@[simp] theorem State.putF_pending (a lo n v : Nat) : (s.putF a lo n v).pending = s.pending := rfl

@[simp] theorem State.putB_build (a i : Nat) (b : Bool) : (s.putB a i b).build = s.build := rfl
@[simp] theorem State.putB_fuse (a i : Nat) (b : Bool) : (s.putB a i b).fuse = s.fuse := rfl
@[simp] theorem State.putB_pins (a i : Nat) (b : Bool) : (s.putB a i b).pins = s.pins := rfl
@[simp] theorem State.putB_time (a i : Nat) (b : Bool) : (s.putB a i b).time = s.time := rfl
@[simp] theorem State.putB_beat (a i : Nat) (b : Bool) : (s.putB a i b).beat = s.beat := rfl
@[simp] theorem State.putB_force (a i : Nat) (b : Bool) : (s.putB a i b).force = s.force := rfl
@[simp] theorem State.putB_mem (a i : Nat) (b : Bool) : (s.putB a i b).mem = s.mem := rfl
@[simp] theorem State.putB_slices (a i : Nat) (b : Bool) : (s.putB a i b).slices = s.slices := rfl
@[simp] theorem State.putB_ports (a i : Nat) (b : Bool) : (s.putB a i b).ports = s.ports := rfl
@[simp] theorem State.putB_slots (a i : Nat) (b : Bool) : (s.putB a i b).slots = s.slots := rfl
@[simp] theorem State.putB_net (a i : Nat) (b : Bool) : (s.putB a i b).net = s.net := rfl
@[simp] theorem State.putB_sysport (a i : Nat) (b : Bool) : (s.putB a i b).sysport = s.sysport := rfl
@[simp] theorem State.putB_fabric (a i : Nat) (b : Bool) : (s.putB a i b).fabric = s.fabric := rfl
@[simp] theorem State.putB_errors (a i : Nat) (b : Bool) : (s.putB a i b).errors = s.errors := rfl
@[simp] theorem State.putB_tuner (a i : Nat) (b : Bool) : (s.putB a i b).tuner = s.tuner := rfl
@[simp] theorem State.putB_power (a i : Nat) (b : Bool) : (s.putB a i b).power = s.power := rfl
@[simp] theorem State.putB_boot (a i : Nat) (b : Bool) : (s.putB a i b).boot = s.boot := rfl
@[simp] theorem State.putB_belfry (a i : Nat) (b : Bool) : (s.putB a i b).belfry = s.belfry := rfl
@[simp] theorem State.putB_free (a i : Nat) (b : Bool) : (s.putB a i b).free = s.free := rfl
@[simp] theorem State.putB_pending (a i : Nat) (b : Bool) : (s.putB a i b).pending = s.pending := rfl

@[simp] theorem State.toReset_build (a : Nat) : (s.toReset a).build = s.build := rfl
@[simp] theorem State.toReset_fuse (a : Nat) : (s.toReset a).fuse = s.fuse := rfl
@[simp] theorem State.toReset_pins (a : Nat) : (s.toReset a).pins = s.pins := rfl
@[simp] theorem State.toReset_time (a : Nat) : (s.toReset a).time = s.time := rfl
@[simp] theorem State.toReset_beat (a : Nat) : (s.toReset a).beat = s.beat := rfl
@[simp] theorem State.toReset_force (a : Nat) : (s.toReset a).force = s.force := rfl
@[simp] theorem State.toReset_mem (a : Nat) : (s.toReset a).mem = s.mem := rfl
@[simp] theorem State.toReset_slices (a : Nat) : (s.toReset a).slices = s.slices := rfl
@[simp] theorem State.toReset_ports (a : Nat) : (s.toReset a).ports = s.ports := rfl
@[simp] theorem State.toReset_slots (a : Nat) : (s.toReset a).slots = s.slots := rfl
@[simp] theorem State.toReset_net (a : Nat) : (s.toReset a).net = s.net := rfl
@[simp] theorem State.toReset_sysport (a : Nat) : (s.toReset a).sysport = s.sysport := rfl
@[simp] theorem State.toReset_fabric (a : Nat) : (s.toReset a).fabric = s.fabric := rfl
@[simp] theorem State.toReset_errors (a : Nat) : (s.toReset a).errors = s.errors := rfl
@[simp] theorem State.toReset_tuner (a : Nat) : (s.toReset a).tuner = s.tuner := rfl
@[simp] theorem State.toReset_power (a : Nat) : (s.toReset a).power = s.power := rfl
@[simp] theorem State.toReset_boot (a : Nat) : (s.toReset a).boot = s.boot := rfl
@[simp] theorem State.toReset_belfry (a : Nat) : (s.toReset a).belfry = s.belfry := rfl
@[simp] theorem State.toReset_free (a : Nat) : (s.toReset a).free = s.free := rfl
@[simp] theorem State.toReset_pending (a : Nat) : (s.toReset a).pending = s.pending := rfl

/-! ### Time -/

@[simp] theorem State.pass_build (n : Nat) : (s.pass n).build = s.build := by unfold State.pass; split <;> rfl
@[simp] theorem State.pass_fuse (n : Nat) : (s.pass n).fuse = s.fuse := by unfold State.pass; split <;> rfl
@[simp] theorem State.pass_beat (n : Nat) : (s.pass n).beat = s.beat := by unfold State.pass; split <;> rfl
@[simp] theorem State.pass_csr (n : Nat) : (s.pass n).csr = s.csr := by unfold State.pass; split <;> rfl
@[simp] theorem State.pass_force (n : Nat) : (s.pass n).force = s.force := by unfold State.pass; split <;> rfl
@[simp] theorem State.pass_mem (n : Nat) : (s.pass n).mem = s.mem := by unfold State.pass; split <;> rfl
@[simp] theorem State.pass_slices (n : Nat) : (s.pass n).slices = s.slices := by unfold State.pass; split <;> rfl
@[simp] theorem State.pass_ports (n : Nat) : (s.pass n).ports = s.ports := by unfold State.pass; split <;> rfl
@[simp] theorem State.pass_slots (n : Nat) : (s.pass n).slots = s.slots := by unfold State.pass; split <;> rfl
@[simp] theorem State.pass_net (n : Nat) : (s.pass n).net = s.net := by unfold State.pass; split <;> rfl
@[simp] theorem State.pass_sysport (n : Nat) : (s.pass n).sysport = s.sysport := by unfold State.pass; split <;> rfl
@[simp] theorem State.pass_fabric (n : Nat) : (s.pass n).fabric = s.fabric := by unfold State.pass; split <;> rfl
@[simp] theorem State.pass_errors (n : Nat) : (s.pass n).errors = s.errors := by unfold State.pass; split <;> rfl
@[simp] theorem State.pass_tuner (n : Nat) : (s.pass n).tuner = s.tuner := by unfold State.pass; split <;> rfl
@[simp] theorem State.pass_power (n : Nat) : (s.pass n).power = s.power := by unfold State.pass; split <;> rfl
@[simp] theorem State.pass_boot (n : Nat) : (s.pass n).boot = s.boot := by unfold State.pass; split <;> rfl
@[simp] theorem State.pass_belfry (n : Nat) : (s.pass n).belfry = s.belfry := by unfold State.pass; split <;> rfl
@[simp] theorem State.pass_free (n : Nat) : (s.pass n).free = s.free := by unfold State.pass; split <;> rfl
@[simp] theorem State.pass_pending (n : Nat) : (s.pass n).pending = s.pending := by unfold State.pass; split <;> rfl
@[simp] theorem State.reach_build (t : Nat) : (s.reach t).build = s.build := State.pass_build s _
@[simp] theorem State.reach_fuse (t : Nat) : (s.reach t).fuse = s.fuse := State.pass_fuse s _
@[simp] theorem State.reach_beat (t : Nat) : (s.reach t).beat = s.beat := State.pass_beat s _
@[simp] theorem State.reach_csr (t : Nat) : (s.reach t).csr = s.csr := State.pass_csr s _
@[simp] theorem State.reach_force (t : Nat) : (s.reach t).force = s.force := State.pass_force s _
@[simp] theorem State.reach_mem (t : Nat) : (s.reach t).mem = s.mem := State.pass_mem s _
@[simp] theorem State.reach_slices (t : Nat) : (s.reach t).slices = s.slices := State.pass_slices s _
@[simp] theorem State.reach_ports (t : Nat) : (s.reach t).ports = s.ports := State.pass_ports s _
@[simp] theorem State.reach_slots (t : Nat) : (s.reach t).slots = s.slots := State.pass_slots s _
@[simp] theorem State.reach_net (t : Nat) : (s.reach t).net = s.net := State.pass_net s _
@[simp] theorem State.reach_sysport (t : Nat) : (s.reach t).sysport = s.sysport := State.pass_sysport s _
@[simp] theorem State.reach_fabric (t : Nat) : (s.reach t).fabric = s.fabric := State.pass_fabric s _
@[simp] theorem State.reach_errors (t : Nat) : (s.reach t).errors = s.errors := State.pass_errors s _
@[simp] theorem State.reach_tuner (t : Nat) : (s.reach t).tuner = s.tuner := State.pass_tuner s _
@[simp] theorem State.reach_power (t : Nat) : (s.reach t).power = s.power := State.pass_power s _
@[simp] theorem State.reach_boot (t : Nat) : (s.reach t).boot = s.boot := State.pass_boot s _
@[simp] theorem State.reach_belfry (t : Nat) : (s.reach t).belfry = s.belfry := State.pass_belfry s _
@[simp] theorem State.reach_free (t : Nat) : (s.reach t).free = s.free := State.pass_free s _
@[simp] theorem State.reach_pending (t : Nat) : (s.reach t).pending = s.pending := State.pass_pending s _

/-- The clk counter after time has passed. -/
@[simp] theorem State.pass_now (n : Nat) : (s.pass n).now = s.now + n := by
  unfold State.pass State.now
  split
  · subst_vars; rfl
  · rfl

@[simp] theorem State.reach_now (t : Nat) : (s.reach t).now = max s.now t := by
  unfold State.reach
  rw [State.pass_now]
  show s.now + (t - s.now) = _
  omega

/-! ### Registers -/

/-- A read after a write. -/
theorem State.rd_wr (a a' : Nat) (v : Word) : (s.wr a v).rd a' = if a' = a then v else s.rd a' := by
  unfold State.rd State.wr
  exact Tbl.get_put _ _ _ _ _ _ fun h => by rw [h]

@[simp] theorem State.rd_wr_same (a : Nat) (v : Word) : (s.wr a v).rd a = v := by rw [State.rd_wr, if_pos rfl]

theorem State.rd_wr_ne {a a' : Nat} (h : a' ≠ a) (v : Word) : (s.wr a v).rd a' = s.rd a' := by rw [State.rd_wr, if_neg h]

/-- What a register reads depends on the build and the table alone. -/
theorem State.rd_congr {s t : State} (hb : t.build = s.build) (hc : t.csr = s.csr) (a : Nat) : t.rd a = s.rd a := by
  unfold State.rd; rw [hb, hc]

@[simp] theorem State.setSlice_rd (sl : Nat) (x : SliceSt) (r : Nat) : (s.setSlice sl x).rd r = s.rd r := rfl
@[simp] theorem State.setPort_rd (sl p : Nat) (x : Port) (r : Nat) : (s.setPort sl p x).rd r = s.rd r := rfl
@[simp] theorem State.setSlot_rd (sl j : Nat) (x : Slot) (r : Nat) : (s.setSlot sl j x).rd r = s.rd r := rfl
@[simp] theorem State.setBank_rd (sl b : Nat) (x : Bank) (r : Nat) : (s.setBank sl b x).rd r = s.rd r := rfl
@[simp] theorem State.modSlice_rd (sl : Nat) (f : SliceSt → SliceSt) (r : Nat) : (s.modSlice sl f).rd r = s.rd r := rfl
@[simp] theorem State.modPort_rd (sl p : Nat) (f : Port → Port) (r : Nat) : (s.modPort sl p f).rd r = s.rd r := rfl
@[simp] theorem State.modSlot_rd (sl j : Nat) (f : Slot → Slot) (r : Nat) : (s.modSlot sl j f).rd r = s.rd r := rfl
@[simp] theorem State.modBank_rd (sl b : Nat) (f : Bank → Bank) (r : Nat) : (s.modBank sl b f).rd r = s.rd r := rfl
@[simp] theorem State.pass_rd (n r : Nat) : (s.pass n).rd r = s.rd r := State.rd_congr (s.pass_build n) (s.pass_csr n) r
@[simp] theorem State.reach_rd (t r : Nat) : (s.reach t).rd r = s.rd r := State.pass_rd s _ r

/-! ### Fields -/

theorem getLsbD_setFld (w : Word) (lo n v i : Nat) (h : lo + n ≤ 64) (hi : i < 64) :
    (setFld w lo n v).getLsbD i = if lo ≤ i ∧ i < lo + n then v.testBit (i - lo) else w.getLsbD i := by
  unfold setFld fldMask
  simp only [BitVec.getLsbD_or, BitVec.getLsbD_and, BitVec.getLsbD_not, BitVec.getLsbD_shiftLeft, BitVec.getLsbD_ofNat,
    Nat.testBit_two_pow_sub_one, Nat.testBit_mod_two_pow, hi, decide_true, Bool.true_and]
  by_cases h1 : lo ≤ i
  · by_cases h2 : i < lo + n
    · have h3 : ¬ i < lo := by omega
      have h4 : i - lo < n := by omega
      have h5 : i - lo < 64 := by omega
      simp [h1, h2, h3, h4, h5]
    · have h3 : ¬ i < lo := by omega
      have h4 : ¬ i - lo < n := by omega
      simp [h2, h3, h4]
  · have h3 : i < lo := by omega
    simp [h1, h3]

/-- A field that has been stored reads as what was stored, modulo its width. -/
theorem fld_setFld (w : Word) (lo n v : Nat) (h : lo + n ≤ 64) : fld (setFld w lo n v) lo n = v % 2 ^ n := by
  apply Nat.eq_of_testBit_eq
  intro i
  unfold fld
  rw [BitVec.testBit_toNat, BitVec.getLsbD_extractLsb', Nat.testBit_mod_two_pow]
  by_cases hi : i < n
  · rw [getLsbD_setFld _ _ _ _ _ h (by omega), if_pos ⟨by omega, by omega⟩]
    simp [hi]
  · simp [hi]

/-- A field that does not meet the one stored keeps its value. -/
theorem fld_setFld_ne (w : Word) (lo n v lo' n' : Nat) (h : lo + n ≤ 64) (h' : lo' + n' ≤ 64)
    (hd : lo' + n' ≤ lo ∨ lo + n ≤ lo') : fld (setFld w lo n v) lo' n' = fld w lo' n' := by
  apply Nat.eq_of_testBit_eq
  intro i
  unfold fld
  rw [BitVec.testBit_toNat, BitVec.testBit_toNat, BitVec.getLsbD_extractLsb', BitVec.getLsbD_extractLsb']
  by_cases hi : i < n'
  · rw [getLsbD_setFld _ _ _ _ _ h (by omega), if_neg (by omega)]
  · simp [hi]

theorem flag_setFld (w : Word) (lo n v i : Nat) (h : lo + n ≤ 64) (hi : i < 64) :
    flag (setFld w lo n v) i = if lo ≤ i ∧ i < lo + n then v.testBit (i - lo) else flag w i :=
  getLsbD_setFld w lo n v i h hi

theorem flag_setFlag (w : Word) (i j : Nat) (b : Bool) (hi : i < 64) (hj : j < 64) :
    flag (setFlag w i b) j = if j = i then b else flag w j := by
  unfold setFlag
  rw [flag_setFld _ _ _ _ _ (by omega) hj]
  by_cases h : j = i
  · subst h; cases b <;> simp
  · rw [if_neg (by omega), if_neg h]

theorem fld_setFlag (w : Word) (i lo n : Nat) (b : Bool) (hi : i < 64) (h : lo + n ≤ 64) (hd : lo + n ≤ i ∨ i < lo) :
    fld (setFlag w i b) lo n = fld w lo n := fld_setFld_ne w i 1 _ lo n (by omega) h (by omega)

theorem State.getF_putF_same (a lo n v : Nat) (h : lo + n ≤ 64) : (s.putF a lo n v).getF a lo n = v % 2 ^ n := by
  unfold State.getF State.putF; rw [State.rd_wr_same, fld_setFld _ _ _ _ h]

theorem State.rd_putF (a lo n v r : Nat) : (s.putF a lo n v).rd r = if r = a then setFld (s.rd a) lo n v else s.rd r :=
  State.rd_wr s a r _

theorem State.rd_putB (a i r : Nat) (b : Bool) : (s.putB a i b).rd r = if r = a then setFlag (s.rd a) i b else s.rd r :=
  State.rd_wr s a r _

/-! ### Units -/

theorem State.slice_setSlice (sl sl' : Nat) (x : SliceSt) : (s.setSlice sl x).slice sl' = if sl' = sl then x else s.slice sl' :=
  Tbl.get_put _ _ _ _ _ _ fun _ => rfl

theorem State.slot_setSlot (sl j j' : Nat) (x : Slot) (h : j < 16) (h' : j' < 16) (sl' : Nat) :
    (s.setSlot sl j x).slot sl' j' = if sl' = sl ∧ j' = j then x else s.slot sl' j' := by
  unfold State.slot State.setSlot
  rw [Tbl.get_put _ _ _ _ _ _ fun _ => rfl]
  by_cases hc : sl' = sl ∧ j' = j
  · rw [if_pos hc, if_pos (by omega)]
  · rw [if_neg hc, if_neg (by omega)]

theorem State.port_setPort (sl p p' : Nat) (x : Port) (h : p < 16) (h' : p' < 16) (sl' : Nat) :
    (s.setPort sl p x).port sl' p' = if sl' = sl ∧ p' = p then x else s.port sl' p' := by
  unfold State.port State.setPort
  rw [Tbl.get_put _ _ _ _ _ _ fun _ => rfl]
  by_cases hc : sl' = sl ∧ p' = p
  · rw [if_pos hc, if_pos (by omega)]
  · rw [if_neg hc, if_neg (by omega)]

theorem State.bank_setBank (sl b b' : Nat) (x : Bank) (h : b < 64) (h' : b' < 64) (sl' : Nat) :
    (s.setBank sl b x).bank sl' b' = if sl' = sl ∧ b' = b then x else s.bank sl' b' := by
  unfold State.bank State.setBank
  rw [Tbl.get_put _ _ _ _ _ _ fun _ => rfl]
  by_cases hc : sl' = sl ∧ b' = b
  · rw [if_pos hc, if_pos (by omega)]
  · rw [if_neg hc, if_neg (by omega)]

/-! ### Guards -/

theorem State.onSlice_of {sl : Nat} {t : State} (h : s.hasSlice sl = true) : s.onSlice sl t = .next t := by
  unfold State.onSlice; rw [if_pos h]

theorem State.onPort_of {sl p : Nat} {t : State} (h : s.hasPort sl p = true) : s.onPort sl p t = .next t := by
  unfold State.onPort; rw [if_pos h]

theorem State.onSlot_of {sl j : Nat} {t : State} (h : s.hasSlot sl j = true) : s.onSlot sl j t = .next t := by
  unfold State.onSlot; rw [if_pos h]

theorem State.onIndex_of {i n : Nat} {t : State} (h : i < n) : s.onIndex i n t = .next t := by
  unfold State.onIndex; rw [if_pos h]

/-- A register access that nothing stands in the way of is served at once. -/
theorem State.csrAccess_plain {a ctx : Nat} {f : State → State} (h : s.plain a ctx = true) : s.csrAccess a ctx f = f s := by
  unfold State.plain at h
  simp only [Bool.and_eq_true, Bool.or_eq_true, decide_eq_true_eq] at h
  obtain ⟨⟨⟨h1, h2⟩, h3⟩, h4⟩ := h
  unfold State.csrAccess
  rw [if_neg (by simp [h2]; omega), if_neg (by omega), if_neg (by omega)]
  have h5 : (if s.cplxPower ≠ 0 ∧ ctx = 63 ∧ s.cplxFailed = false then s.wake .complex 2 else s) = s := if_neg (by omega)
  simp only [h5]
  revert h4
  cases sliceOf a with
  | none => intro _; rfl
  | some x =>
    obtain ⟨sl, off⟩ := x
    intro h4
    simp only [Bool.and_eq_true, decide_eq_true_eq] at h4
    dsimp only
    rw [if_neg (by simp [h4.1]), if_neg (by omega), if_pos h4.2]

end Sys2Proof.Machine
end

