-- ==== Sys2Proof/WellFormed.lean ====
section
/-! DEFINITION. Well-formed commands: every operand lies in the range that the spec gives the thing it names. -/

namespace Sys2Proof

/-- The contexts that reach CSR space: 0 is Belfry, 63 the host (R116, R125). -/
def wfWriter (ctx : Nat) : Bool := decide (ctx = 0) || decide (ctx = 63)

/-- A logical slice (R30). -/
def wfSlice (sl : Nat) : Bool := decide (sl < 64)

/-- A port of a slice (R24: at most 16). -/
def wfPort (sl p : Nat) : Bool := wfSlice sl && decide (p < 16)

/-- A stream slot of a slice (R161). -/
def wfSlot (sl j : Nat) : Bool := wfSlice sl && decide (j < 16)

/-- A write of a register of slice `sl`. -/
def wfSliceWrite (sl ctx : Nat) : Bool := wfSlice sl && wfWriter ctx

/-- A write of a register of slot `j`. -/
def wfSlotWrite (sl j ctx : Nat) : Bool := wfSlot sl j && wfWriter ctx

/-- A request of a client port (R95): its fields fit their widths, and it names eight rows. -/
def PortReq.wf (r : PortReq) : Bool :=
  wfPort r.sl r.port && decide (r.tsl < 64) && decide (r.bset < 8) && decide (r.rows.length = 8) &&
    r.rows.all (fun n => decide (n < 4096)) && decide (r.ctx < 64) && decide (r.cls < 8) && decide (r.tag < 256)

/-- The data side of a write: eight lines (R95). -/
def PortData.wf (d : PortData) : Bool := decide (d.lines.length = 8)

/-- A clave operation of a client port (R98). -/
def ClaveReq.wf (r : ClaveReq) : Bool :=
  wfPort r.sl r.port && decide (r.tsl < 64) && decide (r.pair < 256) && decide (r.n < 65536) && decide (r.ctx < 64) &&
    decide (r.cls < 8) && decide (r.tag < 256)

/-- A place of issue. -/
def IssuePoint.wf : IssuePoint → Bool
  | .lane b => decide (b < 8)
  | .vectorRead j => decide (j < 16)
  | .vectorWrite j => decide (j < 16)
  | .routerPort p => decide (p < 16)
  | .routerLead j => decide (j < 16)
  | .routerFollow j => decide (j < 16)
  | .hostRead j => decide (j < 16)
  | .hostWrite j => decide (j < 16)

/-- Whose drain ends. -/
def DrainOf.wf : DrainOf → Bool
  | .handover sl => wfSlice sl
  | .unit => true
  | .kill c => decide (c < 64)

/-- A slice, or the complex. -/
def PowerTarget.wf : PowerTarget → Bool
  | .slice sl => wfSlice sl
  | .complex => true

/-- A Mladdin packet (R364): its fields fit their widths, and it holds at most 64 data lines. -/
def Packet.wf (p : Packet) : Bool :=
  decide (p.type < 16) && decide (p.ver < 16) && decide (p.src < 65536) && decide (p.dst < 65536) && decide (p.win < 64) &&
    decide (p.tag < 256) && decide (p.jobid < 2 ^ 32) && decide (p.offset < 2 ^ 25) && decide (p.len < 64) && decide (p.rid < 256) && decide (p.count < 65536) &&
    decide (p.code < 8) && decide (p.lines.length ≤ 64)

/-- A fault that BIST finds. -/
def BistFault.wf : BistFault → Bool
  | .row sl b m r => wfSlice sl && decide (b < 64) && decide (m < 4) && decide (r < 512)
  | .column sl b m i => wfSlice sl && decide (b < 64) && decide (m < 4) && decide (i < 80)
  | .bank sl b => wfSlice sl && decide (b < 64)

/-- A well-formed command. -/
def Instr.wf : Instr → Bool
  | .porRelease => true
  | .resetInputLow _ => true
  | .clkOkFall => true
  | .beatStrobe _ => true
  | .beatVisible => true
  | .clkMeasureWindow mhz => decide (mhz < 4096)
  | .mChange => true
  | .barBoundary => true
  | .rhyTableWrite sl _ phase _ ctx => wfSliceWrite sl ctx && decide (phase < 32)
  | .rhyCtrlWrite sl _ ctx => wfSliceWrite sl ctx
  | .tableSwitch sl => wfSlice sl
  | .beatArmedSwitch sl => wfSlice sl
  | .rhyPfenceWrite sl _ ctx => wfSliceWrite sl ctx
  | .cpRead r => r.wf
  | .cpWrite r d => r.wf && d.wf
  | .cpClvRead r => r.wf
  | .cpClvSignal r => r.wf
  | .cpClvTake r => r.wf
  | .cpReservedOp r op => r.wf && decide (5 ≤ op) && decide (op < 8)
  | .requestIssue sl point => wfSlice sl && point.wf
  | .mergeDrainAge sl bank => wfSlice sl && decide (bank < 64)
  | .cpResponse sl port => wfPort sl port
  | .cpRemoteResponse sl port => wfPort sl port
  | .cpFenceInRaise sl port => wfPort sl port
  | .cpFenceInLower sl port => wfPort sl port
  | .portRcRun sl _ ctx => wfSliceWrite sl ctx
  | .idFrame sl port _ _ => wfPort sl port
  | .idAbsent sl port => wfPort sl port
  | .idRetry sl port => wfPort sl port
  | .maintenanceClk sl bset t3fail => wfSlice sl && decide (bset < 8) && t3fail.all fun f => decide (f.1 < 8) && decide (f.2 < 1296)
  | .historyExpire sl bank => wfSlice sl && decide (bank < 64)
  | .rowRetire sl bank => wfSlice sl && decide (bank < 64)
  | .eccRetireRun sl _ ctx => wfSliceWrite sl ctx
  | .htabStageWrite h word _ ctx => decide (h < 4096) && decide (word < 3) && wfWriter ctx
  | .htabCommit h _ ctx => decide (h < 4096) && wfWriter ctx
  | .handleTakesEffect h => decide (h < 4096)
  | .ctxE0Write c _ ctx => decide (c < 64) && wfWriter ctx
  | .ctxKnextWrite c _ ctx => decide (c < 64) && wfWriter ctx
  | .ownXferGo sl _ ctx => wfSliceWrite sl ctx
  | .handoverDrainEnd sl => wfSlice sl
  | .handoverComplete sl => wfSlice sl
  | .drainTimeout of => of.wf
  | .spTargetRead addr len tag => decide (addr < 2 ^ 48) && decide (len < 64) && decide (tag < 64)
  | .spTargetWrite addr beats tag =>
    decide (addr < 2 ^ 48) && decide (beats.length ≠ 0) && decide (beats.length ≤ 64) && decide (tag < 64)
  | .spTargetBadOp op tag => decide (2 ≤ op) && decide (op < 4) && decide (tag < 64)
  | .spTargetResponse tag => decide (tag < 64)
  | .spInitResponse tag code _ => decide (tag < 64) && decide (code < 8)
  | .syswinWrite i reg _ ctx => decide (i < 16) && decide (reg < 4) && wfWriter ctx
  | .remoteRequestArrive _ => true
  | .remoteResponseArrive _ => true
  | .burstRelease sl out => wfSlice sl && decide (out < 6)
  | .shareWindowStart => true
  | .qosShareWrite c _ ctx => decide (c < 8) && wfWriter ctx
  | .csrPealWrite off _ ctx => decide (off < 0x10000) && decide (off % 8 = 0) && wfWriter ctx
  | .memPealWrite off _ _ ctx => decide (off < 0x100000) && decide (off % 64 = 0) && wfWriter ctx
  | .pealDeliver _ sl => wfSlice sl
  | .pealComplete _ => true
  | .mcastStrokeSend g => decide (g < 16)
  | .mcastLand g r => decide (g < 16) && wfSlice r
  | .mcastAckMerge g _ => decide (g < 16)
  | .mcastResend g => decide (g < 16)
  | .mcastShed g r => decide (g < 16) && wfSlice r
  | .seArm sl slot _ ctx => wfSlotWrite sl slot ctx
  | .seResume sl slot _ ctx => wfSlotWrite sl slot ctx
  | .seStop sl slot _ ctx => wfSlotWrite sl slot ctx
  | .stopComplete sl slot => wfSlot sl slot
  | .slotStart sl slot => wfSlot sl slot
  | .slotPaused sl slot => wfSlot sl slot
  | .instrFetchArrive sl slot => wfSlot sl slot
  | .descBurstArrive sl slot => wfSlot sl slot
  | .nop sl slot => wfSlot sl slot
  | .halt sl slot => wfSlot sl slot
  | .mark sl slot => wfSlot sl slot
  | .loop sl slot => wfSlot sl slot
  | .endl sl slot => wfSlot sl slot
  | .jump sl slot => wfSlot sl slot
  | .knext sl slot => wfSlot sl slot
  | .seth sl slot => wfSlot sl slot
  | .sets sl slot => wfSlot sl slot
  | .wait sl slot => wfSlot sl slot
  | .waitSatisfied sl slot => wfSlot sl slot
  | .signal sl slot => wfSlot sl slot
  | .waitbeat sl slot => wfSlot sl slot
  | .deadline sl slot => wfSlot sl slot
  | .rearm sl slot => wfSlot sl slot
  | .rearmExecute sl slot => wfSlot sl slot
  | .move sl slot => wfSlot sl slot
  | .mcast sl slot => wfSlot sl slot
  | .remote sl slot => wfSlot sl slot
  | .toll sl slot => wfSlot sl slot
  | .fill sl slot => wfSlot sl slot
  | .copy sl slot => wfSlot sl slot
  | .accin sl slot => wfSlot sl slot
  | .convert sl slot => wfSlot sl slot
  | .gemv sl slot => wfSlot sl slot
  | .reduce sl slot => wfSlot sl slot
  | .wipe sl slot => wfSlot sl slot
  | .scrub sl slot => wfSlot sl slot
  | .illegalOp sl slot => wfSlot sl slot
  | .instructionRetire sl slot => wfSlot sl slot
  | .seAccessResponse sl slot _ => wfSlot sl slot
  | .fencedReissue sl slot => wfSlot sl slot
  | .guardHeldRetry sl slot => wfSlot sl slot
  | .strikeStep sl bset => wfSlice sl && decide (bset < 8)
  | .accumTake sl slot => wfSlot sl slot
  | .reductionTree sl slot => wfSlot sl slot
  | .strkSeedWrite sl bank _ ctx => wfSliceWrite sl ctx && decide (bank < 64)
  | .semPairWrite sl n _ ctx => wfSliceWrite sl ctx && decide (n < 256)
  | .semOpSignal sl _ ctx => wfSliceWrite sl ctx
  | .semOpTake sl _ ctx => wfSliceWrite sl ctx
  | .errorRecordWrite => true
  | .ceWindowEnd sl => wfSlice sl
  | .errRdWrite _ ctx => wfWriter ctx
  | .errFirstclr _ ctx => wfWriter ctx
  | .scrubCtlGo sl _ ctx => wfSliceWrite sl ctx
  | .scrubCtlStop sl _ ctx => wfSliceWrite sl ctx
  | .scrubPassComplete sl => wfSlice sl
  | .tunerPassStart => true
  | .tunerScanEnd r _ => decide (r < 11)
  | .tunerReloadDone r _ => decide (r < 11)
  | .tunerRecheck r _ ctx => decide (r < 11) && wfWriter ctx
  | .tunerRebase r _ ctx => decide (r < 11) && wfWriter ctx
  | .belfryChallenge words => decide (words.length = 8)
  | .tunerChexpGo _ ctx => wfWriter ctx
  | .challengeResult => true
  | .challengeLate => true
  | .sliceDampRequest sl ctx => wfSliceWrite sl ctx
  | .sliceOffRequest sl ctx => wfSliceWrite sl ctx
  | .slicePlayRequest sl ctx => wfSliceWrite sl ctx
  | .cplxDampRequest ctx => wfWriter ctx
  | .cplxTapRequest ctx => wfWriter ctx
  | .cplxPlayRequest ctx => wfWriter ctx
  | .powerEntryStep target => target.wf
  | .wakeEvent target cause => target.wf && decide (1 ≤ cause) && decide (cause ≤ 5)
  | .wakeStepReady target => target.wf
  | .wakeStepTimeout target => target.wf
  | .offRestoreDone sl => wfSlice sl
  | .tapClkReq => true
  | .tapBurst => true
  | .tapSleep => true
  | .pwrVreqGo _ ctx => wfWriter ctx
  | .pwrVreqClr _ ctx => wfWriter ctx
  | .avsAck ack _ => decide (ack < 4)
  | .avsBusyRetry => true
  | .avsVoltagePoll mv => decide (mv < 65536)
  | .avsTimeout => true
  | .sensorWindow sl _ => wfSlice sl
  | .droopEvent sl => wfSlice sl
  | .imageBoot => true
  | .fuseCopy => true
  | .hardwareFill => true
  | .fastCheck failing => failing.all fun f => decide (f.1 < 64) && decide (f.2 < 64)
  | .bist faults startMv => faults.all BistFault.wf && decide (startMv < 65536)
  | .repairApply => true
  | .settingsRead _ logicMv arrayMv => decide (logicMv < 65536) && decide (arrayMv < 65536)
  | .settingsCommit => true
  | .fullRelease => true
  | .portReset sl port ctx => wfPort sl port && wfWriter ctx
  | .engineReset sl ctx => wfSliceWrite sl ctx
  | .sliceReset sl ctx => wfSliceWrite sl ctx
  | .partitionReset q ctx => decide (q < 16) && wfWriter ctx
  | .warmReset ctx => wfWriter ctx
  | .belfryReset ctx => wfWriter ctx
  | .fullReset ctx => wfWriter ctx
  | .resetDrainEnd => true
  | .ctxKillWrite _ ctx => wfWriter ctx
  | .killMarkArrive c sl => decide (c < 64) && wfSlice sl
  | .killDrainEnd c => decide (c < 64)
  | .killComplete c => decide (c < 64)
  | .ctxSoloWrite _ ctx => wfWriter ctx
  | .fpWriteIn p => p.wf
  | .fpWritepIn p => p.wf
  | .fpReadIn p => p.wf
  | .fpWrspIn p => p.wf
  | .fpRdataIn p => p.wf
  | .fpKnellIn p => p.wf
  | .fpBadPacket p => p.wf
  | .fpPacketSend sl slot => wfSlot sl slot
  | .chwinOpen w _ ctx => decide (w < 64) && wfWriter ctx
  | .chwinClose w _ ctx => decide (w < 64) && wfWriter ctx
  | .chwinDrainDone w => decide (w < 64)
  | .chwinDtmo w => decide (w < 64)
  | .fpKnellGo _ ctx => wfWriter ctx
  | .knellSend => true
  | .mboxInfo => true
  | .mboxSensors current temperature => decide (current < 2 ^ 32) && decide (temperature < 2 ^ 32)
  | .logRead => true
  | .dumpDir => true
  | .dumpRead => true
  | .dumpCapture => true
  | .dumpFree => true
  | .updBegin => true
  | .updData => true
  | .updEnd => true
  | .repairSave => true
  | .lcNonce => true
  | .lcChange => true
  | .mboxUnknown => true
  | .mboxNotServing _ ctx => wfWriter ctx
  | .mboxCommandDone => true
  | .flashPoll _ => true
  | .flashTimeout => true
  | .belfryTrap => true
  | .logRecord => true
  | .csrWrite addr _ ctx => decide (addr < 2 ^ 23) && decide (addr % 8 = 0) && wfWriter ctx
  | .stageB7RollCall => true

end Sys2Proof
end

