-- ==== Sys2Proof/Tests/Slice0.lean ====
section
/-! SUPPORT. The model's own tests: an ill-formed command for each check of `Instr.wf`, single steps of commands and worked
examples with results written out from the spec, and a state that meets the hypotheses of each statement. -/

open Sys2Proof Sys2Proof.Machine

-- One theorem after another: kernel evaluations side by side would each hold a thread of their own.
set_option Elab.async false

namespace Sys2Proof.Tests

/-! ### A state that meets the hypotheses of each statement -/

/-- After B4, in Play: CSR space is served. -/
def up : State := State.reset.putB A.glbState 5 true

/-- Released, at stage `n` of bring-up. -/
def atStage (n : Nat) : State := { up with boot := { up.boot with released := true, next := n } }

theorem witness_StepIdles : up.pending = [] ∧ up.pins.clkOk = true ∧
    (let s : State := { up with pins := { up.pins with clkOk := false } }
     s.pending = [] ∧ s.pins.clkOk = false ∧ s.pins.pgood = true) ∧
    (let s : State := { up with pins := { up.pins with clkOk := false, pgood := false } }
     s.pending = [] ∧ s.pins.clkOk = false ∧ s.pins.pgood = false) := by decide +kernel

theorem witness_EveryCommandKeeps : (Instr.tableSwitch 31).reaches up = true ∧ (Instr.tableSwitch 64).reaches up = false := by
  decide +kernel

/-- A strobe that is high in the present clk. -/
def strobed : State := { atStage 0 with beat := { (atStage 0).beat with high := some 0 } }

theorem witness_BeatStrobeTable : ((atStage 0).boot.released = true ∧ (atStage 0).pins.clkOk = true ∧
      (atStage 0).strobeHeld = false) ∧ (strobed.boot.released = true ∧ strobed.pins.clkOk = true ∧ strobed.strobeHeld = true) ∧
    State.reset.boot.released = false := by decide +kernel

theorem witness_BeatBecomesVisible : ((atStage 0).boot.released = true ∧ (atStage 0).pins.clkOk = true ∧
      (atStage 0).strobeHeld = false ∧ (atStage 0).beat.last = none) ∧
    (({ up with beat := { up.beat with coming := [(2 ^ 48 - 1, 3)] } } : State).beat.coming = [(2 ^ 48 - 1, 3)] ∧
      2 ^ 48 - 1 < 2 ^ 48) := by decide +kernel

/-- Fifteen measured windows in a range of lower M. -/
def slow : State := { up with time := { up.time with nextM := 1, lows := List.replicate 15 0 } }

theorem witness_ClockMeasured : (slow.time.nextM < logM 0) ∧ (0 < 4096 ∧ 4095 < 4096) ∧
    (logM 4095 < slow.time.nextM ∧ 15 ≤ slow.time.lows.length ∧ slow.getB A.glbMaint 4 = false) ∧
    (logM 4095 < up.time.nextM ∧ up.time.lows.length < 15) ∧ logM 529 = up.time.nextM := by decide +kernel

theorem witness_BarsTakeEffect : ((slow.toBar slow.time.decidedAt).dueM ≠ slow.getF A.glbMaint 2 2) ∧ up.force.waiting = [] ∧
    ({ up with force := { up.force with waiting := [(0, 0)] } } : State).force.waiting ≠ [] := by decide +kernel

/-- A handover of bank 63 of slice 31, `d` with its drain over. -/
def aHandover (d : Bool) : Handover := ⟨1 <<< 63, 1, false, 0, none, d, 0, 0⟩

/-- It is under way. -/
def handing (d : Bool) : State := up.modSlice 31 fun x => { x with handover := some (aHandover d) }

theorem witness_ResetInputs : State.reset.boot.released = false ∧ up.pins.clkReq = true ∧
    (((handing false).slice 31).handover = some (aHandover false) ∧ (handing false).hasSlice 31 = true) ∧
    (up.putB A.pwrVreq 18 true).getB A.pwrVreq 18 = true ∧
    ({ up with pins := { up.pins with clkReq := false } } : State).pins.clkReq = false := by decide +kernel

theorem witness_RhythmWrites : (up.hasSlice 31 = true ∧ 31 < 32 ∧ up.plain (A.rhyA 31 31) 63 = true ∧ up.plain (A.rhyB 31 31) 0 = true) ∧
    up.tableIdle 31 true = true ∧ up.tableIdle 31 false = false ∧ up.plain (A.rhyCtrl 31) 63 = true ∧
    up.plain (A.rhyPfence 0) 63 = true := by decide +kernel

/-- NEXT differs from ACTIVE; `armed` with the beat condition, which zero meets once a beat has been seen. -/
def toSwitch (armed : Bool) : State :=
  ((up.putB (A.rhyCtrl 31) 1 true).putB (A.rhyCtrl 31) 2 armed).putB A.glbBeat 51 true

theorem witness_RhythmSwitches : ((toSwitch false).hasSlice 31 = true ∧ (toSwitch false).switchPending 31 = true ∧
      (toSwitch false).getB (A.rhyCtrl 31) 2 = false ∧ (toSwitch false).notOk 0 31 = false) ∧
    ((toSwitch true).switchPending 31 = true ∧ (toSwitch true).getB (A.rhyCtrl 31) 2 = true ∧ (toSwitch true).notOk 0 31 = false ∧
      (toSwitch true).beatReached ((toSwitch true).getF (A.rhySwitch 31) 0 48) = true) ∧
    up.switchPending 31 = false := by decide +kernel

/-- Slice 0 released, port 0 of it called. -/
def live : State :=
  (up.modSlice 0 fun x => { x with released := true }).modPort 0 0 fun x => { x with rcFence := false, called := true }

/-- A read of bank set 0 of slice 0 by context 63, of all eight lines. -/
def aRead : PortReq := ⟨0, 0, 0, 0, List.replicate 8 4095, 0xFF, BitVec.allOnes 64, 63, 7, 255⟩

/-- A read of pair 255 of slice 0. -/
def aClave : ClaveReq := ⟨0, 0, 0, 255, true, 65535, 63, 0, 0⟩

/-- A write of every byte of every line. -/
def someData : PortData := ⟨List.replicate 8 (0, BitVec.allOnes 64), 0⟩

theorem witness_PortAcceptsRequests : live.hasPort 0 0 = true ∧
    (let w := live.wakeFor 0 1
     w.portAwake 0 = true ∧
     (let e := w.takeEdge 0 0 1
      (w.atEdge 0 0 e).portReady 0 0 (w.edgeClk 0 e) = true) ∧
     (let b := live.beats 0 (hiLines (portLineAccs aRead someData (live.getB (A.portCfg 0 0) 9)))
      let e := w.takeEdge 0 0 b
      (w.atEdge 0 0 e).portReady 0 0 (w.edgeClk 0 (w.firstEdge 0 0 b e)) = true)) ∧
    (Instr.cpClvTake aClave, 2) ∈ [(Instr.cpClvRead aClave, 0), (.cpClvSignal aClave, 1), (.cpClvTake aClave, 2)] := by
  decide +kernel

/-- The read waits in the converter of port 0. -/
def waits : State := live.modPort 0 0 fun x => { x with queue := [mkPortReq aRead false (portLineAccs aRead noPortData false) 0] }

/-- An OK response to a port. -/
def anOk : Resp := ⟨.port 0 0, 63, 0, 0, false, rspOk, [], none, 0, 0, 0, 0⟩

/-- Responses wait at port 0. -/
def answered : State := live.modPort 0 0 fun x => { x with localRsps := [anOk], remoteRsps := [anOk], rout := 1 }

theorem witness_PortAnswers : (live.hasPoint (.lane 7) = true ∧ live.hasSlice 0 = true ∧ live.pointMay 0 (.lane 7) = true ∧
      live.hasPoint (.routerPort 3) = true ∧ live.pointMay 0 (.routerPort 3) = true) ∧
    (let u := (waits.settleReady 0).pumpEngine 0
     ((u.firstWin 0 0 (u.others 0 0) (fun x => decide (x ≠ 19) || u.passOn 0 0) 64 (u.laneFrom 0 0)).map fun q =>
       decide (q.2 = 0) && (u.choose 0 0 (u.cands 0 0 0 q.1)).isSome) = some true) ∧
    (answered.hasPort 0 0 = true ∧ answered.sliceUp 0 = true ∧ ((answered.settleFirst 0 0).port 0 0).localRsps = [anOk]) ∧
    ((answered.settlePort 0 0 0).port 0 0).remoteRsps = [anOk] := by decide +kernel

/-- The roll call of port 0 is under way, at attempt `n`. -/
def calling (n : Nat) (d : Option Nat) (at' : Nat) : State :=
  let s := (live.modPort 0 0 fun x => { x with calling := true, attempts := n, retryDue := d, calledAt := at' }).pass 500
  { s with belfry := { s.belfry with inReset := false } }

theorem witness_PortFencesAndRollCall : live.hasPort 0 3 = true ∧ live.hasSlice 31 = true ∧ live.plain (A.portRc 31) 63 = true ∧
    (let s := calling 2 none 100
     s.hasPort 0 0 = true ∧ s.idListens 0 0 = true ∧ max (s.edgeAt 0 s.now) ((s.port 0 0).calledAt + 145) ≤ (s.port 0 0).calledAt + 400 ∧
      2 ≤ (s.port 0 0).attempts ∧ ((calling 1 none 100).port 0 0).attempts < 2 ∧ (calling 1 none 100).idListens 0 0 = true) ∧
    (let s := calling 2 none 0
     s.idListens 0 0 = true ∧ (s.port 0 0).calledAt + 400 < max (s.edgeAt 0 s.now) ((s.port 0 0).calledAt + 145)) ∧
    (crc16 1 = crc16 1 ∧ (1 : BitVec 128).extractLsb' 0 8 = 1) ∧ crc16 (0 : BitVec 128) ≠ crc16 0 ^^^ 1 ∧
    (let s := calling 0 (some 16) 0
     (s.port 0 0).retryDue = some 16 ∧ (s.port 0 0).calling = true ∧ s.belfry.inReset = false) ∧ 15 < 16 ∧ 7 < 8 := by
  decide +kernel

theorem witness_StoredWordDecodes : 79 < 80 := by decide

theorem witness_TwoWrongBitsAreCorrected : 78 < 79 ∧ 79 < 80 := by decide

theorem witness_WrongAddressIsReported : (15 < 16 ∧ (15 = 15 ↔ 15 = 15) ∧ (15 = 15 ∨ 15 ≠ 15)) ∧
    (13 < 16 ∧ 14 < 16 ∧ (13 = 14 ↔ 13 = 15) ∧ (13 = 14 ∨ 14 ≠ 15)) := by decide

/-- A full entry of a merge buffer, born in clk 0. -/
def anEntry (m : Bool) : MergeEntry := ⟨4095, BitVec.allOnes 64, 0, 0, 0, m⟩

/-- Bank 63 of slice 31 with an entry, a self-test, a history and a pending retirement. -/
def busyBank (m : Bool) : State :=
  (up.modBank 31 63 fun x => { x with merge := [anEntry m], hist := [⟨0, 1, 0⟩, ⟨1, 1, 0⟩] }).modSlice 31 fun x =>
    { x with retire := [(63, 3, 511)] }

theorem witness_WholeLineReadsBack : 63 < 64 ∧ 4095 < 4096 ∧ 7 < 8 ∧ (∀ x, ((busyBank true).bank 31 63).test = some x → x.buf.length = 16) := by
  have h : ((busyBank true).bank 31 63).test = none := by decide +kernel
  simp [h]

theorem witness_BankUpkeep : ((busyBank true).hasSlice 31 = true ∧ 63 < 64 ∧
      ((busyBank true).bank 31 63).merge.find? MergeEntry.marked = some (anEntry true)) ∧
    ((∀ x ∈ ((busyBank false).bank 31 63).merge, x.marked = false) ∧
      oldestEntry ((busyBank false).bank 31 63).merge = some (anEntry false)) ∧
    (7 < 8 ∧ up.slicePower 31 ≠ 2 ∧ up.cplxPower ≠ 2) ∧ ((busyBank true).bank 31 63).hist ≠ [] ∧
    (let q := (busyBank true).putF (A.ctxE0 63) 32 2 2
     (q.slice 31).retire.find? (fun r => r.1 = 63) = some (63, 3, 511) ∧ q.quiesced 31 63 = true) ∧ up.plain (A.eccRetire 31) 63 = true := by decide +kernel

theorem witness_WipedBankReadsZero : 63 < 64 ∧ 4095 < 4096 ∧ 7 < 8 ∧ ((31, 62) : Nat × Nat) ≠ (31, 63) := by decide

/-- A descriptor of 64 elements of 8 bits by H0: one line. -/
def oneLine : Line := (0xF0 : Line) ||| ((64 + 64 * 2 ^ 24 : Line) <<< 64)

/-- Slot 0 of slice 0 runs for context 1, which runs; handle 5 is a plain entry of context 1. -/
def engine : State :=
  let s := (live.putF (A.ctxE0 1) 32 2 1).putF (A.seSlotCtl 0 0) 0 14 (2 + 1 * 256)
  { s with force := { s.force with mirror :=
      [(20, BitVec.ofNat 64 (1 + 1 * 2 ^ 6 + 3 * 2 ^ 9 + 3 * 2 ^ 13 + 4096 * 2 ^ 32)), (22, 1), (23, BitVec.ofNat 64 (4096 * 2 ^ 32))] } }

/-- A block instruction of slot 0 with one block of lines of handle 5, whose descriptors and source line are there. -/
def aBlock (op low n : Nat) : Inst :=
  { engine.newInst 0 0 (BitVec.ofNat 64 (op * 2 ^ 56 + 1 * 2 ^ 16 + low)) with
    h := List.replicate 8 (5, 0), descs := [(0, List.replicate n oneLine)], buf := [⟨0, 0, 0, 0, 0, 0⟩], rblk := 1 }

/-- Slot 0 holds that one instruction. -/
def withInst (i : Inst) : State := engine.modSlot 0 0 fun x => { x with insts := [i], nextNo := 1 }

/-- A Carillon transfer of group 15 to slice `r`, with what it has sent and which receivers have refused. -/
def aXfer (r : Nat) (st : List Stroke) (refused : List Nat) : Xfer :=
  ⟨15, 0, 0, 0, [r], st.length, st, [], refused, [(r, 1)], 0, [], 1, 0⟩

def casting (r : Nat) (i : Inst) (st : List Stroke) (refused : List Nat) : State :=
  let s := withInst i
  { s with net := { s.net with xfers := [aXfer r st refused] } }

theorem witness_HandleStaging : (4095 < 4096 ∧ 2 < 3 ∧ up.plain (A.htabE0 4095 + 8 * 2) 63 = true) ∧ up.plain (A.htabE0 0) 0 = true := by
  decide +kernel

theorem witness_HandleCommit : 4095 < 4096 ∧ up.plain (A.htabE3 4095) 63 = true ∧
    (let ws := up.commitWords 4095 0 63
     up.commitOk 4095 (HEntry.ofWords (ws.getD 0 0) (ws.getD 1 0) (ws.getD 2 0) (ws.getD 3 0)) = true) ∧
    up.commitOk 4095 { HEntry.ofWords 0 0 0 0 with type := 7 } = false := by decide +kernel

/-- A commit of the last entry waits. -/
def committed : State :=
  let s := up.wr (A.htabE0 4095) 1
  { s with force := { s.force with commits := [⟨4095, 63, true, some 1⟩], mirror := [(16380, 1)] } }

/-- The peal write that carries it has only slice 31 left to reach. -/
def mirroring : State :=
  { committed with
    force := { committed.force with commits := [⟨4095, 63, true, none⟩] }
    net := { committed.net with peals := [⟨0, false, 0, 0, 0xFF, 63, 0, none, [31], [], rspOk, 0, 0, some 4095⟩] } }

theorem witness_HandleTakesEffect : (4095 < 4096 ∧
      committed.force.commits.find? (fun x => x.h = 4095) = some ⟨4095, 63, true, some 1⟩ ∧
      (committed.reach 2).commitReady 4095 1 = true) ∧
    ((mirroring.pealOf 0).map fun p => (p.left, p.mirror)) = some ([31], some 4095) ∧
    (mirroring.pealReached 0 31).force.commits.length = 1 := by decide +kernel

theorem witness_ContextWrites : (62 < 64 ∧ up.plain (A.ctxE0 62) 63 = true ∧ (1 ≠ up.ctxState 62) ∧ up.stateMayChange 62 0 1 = true ∧
      up.stateMayChange 62 0 3 = false ∧ 3 ≠ up.ctxState 62) ∧ (up.plain (A.ctxE1 63) 0 = true ∧ flag (setFlag 0 32 true) 32 = true ∧
      flag (0 : Word) 32 = false ∧ up.atBoundary 63 = false) := by decide +kernel

/-- The kill of context 62, marked everywhere. -/
def aKill (d : Bool) : Kill := ⟨62, 0, List.range 32, d, true, 0, false⟩

def killing (d : Bool) : State :=
  let s := (up.putB A.ctxKill 62 true).putF (A.ctxE0 62) 32 2 3
  { s with boot := { s.boot with kills := [aKill d] } }

/-- The reset of the stream engine of slice 31 is under way. -/
def aReset : UnitReset := ⟨2, 31, 0, 0, 0, false⟩

def resetting : State := { up with boot := { up.boot with released := true, reset := some aReset } }

theorem witness_BankHandover : (up.hasSlice 31 = true ∧ up.plain (A.ownXfer 31) 63 = true ∧ up.getB (A.ownXfer 31) 8 = false) ∧
    (((handing false).slice 31).handover = some (aHandover false) ∧ (aHandover false).drained = false) ∧
    (((handing true).slice 31).handover = some (aHandover true) ∧ (aHandover true).drained = true ∧ (aHandover true).newOwner < 64) ∧
    (resetting.boot.reset = some aReset ∧ aReset.drained = false ∧ resetting.unitAwake aReset = true) ∧
    (62 < 64 ∧ (killing false).killOf 62 = some (aKill false) ∧ (killing false).killDraining 62 = true) := by decide +kernel

/-- A read of CSR space by the host, and one of an address that no window holds. -/
def spRead (a : Nat) : SpStaged := ⟨a, false, 0, 63, [], up.sysWindow a, false⟩

/-- A request of its class is staged, under tag 62. -/
def staging : State := { up with sysport := { up.sysport with staged := [{ spRead 0 with tag := 62 }] } }

theorem witness_SystemPortTarget : ((spRead 0).tag < 64 ∧ (spRead 0).win = up.sysWindow 0 ∧ (spRead 0).range = up.tagUsed (spRead 0) ∧
      up.spReady = true ∧ (up.spAwake (spRead 0)).1 = true ∧ (up.spAwake (spRead 0)).2.spCan (spRead 0) = true ∧
      (∀ x ∈ (up.spAwake (spRead 0)).2.sysport.staged, up.spClass x ≠ up.spClass (spRead 0))) ∧
    ((spRead 0).range = staging.tagUsed (spRead 0) ∧ staging.spReady = true ∧ (staging.spAwake (spRead 0)).1 = true ∧
      (∃ x ∈ (staging.spAwake (spRead 0)).2.sysport.staged, staging.spClass x = staging.spClass (spRead 0))) ∧
    (staging.tagUsed { spRead 0 with tag := 62 } = true ∧ staging.ctxState (staging.sysCtx 0) ≠ 3) ∧
    (2 ≤ 3 ∧ 3 < 4 ∧ 63 < 64 ∧ up.spReady = true ∧ up.cplxAwake = true) ∧ up.sysWindow (2 ^ 32 - 1) = none := by decide +kernel

/-- A target request that is complete, and an initiator request. -/
def aTxn : SpTxn := ⟨63, false, 0, 63, 0, 1, 0, [], rspOk, 0, 5, []⟩

def anInit : SpInit := ⟨63, 0, 0, 0, false, 0, [(0, BitVec.allOnes 64)], 0, 1⟩

def busyPort : State := { up with sysport := { up.sysport with txns := [aTxn], inits := [anInit] } }

theorem witness_SystemPortResponses : (busyPort.sysport.txns.find? fun t => t.tag = 63 ∧ t.need = 0) = some aTxn ∧
    (busyPort.sysport.inits.find? fun i => i.tag = 63) = some anInit ∧ (up.sysport.inits.find? fun i => i.tag = 63) = none ∧ 7 < 8 := by
  decide +kernel

theorem witness_SystemWindowWrite : 15 < 16 ∧ 3 < 4 ∧ up.plain (A.syswinBase 15 + 8 * 3) 63 = true := by decide +kernel

/-- A request of port 0 of slice 0 to slice 1, which is released. -/
def aReq (cl : Option ClaveOp) (l : List LineAcc) : Req :=
  { origin := .port 0 0, write := false, ctx := 63, cls := 0, tag := 0, home := 1, bset := 0, lines := l, clave := cl, owner := 0
    since := 0 }

def inMesh (cl : Option ClaveOp) (l : List LineAcc) : State :=
  (live.modSlice 1 fun x => { x with released := true }).sendPkt 0 (aReq cl l)

/-- That state when the packet has arrived, and what it is then at its home slice. -/
def atHome (s : State) : State :=
  let a := ((s.meshEvent fun n => n.lastOut 0 (s.exitKey 1)).getD s).wakeFor 1 1
  { a with net := { a.net with pkts := dropAt a.net.pkts 0 } }

/-- A flit that comes to output X+ of router 0 in clk 70, which a burst has held since clk 3. -/
def aFlight : Flight := ⟨0, 0, 0, 2, 8, false, 70, 1, [⟨0, 0, []⟩], none⟩

def holding : State := { live with net := { live.net with flights := [aFlight], held := [⟨0, 9, 3, 3⟩], meshAt := 5 } }

/-- The same with the head of the packet one output further. -/
def aRoute : Flight := { aFlight with way := [⟨7, 0, [70, 71]⟩, ⟨0, 0, [72]⟩] }

theorem witness_MeshArrivals : 0 % 8 ≠ 7 ∧
    (holding.net.holder 0 = some ⟨0, 9, 3, 3⟩ ∧ 3 + 64 ≤ 70 ∧ ((holding.linkStep 70 0).net.holder 0).isSome = true) ∧
    (5 < 6 ∧ live.hasSlice 31 = true ∧ live.logical (live.outKey (live.pos 31) 5 / 8) = 31 ∧
      live.phys 31 = live.outKey (live.pos 31) 5 / 8) ∧
    (aRoute.way[1]? = some ⟨0, 0, [72]⟩ ∧ aRoute.way[0]? = some ⟨7, 0, [70, 71]⟩ ∧ 0 ≠ 1 ∧ 1 < aRoute.flits ∧ [70, 71][1]? = some 71) ∧
    (holding.hasSlice 0 = true ∧ holding.outKey (holding.pos 0) 0 = 0 ∧ 3 ≤ holding.net.meshAt) ∧
    (let s := inMesh (some ⟨0, 255, true, 0⟩) []
     (s.net.pkts[0]?.map fun p => (p.flight, p.dst, p.req)) = some (0, 1, aReq (some ⟨0, 255, true, 0⟩) []) ∧
     (s.net.pkts[0]?.map fun p => firstOfRoute s.net.pkts 0 p) = some true ∧ (atHome s).sliceServes 1 = true ∧
     ((atHome s).slice 1).fenceOff = false) ∧
    ((atHome ((inMesh (some ⟨0, 255, true, 0⟩) []).modSlice 1 fun x => { x with fenceOff := true })).slice 1).fenceOff = true ∧
    (let r := aReq none [⟨7, 4095, 0xFF, BitVec.allOnes 64, 0, 0⟩]
     (atHome (inMesh none [⟨7, 4095, 0xFF, BitVec.allOnes 64, 0, 0⟩])).homeNoSlot 1 { r with owner := ownerAway r.origin } = none ∧
     (atHome ((inMesh none [⟨7, 4095, 0xFF, BitVec.allOnes 64, 0, 0⟩]).setPower .complex 0)).sliceServes 1 = true) ∧
    ((live.modSlice 1 fun x => { x with released := false }).homeNoSlot 1
      (aReq none [⟨7, 4095, 0xFF, BitVec.allOnes 64, 0, 0⟩]) = some rspFenced) ∧
    (let s := live.sendRsp 1 0 0 1 0 true anOk
     (s.net.rpkts[0]?.map fun p => (p.dst, p.rsp)) = some (0, anOk) ∧ (s.meshEvent fun n => n.firstOut 0 (s.exitKey 0)).isSome = true) ∧
    (7 < 8 ∧ up.plain (A.qosShare 7) 63 = true) := by decide +kernel

/-- A peal write under way to slice 1. -/
def aPeal (l : List Nat) : Peal := ⟨0, false, 0, 0, 0xFF, 63, 0, none, l, [], rspOk, 0, 0, none⟩

def pealing (l : List Nat) : State :=
  let s := live.modSlice 1 fun x => { x with released := true }
  { s with net := { s.net with peals := [aPeal l], nextPeal := 1 } }

/-- The same when it has come to the slice. -/
def pealedTo (s : State) : State := (s.meshEvent fun n => n.firstOut 0 (s.exitKey 1)).getD s

theorem witness_PealWrites : (0xFFF8 < 0x10000 ∧ 0xFFF8 % 8 = 0 ∧ up.plain (0x600000 + 0xFFF8) 63 = true ∧ up.net.peals.length < 64) ∧
    (0xFFFC0 < 0x100000 ∧ 0xFFFC0 % 64 = 0 ∧ up.plain (0x700000 + 0xFFFC0) 63 = true) ∧
    ((pealing [1]).hasSlice 1 = true ∧ (pealing [1]).pealOf 0 = some (aPeal [1]) ∧ (aPeal [1]).left.contains 1 = true ∧
      (pealing [1]).pealBehind (aPeal [1]) 1 = false ∧ (pealedTo (pealing [1])).slicePower 1 ≠ 2 ∧
      ((pealedTo (pealing [1])).slice 1).fenceReset = false ∧ ((pealedTo (pealing [1])).wakeFor 1 2).sliceServes 1 = true) ∧
    (pealedTo ((pealing [1]).setSlicePower 1 2)).slicePower 1 = 2 ∧
    ((pealedTo ((pealing [1]).modSlice 1 fun x => { x with fenceReset := true })).slice 1).fenceReset = true ∧
    ((pealedTo ((pealing [1]).setSlicePower 1 1)).wakeFor 1 2).sliceServes 1 = false ∧
    ((pealing []).pealOf 0 = some (aPeal []) ∧ (aPeal []).left = [] ∧ (aPeal []).waiting = []) := by decide +kernel

/-- A stroke of one line to bank set 0, or to the vector buffer, whose copy packet 0 carries. -/
def aStroke (vec : Bool) : Stroke := ⟨0, 0, 0, vec, 0, 0, [⟨0, 0, BitVec.allOnes 64, 0⟩], [⟨[1], [1], 0⟩], []⟩

/-- It is under way to slice 1, where `f` changes the slice. -/
def flying (vec : Bool) (f : SliceSt → SliceSt) : State :=
  let s := (casting 1 (aBlock 0x21 31 2) [aStroke vec] []).modSlice 1 fun x => f { x with released := true }
  ((s.launch 0 [1] false 0 1 0 true 0 1).2).putF (A.own 1 0) 0 6 1

/-- It has come to slice 1. -/
def landed (s : State) : Option (Arrived × State) := (s.strokeComes 15 1).map fun x => (x.1, (x.2.wakeFor 1 1).settleReady 1)

/-- It takes the first slot that the mesh wins there. -/
def lands (x : Arrived × State) : Bool :=
  let u := x.2
  let h := u.others 1 0
  match u.firstWin 1 0 h (fun o => decide (o = 18)) 64 (u.laneFrom 1 0) with
  | some (c, o) =>
    let l := ((u.reach c).losers 1 0 18 h).takeLane 1 0
    match l.choose 1 18 (u.cands 1 0 18 c) with
    | some k =>
      let w := l.countSlot 1 18 k.req.cls
      match (w.arrivals 1).find? fun a => a.copy.flight = 0 with
      | some d =>
        let p := w.perform 1 (d.req 1)
        decide (o = 18) && decide (k.who = .stroke 0) && decide (p.1 = rspOk) &&
          ((((p.2.2.dropCopy 0 1).strokeAck 1 d).pumpEngine 1).strokeGone 1 0)
      | none => false
    | none => false
  | none => false

/-- Its acknowledgement is on the way back. -/
def acking : State :=
  let s := casting 1 (aBlock 0x21 31 2) [{ aStroke true with copies := [] }] []
  let t := s.launch 1 [0] true 0 1 0 true 0 1
  { t.2 with net := { t.2.net with flights := t.2.net.flights.map fun f => { f with ack := some ⟨15, 0, 0, 0, 0, [1], [1]⟩ } } }

theorem witness_CarillonStrokes :
    (let s := casting 1 (aBlock 0x21 15 2) [] []
     let u := s.pumpEngine 0
     (s.xferOf 15).isSome = true ∧ (do
       let x ← u.xferOf 15
       let i ← (u.slot x.sl x.slot).followInst
       let os ← u.blockOps x.sl i i.wblk
       let dst := os.getD 1 Operand.none
       let a := (u.nextAccess x.sl x.ctx true dst i.wpos).1
       let l := u.readyGroup x.sl x.slot dst (srcOf os) (i.lines i.wblk) a
       pure (decide (i.no = x.no) && u.slotWorks x.sl x.slot && (u.slot x.sl x.slot).halt.isNone && x.window &&
         decide ((a.head?.map Prod.snd) = some (Spot.mem 0 0)) && !l.isEmpty &&
         decide ((u.strokeGuard x.sl dst.handle l).2 = .pass))) = some true) ∧
    ((flying true id).hasSlice 1 = true ∧ ((landed (flying true id)).map fun x =>
      (x.2.sliceServes 1, x.2.strokeGone 1 0, x.1.k.vec, x.1.copy.flight)) = some (true, false, true, 0)) ∧
    ((landed (flying false id)).map fun x => (x.2.sliceServes 1, x.2.strokeGone 1 0, x.1.k.vec, x.1.k.bset, lands x)) =
      some (true, false, false, 0, true) ∧
    ((landed (flying false fun x => { x with fenceBoot := true })).map fun x => x.2.strokeGone 1 0) = some true ∧
    (let x := aXfer 1 [{ aStroke true with copies := [] }] []
     acking.xferOf 15 = some x ∧ (acking.net.flights.any fun f => (f.ack.map (x.acks 0)).getD false) = true ∧
     ((acking.meshEvent fun net => (acking.ackAt x 0 net).map Prod.snd).map fun a => (a.ackAt x 0 a.net).isSome) = some true ∧
     (x.strokes.find? fun k => k.n = 0).isSome = true) ∧
    (aXfer 31 [aStroke false] [31]).refused ≠ [] ∧
    (let s := casting 31 (aBlock 0x21 31 2) [aStroke false] []
     let x := aXfer 31 [aStroke false] []
     31 < 64 ∧ s.xferOf 15 = some x ∧ s.hasSlot x.sl x.slot = true ∧ x.members.contains 31 = true ∧ Tbl.get 0 x.lagSince 31 ≠ 0 ∧
     s.shedPolicy x = true) := by
  decide +kernel

/-- Slot 15 of slice 31 in a state, with a start mode. -/
def slotIn (v m : Nat) : State := ((live.modSlice 31 fun x => { x with released := true }).putF (A.ctxE0 1) 32 2 1).putF
  (A.seSlotCtl 31 15) 0 14 (v + m * 64 + 256)

theorem witness_SlotControl : (up.hasSlot 31 15 = true ∧ up.plain (A.seSlotCtl 31 15) 63 = true ∧ (up.slice 31).engineReset = false ∧
      up.slotState 31 15 = 0 ∧ fld (0 : Word) 6 2 ≠ 3) ∧
    ((slotIn 4 0).hasSlot 31 15 = true ∧ (slotIn 4 0).plain (A.seSlotCtl 31 15) 63 = true ∧ ((slotIn 4 0).slice 31).engineReset = false ∧ (slotIn 4 0).slotState 31 15 = 4 ∧
      flag (0 : Word) 3 = false ∧ flag (0 : Word) 5 = false) ∧
    ((slotIn 3 0).plain (A.seSlotCtl 31 15) 63 = true ∧ ((slotIn 3 0).slice 31).engineReset = false ∧ (slotIn 3 0).slotState 31 15 ≠ 0 ∧ (slotIn 3 0).slotState 31 15 ≠ 5) ∧
    (let s := up.modSlice 31 fun x => { x with engineReset := true }
     s.plain (A.seSlotCtl 31 15) 63 = true ∧ (s.slice 31).engineReset = true) := by decide +kernel

theorem witness_SlotStates : ((slotIn 1 0).hasSlot 31 15 = true ∧ (slotIn 1 0).slotState 31 15 = 1 ∧ (slotIn 1 0).ctxRuns 31 15 = true ∧
      ((slotIn 1 0).slice 31).engineReset = false ∧ (slotIn 1 0).startMet 31 15 = true ∧ (slotIn 1 0).sliceServes 31 = true ∧
      (slotIn 1 0).getF (A.seSlotCtl 31 15) 6 2 = 0) ∧
    (let s := (slotIn 1 2).putF (A.semPair 31 0) 40 6 1
     s.slotState 31 15 = 1 ∧ s.ctxRuns 31 15 = true ∧ s.startMet 31 15 = true ∧ s.sliceServes 31 = true ∧
     s.getF (A.seSlotCtl 31 15) 6 2 = 2 ∧ s.claveMay 31 0 (s.slotCtx 31 15) = true ∧
     ((List.range 15).foldl (fun t k => t.claveStarts 31 k 0) ((s.reach (s.slot 31 15).followAt).waitsTake 31 0 false 16)).startReady
       31 15 = true) ∧
    (let u := ((slotIn 2 0).putF (A.ctxE0 1) 32 2 2).pumpSlice 31
     u.slotState 31 15 = 2 ∧ u.ctxState (u.slotCtx 31 15) = 2 ∧ u.atBlockBoundary 31 15 = true ∧ (u.slot 31 15).workLeft = true) ∧
    ((slotIn 5 0).hasSlot 31 15 = true ∧ (slotIn 5 0).stopDone 31 15 = true) := by decide +kernel

/-- An access of slot 0, answered with a code, held, or dropped. -/
def anAcc (k : AccKind) (code : Option Nat) (held dropped : Bool) : SeAcc :=
  { id := 0, no := 0, kind := k, blk := 0, ns := [0], next := 1, handle := 5, offs := [0]
    req :=
      { origin := .stream 0 0 0, write := decide (k = .write), ctx := 1, cls := 0, tag := 0, home := 0, bset := 0
        lines := [⟨0, 0, 0xFF, BitVec.allOnes 64, 0, 0⟩], clave := none, owner := 16, since := 0 }
    issued := code.isSome, held := held, retry := 256, host := none, vec := false
    resp := code.map fun c => { anOk with origin := .stream 0 0 0, code := c, lines := [⟨0, 0, 0⟩] }, dropped := dropped
    takes := false }

/-- Slot 0 with that access. -/
def withAcc (a : SeAcc) : State := engine.modSlot 0 0 fun x => { x with accs := [a], nextAcc := 1 }

/-- That access is still there, answered so, after what the engine does first. -/
def seesAnswer (k : AccKind) (code : Nat) (dropped : Bool) : Bool :=
  match ((((withAcc (anAcc k (some code) false dropped)).pumpEngine 0).slot 0 0).answered k) with
  | some (a, r) => decide (a.dropped = dropped) && decide (r.code = code) && decide (a.id = 0)
  | none => false

theorem witness_FetchesArrive : engine.hasSlot 0 0 = true ∧ seesAnswer .fetch 0 false = true ∧ seesAnswer .fetch 0 true = true ∧
    seesAnswer .fetch 1 false = true ∧ seesAnswer .fetch 4 false = true ∧ seesAnswer .desc 0 false = true ∧
    seesAnswer .desc 0 true = true ∧ seesAnswer .desc 1 false = true ∧
    ({ anOk with code := 0 } : Resp).faultCode = 0 ∧ ({ anOk with code := 1 } : Resp).faultCode = 0x0A ∧
    ({ anOk with code := 4 } : Resp).faultCode = 0x01 := by decide +kernel

/-- A held fabric write of slot 0. -/
def aHeld : FpOut :=
  ⟨0, 0, 0, 0, 0, 0, 1, 0, ⟨1, 1, 0, 0, 0, 0, 0, 0, 0, false, 0, 0, 0, 0, 0, []⟩, false, some 256⟩

/-- A write of slot 0 to slice `n` through a guarded ring, not yet issued. -/
def guardedAt (n : Nat) : State :=
  let a := anAcc .write none false false
  let s := withAcc { a with retry := 0, req := { a.req with home := n } }
  ({ s with force := { s.force with mirror :=
    [(20, BitVec.ofNat 64 (1 + 2 * 2 ^ 6 + 3 * 2 ^ 9 + 1 * 2 ^ 11 + 3 * 2 ^ 13 + 4096 * 2 ^ 32)), (22, 1),
     (23, BitVec.ofNat 64 (4096 * 2 ^ 32))] } } : State).wr (A.semRg 0 0) (BitVec.ofNat 64 (5 + 4096 + 2 ^ 13))

theorem witness_AccessesAnswered :
    (∀ k ∈ [AccKind.read, .write, .signal], ∀ d ∈ [false, true],
      (((withAcc (anAcc k (some 0) false d)).slot 0 0).accs.find? fun a => a.id = 0) = some (anAcc k (some 0) false d) ∧
        (anAcc k (some 0) false d).resp.isSome = true) ∧
    (((withAcc (anAcc .read none true false)).slot 0 0).accs.find? fun a => a.held) = some (anAcc .read none true false) ∧
    (let s : State := { engine with fabric := { engine.fabric with outbound := [aHeld] } }
     s.hasSlot 0 0 = true ∧ ((s.slot 0 0).accs.any fun a => a.held) = false ∧ s.engineMay 0 = true ∧ s.slotWorks 0 0 = true ∧
     (s.fabric.outbound.find? fun x => decide (x.sl = 0) && decide (x.slot = 0) && x.retry.isSome) = some aHeld ∧
     s.freeRid.isSome = true ∧ s.outFree aHeld.cls = true) ∧
    (let u := (guardedAt 0).pumpEngine 0
     (guardedAt 0).engineMay 0 = true ∧
     ((u.accAt 0 0 fun a => !a.vec && a.host.isNone && a.req.clave.isNone && (u.view 0 a.handle).e.guarded).map fun a =>
       decide (a.req.home = 0) && (u.firstWin 0 a.req.bset (u.others 0 a.req.bset) (fun x => decide (x = a.req.owner)) 64
         (max (u.laneFrom 0 a.req.bset) a.req.since)).isSome) = some true) ∧
    (let u := (guardedAt 31).pumpEngine 0
     ((u.accAt 0 0 fun a => !a.vec && a.host.isNone && a.req.clave.isNone && (u.view 0 a.handle).e.guarded).map fun a =>
       decide (a.req.home = 31) && decide (u.accGuard 0 a = .pass)) = some true) ∧
    (let s := withInst { aBlock 0x20 0 2 with wblk := 1, buf := [] }
     let p := s.pumpEngine 0
     let u := (if ((p.slot 0 0).headIs 0x36).isSome then p.wipeOut 0 0 65536 else p).settleXfers 0 0
     ((u.slot 0 0).insts.head?.map fun i => retires i && u.workDone 0 0 i) = some true ∧ u.slotWorks 0 0 = true ∧
     (u.slot 0 0).halt.isNone = true) := by
  refine ⟨?_, ?_, ?_, ?_, ?_, ?_⟩ <;> decide +kernel

/-- Lead is at the word `w` in slot 0. -/
def leads (w : Word) : State := engine.modSlot 0 0 fun x => { x with fetched := [(0, w.setWidth 512)] }

/-- An instruction word. -/
def word (op low : Nat) : Word := BitVec.ofNat 64 (op * 2 ^ 56 + low)

theorem witness_BranchInstructions : (leads (word 0x00 0)).Leads 0 0 0x00 (word 0x00 0) ∧
    (leads (word 0x08 0)).Leads 0 0 0x08 (word 0x08 0) ∧ (leads (word 0x08 65535)).Leads 0 0 0x08 (word 0x08 65535) ∧
    (leads (word 0x09 0)).Leads 0 0 0x09 (word 0x09 0) ∧ (leads (word 0x0A 0)).Leads 0 0 0x0A (word 0x0A 0) ∧
    (leads (word 0x10 (2 ^ 46))).Leads 0 0 0x10 (word 0x10 (2 ^ 46)) := by
  simp only [State.Leads]; decide +kernel

theorem witness_SetsInstruction : (leads (word 0x11 (10 * 2 ^ 44))).Leads 0 0 0x11 (word 0x11 (10 * 2 ^ 44)) ∧
    (opOf (word 0x11 (11 * 2 ^ 44)) = 0x11 ∧ 11 ≤ fld (word 0x11 (11 * 2 ^ 44)) 44 4) := by
  simp only [State.Leads]; decide +kernel

/-- An instruction of slot 0 that Follow executes. -/
def follows (op low : Nat) : Inst := engine.newInst 0 0 (word op low)

theorem witness_SyncInstructions : (∀ op ∈ [0x18, 0x1A, 0x1B, 0x28], (leads (word op 0)).Leads 0 0 op (word op 0)) ∧
    (let s := (leads (word 0x18 0)).led 0 0
     s.claveMay 0 0 (s.slotCtx 0 0) = false ∧
     let u := ((leads (word 0x18 0)).putF (A.semPair 0 0) 40 6 1).led 0 0
     u.claveMay 0 0 (u.slotCtx 0 0) = true ∧ 0 ≤ (u.waitsTake 0 0 false 0).claveCount 0 0 false ∧
       (u.waitsTake 0 0 false 0).claveCount 0 0 false < 65535) ∧
    (let s := (leads (word 0x1A 0)).putB A.glbBeat 51 true
     s.Leads 0 0 0x1A (word 0x1A 0) ∧ (s.led 0 0).beatReached (s.beat0 0 0) = true ∧
     ((leads (word 0x1A 0)).led 0 0).beatReached 0 = false) ∧
    (∀ n ∈ [0, 65535], let s := engine.modSlot 0 0 fun x => { x with hold := .wait true 255 n }
     s.hasSlot 0 0 = true ∧ (s.slot 0 0).hold = .wait true 255 n ∧ s.slotState 0 0 = 2 ∧ s.ctxRuns 0 0 = true ∧ 255 < 256 ∧
       (s.waitsTake 0 255 true 0).claveCount 0 255 true = 0) ∧
    (withInst (follows 0x28 0)).Follows 0 0 0x28 (follows 0x28 0) ∧
    (withInst (follows 0x28 (15 * 2 ^ 48))).Follows 0 0 0x28 (follows 0x28 (15 * 2 ^ 48)) ∧
    (let s := withInst (follows 0x28 (15 * 2 ^ 48))
     fld (follows 0x28 (15 * 2 ^ 48)).word 48 4 = 15 ∧ (s.followed 0 0).slotCtx 0 15 ≠ (s.followed 0 0).slotCtx 0 0) ∧
    (∀ v ∈ [0, 4], let s := (withInst (follows 0x28 (15 * 2 ^ 48))).putF (A.seSlotCtl 0 15) 0 14 (v + 256)
     (s.followed 0 0).slotCtx 0 15 = (s.followed 0 0).slotCtx 0 0 ∧ (s.followed 0 0).slotState 0 15 = v) := by
  simp only [State.Leads, State.Follows]
  refine ⟨?_, ?_, ?_, ?_, ?_, ?_, ?_, ?_⟩ <;> decide +kernel

theorem witness_FollowInstructions :
    (∀ op ∈ [0x01, 0x02, 0x0B, 0x19], let p := (withInst (follows op 0)).pumpSlice 0
     (withInst (follows op 0)).hasSlot 0 0 = true ∧ p.leadSlot 0 ≠ some 0 ∧ p.Follows 0 0 op (follows op 0)) ∧
    (let s := (withInst (follows 0x19 0)).putF (A.semPair 0 0) 40 6 1
     ((s.pumpSlice 0).followed 0 0).claveMay 0 0 (((s.pumpSlice 0).followed 0 0).slotCtx 0 0) = true ∧
     (s.pumpSlice 0).Follows 0 0 0x19 (follows 0x19 0) ∧ (s.pumpSlice 0).leadSlot 0 ≠ some 0) ∧
    (let s := withInst (follows 0x19 (2 ^ 54 + 31 * 2 ^ 32))
     (s.pumpSlice 0).leadSlot 0 ≠ some 0 ∧ (s.pumpSlice 0).Follows 0 0 0x19 (follows 0x19 (2 ^ 54 + 31 * 2 ^ 32)) ∧
     ((s.pumpSlice 0).followed 0 0).hasSlice 31 = true) ∧
    (let s := withInst (follows 0x02 (2 ^ 32))
     (s.pumpSlice 0).Follows 0 0 0x02 (follows 0x02 (2 ^ 32)) ∧ ((s.pumpSlice 0).followed 0 0).belfry.logQueue.length < 16) ∧
    (let p := (withInst (follows 0x0B 0)).pumpSlice 0
     let u := p.followed 0 0
     (∀ k ∈ u.force.commits, k.h < 4096) ∧ u.atBoundary (u.slotCtx 0 0) = false) ∧
    (∀ op ∈ [0x01, 0x02, 0x0B, 0x19], ((leads (word op 0)).pumpSlice 0).Leads 0 0 (opOf (word op 0)) (word op 0) ∧ opOf (word op 0) = op ∧
      (((leads (word op 0)).pumpSlice 0).slot 0 0).headIs op = none) := by
  simp only [State.Leads, State.Follows]; decide +kernel

theorem witness_BlockInstructions : (∀ op ∈ [0x20, 0x21, 0x22, 0x23, 0x30, 0x31, 0x32, 0x33, 0x34, 0x35, 0x38],
      (leads (word op 65536)).Leads 0 0 op (word op 65536)) ∧
    ((leads (word 0x36 65536)).pumpAll 0).Leads 0 0 0x36 (word 0x36 65536) ∧
    (((leads (word 0x21 65536)).led 0 0).getF (A.qosGrpa 0) 0 6 = 0 ∧
      (((leads (word 0x21 65536)).putF (A.qosGrpa 0) 0 6 63).led 0 0).getF (A.qosGrpa 0) 0 6 ≠ 0) ∧
    (engine.slot 0 0).resuming = false ∧
    (let u := (leads (word 0xFF 0)).pumpSlice 0
     engine.hasSlot 0 0 = true ∧ u.instrAt 0 0 = some (word 0xFF 0) ∧ u.leadSlot 0 = some 0 ∧ legalOp (word 0xFF 0) = false) := by
  simp only [State.Leads]; decide +kernel

theorem witness_ClaveOperations : (up.hasSlice 31 = true ∧ up.plain (A.semOp 31) 63 = true) ∧
    (let s := (up.putF (A.semPair 31 255) 0 16 0xFFFF).modSlice 31 fun x => { x with signalAt := [(255, 1)] }
     s.plain (A.semOp 31) 0 = true ∧ fld (word 0 (65535 * 65536 + 255)) 0 8 = 255 ∧
     fld (word 0 (65535 * 65536 + 255)) 16 16 ≤ s.claveCount 31 255 false ∧ up.claveCount 31 255 false < 65535 ∧
     Tbl.get 0 (s.slice 31).signalAt 255 = s.now + 1) ∧
    ((∀ j, j < 16 → (up.slot 31 j).hold = .none ∧ up.slotState 31 j ≠ 1) ∧
      0 < 1 ∧ fld (word 0 0) 16 16 ≤ (up.blockingTakes 31 0 false).claveCount 31 0 false ∧
      (up.blockingTakes 31 0 false).claveCount 31 0 false < fld (word 0 65536) 16 16) ∧
    (255 < 256 ∧ up.plain (A.semPair 31 255) 63 = true) ∧
    (up.killedIn 31 1 = false ∧ up.claveMay 31 255 1 = false) := by decide +kernel

/-- A strike instruction of slot 0 whose block is there. -/
def striking (op : Nat) : State := withInst { aBlock op 0 4 with buf := [], rblk := 0 }

/-- The first step that is ready on bank set 0, and the clk that the strike claimant wins. -/
def stepWins : Option Bool :=
  let u := (striking 0x30).pumpAll 0
  let rs := u.readySteps 0 0
  match rs with
  | [] => none
  | r0 :: _ =>
    let first := rs.foldl (fun m r => min m r.start) r0.start
    let x : Others := { strike := fun n => rs.any fun q => decide (q.start ≤ n), patrol := u.patrolOn 0 0 }
    (u.firstWin 0 0 x (fun w => decide (w = 19)) 64 (max first (u.laneFrom 0 0))).map fun q =>
      (rs.find? fun r => decide (r.start ≤ q.1)).isSome && rs.any (fun r => decide (r.start = first)) &&
        rs.all fun r => decide (first ≤ r.start)

/-- A block of GEMV without output, or of REDUCE, whose sums are whole; bank 0 is owned by context 1. -/
def summed (op low : Nat) : State := ((withInst { aBlock op low 4 with
  buf := [], rblk := 1, taken := true, rpos := 1, cursor := (List.range 64).map fun b => (b, 1) }).wr (A.own 0 0) 1).pumpAll 0

theorem witness_StrikeSteps : (up.hasSlice 31 = true ∧ 7 < 8 ∧ (up.pumpAll 31).readySteps 31 7 = []) ∧ stepWins = some true ∧
    (((striking 0x34).pumpAll 0).takes 0 0).isSome = true ∧ ((striking 0x34).pumpAll 0).accsFree 0 0 = true ∧
    (let s := (striking 0x34).wr (A.strkAcc 0) 0x11
     ((s.pumpAll 0).takes 0 0).isSome = true ∧ (s.pumpAll 0).accsFree 0 0 = false) ∧
    (let u := summed 0x34 32
     ((u.strikeInst 0 0).map fun i => decide (i.op = 0x34) && i.taken && u.sumsDone 0 0 i && i.nout) = some true ∧
       (u.slot 0 0).halt = none) ∧
    (let u := summed 0x35 0
     ((u.strikeInst 0 0).map fun i =>
       let t := u.treeWrites 0 0 i.began ((dstOf i (u.opsNow 0 i)).walkLines + 1)
       decide (i.op = 0x35) && i.taken && u.sumsDone 0 0 i && !i.nout && i.tree.isNone && (t.slot 0 0).halt.isNone &&
         match t.strikeInst 0 0 with
         | some k => decide (k.no = i.no) && decide (k.wblk = i.wblk) &&
             decide ((dstOf k (t.opsNow 0 k)).walkLines ≤ (dstOf k (t.opsNow 0 k)).nextUsed k.wpos)
         | none => false) = some true) ∧
    (63 < 64 ∧ up.plain (A.strkSeed 31 63) 63 = true ∧ fld (65535 : Word) 0 16 ≠ 0 ∧ fld (65536 : Word) 0 16 = 0) := by
  refine ⟨?_, ?_, ?_, ?_, ?_, ?_, ?_, ?_⟩ <;> decide +kernel

/-- A record waits for the ring, whose unread count is `n`. -/
def recorded (n : Nat) : State :=
  let s := (up.putF A.errStat 35 11 n).putF A.errHead 0 10 1023
  { s with errors := { s.errors with queue := [⟨0x21, 0, 0, 0, true⟩, ⟨0x20, 0, 0, 0, false⟩] } }

theorem witness_ErrorRing : up.errors.queue = [] ∧ (recorded 1024).errors.queue = ⟨0x21, 0, 0, 0, true⟩ :: [⟨0x20, 0, 0, 0, false⟩] ∧
    1024 ≤ (recorded 1024).getF A.errStat 35 11 ∧ (recorded 1023).getF A.errStat 35 11 < 1024 ∧
    (up.hasSlice 31 = true ∧ (up.slice 31).ceWindow = 0 ∧ ((up.modSlice 31 fun x => { x with ceWindow := 1 }).slice 31).ceWindow ≠ 0) ∧
    up.plain A.errRd 63 = true ∧ up.plain A.errStat 0 = true ∧ flag (setFlag (0 : Word) 34 true) 34 = true ∧
    flag (0 : Word) 34 = false := by decide +kernel

/-- A CSR scrub pass that has read all. -/
def aPass : ScrubPass := ScrubPass.start none 262144 262144 false

def scrubbing : State := (up.modSlice 31 fun x => { x with scrub := some aPass }).putB (A.scrubCtl 31) 39 true

theorem witness_ScrubPasses : (up.hasSlice 31 = true ∧ up.plain (A.scrubCtl 31) 63 = true ∧ up.getB (A.scrubCtl 31) 39 = false) ∧
    ((up.storeReg (A.scrubCtl 31) (setFlag 0 37 true) true 63).getF (A.scrubCtl 31) 18 19 = 0 ∧
      (up.storeReg (A.scrubCtl 31) (setFlag (setFld 0 18 19 262144) 37 true) true 63).getF (A.scrubCtl 31) 18 19 ≠ 0) ∧
    (scrubbing.plain (A.scrubCtl 31) 63 = true ∧ scrubbing.getB (A.scrubCtl 31) 39 = true ∧ flag (0 : Word) 38 = false ∧
      flag (word 0 (2 ^ 38)) 38 = true ∧ (scrubbing.slice 31).scrub = some aPass) ∧
    (((scrubbing.pumpEngine 31).slice 31).scrub = some aPass ∧ (scrubbing.pumpEngine 31).passOver 31 aPass = true ∧ aPass.slot = none) := by
  decide +kernel

/-- Stage B10, with the pass of the Tuner at the instance of region 3 on slice 0, and a reload due. -/
def tuning (g : Nat) : State :=
  let s := atStage 10
  { s with tuner := { s.tuner with running := true, left := [(3, 0)], reload := [(3, 31)], golden := [(192, BitVec.ofNat 32 g)] } }

/-- That state when the scan of region 3 ends. -/
def scanned (g : Nat) : State :=
  ((tuning g).reach ((tuning g).scanBegan (engineOf 3 0) + 4 + (tuning g).instRegs 3)).leavePass 3 0

/-- The differences from the base signature decide the comparison. -/
theorem signature_match {s : State} {r inst : Nat}
    (h : s.sigDiff r inst = s.goldenDiff r inst ^^^ (s.voteError (goldenKey r inst)).setWidth 32) :
    s.signature r inst = s.votedGolden r inst := by
  rw [State.signature, State.votedGolden, State.golden, h, BitVec.xor_assoc]

theorem signature_mismatch {s : State} {r inst : Nat}
    (h : s.sigDiff r inst ≠ s.goldenDiff r inst ^^^ (s.voteError (goldenKey r inst)).setWidth 32) :
    s.signature r inst ≠ s.votedGolden r inst := by
  rw [State.signature, State.votedGolden, State.golden, BitVec.xor_assoc]
  exact fun e => h ((BitVec.xor_right_inj _).1 e)

theorem witness_TunerPasses : ((atStage 10).tuner.running = false ∧ flag ((atStage 10).voted A.tunerCtl) 0 = true ∧
      (atStage 10).cplxPower ≠ 2 ∧ 10 ≤ (atStage 10).boot.next ∧ (atStage 10).passList ≠ []) ∧
    (3 < 11 ∧ (tuning 0).tuner.running = true ∧ (tuning 0).scanHead (engineOf 3 0) = some (3, 0) ∧ (scanned 0).slicePower 0 ≠ 2 ∧
      (scanned 0).instState 3 0 = 0) ∧
    ((scanned 0).signature 3 0 = (scanned 0).votedGolden 3 0 ∧ (scanned 1).signature 3 0 ≠ (scanned 1).votedGolden 3 0) ∧
    (3 < 11 ∧ (tuning 0).tuner.reload.contains (3, 31) = true) ∧ (10 < 11 ∧ up.plain (A.tunerRegion 10) 63 = true) ∧
    (let t := (up.storeReg (A.tunerRegion 4) (setFlag 0 3 true) true 63).tuncfgWrite (A.tunerRegion 4)
     t.hasInst 4 0 = true ∧ flag (0 : Word) 4 = false) ∧
    (let t := (up.storeReg (A.tunerRegion 10) (setFlag 0 3 true) true 63).tuncfgWrite (A.tunerRegion 10)
     t.hasInst 10 0 = false) := by
  refine ⟨?_, ?_, ⟨signature_match (by decide +kernel), signature_mismatch (by decide +kernel)⟩, ?_, ?_, ?_, ?_⟩ <;> decide +kernel

/-- Belfry runs; a challenge has been answered so. -/
def challenged (w : Word) (tries : Nat) : State :=
  let s := up.wr A.tunerChrsp w
  { s with belfry := { s.belfry with running := true }, tuner := { s.tuner with challenged := true, tries := tries } }

theorem challenged_rd (w : Word) (n : Nat) : (challenged w n).rd A.tunerChrsp = w := State.rd_wr_same up A.tunerChrsp w

/-- The word of a good answer. -/
def goodAnswer : Word := setFld 3 32 32 (State.golden (challenged 0 0) 10 0).toNat

theorem golden_congr {s t : State} (h : s.build = t.build) (g : s.tuner.golden = t.tuner.golden) (r inst : Nat) :
    s.golden r inst = t.golden r inst := by
  simp only [State.golden, State.baseSig, State.goldenDiff, State.scanAddrs, State.scanned, h, g]

theorem challenged_golden (w v : Word) : (challenged w 0).golden 10 0 = (challenged v 0).golden 10 0 := golden_congr rfl rfl 10 0

theorem goodAnswer_self : (challenged goodAnswer 0).getF A.tunerChrsp 32 32 = ((challenged goodAnswer 0).golden 10 0).toNat := by
  have h : (challenged goodAnswer 0).getF A.tunerChrsp 32 32 = fld goodAnswer 32 32 := by rw [State.getF, challenged_rd]
  have g : (challenged goodAnswer 0).golden 10 0 = (challenged 0 0).golden 10 0 := challenged_golden _ _
  rw [h, g, goodAnswer, fld_setFld _ _ _ _ (by decide)]
  exact Nat.mod_eq_of_lt (BitVec.isLt _)

theorem goodAnswer_flags : (challenged goodAnswer 0).getB A.tunerChrsp 0 = true ∧ (challenged goodAnswer 0).getB A.tunerChrsp 1 = true ∧
    (challenged goodAnswer 0).getB A.tunerChrsp 2 = false := by
  have h : ∀ i, (challenged goodAnswer 0).getB A.tunerChrsp i = flag goodAnswer i := fun i => by rw [State.getB, challenged_rd]
  refine ⟨?_, ?_, ?_⟩ <;> rw [h, goodAnswer, flag_setFld _ _ _ _ _ (by decide) (by decide)] <;> decide

theorem witness_Challenges : (challenged 0 0).belfry.running = true ∧ up.plain A.tunerChexp 0 = true ∧ up.plain A.tunerChexp 63 = true ∧
    ((challenged goodAnswer 0).tuner.challenged = true ∧ (challenged goodAnswer 0).getB A.tunerChrsp 0 = true ∧
      (challenged goodAnswer 0).getB A.tunerChrsp 1 = true ∧ (challenged goodAnswer 0).getB A.tunerChrsp 2 = false ∧
      (challenged goodAnswer 0).getF A.tunerChrsp 32 32 = ((challenged goodAnswer 0).golden 10 0).toNat) ∧
    ((challenged 1 0).getB A.tunerChrsp 0 = true ∧ (challenged 1 0).getB A.tunerChrsp 1 = false ∧ (challenged 1 0).tuner.tries = 0 ∧
      (challenged 1 1).tuner.tries ≠ 0) ∧ ((atStage 10).tuner.lateSaid = false ∧ (atStage 10).boot.released = true) :=
  ⟨rfl, by decide +kernel, by decide +kernel, ⟨rfl, goodAnswer_flags.1, goodAnswer_flags.2.1, goodAnswer_flags.2.2, goodAnswer_self⟩,
    by decide +kernel, by decide +kernel⟩

/-- The answer is a next state. -/
def answers (o : Host.Outcome State Fault Refusal) : Bool :=
  match o with
  | .next _ => true
  | _ => false

theorem witness_EveryStepKeeps : answers (step { atStage 0 with pending := [.beatStrobe 1] }) = true ∧ answers (step up) = true := by
  decide +kernel

/-- No WIPE is under way where no slot has state. -/
theorem still_of_slots {s : State} (h : s.slots = []) : ∀ n j, ∀ i ∈ (s.slot n j).insts, i.wipe = [] := by
  intro n j i hi
  have e : s.slot n j = Slot.init := by unfold State.slot; rw [h]; rfl
  rw [e] at hi
  exact absurd hi (by simp [Slot.init])

/-- Slice 31 in a power state; the complex in one. -/
def powered (v : Nat) : State := up.setSlicePower 31 v

def cplxIn (v : Nat) : State := up.putF A.pwrCplx 2 2 v

theorem witness_PowerTargets : (31 < 64 ∧ (powered 3).hasSlice 31 = true ∧ up.hasSlice 31 = true ∧ up.slicePower 31 = 0 ∧
      up.plain (A.pwrReq 0) 63 = true ∧ (powered 3).plain (A.pwrReq (31 / 32)) 63 = true ∧ (powered 3).slicePower 31 = 3 ∧
      (powered 1).plain (A.pwrReq (31 / 32)) 0 = true ∧ (powered 1).slicePower 31 = 1 ∧ (powered 2).slicePower 31 = 2) ∧
    up.plain A.pwrCplx 63 = true ∧ ((cplxIn 2).csrUp = true ∧ (cplxIn 2).cplxPower = 2) := by decide +kernel

/-- An entry of slice 31, and of the complex, at a step. -/
def anEntering (g : PowerTarget) (v n : Nat) (w : Option Nat) : PwrEntry := ⟨g, v, n, 0, w⟩

def entersAt (g : PowerTarget) (v n : Nat) (w : Option Nat) : State :=
  let s := (powered 3).putF A.pwrCplx 2 2 (match g with
    | .complex => 3
    | .slice _ => 0)
  { s with power := { s.power with entries := [anEntering g v n w] } }

/-- Slot 15 of slice 31 runs while the slice enters a state. -/
def refused : State := (entersAt (.slice 31) 1 1 none).putF (A.seSlotCtl 31 15) 0 14 2

theorem witness_PowerEntrySteps :
    ((entersAt (.slice 31) 2 5 none).hasSlice 31 = true ∧
      (∀ n ∈ [1, 2, 4, 5], ((entersAt (.slice 31) 2 n none).power.entries.find? fun x => decide (x.target = .slice 31)) =
        some (anEntering (.slice 31) 2 n none))) ∧
    ((entersAt .complex 3 5 none).power.entries.find? fun x => decide (x.target = .complex)) = some (anEntering .complex 3 5 none) ∧
    (refused.refusal (anEntering (.slice 31) 1 1 none)).isSome = true ∧
    ((entersAt (.slice 31) 2 1 none).refusal (anEntering (.slice 31) 2 1 none) = none ∧
      (entersAt (.slice 31) 2 1 (some 1)).refusal (anEntering (.slice 31) 2 1 (some 1)) = none) ∧
    (anEntering (.slice 31) 2 1 (some 1)).wake = some 1  ∧ (4 < (anEntering (.slice 31) 2 5 none).step) ∧
    ((entersAt (.slice 31) 1 4 none).power.entries.find? fun x => decide (x.target = .slice 31)) =
      some (anEntering (.slice 31) 1 4 none) ∧
    (∀ n j, ∀ i ∈ (refused.slot n j).insts, i.wipe = []) :=
  ⟨by decide +kernel, by decide +kernel, by decide +kernel, by decide +kernel, by decide +kernel, by decide +kernel,
    by decide +kernel, still_of_slots rfl⟩

/-- Slice 31 leaves a power state, at a step. -/
def aWake (v n : Nat) (r : Bool) : PwrWake := ⟨.slice 31, v, n, 0, r, false⟩

def wakes (v n : Nat) (r : Bool) : State :=
  let s := powered 3
  { s with power := { s.power with wakes := [aWake v n r], restoring := [31] }, belfry := { s.belfry with running := true } }

/-- The complex in Tap, in a phase. -/
def inTap (n : Nat) : State :=
  let s := cplxIn 2
  { s with power := { s.power with tapPhase := n } }

theorem witness_WakesAndTap :
    (31 < 64 ∧ (entersAt (.slice 31) 1 1 none).cplxPower = 0 ∧ (entersAt (.slice 31) 1 1 none).entering .complex = false ∧
      (entersAt (.slice 31) 1 1 none).entering (.slice 31) = true ∧ (powered 1).entering (.slice 31) = false ∧
      (powered 1).slicePower 31 = 1 ∧ (powered 1).cplxPower = 0) ∧
    ((wakes 1 1 false).hasSlice 31 = true ∧ (wakes 1 1 false).wakeOf (.slice 31) = some (aWake 1 1 false) ∧
      (wakes 1 1 false).getB A.pwrStat 12 = false ∧
      ({ wakes 1 1 false with pins := { up.pins with pgood := true } } : State).pins.pgood = true ∧
      ({ wakes 1 1 false with pins := { up.pins with pgood := false } } : State).pins.pgood = false ∧
      ((wakes 1 1 false).putB A.pwrStat 12 true).getB A.pwrStat 12 = true) ∧
    ((wakes 1 4 false).wakeOf (.slice 31) = some (aWake 1 4 false) ∧
      (wakes 1 4 false).getF (A.pwrReq (31 / 32)) (2 * (31 % 32)) 2 ≠ 2 ∧ (wakes 1 4 false).power.knellWaiting = []) ∧
    ((∀ p, p < (wakes 1 4 false).build.ports → ((wakes 1 4 false).port 31 p).queue = []) ∧
      (∀ j, ∀ i ∈ ((wakes 1 4 false).slot 31 j).insts, i.wipe = [])) ∧
    ((wakes 2 1 true).wakeOf (.slice 31) = some (aWake 2 1 true) ∧ (wakes 1 1 false).belfry.running = true) ∧
    (wakes 2 4 false).power.restoring.contains 31 = true ∧
    ((inTap 0).cplxPower = 2 ∧ (inTap 0).pins.pgood = true ∧ (wakes 1 1 false).pins.pgood = true ∧ (inTap 0).power.tapPhase = 0 ∧ (inTap 1).power.tapPhase = 1 ∧ (inTap 2).power.tapPhase = 2 ∧
      (inTap 2).cplxPower = 2 ∧ (inTap 2).tuner.running = false) := ⟨by decide +kernel, by decide +kernel, by decide +kernel,
    ⟨by decide +kernel, fun j => still_of_slots rfl 31 j⟩, by decide +kernel, by decide +kernel, by decide +kernel⟩

/-- A setpoint request is in progress. -/
def avs (polling : Bool) (r : Option Nat) (tries crc : Nat) : State :=
  let s := up.putB A.pwrVreq 18 true
  { s with power := { s.power with avsPolling := polling, avsRetryAt := r, avsTries := tries, avsCrc := crc, avsMv := 65535 }
           belfry := { s.belfry with running := true } }

theorem witness_SupplyAndSensors : (up.plain A.pwrVreq 63 = true ∧ up.getB A.pwrVreq 18 = false) ∧
    ((avs false none 7 2).getB A.pwrVreq 18 = true ∧ (avs false none 7 2).belfry.running = true ∧ (avs true (some 80) 0 0).pins.pgood = true ∧
      (avs false none 7 2).power.avsPolling = false ∧ (avs false none 7 2).power.avsRetryAt = none ∧
      (avs false none 7 2).power.avsTries < 8 ∧ (avs false none 7 2).power.avsCrc < 3 ∧ 8 ≤ (avs false none 8 3).power.avsTries ∧
      3 ≤ (avs false none 8 3).power.avsCrc) ∧
    (avs false (some 160) 1 0).power.avsRetryAt = some 160 ∧
    ((avs true (some 80) 0 0).power.avsPolling = true ∧ 65535 < 65536 ∧
      (avs true (some 80) 0 0).power.avsMv - 65535 ≤ (avs true (some 80) 0 0).getF A.pwrAvs 8 8 ∧
      (avs true (some 80) 0 0).getF A.pwrAvs 8 8 < (avs true (some 80) 0 0).power.avsMv - 0) ∧
    (up.hasSlice 31 = true ∧ 31 < 64 ∧ up.getB (A.sensTemp 31) 10 = false ∧
      (up.putB (A.sensTemp 31) 10 true).getB (A.sensTemp 31) 10 = true ∧
      sext 10 (511#10).toNat > (4 * up.getF A.pwrThr 0 8 : Nat)) := by decide +kernel

/-- Stage `n`, with an image running. -/
def stageRuns (n : Nat) : State :=
  let s := atStage n
  { s with belfry := { s.belfry with running := true } }

theorem witness_BringUpStages :
    (∀ n ∈ [1, 2, 3, 4, 5, 6, 8, 9, 10], (stageRuns n).boot.released = true ∧ (stageRuns n).boot.halted = false ∧ (stageRuns n).boot.next = n) ∧
    (atStage 2).build.slices ≤ 64 ∧ mapped (atStage 2).build (atStage 2).fuse ≠ [] ∧
    (let s := { atStage 2 with build := { (atStage 2).build with slices := 0 } }
     mapped s.build s.fuse = [] ∧ s.build.slices ≤ 64) ∧
    (filledAt3 (A.ctxE1 0) = true ∧ A.ctxE1 0 ≠ A.ctxE1 63) ∧
    ((atStage 4).belfry.running = false ∧ (stageRuns 4).belfry.running = true ∧ (stageRuns 4).hasSlice 31 = true ∧
      ((stageRuns 4).sliceMap [].eraseDups).getLsbD 31 = false ∧
      ({ stageRuns 4 with boot := { (stageRuns 4).boot with fast := true } } : State).boot.fast = true) ∧
    ((stageRuns 9).belfry.running = true ∧ (stageRuns 9).inPlay = true) ∧
    ((stageRuns 1).boot.next ≠ 2 ∧ (stageRuns 1).boot.next ≠ 10) := by decide +kernel

/-- A reset of a unit is under way. -/
def unitAt (k sl i n : Nat) : UnitReset := ⟨k, sl, i, 0, n, false⟩

def resets (u : UnitReset) : State := { up with boot := { up.boot with released := true, reset := some u } }

/-- That unit is awake and quiet when its answers are due. -/
def quiets (u : UnitReset) : Bool :=
  let s := resets u
  let t := (s.reach (s.unitTime u)).settleUnit u
  t.unitAwake u && t.unitQuiet u

theorem witness_UnitResets :
    (up.plain A.bootReset 63 = true ∧ up.plain A.bootReset 0 = true ∧ up.getB A.bootReset 4 = false ∧
      (up.putB A.bootReset 4 true).plain A.bootReset 63 = true ∧ (up.putB A.bootReset 4 true).getB A.bootReset 4 = true) ∧
    (up.hasPort 31 3 = true ∧ 31 < 64 ∧ 3 < 16 ∧ up.slicePower 31 ≠ 2 ∧ up.hasSlice 31 = true ∧ 0 < up.nParts ∧ 0 < 16 ∧
      up.poweredSlices ⟨4, 0, 0, 0, 0, false⟩ ≠ []) ∧
    ((powered 2).plain A.bootReset 63 = true ∧ (powered 2).slicePower 31 = 2 ∧ (powered 2).getB A.bootReset 4 = false) ∧
    (∀ k ∈ [1, 2, 3, 4, 5, 7], (resets (unitAt k 0 0 1)).boot.reset = some (unitAt k 0 0 1) ∧ (unitAt k 0 0 1).drained = false ∧
      quiets (unitAt k 0 0 1) = true) ∧
    (resets (unitAt 5 0 0 0)).belfry.lcReset = false ∧
    (let u := unitAt 2 31 0 0
     let s := ((resets u).setSlicePower 31 1)
     let t := (s.reach (s.unitTime u)).settleUnit u
     (t.unitAwake u && t.unitQuiet u) = false) ∧
    (∀ n j, ∀ i ∈ (up.slot n j).insts, i.wipe = []) :=
  ⟨by decide +kernel, by decide +kernel, by decide +kernel, by decide +kernel, by decide +kernel, by decide +kernel, still_of_slots rfl⟩

/-- The kill of context 62 , marked at slice 0 only; it owns pair 255 of slice 31. -/
def unmarked : State :=
  let s := (up.putB A.ctxKill 62 true).putF (A.semPair 31 255) 40 6 62
  { s with boot := { s.boot with kills := [{ aKill false with marked := [0] }] } }

theorem witness_ContextKills :
    (up.plain A.ctxKill 63 = true ∧ (1 <<< 62 : Word).getLsbD 62 = true ∧ (up.putF (A.ctxE0 62) 32 2 1).getB A.ctxKill 62 = false ∧
      (up.putF (A.ctxE0 62) 32 2 1).ctxState 62 ≠ 0 ∧ (up.putF (A.ctxE0 62) 32 2 1).plain A.ctxKill 63 = true) ∧
    (62 < 64 ∧ unmarked.hasSlice 31 = true ∧ unmarked.killOf 62 = some { aKill false with marked := [0] } ∧
      [0].contains 31 = false ∧ [0].contains 0 = true ∧ unmarked.getF (A.semPair 31 255) 40 6 = 62 ∧ unmarked.getF (A.semPair 31 0) 40 6 ≠ 62) ∧
    (((killing false).killDraining 62 && decide ((killing false).killStrokes 62 = 0) && (killing false).drained (killMine 62) (State.killHost 62) ((killing false).killOut 62)) = true ∧
      (up.killDraining 62 && decide (up.killStrokes 62 = 0) && up.drained (killMine 62) (State.killHost 62) (up.killOut 62)) = false) ∧
    ((killing true).killOf 62 = some (aKill true) ∧ (aKill true).drained = true ∧ (killing true).killBanksDone 62 = true) := by
  decide +kernel

/-- Window 63 in a state, for context 1 and job 7, which reads and writes handle 5 at lines 0 to 4095; this chip is chip 9. -/
def windowed (v : Nat) : State :=
  let s := (engine.wr (A.chwinJob 63) (BitVec.ofNat 64 (7 + 2 ^ 32))).wr (A.chwinTgt 63) (BitVec.ofNat 64 (5 + 4096 * 2 ^ 37))
  (((s.wr (A.chwinSrc 63) 0xFFFF0000).wr (A.chwinCtl 63) (BitVec.ofNat 64 (3 + v * 2 ^ 17))).wr A.chipId (9 + 2 ^ 16)).putF (A.ctxE0 1) 0 32 7

/-- A packet of chip 8 to that window. -/
def aPacket (n : Nat) : Packet := ⟨n, 1, 8, 9, 63, 255, 7, 0, 0, false, 0, 0, 0, 0, 0, [0]⟩

/-- That packet as a fabric write outstanding of slot 0, whose chip answers. -/
def anOut : FpOut := ⟨0, 0, 0, 0, 0, 0, 1, 0, { aPacket 1 with src := 9, dst := 8 }, true, none⟩

def sentOut : State := { windowed 1 with fabric := { (windowed 1).fabric with outbound := [anOut] } }

/-- The hypotheses of a request that is performed. -/
def performed (n : Nat) : Bool :=
  let s := windowed 1
  let q := aPacket n
  let u := s.fpOpens q
  let rs := (groupUp (u.fpSpots q).2).map (u.fpReq q u.fabric.nextId)
  s.cplxAwake && decide (s.fpCode3 q = rspOk) && decide (u.fpCode6 q = rspOk) && decide ((u.fpSpots q).1 = rspOk) &&
    decide (u.partsCode rs = rspOk) && decide (rs ≠ [])

/-- REMOTE of slot 0 has a line to send. -/
def sends : Bool :=
  let s := withInst (aBlock 0x22 0 2)
  let u := s.pumpEngine 0
  (do let i ← (u.slot 0 0).followInst
      let os ← u.blockOps 0 i i.wblk
      let src := os.getD 0 Operand.none
      let dst := os.getD 1 Operand.none
      let n ← i.outNext dst i.wblk i.wpos
      let g := u.outReady 0 0 i dst src (u.outGroup 0 0 i dst n)
      let last ← u.outLast 0 i dst g
      pure (u.outMay 0 0 i && (u.openTag 0 0).isNone && decide (0 ≤ dst.lineOff n) && decide (dst.lineOff n < 2 ^ 25) &&
        decide (g ≠ []) && !last && decide (u.tcount 0 0 < 65535) && u.freeRid.isSome && u.outFree (u.slotClass 0 0))) = some true

theorem witness_FabricPackets :
    ((windowed 1).entering .complex = false ∧ (windowed 1).build.chipwin ≠ 0 ∧ (cplxIn 2).cplxAwake = false ∧ (windowed 1).cplxAwake = true ∧
      ({ aPacket 1 with ver := 2 } : Packet).ver ≠ 1 ∧ (aPacket 1).ver = 1 ∧ (windowed 1).winKilled 63 = false ∧
      (8 ≠ (windowed 1).getF A.chipId 0 16) ∧ (aPacket 1).dst = (windowed 1).getF A.chipId 0 16) ∧
    ((windowed 0).winState 63 = 0 ∧ (windowed 2).winState 63 = 2 ∧ ((windowed 2).fpTag 63 255).isOpen = false ∧
      (windowed 1).build.chipwin ≤ 64 ∧ 63 < (windowed 1).build.chipwin ∧ (windowed 1).winState 63 = 1 ∧
      6 ≠ (windowed 1).getF (A.chwinJob 63) 0 32) ∧
    (performed 1 = true ∧ performed 2 = true ∧ performed 4 = true) ∧
    (let s := windowed 1
     let q := { aPacket 1 with offset := 4096 }
     s.fpCode3 q = rspOk ∧ (s.fpOpens q).fpCode6 q ≠ rspOk) ∧
    (let s := (windowed 1).wr (A.chwinTgt 63) (BitVec.ofNat 64 (5 + 8192 * 2 ^ 37))
     let q := { aPacket 1 with offset := 8191 }
     s.fpCode3 q = rspOk ∧ (s.fpOpens q).fpCode6 q = rspOk ∧ ((s.fpOpens q).fpSpots q).1 ≠ rspOk ∧ ((s.fpOpens q).fpSpots q).1 ≠ rspPoison) ∧
    ((windowed 1).outOf (aPacket 5) = none ∧ 7 ∉ [1, 2, 3, 4, 5, 8] ∧ sentOut.outOf (aPacket 5) = some anOut ∧
      sentOut.slotState 0 0 = 2 ∧ (2 ∉ [0, 1, 3] ∧ (sentOut.slotState 0 0 = 2 ∨ sentOut.slotState 0 0 = 3))) ∧
    sends = true := by
  refine ⟨?_, ?_, ?_, ?_, ?_, ?_, ?_⟩ <;> decide +kernel

/-- A Knell of another chip. -/
def aKnell : Packet := ⟨8, 1, 8, 9, 0, 0, 7, 0, 0, false, 3, 0, 0, 0, 0, []⟩

theorem witness_WindowsAndKnells :
    (63 < up.build.chipwin ∧ 63 < 64 ∧ (windowed 0).plain (A.chwinCtl 63) 63 = true ∧ (windowed 0).winState 63 = 0 ∧
      (windowed 0).openRefused 63 = false ∧ up.openRefused 63 = true ∧ up.winState 63 = 0 ∧
      (windowed 1).winState 63 = 1 ∧ (windowed 1).plain (A.chwinCtl 63) 0 = true) ∧
    ((windowed 2).winState 63 = 2 ∧ (windowed 2).getF (A.chwinStat 63) 0 9 = 0 ∧ (windowed 2).fabric.inbound = [] ∧
      (windowed 1).winState 63 ≠ 2) ∧
    (up.build.chipwin ≠ 0 ∧ up.build.chipwin ≤ 64 ∧ aKnell.ver = 1 ∧ aKnell.src ≠ (windowed 1).getF A.chipId 0 16 ∧
      { aKnell with src := 9 }.src = (windowed 1).getF A.chipId 0 16 ∧ (windowed 1).allAwake = true ∧ (powered 1).allAwake = false ∧
      aKnell.src ≠ (powered 1).getF A.chipId 0 16 ∧ (windowed 1).getF (A.chwinJob 63) 0 32 = aKnell.jobid) ∧
    (up.plain A.fpKnell 63 = true ∧ up.cplxPower = 0 ∧ up.notOk 5 0 = false ∧ (cplxIn 2).cplxPower ≠ 0 ∧
      ({ up with fabric := { up.fabric with knells := [aKnell] } } : State).fabric.knells = aKnell :: []) ∧
    (up.plain A.ctxSolo 63 = true ∧ flag (64 + 62 : Word) 6 = true ∧ fld (64 + 62 : Word) 0 6 = 62 ∧ fld (64 : Word) 0 6 = 0 ∧
      ((up.putF (A.ctxE0 1) 32 2 1).ctxState 1 = 1 ∧ 1 ≠ 62) ∧ flag (62 : Word) 6 = false ∧ up.getB A.ctxSolo 6 = false ∧
      (up.putB A.ctxSolo 6 true).getB A.ctxSolo 6 = true) := by
  refine ⟨?_, ?_, ?_, ?_, ?_⟩ <;> decide +kernel

/-- Belfry serves a mailbox command of a length, in a life-cycle state. -/
def mail (op n lc : Nat) : State :=
  let s := (up.wr (A.mboxArg 0) 0).putF A.mboxCmd 8 13 n
  { s with belfry := { s.belfry with inReset := false, running := true, cmd := some op }, fuse := { s.fuse with lifeCycle := lc, keyHash := true } }

def withArg (s : State) (w : Word) : State := s.wr (A.mboxArg 0) w

/-- No usable flash. -/
def noFlash (op : Nat) : State :=
  let s := mail op 8 1
  { s with belfry := { s.belfry with flashOk := false } }

/-- An update in progress, with one written range. -/
def updating (op : Nat) : State :=
  let s := mail op 4096 1
  { s with belfry := { s.belfry with update := some ⟨1, 65536, 0, [(0, 64)]⟩, flashOk := true } }

/-- Dump 7 is captured. -/
def dumped (op : Nat) : State :=
  let s := mail op 4096 1
  { s with belfry := { s.belfry with dumps := List.replicate 7 DumpDir.empty ++ [{ DumpDir.empty with valid := true }] } }

theorem witness_MailboxCommands :
    (∀ op ∈ [1, 2, 3, 4, 5, 6, 7, 0x10, 0x11, 0x12, 0x13, 0x20, 0x21], (mail op 4096 1).serving op = true ∧
      (mail op 4096 1).notPermitted op = false ∧ (mail op 4096 1).getF A.mboxCmd 8 13 ≤ 4096) ∧
    ((mail 1 0 1).serving 2 = false ∧ (mail 3 0 5).serving 3 = true ∧ (mail 3 0 5).notPermitted 3 = true ∧
      4096 < (mail 1 4097 1).getF A.mboxCmd 8 13 ∧ (mail 1 4097 1).notPermitted 1 = false) ∧
    (128 < fld ((withArg (mail 3 8 1) (BitVec.ofNat 64 (128 * 2 ^ 11))).arg 0) 11 8 + 1 ∧
      fld ((withArg (mail 3 8 1) (BitVec.ofNat 64 (127 * 2 ^ 11))).arg 0) 11 8 + 1 ≤ 128) ∧
    ((mail 4 0 1).belfry.dumps.length = 8 ∧
      (let s := withArg (dumped 5) (BitVec.ofNat 64 (7 + (131072 - 4096) * 2 ^ 3 + 4096 * 2 ^ 20))
       (s.belfry.dumps.getD (fld (s.arg 0) 0 3) DumpDir.empty).valid = true ∧ fld (s.arg 0) 20 13 ≤ 4096 ∧
       fld (s.arg 0) 3 17 + fld (s.arg 0) 20 13 ≤ 131072) ∧
      ((mail 5 0 1).belfry.dumps.getD 0 DumpDir.empty).valid = false) ∧
    ((mail 6 0 1).pins.pgood = true ∧ ((mail 6 0 1).dumpSlot.map fun k => decide (k < (mail 6 0 1).belfry.dumps.length)) = some true ∧
      (let s := mail 6 0 1
       ({ s with belfry := { s.belfry with dumps := List.replicate 8 { DumpDir.empty with valid := true, keep := true } } } : State).dumpSlot = none)) ∧
    ((noFlash 0x10).belfry.flashOk = false ∧ (noFlash 0x10).serving 0x10 = true ∧ (noFlash 0x13).belfry.flashOk = false ∧ (updating 0x10).belfry.flashOk = true ∧
      (let s := withArg (updating 0x10) (BitVec.ofNat 64 (1 + 65536 * 2 ^ 8))
       flag (s.arg 0) 0 = true ∧ fld (s.arg 0) 8 24 ≤ 65536)) ∧
    ((mail 0x11 8 1).belfry.update = none ∧
      (let s := (withArg (updating 0x11) (BitVec.ofNat 64 (65536 - 4032))).wr (A.mboxArg 1) 4032
       fld (s.arg 1) 0 12 ≤ 4032 ∧ fld (s.arg 0) 0 24 + fld (s.arg 1) 0 12 ≤ 65536 ∧
       ([(0, 64)] : List (Nat × Nat)).any (fun w => decide (fld (s.arg 0) 0 24 < w.1 + w.2 ∧ w.1 < fld (s.arg 0) 0 24 + fld (s.arg 1) 0 12)) = false) ∧
      (let s := (withArg (updating 0x11) 63).wr (A.mboxArg 1) 1
       ([(0, 64)] : List (Nat × Nat)).any (fun w => decide (fld (s.arg 0) 0 24 < w.1 + w.2 ∧ w.1 < fld (s.arg 0) 0 24 + fld (s.arg 1) 0 12)) = true)) ∧
    (updating 0x13).newRecord.length ≤ 65536 ∧
    (let s := withArg (mail 0x21 8 1) 4
     lcAllowed s.fuse.lifeCycle (fld (s.arg 0) 0 3) = false) ∧
    (let s := withArg (mail 0x21 8 0) 1
     lcAllowed s.fuse.lifeCycle (fld (s.arg 0) 0 3) = true ∧ s.contextsFree = true ∧ s.fuse.lifeCycle = 0 ∧ s.fuse.keyHash = true ∧
     s.notPermitted 0x21 = false) ∧
    (let s := (withArg (mail 0x21 8 0) 1).putF (A.ctxE0 62) 32 2 1
     s.contextsFree = false) ∧
    (let s := withArg (mail 0x21 8 1) 5
     lcAllowed s.fuse.lifeCycle (fld (s.arg 0) 0 3) = true ∧ s.contextsFree = true ∧ s.lcSigned 5 = false ∧ s.fuse.lifeCycle ≠ 0) ∧
    (listedOp 255 = false ∧ (mail 255 0 1).serving 255 = true) := by
  refine ⟨?_, ?_, ?_, ?_, ?_, ?_, ?_, ?_, ?_, ?_, ?_, ?_, ?_⟩ <;> decide +kernel

/-- Belfry has an answer ready, a flash operation under way, and a record to log. -/
def answering (st : Nat) : State :=
  let s := mail 1 0 1
  { s with belfry := { s.belfry with answer := some (st, [1, 2]) } }

def flashing (e : Bool) : State :=
  let s := mail 0x11 0 1
  { s with belfry := { s.belfry with flashOp := some (e, 0, 0, 4096) } }

def logging : State :=
  let s := mail 1 0 1
  { s with belfry := { s.belfry with logQueue := [LogRec.zero, LogRec.zero] } }

/-- Stage B7 with its roll call begun or not. -/
def rolling (b : Bool) : State :=
  let s := atStage 7
  { s with boot := { s.boot with rollCall := b } }

theorem witness_BelfryUpkeep :
    ((answering 0).belfryServes = true ∧ (answering 0).belfry.flashOp = none ∧ (answering 7).belfry.answer = some (7, [1, 2]) ∧
      (answering 0).belfry.cmd ≠ some 0x21) ∧
    (let s : State := { up with belfry := { up.belfry with inReset := true } }
     s.notServing = true ∧ s.plain A.mboxCmd 63 = true ∧ flag (setFlag 0 21 true) 21 = true ∧ s.getB A.mboxStat 0 = false ∧
     (s.putB A.mboxStat 0 true).getB A.mboxStat 0 = true ∧ (s.putB A.mboxStat 0 true).plain A.mboxCmd 63 = true ∧
     (s.putB A.mboxStat 0 true).notServing = true) ∧
    ((flashing true).belfryServes = true ∧ (flashing false).belfry.flashOp = some (false, 0, 0, 4096) ∧ (answering 0).belfry.flashOp = none) ∧
    ((flashing true).belfry.inReset = false ∧ State.reset.belfry.inReset = true) ∧
    (logging.belfry.logQueue = LogRec.zero :: [LogRec.zero] ∧ logging.belfry.inReset = false) ∧
    ((0x5FFFF8 < 0x600000 ∧ 0x5FFFF8 ≠ A.mboxCmd ∧ up.plain 0x5FFFF8 63 = true) ∧ up.plain 0x610000 63 = true ∧ up.plain 0x6FFFF8 63 = true ∧
      up.plain 0x800000 0 = true ∧ 9 < 10 ∧ up.plain A.glbIrqCause 63 = true) ∧
    (0xFFF8 < 0x10000 ∧ 0xFFF8 % 8 = 0 ∧ 0xFFFC0 < 0x100000 ∧ 0xFFFC0 % 64 = 0 ∧ 7 < 8) ∧
    ((rolling false).atStage 7 = true ∧ (rolling false).boot.rollCall = false ∧ (rolling true).atStage 7 = true ∧ (rolling true).boot.rollCall = true ∧
      (∀ sl p, ((rolling true).port sl p).calling = false)) := by
  refine ⟨?_, ?_, ?_, ?_, ?_, ?_, ?_, ?_, ?_, ?_, ?_, fun _ _ => rfl⟩ <;> decide +kernel

theorem witness_CommandFrames :
    (Instr.registersOnly (.rhyTableWrite 31 true 31 0 63) = true ∧ answers (exec (.rhyTableWrite 31 true 31 0 63) up) = true) ∧
    (Instr.engineOnly (.clkMeasureWindow 4095) = true ∧ answers (exec (.clkMeasureWindow 4095) slow) = true) ∧
    (Instr.leavesStorage (.beatStrobe 1) = true ∧ answers (exec (.beatStrobe 1) (atStage 0)) = true) ∧
    (Instr.belfryOnly (.flashPoll false) = true ∧ answers (exec (.flashPoll false) (flashing true)) = true) ∧
    (Instr.movesBeat (.rhyTableWrite 31 true 31 0 63) = false) := by decide +kernel

/-- R408: a cause set in the clk in which its bit is written 1 stays set, and one set earlier is cleared. -/
theorem test_cause_set_while_cleared :
    let s := (up.raiseIrq 3).pass 1 |>.raiseIrq 8
    (s.csrWrite A.glbIrqCause 0x3FF 63).rd A.glbIrqCause = 0x100 := by decide +kernel

/-! ### Ill-formed commands are refused -/

/-- A fault of a row at the end of every range. -/
def aFault : BistFault := .row 63 63 3 511

/-- Each has one operand out of its range, from `clkMeasureWindow` to `historyExpire`. -/
theorem test_wf_refuses_1 : ([
    .clkMeasureWindow 4096, .rhyTableWrite 64 true 31 0 63, .rhyTableWrite 63 true 32 0 63,
    .rhyTableWrite 63 true 31 0 1, .rhyCtrlWrite 64 0 63, .rhyCtrlWrite 63 0 1, .tableSwitch 64, .beatArmedSwitch 64,
    .rhyPfenceWrite 64 0 63, .rhyPfenceWrite 63 0 1, .cpReservedOp aRead 8, .cpReservedOp aRead 4,
    .requestIssue 64 (.routerPort 15), .mergeDrainAge 64 63, .mergeDrainAge 63 64, .cpResponse 64 15,
    .cpResponse 63 16, .cpRemoteResponse 64 15, .cpRemoteResponse 63 16, .cpFenceInRaise 64 15, .cpFenceInRaise 63 16,
    .cpFenceInLower 64 15, .cpFenceInLower 63 16, .portRcRun 64 0 63, .portRcRun 63 0 1, .idFrame 64 15 0 0,
    .idFrame 63 16 0 0, .idAbsent 64 15, .idAbsent 63 16, .idRetry 64 15, .idRetry 63 16,
    .maintenanceClk 64 7 [(7, 1295)], .maintenanceClk 63 8 [(7, 1295)], .maintenanceClk 63 7 [(8, 0)],
    .maintenanceClk 63 7 [(0, 1296)], .historyExpire 64 63] : List Instr).all (fun c => !c.wf) = true := by decide

/-- Each has one operand out of its range, from `historyExpire` to `burstRelease`. -/
theorem test_wf_refuses_2 : ([
    .historyExpire 63 64, .rowRetire 64 63, .rowRetire 63 64, .eccRetireRun 64 0 63, .eccRetireRun 63 0 1,
    .htabStageWrite 4096 2 0 63, .htabStageWrite 4095 3 0 63, .htabStageWrite 4095 2 0 1, .htabCommit 4096 0 63,
    .htabCommit 4095 0 1, .handleTakesEffect 4096, .ctxE0Write 64 0 63, .ctxE0Write 63 0 1, .ctxKnextWrite 64 0 63,
    .ctxKnextWrite 63 0 1, .ownXferGo 64 0 63, .ownXferGo 63 0 1, .handoverDrainEnd 64, .handoverComplete 64,
    .spTargetRead 281474976710656 63 63, .spTargetRead 281474976710655 64 63, .spTargetRead 281474976710655 63 64,
    .spTargetWrite 281474976710656 [(0, 0)] 63, .spTargetWrite 281474976710655 [] 63,
    .spTargetWrite 281474976710655 (List.replicate 65 (0, 0)) 63, .spTargetWrite 281474976710655 [(0, 0)] 64,
    .spTargetBadOp 4 63, .spTargetBadOp 1 63, .spTargetBadOp 3 64, .spTargetResponse 64, .spInitResponse 64 7 [],
    .spInitResponse 63 8 [], .syswinWrite 16 3 0 63, .syswinWrite 15 4 0 63, .syswinWrite 15 3 0 1,
    .burstRelease 64 5] : List Instr).all (fun c => !c.wf) = true := by decide

/-- Each has one operand out of its range, from `burstRelease` to `descBurstArrive`. -/
theorem test_wf_refuses_3 : ([
    .burstRelease 63 6, .qosShareWrite 8 0 63, .qosShareWrite 7 0 1, .csrPealWrite 65536 0 63, .csrPealWrite 4 0 63,
    .csrPealWrite 65528 0 1, .memPealWrite 1048576 0 0 63, .memPealWrite 32 0 0 63, .memPealWrite 1048512 0 0 1,
    .pealDeliver 0 64, .mcastStrokeSend 16, .mcastLand 16 63, .mcastLand 15 64, .mcastAckMerge 16 0, .mcastResend 16,
    .mcastShed 16 63, .mcastShed 15 64, .seArm 64 15 0 63, .seArm 63 16 0 63, .seArm 63 15 0 1, .seResume 64 15 0 63,
    .seResume 63 16 0 63, .seResume 63 15 0 1, .seStop 64 15 0 63, .seStop 63 16 0 63, .seStop 63 15 0 1,
    .stopComplete 64 15, .stopComplete 63 16, .slotStart 64 15, .slotStart 63 16, .slotPaused 64 15,
    .slotPaused 63 16, .instrFetchArrive 64 15, .instrFetchArrive 63 16, .descBurstArrive 64 15,
    .descBurstArrive 63 16] : List Instr).all (fun c => !c.wf) = true := by decide

/-- Each has one operand out of its range, from `nop` to `mcast`. -/
theorem test_wf_refuses_4 : ([
    .nop 64 15, .nop 63 16, .halt 64 15, .halt 63 16, .mark 64 15, .mark 63 16, .loop 64 15, .loop 63 16, .endl 64 15,
    .endl 63 16, .jump 64 15, .jump 63 16, .knext 64 15, .knext 63 16, .seth 64 15, .seth 63 16, .sets 64 15,
    .sets 63 16, .wait 64 15, .wait 63 16, .waitSatisfied 64 15, .waitSatisfied 63 16, .signal 64 15, .signal 63 16,
    .waitbeat 64 15, .waitbeat 63 16, .deadline 64 15, .deadline 63 16, .rearm 64 15, .rearm 63 16,
    .rearmExecute 64 15, .rearmExecute 63 16, .move 64 15, .move 63 16, .mcast 64 15, .mcast 63 16] : List Instr).all (fun c => !c.wf) = true := by decide

/-- Each has one operand out of its range, from `remote` to `reductionTree`. -/
theorem test_wf_refuses_5 : ([
    .remote 64 15, .remote 63 16, .toll 64 15, .toll 63 16, .fill 64 15, .fill 63 16, .copy 64 15, .copy 63 16,
    .accin 64 15, .accin 63 16, .convert 64 15, .convert 63 16, .gemv 64 15, .gemv 63 16, .reduce 64 15,
    .reduce 63 16, .wipe 64 15, .wipe 63 16, .scrub 64 15, .scrub 63 16, .illegalOp 64 15, .illegalOp 63 16,
    .instructionRetire 64 15, .instructionRetire 63 16, .seAccessResponse 64 15 0, .seAccessResponse 63 16 0,
    .fencedReissue 64 15, .fencedReissue 63 16, .guardHeldRetry 64 15, .guardHeldRetry 63 16, .strikeStep 64 7,
    .strikeStep 63 8, .accumTake 64 15, .accumTake 63 16, .reductionTree 64 15, .reductionTree 63 16] : List Instr).all (fun c => !c.wf) = true := by decide

/-- Each has one operand out of its range, from `strkSeedWrite` to `powerEntryStep`. -/
theorem test_wf_refuses_6 : ([
    .strkSeedWrite 64 63 0 63, .strkSeedWrite 63 64 0 63, .strkSeedWrite 63 63 0 1, .semPairWrite 64 255 0 63,
    .semPairWrite 63 256 0 63, .semPairWrite 63 255 0 1, .semOpSignal 64 0 63, .semOpSignal 63 0 1,
    .semOpTake 64 0 63, .semOpTake 63 0 1, .ceWindowEnd 64, .errRdWrite 0 1, .errFirstclr 0 1, .scrubCtlGo 64 0 63,
    .scrubCtlGo 63 0 1, .scrubCtlStop 64 0 63, .scrubCtlStop 63 0 1, .scrubPassComplete 64, .tunerScanEnd 11 0,
    .tunerReloadDone 11 0, .tunerRecheck 11 0 63, .tunerRecheck 10 0 1, .tunerRebase 11 0 63, .tunerRebase 10 0 1,
    .belfryChallenge (List.replicate 7 0), .tunerChexpGo 0 1, .sliceDampRequest 64 63, .sliceDampRequest 63 1,
    .sliceOffRequest 64 63, .sliceOffRequest 63 1, .slicePlayRequest 64 63, .slicePlayRequest 63 1,
    .cplxDampRequest 1, .cplxTapRequest 1, .cplxPlayRequest 1, .powerEntryStep (.slice 64)] : List Instr).all (fun c => !c.wf) = true := by decide

/-- Each has one operand out of its range, from `wakeEvent` to `fpPacketSend`. -/
theorem test_wf_refuses_7 : ([
    .wakeEvent (.slice 64) 5, .wakeEvent (.slice 63) 0, .wakeEvent (.slice 63) 6, .wakeStepReady (.slice 64),
    .wakeStepTimeout (.slice 64), .offRestoreDone 64, .pwrVreqGo 0 1, .pwrVreqClr 0 1, .avsAck 4 0,
    .avsVoltagePoll 65536, .sensorWindow 64 0, .droopEvent 64, .fastCheck [(64, 0)], .fastCheck [(0, 64)],
    .bist [aFault] 65536, .settingsRead 0 65536 65535, .settingsRead 0 65535 65536, .portReset 64 15 63,
    .portReset 63 16 63, .portReset 63 15 1, .engineReset 64 63, .engineReset 63 1, .sliceReset 64 63,
    .sliceReset 63 1, .partitionReset 16 63, .partitionReset 15 1, .warmReset 1, .belfryReset 1, .fullReset 1,
    .ctxKillWrite 0 1, .killMarkArrive 64 63, .killMarkArrive 63 64, .killDrainEnd 64, .killComplete 64,
    .ctxSoloWrite 0 1, .fpPacketSend 64 15] : List Instr).all (fun c => !c.wf) = true := by decide

/-- Each has one operand out of its range, from `fpPacketSend` to `csrWrite`. -/
theorem test_wf_refuses_8 : ([
    .fpPacketSend 63 16, .chwinOpen 64 0 63, .chwinOpen 63 0 1, .chwinClose 64 0 63, .chwinClose 63 0 1,
    .chwinDrainDone 64, .chwinDtmo 64, .fpKnellGo 0 1, .mboxSensors 4294967296 4294967295,
    .mboxSensors 4294967295 4294967296, .mboxNotServing 0 1, .csrWrite 8388608 0 63, .csrWrite 4 0 63,
    .csrWrite 8388600 0 1] : List Instr).all (fun c => !c.wf) = true := by decide

/-- Each request has one field out of its range. -/
theorem test_wf_port_requests : ([
    .cpRead { aRead with sl := 64 }, .cpRead { aRead with port := 16 }, .cpRead { aRead with tsl := 64 },
    .cpRead { aRead with bset := 8 }, .cpRead { aRead with rows := [] },
    .cpRead { aRead with rows := List.replicate 8 4096 }, .cpRead { aRead with ctx := 64 },
    .cpRead { aRead with cls := 8 }, .cpRead { aRead with tag := 256 }, .cpWrite { aRead with tag := 256 } someData,
    .cpWrite aRead { someData with lines := [] }, .cpReservedOp { aRead with tag := 256 } 7,
    .cpClvRead { aClave with sl := 64 }, .cpClvRead { aClave with port := 16 }, .cpClvRead { aClave with tsl := 64 },
    .cpClvRead { aClave with pair := 256 }, .cpClvRead { aClave with n := 65536 },
    .cpClvRead { aClave with ctx := 64 }, .cpClvRead { aClave with cls := 8 }, .cpClvRead { aClave with tag := 256 },
    .cpClvSignal { aClave with tag := 256 }, .cpClvTake { aClave with tag := 256 }] : List Instr).all (fun c => !c.wf) = true := by decide

/-- Each packet has one field out of its range. -/
theorem test_wf_packets : ([
    .fpWriteIn (aPacket 16), .fpWriteIn { aPacket 1 with ver := 16 }, .fpWriteIn { aPacket 1 with src := 65536 },
    .fpWriteIn { aPacket 1 with dst := 65536 }, .fpWriteIn { aPacket 1 with win := 64 },
    .fpWriteIn { aPacket 1 with tag := 256 }, .fpWriteIn { aPacket 1 with jobid := 4294967296 },
    .fpWriteIn { aPacket 1 with offset := 33554432 }, .fpWriteIn { aPacket 1 with len := 64 },
    .fpWriteIn { aPacket 1 with rid := 256 }, .fpWriteIn { aPacket 1 with count := 65536 },
    .fpWriteIn { aPacket 1 with code := 8 }, .fpWriteIn { aPacket 1 with lines := List.replicate 65 0 },
    .fpWritepIn { aPacket 1 with win := 64 }, .fpReadIn { aPacket 1 with win := 64 },
    .fpWrspIn { aPacket 1 with win := 64 }, .fpRdataIn { aPacket 1 with win := 64 },
    .fpKnellIn { aPacket 1 with win := 64 }, .fpBadPacket { aPacket 1 with win := 64 }] : List Instr).all (fun c => !c.wf) = true := by decide

/-- Each names a place that no build has. -/
theorem test_wf_named_places : ([
    .requestIssue 0 (.lane 8), .requestIssue 0 (.vectorRead 16), .requestIssue 0 (.vectorWrite 16),
    .requestIssue 0 (.routerPort 16), .requestIssue 0 (.routerLead 16), .requestIssue 0 (.routerFollow 16),
    .requestIssue 0 (.hostRead 16), .requestIssue 0 (.hostWrite 16), .drainTimeout (.handover 64),
    .drainTimeout (.kill 64), .bist [.row 64 0 0 0] 0, .bist [.row 0 64 0 0] 0, .bist [.row 0 0 4 0] 0,
    .bist [.row 0 0 0 512] 0, .bist [.column 64 0 0 0] 0, .bist [.column 0 64 0 0] 0, .bist [.column 0 0 4 0] 0,
    .bist [.column 0 0 0 80] 0, .bist [.bank 64 0] 0, .bist [.bank 0 64] 0] : List Instr).all (fun c => !c.wf) = true := by decide

/-- Operands at the end of their ranges are accepted. -/
theorem test_wf_accepts_1 : ([
    .beatStrobe 0, .clkMeasureWindow 4095, .rhyTableWrite 63 true 31 0 63, .rhyCtrlWrite 63 0 63, .tableSwitch 63,
    .beatArmedSwitch 63, .rhyPfenceWrite 63 0 63, .cpRead aRead, .cpWrite aRead someData, .cpClvRead aClave,
    .cpClvSignal aClave, .cpClvTake aClave, .cpReservedOp aRead 7, .requestIssue 63 (.routerPort 15),
    .mergeDrainAge 63 63, .cpResponse 63 15, .cpRemoteResponse 63 15, .cpFenceInRaise 63 15, .cpFenceInLower 63 15,
    .portRcRun 63 0 63, .idFrame 63 15 0 0, .idAbsent 63 15, .idRetry 63 15, .maintenanceClk 63 7 [(7, 1295)],
    .historyExpire 63 63, .rowRetire 63 63, .eccRetireRun 63 0 63, .htabStageWrite 4095 2 0 63, .htabCommit 4095 0 63,
    .handleTakesEffect 4095, .ctxE0Write 63 0 63, .ctxKnextWrite 63 0 63, .ownXferGo 63 0 63, .handoverDrainEnd 63,
    .handoverComplete 63, .drainTimeout (.kill 63), .spTargetRead 281474976710655 63 63,
    .spTargetWrite 281474976710655 [(0, 0)] 63, .spTargetBadOp 3 63, .spTargetResponse 63, .spInitResponse 63 7 [],
    .syswinWrite 15 3 0 63, .remoteRequestArrive 0, .remoteResponseArrive 0, .burstRelease 63 5,
    .qosShareWrite 7 0 63, .csrPealWrite 65528 0 63, .memPealWrite 1048512 0 0 63, .pealDeliver 0 63, .pealComplete 0,
    .mcastStrokeSend 15, .mcastLand 15 63, .mcastAckMerge 15 0, .mcastResend 15, .mcastShed 15 63] : List Instr).all Instr.wf = true := by decide

/-- Operands at the end of their ranges are accepted. -/
theorem test_wf_accepts_2 : ([
    .seArm 63 15 0 63, .seResume 63 15 0 63, .seStop 63 15 0 63, .stopComplete 63 15, .slotStart 63 15,
    .slotPaused 63 15, .instrFetchArrive 63 15, .descBurstArrive 63 15, .nop 63 15, .halt 63 15, .mark 63 15,
    .loop 63 15, .endl 63 15, .jump 63 15, .knext 63 15, .seth 63 15, .sets 63 15, .wait 63 15, .waitSatisfied 63 15,
    .signal 63 15, .waitbeat 63 15, .deadline 63 15, .rearm 63 15, .rearmExecute 63 15, .move 63 15, .mcast 63 15,
    .remote 63 15, .toll 63 15, .fill 63 15, .copy 63 15, .accin 63 15, .convert 63 15, .gemv 63 15, .reduce 63 15,
    .wipe 63 15, .scrub 63 15, .illegalOp 63 15, .instructionRetire 63 15, .seAccessResponse 63 15 0,
    .fencedReissue 63 15, .guardHeldRetry 63 15, .strikeStep 63 7, .accumTake 63 15, .reductionTree 63 15,
    .strkSeedWrite 63 63 0 63, .semPairWrite 63 255 0 63, .semOpSignal 63 0 63, .semOpTake 63 0 63, .ceWindowEnd 63,
    .errRdWrite 0 63, .errFirstclr 0 63, .scrubCtlGo 63 0 63, .scrubCtlStop 63 0 63, .scrubPassComplete 63,
    .tunerScanEnd 10 0] : List Instr).all Instr.wf = true := by decide

/-- Operands at the end of their ranges are accepted. -/
theorem test_wf_accepts_3 : ([
    .tunerReloadDone 10 0, .tunerRecheck 10 0 63, .tunerRebase 10 0 63, .belfryChallenge (List.replicate 8 0),
    .tunerChexpGo 0 63, .sliceDampRequest 63 63, .sliceOffRequest 63 63, .slicePlayRequest 63 63, .cplxDampRequest 63,
    .cplxTapRequest 63, .cplxPlayRequest 63, .powerEntryStep (.slice 63), .wakeEvent (.slice 63) 5,
    .wakeStepReady (.slice 63), .wakeStepTimeout (.slice 63), .offRestoreDone 63, .pwrVreqGo 0 63, .pwrVreqClr 0 63,
    .avsAck 3 0, .avsVoltagePoll 65535, .sensorWindow 63 0, .droopEvent 63, .fastCheck [(63, 63)],
    .bist [aFault] 65535, .settingsRead 0 65535 65535, .portReset 63 15 63, .engineReset 63 63, .sliceReset 63 63,
    .partitionReset 15 63, .warmReset 63, .belfryReset 63, .fullReset 63, .ctxKillWrite 0 63, .killMarkArrive 63 63,
    .killDrainEnd 63, .killComplete 63, .ctxSoloWrite 0 63, .fpWriteIn (aPacket 1), .fpWritepIn (aPacket 1),
    .fpReadIn (aPacket 1), .fpWrspIn (aPacket 1), .fpRdataIn (aPacket 1), .fpKnellIn (aPacket 1),
    .fpBadPacket (aPacket 1), .fpPacketSend 63 15, .chwinOpen 63 0 63, .chwinClose 63 0 63, .chwinDrainDone 63,
    .chwinDtmo 63, .fpKnellGo 0 63, .mboxSensors 4294967295 4294967295, .mboxNotServing 0 63, .flashPoll true,
    .csrWrite 8388600 0 63] : List Instr).all Instr.wf = true := by decide

/-! ### Results written out from the spec -/

/-- The next state, or the state itself where there is none. -/
def after (c : Instr) (s : State) : State :=
  match exec c s with
  | .next t => t
  | _ => s

/-- R39's example: the check bits of D = 5 at A = 1 are 0x6C10, and a flip of D2 is corrected. -/
theorem test_code_example : checkBits 5 1 = 0x6C10 ∧
    decodeWord (codeWord 5 1 ^^^ 4) 1 = { data := 5, bits := 1, bad := false, poison := false, syn := 0x7407 } := by decide +kernel

/-- The check value of CRC-32C (R293): the bytes of "123456789" give 0xE3069283. -/
theorem test_crc32c_check : crc32c [0x31, 0x32, 0x33, 0x34, 0x35, 0x36, 0x37, 0x38, 0x39] = 0xE3069283 := by decide +kernel

/-- The striped buffer of the chapter on handles: offset 1,000 is local line 0x4078 of slice 13, bank 56, set 7, L = 0x101. -/
theorem test_striped_example :
    let g := HEntry.gline { HEntry.ofWords 0 0 0 0 with type := 1, stripe := true, slices := 0xFF00, base := 0x4000, size := 8192 } 1000
    g = 13 * 262144 + 0x4078 ∧ glSlice g = 13 ∧ glBank g = 56 ∧ glSet g = 7 ∧ glRow g = 0x101 := by decide +kernel

/-- The ring of the memory model's example: COUNT 2, steps 1, 3, 5 and 7. -/
theorem test_ring_example : ringFull 0 0 2 0 = false ∧ ringFull 1 0 2 0 = true ∧ ringFull 2 0 2 0 = true ∧ ringFull 2 1 2 0 = false := by
  decide

/-- R236's example: a block whose largest magnitude is 5.0 has X = 0x7F in MXFP4; 5.0 becomes 4 (0b0110) under RNE and 6
(0b0111) under SR exactly when r ≥ 0x8000; 7.0 saturates to 6. -/
theorem test_mx_example : mxScale fMxFp4 [.fin false 5 0, .fin true 1 0] = 0x7F ∧
    (mxElem fMxFp4 0x7F 0 0 false (.fin false 5 0)).bits = 0b0110 ∧
    (mxElem fMxFp4 0x7F 2 0x7FFF false (.fin false 5 0)).bits = 0b0110 ∧
    (mxElem fMxFp4 0x7F 2 0x8000 false (.fin false 5 0)).bits = 0b0111 ∧
    mxElem fMxFp4 0x7F 0 0 false (.fin false 7 0) = { bits := 0b0111, sat := true, nan := false } := by decide +kernel

/-- The identity word of the example after R107, with its own check, stands in the registers of the port as the text prints it. -/
theorem test_identity_example :
    let id : BitVec 128 := 0x00000000005A31010200000027030101#128
    let t := after (.idFrame 0 0 id (crc16 id)) (calling 0 none 100)
    t.rd (A.portIdlo 0 0) = 0x0200000027030101 ∧ t.rd (A.portIdhi 0 0) = 0x00000000005A3101 := by decide +kernel

/-- The header words 0 to 2 of the toll in R374's worked transfer: WRITE of chip 0x0102 to window 5 of chip 0x0207, TAG 0x31,
line offset 576, 64 lines, COUNT 9, RID 0x17. -/
theorem test_toll_header :
    let p : Packet := { type := 1, ver := 1, src := 0x0102, dst := 0x0207, win := 5, tag := 0x31, jobid := 0x1234, offset := 576, len := 63
                        toll := true, count := 9, rid := 0x17, code := 0, ben := 0, psn := 0, lines := [] }
    (List.range 3).map (lineWord (packetHeader p)) = [0x000C450207010211, 0xFE00024000001234, 0x0000000000170009] := by decide +kernel

/-- The last accepted strobe of this state had count 4, at clk 0; it is clk 32. -/
def counted : State :=
  let s := (atStage 0).reach 32
  { s with beat := { s.beat with last := some (4, 0) } }

/-- A strobe of count 7 after one of 4 is accepted and sets SKIP; one of count 4 sets BACK, and 4 stays (R20). -/
theorem test_beat_skips : ((after (.beatStrobe 7) counted).beat.last.map Prod.fst) = some 7 ∧
    (after (.beatStrobe 7) counted).getB A.glbBeat 48 = true ∧ ((after (.beatStrobe 4) counted).beat.last.map Prod.fst) = some 4 ∧
    (after (.beatStrobe 4) counted).getB A.glbBeat 49 = true := by decide +kernel

/-- A signal by CSR of 5 to pair 3 adds 5 to its count (R259). -/
theorem test_signal_adds : (after (.semOpSignal 31 (3 + 5 * 65536) 63) up).claveCount 31 3 false = 5 := by decide +kernel

/-- A take of 2 from that pair leaves 3 (R259). -/
theorem test_take_subtracts : (after (.semOpTake 31 (3 + 2 * 65536) 63) (after (.semOpSignal 31 (3 + 5 * 65536) 63) up)).claveCount 31 3 false = 3 := by
  decide +kernel

/-- LOOP with CNT 7 and LN 0 sets L0 to 7 and goes to the next word; with CNT 0 and SKIP 5 it skips five words (R174). -/
theorem test_loop_counts : (after (.loop 0 0) (leads (word 0x08 7))).rd (A.seSlotLoop 0 0) = 7 ∧
    (after (.loop 0 0) (leads (word 0x08 7))).getF (A.seSlotPc 0 0) 0 27 = 1 ∧
    (after (.loop 0 0) (leads (word 0x08 (5 * 2 ^ 32)))).getF (A.seSlotPc 0 0) 0 27 = 5 := by decide +kernel

end Sys2Proof.Tests
end

section
/-! SUPPORT. The beat under the operations of the commands that no other frame keeps from it. What the frames of the
engines and of register access cover takes the fact from there; the others follow the model's order. In a few of the
latter `simp -implicitDefEqProofs` keeps the kernel from comparing whole states. -/

namespace Sys2Proof.Machine

open State

/-- The beat is the same in both states: what a function of states that an operation applies must give. -/
def State.SameBeat (s t : State) : Prop := t.beat = s.beat

theorem State.SameBeat.beat {s t : State} (h : s.SameBeat t) : t.beat = s.beat := h

@[simp] theorem State.sameBeat_iff {s t : State} : s.SameBeat t ↔ t.beat = s.beat := ⟨fun h => h, fun h => h⟩

theorem State.OnlyEngine.beat {s t : State} (h : s.OnlyEngine t) : t.beat = s.beat := by rw [h]

theorem State.OnlyRegs.beat {s t : State} (h : s.OnlyRegs t) : t.beat = s.beat := by rw [h]

@[simp] theorem beat_ite (c : Prop) [Decidable c] (s t : State) :
    (if c then s else t).beat = if c then s.beat else t.beat := apply_ite State.beat c s t

@[simp] theorem beat_foldl {α : Type} (l : List α) (f : State → α → State) (s : State)
    (hf : ∀ (t : State) x, t.SameBeat (f t x)) : (l.foldl f s).beat = s.beat :=
  foldl_of l f (sameBeat_iff.mpr rfl) fun t x h => (hf t x).trans h

theorem State.meshEvent_some_beat {s t : State} {stop : Net → Option Nat} (h : s.meshEvent stop = some t) :
    t.beat = s.beat := (meshEvent_some_engine h (onlyEngine_refl s)).beat

theorem State.strokeComes_beat {s t : State} {g r : Nat} {a : Arrived} (h : s.strokeComes g r = some (a, t)) :
    t.beat = s.beat := (strokeComes_some_engine h (onlyEngine_refl s)).beat

section

variable (s s₀ : State) (sl b c j k l n a h i o p r w id lo hi
  off op row t0 cls ctx tag bset code pair inst cause result : Nat) (v : Word)

/-! ### Machine/Ops -/

@[simp] theorem State.freeDraw_beat : s.freeDraw.2.beat = s.beat := by simp [State.freeDraw]
@[simp] theorem State.each_beat (l : List Nat) (f : State → Nat → State) (hf : ∀ (t : State) i, t.SameBeat (f t i)) :
    (s.each l f).beat = s.beat := by simp [State.each, (hf _ _).beat]
@[simp] theorem State.when_beat (c : Bool) (t : State) (ht : t.beat = s.beat) : (s.when c t).beat = s.beat := by
  simp [State.when, ht]
@[simp] theorem State.count_beat : (s.count a lo n k).beat = s.beat := (count_engine (onlyEngine_refl s) ..).beat
@[simp] theorem State.countSat_beat : (s.countSat a lo n k).beat = s.beat :=
  (countSat_engine (onlyEngine_refl s) ..).beat
@[simp] theorem State.allToReset_beat (l : List Nat) : (s.allToReset l).beat = s.beat :=
  (allToReset_engine (onlyEngine_refl s) ..).beat
@[simp] theorem State.raiseIrq_beat : (s.raiseIrq i).beat = s.beat := (raiseIrq_engine (onlyEngine_refl s) ..).beat
@[simp] theorem State.sliceRec_beat (aux : Nat) (slot : Option Nat) (detail : Word) :
    (s.sliceRec sl code aux slot ctx cls detail).beat = s.beat := (sliceRec_engine (onlyEngine_refl s) ..).beat
@[simp] theorem State.globalRec_beat (aux : Nat) (detail : Word) : (s.globalRec code aux ctx detail).beat = s.beat :=
  (globalRec_engine (onlyEngine_refl s) ..).beat
@[simp] theorem State.refuseCfg_beat : (s.refuseCfg a ctx).beat = s.beat :=
  (refuseCfg_engine (onlyEngine_refl s) ..).beat

/-! ### Machine/Bank -/

@[simp] theorem State.drainLine_beat : (s.drainLine sl b l).beat = s.beat :=
  (drainLine_engine (onlyEngine_refl s) ..).beat
@[simp] theorem State.drainAll_beat : (s.drainAll sl b).beat = s.beat := (drainAll_engine (onlyEngine_refl s) ..).beat
@[simp] theorem State.wipeBank_beat : (s.wipeBank sl b).beat = s.beat := (wipeBank_engine (onlyEngine_refl s) ..).beat

/-! ### Machine/Golden -/

@[simp] theorem State.putGolden_beat (v : BitVec 32) : (s.putGolden r inst v).beat = s.beat :=
  (putGolden_regs (onlyRegs_refl s) ..).beat
@[simp] theorem State.rescan_beat : (s.rescan r inst).beat = s.beat := (rescan_regs (onlyRegs_refl s) ..).beat
@[simp] theorem State.wrCfg_beat : (s.wrCfg a v).beat = s.beat := (wrCfg_regs (onlyRegs_refl s) ..).beat
@[simp] theorem State.moveRepair_beat : (s.moveRepair s₀ sl).beat = s.beat := by
  unfold State.moveRepair
  exact (moveGolden_regs (onlyRegs_refl s) ..).beat

@[simp] theorem State.commitGolden_beat : (s.commitGolden r inst).beat = s.beat :=
  (commitGolden_regs (onlyRegs_refl s) ..).beat
@[simp] theorem State.instReset_beat : (s.instReset r inst).beat = s.beat :=
  (instReset_regs (onlyRegs_refl s) ..).beat

/-! ### Machine/Operands -/

@[simp] theorem State.claveTime_beat : (s.claveTime sl pair).beat = s.beat :=
  (claveTime_engine (onlyEngine_refl s) ..).beat
@[simp] theorem State.putVec_beat (line : Nat) (ben : ByteEn) (data : Line) (psn : WordEn) :
    (s.putVec sl line ben data psn).beat = s.beat := (putVec_engine (onlyEngine_refl s) ..).beat

/-! ### Machine/Access -/

@[simp] theorem State.monitor_beat (lat : Nat) : (s.monitor sl cls lat).beat = s.beat :=
  (monitor_engine (onlyEngine_refl s) ..).beat
@[simp] theorem State.queueKnell_beat (job reason : Nat) : (s.queueKnell job reason).beat = s.beat :=
  (queueKnell_engine (onlyEngine_refl s) ..).beat
@[simp] theorem State.touchVec_beat (words : List (Nat × Nat)) : (s.touchVec sl c cls words).beat = s.beat :=
  (touchVec_engine (onlyEngine_refl s) ..).beat
@[simp] theorem State.perform_beat (r : Req) : (s.perform sl r).2.2.beat = s.beat :=
  (perform_engine (onlyEngine_refl s) ..).beat

/-! ### Machine/Inbound -/

@[simp] theorem State.setWin_beat (v : Nat) : (s.setWin w v).beat = s.beat :=
  (setWin_engine (onlyEngine_refl s) ..).beat
@[simp] theorem State.dropTags_beat : (s.dropTags w).beat = s.beat := (dropTags_engine (onlyEngine_refl s) ..).beat
@[simp] theorem State.closeWindows_beat (p : Nat → Bool) : (s.closeWindows p).beat = s.beat :=
  (closeWindows_engine (onlyEngine_refl s) ..).beat
@[simp] theorem State.fpFinish_beat : (s.fpFinish id).beat = s.beat := (fpFinish_engine (onlyEngine_refl s) ..).beat

/-! ### Machine/Mesh -/

@[simp] theorem State.meshNow_beat : s.meshNow.beat = s.beat := (meshNow_engine (onlyEngine_refl s)).beat
@[simp] theorem State.meshEvent_beat (stop : Net → Option Nat) : ((s.meshEvent stop).getD s).beat = s.beat :=
  (meshEvent_engine (onlyEngine_refl s) ..).beat

/-! ### Machine/Deliver -/

@[simp] theorem State.portProgress_beat : (s.portProgress c code).beat = s.beat :=
  (portProgress_engine (onlyEngine_refl s) ..).beat
@[simp] theorem State.lateResponse_beat : s.lateResponse.beat = s.beat :=
  (lateResponse_engine (onlyEngine_refl s)).beat
@[simp] theorem State.deliver_beat (r : Resp) : (s.deliver r).beat = s.beat := by
  unfold State.deliver
  split <;> simp
@[simp] theorem State.portAnswer_beat (r : Resp) : (s.portAnswer sl p r).beat = s.beat := by simp [State.portAnswer]
@[simp] theorem State.sendRsp_beat (src dst sent flits burst : Nat) (last : Bool) (r : Resp) :
    (s.sendRsp src dst sent flits burst last r).beat = s.beat := (sendRsp_engine (onlyEngine_refl s) ..).beat
@[simp] theorem State.answer_beat (q : Req) (lines : List LineRsp) (clave : Option Word) (issue : Nat) :
    (s.answer sl q code lines clave issue).beat = s.beat := by
  unfold State.answer
  (repeat' split) <;> simp
@[simp] theorem State.launchOut_beat (flits : Nat) : (s.launchOut sl cls flits).beat = s.beat :=
  (launchOut_engine (onlyEngine_refl s) ..).beat
@[simp] theorem State.sendPkt_beat (src : Nat) (q : Req) : (s.sendPkt src q).beat = s.beat :=
  (sendPkt_engine (onlyEngine_refl s) ..).beat
@[simp] theorem State.sendParts_beat (rs : List Req) : (s.sendParts rs).beat = s.beat :=
  (sendParts_engine (onlyEngine_refl s) ..).beat

/-! ### Machine/Boundary -/

@[simp] theorem State.handleEffect_beat : (s.handleEffect h).beat = s.beat :=
  (handleEffect_regs (onlyRegs_refl s) ..).beat
@[simp] theorem State.effectReady_beat : s.effectReady.beat = s.beat := (effectReady_regs (onlyRegs_refl s)).beat
@[simp] theorem State.boundaryIn_beat : (s.boundaryIn sl c).beat = s.beat :=
  (boundaryIn_engine (onlyEngine_refl s) ..).beat
@[simp] theorem State.kernelBoundary_beat : (s.kernelBoundary c).beat = s.beat := by simp [State.kernelBoundary]

/-! ### Machine/Csr -/

@[simp] theorem State.setPower_beat (t : PowerTarget) (v : Nat) : (s.setPower t v).beat = s.beat :=
  (setPower_engine (onlyEngine_refl s) ..).beat
@[simp] theorem State.beginWake_beat (t : PowerTarget) : (s.beginWake t cause).beat = s.beat :=
  (beginWake_regs (onlyRegs_refl s) ..).beat
@[simp] theorem State.wake_beat (t : PowerTarget) : (s.wake t cause).beat = s.beat :=
  (wake_regs (onlyRegs_refl s) ..).beat
@[simp] theorem State.wakeFor_beat : (s.wakeFor sl cause).beat = s.beat := (wakeFor_regs (onlyRegs_refl s) ..).beat
@[simp] theorem State.wakeAll_beat : (s.wakeAll cause).beat = s.beat := (wakeAll_regs (onlyRegs_refl s) ..).beat
@[simp] theorem State.storeReg_beat (idle : Bool) : (s.storeReg a v idle ctx).beat = s.beat :=
  (storeReg_regs (onlyRegs_refl s) ..).beat
@[simp] theorem State.refuseWrite_beat : (s.refuseWrite a v ctx).beat = s.beat :=
  (refuseWrite_engine (onlyEngine_refl s) ..).beat
@[simp] theorem State.csrAccess_beat (f : State → State) (hf : ∀ t : State, t.SameBeat (f t)) :
    (s.csrAccess a ctx f).beat = s.beat := by
  unfold State.csrAccess
  (repeat' split) <;> simp [(hf _).beat]

/-! ### Machine/Clave -/

@[simp] theorem State.nextPc_beat : (s.nextPc sl j).beat = s.beat := (nextPc_engine (onlyEngine_refl s) ..).beat
@[simp] theorem State.startNow_beat : (s.startNow sl j).beat = s.beat := (startNow_engine (onlyEngine_refl s) ..).beat
@[simp] theorem State.claveStarts_beat : (s.claveStarts sl j pair).beat = s.beat :=
  (claveStarts_engine (onlyEngine_refl s) ..).beat
@[simp] theorem State.waitsTake_beat (room : Bool) (slots : Nat) : (s.waitsTake sl pair room slots).beat = s.beat :=
  (waitsTake_engine (onlyEngine_refl s) ..).beat
@[simp] theorem State.performClave_beat (o : ClaveOp) : (s.performClave sl ctx o).2.2.beat = s.beat :=
  (performClave_engine (onlyEngine_refl s) ..).beat

/-! ### Machine/Handles -/

@[simp] theorem State.beginPeal_beat (mem : Bool) (data : Line) (ben : ByteEn) (tag mirror : Option Nat) :
    (s.beginPeal mem off data ben ctx cls tag mirror).beat = s.beat := (beginPeal_engine (onlyEngine_refl s) ..).beat
@[simp] theorem State.setStage_beat (g : Stage) : (s.setStage ctx g).beat = s.beat :=
  (setStage_regs (onlyRegs_refl s) ..).beat
@[simp] theorem State.asSystem_beat (f : State → State) (hf : ∀ t : State, t.SameBeat (f t)) :
    (s.asSystem ctx f).beat = s.beat := by
  simp [State.asSystem, (hf _).beat]
@[simp] theorem State.storeStage_beat : (s.storeStage h w v ctx).beat = s.beat :=
  (storeStage_regs (onlyRegs_refl s) ..).beat
@[simp] theorem State.feedMirror_beat : s.feedMirror.beat = s.beat := by
  unfold State.feedMirror
  split
  · split
    · rfl
    · exact beginPeal_beat ..
  · rfl

@[simp] theorem State.storeCommit_beat (ws : List Word) : (s.storeCommit h ws ctx).beat = s.beat := by
  simp [State.storeCommit]
@[simp] theorem State.acceptEntry_beat : (s.acceptEntry s₀ h v ctx).beat = s.beat := by simp [State.acceptEntry]
@[simp] theorem State.htabCommit_beat : (s.htabCommit h v ctx).beat = s.beat := by simp [State.htabCommit]
@[simp] theorem State.takeEffect_beat : (s.takeEffect h).beat = s.beat := by
  unfold State.takeEffect
  split <;> simp
@[simp] theorem State.ctxPauses_beat : (s.ctxPauses c).beat = s.beat := (ctxPauses_engine (onlyEngine_refl s) ..).beat
@[simp] theorem State.ctxContinues_beat : (s.ctxContinues c).beat = s.beat :=
  (ctxContinues_engine (onlyEngine_refl s) ..).beat
@[simp] theorem State.storeCtx_beat : (s.storeCtx s₀ c v ctx).beat = s.beat := by simp [State.storeCtx]
@[simp] theorem State.ctxE0_beat : (s.ctxE0 c v ctx).beat = s.beat := by simp [State.ctxE0]
@[simp] theorem State.storeKnext_beat : (s.storeKnext c v).beat = s.beat := by simp [State.storeKnext]
@[simp] theorem State.ctxKnext_beat : (s.ctxKnext c v ctx).beat = s.beat := by simp [State.ctxKnext]

/-! ### Machine/Wipe -/

@[simp] theorem State.wipeNow_beat : (s.wipeNow sl).beat = s.beat := (wipeNow_engine (onlyEngine_refl s) ..).beat

/-! ### Machine/Ports -/

@[simp] theorem State.popPort_beat : (s.popPort sl p).beat = s.beat := by simp [State.popPort]
@[simp] theorem State.consumeSlot_beat : (s.consumeSlot sl bset o c).beat = s.beat :=
  (consumeSlot_engine (onlyEngine_refl s) ..).beat
@[simp] theorem State.refuseAt_beat (r : Req) : (s.refuseAt sl r code c).beat = s.beat := by simp [State.refuseAt]
@[simp] theorem State.portSettle_beat (lim : Nat) : (s.portSettle sl p t0 lim k).beat = s.beat := by
  induction k generalizing s with
  | zero => rfl
  | succ n ih => simp only [State.portSettle]; (repeat' split) <;> simp [ih]

@[simp] theorem State.settlePort_beat : (s.settlePort sl p t0).beat = s.beat := by simp [State.settlePort]
@[simp] theorem State.settlePast_beat : (s.settlePast sl p).beat = s.beat := by simp [State.settlePast]
@[simp] theorem State.settleSlice_beat : (s.settleSlice sl t0).beat = s.beat := by simp [State.settleSlice]
@[simp] theorem State.settleBefore_beat : (s.settleBefore sl).beat = s.beat := by simp [State.settleBefore]
@[simp] theorem State.settleHome_beat : (s.settleHome sl).beat = s.beat := by
  refine beat_foldl _ _ _ fun t r => ?_
  split <;> simp

@[simp] theorem State.settleAll_beat : (s.settleAll sl).beat = s.beat := by simp [State.settleAll]
@[simp] theorem State.fencing_beat (f : State → State) (hf : ∀ t : State, t.SameBeat (f t)) :
    (s.fencing sl f).beat = s.beat := by
  simp [State.fencing, (hf _).beat]
@[simp] theorem State.fencingPort_beat (f : State → State) (hf : ∀ t : State, t.SameBeat (f t)) :
    (s.fencingPort sl p f).beat = s.beat := by simp [State.fencingPort, (hf _).beat]
@[simp] theorem State.accept_beat (d : Nat) (mk : Nat → Req) : (s.accept sl p d b mk).beat = s.beat := by
  simp [State.accept]
@[simp] theorem State.portClave_beat (r : ClaveReq) (kind : Nat) : (s.portClave r kind).beat = s.beat := by
  simp [State.portClave]
@[simp] theorem State.settleFirst_beat : (s.settleFirst sl p).beat = s.beat := by
  unfold State.settleFirst
  split <;> simp
@[simp] theorem State.presentLocal_beat : (s.presentLocal sl p).beat = s.beat := by
  simp only [State.presentLocal]
  split <;> simp
@[simp] theorem State.presentRemote_beat : (s.presentRemote sl p).beat = s.beat := by
  simp only [State.presentRemote]
  split <;> simp
@[simp] theorem State.fenceInRaise_beat : (s.fenceInRaise sl p).beat = s.beat := by simp [State.fenceInRaise]
@[simp] theorem State.fenceInLower_beat : (s.fenceInLower sl p).beat = s.beat := by simp [State.fenceInLower]
@[simp] theorem State.storePfence_beat : (s.storePfence sl v ctx).beat = s.beat := by simp [State.storePfence]
@[simp] theorem State.rhyPfence_beat : (s.rhyPfence sl v ctx).beat = s.beat := by simp [State.rhyPfence]
@[simp] theorem State.idPulse_beat (e : Nat) : (s.idPulse sl p e).beat = s.beat := by simp [State.idPulse]
@[simp] theorem State.callPort_beat : (s.callPort sl p).beat = s.beat := by simp -implicitDefEqProofs [State.callPort]
@[simp] theorem State.callSlice_beat : (s.callSlice sl).beat = s.beat := by simp [State.callSlice]
@[simp] theorem State.storeRc_beat : (s.storeRc sl v).beat = s.beat := by simp [State.storeRc]
@[simp] theorem State.portRc_beat : (s.portRc sl v ctx).beat = s.beat := by simp [State.portRc]
@[simp] theorem State.callEnds_beat (res : Nat) (valid : Bool) : (s.callEnds sl p res valid).beat = s.beat := by
  simp -implicitDefEqProofs [State.callEnds]
@[simp] theorem State.idFrame_beat (id : BitVec 128) (check : BitVec 16) :
    (s.idFrame sl p id check).beat = s.beat := by
  simp -implicitDefEqProofs [State.idFrame]
@[simp] theorem State.idAbsent_beat : (s.idAbsent sl p).beat = s.beat := by simp [State.idAbsent]
@[simp] theorem State.idRetry_beat : (s.idRetry sl p).beat = s.beat := by
  unfold State.idRetry
  split <;> simp

/-! ### Machine/Maint -/

@[simp] theorem State.markBad_beat : (s.markBad sl b l).beat = s.beat := (markBad_engine (onlyEngine_refl s) ..).beat
@[simp] theorem State.badLine_beat : (s.badLine sl b l).beat = s.beat := by simp [State.badLine]
@[simp] theorem State.queueRetire_beat (lines : List Nat) : (s.queueRetire sl b row lines).beat = s.beat := by
  simp -implicitDefEqProofs [State.queueRetire]
@[simp] theorem State.drainWb_beat : (s.drainWb sl b).beat = s.beat := (drainWb_engine (onlyEngine_refl s) ..).beat
@[simp] theorem State.moveRow_beat (mac : Nat) : (s.moveRow sl b mac row n).beat = s.beat :=
  (moveRow_engine (onlyEngine_refl s) ..).beat
@[simp] theorem State.fenceRetire_beat : (s.fenceRetire sl b).beat = s.beat := by simp [State.fenceRetire]
@[simp] theorem State.retireRow_beat (mac : Nat) : (s.retireRow sl b mac row).beat = s.beat := by
  unfold State.retireRow
  extract_lets t t'
  have ht : t'.beat = s.beat := by simp -implicitDefEqProofs [t', t]
  clear_value t'
  split <;> simp -implicitDefEqProofs +zetaDelta [ht]

@[simp] theorem State.retireAll_beat (l : List (Nat × Nat × Nat)) : (s.retireAll sl l).beat = s.beat := by
  simp [State.retireAll]
@[simp] theorem State.rowRetire_beat : (s.rowRetire sl b).beat = s.beat := by
  unfold State.rowRetire
  split <;> simp
@[simp] theorem State.storeRetire_beat : (s.storeRetire sl v ctx).beat = s.beat := by simp [State.storeRetire]
@[simp] theorem State.eccRetire_beat : (s.eccRetire sl v ctx).beat = s.beat := by simp [State.eccRetire]
@[simp] theorem State.historyNote_beat : (s.historyNote sl b row).beat = s.beat := by simp [State.historyNote]
@[simp] theorem State.testRead_beat : (s.testRead sl b row).beat = s.beat :=
  (testRead_engine (onlyEngine_refl s) ..).beat
@[simp] theorem State.passLasting_beat (lasting : Bool) : (s.passLasting sl b row lasting).beat = s.beat :=
  (passLasting_engine (onlyEngine_refl s) ..).beat
@[simp] theorem State.testFlip_beat (t : RowTest) : (s.testFlip sl b t).beat = s.beat :=
  (testFlip_engine (onlyEngine_refl s) ..).beat
@[simp] theorem State.testClass_beat (t : RowTest) (seen : List Nat) : (s.testClass sl b t seen).beat = s.beat := by
  simp only [State.testClass]
  split <;> simp
@[simp] theorem State.testWrite_beat (t : RowTest) : (s.testWrite sl b t).beat = s.beat :=
  (testWrite_engine (onlyEngine_refl s) ..).beat
@[simp] theorem State.testStep_beat (fails : List Nat) : (s.testStep sl b fails).beat = s.beat := by
  simp only [State.testStep]
  split
  · split <;> simp
  · simp

@[simp] theorem State.voteRow_beat : (s.voteRow sl b row).beat = s.beat :=
  (voteRow_engine (onlyEngine_refl s) ..).beat
@[simp] theorem State.primary_beat : (s.primary sl b).2.beat = s.beat := (primary_engine (onlyEngine_refl s) ..).beat
@[simp] theorem State.secondary_beat (mac : Option Nat) (fails : List Nat) :
    (s.secondary sl b mac fails).beat = s.beat := by
  unfold State.secondary
  extract_lets k free test wb
  split
  · simp
  · split
    · simp
    · split <;> simp

@[simp] theorem State.maintBank_beat (fails : List Nat) : (s.maintBank sl b fails).beat = s.beat := by
  simp [State.maintBank]
@[simp] theorem State.maintenance_beat (t3fail : List (Nat × Nat)) :
    (s.maintenance sl bset t3fail).beat = s.beat := by
  simp [State.maintenance]

/-! ### Machine/Ownership -/

@[simp] theorem State.startHandover_beat (mask : BitVec 64) (owner : Nat) (keep : Bool) (kill : Option Nat) :
    (s.startHandover sl mask owner keep kill).beat = s.beat := by simp -implicitDefEqProofs [State.startHandover]
@[simp] theorem State.storeXfer_beat : (s.storeXfer s₀ sl v ctx).beat = s.beat := by
  simp -implicitDefEqProofs [State.storeXfer]
@[simp] theorem State.storeXferMask_beat : (s.storeXferMask s₀ sl v ctx).beat = s.beat :=
  (storeXferMask_regs (onlyRegs_refl s) ..).beat
@[simp] theorem State.drainHandover_beat (h : Handover) : (s.drainHandover sl h).beat = s.beat := by
  simp [State.drainHandover]
@[simp] theorem State.handoverDrainEnd_beat : (s.handoverDrainEnd sl).beat = s.beat := by
  unfold State.handoverDrainEnd
  split <;> simp
@[simp] theorem State.giveBank_beat : (s.giveBank sl b c).beat = s.beat := (giveBank_regs (onlyRegs_refl s) ..).beat
@[simp] theorem State.killHandover_beat : (s.killHandover sl c).beat = s.beat := by simp [State.killHandover]
@[simp] theorem State.nextKillHandover_beat : (s.nextKillHandover sl k).beat = s.beat := by
  induction k generalizing s with
  | zero => rfl
  | succ n ih => simp only [State.nextKillHandover]; split <;> simp [ih]

@[simp] theorem State.endHandover_beat (h : Handover) : (s.endHandover sl h result).beat = s.beat := by
  simp -implicitDefEqProofs [State.endHandover]
@[simp] theorem State.handoverComplete_beat : (s.handoverComplete sl).beat = s.beat := by
  unfold State.handoverComplete
  split <;> simp

/-! ### Machine/Stream -/

@[simp] theorem State.endXfers_beat (p : Xfer → Bool) : (s.endXfers p).beat = s.beat :=
  (endXfers_engine (onlyEngine_refl s) ..).beat
@[simp] theorem State.enterFault_beat (h : HaltAt) : (s.enterFault sl j h).beat = s.beat :=
  (enterFault_engine (onlyEngine_refl s) ..).beat

/-! ### Machine/Claim -/

@[simp] theorem State.losers_beat (won : Nat) (x : Others) : (s.losers sl bset won x).beat = s.beat :=
  (losers_engine (onlyEngine_refl s) ..).beat
@[simp] theorem State.countSlot_beat : (s.countSlot sl o k).beat = s.beat :=
  (countSlot_engine (onlyEngine_refl s) ..).beat
@[simp] theorem State.takeLane_beat : (s.takeLane sl bset).beat = s.beat :=
  (takeLane_engine (onlyEngine_refl s) ..).beat

/-! ### Machine/Log -/

@[simp] theorem State.queueLog_beat (r : LogRec) : (s.queueLog r).beat = s.beat := by simp [State.queueLog]
@[simp] theorem State.logEvent_beat (type : Nat) (detail : Word) : (s.logEvent type detail).beat = s.beat := by
  simp [State.logEvent]

/-! ### Machine/Pump -/

@[simp] theorem State.pumpSlice_beat : (s.pumpSlice sl).beat = s.beat :=
  (pumpSlice_engine (onlyEngine_refl s) ..).beat

/-! ### Machine/Rudiment -/

@[simp] theorem State.askRecords_beat : (s.askRecords sl).beat = s.beat :=
  (askRecords_engine (onlyEngine_refl s) ..).beat
@[simp] theorem State.decode_beat (f : State → Word → State) (hf : ∀ (t : State) w, t.SameBeat (f t w)) :
    (s.decode sl j op f).beat = s.beat := by
  unfold State.decode
  extract_lets u
  have hu : u.beat = s.beat := by simp [u]
  clear_value u
  split <;> simp +zetaDelta [hu, (hf _ _).beat]

@[simp] theorem State.pushInst_beat (i : Inst) : (s.pushInst sl j i).beat = s.beat :=
  (pushInst_engine (onlyEngine_refl s) ..).beat
@[simp] theorem State.dropHead_beat : (s.dropHead sl j).beat = s.beat := (dropHead_engine (onlyEngine_refl s) ..).beat
@[simp] theorem State.follow_beat (f : State → Inst → State) (hf : ∀ (t : State) i, t.SameBeat (f t i)) :
    (s.follow sl j op f).beat = s.beat := by
  unfold State.follow
  split <;> simp [(hf _ _).beat]
@[simp] theorem State.leadFollow_beat (hold : Bool) (f : State → Inst → State)
    (hf : ∀ (t : State) i, t.SameBeat (f t i)) :
    (s.leadFollow sl j op hold f).beat = s.beat := by simp [State.leadFollow, (hf _ _).beat]
@[simp] theorem State.markExec_beat (i : Inst) : (s.markExec sl j i).beat = s.beat := by simp [State.markExec]
@[simp] theorem State.knextExec_beat : (s.knextExec sl j).beat = s.beat := by simp [State.knextExec]
@[simp] theorem State.armSlot_beat : (s.armSlot sl j).beat = s.beat := (armSlot_engine (onlyEngine_refl s) ..).beat
@[simp] theorem State.fromNext_beat (f : State → State) (hf : ∀ t : State, t.SameBeat (f t)) :
    (s.fromNext f).beat = s.beat := by
  simp [State.fromNext, (hf _).beat]
@[simp] theorem State.orderFetches_beat : (s.orderFetches sl).beat = s.beat :=
  (orderFetches_engine (onlyEngine_refl s) ..).beat
@[simp] theorem State.slotStart_beat : (s.slotStart sl j).beat = s.beat := by simp [State.slotStart]
@[simp] theorem State.stopSlot_beat : (s.stopSlot sl j).beat = s.beat := (stopSlot_engine (onlyEngine_refl s) ..).beat
@[simp] theorem State.stopEnds_beat : (s.stopEnds sl j).beat = s.beat := (stopEnds_engine (onlyEngine_refl s) ..).beat
@[simp] theorem State.resumeSlot_beat : (s.resumeSlot sl j).beat = s.beat :=
  (resumeSlot_engine (onlyEngine_refl s) ..).beat
@[simp] theorem State.storeCtl_beat : (s.storeCtl s₀ sl j v ctx).beat = s.beat := by simp [State.storeCtl]
@[simp] theorem State.ctlUnlessReset_beat : (s.ctlUnlessReset s₀ sl j v ctx).beat = s.beat := by
  simp [State.ctlUnlessReset]
@[simp] theorem State.ctlWrite_beat : (s.ctlWrite sl j v ctx).beat = s.beat := by simp [State.ctlWrite]

/-! ### Machine/StrikeStep -/

@[simp] theorem State.storeSeed_beat : (s.storeSeed sl b v).beat = s.beat :=
  (storeSeed_engine (onlyEngine_refl s) ..).beat

/-! ### Machine/Scrub -/

@[simp] theorem State.pumpEngine_beat : (s.pumpEngine sl).beat = s.beat :=
  (pumpEngine_engine (onlyEngine_refl s) ..).beat
@[simp] theorem State.runPass_beat : (s.runPass sl).beat = s.beat := (runPass_engine (onlyEngine_refl s) ..).beat
@[simp] theorem State.passBad_beat : (s.passBad sl).beat = s.beat := (passBad_engine (onlyEngine_refl s) ..).beat
@[simp] theorem State.storeScrub_beat : (s.storeScrub s₀ sl v ctx).beat = s.beat :=
  (storeScrub_regs (onlyRegs_refl s) ..).beat
@[simp] theorem State.runPatrol_beat : (s.runPatrol sl).beat = s.beat :=
  (runPatrol_engine (onlyEngine_refl s) ..).beat

/-! ### Machine/Strokes -/

@[simp] theorem State.strokePerform_beat (a : Arrived) : (s.strokePerform r a).beat = s.beat :=
  (strokePerform_engine (onlyEngine_refl s) ..).beat
@[simp] theorem State.settleStrokes_beat : (s.settleStrokes r).beat = s.beat :=
  (settleStrokes_engine (onlyEngine_refl s) ..).beat
@[simp] theorem State.landVec_beat (a : Arrived) : (s.landVec r a).beat = s.beat :=
  (landVec_engine (onlyEngine_refl s) ..).beat
@[simp] theorem State.landVecs_beat : (s.landVecs r).beat = s.beat := (landVecs_engine (onlyEngine_refl s) ..).beat

/-! ### Machine/Issue -/

@[simp] theorem State.answerFault_beat (a : SeAcc) : (s.answerFault sl j a c).beat = s.beat :=
  (answerFault_engine (onlyEngine_refl s) ..).beat
@[simp] theorem State.markIssued_beat : (s.markIssued sl j id).beat = s.beat :=
  (markIssued_engine (onlyEngine_refl s) ..).beat
@[simp] theorem State.accAdvance_beat (a : SeAcc) : (s.accAdvance sl a).beat = s.beat :=
  (accAdvance_engine (onlyEngine_refl s) ..).beat
@[simp] theorem State.cutAcc_beat (a : SeAcc) : (s.cutAcc sl j a).beat = s.beat :=
  (cutAcc_engine (onlyEngine_refl s) ..).beat
@[simp] theorem State.issueAcc_beat (a : SeAcc) : (s.issueAcc sl j a).beat = s.beat := by
  unfold State.issueAcc
  split <;> simp
@[simp] theorem State.issueCand_beat (c : Cand) : (s.issueCand sl c).beat = s.beat := by
  unfold State.issueCand
  (repeat' split) <;> simp
@[simp] theorem State.settleReady_beat : (s.settleReady sl).beat = s.beat := by simp [State.settleReady]
@[simp] theorem State.issueLane_beat : (s.issueLane sl bset).beat = s.beat := by
  unfold State.issueLane
  extract_lets u x pass
  have hu : u.beat = s.beat := by simp [u]
  clear_value u
  (repeat' split) <;> simp [hu]

@[simp] theorem State.freeSent_beat (a : SeAcc) : (s.freeSent sl j a).beat = s.beat :=
  (freeSent_engine (onlyEngine_refl s) ..).beat
@[simp] theorem State.issueRemote_beat (point : Nat) (a : SeAcc) : (s.issueRemote sl j point a).beat = s.beat :=
  (issueRemote_engine (onlyEngine_refl s) ..).beat
@[simp] theorem State.issueLead_beat : (s.issueLead sl j).beat = s.beat :=
  (issueLead_engine (onlyEngine_refl s) ..).beat
@[simp] theorem State.issueFollow_beat : (s.issueFollow sl j).beat = s.beat :=
  (issueFollow_engine (onlyEngine_refl s) ..).beat
@[simp] theorem State.issuePort_beat : (s.issuePort sl p).beat = s.beat := by
  simp only [State.issuePort]
  split <;> simp
@[simp] theorem State.issueVecRead_beat : (s.issueVecRead sl j).beat = s.beat := by
  unfold State.issueVecRead
  extract_lets u
  have hu : u.beat = s.beat := by simp [u]
  clear_value u
  (repeat' split) <;> simp +zetaDelta [hu]

@[simp] theorem State.vecUpdates_beat (i : Inst) (a : SeAcc) : (s.vecUpdates sl j i a).beat = s.beat :=
  (vecUpdates_engine (onlyEngine_refl s) ..).beat
@[simp] theorem State.issueVecWrite_beat : (s.issueVecWrite sl j).beat = s.beat := by
  unfold State.issueVecWrite
  extract_lets u
  have hu : u.beat = s.beat := by simp [u]
  clear_value u
  split
  · exact hu
  · extract_lets acc t c c' c'' t' w
    have hw : w.beat = s.beat := by simp [w, t', t, hu]
    clear_value w acc
    split
    · exact hu
    · split
      · simp [hw]
      · cases acc <;> simp +zetaDelta [hw]

@[simp] theorem State.issueHost_beat (write : Bool) : (s.issueHost sl j write).beat = s.beat := by
  unfold State.issueHost
  extract_lets u
  have hu : u.beat = s.beat := by simp [u]
  clear_value u
  (repeat' split) <;> simp +zetaDelta [hu]

@[simp] theorem State.issueAt_beat (k : IssuePoint) : (s.issueAt sl k).beat = s.beat := by
  unfold State.issueAt
  split <;> simp
@[simp] theorem State.guardRetry_beat : (s.guardRetry sl j).beat = s.beat := by
  unfold State.guardRetry
  extract_lets u p
  have hu : u.beat = s.beat := by simp [u]
  clear_value u
  split
  · exact hu
  · extract_lets bset x
    (repeat' split) <;> simp [hu]

@[simp] theorem State.requestArrives_beat : (s.requestArrives k).beat = s.beat := by
  unfold State.requestArrives
  split
  · rfl
  · split
    · rfl
    · extract_lets sl t held t' net u req q
      have hu : u.beat = s.beat := by simp [u, t', t]
      have ht : t'.beat = s.beat := hu
      clear_value u t'
      (repeat' split) <;> simp [ht, hu]

@[simp] theorem State.responseArrives_beat : (s.responseArrives k).beat = s.beat := by
  unfold State.responseArrives
  split
  · rfl
  · extract_lets o
    split
    · rfl
    · next h => (repeat' split) <;> simp +zetaDelta [meshEvent_some_beat h]

@[simp] theorem State.storeShare_beat : (s.storeShare s₀ c v ctx).beat = s.beat := by simp [State.storeShare]
@[simp] theorem State.shareWrite_beat : (s.shareWrite c v ctx).beat = s.beat := by simp [State.shareWrite]

/-! ### Machine/Carillon -/

@[simp] theorem State.strokeWrite_beat (a : Arrived) : (s.strokeWrite r a k).beat = s.beat := by
  induction k generalizing s with
  | zero => rfl
  | succ n ih => simp only [State.strokeWrite]; (repeat' split) <;> simp [ih]

@[simp] theorem State.strokeLand_beat (g : Nat) : (s.strokeLand g r).beat = s.beat := by
  unfold State.strokeLand
  split
  · rfl
  · next h => simp [strokeComes_beat h]

/-! ### Machine/Fabric -/

@[simp] theorem State.absorb_beat : s.absorb.beat = s.beat := (absorb_engine (onlyEngine_refl s)).beat
@[simp] theorem State.absorbRsp_beat : s.absorbRsp.beat = s.beat := (absorbRsp_engine (onlyEngine_refl s)).beat
@[simp] theorem State.outAnswer_beat (o : FpOut) : (s.outAnswer o code).beat = s.beat :=
  (outAnswer_engine (onlyEngine_refl s) ..).beat
@[simp] theorem State.fpTake_beat (f : State → State) (hf : ∀ t : State, t.SameBeat (f t)) :
    (s.fpTake f).beat = s.beat := by
  simp [State.fpTake, (hf _).beat]
@[simp] theorem State.fpRequest_beat (p : Packet) : (s.fpRequest p).beat = s.beat :=
  (fpRequest_engine (onlyEngine_refl s) ..).beat
@[simp] theorem State.storeWinCtl_beat : (s.storeWinCtl s₀ w v ctx).beat = s.beat := by simp [State.storeWinCtl]
@[simp] theorem State.storeWin_beat : (s.storeWin s₀ w a v ctx).beat = s.beat :=
  (storeWin_regs (onlyRegs_refl s) ..).beat
@[simp] theorem State.storeChipId_beat : (s.storeChipId s₀ v ctx).beat = s.beat :=
  (storeChipId_regs (onlyRegs_refl s) ..).beat
@[simp] theorem State.storeKnell_beat : (s.storeKnell v ctx).beat = s.beat := by simp [State.storeKnell]
@[simp] theorem State.receiveKnell_beat (p : Packet) : (s.receiveKnell p).beat = s.beat :=
  (receiveKnell_engine (onlyEngine_refl s) ..).beat
@[simp] theorem State.releaseKnells_beat : s.releaseKnells.beat = s.beat := by simp [State.releaseKnells]
@[simp] theorem State.knellIn_beat (p : Packet) : (s.knellIn p).beat = s.beat := by simp [State.knellIn]

/-! ### Machine/Report -/

@[simp] theorem State.storePair_beat : (s.storePair sl n v ctx).beat = s.beat := by simp [State.storePair]
@[simp] theorem State.semTake_beat : (s.semTake sl v).beat = s.beat := (semTake_engine (onlyEngine_refl s) ..).beat
@[simp] theorem State.storeErrRd_beat : (s.storeErrRd v ctx).beat = s.beat :=
  (storeErrRd_regs (onlyRegs_refl s) ..).beat
@[simp] theorem State.storeErrStat_beat : (s.storeErrStat v ctx).beat = s.beat :=
  (storeErrStat_regs (onlyRegs_refl s) ..).beat
@[simp] theorem State.storeErrCfg_beat : (s.storeErrCfg v ctx).beat = s.beat :=
  (storeErrCfg_regs (onlyRegs_refl s) ..).beat

/-! ### Machine/Rhythm -/

@[simp] theorem State.toBar_beat (since : Nat) : (s.toBar since).beat = s.beat :=
  (toBar_engine (onlyEngine_refl s) ..).beat
@[simp] theorem State.barBoundary_beat : s.barBoundary.beat = s.beat := by
  unfold State.barBoundary
  split <;> simp
@[simp] theorem State.storePhase_beat (tabB : Bool) (phase : Nat) :
    (s.storePhase s₀ sl tabB phase v ctx).beat = s.beat :=
  (storePhase_engine (onlyEngine_refl s) ..).beat
@[simp] theorem State.storeRhyCtrl_beat : (s.storeRhyCtrl sl v ctx).beat = s.beat :=
  (storeRhyCtrl_regs (onlyRegs_refl s) ..).beat
@[simp] theorem State.makeActive_beat (since : Nat) : (s.makeActive sl since).beat = s.beat := by
  simp -implicitDefEqProofs [State.makeActive]
@[simp] theorem State.tableSwitch_beat : (s.tableSwitch sl).beat = s.beat := by simp [State.tableSwitch]
@[simp] theorem State.beatSwitch_beat : (s.beatSwitch sl).beat = s.beat := by simp [State.beatSwitch]

/-! ### Machine/Flags -/

@[simp] theorem State.noteVote_beat : (s.noteVote k).beat = s.beat := (noteVote_regs (onlyRegs_refl s) ..).beat
@[simp] theorem State.voteWrite_beat : (s.voteWrite k).beat = s.beat := (voteWrite_regs (onlyRegs_refl s) ..).beat
@[simp] theorem State.tuncfgWrite_beat : (s.tuncfgWrite a).beat = s.beat :=
  (tuncfgWrite_regs (onlyRegs_refl s) ..).beat

/-! ### Machine/Dump -/

@[simp] theorem State.logRecord_beat : s.logRecord.beat = s.beat := by
  unfold State.logRecord
  split <;> simp
@[simp] theorem State.writeDump_beat (reason : Nat) (keep : Bool) : (s.writeDump reason keep).beat = s.beat := by
  unfold State.writeDump
  (repeat' split) <;> simp
@[simp] theorem State.clearStore_beat : s.clearStore.beat = s.beat := by simp [State.clearStore]
@[simp] theorem State.putResult_beat (bs : List Byte) : (s.putResult bs).beat = s.beat :=
  (putResult_engine (onlyEngine_refl s) ..).beat
@[simp] theorem State.publish_beat (status : Nat) (bs : List Byte) : (s.publish status bs).beat = s.beat := by
  simp [State.publish]
@[simp] theorem State.haltBelfry_beat : s.haltBelfry.beat = s.beat := by simp [State.haltBelfry]

/-! ### Machine/Flash -/

@[simp] theorem State.eraseFlash_beat : (s.eraseFlash lo hi).beat = s.beat := by simp [State.eraseFlash]
@[simp] theorem State.programFlash_beat (bs : List Byte) : (s.programFlash a bs).beat = s.beat := by
  simp [State.programFlash]
@[simp] theorem State.spoilFlash_beat : (s.spoilFlash lo hi).beat = s.beat := by simp [State.spoilFlash]

/-! ### Machine/Tuner -/

@[simp] theorem State.reachRef_beat (t : Nat) : (s.reachRef t).beat = s.beat :=
  (reachRef_engine (onlyEngine_refl s) ..).beat
@[simp] theorem State.reportRegion_beat : (s.reportRegion r).beat = s.beat :=
  (reportRegion_engine (onlyEngine_refl s) ..).beat
@[simp] theorem State.setInst_beat (v : Nat) : (s.setInst r inst v).beat = s.beat := by simp [State.setInst]
@[simp] theorem State.tunerRec_beat : (s.tunerRec code r inst).beat = s.beat :=
  (tunerRec_engine (onlyEngine_refl s) ..).beat
@[simp] theorem State.mismatchWake_beat : s.mismatchWake.beat = s.beat := (mismatchWake_regs (onlyRegs_refl s)).beat
@[simp] theorem State.mismatch_beat : (s.mismatch r inst).beat = s.beat := by simp [State.mismatch]
@[simp] theorem State.restored_beat : (s.restored r inst).beat = s.beat := by simp [State.restored]
@[simp] theorem State.compare_beat : (s.compare r inst).beat = s.beat := by simp [State.compare]
@[simp] theorem State.scanNow_beat : (s.scanNow r inst).beat = s.beat := by simp [State.scanNow]
@[simp] theorem State.beginScans_beat : s.beginScans.beat = s.beat := (beginScans_regs (onlyRegs_refl s)).beat
@[simp] theorem State.endScans_beat : s.endScans.beat = s.beat := (endScans_regs (onlyRegs_refl s)).beat
@[simp] theorem State.passStart_beat : s.passStart.beat = s.beat := by simp [State.passStart]
@[simp] theorem State.leavePass_beat : (s.leavePass r inst).beat = s.beat :=
  (leavePass_regs (onlyRegs_refl s) ..).beat
@[simp] theorem State.scanEnd_beat : (s.scanEnd r inst).beat = s.beat := by simp [State.scanEnd]
@[simp] theorem State.reloadMirror_beat : (s.reloadMirror sl).beat = s.beat :=
  (reloadMirror_regs (onlyRegs_refl s) ..).beat
@[simp] theorem State.reloadDone_beat : (s.reloadDone r inst).beat = s.beat := by simp [State.reloadDone]
@[simp] theorem State.rebase_beat : (s.rebase r inst).beat = s.beat := by simp [State.rebase]
@[simp] theorem State.storeRegion_beat : (s.storeRegion r v ctx).beat = s.beat := by simp [State.storeRegion]
@[simp] theorem State.storeTunerCtl_beat : (s.storeTunerCtl v ctx).beat = s.beat :=
  (storeTunerCtl_regs (onlyRegs_refl s) ..).beat
@[simp] theorem State.chexpGo_beat : (s.chexpGo v ctx).beat = s.beat := (chexpGo_regs (onlyRegs_refl s) ..).beat
@[simp] theorem State.rewriteTuncfg_beat : s.rewriteTuncfg.beat = s.beat :=
  (rewriteTuncfg_regs (onlyRegs_refl s)).beat
@[simp] theorem State.judge_beat : s.judge.beat = s.beat := by simp [State.judge]
@[simp] theorem State.challengeLate_beat : s.challengeLate.beat = s.beat := by simp [State.challengeLate]

/-! ### Machine/Restore -/

@[simp] theorem State.addRepair_beat (w : Word) : (s.addRepair w).beat = s.beat :=
  (addRepair_engine (onlyEngine_refl s) ..).beat
@[simp] theorem State.fuseRepairs_beat : (s.fuseRepairs sl).beat = s.beat :=
  (fuseRepairs_engine (onlyEngine_refl s) ..).beat
@[simp] theorem State.loadRepairs_beat : (s.loadRepairs sl).beat = s.beat :=
  (loadRepairs_engine (onlyEngine_refl s) ..).beat
@[simp] theorem State.clearWindow_beat (keep : Nat → Bool) : (s.clearWindow sl keep).beat = s.beat :=
  (clearWindow_regs (onlyRegs_refl s) ..).beat
@[simp] theorem State.resetSlots_beat : (s.resetSlots sl).beat = s.beat := by
  simp -implicitDefEqProofs [State.resetSlots]
@[simp] theorem State.wipeSlice_beat : (s.wipeSlice sl).beat = s.beat :=
  (wipeSlice_engine (onlyEngine_refl s) ..).beat
@[simp] theorem State.ownAll_beat : (s.ownAll sl).beat = s.beat := (ownAll_regs (onlyRegs_refl s) ..).beat
@[simp] theorem State.loadRhythm_beat : (s.loadRhythm sl).beat = s.beat :=
  (loadRhythm_engine (onlyEngine_refl s) ..).beat
@[simp] theorem State.restoreSlice_beat : (s.restoreSlice sl).beat = s.beat := by simp [State.restoreSlice]

/-! ### Machine/Power -/

@[simp] theorem State.beginEntry_beat (t : PowerTarget) (enters : Nat) : (s.beginEntry t enters).beat = s.beat :=
  (beginEntry_regs (onlyRegs_refl s) ..).beat
@[simp] theorem State.storePwrReq_beat : (s.storePwrReq i v).beat = s.beat :=
  (storePwrReq_regs (onlyRegs_refl s) ..).beat
@[simp] theorem State.storeCplx_beat (v : Nat) : (s.storeCplx v p).beat = s.beat :=
  (storeCplx_regs (onlyRegs_refl s) ..).beat
@[simp] theorem State.unfenceOff_beat (t : PowerTarget) : (s.unfenceOff t).beat = s.beat := by simp [State.unfenceOff]
@[simp] theorem State.raiseOff_beat (t : PowerTarget) : (s.raiseOff t).beat = s.beat := by simp [State.raiseOff]
@[simp] theorem State.endEntry_beat (e : PwrEntry) (point : Nat) : (s.endEntry e code point cause).beat = s.beat := by
  simp [State.endEntry]
@[simp] theorem State.refuseEntry2_beat (e : PwrEntry) : (s.refuseEntry2 e c).beat = s.beat := by
  simp [State.refuseEntry2]
@[simp] theorem State.passPoint_beat (e : PwrEntry) : (s.passPoint e k).beat = s.beat := by
  unfold State.passPoint
  split <;> simp
@[simp] theorem State.burst_beat : s.burst.beat = s.beat := (burst_engine (onlyEngine_refl s)).beat
@[simp] theorem State.drainTarget_beat (e : PwrEntry) : (s.drainTarget e).beat = s.beat :=
  (drainTarget_engine (onlyEngine_refl s) ..).beat
@[simp] theorem State.entryBurst_beat (e : PwrEntry) : (s.entryBurst e).beat = s.beat := by simp [State.entryBurst]
@[simp] theorem State.commitEntry_beat (e : PwrEntry) : (s.commitEntry e).beat = s.beat := by
  unfold State.commitEntry
  extract_lets power t t' pins power' u u'
  have hu : u.beat = s.beat := by simp [u, t', t]
  have hu' : u'.beat = s.beat := by simp [u', hu]
  clear_value u'
  (repeat' split) <;> simp [hu']

@[simp] theorem State.entryDone_beat (t : PowerTarget) : (s.entryDone t).beat = s.beat := by
  unfold State.entryDone
  (repeat' split) <;> simp
@[simp] theorem State.putWake_beat (t : PowerTarget) (f : PwrWake → Option PwrWake) : (s.putWake t f).beat = s.beat :=
  (putWake_regs (onlyRegs_refl s) ..).beat
@[simp] theorem State.nextWakeStep_beat (w : PwrWake) : (s.nextWakeStep w).beat = s.beat :=
  (nextWakeStep_regs (onlyRegs_refl s) ..).beat
@[simp] theorem State.flashAgain_beat : s.flashAgain.beat = s.beat := by simp [State.flashAgain]
@[simp] theorem State.awake_beat (w : PwrWake) : (s.awake w).beat = s.beat := by
  unfold State.awake
  split <;> simp
@[simp] theorem State.wakeReady_beat (t : PowerTarget) : (s.wakeReady t).beat = s.beat := by
  unfold State.wakeReady
  (repeat' split) <;> simp
@[simp] theorem State.wakeTimeout_beat (t : PowerTarget) : (s.wakeTimeout t).beat = s.beat := by
  unfold State.wakeTimeout
  split
  · rfl
  · extract_lets t' n x x' u u' power w again
    have hu : u.beat = s.beat := by simp [u, t']
    have hw : w.beat = s.beat := by simp [w, u', hu]
    simp [hw]

@[simp] theorem State.restoreOff_beat : (s.restoreOff sl).beat = s.beat := by simp [State.restoreOff]
@[simp] theorem State.restoreDone_beat : (s.restoreDone sl).beat = s.beat := by
  unfold State.restoreDone
  split <;> simp
@[simp] theorem State.tapRequest_beat : s.tapRequest.beat = s.beat := by simp [State.tapRequest]
@[simp] theorem State.tapWake_beat : s.tapWake.beat = s.beat := by simp [State.tapWake]
@[simp] theorem State.tapSleep_beat : s.tapSleep.beat = s.beat := by simp [State.tapSleep]
@[simp] theorem State.storeVreq_beat : (s.storeVreq v ctx).beat = s.beat := (storeVreq_regs (onlyRegs_refl s) ..).beat
@[simp] theorem State.endVreq_beat : (s.endVreq r).beat = s.beat := by simp [State.endVreq]
@[simp] theorem State.avsAck_beat (ack : Nat) : (s.avsAck ack).beat = s.beat := by simp [State.avsAck]
@[simp] theorem State.avsRetry_beat : s.avsRetry.beat = s.beat := by
  unfold State.avsRetry
  split <;> simp
@[simp] theorem State.avsPoll_beat (mv : Nat) : (s.avsPoll mv).beat = s.beat := by
  unfold State.avsPoll
  split <;> simp
@[simp] theorem State.avsTimeout_beat : s.avsTimeout.beat = s.beat := by simp [State.avsTimeout]
@[simp] theorem State.logSensor_beat : (s.logSensor sl a).beat = s.beat := by simp [State.logSensor]
@[simp] theorem State.decideHot_beat (temp : Int) : (s.decideHot sl temp).beat = s.beat :=
  (decideHot_engine (onlyEngine_refl s) ..).beat
@[simp] theorem State.sensorWindow_beat (temp : BitVec 10) : (s.sensorWindow sl temp).beat = s.beat := by
  simp -implicitDefEqProofs [State.sensorWindow]
@[simp] theorem State.droop_beat : (s.droop sl).beat = s.beat := by simp -implicitDefEqProofs [State.droop]

/-! ### Machine/Boot -/

@[simp] theorem State.stageReport_beat (detail : Nat) (map : Word) :
    (s.stageReport k result detail map).beat = s.beat := by
  simp [State.stageReport]
@[simp] theorem State.nextStage_beat : (s.nextStage n).beat = s.beat := (nextStage_engine (onlyEngine_refl s) ..).beat
@[simp] theorem State.endStage_beat (detail : Nat) (map : Word) : (s.endStage k result detail map).beat = s.beat := by
  simp [State.endStage]
@[simp] theorem State.failStage_beat (detail : Nat) (map : Word) : (s.failStage k detail map).beat = s.beat := by
  simp [State.failStage]
@[simp] theorem State.release_beat : s.release.beat = s.beat := by simp [State.release]
@[simp] theorem State.porRelease_beat : s.porRelease.beat = s.beat := by simp [State.porRelease]
@[simp] theorem State.bootBelfry_beat : s.bootBelfry.beat = s.beat := by simp [State.bootBelfry]
@[simp] theorem State.belfryConfig_beat : s.belfryConfig.beat = s.beat := (belfryConfig_regs (onlyRegs_refl s)).beat
@[simp] theorem State.rebootBelfry_beat : s.rebootBelfry.beat = s.beat := by
  unfold State.rebootBelfry
  extract_lets t t' t'' tuner u
  have ht : t'.beat = s.beat := by simp [t', t]
  have hu : u.beat = s.beat := by simp [u, t'', ht]
  clear_value u
  (repeat' split) <;> simp [hu]

@[simp] theorem State.imageBoot_beat : s.imageBoot.beat = s.beat := by simp [State.imageBoot]
@[simp] theorem State.copyRepairs_beat : s.copyRepairs.beat = s.beat := by simp [State.copyRepairs]
@[simp] theorem State.fuseCopy_beat : s.fuseCopy.beat = s.beat := by simp [State.fuseCopy]
@[simp] theorem State.clearRing_beat : s.clearRing.beat = s.beat := (clearRing_engine (onlyEngine_refl s)).beat
@[simp] theorem State.hardwareFill_beat : s.hardwareFill.beat = s.beat := by simp [State.hardwareFill]
@[simp] theorem State.failSlices_beat (map : Word) : (s.failSlices map).beat = s.beat :=
  (failSlices_engine (onlyEngine_refl s) ..).beat
@[simp] theorem State.skipStage_beat : (s.skipStage k).beat = s.beat := by simp [State.skipStage]
@[simp] theorem State.fastCheck_beat (failing : List (Nat × Nat)) : (s.fastCheck failing).beat = s.beat := by
  simp [State.fastCheck]
@[simp] theorem State.zeroCells_beat : (s.zeroCells sl).beat = s.beat :=
  (zeroCells_engine (onlyEngine_refl s) ..).beat
@[simp] theorem State.recordBist_beat (faults : List BistFault) : (s.recordBist faults).beat = s.beat :=
  (recordBist_engine (onlyEngine_refl s) ..).beat
@[simp] theorem State.bist_beat (faults : List BistFault) (startMv : Nat) :
    (s.bist faults startMv).beat = s.beat := by
  simp [State.bist]
@[simp] theorem State.repairAll_beat (fs : List BistFault) : (s.repairAll fs).beat = s.beat :=
  (repairAll_engine (onlyEngine_refl s) ..).beat
@[simp] theorem State.repairApply_beat : s.repairApply.beat = s.beat := by simp [State.repairApply]
@[simp] theorem State.endRoll_beat : s.endRoll.beat = s.beat := by simp [State.endRoll]
@[simp] theorem State.rollCall_beat : s.rollCall.beat = s.beat := by simp [State.rollCall]
@[simp] theorem State.setpoint_beat (mv reading : Nat) : (s.setpoint mv reading lo).beat = s.beat := by
  simp [State.setpoint]
@[simp] theorem State.comparePort_beat : (s.comparePort sl p).beat = s.beat :=
  (comparePort_engine (onlyEngine_refl s) ..).beat
@[simp] theorem State.settingsRead_beat (version : Word) (logicMv arrayMv : Nat) :
    (s.settingsRead version logicMv arrayMv).beat = s.beat := by simp [State.settingsRead]
@[simp] theorem State.fullRelease_beat : s.fullRelease.beat = s.beat := by simp [State.fullRelease]

/-! ### Machine/Kill -/

@[simp] theorem State.modKill_beat (f : Kill → Kill) : (s.modKill c f).beat = s.beat :=
  (modKill_engine (onlyEngine_refl s) ..).beat
@[simp] theorem State.storeKill_beat : (s.storeKill s₀ v ctx).beat = s.beat :=
  (storeKill_engine (onlyEngine_refl s) ..).beat
@[simp] theorem State.killSlot_beat : (s.killSlot sl j).beat = s.beat := (killSlot_engine (onlyEngine_refl s) ..).beat
@[simp] theorem State.killPairs_beat : (s.killPairs sl c).beat = s.beat :=
  (killPairs_engine (onlyEngine_refl s) ..).beat
@[simp] theorem State.killMark_beat : (s.killMark c sl).beat = s.beat := by
  unfold State.killMark
  split <;> simp
@[simp] theorem State.killBanks_beat : (s.killBanks c n).beat = s.beat := by simp [State.killBanks]
@[simp] theorem State.killDrainEnd_beat : (s.killDrainEnd c).beat = s.beat := by simp [State.killDrainEnd]
@[simp] theorem State.soloPause_beat : (s.soloPause c).beat = s.beat := (soloPause_engine (onlyEngine_refl s) ..).beat
@[simp] theorem State.soloResume_beat : s.soloResume.beat = s.beat := by simp [State.soloResume]
@[simp] theorem State.storeSolo_beat : (s.storeSolo v ctx).beat = s.beat := by simp [State.storeSolo]

/-! ### Machine/Reset -/

@[simp] theorem State.resetSaves_beat (u : UnitReset) : (s.resetSaves u).beat = s.beat :=
  (resetSaves_engine (onlyEngine_refl s) ..).beat
@[simp] theorem State.abandonHandover_beat : (s.abandonHandover sl).beat = s.beat := by
  unfold State.abandonHandover
  split <;> simp -implicitDefEqProofs

@[simp] theorem State.fenceForReset_beat : (s.fenceForReset sl).beat = s.beat := by simp [State.fenceForReset]
@[simp] theorem State.fenceUnit_beat (u : UnitReset) : (s.fenceUnit u).beat = s.beat := by simp [State.fenceUnit]
@[simp] theorem State.beginReset_beat (u : UnitReset) : (s.beginReset u).beat = s.beat := by simp [State.beginReset]
@[simp] theorem State.storeReset_beat : (s.storeReset s₀ v ctx).beat = s.beat := by simp [State.storeReset]
@[simp] theorem State.startReset_beat (unit index : Nat) : (s.startReset unit sl index ctx).beat = s.beat := by
  simp [State.startReset]

/-! ### Machine/Belfry -/

@[simp] theorem State.storeMboxCmd_beat : (s.storeMboxCmd v ctx).beat = s.beat := by simp [State.storeMboxCmd]
@[simp] theorem State.storeMboxArg_beat : (s.storeMboxArg w v ctx).beat = s.beat :=
  (storeMboxArg_regs (onlyRegs_refl s) ..).beat
@[simp] theorem State.earlyGo_beat : (s.earlyGo v ctx).beat = s.beat := by simp [State.earlyGo]
@[simp] theorem State.reply_beat (status : Nat) (bs : List Byte) : (s.reply status bs).beat = s.beat := by
  simp [State.reply]
@[simp] theorem State.serve_beat (f : State → State) (hf : ∀ t : State, t.SameBeat (f t)) :
    (s.serve op f).beat = s.beat := by
  simp [State.serve, (hf _).beat]
@[simp] theorem State.commandDone_beat : s.commandDone.beat = s.beat := by
  unfold State.commandDone
  (repeat' split) <;> simp
@[simp] theorem State.sensors_beat (current temperature : Nat) : (s.sensors current temperature).beat = s.beat := by
  simp [State.sensors]
@[simp] theorem State.capture_beat : s.capture.beat = s.beat := by
  simp only [State.capture]
  split <;> simp
@[simp] theorem State.flashBegin_beat (erase : Bool) : (s.flashBegin erase lo hi).beat = s.beat := by
  simp [State.flashBegin]
@[simp] theorem State.flashLate_beat : s.flashLate.beat = s.beat := by
  unfold State.flashLate
  (repeat' split) <;> simp
@[simp] theorem State.copyImage_beat (src : Bool) : (s.copyImage src).beat = s.beat := by simp [State.copyImage]
@[simp] theorem State.answerSeq_beat (seq : Nat) : (s.answerSeq seq).beat = s.beat := by simp [State.answerSeq]
@[simp] theorem State.endFirmware_beat : s.endFirmware.beat = s.beat := by simp [State.endFirmware]
@[simp] theorem State.endSettings_beat : (s.endSettings n).beat = s.beat := by
  unfold State.endSettings
  split <;> simp
@[simp] theorem State.updateEnd_beat : s.updateEnd.beat = s.beat := by
  unfold State.updateEnd
  split <;> simp
@[simp] theorem State.drawNonce_beat : s.drawNonce.beat = s.beat := by simp [State.drawNonce]
@[simp] theorem State.burn_beat (target : Nat) : (s.burn target).beat = s.beat := by simp [State.burn]
@[simp] theorem State.lifeChange_beat : s.lifeChange.beat = s.beat := by simp [State.lifeChange]
@[simp] theorem State.trap_beat : s.trap.beat = s.beat := by simp [State.trap]

/-! ### Machine/CsrMap -/

@[simp] theorem State.storeMaint_beat : (s.storeMaint v ctx).beat = s.beat := by simp [State.storeMaint]
@[simp] theorem State.storeCtxWord_beat : (s.storeCtxWord s₀ a v ctx).beat = s.beat := by simp [State.storeCtxWord]
@[simp] theorem State.storeGroup_beat : (s.storeGroup s₀ a v ctx).beat = s.beat :=
  (storeGroup_regs (onlyRegs_refl s) ..).beat
@[simp] theorem State.storeSyswin_beat : (s.storeSyswin s₀ a v ctx).beat = s.beat :=
  (storeSyswin_regs (onlyRegs_refl s) ..).beat
@[simp] theorem State.storeChipWin_beat : (s.storeChipWin s₀ a v ctx).beat = s.beat := by simp [State.storeChipWin]
@[simp] theorem State.storeHtab_beat : (s.storeHtab s₀ a v ctx).beat = s.beat := by simp [State.storeHtab]
@[simp] theorem State.storeTap_beat : (s.storeTap s₀ v ctx).beat = s.beat := (storeTap_regs (onlyRegs_refl s) ..).beat
@[simp] theorem State.storeChal_beat : (s.storeChal a v ctx).beat = s.beat :=
  (storeChal_regs (onlyRegs_refl s) ..).beat
@[simp] theorem State.storeLow_beat : (s.storeLow s₀ a v ctx).beat = s.beat := by simp [State.storeLow]
@[simp] theorem State.storeHigh_beat : (s.storeHigh s₀ a v ctx).beat = s.beat := by simp [State.storeHigh]
@[simp] theorem State.storeSemOp_beat : (s.storeSemOp sl v).beat = s.beat :=
  (storeSemOp_engine (onlyEngine_refl s) ..).beat
@[simp] theorem State.storeSeEnable_beat : (s.storeSeEnable sl off v ctx).beat = s.beat :=
  (storeSeEnable_regs (onlyRegs_refl s) ..).beat
@[simp] theorem State.storeSlot_beat : (s.storeSlot s₀ sl j off v ctx).beat = s.beat := by simp [State.storeSlot]
@[simp] theorem State.storeSe_beat : (s.storeSe s₀ sl off v ctx).beat = s.beat := by simp [State.storeSe]
@[simp] theorem State.storePatrol_beat : (s.storePatrol sl v ctx).beat = s.beat :=
  (storePatrol_regs (onlyRegs_refl s) ..).beat
@[simp] theorem State.storeEccCfg_beat : (s.storeEccCfg sl v ctx).beat = s.beat :=
  (storeEccCfg_regs (onlyRegs_refl s) ..).beat
@[simp] theorem State.storePortCfg_beat : (s.storePortCfg s₀ sl p v ctx).beat = s.beat :=
  (storePortCfg_regs (onlyRegs_refl s) ..).beat
@[simp] theorem State.storeSlice_beat : (s.storeSlice s₀ sl off v ctx).beat = s.beat := by simp [State.storeSlice]
@[simp] theorem State.storeCsr_beat : (s.storeCsr s₀ a v ctx).beat = s.beat := by
  unfold State.storeCsr
  (repeat' split) <;> simp
@[simp] theorem State.regWrite_beat : (s.regWrite a v ctx).beat = s.beat := by simp [State.regWrite]

/-! ### Machine/Peal -/

@[simp] theorem State.csrPeal_beat : (s.csrPeal off v ctx).beat = s.beat := by simp [State.csrPeal]
@[simp] theorem State.memPeal_beat (data : Line) (ben : ByteEn) : (s.memPeal off data ben ctx).beat = s.beat := by
  simp [State.memPeal]
@[simp] theorem State.modPeal_beat (f : Peal → Peal) : (s.modPeal id f).beat = s.beat :=
  (modPeal_engine (onlyEngine_refl s) ..).beat
@[simp] theorem State.mirrorDone_beat : (s.mirrorDone h).beat = s.beat := (mirrorDone_regs (onlyRegs_refl s) ..).beat
@[simp] theorem State.pealReached_beat : (s.pealReached id sl).beat = s.beat := by
  simp only [State.pealReached]
  (repeat' split) <;> simp
@[simp] theorem State.pealSkip_beat : (s.pealSkip sl).beat = s.beat := (pealSkip_engine (onlyEngine_refl s) ..).beat
@[simp] theorem State.pealUndone_beat : (s.pealUndone id sl code).beat = s.beat :=
  (pealUndone_engine (onlyEngine_refl s) ..).beat
@[simp] theorem State.pealApply_beat (p : Peal) : (s.pealApply p sl).beat = s.beat := by
  unfold State.pealApply
  extract_lets q
  (repeat' split) <;> simp

@[simp] theorem State.pealArrives_beat : (s.pealArrives id sl).beat = s.beat := by
  unfold State.pealArrives
  split <;> simp
@[simp] theorem State.spPart_beat (due : Nat) : (s.spPart tag code due).beat = s.beat := by simp [State.spPart]
@[simp] theorem State.feedPeal_beat : s.feedPeal.beat = s.beat := by
  unfold State.feedPeal
  (repeat' split) <;> simp
@[simp] theorem State.feedPeals_beat : s.feedPeals.beat = s.beat := by simp [State.feedPeals]
@[simp] theorem State.pealDone_beat : (s.pealDone id).beat = s.beat := by
  unfold State.pealDone
  (repeat' split) <;> simp
@[simp] theorem State.csrWrite_beat : (s.csrWrite a v ctx).beat = s.beat := by
  simp only [State.csrWrite, beat_ite, csrPeal_beat, memPeal_beat, regWrite_beat, ite_self]

/-! ### Machine/SysPort -/

@[simp] theorem State.initResponse_beat (data : List Line) : (s.initResponse tag code data).beat = s.beat := by
  unfold State.initResponse
  split <;> simp
@[simp] theorem State.spOpen_beat (r : SpStaged) (win need : Nat) (lines : List LineRsp)
    (peals : List (Bool × Nat × Line × ByteEn)) :
    (s.spOpen r win cls ctx need code lines peals).beat = s.beat := by simp [State.spOpen]
@[simp] theorem State.spMemory_beat (r : SpStaged) : (s.spMemory i r).beat = s.beat := by simp [State.spMemory]
@[simp] theorem State.csrWake_beat : (s.csrWake a).beat = s.beat := (csrWake_regs (onlyRegs_refl s) ..).beat
@[simp] theorem State.spCsr_beat (r : SpStaged) : (s.spCsr i r o).beat = s.beat := by
  have hw (u : State) (c : Nat) :
      ((spWords r).foldl (fun x w => x.storeCsr s.meshNow (o + w.1) w.2 c) u).beat = u.beat := by simp
  simp [State.spCsr, hw]

@[simp] theorem State.spRange_beat (r : SpStaged) : (s.spRange r).beat = s.beat := by simp [State.spRange]
@[simp] theorem State.spProceed_beat (r : SpStaged) : (s.spProceed r).beat = s.beat := by
  unfold State.spProceed
  split <;> simp
@[simp] theorem State.spAwake_beat (r : SpStaged) : (s.spAwake r).2.beat = s.beat :=
  (spAwake_regs (onlyRegs_refl s) ..).beat
@[simp] theorem State.spDrain_beat : s.spDrain.beat = s.beat := by simp [State.spDrain]
@[simp] theorem State.spAccept_beat (r : SpStaged) : (s.spAccept r).beat = s.beat := by simp [State.spAccept]
@[simp] theorem State.spRequest_beat (r : SpStaged) : (s.spRequest r).beat = s.beat := by simp [State.spRequest]
@[simp] theorem State.badOp_beat : (s.badOp op tag).beat = s.beat := by simp [State.badOp]
@[simp] theorem State.spRespond_beat : (s.spRespond tag).beat = s.beat := by
  unfold State.spRespond
  split <;> simp

/-! ### Machine/Commit -/

@[simp] theorem State.putEntry_beat (type : Nat) : (s.putEntry type a v).beat = s.beat := by simp [State.putEntry]
@[simp] theorem State.applyEntry_beat (e : Nat × Word × Word) : (s.applyEntry e).beat = s.beat := by
  simp [State.applyEntry]
@[simp] theorem State.applyRecord_beat : s.applyRecord.beat = s.beat := by simp [State.applyRecord]
@[simp] theorem State.takeGoldens_beat : s.takeGoldens.beat = s.beat := (takeGoldens_regs (onlyRegs_refl s)).beat
@[simp] theorem State.wholePass_beat : s.wholePass.beat = s.beat := by simp [State.wholePass]
@[simp] theorem State.commitSettings_beat : s.commitSettings.beat = s.beat := by simp [State.commitSettings]

end

end Sys2Proof.Machine
end

section
/-! SUPPORT. What holds of the next state that a command answers, and what Belfry's own commands change. -/

namespace Sys2Proof.Machine

open State

/-! ### Next states -/

/-- If the outcome of a command is a next state, `P` holds of it. -/
def NextHas (P : State → Prop) (o : Out) : Prop := ∀ t, o = .next t → P t

section
variable {P Q : State → Prop} {s t : State} {o o' : Out}

theorem NextHas.imp (h : NextHas P o) (hpq : ∀ t, P t → Q t) : NextHas Q o := fun t ht => hpq t (h t ht)

theorem nextHas_next (h : P t) : NextHas P (.next t) := by
  rintro _ ⟨⟩
  exact h

theorem nextHas_refused {r : Refusal} : NextHas P (.refused r) := by
  intro t h
  cases h

theorem nextHas_ite {c : Prop} [Decidable c] (h : NextHas P o) (h' : NextHas P o') :
    NextHas P (if c then o else o') := by
  split <;> assumption

theorem nextHas_guard {c : Prop} [Decidable c] {r : Refusal} (h : NextHas P o) :
    NextHas P (if c then o else .refused r) := nextHas_ite h nextHas_refused

theorem nextHas_onSlice {sl : Nat} (h : P t) : NextHas P (s.onSlice sl t) := nextHas_guard (nextHas_next h)

theorem nextHas_onPort {sl p : Nat} (h : P t) : NextHas P (s.onPort sl p t) := nextHas_guard (nextHas_next h)

theorem nextHas_onSlot {sl j : Nat} (h : P t) : NextHas P (s.onSlot sl j t) := nextHas_guard (nextHas_next h)

theorem nextHas_onIndex (s : State) {i n : Nat} (h : P t) : NextHas P (s.onIndex i n t) :=
  nextHas_guard (nextHas_next h)

theorem nextHas_onFabric (h : P t) : NextHas P (s.onFabric t) := nextHas_ite nextHas_refused (nextHas_next h)

theorem nextHas_onTarget {k : PowerTarget} (h : P t) : NextHas P (s.onTarget k t) := by
  cases k with
  | slice sl => exact nextHas_onSlice h
  | complex => exact nextHas_next h

end

/-! ### Belfry's own commands -/

/-- Belfry's own state is all that changes. -/
def State.OnlyBelfry (s t : State) : Prop := t = { s with belfry := t.belfry }

theorem State.OnlyBelfry.trans {s t u : State} (h : s.OnlyBelfry t) (h' : t.OnlyBelfry u) : s.OnlyBelfry u := by
  rw [OnlyBelfry, h', h]

theorem State.OnlyBelfry.sameMem {s t : State} (h : s.OnlyBelfry t) : s.SameMem t := by rw [h]; rfl

theorem State.OnlyBelfry.beat {s t : State} (h : s.OnlyBelfry t) : t.beat = s.beat := by rw [h]

theorem State.OnlyRegs.sameMem {s t : State} (h : s.OnlyRegs t) : s.SameMem t := by rw [h]; rfl

theorem State.onlyBelfry_refl (s : State) : s.OnlyBelfry s := rfl

theorem State.reply_onlyBelfry (s : State) (status : Nat) (bs : List Byte) : s.OnlyBelfry (s.reply status bs) := rfl

theorem State.programFlash_onlyBelfry (s : State) (a : Nat) (bs : List Byte) : s.OnlyBelfry (s.programFlash a bs) := rfl

theorem State.copyImage_onlyBelfry (s : State) (src : Bool) : s.OnlyBelfry (s.copyImage src) := rfl

theorem State.beginUpdate_onlyBelfry (s : State) (target total lo hi : Nat) :
    s.OnlyBelfry (s.beginUpdate target total lo hi) := rfl

theorem State.beginSettings_onlyBelfry (s : State) (total : Nat) : s.OnlyBelfry (s.beginSettings total) :=
  ite_of _ (reply_onlyBelfry ..) (beginUpdate_onlyBelfry ..)

theorem State.beginFirmware_onlyBelfry (s : State) (total : Nat) : s.OnlyBelfry (s.beginFirmware total) := by
  unfold State.beginFirmware
  extract_lets t
  have ht : s.OnlyBelfry t := ite_of _ (copyImage_onlyBelfry ..) (onlyBelfry_refl s)
  exact ite_of _ (reply_onlyBelfry ..)
    (ite_of _ (ht.trans (reply_onlyBelfry ..)) (ht.trans (beginUpdate_onlyBelfry ..)))

theorem State.info_onlyBelfry (s : State) : s.OnlyBelfry s.info := reply_onlyBelfry ..

theorem State.readLog_onlyBelfry (s : State) : s.OnlyBelfry s.readLog :=
  ite_of _ (reply_onlyBelfry ..) (reply_onlyBelfry ..)

theorem State.dumpList_onlyBelfry (s : State) : s.OnlyBelfry s.dumpList := reply_onlyBelfry ..

theorem State.readDump_onlyBelfry (s : State) : s.OnlyBelfry s.readDump :=
  ite_of _ (reply_onlyBelfry ..) (reply_onlyBelfry ..)

theorem State.dumpRelease_onlyBelfry (s : State) : s.OnlyBelfry s.dumpRelease := rfl

theorem State.updateBegin_onlyBelfry (s : State) : s.OnlyBelfry s.updateBegin :=
  ite_of _ (reply_onlyBelfry ..) (ite_of _ (beginSettings_onlyBelfry ..) (beginFirmware_onlyBelfry ..))

theorem State.updateData_onlyBelfry (s : State) : s.OnlyBelfry s.updateData := by
  unfold State.updateData
  split
  · exact reply_onlyBelfry ..
  · exact ite_of _ (reply_onlyBelfry ..) rfl

/-- What `saveRepairs` does once the record fits, on the state in which the copy is written. -/
theorem State.answerRepairs_onlyBelfry (s : State) (lo hi seq : Nat) :
    s.OnlyBelfry ((s.flashBegin false lo hi).answerSeq seq) := rfl

theorem State.saveRepairs_onlyBelfry (s : State) : s.OnlyBelfry s.saveRepairs := by
  unfold State.saveRepairs
  extract_lets n r written belfry dropped
  have hw : s.OnlyBelfry written := programFlash_onlyBelfry (s.eraseFlash _ _) _ _
  have hd : s.OnlyBelfry dropped := hw.trans rfl
  clear_value dropped
  exact ite_of _ (reply_onlyBelfry ..) (ite_of _ (reply_onlyBelfry ..) (hd.trans (answerRepairs_onlyBelfry ..)))

theorem State.unknownOp_onlyBelfry (s : State) : s.OnlyBelfry s.unknownOp := by
  unfold State.unknownOp
  split
  · exact ite_of _ (reply_onlyBelfry ..) (onlyBelfry_refl s)
  · exact onlyBelfry_refl s

theorem State.pollFlash_onlyBelfry (s : State) (busy : Bool) : s.OnlyBelfry (s.pollFlash busy) :=
  ite_of _ (onlyBelfry_refl s) rfl

theorem State.serve_onlyBelfry (s : State) (op : Nat) {f : State → State} (hf : ∀ t : State, t.OnlyBelfry (f t)) :
    s.OnlyBelfry (s.serve op f) :=
  ite_of _ (onlyBelfry_refl s) (ite_of _ (reply_onlyBelfry ..) (ite_of _ (reply_onlyBelfry ..) (hf s)))

end Sys2Proof.Machine
end

section
/-! PROOF. The frames of the families of commands (O60). -/

namespace Sys2Proof.Machine

open State

/-- A register access changes registers and nothing else. -/
theorem exec_of_registersOnly (c : Instr) (s : State) (hc : c.registersOnly = true) :
    NextHas s.OnlyRegs (exec c s) := by
  have r := onlyRegs_refl s
  cases c with
  | rhyTableWrite => exact nextHas_guard (nextHas_onSlice (rhyTable_regs r ..))
  | rhyCtrlWrite => exact nextHas_onSlice (rhyCtrl_regs r ..)
  | htabStageWrite => exact nextHas_guard (nextHas_next (htabStage_regs r ..))
  | syswinWrite => exact nextHas_guard (nextHas_next (csrAccess_regs r _ _ _ fun _ h => storeSyswin_regs h ..))
  | strkSeedWrite =>
    exact nextHas_guard (nextHas_onSlice (csrAccess_regs r _ _ _ fun _ h => storeSeed_regs h ..))
  | semOpSignal => exact nextHas_onSlice (csrAccess_regs r _ _ _ fun _ h => semSignal_regs h ..)
  | errorRecordWrite => exact nextHas_next (recordWrite_regs r)
  | errRdWrite => exact nextHas_next (csrAccess_regs r _ _ _ fun _ h => storeErrRd_regs h ..)
  | errFirstclr => exact nextHas_next (csrAccess_regs r _ _ _ fun _ h => storeErrStat_regs h ..)
  | scrubCtlGo | scrubCtlStop => exact nextHas_onSlice (scrubCtl_regs r ..)
  | belfryChallenge => exact nextHas_next (challenge_regs r ..)
  | tunerChexpGo => exact nextHas_next (chexpGo_regs r ..)
  | sliceDampRequest | sliceOffRequest | slicePlayRequest => exact nextHas_onSlice (reqSlice_regs r ..)
  | cplxDampRequest | cplxTapRequest | cplxPlayRequest => exact nextHas_next (reqCplx_regs r ..)
  | wakeEvent => exact nextHas_onTarget (wakeEvent_regs r ..)
  | pwrVreqGo | pwrVreqClr => exact nextHas_next (csrAccess_regs r _ _ _ fun _ h => storeVreq_regs h ..)
  | fpRdataIn => 
    exact nextHas_onFabric (fpTake_regs r _ fun _ h => ite_of _ (absorb_regs h) (absorbRsp_regs h))
  | fpBadPacket => exact nextHas_onFabric (fpTake_regs r _ fun _ h => ite_of _ (absorb_regs h) h)
  | _ => cases hc

/-- A command of the stream engines changes only what they work on. -/
theorem exec_of_engineOnly (c : Instr) (s : State) (hc : c.engineOnly = true) :
    NextHas s.OnlyEngine (exec c s) := by
  have r := onlyEngine_refl s
  cases c with
  | clkMeasureWindow => exact nextHas_next (measure_engine r ..)
  | mChange => exact nextHas_next (changeM_engine r)
  | mergeDrainAge => exact nextHas_guard (nextHas_onSlice (drainAge_engine r ..))
  | historyExpire => exact nextHas_guard (nextHas_onSlice (historyExpire_engine r ..))
  | burstRelease => exact nextHas_guard (nextHas_onSlice (releaseBurst_engine r ..))
  | shareWindowStart => exact nextHas_next (windowStart_engine r)
  | mcastStrokeSend => 
    refine nextHas_onIndex s ?_
    split
    · exact strokeSend_engine (pumpEngine_engine r ..) ..
    · exact r
  | mcastAckMerge => exact nextHas_onIndex s (ackMerge_engine r ..)
  | mcastResend => exact nextHas_onIndex s (strokeResend_engine r ..)
  | mcastShed => exact nextHas_guard (nextHas_onSlice (shed_engine r ..))
  | stopComplete => exact nextHas_onSlot (stopEnds_engine r ..)
  | slotPaused => exact nextHas_onSlot (slotPause_engine r ..)
  | instrFetchArrive => exact nextHas_onSlot (fetchArrives_engine r ..)
  | descBurstArrive => exact nextHas_onSlot (descArrives_engine r ..)
  | nop => exact nextHas_onSlot (decode_engine r _ _ _ _ fun _ _ h => nextPc_engine h ..)
  | halt => exact nextHas_onSlot (leadFollow_engine r _ _ _ _ _ fun _ _ h => haltExec_engine h ..)
  | loop => exact nextHas_onSlot (decode_engine r _ _ _ _ fun _ _ h => loopInstr_engine h ..)
  | endl => exact nextHas_onSlot (decode_engine r _ _ _ _ fun _ _ h => endlInstr_engine h ..)
  | jump => exact nextHas_onSlot (decode_engine r _ _ _ _ fun _ _ h => jumpInstr_engine h ..)
  | seth => exact nextHas_onSlot (decode_engine r _ _ _ _ fun _ _ h => sethInstr_engine h ..)
  | sets => exact nextHas_onSlot (decode_engine r _ _ _ _ fun _ _ h => setsInstr_engine h ..)
  | wait => exact nextHas_onSlot (decode_engine r _ _ _ _ fun _ _ h => waitInstr_engine h ..)
  | waitSatisfied => exact nextHas_onSlot (waitAgain_engine r ..)
  | signal => exact nextHas_onSlot (leadFollow_engine r _ _ _ _ _ fun _ _ h => signalExec_engine h ..)
  | waitbeat => exact nextHas_onSlot (decode_engine r _ _ _ _ fun _ _ h => waitbeatInstr_engine h ..)
  | deadline => exact nextHas_onSlot (decode_engine r _ _ _ _ fun _ _ h => deadlineInstr_engine h ..)
  | rearm => 
    exact nextHas_onSlot (decode_engine r _ _ _ _ fun _ _ h => modSlot_engine (pushInst_engine h ..) ..)
  | rearmExecute => exact nextHas_onSlot (follow_engine r _ _ _ _ fun _ _ h => rearmExec_engine h ..)
  | move | remote | toll => exact nextHas_onSlot (pumpEngine_engine (blockOp_engine r ..) ..)
  | mcast =>
    exact nextHas_onSlot (pumpEngine_engine (decode_engine r _ _ _ _ fun _ _ h => mcastInstr_engine h ..) ..)
  | fill | copy | accin | convert | gemv | reduce | wipe => exact nextHas_onSlot (blockOp_engine r ..)
  | scrub => exact nextHas_onSlot (scrubPump_engine (blockOp_engine r ..) ..)
  | illegalOp => exact nextHas_onSlot (illegal_engine r ..)
  | instructionRetire => exact nextHas_onSlot (retire_engine r ..)
  | seAccessResponse => exact nextHas_onSlot (accAnswer_engine r ..)
  | fencedReissue => 
    exact nextHas_onSlot (ite_of _ (reissue_engine r ..) (ite_of _ r (ite_of _ (resendOut_engine r ..) r)))
  | strikeStep => exact nextHas_guard (nextHas_onSlice (strikeOn_engine r ..))
  | accumTake => exact nextHas_onSlot (takeAccs_engine r ..)
  | reductionTree => exact nextHas_onSlot (reduceTree_engine r ..)
  | errorRecordWrite => exact nextHas_next (recordWrite_engine r)
  | ceWindowEnd => exact nextHas_onSlice (ceEnds_engine r ..)
  | scrubPassComplete => exact nextHas_onSlice (passEnds_engine r ..)
  | killComplete => exact nextHas_onIndex s (killComplete_engine r ..)
  | fpPacketSend => exact nextHas_ite nextHas_refused (nextHas_onSlot (packetSend_engine r ..))
  | chwinDrainDone => exact nextHas_onIndex s (winDrained_engine r ..)
  | chwinDtmo => exact nextHas_onIndex s (winTimeout_engine r ..)
  | knellSend => exact nextHas_next (knellSend_engine r)
  | _ => cases hc

/-- A command that Belfry carries out within itself changes Belfry alone. -/
theorem exec_of_belfryOnly (c : Instr) (s : State) (hc : c.belfryOnly = true) :
    NextHas s.OnlyBelfry (exec c s) := by
  cases c with
  | mboxInfo => exact nextHas_next (serve_onlyBelfry s _ info_onlyBelfry)
  | logRead => exact nextHas_next (serve_onlyBelfry s _ readLog_onlyBelfry)
  | dumpDir => exact nextHas_next (serve_onlyBelfry s _ dumpList_onlyBelfry)
  | dumpRead => exact nextHas_next (serve_onlyBelfry s _ readDump_onlyBelfry)
  | dumpFree => exact nextHas_next (serve_onlyBelfry s _ dumpRelease_onlyBelfry)
  | updBegin => exact nextHas_next (serve_onlyBelfry s _ updateBegin_onlyBelfry)
  | updData => exact nextHas_next (serve_onlyBelfry s _ updateData_onlyBelfry)
  | repairSave => exact nextHas_next (serve_onlyBelfry s _ saveRepairs_onlyBelfry)
  | mboxUnknown => exact nextHas_next (unknownOp_onlyBelfry s)
  | flashPoll => exact nextHas_next (pollFlash_onlyBelfry s _)
  | _ => cases hc

/-- Two of the families above leave the storage alone as a whole; what is left of the list follows command by command. -/
theorem exec_of_leavesStorage (c : Instr) (s : State) (hc : c.leavesStorage = true) :
    NextHas s.SameMem (exec c s) := by
  have r := sameMem_refl s
  by_cases hreg : c.registersOnly = true
  · exact (exec_of_registersOnly c s hreg).imp fun _ h => h.sameMem
  by_cases hbel : c.belfryOnly = true
  · exact (exec_of_belfryOnly c s hbel).imp fun _ h => h.sameMem
  have hrest : (c.leavesStorage && !c.registersOnly && !c.belfryOnly) = true := by simp [hc, hreg, hbel]
  cases c with
  | porRelease => exact nextHas_next (porRelease_sameMem r)
  | beatStrobe => exact nextHas_next (beatStrobe_sameMem r ..)
  | clkMeasureWindow => exact nextHas_next (measure_sameMem r ..)
  | mChange => exact nextHas_next (changeM_sameMem r)
  | barBoundary => exact nextHas_next (barBoundary_sameMem r)
  | tableSwitch => exact nextHas_onSlice (tableSwitch_sameMem r ..)
  | beatArmedSwitch => exact nextHas_onSlice (beatSwitch_sameMem r ..)
  | cpRead | cpWrite | cpReservedOp => exact nextHas_onPort (accept_sameMem r ..)
  | cpClvRead | cpClvSignal | cpClvTake => exact nextHas_onPort (portClave_sameMem r ..)
  | cpResponse => exact nextHas_onPort (when_sameMem r _ _ (presentLocal_sameMem r ..))
  | cpRemoteResponse => exact nextHas_onPort (when_sameMem r _ _ (presentRemote_sameMem r ..))
  | cpFenceInRaise => exact nextHas_onPort (fenceInRaise_sameMem r ..)
  | cpFenceInLower => exact nextHas_onPort (fenceInLower_sameMem r ..)
  | portRcRun => exact nextHas_onSlice (portRc_sameMem r ..)
  | idFrame => exact nextHas_onPort (idFrame_sameMem r ..)
  | idAbsent => exact nextHas_onPort (idAbsent_sameMem r ..)
  | idRetry => exact nextHas_onPort (idRetry_sameMem r ..)
  | htabCommit => exact nextHas_onIndex s (htabCommit_sameMem r ..)
  | handleTakesEffect => exact nextHas_onIndex s (takeEffect_sameMem r ..)
  | spInitResponse => exact nextHas_next (initResponse_sameMem r ..)
  | remoteRequestArrive => exact nextHas_next (requestArrives_sameMem r ..)
  | burstRelease => exact nextHas_guard (nextHas_onSlice (releaseBurst_sameMem r ..))
  | shareWindowStart => exact nextHas_next (windowStart_sameMem r)
  | qosShareWrite => exact nextHas_onIndex s (shareWrite_sameMem r ..)
  | csrPealWrite => exact nextHas_guard (nextHas_next (csrPeal_sameMem r ..))
  | memPealWrite => exact nextHas_guard (nextHas_next (memPeal_sameMem r ..))
  | pealComplete => exact nextHas_next (pealDone_sameMem r ..)
  | mcastResend => exact nextHas_onIndex s (strokeResend_sameMem r ..)
  | stopComplete => exact nextHas_onSlot (stopEnds_sameMem r ..)
  | semPairWrite =>
    exact nextHas_guard (nextHas_onSlice (csrAccess_sameMem r _ _ _ fun _ h => storePair_sameMem h ..))
  | semOpTake => exact nextHas_onSlice (csrAccess_sameMem r _ _ _ fun _ h => semTake_sameMem h ..)
  | ceWindowEnd => exact nextHas_onSlice (ceEnds_sameMem r ..)
  | tunerPassStart => exact nextHas_next (passStart_sameMem r)
  | challengeResult => exact nextHas_next (judge_sameMem r)
  | challengeLate => exact nextHas_next (challengeLate_sameMem r)
  | tapClkReq => exact nextHas_next (tapRequest_sameMem r)
  | tapSleep => exact nextHas_next (tapSleep_sameMem r)
  | avsAck => exact nextHas_next (avsAck_sameMem r ..)
  | avsBusyRetry => exact nextHas_next (avsRetry_sameMem r)
  | avsVoltagePoll => exact nextHas_next (avsPoll_sameMem r ..)
  | avsTimeout => exact nextHas_next (avsTimeout_sameMem r)
  | sensorWindow => exact nextHas_onSlice (sensorWindow_sameMem r ..)
  | droopEvent => exact nextHas_onSlice (droop_sameMem r ..)
  | imageBoot => exact nextHas_next (imageBoot_sameMem r)
  | fastCheck => exact nextHas_next (fastCheck_sameMem r ..)
  | settingsRead => exact nextHas_next (settingsRead_sameMem r ..)
  | fullRelease => exact nextHas_next (fullRelease_sameMem r)
  | ctxKillWrite => exact nextHas_next (csrAccess_sameMem r _ _ _ fun _ h => storeKill_sameMem h ..)
  | fpWriteIn | fpWritepIn | fpReadIn =>
    refine nextHas_onFabric (fpTake_sameMem r _ fun _ h => ?_)
    exact ite_of _ (absorb_sameMem h) (fpRequest_sameMem h ..)
  | fpKnellIn => exact nextHas_onFabric (knellIn_sameMem r ..)
  | chwinOpen | chwinClose =>
    exact nextHas_onIndex s (csrAccess_sameMem r _ _ _ fun _ h => storeWinCtl_sameMem h ..)
  | chwinDrainDone => exact nextHas_onIndex s (winDrained_sameMem r ..)
  | chwinDtmo => exact nextHas_onIndex s (winTimeout_sameMem r ..)
  | fpKnellGo => exact nextHas_next (csrAccess_sameMem r _ _ _ fun _ h => storeKnell_sameMem h ..)
  | knellSend => exact nextHas_next (knellSend_sameMem r)
  | mboxSensors => exact nextHas_next (serve_sameMem r _ _ fun _ h => sensors_sameMem h ..)
  | dumpCapture => exact nextHas_next (serve_sameMem r _ _ fun _ h => capture_sameMem h)
  | updEnd => exact nextHas_next (serve_sameMem r _ _ fun _ h => updateEnd_sameMem h)
  | lcNonce => exact nextHas_next (serve_sameMem r _ _ fun _ h => drawNonce_sameMem h)
  | lcChange => exact nextHas_next (serve_sameMem r _ _ fun _ h => lifeChange_sameMem h)
  | mboxNotServing => exact nextHas_next (earlyGo_sameMem r ..)
  | flashTimeout => exact nextHas_next (flashLate_sameMem r)
  | belfryTrap => exact nextHas_next (trap_sameMem r)
  | logRecord => exact nextHas_next (logRecord_sameMem r)
  | stageB7RollCall => exact nextHas_next (rollCall_sameMem r)
  | _ => cases hrest

/-- A command that no other family covers leaves the beat by the lemmas about the operation that it starts. -/
theorem exec_of_not_movesBeat (c : Instr) (s : State) (hc : c.movesBeat = false) :
    NextHas s.SameBeat (exec c s) := by
  by_cases hreg : c.registersOnly = true
  · exact (exec_of_registersOnly c s hreg).imp fun _ h => h.beat
  by_cases heng : c.engineOnly = true
  · exact (exec_of_engineOnly c s heng).imp fun _ h => h.beat
  by_cases hbel : c.belfryOnly = true
  · exact (exec_of_belfryOnly c s hbel).imp fun _ h => h.beat
  have hrest : (!c.movesBeat && !c.registersOnly && !c.engineOnly && !c.belfryOnly) = true := by
    simp [hc, hreg, heng, hbel]
  cases c with
  | porRelease | barBoundary | spTargetResponse | spInitResponse | remoteRequestArrive | remoteResponseArrive
  | pealComplete | tunerPassStart | challengeResult | challengeLate | tapClkReq | tapBurst | tapSleep | avsAck
  | avsBusyRetry | avsVoltagePoll | avsTimeout | imageBoot | fuseCopy | hardwareFill | fastCheck | bist
  | repairApply | settingsRead | settingsCommit | fullRelease | warmReset | belfryReset | fullReset
  | ctxKillWrite | ctxSoloWrite | fpKnellGo | mboxSensors | dumpCapture | updEnd | lcNonce | lcChange
  | mboxNotServing | mboxCommandDone | flashTimeout | belfryTrap | logRecord | csrWrite | stageB7RollCall =>
    exact nextHas_next (by simp)
  | tableSwitch | beatArmedSwitch | rhyPfenceWrite | portRcRun | eccRetireRun | ownXferGo | handoverDrainEnd
  | handoverComplete | pealDeliver | semOpTake | offRestoreDone | sensorWindow | droopEvent | engineReset
  | sliceReset => exact nextHas_onSlice (by simp)
  | cpRead | cpWrite | cpClvRead | cpClvSignal | cpClvTake | cpReservedOp | cpResponse | cpRemoteResponse
  | cpFenceInRaise | cpFenceInLower | idFrame | idAbsent | idRetry | portReset => exact nextHas_onPort (by simp)
  | requestIssue | maintenanceClk | rowRetire | mcastLand | semPairWrite | killMarkArrive =>
    exact nextHas_guard (nextHas_onSlice (by simp))
  | htabCommit | handleTakesEffect | ctxE0Write | ctxKnextWrite | qosShareWrite | tunerScanEnd
  | tunerReloadDone | tunerRecheck | tunerRebase | partitionReset | killDrainEnd | chwinOpen | chwinClose =>
    exact nextHas_onIndex s (by simp)
  | spTargetRead | spTargetWrite | spTargetBadOp | csrPealWrite | memPealWrite =>
    exact nextHas_guard (nextHas_next (by simp))
  | seArm | seResume | seStop | slotStart | mark | knext | guardHeldRetry => exact nextHas_onSlot (by simp)
  | powerEntryStep | wakeStepReady | wakeStepTimeout => exact nextHas_onTarget (by simp)
  | fpWriteIn | fpWritepIn | fpReadIn | fpKnellIn => exact nextHas_onFabric (by simp)
  | fpWrspIn =>
    refine nextHas_onFabric (fpTake_beat s _ fun t => ite_of _ (absorb_beat t) ?_)
    split <;> simp
  | _ => cases hrest

/-- Settles O60, family by family; a command may be of several. -/
theorem commandFrames : Obligations.CommandFrames := by
  unfold Obligations.CommandFrames
  intro c s t h
  exact ⟨fun hc => exec_of_registersOnly c s hc t h, fun hc => exec_of_engineOnly c s hc t h,
    fun hc => exec_of_leavesStorage c s hc t h, fun hc => exec_of_belfryOnly c s hc t h,
    fun hc => exec_of_not_movesBeat c s hc t h⟩

end Sys2Proof.Machine
end

section
/-! PROOF. What takes effect at a bar: a decided density, and the values of class B fields (O10). -/

namespace Sys2Proof.Machine

open State

/-! ### Time that passes to a bar -/

section
variable (s : State) (since : Nat)

@[simp] theorem State.pass_nextHot (n : Nat) : (s.pass n).time.nextHot = s.time.nextHot := by
  unfold State.pass; split <;> rfl

@[simp] theorem State.toBar_nextHot : (s.toBar since).time.nextHot = s.time.nextHot := pass_nextHot s _

@[simp] theorem State.toBar_now : (s.toBar since).now = max s.now (s.barFrom since) := reach_now s _

@[simp] theorem State.toBar_rd (a : Nat) : (s.toBar since).rd a = s.rd a := reach_rd s _ a

@[simp] theorem State.toBar_mem : (s.toBar since).mem = s.mem := reach_mem s _

@[simp] theorem State.toBar_slots : (s.toBar since).slots = s.slots := reach_slots s _

@[simp] theorem State.toBar_force : (s.toBar since).force = s.force := reach_force s _

/-- The bar that follows a clk has come once time has passed to a bar since that clk. -/
theorem State.nextBar_le_toBar_now : nextBar since ≤ (s.toBar since).now := by
  rw [toBar_now]
  exact Nat.le_trans (Nat.le_max_left _ _) (Nat.le_max_right _ _)

end

/-! ### The density -/

theorem State.dueM_lt (s : State) : s.dueM < 2 ^ 2 := by
  unfold State.dueM
  omega

/-- GLB_MAINT.M and HOT as a bar leaves them. -/
def State.putDensity (s : State) (m : Nat) (hot : Bool) : State := (s.putF A.glbMaint 2 2 m).putB A.glbMaint 6 hot

section
variable (s : State) (m : Nat) (hot : Bool)

theorem State.putDensity_M (hm : m < 2 ^ 2) : (s.putDensity m hot).getF A.glbMaint 2 2 = m := by
  unfold State.putDensity State.getF
  rw [rd_putB, if_pos rfl, fld_setFlag _ _ _ _ _ (by omega) (by omega) (by omega)]
  exact (getF_putF_same s _ _ _ _ (by omega)).trans (Nat.mod_eq_of_lt hm)

theorem State.putDensity_hot : (s.putDensity m hot).getB A.glbMaint 6 = hot := by
  unfold State.putDensity State.getB
  rw [rd_putB, if_pos rfl, flag_setFlag _ _ _ _ (by omega) (by omega), if_pos rfl]

theorem State.putDensity_rd {a : Nat} (h : a ≠ A.glbMaint) : (s.putDensity m hot).rd a = s.rd a := by
  unfold State.putDensity
  rw [rd_putB, if_neg h, rd_putF, if_neg h]

end

/-- The due density and the doubling in force; what was selected becomes `nextM`, and the low windows start anew. -/
def State.withDue (s : State) (nextM : Nat) : State :=
  let u := s.putDensity s.dueM s.time.nextHot
  { u with time := { u.time with nextM := nextM, lows := [] } }

theorem State.withDue_M (s : State) (nextM : Nat) : (s.withDue nextM).getF A.glbMaint 2 2 = s.dueM :=
  putDensity_M s _ _ (dueM_lt s)

theorem State.withDue_hot (s : State) (nextM : Nat) : (s.withDue nextM).getB A.glbMaint 6 = s.time.nextHot :=
  putDensity_hot s _ _

theorem State.withDue_rd (s : State) (nextM : Nat) {a : Nat} (h : a ≠ A.glbMaint) : (s.withDue nextM).rd a = s.rd a :=
  putDensity_rd s _ _ h

/-- A density that is due and not in force comes into force at the bar. -/
theorem State.changeM_of_due {s : State} (h : (s.toBar s.time.decidedAt).dueM ≠ s.getF A.glbMaint 2 2) :
    ∃ nextM, s.changeM = (s.toBar s.time.decidedAt).withDue nextM := by
  unfold State.changeM
  rw [if_neg fun hc => h hc.1]
  simp only [if_neg h]
  exact ⟨_, rfl⟩

/-! ### Class B values -/

theorem Tbl.get_foldl_erase {α β : Type} (d : α) (l : List (Nat × β)) (t : Tbl α) (k : Nat) :
    Tbl.get d (l.foldl (fun v x => Tbl.erase v x.1) t) k = if k ∈ l.map Prod.fst then d else Tbl.get d t k := by
  induction l generalizing t with
  | nil => simp
  | cons x l ih =>
    rw [List.foldl_cons, ih, Tbl.get_erase, List.map_cons]
    by_cases hl : k ∈ l.map Prod.fst
    · rw [if_pos hl, if_pos (List.mem_cons_of_mem _ hl)]
    · simp only [hl, if_false, List.mem_cons, or_false]

/-- The least of the clks of some entries is the clk of one of them. -/
theorem exists_mem_eq_foldl_min {α : Type} (e : α × Nat) (r : List (α × Nat)) :
    ∃ x ∈ e :: r, x.2 = r.foldl (fun m x => min m x.2) e.2 := by
  induction r generalizing e with
  | nil => exact ⟨e, by simp⟩
  | cons y r ih =>
    rcases Nat.le_total e.2 y.2 with h | h
    · obtain ⟨x, hx, hmin⟩ := ih e
      refine ⟨x, ?_, by rw [hmin, List.foldl_cons, Nat.min_eq_left h]⟩
      rcases List.mem_cons.mp hx with rfl | hx <;> simp [*]
    · obtain ⟨x, hx, hmin⟩ := ih y
      exact ⟨x, List.mem_cons_of_mem _ hx, by rw [hmin, List.foldl_cons, Nat.min_eq_right h]⟩

/-- The values whose bar has come are in force as they read, and wait no more. -/
def State.takeRipe (s : State) : State :=
  let ripe := s.force.waiting.filter fun x => nextBar x.2 ≤ s.now
  { s with force := { s.force with
      value := ripe.foldl (fun v x => Tbl.erase v x.1) s.force.value
      waiting := s.force.waiting.filter fun x => ¬ nextBar x.2 ≤ s.now } }

theorem State.takeRipe_inForce {s : State} {e : Nat × Nat} (he : e ∈ s.force.waiting) (hbar : nextBar e.2 ≤ s.now) :
    s.takeRipe.inForce e.1 = s.takeRipe.rd e.1 := by
  have hripe : e.1 ∈ (s.force.waiting.filter fun x => nextBar x.2 ≤ s.now).map Prod.fst :=
    List.mem_map_of_mem (List.mem_filter.mpr ⟨he, by simpa using hbar⟩)
  exact (Tbl.get_foldl_erase ..).trans (if_pos hripe)

theorem State.takeRipe_not_waiting {s : State} {e : Nat × Nat} (hbar : nextBar e.2 ≤ s.now) :
    e ∉ s.takeRipe.force.waiting := by
  simp [State.takeRipe, hbar]

/-- With waiting values, a bar boundary passes to a bar that ends the wait of one of them, and takes what is ripe. -/
theorem State.barBoundary_of_waiting {s : State} (h : s.force.waiting ≠ []) :
    ∃ e ∈ s.force.waiting, s.barBoundary = (s.toBar e.2).takeRipe := by
  unfold State.barBoundary
  split
  · next hnil => exact absurd hnil h
  · next e r hw =>
    obtain ⟨x, hx, hmin⟩ := exists_mem_eq_foldl_min e r
    exact ⟨x, hw ▸ hx, by rw [hmin]; rfl⟩

/-- Settles O10: the density by `withDue`, the waiting values by `takeRipe`, both on the state at the bar. -/
theorem barsTakeEffect : Obligations.BarsTakeEffect := by
  unfold Obligations.BarsTakeEffect
  refine ⟨fun s hdue => ?_, fun s hnone => ?_, fun s hsome => ?_⟩
  · obtain ⟨nextM, heq⟩ := changeM_of_due hdue
    refine ⟨(s.toBar s.time.decidedAt).withDue nextM, congrArg Host.Outcome.next heq, withDue_M .., ?_,
      toBar_now s _, rfl, fun a ha => ?_⟩
    · rw [withDue_hot, toBar_nextHot]
    · rw [withDue_rd _ _ ha, toBar_rd]
  · show Host.Outcome.next s.barBoundary = _
    rw [State.barBoundary, hnone]
  · obtain ⟨e, he, heq⟩ := barBoundary_of_waiting hsome
    refine ⟨(s.toBar e.2).takeRipe, congrArg Host.Outcome.next heq, toBar_rd s _,
      ⟨e, he, nextBar_le_toBar_now s e.2⟩, fun x hx hbar => ?_, toBar_mem .., toBar_slots ..⟩
    rw [← toBar_force s e.2] at hx
    exact ⟨takeRipe_inForce hx hbar, takeRipe_not_waiting hbar⟩

end Sys2Proof.Machine
end

section
/-! PROOF. Every command on an existing unit completes, and every step keeps what no command changes (O5, O6). The
operations keep it by the laws of `Laws/Kept*`; here each command is put together from its guard and its operation. -/

namespace Sys2Proof.Machine

open State

/-! ### Outcomes under a guard -/

/-- Where `b` holds the outcome is a next state that keeps what no command changes; elsewhere the command is refused,
for the part that it names does not exist. -/
def State.KeptWhere (s : State) (o : Out) (b : Bool) : Prop :=
  (b = true → ∃ t : State, o = .next t ∧ s.Kept t) ∧ (b = false → o = .refused .noSuchUnit)

section
variable {s t : State} {o : Out} {b : Bool}

/-- A next state is no refusal, so `b` held. -/
theorem State.KeptWhere.kept_of_next (h : s.KeptWhere o b) (ho : o = .next t) : s.Kept t := by
  obtain ⟨hnext, hrefused⟩ := h
  cases b with
  | true =>
    obtain ⟨u, hu, hk⟩ := hnext rfl
    cases ho.symm.trans hu
    exact hk
  | false => cases ho.symm.trans (hrefused rfl)

theorem keptWhere_next (h : s.Kept t) : s.KeptWhere (.next t) true :=
  ⟨fun _ => ⟨t, rfl, h⟩, nofun⟩

theorem keptWhere_bit {g : Bool} (h : s.KeptWhere o b) :
    s.KeptWhere (if g then o else .refused .noSuchUnit) (g && b) := by
  cases g with
  | true => exact h
  | false => exact ⟨nofun, fun _ => rfl⟩

theorem keptWhere_bit_next {g : Bool} (h : s.Kept t) :
    s.KeptWhere (if g then .next t else .refused .noSuchUnit) g := by
  have hg := keptWhere_bit (g := g) (keptWhere_next h)
  rwa [Bool.and_true] at hg

theorem keptWhere_guard {g : Prop} [Decidable g] (h : s.KeptWhere o b) :
    s.KeptWhere (if g then o else .refused .noSuchUnit) (decide g && b) := by
  have hg := keptWhere_bit (g := decide g) h
  simpa only [decide_eq_true_eq] using hg

theorem keptWhere_guard_next {g : Prop} [Decidable g] (h : s.Kept t) :
    s.KeptWhere (if g then .next t else .refused .noSuchUnit) (decide g) := by
  have hg := keptWhere_guard (g := g) (keptWhere_next h)
  rwa [Bool.and_true] at hg

theorem keptWhere_onSlice {sl : Nat} (h : s.Kept t) : s.KeptWhere (s.onSlice sl t) (s.hasSlice sl) :=
  keptWhere_bit_next h

theorem keptWhere_onPort {sl p : Nat} (h : s.Kept t) : s.KeptWhere (s.onPort sl p t) (s.hasPort sl p) :=
  keptWhere_bit_next h

theorem keptWhere_onSlot {sl j : Nat} (h : s.Kept t) : s.KeptWhere (s.onSlot sl j t) (s.hasSlot sl j) :=
  keptWhere_bit_next h

theorem keptWhere_onIndex {i n : Nat} (h : s.Kept t) : s.KeptWhere (s.onIndex i n t) (decide (i < n)) :=
  keptWhere_guard_next h

/-- A command of the fabric port, which a build without chip windows does not have (R24). -/
theorem keptWhere_fabric (h : s.KeptWhere o b) :
    s.KeptWhere (if s.build.chipwin = 0 then .refused .noSuchUnit else o) (decide (s.build.chipwin ≠ 0) && b) := by
  rw [← ite_not]
  exact keptWhere_guard h

theorem keptWhere_onFabric (h : s.Kept t) : s.KeptWhere (s.onFabric t) (decide (s.build.chipwin ≠ 0)) := by
  have hf := keptWhere_fabric (keptWhere_next h)
  rwa [Bool.and_true] at hf

/-- The slice whose power a command concerns exists; the complex always does. -/
def State.hasTarget (s : State) : PowerTarget → Bool
  | .slice sl => s.hasSlice sl
  | .complex => true

theorem keptWhere_onTarget {k : PowerTarget} (h : s.Kept t) (hb : s.hasTarget k = b) :
    s.KeptWhere (s.onTarget k t) b := by
  subst hb
  cases k with
  | slice => exact keptWhere_onSlice h
  | complex => exact keptWhere_next h

end

/-! ### The commands, family by family -/

theorem exec_keptWhere_of_registersOnly (c : Instr) (s : State) (hc : c.registersOnly = true) :
    s.KeptWhere (exec c s) (c.reaches s) := by
  have r := kept_refl s
  cases c with
  | rhyTableWrite => exact keptWhere_guard (keptWhere_onSlice (rhyTable_kept r ..))
  | rhyCtrlWrite => exact keptWhere_onSlice (rhyCtrl_kept r ..)
  | htabStageWrite => exact keptWhere_guard_next (htabStage_kept r ..)
  | syswinWrite => exact keptWhere_guard_next (csrAccess_kept r _ _ _ fun _ h => storeSyswin_kept h ..)
  | strkSeedWrite => exact keptWhere_guard (keptWhere_onSlice (csrAccess_kept r _ _ _ fun _ h => storeSeed_kept h ..))
  | semOpSignal => exact keptWhere_onSlice (csrAccess_kept r _ _ _ fun _ h => semSignal_kept h ..)
  | errorRecordWrite => exact keptWhere_next (recordWrite_kept r ..)
  | errRdWrite => exact keptWhere_next (csrAccess_kept r _ _ _ fun _ h => storeErrRd_kept h ..)
  | errFirstclr => exact keptWhere_next (csrAccess_kept r _ _ _ fun _ h => storeErrStat_kept h ..)
  | scrubCtlGo | scrubCtlStop => exact keptWhere_onSlice (scrubCtl_kept r ..)
  | belfryChallenge => exact keptWhere_next (challenge_kept r ..)
  | tunerChexpGo => exact keptWhere_next (chexpGo_kept r ..)
  | sliceDampRequest | sliceOffRequest | slicePlayRequest => exact keptWhere_onSlice (reqSlice_kept r ..)
  | cplxDampRequest | cplxTapRequest | cplxPlayRequest => exact keptWhere_next (reqCplx_kept r ..)
  | wakeEvent k => exact keptWhere_onTarget (wakeEvent_kept r ..) (by cases k <;> rfl)
  | pwrVreqGo | pwrVreqClr => exact keptWhere_next (csrAccess_kept r _ _ _ fun _ h => storeVreq_kept h ..)
  | fpRdataIn => exact keptWhere_onFabric (fpTake_kept r _ fun _ h => ite_of _ (absorb_kept h) (absorbRsp_kept h))
  | fpBadPacket => exact keptWhere_onFabric (fpTake_kept r _ fun _ h => ite_of _ (absorb_kept h) h)
  | _ => cases hc

theorem exec_keptWhere_of_engineOnly (c : Instr) (s : State) (hc : c.engineOnly = true) :
    s.KeptWhere (exec c s) (c.reaches s) := by
  have r := kept_refl s
  cases c with
  | clkMeasureWindow => exact keptWhere_next (measure_kept r ..)
  | mChange => exact keptWhere_next (changeM_kept r ..)
  | mergeDrainAge => exact keptWhere_guard (keptWhere_onSlice (drainAge_kept r ..))
  | historyExpire => exact keptWhere_guard (keptWhere_onSlice (historyExpire_kept r ..))
  | burstRelease => exact keptWhere_guard (keptWhere_onSlice (releaseBurst_kept r ..))
  | shareWindowStart => exact keptWhere_next (windowStart_kept r ..)
  | mcastStrokeSend =>
    refine keptWhere_onIndex ?_
    split
    · exact strokeSend_kept (pumpEngine_kept r ..) ..
    · exact r
  | mcastAckMerge => exact keptWhere_onIndex (ackMerge_kept r ..)
  | mcastResend => exact keptWhere_onIndex (strokeResend_kept r ..)
  | mcastShed => exact keptWhere_guard (keptWhere_onSlice (shed_kept r ..))
  | stopComplete => exact keptWhere_onSlot (stopEnds_kept r ..)
  | slotPaused => exact keptWhere_onSlot (slotPause_kept r ..)
  | instrFetchArrive => exact keptWhere_onSlot (fetchArrives_kept r ..)
  | descBurstArrive => exact keptWhere_onSlot (descArrives_kept r ..)
  | nop => exact keptWhere_onSlot (decode_kept r _ _ _ _ fun _ _ h => nextPc_kept h ..)
  | halt => exact keptWhere_onSlot (leadFollow_kept r _ _ _ _ _ fun _ _ h => haltExec_kept h ..)
  | loop => exact keptWhere_onSlot (decode_kept r _ _ _ _ fun _ _ h => loopInstr_kept h ..)
  | endl => exact keptWhere_onSlot (decode_kept r _ _ _ _ fun _ _ h => endlInstr_kept h ..)
  | jump => exact keptWhere_onSlot (decode_kept r _ _ _ _ fun _ _ h => jumpInstr_kept h ..)
  | seth => exact keptWhere_onSlot (decode_kept r _ _ _ _ fun _ _ h => sethInstr_kept h ..)
  | sets => exact keptWhere_onSlot (decode_kept r _ _ _ _ fun _ _ h => setsInstr_kept h ..)
  | wait => exact keptWhere_onSlot (decode_kept r _ _ _ _ fun _ _ h => waitInstr_kept h ..)
  | waitSatisfied => exact keptWhere_onSlot (waitAgain_kept r ..)
  | signal => exact keptWhere_onSlot (leadFollow_kept r _ _ _ _ _ fun _ _ h => signalExec_kept h ..)
  | waitbeat => exact keptWhere_onSlot (decode_kept r _ _ _ _ fun _ _ h => waitbeatInstr_kept h ..)
  | deadline => exact keptWhere_onSlot (decode_kept r _ _ _ _ fun _ _ h => deadlineInstr_kept h ..)
  | rearm => exact keptWhere_onSlot (decode_kept r _ _ _ _ fun _ _ h => modSlot_kept (pushInst_kept h ..) ..)
  | rearmExecute => exact keptWhere_onSlot (follow_kept r _ _ _ _ fun _ _ h => rearmExec_kept h ..)
  | move | remote | toll => exact keptWhere_onSlot (pumpEngine_kept (blockOp_kept r ..) ..)
  | mcast => exact keptWhere_onSlot (pumpEngine_kept (decode_kept r _ _ _ _ fun _ _ h => mcastInstr_kept h ..) ..)
  | fill | copy | accin | convert | gemv | reduce | wipe => exact keptWhere_onSlot (blockOp_kept r ..)
  | scrub => exact keptWhere_onSlot (scrubPump_kept (blockOp_kept r ..) ..)
  | illegalOp => exact keptWhere_onSlot (illegal_kept r ..)
  | instructionRetire => exact keptWhere_onSlot (retire_kept r ..)
  | seAccessResponse => exact keptWhere_onSlot (accAnswer_kept r ..)
  | fencedReissue =>
    exact keptWhere_onSlot (ite_of _ (reissue_kept r ..) (ite_of _ r (ite_of _ (resendOut_kept r ..) r)))
  | strikeStep => exact keptWhere_guard (keptWhere_onSlice (strikeOn_kept r ..))
  | accumTake => exact keptWhere_onSlot (takeAccs_kept r ..)
  | reductionTree => exact keptWhere_onSlot (reduceTree_kept r ..)
  | errorRecordWrite => exact keptWhere_next (recordWrite_kept r ..)
  | ceWindowEnd => exact keptWhere_onSlice (ceEnds_kept r ..)
  | scrubPassComplete => exact keptWhere_onSlice (passEnds_kept r ..)
  | killComplete => exact keptWhere_onIndex (killComplete_kept r ..)
  | fpPacketSend => exact keptWhere_fabric (keptWhere_onSlot (packetSend_kept r ..))
  | chwinDrainDone => exact keptWhere_onIndex (winDrained_kept r ..)
  | chwinDtmo => exact keptWhere_onIndex (winTimeout_kept r ..)
  | knellSend => exact keptWhere_next (knellSend_kept r ..)
  | _ => cases hc

theorem exec_keptWhere_of_belfryOnly (c : Instr) (s : State) (hc : c.belfryOnly = true) :
    s.KeptWhere (exec c s) (c.reaches s) := by
  have r := kept_refl s
  cases c with
  | mboxInfo => exact keptWhere_next (serve_kept r _ _ fun _ h => info_kept h ..)
  | logRead => exact keptWhere_next (serve_kept r _ _ fun _ h => readLog_kept h ..)
  | dumpDir => exact keptWhere_next (serve_kept r _ _ fun _ h => dumpList_kept h ..)
  | dumpRead => exact keptWhere_next (serve_kept r _ _ fun _ h => readDump_kept h ..)
  | dumpFree => exact keptWhere_next (serve_kept r _ _ fun _ h => dumpRelease_kept h ..)
  | updBegin => exact keptWhere_next (serve_kept r _ _ fun _ h => updateBegin_kept h ..)
  | updData => exact keptWhere_next (serve_kept r _ _ fun _ h => updateData_kept h ..)
  | repairSave => exact keptWhere_next (serve_kept r _ _ fun _ h => saveRepairs_kept h ..)
  | mboxUnknown => exact keptWhere_next (unknownOp_kept r ..)
  | flashPoll => exact keptWhere_next (pollFlash_kept r ..)
  | _ => cases hc

/-- The three families above, and the other commands that read and write nothing that is stored. -/
theorem exec_keptWhere_of_leavesStorage (c : Instr) (s : State) (hc : c.leavesStorage = true) :
    s.KeptWhere (exec c s) (c.reaches s) := by
  by_cases hreg : c.registersOnly = true
  · exact exec_keptWhere_of_registersOnly c s hreg
  by_cases heng : c.engineOnly = true
  · exact exec_keptWhere_of_engineOnly c s heng
  by_cases hbel : c.belfryOnly = true
  · exact exec_keptWhere_of_belfryOnly c s hbel
  have hrest : (c.leavesStorage && !c.registersOnly && !c.engineOnly && !c.belfryOnly) = true := by
    simp [hc, hreg, heng, hbel]
  have r := kept_refl s
  cases c with
  | porRelease => exact keptWhere_next (porRelease_kept r ..)
  | beatStrobe => exact keptWhere_next (beatStrobe_kept r ..)
  | barBoundary => exact keptWhere_next (barBoundary_kept r ..)
  | tableSwitch => exact keptWhere_onSlice (tableSwitch_kept r ..)
  | beatArmedSwitch => exact keptWhere_onSlice (beatSwitch_kept r ..)
  | cpRead | cpWrite | cpReservedOp => exact keptWhere_onPort (accept_kept r ..)
  | cpClvRead | cpClvSignal | cpClvTake => exact keptWhere_onPort (portClave_kept r ..)
  | cpResponse => exact keptWhere_onPort (when_kept r _ _ (presentLocal_kept r ..))
  | cpRemoteResponse => exact keptWhere_onPort (when_kept r _ _ (presentRemote_kept r ..))
  | cpFenceInRaise => exact keptWhere_onPort (fenceInRaise_kept r ..)
  | cpFenceInLower => exact keptWhere_onPort (fenceInLower_kept r ..)
  | portRcRun => exact keptWhere_onSlice (portRc_kept r ..)
  | idFrame => exact keptWhere_onPort (idFrame_kept r ..)
  | idAbsent => exact keptWhere_onPort (idAbsent_kept r ..)
  | idRetry => exact keptWhere_onPort (idRetry_kept r ..)
  | htabCommit => exact keptWhere_onIndex (htabCommit_kept r ..)
  | handleTakesEffect => exact keptWhere_onIndex (takeEffect_kept r ..)
  | spInitResponse => exact keptWhere_next (initResponse_kept r ..)
  | remoteRequestArrive => exact keptWhere_next (requestArrives_kept r ..)
  | qosShareWrite => exact keptWhere_onIndex (shareWrite_kept r ..)
  | csrPealWrite => exact keptWhere_guard_next (csrPeal_kept r ..)
  | memPealWrite => exact keptWhere_guard_next (memPeal_kept r ..)
  | pealComplete => exact keptWhere_next (pealDone_kept r ..)
  | semPairWrite => exact keptWhere_guard (keptWhere_onSlice (csrAccess_kept r _ _ _ fun _ h => storePair_kept h ..))
  | semOpTake => exact keptWhere_onSlice (csrAccess_kept r _ _ _ fun _ h => semTake_kept h ..)
  | tunerPassStart => exact keptWhere_next (passStart_kept r ..)
  | challengeResult => exact keptWhere_next (judge_kept r ..)
  | challengeLate => exact keptWhere_next (challengeLate_kept r ..)
  | tapClkReq => exact keptWhere_next (tapRequest_kept r ..)
  | tapSleep => exact keptWhere_next (tapSleep_kept r ..)
  | avsAck => exact keptWhere_next (avsAck_kept r ..)
  | avsBusyRetry => exact keptWhere_next (avsRetry_kept r ..)
  | avsVoltagePoll => exact keptWhere_next (avsPoll_kept r ..)
  | avsTimeout => exact keptWhere_next (avsTimeout_kept r ..)
  | sensorWindow => exact keptWhere_onSlice (sensorWindow_kept r ..)
  | droopEvent => exact keptWhere_onSlice (droop_kept r ..)
  | imageBoot => exact keptWhere_next (imageBoot_kept r ..)
  | fastCheck => exact keptWhere_next (fastCheck_kept r ..)
  | settingsRead => exact keptWhere_next (settingsRead_kept r ..)
  | fullRelease => exact keptWhere_next (fullRelease_kept r ..)
  | ctxKillWrite => exact keptWhere_next (csrAccess_kept r _ _ _ fun _ h => storeKill_kept h ..)
  | fpWriteIn | fpWritepIn | fpReadIn =>
    exact keptWhere_onFabric (fpTake_kept r _ fun _ h => ite_of _ (absorb_kept h) (fpRequest_kept h ..))
  | fpKnellIn => exact keptWhere_onFabric (knellIn_kept r ..)
  | chwinOpen | chwinClose => exact keptWhere_onIndex (csrAccess_kept r _ _ _ fun _ h => storeWinCtl_kept h ..)
  | fpKnellGo => exact keptWhere_next (csrAccess_kept r _ _ _ fun _ h => storeKnell_kept h ..)
  | mboxSensors => exact keptWhere_next (serve_kept r _ _ fun _ h => sensors_kept h ..)
  | dumpCapture => exact keptWhere_next (serve_kept r _ _ fun _ h => capture_kept h ..)
  | updEnd => exact keptWhere_next (serve_kept r _ _ fun _ h => updateEnd_kept h ..)
  | lcNonce => exact keptWhere_next (serve_kept r _ _ fun _ h => drawNonce_kept h ..)
  | lcChange => exact keptWhere_next (serve_kept r _ _ fun _ h => lifeChange_kept h ..)
  | mboxNotServing => exact keptWhere_next (earlyGo_kept r ..)
  | flashTimeout => exact keptWhere_next (flashLate_kept r ..)
  | belfryTrap => exact keptWhere_next (trap_kept r ..)
  | logRecord => exact keptWhere_next (logRecord_kept r ..)
  | stageB7RollCall => exact keptWhere_next (rollCall_kept r ..)
  | _ => cases hrest

/-- Every command completes where the part that it names exists, and keeps what no command changes. -/
theorem exec_keptWhere (c : Instr) (s : State) : s.KeptWhere (exec c s) (c.reaches s) := by
  by_cases hsto : c.leavesStorage = true
  · exact exec_keptWhere_of_leavesStorage c s hsto
  by_cases heng : c.engineOnly = true
  · exact exec_keptWhere_of_engineOnly c s heng
  have hrest : (!c.leavesStorage && !c.engineOnly) = true := by simp [hsto, heng]
  have r := kept_refl s
  cases c with
  | resetInputLow => exact keptWhere_next (inputLow_kept r ..)
  | clkOkFall => exact keptWhere_next (clkFall_kept r ..)
  | beatVisible => exact keptWhere_next (beatVisible_kept r ..)
  | rhyPfenceWrite => exact keptWhere_onSlice (rhyPfence_kept r ..)
  | requestIssue => exact keptWhere_bit (keptWhere_onSlice (when_kept r _ _ (issueAt_kept r ..)))
  | maintenanceClk => exact keptWhere_guard (keptWhere_onSlice (when_kept r _ _ (maintenance_kept r ..)))
  | rowRetire => exact keptWhere_guard (keptWhere_onSlice (rowRetire_kept r ..))
  | eccRetireRun => exact keptWhere_onSlice (eccRetire_kept r ..)
  | ctxE0Write => exact keptWhere_onIndex (ctxE0_kept r ..)
  | ctxKnextWrite => exact keptWhere_onIndex (ctxKnext_kept r ..)
  | ownXferGo => exact keptWhere_onSlice (csrAccess_kept r _ _ _ fun _ h => storeXfer_kept h ..)
  | handoverDrainEnd => exact keptWhere_onSlice (handoverDrainEnd_kept r ..)
  | handoverComplete => exact keptWhere_onSlice (handoverComplete_kept r ..)
  | drainTimeout of =>
    cases of with
    | handover => exact keptWhere_onSlice (handoverTimeout_kept r ..)
    | unit => exact keptWhere_next (resetTimeout_kept r)
    | kill => exact keptWhere_onIndex (killTimeout_kept r ..)
  | spTargetRead | spTargetWrite => exact keptWhere_guard_next (spRequest_kept r ..)
  | spTargetBadOp => exact keptWhere_guard_next (badOp_kept r ..)
  | spTargetResponse => exact keptWhere_next (spRespond_kept r ..)
  | remoteResponseArrive => exact keptWhere_next (responseArrives_kept r ..)
  | pealDeliver => exact keptWhere_onSlice (pealArrives_kept r ..)
  | mcastLand => exact keptWhere_guard (keptWhere_onSlice (strokeLand_kept r ..))
  | seArm | seResume | seStop => exact keptWhere_onSlot (ctlWrite_kept r ..)
  | slotStart => exact keptWhere_onSlot (slotStart_kept r ..)
  | mark => exact keptWhere_onSlot (leadFollow_kept r _ _ _ _ _ fun _ _ h => markExec_kept h ..)
  | knext => exact keptWhere_onSlot (leadFollow_kept r _ _ _ _ _ fun _ _ h => knextExec_kept h ..)
  | guardHeldRetry => exact keptWhere_onSlot (when_kept r _ _ (guardRetry_kept r ..))
  | tunerScanEnd => exact keptWhere_onIndex (scanEnd_kept r ..)
  | tunerReloadDone => exact keptWhere_onIndex (reloadDone_kept r ..)
  | tunerRecheck | tunerRebase => exact keptWhere_onIndex (csrAccess_kept r _ _ _ fun _ h => storeRegion_kept h ..)
  | powerEntryStep k => exact keptWhere_onTarget (entryDone_kept r ..) (by cases k <;> rfl)
  | wakeStepReady k => exact keptWhere_onTarget (wakeReady_kept r ..) (by cases k <;> rfl)
  | wakeStepTimeout k => exact keptWhere_onTarget (wakeTimeout_kept r ..) (by cases k <;> rfl)
  | offRestoreDone => exact keptWhere_onSlice (restoreDone_kept r ..)
  | tapBurst => exact keptWhere_next (tapWake_kept r ..)
  | fuseCopy => exact keptWhere_next (fuseCopy_kept r ..)
  | hardwareFill => exact keptWhere_next (hardwareFill_kept r ..)
  | bist => exact keptWhere_next (bist_kept r ..)
  | repairApply => exact keptWhere_next (repairApply_kept r ..)
  | settingsCommit => exact keptWhere_next (commitSettings_kept r ..)
  | portReset => exact keptWhere_onPort (startReset_kept r ..)
  | engineReset | sliceReset => exact keptWhere_onSlice (startReset_kept r ..)
  | partitionReset => exact keptWhere_onIndex (startReset_kept r ..)
  | warmReset | belfryReset | fullReset => exact keptWhere_next (startReset_kept r ..)
  | resetDrainEnd => exact keptWhere_next (resetDrained_kept r ..)
  | killMarkArrive => exact keptWhere_guard (keptWhere_onSlice (killMark_kept r ..))
  | killDrainEnd => exact keptWhere_onIndex (killDrainEnd_kept r ..)
  | ctxSoloWrite => exact keptWhere_next (csrAccess_kept r _ _ _ fun _ h => storeSolo_kept h ..)
  | fpWrspIn =>
    refine keptWhere_onFabric (fpTake_kept r _ fun _ h => ite_of _ (absorb_kept h) ?_)
    split
    · exact outAnswer_kept h ..
    · exact absorbRsp_kept h
  | mboxCommandDone => exact keptWhere_next (commandDone_kept r ..)
  | csrWrite => exact keptWhere_next (csrWrite_kept r ..)
  | _ => cases hrest

/-- Settles O5, from the guard and the operation of each command. -/
theorem everyCommandKeeps : Obligations.EveryCommandKeeps := by
  unfold Obligations.EveryCommandKeeps
  exact fun c s => exec_keptWhere c s

/-! ### Steps -/

section
variable {s : State}

theorem step_of_pending_nil (h : s.pending = []) : step s = .next s.tick := by
  unfold step
  rw [h]

theorem step_of_pending_cons {c : Instr} {rest : List Instr} (h : s.pending = c :: rest) :
    step s = exec c { s with pending := rest } := by
  unfold step
  rw [h]

/-- The canonical form says nothing of the queue. -/
theorem State.canon_withPending (h : s.Canon) (rest : List Instr) : ({ s with pending := rest } : State).Canon := h

end

/-- Settles O6: on an empty queue a clk passes, and otherwise `exec_keptWhere` speaks of the state without the front of
the queue. -/
theorem everyStepKeeps : Obligations.EveryStepKeeps := by
  unfold Obligations.EveryStepKeeps
  intro s t hstep
  cases hq : s.pending with
  | nil =>
    cases (step_of_pending_nil hq).symm.trans hstep
    obtain ⟨hbuild, hfuse, hpending, hcanon⟩ := tick_kept (kept_refl s)
    exact ⟨hcanon, hbuild, hfuse, hpending.trans hq⟩
  | cons c rest =>
    rw [step_of_pending_cons hq] at hstep
    obtain ⟨hbuild, hfuse, hpending, hcanon⟩ := (exec_keptWhere c { s with pending := rest }).kept_of_next hstep
    exact ⟨fun h => hcanon (canon_withPending h rest), hbuild, hfuse, hpending⟩

end Sys2Proof.Machine
end

section
/-! SUPPORT. The code of a stored word (R38, R39): its check bits are linear, so that what a decode finds depends on the
data and on the syndrome of the error alone, and the syndromes of the errors that it corrects are all different. -/

namespace Sys2Proof.Machine

/-! ### Linearity of the check bits -/

theorem ite_xor (m : BitVec 16) (p q : Bool) :
    (if xor p q then m else 0) = (if p then m else 0) ^^^ (if q then m else 0) := by
  cases p <;> cases q <;> simp

theorem xorMasks_xor {n : Nat} (u v : BitVec n) (l : List (BitVec 16)) (i : Nat) :
    xorMasks (u ^^^ v) l i = xorMasks u l i ^^^ xorMasks v l i := by
  induction l generalizing i with
  | nil => exact BitVec.xor_self.symm
  | cons m l ih =>
    simp only [xorMasks, ih, BitVec.getLsbD_xor, ite_xor]
    ac_rfl

theorem checkBits_xor (d e : Word) (a c : BitVec 16) :
    checkBits (d ^^^ e) (a ^^^ c) = checkBits d a ^^^ checkBits e c := by
  simp only [checkBits, xorMasks_xor]
  ac_rfl

/-- The syndrome that an error leaves: `e` inverts bits of the stored word, `c` bits of the folded address. -/
def errorSyndrome (e : BitVec 80) (c : BitVec 16) : BitVec 16 := e.extractLsb' 64 16 ^^^ checkBits (e.extractLsb' 0 64) c

theorem errorSyndrome_xor (e f : BitVec 80) (c g : BitVec 16) :
    errorSyndrome (e ^^^ f) (c ^^^ g) = errorSyndrome e c ^^^ errorSyndrome f g := by
  simp only [errorSyndrome, BitVec.extractLsb'_xor, checkBits_xor]
  ac_rfl

/-! ### What a decode depends on -/

/-- What a decode makes of data `d` whose syndrome is `syn` (R39). -/
def correctWord (d : Word) (syn : BitVec 16) : Decoded :=
  if syn = 0 then { data := d, bits := 0, bad := false, poison := false, syn := syn }
  else match oneBit syn positions with
    | some f => { data := d ^^^ f, bits := 1, bad := false, poison := false, syn := syn }
    | none => match twoBits syn positions with
      | some f => { data := d ^^^ f, bits := 2, bad := false, poison := false, syn := syn }
      | none => { data := 0, bits := 0, bad := true, poison := syn = poisonSyn, syn := syn }

theorem decodeWord_eq_correctWord (w : BitVec 80) (a : BitVec 16) :
    decodeWord w a = correctWord (w.extractLsb' 0 64) (w.extractLsb' 64 16 ^^^ checkBits (w.extractLsb' 0 64) a) := rfl

/-- A coded word with an error in stored bits and in the address at which it is read. -/
theorem decodeWord_codeWord_xor (d : Word) (a c : BitVec 16) (e : BitVec 80) :
    decodeWord (codeWord d a ^^^ e) (a ^^^ c) = correctWord (d ^^^ e.extractLsb' 0 64) (errorSyndrome e c) := by
  have hdata : (codeWord d a ^^^ e).extractLsb' 0 64 = d ^^^ e.extractLsb' 0 64 := by
    rw [BitVec.extractLsb'_xor, codeWord, BitVec.extractLsb'_append_eq_of_add_le (by omega), BitVec.extractLsb'_eq_self]
  have hcheck : (codeWord d a ^^^ e).extractLsb' 64 16 = checkBits d a ^^^ e.extractLsb' 64 16 := by
    rw [BitVec.extractLsb'_xor, codeWord, BitVec.extractLsb'_append_eq_of_le (by omega), BitVec.extractLsb'_eq_self]
  have hsyn : checkBits d a ^^^ e.extractLsb' 64 16 ^^^ (checkBits d a ^^^ checkBits (e.extractLsb' 0 64) c) =
      checkBits d a ^^^ checkBits d a ^^^ errorSyndrome e c := by
    unfold errorSyndrome
    ac_rfl
  rw [decodeWord_eq_correctWord, hdata, hcheck, checkBits_xor, hsyn, BitVec.xor_self, BitVec.zero_xor]

/-- An error in stored bits alone. -/
theorem decodeWord_of_error (d : Word) (a : BitVec 16) (e : BitVec 80) :
    decodeWord (codeWord d a ^^^ e) a = correctWord (d ^^^ e.extractLsb' 0 64) (errorSyndrome e 0) := by
  simpa using decodeWord_codeWord_xor d a 0 e

/-- An error in the address alone. -/
theorem decodeWord_of_address (d : Word) (a c : BitVec 16) :
    decodeWord (codeWord d a) (a ^^^ c) = correctWord d (checkBits 0 c) := by
  have h := decodeWord_codeWord_xor d a c 0
  simpa [errorSyndrome] using h

/-! ### The errors that a decode corrects -/

/-- The pairs of positions, each with its syndrome and the bits of D that it inverts. -/
def xorPairs : List (BitVec 16 × Word) → List (BitVec 16 × Word)
  | [] => []
  | p :: t => t.map (fun q => (p.1 ^^^ q.1, p.2 ^^^ q.2)) ++ xorPairs t

theorem mem_xorPairs {l : List (BitVec 16 × Word)} {p q : BitVec 16 × Word} (hp : p ∈ l) (hq : q ∈ l) (hne : p ≠ q) :
    (p.1 ^^^ q.1, p.2 ^^^ q.2) ∈ xorPairs l := by
  induction l with
  | nil => cases hp
  | cons x l ih =>
    rw [xorPairs, List.mem_append, List.mem_map]
    rcases List.mem_cons.mp hp with rfl | hp' <;> rcases List.mem_cons.mp hq with rfl | hq'
    · exact absurd rfl hne
    · exact .inl ⟨q, hq', rfl⟩
    · exact .inl ⟨p, hp', by rw [BitVec.xor_comm, BitVec.xor_comm q.2]⟩
    · exact .inr (ih hp' hq')

theorem oneBit_append (syn : BitVec 16) (l r : List (BitVec 16 × Word)) :
    oneBit syn (l ++ r) = (oneBit syn l).or (oneBit syn r) := by
  induction l with
  | nil => rfl
  | cons p l ih =>
    simp only [List.cons_append, oneBit, ih]
    split <;> rfl

/-- The second position of a pair whose first is `p` is the one of syndrome `syn ^^^ p.1`. -/
theorem oneBit_map_xor (syn : BitVec 16) (p : BitVec 16 × Word) (l : List (BitVec 16 × Word)) :
    oneBit syn (l.map fun q => (p.1 ^^^ q.1, p.2 ^^^ q.2)) = (oneBit (syn ^^^ p.1) l).map (p.2 ^^^ ·) := by
  induction l with
  | nil => rfl
  | cons q l ih =>
    have hiff : p.1 ^^^ q.1 = syn ↔ q.1 = syn ^^^ p.1 := by
      rw [← BitVec.xor_left_inj p.1, BitVec.xor_comm p.1, BitVec.xor_assoc, BitVec.xor_self, BitVec.xor_zero]
    simp only [List.map_cons, oneBit, ih, hiff]
    split <;> rfl

theorem twoBits_eq_oneBit_xorPairs (syn : BitVec 16) (l : List (BitVec 16 × Word)) :
    twoBits syn l = oneBit syn (xorPairs l) := by
  induction l with
  | nil => rfl
  | cons p l ih =>
    rw [twoBits, xorPairs, oneBit_append, oneBit_map_xor, ih]
    cases oneBit (syn ^^^ p.1) l <;> rfl

theorem oneBit_eq_none {syn : BitVec 16} {l : List (BitVec 16 × Word)} (h : syn ∉ l.map Prod.fst) :
    oneBit syn l = none := by
  induction l with
  | nil => rfl
  | cons p l ih =>
    rw [List.map_cons, List.mem_cons, not_or] at h
    obtain ⟨hp, hl⟩ := h
    rw [oneBit, if_neg (Ne.symm hp), ih hl]

theorem oneBit_of_mem {p : BitVec 16 × Word} {l : List (BitVec 16 × Word)} (hl : (l.map Prod.fst).Nodup) (hp : p ∈ l) :
    oneBit p.1 l = some p.2 := by
  induction l with
  | nil => cases hp
  | cons q l ih =>
    rw [List.map_cons, List.nodup_cons] at hl
    obtain ⟨hq, hl⟩ := hl
    rcases List.mem_cons.mp hp with rfl | hp
    · rw [oneBit, if_pos rfl]
    · have hne : q.1 ≠ p.1 := fun h => hq (h ▸ List.mem_map_of_mem hp)
      rw [oneBit, if_neg hne, ih hl hp]

/-! ### Their syndromes are all different (R39) -/

/-- The syndromes of at most two wrong bits. -/
def syndromes : List (BitVec 16) := 0 :: (positions.map Prod.fst ++ (xorPairs positions).map Prod.fst)

/-- A set of syndromes, kept as the bits of a number, with `x` put into it. -/
def mark (seen : Nat) (x : BitVec 16) : Nat := seen ||| 2 ^ x.toNat

theorem testBit_mark (seen : Nat) (x y : BitVec 16) :
    (mark seen x).testBit y.toNat = (seen.testBit y.toNat || decide (x = y)) := by
  rw [mark, Nat.testBit_or, Nat.testBit_two_pow]
  simp only [BitVec.toNat_inj]

/-- No element of a list has been seen before it. -/
def noRepeat : Nat → List (BitVec 16) → Bool
  | _, [] => true
  | seen, x :: t => !seen.testBit x.toNat && noRepeat (mark seen x) t

theorem nodup_of_noRepeat {seen : Nat} {l : List (BitVec 16)} (h : noRepeat seen l = true) :
    l.Nodup ∧ ∀ x ∈ l, seen.testBit x.toNat = false := by
  induction l generalizing seen with
  | nil => simp
  | cons x l ih =>
    rw [noRepeat, Bool.and_eq_true, Bool.not_eq_true'] at h
    obtain ⟨hx, hrest⟩ := h
    obtain ⟨hnodup, hunseen⟩ := ih hrest
    simp only [testBit_mark, Bool.or_eq_false_iff, decide_eq_false_iff_not] at hunseen
    refine ⟨List.nodup_cons.mpr ⟨fun hmem => (hunseen x hmem).2 rfl, hnodup⟩, fun y hy => ?_⟩
    rcases List.mem_cons.mp hy with rfl | hy
    · exact hx
    · exact (hunseen y hy).1

theorem nodup_syndromes : syndromes.Nodup := by
  have h : noRepeat 0 syndromes = true := by decide +kernel
  exact (nodup_of_noRepeat h).1

/-! ### The outcomes of a decode -/

theorem correctWord_zero (d : Word) :
    correctWord d 0 = { data := d, bits := 0, bad := false, poison := false, syn := 0 } := rfl

theorem correctWord_of_position (d : Word) {p : BitVec 16 × Word} (hp : p ∈ positions) :
    correctWord d p.1 = { data := d ^^^ p.2, bits := 1, bad := false, poison := false, syn := p.1 } := by
  obtain ⟨hzero, hnodup⟩ := List.nodup_cons.mp nodup_syndromes
  obtain ⟨hsingles, -, -⟩ := List.nodup_append.mp hnodup
  have hmem : p.1 ∈ positions.map Prod.fst := List.mem_map_of_mem hp
  have hne : p.1 ≠ 0 := fun h => hzero (h ▸ List.mem_append_left _ hmem)
  rw [correctWord, if_neg hne, oneBit_of_mem hsingles hp]

theorem correctWord_of_pair (d : Word) {p : BitVec 16 × Word} (hp : p ∈ xorPairs positions) :
    correctWord d p.1 = { data := d ^^^ p.2, bits := 2, bad := false, poison := false, syn := p.1 } := by
  obtain ⟨hzero, hnodup⟩ := List.nodup_cons.mp nodup_syndromes
  obtain ⟨-, hpairs, hdisjoint⟩ := List.nodup_append.mp hnodup
  have hmem : p.1 ∈ (xorPairs positions).map Prod.fst := List.mem_map_of_mem hp
  have hne : p.1 ≠ 0 := fun h => hzero (h ▸ List.mem_append_right _ hmem)
  have hsingle : p.1 ∉ positions.map Prod.fst := fun h => hdisjoint _ h _ hmem rfl
  rw [correctWord, if_neg hne, oneBit_eq_none hsingle, twoBits_eq_oneBit_xorPairs,
    oneBit_of_mem hpairs hp]

theorem correctWord_of_not_mem (d : Word) {syn : BitVec 16} (h : syn ∉ syndromes) :
    correctWord d syn = { data := 0, bits := 0, bad := true, poison := syn = poisonSyn, syn := syn } := by
  rw [syndromes, List.mem_cons, List.mem_append, not_or, not_or] at h
  obtain ⟨hzero, hsingle, hpair⟩ := h
  rw [correctWord, if_neg hzero, oneBit_eq_none hsingle, twoBits_eq_oneBit_xorPairs, oneBit_eq_none hpair]

/-! ### Coded words and poison -/

theorem decodeWord_codeWord (d : Word) (a : BitVec 16) :
    decodeWord (codeWord d a) a = { data := d, bits := 0, bad := false, poison := false, syn := 0 } := by
  have hsyn : errorSyndrome 0 0 = 0 := by decide
  have hdecode := decodeWord_of_error d a 0
  rw [hsyn, correctWord_zero] at hdecode
  simpa using hdecode

/-- Poison is D = 0 coded, with the poison syndrome laid over C (R42). -/
theorem poisonWord_eq (a : BitVec 16) : poisonWord a = codeWord 0 a ^^^ (poisonSyn ++ (0 : Word)) := by
  have happend : (checkBits 0 a ++ (0 : Word)) ^^^ (poisonSyn ++ (0 : Word)) =
      (checkBits 0 a ^^^ poisonSyn) ++ ((0 : Word) ^^^ 0) := BitVec.xor_append
  exact (BitVec.xor_self (x := (0 : Word)) ▸ happend).symm

theorem poisonSyn_not_mem_syndromes : poisonSyn ∉ syndromes := by decide +kernel

theorem decodeWord_poisonWord (a : BitVec 16) :
    decodeWord (poisonWord a) a = { data := 0, bits := 0, bad := true, poison := true, syn := poisonSyn } := by
  have hsyn : errorSyndrome (poisonSyn ++ (0 : Word)) 0 = poisonSyn := by decide
  rw [poisonWord_eq, decodeWord_of_error, hsyn, correctWord_of_not_mem _ poisonSyn_not_mem_syndromes]
  simp

end Sys2Proof.Machine
end

section
/-! PROOF. Stored words under wrong bits and wrong addresses (O17, O18, O19). -/

namespace Sys2Proof.Machine

/-! ### Wrong stored bits -/

/-- The position of stored bit `i`: the syndrome of its inversion and what this does to D. -/
def positionOf (i : Nat) : BitVec 16 × Word := (errorSyndrome (1#80 <<< i) 0, (1#80 <<< i).extractLsb' 0 64)

/-- The stored bits in the order of `positions`: those of C, then those of D (R37). -/
def storedBits : List Nat := (List.range 16).map (64 + ·) ++ List.range 64

theorem mem_storedBits {i : Nat} (h : i < 80) : i ∈ storedBits := by
  rw [storedBits, List.mem_append, List.mem_map]
  rcases Nat.lt_or_ge i 64 with hd | hc
  · exact .inr (List.mem_range.mpr hd)
  · exact .inl ⟨i - 64, List.mem_range.mpr (by omega), by omega⟩

theorem positions_eq_map_positionOf : positions = storedBits.map positionOf := by decide +kernel

theorem positionOf_mem {i : Nat} (h : i < 80) : positionOf i ∈ positions :=
  positions_eq_map_positionOf ▸ List.mem_map_of_mem (mem_storedBits h)

theorem eq_of_nodup_map {α β : Type} {f : α → β} {l : List α} (h : (l.map f).Nodup) {x y : α} (hx : x ∈ l) (hy : y ∈ l)
    (hf : f x = f y) : x = y := by
  induction l with
  | nil => cases hx
  | cons a l ih =>
    rw [List.map_cons, List.nodup_cons] at h
    obtain ⟨ha, hl⟩ := h
    rcases List.mem_cons.mp hx with rfl | hx' <;> rcases List.mem_cons.mp hy with rfl | hy'
    · rfl
    · exact absurd (hf ▸ List.mem_map_of_mem hy') ha
    · exact absurd (hf ▸ List.mem_map_of_mem hx') ha
    · exact ih hl hx' hy'

theorem positionOf_ne {i j : Nat} (hij : i < j) (hj : j < 80) : positionOf i ≠ positionOf j := by
  intro heq
  obtain ⟨hsingles, -, -⟩ := List.nodup_append.mp (List.nodup_cons.mp nodup_syndromes).2
  rw [positions_eq_map_positionOf, List.map_map] at hsingles
  have hi := eq_of_nodup_map hsingles (mem_storedBits (Nat.lt_trans hij hj)) (mem_storedBits hj) (congrArg Prod.fst heq)
  omega

/-- One wrong bit is corrected. -/
theorem decodeWord_of_one_wrong_bit (d : Word) (a : BitVec 16) {i : Nat} (h : i < 80) :
    decodeWord (codeWord d a ^^^ (1#80 <<< i)) a =
      { data := d, bits := 1, bad := false, poison := false, syn := (positionOf i).1 } := by
  rw [decodeWord_of_error]
  refine (correctWord_of_position _ (positionOf_mem h)).trans ?_
  rw [positionOf, BitVec.xor_assoc, BitVec.xor_self, BitVec.xor_zero]

/-- Two wrong bits are corrected. -/
theorem decodeWord_of_two_wrong_bits (d : Word) (a : BitVec 16) {i j : Nat} (hij : i < j) (hj : j < 80) :
    decodeWord (codeWord d a ^^^ (1#80 <<< i) ^^^ (1#80 <<< j)) a =
      { data := d, bits := 2, bad := false, poison := false, syn := (positionOf i).1 ^^^ (positionOf j).1 } := by
  have hsyn : errorSyndrome (1#80 <<< i ^^^ 1#80 <<< j) 0 = (positionOf i).1 ^^^ (positionOf j).1 :=
    errorSyndrome_xor _ _ 0 0
  rw [BitVec.xor_assoc, decodeWord_of_error, hsyn, BitVec.extractLsb'_xor]
  have hpair := mem_xorPairs (positionOf_mem (Nat.lt_trans hij hj)) (positionOf_mem hj) (positionOf_ne hij hj)
  refine (correctWord_of_pair _ hpair).trans ?_
  simp only [positionOf, BitVec.xor_assoc, BitVec.xor_self, BitVec.xor_zero]

/-- Settles O17: each word decodes to an outcome given by the syndrome of its error. -/
theorem storedWordDecodes : Obligations.StoredWordDecodes := by
  unfold Obligations.StoredWordDecodes
  refine ⟨fun d a => ?_, fun d a i hi => ?_, fun a => ?_⟩
  · simp [decodeWord_codeWord]
  · simp [decodeWord_of_one_wrong_bit d a hi]
  · simp [decodeWord_poisonWord]

/-- Settles O18: the syndrome of the two bits is that of no other pair, of no position and not 0. -/
theorem twoWrongBitsAreCorrected : Obligations.TwoWrongBitsAreCorrected := by
  unfold Obligations.TwoWrongBitsAreCorrected
  intro d a i j hij hj
  simp [decodeWord_of_two_wrong_bits d a hij hj]

/-! ### Wrong addresses -/

/-- Address bit `i` inverted: the change of the address, and the syndrome that it leaves. -/
def addressFlip (i : Nat) : BitVec 16 × BitVec 16 := (1#16 <<< i, checkBits 0 (1#16 <<< i))

/-- No address bit, or one, inverted. -/
def addressFlips : List (BitVec 16 × BitVec 16) := (0, 0) :: (List.range 16).map addressFlip

theorem snd_of_mem_addressFlips {x : BitVec 16 × BitVec 16} (h : x ∈ addressFlips) : x.2 = checkBits 0 x.1 := by
  rcases List.mem_cons.mp h with rfl | h
  · rfl
  · obtain ⟨i, -, rfl⟩ := List.mem_map.mp h
    rfl

theorem addressFlip_mem {i : Nat} (h : i < 16) : addressFlip i ∈ addressFlips :=
  List.mem_cons_of_mem _ (List.mem_map_of_mem (List.mem_range.mpr h))

theorem testBit_foldl_mark (l : List (BitVec 16)) (seen : Nat) (x : BitVec 16) :
    (l.foldl mark seen).testBit x.toNat = (seen.testBit x.toNat || decide (x ∈ l)) := by
  induction l generalizing seen with
  | nil => simp
  | cons y l ih => simp [ih, testBit_mark, Bool.or_assoc, eq_comm (a := x)]

/-- The syndromes of one, two or three address bits, none of them marked. -/
theorem addressFlips_unmarked : (addressFlips.all fun x => addressFlips.all fun y => addressFlips.all fun z =>
    decide (x.1 ^^^ y.1 ^^^ z.1 = 0) || !(syndromes.foldl mark 0).testBit (x.2 ^^^ y.2 ^^^ z.2).toNat) = true := by
  decide +kernel

section
variable {x y z : BitVec 16 × BitVec 16} (hx : x ∈ addressFlips) (hy : y ∈ addressFlips) (hz : z ∈ addressFlips)
  (hne : x.1 ^^^ y.1 ^^^ z.1 ≠ 0)
include hx hy hz hne

/-- An address that is wrong in one, two or three bits leaves the syndrome of no error that a decode corrects. -/
theorem checkBits_not_mem_syndromes : checkBits 0 (x.1 ^^^ y.1 ^^^ z.1) ∉ syndromes := by
  have hlin : checkBits 0 (x.1 ^^^ y.1 ^^^ z.1) = x.2 ^^^ y.2 ^^^ z.2 := by
    rw [snd_of_mem_addressFlips hx, snd_of_mem_addressFlips hy, snd_of_mem_addressFlips hz, ← checkBits_xor,
      ← checkBits_xor]
    rfl
  have hunmarked := List.all_eq_true.mp (List.all_eq_true.mp (List.all_eq_true.mp addressFlips_unmarked x hx) y hy) z hz
  rw [Bool.or_eq_true, decide_eq_true_eq, Bool.not_eq_true', ← hlin, testBit_foldl_mark, Bool.or_eq_false_iff,
    decide_eq_false_iff_not] at hunmarked
  exact (hunmarked.resolve_left hne).2

/-- A word read at an address that is wrong in one, two or three bits is uncorrectable (R40). -/
theorem decodeWord_of_wrong_address (d : Word) (a : BitVec 16) :
    (decodeWord (codeWord d a) (a ^^^ (x.1 ^^^ y.1 ^^^ z.1))).bad = true ∧
      (decodeWord (codeWord d a) (a ^^^ (x.1 ^^^ y.1 ^^^ z.1))).data = 0 := by
  rw [decodeWord_of_address, correctWord_of_not_mem d (checkBits_not_mem_syndromes hx hy hz hne)]
  exact ⟨rfl, rfl⟩

end

/-- Bit `i` stays inverted where the other two inversions are both of it or neither is. -/
theorem flips_ne_zero {i j k : Nat} (hi : i < 16) (hjk : i = j ↔ i = k) :
    1#16 <<< i ^^^ 1#16 <<< j ^^^ 1#16 <<< k ≠ 0 := by
  intro h
  have hbit := congrArg (·.getLsbD i) h
  by_cases hij : i = j
  · simp [← BitVec.twoPow_eq, hi, ← hij, ← hjk.mp hij] at hbit
  · simp [← BitVec.twoPow_eq, hi, hjk] at hbit

/-- Settles O19: the syndrome is that of no error that a decode corrects. -/
theorem wrongAddressIsReported : Obligations.WrongAddressIsReported := by
  unfold Obligations.WrongAddressIsReported
  intro d a i j k hi hj hk hjk _
  rw [BitVec.xor_assoc, BitVec.xor_assoc, ← BitVec.xor_assoc (1#16 <<< i)]
  exact decodeWord_of_wrong_address (addressFlip_mem hi) (addressFlip_mem hj) (addressFlip_mem hk)
    (flips_ne_zero hi hjk) d a

end Sys2Proof.Machine
end

section
/-! SUPPORT. Cells, stored words and W bits of a bank: each reads as it was last written (R34 to R37, R44, R56). -/

namespace Sys2Proof.Machine

open State

/-! ### Cells -/

theorem getLsbD_setBitIf {w : Nat} (v : BitVec w) (p : Bool) (k i : Nat) :
    (if p then v ||| (1#w <<< k) else v).getLsbD i = (v.getLsbD i || p && (decide (k < w) && decide (k = i))) := by
  cases p <;> simp [← BitVec.twoPow_eq]

/-- The word whose bits a test gives. -/
theorem getLsbD_foldl_bits {w : Nat} (f : Nat → Bool) (n i : Nat) (hn : n ≤ w) :
    ((List.range n).foldl (fun (v : BitVec w) k => if f k then v ||| (1#w <<< k) else v) 0).getLsbD i =
      (decide (i < n) && f i) := by
  induction n with
  | zero => simp
  | succ n ih =>
    have hnw : n < w := hn
    rw [List.range_succ, List.foldl_append, List.foldl_cons, List.foldl_nil, getLsbD_setBitIf, ih (by omega)]
    by_cases hni : n = i
    · simp [hni, hni ▸ hnw]
    · simp [hni, show i < n + 1 ↔ i < n by omega]

/-- A bit of a byte of the cell arrays. -/
def Mem.cellBit (m : Mem) (c : Nat × Nat) : Bool := (m.cell c.1).getLsbD c.2

/-- Writes a bit of a byte of the cell arrays. -/
def Mem.putCellBit (m : Mem) (c : Nat × Nat) (v : Bool) : Mem :=
  m.putCell c.1 (if v then m.cell c.1 ||| (1#8 <<< c.2) else m.cell c.1 &&& ~~~(1#8 <<< c.2))

theorem Mem.cell_putCell (m : Mem) (k k' : Nat) (v : Byte) : (m.putCell k v).cell k' = if k' = k then v else m.cell k' :=
  Tbl.get_put _ _ _ _ _ _ fun h => h ▸ rfl

theorem Mem.cellBit_putCellBit (m : Mem) {c c' : Nat × Nat} (v : Bool) (hc : c.2 < 8) (hc' : c'.2 < 8) :
    (m.putCellBit c v).cellBit c' = if c' = c then v else m.cellBit c' := by
  unfold Mem.cellBit Mem.putCellBit
  rw [Mem.cell_putCell]
  by_cases hk : c'.1 = c.1
  · by_cases hb : c'.2 = c.2
    · cases v <;> simp [Prod.ext_iff, hk, hb, ← BitVec.twoPow_eq, hc]
    · cases v <;> simp [Prod.ext_iff, hk, hb, ← BitVec.twoPow_eq, hc']
  · simp [Prod.ext_iff, hk]

section
variable (m : Mem) (sl b mac row : Nat)

theorem Mem.cellGroup_lt {bit : Nat} (h : bit < 80) : m.cellGroup sl b mac bit < 81 := by
  unfold Mem.cellGroup
  split <;> omega

/-- One spare group serves at most one stored bit. -/
theorem Mem.cellGroup_inj {i j : Nat} (hi : i < 80) (hj : j < 80) (h : m.cellGroup sl b mac i = m.cellGroup sl b mac j) :
    i = j := by
  unfold Mem.cellGroup at h
  split at h <;> split at h <;> omega

theorem Mem.cellAt_snd_lt (slot bit : Nat) : (m.cellAt sl b mac row slot bit).2 < 8 := Nat.mod_lt _ (by omega)

/-- The bits of the words of a row lie in different cells, whatever the repair map holds. -/
theorem Mem.cellAt_eq_iff {slot slot' i j : Nat} (hs : slot < 16) (hs' : slot' < 16) (hi : i < 80) (hj : j < 80) :
    m.cellAt sl b mac row slot i = m.cellAt sl b mac row slot' j ↔ slot = slot' ∧ i = j := by
  refine ⟨fun h => ?_, fun ⟨hslot, hbit⟩ => by rw [hslot, hbit]⟩
  obtain ⟨hkey, hcol⟩ := Prod.ext_iff.mp h
  simp only [Mem.cellAt, cellKey] at hkey hcol
  have hgi := m.cellGroup_lt sl b mac hi
  have hgj := m.cellGroup_lt sl b mac hj
  exact ⟨by omega, m.cellGroup_inj sl b mac hi hj (by omega)⟩

/-! ### Words of a row -/

theorem Mem.getLsbD_word80 (slot i : Nat) :
    (m.word80 sl b mac row slot).getLsbD i = (decide (i < 80) && m.cellBit (m.cellAt sl b mac row slot i)) :=
  getLsbD_foldl_bits (fun bit => m.cellBit (m.cellAt sl b mac row slot bit)) 80 i (by omega)

/-- The first `n` bits of a word written to a word slot. -/
def Mem.putBits (slot : Nat) (w : BitVec 80) (n : Nat) : Mem :=
  (List.range n).foldl (fun t bit => t.putCellBit (t.cellAt sl b mac row slot bit) (w.getLsbD bit)) m

theorem Mem.putWord80_eq_putBits (slot : Nat) (w : BitVec 80) :
    m.putWord80 sl b mac row slot w = m.putBits sl b mac row slot w 80 := rfl

theorem Mem.putBits_succ (slot : Nat) (w : BitVec 80) (n : Nat) : m.putBits sl b mac row slot w (n + 1) =
    (m.putBits sl b mac row slot w n).putCellBit ((m.putBits sl b mac row slot w n).cellAt sl b mac row slot n)
      (w.getLsbD n) := by
  rw [Mem.putBits, List.range_succ, List.foldl_append]
  rfl

/-- Writing cells leaves the repair map, and so the place of every cell. -/
theorem Mem.putBits_cellAt (slot : Nat) (w : BitVec 80) (n : Nat) :
    (m.putBits sl b mac row slot w n).cellAt sl b mac row = m.cellAt sl b mac row := by
  induction n with
  | zero => rfl
  | succ n ih => rw [Mem.putBits_succ]; exact ih

theorem Mem.putBits_wbits (slot : Nat) (w : BitVec 80) (n : Nat) : (m.putBits sl b mac row slot w n).wbits = m.wbits := by
  induction n with
  | zero => rfl
  | succ n ih => rw [Mem.putBits_succ]; exact ih

theorem Mem.cellBit_putBits {slot slot' i n : Nat} (w : BitVec 80) (hs : slot < 16) (hs' : slot' < 16) (hi : i < 80)
    (hn : n ≤ 80) : (m.putBits sl b mac row slot w n).cellBit (m.cellAt sl b mac row slot' i) =
      if slot' = slot ∧ i < n then w.getLsbD i else m.cellBit (m.cellAt sl b mac row slot' i) := by
  induction n with
  | zero => exact (if_neg (by omega)).symm
  | succ n ih =>
    rw [Mem.putBits_succ, Mem.putBits_cellAt, Mem.cellBit_putCellBit _ _ (cellAt_snd_lt ..) (cellAt_snd_lt ..),
      ih (by omega)]
    simp only [m.cellAt_eq_iff sl b mac row hs' hs hi (show n < 80 by omega)]
    by_cases hin : i = n
    · simp [hin]
    · simp [hin, show i < n + 1 ↔ i < n by omega]

/-- A word of a row reads as it was last written. -/
theorem Mem.word80_putWord80 {slot slot' : Nat} (w : BitVec 80) (hs : slot < 16) (hs' : slot' < 16) :
    (m.putWord80 sl b mac row slot w).word80 sl b mac row slot' =
      if slot' = slot then w else m.word80 sl b mac row slot' := by
  apply BitVec.eq_of_getLsbD_eq
  intro i hi
  rw [Mem.putWord80_eq_putBits, Mem.getLsbD_word80, Mem.putBits_cellAt,
    m.cellBit_putBits sl b mac row w hs hs' hi (Nat.le_refl _), decide_eq_true hi, Bool.true_and]
  by_cases hslot : slot' = slot
  · rw [if_pos ⟨hslot, hi⟩, if_pos hslot]
  · rw [if_neg (fun h => hslot h.1), if_neg hslot, Mem.getLsbD_word80, decide_eq_true hi, Bool.true_and]

end

end Sys2Proof.Machine
end

section
/-! SUPPORT. The bank as an access meets it: the row under test, the merge buffer and the W bits beside the stored words
(R43 to R48, R56). -/

namespace Sys2Proof.Machine

open State

/-! ### The merge buffer -/

theorem findAt_eq_none {α : Type} {p : α → Bool} {l : List α} (h : ∀ a ∈ l, p a = false) (i : Nat) :
    findAt p l i = none := by
  induction l generalizing i with
  | nil => rfl
  | cons a l ih =>
    rw [findAt, h a List.mem_cons_self, if_neg Bool.false_ne_true]
    exact ih (fun x hx => h x (List.mem_cons_of_mem a hx)) (i + 1)

theorem Bank.entry_eq_none {k : Bank} {l : Nat} (h : ∀ e ∈ k.merge, e.line ≠ l) : k.entry l = none := by
  rw [Bank.entry, findAt_eq_none fun e he => decide_eq_false (h e he)]

theorem Bank.entry_dropEntry (k : Bank) (l : Nat) : (k.dropEntry l).entry l = none :=
  Bank.entry_eq_none fun e he => by simpa [Bank.dropEntry] using (List.mem_filter.mp he).2

theorem Bank.entry_congr {k k' : Bank} (h : k'.merge = k.merge) (l : Nat) : k'.entry l = k.entry l := by
  rw [Bank.entry, h, Bank.entry]

/-- A word whose line has no merge entry reads from the bank, and as zero before it has been written (R43, R44). -/
theorem State.peekWord_of_no_entry {s : State} {sl b l : Nat} (h : (s.bank sl b).entry l = none) (w : Nat) :
    s.peekWord sl b l w =
      if s.wState sl b l w then
        if (decodeWord (s.storedWord sl b l w) (foldAddr b l w)).bad then (0, true)
        else ((decodeWord (s.storedWord sl b l w) (foldAddr b l w)).data, false)
      else (0, false) := by
  have hlay : ∀ a : Word, layWord a 0 0 = a := fun a => by
    have hmask : byteMask 0 = 0#64 := by decide
    rw [layWord, hmask, BitVec.not_zero, BitVec.and_allOnes, BitVec.and_zero, BitVec.or_zero]
  have hne : (0 : BitVec 8) ≠ 0xFF := by decide
  simp only [State.peekWord, h, if_neg hne, hlay]
  cases s.wState sl b l w <;> simp

/-! ### Banks and the row under test -/

section
variable (s : State) (sl b : Nat) (f : Bank → Bank)

@[simp] theorem State.bank_modBank_same : (s.modBank sl b f).bank sl b = f (s.bank sl b) :=
  (Tbl.get_put _ _ _ _ _ _ fun _ => rfl).trans (if_pos rfl)

@[simp] theorem State.bank_putArrayWord (sl' b' row slot : Nat) (w : BitVec 80) :
    (s.putArrayWord sl' b' row slot w).bank sl b = s.bank sl b := rfl

@[simp] theorem State.bank_putW (sl' b' l w8 : Nat) (c : BitVec 3) : (s.putW sl' b' l w8 c).bank sl b = s.bank sl b := rfl

/-- The test buffer, where there is one, holds the 16 words of its row. -/
def State.TestFull : Prop := ∀ x, (s.bank sl b).test = some x → x.buf.length = 16

end

theorem Bank.test_of_testing {k : Bank} {row : Nat} {t : RowTest} (h : k.testing row = some t) : k.test = some t := by
  unfold Bank.testing at h
  split at h
  · next x hx =>
    split at h
    · exact hx.trans h
    · cases h
  · cases h

/-- A row is served from the test buffer by its number and its step, whatever else the buffer holds. -/
theorem Bank.testing_of_same_test {k k' : Bank} {row : Nat} {t t' : RowTest} (h : k.testing row = some t)
    (ht' : k'.test = some t') (hrow : t'.row = t.row) (hstep : t'.step = t.step) : k'.testing row = some t' := by
  have ht := Bank.test_of_testing h
  simp only [Bank.testing, ht] at h
  split at h
  · next hc => simp only [Bank.testing, ht', hrow, hstep, if_pos hc]
  · cases h

theorem Bank.testing_congr {k k' : Bank} (h : k'.test = k.test) (row : Nat) : k'.testing row = k.testing row := by
  rw [Bank.testing, h, Bank.testing]

theorem setAt_eq_set {α : Type} (l : List α) (i : Nat) (a : α) : setAt l i a = l.set i a := by
  induction l generalizing i with
  | nil => rfl
  | cons x l ih => cases i with
    | zero => rfl
    | succ i => rw [setAt, ih, List.set_cons_succ]

theorem wordSlot_lt {l w : Nat} (hw : w < 8) : wordSlot l w < 16 := by
  unfold wordSlot
  omega

theorem wordSlot_inj {l w w' : Nat} : wordSlot l w = wordSlot l w' ↔ w = w' := by
  unfold wordSlot
  omega

section
variable {s : State} {sl b l w w8 : Nat}

theorem State.testFull_of_test {t : State} (hfull : s.TestFull sl b) (h : (t.bank sl b).test = (s.bank sl b).test) :
    t.TestFull sl b := fun x hx => hfull x (h ▸ hx)

theorem State.storedWord_of_testing {t : RowTest} (h : (s.bank sl b).testing (bankRow l) = some t) (w8 : Nat) :
    s.storedWord sl b l w8 = t.buf.getD (wordSlot l w8) 0 := by rw [State.storedWord, h]

theorem State.storedWord_of_untested (h : (s.bank sl b).testing (bankRow l) = none) (w8 : Nat) :
    s.storedWord sl b l w8 = s.arrayWord sl b (bankRow l) (wordSlot l w8) := by rw [State.storedWord, h]

/-- Whatever else changes in a bank, its words stay. -/
theorem State.storedWord_modBank {f : Bank → Bank} (h : (f (s.bank sl b)).test = (s.bank sl b).test) :
    (s.modBank sl b f).storedWord sl b l w = s.storedWord sl b l w := by
  simp only [State.storedWord, State.bank_modBank_same, Bank.testing_congr h]
  rfl

/-! ### A stored word -/

/-- The test buffer with a word of its row replaced. -/
def RowTest.setWord (t : RowTest) (slot : Nat) (x : BitVec 80) : RowTest :=
  { t with buf := setAt t.buf slot x, noted := t.noted.filter (· ≠ slot) }

theorem State.putStored_of_testing {t : RowTest} (h : (s.bank sl b).testing (bankRow l) = some t) (w8 : Nat)
    (x : BitVec 80) : s.putStored sl b l w8 x =
      s.modBank sl b fun k => { k with test := some (t.setWord (wordSlot l w8) x) } := by
  rw [State.putStored, h]
  rfl

theorem State.putStored_of_untested (h : (s.bank sl b).testing (bankRow l) = none) (w8 : Nat) (x : BitVec 80) :
    s.putStored sl b l w8 x = s.putArrayWord sl b (bankRow l) (wordSlot l w8) x := by rw [State.putStored, h]

/-- A stored word reads as it was last written, in the cells as in the test buffer. -/
theorem State.storedWord_putStored (hfull : s.TestFull sl b) (x : BitVec 80) (hw8 : w8 < 8) (hw : w < 8) :
    (s.putStored sl b l w8 x).storedWord sl b l w = if w = w8 then x else s.storedWord sl b l w := by
  cases ht : (s.bank sl b).testing (bankRow l) with
  | none =>
    rw [putStored_of_untested ht, storedWord_of_untested ht, storedWord_of_untested (by rw [bank_putArrayWord, ht])]
    exact (Mem.word80_putWord80 _ _ _ _ _ x (wordSlot_lt hw8) (wordSlot_lt hw)).trans
      (ite_congr (propext wordSlot_inj) (fun _ => rfl) fun _ => rfl)
  | some t =>
    have hlen : wordSlot l w8 < t.buf.length := by
      rw [hfull t (Bank.test_of_testing ht)]
      exact wordSlot_lt hw8
    have ht' : ((s.putStored sl b l w8 x).bank sl b).testing (bankRow l) = some (t.setWord (wordSlot l w8) x) :=
      Bank.testing_of_same_test ht (by rw [putStored_of_testing ht, bank_modBank_same]) rfl rfl
    rw [storedWord_of_testing ht, storedWord_of_testing ht', RowTest.setWord, setAt_eq_set,
      List.getD_eq_getElem?_getD, List.getD_eq_getElem?_getD, List.getElem?_set]
    simp only [wordSlot_inj, eq_comm (a := w8), hlen, if_true]
    split <;> rfl

theorem State.putStored_testFull (hfull : s.TestFull sl b) (x : BitVec 80) : (s.putStored sl b l w8 x).TestFull sl b := by
  cases ht : (s.bank sl b).testing (bankRow l) with
  | none => rwa [putStored_of_untested ht]
  | some t =>
    intro y hy
    rw [putStored_of_testing ht, bank_modBank_same] at hy
    cases hy
    rw [RowTest.setWord, setAt_eq_set, List.length_set]
    exact hfull t (Bank.test_of_testing ht)

theorem State.putStored_merge (x : BitVec 80) :
    ((s.putStored sl b l w8 x).bank sl b).merge = (s.bank sl b).merge := by
  cases ht : (s.bank sl b).testing (bankRow l) with
  | none => rw [putStored_of_untested ht, bank_putArrayWord]
  | some t => rw [putStored_of_testing ht, bank_modBank_same]

theorem State.putStored_wbits (x : BitVec 80) : (s.putStored sl b l w8 x).mem.wbits = s.mem.wbits := by
  cases ht : (s.bank sl b).testing (bankRow l) with
  | none => rw [putStored_of_untested ht]; exact Mem.putBits_wbits ..
  | some t => rw [putStored_of_testing ht]; rfl

/-! ### A word written to the array -/

theorem wordKey_inj {sl b l w w' : Nat} : wordKey sl b l w = wordKey sl b l w' ↔ w = w' := by
  unfold wordKey
  omega

theorem State.wState_putW (c : BitVec 3) :
    (s.putW sl b l w8 c).wState sl b l w = if w = w8 then majority c else s.wState sl b l w := by
  have hget : (s.putW sl b l w8 c).wCopies sl b l w = if w = w8 then c else s.wCopies sl b l w :=
    (Tbl.get_put _ _ _ _ _ _ fun _ => rfl).trans (ite_congr (propext wordKey_inj) (fun _ => rfl) fun _ => rfl)
  rw [State.wState, hget, apply_ite majority]
  rfl

theorem State.wState_congr {t : State} (h : t.mem.wbits = s.mem.wbits) (sl b l w : Nat) :
    t.wState sl b l w = s.wState sl b l w := by
  rw [State.wState, State.wCopies, h, State.wState, State.wCopies]

/-- The bank without a write-back to a word. -/
def Bank.dropWb (k : Bank) (l w8 : Nat) : Bank :=
  { k with wb := match k.wb with
      | some (l', w', v) => if l' = l ∧ w' = w8 then none else some (l', w', v)
      | none => none }

theorem State.writeCoded_eq (d : Word) (psn : Bool) : s.writeCoded sl b l w8 d psn =
    ((s.putStored sl b l w8 (if psn then poisonWord (foldAddr b l w8) else codeWord d (foldAddr b l w8))).modBank sl b
      fun k => k.dropWb l w8).putW sl b l w8 7 := rfl

theorem State.writeCoded_merge (d : Word) (psn : Bool) :
    ((s.writeCoded sl b l w8 d psn).bank sl b).merge = (s.bank sl b).merge := by
  rw [writeCoded_eq, bank_putW, bank_modBank_same]
  exact putStored_merge _

theorem State.writeCoded_testFull (hfull : s.TestFull sl b) (d : Word) (psn : Bool) :
    (s.writeCoded sl b l w8 d psn).TestFull sl b :=
  testFull_of_test (putStored_testFull hfull _) (by rw [writeCoded_eq, bank_putW, bank_modBank_same]; rfl)

theorem State.storedWord_writeCoded (hfull : s.TestFull sl b) (d : Word) (psn : Bool) (hw8 : w8 < 8) (hw : w < 8) :
    (s.writeCoded sl b l w8 d psn).storedWord sl b l w =
      if w = w8 then if psn then poisonWord (foldAddr b l w8) else codeWord d (foldAddr b l w8)
      else s.storedWord sl b l w := by
  rw [← storedWord_putStored hfull _ hw8 hw, writeCoded_eq]
  exact storedWord_modBank (f := fun k => k.dropWb l w8) rfl

theorem State.wState_writeCoded (d : Word) (psn : Bool) :
    (s.writeCoded sl b l w8 d psn).wState sl b l w = if w = w8 then true else s.wState sl b l w := by
  rw [writeCoded_eq, wState_putW]
  exact congrArg (if w = w8 then true else ·) (wState_congr (putStored_wbits _) ..)

end

end Sys2Proof.Machine
end

section
/-! PROOF. A line that is written whole, and a bank that is wiped (O20, O22). -/

namespace Sys2Proof.Machine

open State

/-! ### A line written whole -/

section
variable {s : State} {sl b l : Nat}

/-- Word `w` of the line has been written as `d`, or as poison where `psn` marks it, and is read from the array. -/
structure State.HoldsWord (s : State) (sl b l w : Nat) (d : Word) (psn : Bool) : Prop where
  stored : s.storedWord sl b l w = if psn then poisonWord (foldAddr b l w) else codeWord d (foldAddr b l w)
  written : s.wState sl b l w = true

theorem State.HoldsWord.peekWord {w : Nat} {d : Word} {psn : Bool} (h : s.HoldsWord sl b l w d psn)
    (hentry : (s.bank sl b).entry l = none) : s.peekWord sl b l w = if psn then (0, true) else (d, false) := by
  obtain ⟨hstored, hwritten⟩ := h
  rw [peekWord_of_no_entry hentry, hwritten, if_pos rfl, hstored]
  cases psn with
  | true => simp [decodeWord_poisonWord]
  | false => simp [decodeWord_codeWord]

/-- The words of a line written one after another. -/
def State.writeWords (s : State) (sl b l : Nat) (data : Nat → Word) (psn : Nat → Bool) (ws : List Nat) : State :=
  s.each ws fun t w8 => t.writeCoded sl b l w8 (data w8) (psn w8)

variable (data : Nat → Word) (psn : Nat → Bool)

theorem State.writeWords_merge (s : State) (ws : List Nat) :
    ((s.writeWords sl b l data psn ws).bank sl b).merge = (s.bank sl b).merge := by
  induction ws generalizing s with
  | nil => rfl
  | cons w8 ws ih => exact (ih _).trans (writeCoded_merge _ _)

/-- A word that is among those written, or that held its data before, holds its data: a second write brings the same. -/
theorem State.writeWords_holds {s : State} {ws : List Nat} {w : Nat} (hfull : s.TestFull sl b) (hws : ∀ x ∈ ws, x < 8)
    (hw : w < 8) (h : w ∈ ws ∨ s.HoldsWord sl b l w (data w) (psn w)) :
    (s.writeWords sl b l data psn ws).HoldsWord sl b l w (data w) (psn w) := by
  induction ws generalizing s with
  | nil => exact h.resolve_left List.not_mem_nil
  | cons w8 ws ih =>
    have hw8 : w8 < 8 := hws w8 List.mem_cons_self
    refine ih (writeCoded_testFull hfull _ _) (fun x hx => hws x (List.mem_cons_of_mem w8 hx)) ?_
    by_cases heq : w = w8
    · subst heq
      exact .inr ⟨(storedWord_writeCoded hfull _ _ hw hw).trans (if_pos rfl), (wState_writeCoded _ _).trans (if_pos rfl)⟩
    · rcases h with hmem | ⟨hstored, hwritten⟩
      · exact .inl ((List.mem_cons.mp hmem).resolve_left heq)
      · exact .inr ⟨(storedWord_writeCoded hfull _ _ hw8 hw).trans ((if_neg heq).trans hstored),
          (wState_writeCoded _ _).trans ((if_neg heq).trans hwritten)⟩

end

/-- A write of all bytes of a line goes to the array word by word, from a state whose merge buffer has dropped the line
(R48). -/
theorem State.writeLine_of_all_bytes (s : State) (sl b l : Nat) (data : Line) (psn : WordEn) :
    ∃ t : State, (t.bank sl b).test = (s.bank sl b).test ∧ (t.bank sl b).entry l = none ∧
      s.writeLine sl b l (BitVec.allOnes 64) data psn = t.writeWords sl b l (lineWord data) psn.getLsbD (List.range 8) := by
  have hben : BitVec.allOnes 64 ≠ 0 := by decide
  unfold State.writeLine State.landLine
  rw [if_neg (fun h => hben h.1)]
  refine ⟨_, ?_, ?_, if_pos rfl⟩
  · rw [bank_modBank_same, bank_modBank_same]
    rfl
  · rw [bank_modBank_same]
    exact Bank.entry_dropEntry _ l

/-- Settles O20: each word holds what was written, in the cells or in the test buffer, and no merge entry lies over it. -/
theorem wholeLineReadsBack : Obligations.WholeLineReadsBack := by
  unfold Obligations.WholeLineReadsBack
  intro s sl b l w data psn _ _ hw hfull
  obtain ⟨t, htest, hentry, heq⟩ := writeLine_of_all_bytes s sl b l data psn
  have hheld := writeWords_holds (l := l) (lineWord data) psn.getLsbD (testFull_of_test hfull htest)
    (fun _ => List.mem_range.mp) hw (.inl (List.mem_range.mpr hw))
  rw [heq, hheld.peekWord ((Bank.entry_congr (writeWords_merge _ _ t _) l).trans hentry)]

/-! ### A wiped bank -/

theorem Tbl.get_filter {α : Type} (d : α) (p : Nat → Bool) (t : Tbl α) (k : Nat) :
    Tbl.get d (t.filter fun e => p e.1) k = if p k then Tbl.get d t k else d := by
  induction t with
  | nil => simp [Tbl.get]
  | cons e t ih =>
    obtain ⟨a, v⟩ := e
    rw [List.filter_cons, Tbl.get]
    by_cases hk : a = k
    · subst hk
      cases hp : p a <;> simp [Tbl.get, hp, ih]
    · cases hp : p a <;> simp [Tbl.get, ih, hk]

/-- The key of a word lies among those of bank `sl`, `b` exactly where the word does. -/
theorem wordKey_mem_bank_iff {sl b sl' b' l w : Nat} (hb : b < 64) (hb' : b' < 64) (hl : l < 4096) (hw : w < 8) :
    (wordKey sl' b' l w < (sl * 64 + b) * 32768 ∨ (sl * 64 + b) * 32768 + 32768 ≤ wordKey sl' b' l w) ↔
      (sl', b') ≠ (sl, b) := by
  unfold wordKey
  rw [Ne, Prod.mk.injEq]
  omega

/-- The clear port clears the W state of the words of its bank and of no others (R46). -/
theorem State.wState_wipeBank (s : State) {sl b sl' b' l w : Nat} (hb : b < 64) (hb' : b' < 64) (hl : l < 4096)
    (hw : w < 8) : (s.wipeBank sl b).wState sl' b' l w = if (sl', b') ≠ (sl, b) then s.wState sl' b' l w else false := by
  have hget : (s.wipeBank sl b).wCopies sl' b' l w = if (sl', b') ≠ (sl, b) then s.wCopies sl' b' l w else 0 :=
    (Tbl.get_filter 0 (fun k => decide (k < (sl * 64 + b) * 32768 ∨ (sl * 64 + b) * 32768 + 32768 ≤ k)) _ _).trans
      (ite_congr (propext (decide_eq_true_iff.trans (wordKey_mem_bank_iff hb hb' hl hw))) (fun _ => rfl) fun _ => rfl)
  rw [State.wState, hget, apply_ite majority]
  rfl

/-- What the clear port leaves in a bank. -/
theorem State.bank_wipeBank (s : State) (sl b : Nat) :
    (s.wipeBank sl b).bank sl b = { s.bank sl b with merge := [], wb := none, wrote := none } := by
  rw [State.wipeBank, bank_modBank_same]
  rfl

/-- Settles O22: the W state decides, for no merge entry is left. -/
theorem wipedBankReadsZero : Obligations.WipedBankReadsZero := by
  unfold Obligations.WipedBankReadsZero
  intro s sl b hb
  have hbank := bank_wipeBank s sl b
  refine ⟨by rw [hbank], by rw [hbank], fun l w hl hw => ?_, fun sl' b' l w hb' hl hw hne => ?_⟩
  · have hclear : (s.wipeBank sl b).wState sl b l w = false :=
      (wState_wipeBank s hb hb hl hw).trans (if_neg fun h => h rfl)
    have hentry : ((s.wipeBank sl b).bank sl b).entry l = none := by rw [hbank]; rfl
    exact ⟨hclear, by rw [peekWord_of_no_entry hentry, hclear, if_neg Bool.false_ne_true]⟩
  · exact (wState_wipeBank s hb hb' hl hw).trans (if_pos hne)

end Sys2Proof.Machine
end

section
/-! PROOF. What a window of the clock measurement reports and decides (O9). -/

namespace Sys2Proof.Machine

open State

/-- GLB_MAINT.MEAS and RAISED as a window leaves them. -/
def State.putMeas (s : State) (mhz : Nat) (raised : Bool) : State :=
  if raised then (s.putF A.glbMaint 8 12 mhz).putB A.glbMaint 7 true else s.putF A.glbMaint 8 12 mhz

section
variable (s : State) (mhz : Nat) (raised : Bool)

theorem State.putMeas_only : s.putMeas mhz raised = { s with csr := (s.putMeas mhz raised).csr } := by
  cases raised <;> rfl

theorem State.putMeas_rd {a : Nat} (h : a ≠ A.glbMaint) : (s.putMeas mhz raised).rd a = s.rd a := by
  have hput : (s.putF A.glbMaint 8 12 mhz).rd a = s.rd a := (rd_putF ..).trans (if_neg h)
  cases raised with
  | false => exact hput
  | true => exact ((rd_putB ..).trans (if_neg h)).trans hput

theorem State.putMeas_meas (h : mhz < 2 ^ 12) : (s.putMeas mhz raised).getF A.glbMaint 8 12 = mhz := by
  have hput : (s.putF A.glbMaint 8 12 mhz).getF A.glbMaint 8 12 = mhz :=
    (getF_putF_same s _ _ _ _ (by omega)).trans (Nat.mod_eq_of_lt h)
  cases raised with
  | false => exact hput
  | true =>
    refine Eq.trans (congrArg (fld · 8 12) (rd_wr_same ..)) (Eq.trans ?_ hput)
    exact fld_setFlag _ _ _ _ _ (by omega) (by omega) (by omega)

theorem State.putMeas_raised : (s.putMeas mhz true).getB A.glbMaint 7 = true := by
  refine (congrArg (flag · 7) (rd_wr_same ..)).trans ?_
  rw [flag_setFlag _ _ _ _ (by omega) (by omega), if_pos rfl]

end

/-- The clock's own state after a window (R62, R63). -/
def State.timeMeasured (s : State) (mhz : Nat) : Time :=
  let lows := (logM mhz :: s.time.lows).take 16
  if s.time.nextM < logM mhz then { s.time with mhz := mhz, nextM := logM mhz, lows := [], decidedAt := s.now }
  else if logM mhz < s.time.nextM then
    if 16 ≤ lows.length ∧ s.getB A.glbMaint 4 = false then
      { s.time with mhz := mhz, nextM := max (lows.foldl max 0) s.mMin, lows := [], decidedAt := s.now }
    else { s.time with mhz := mhz, lows := lows }
  else { s.time with mhz := mhz, lows := [] }

theorem State.measure_eq (s : State) (mhz : Nat) :
    s.measure mhz = { s.putMeas mhz (decide (s.time.nextM < logM mhz)) with time := s.timeMeasured mhz } := by
  unfold State.measure State.timeMeasured State.putMeas
  by_cases hup : s.time.nextM < logM mhz
  · simp only [hup, if_true, decide_true]
    rfl
  · simp only [hup, if_false, decide_false]
    by_cases hdown : logM mhz < s.time.nextM
    · simp only [hdown, if_true]
      split <;> rfl
    · simp only [hdown, if_false]
      rfl

section
variable {s : State} {mhz : Nat}

theorem State.timeMeasured_mhz : (s.timeMeasured mhz).mhz = mhz := by
  unfold State.timeMeasured
  dsimp only
  (repeat' split) <;> rfl

theorem State.timeMeasured_of_higher (h : s.time.nextM < logM mhz) :
    s.timeMeasured mhz = { s.time with mhz := mhz, nextM := logM mhz, lows := [], decidedAt := s.now } := by
  rw [State.timeMeasured, if_pos h]

/-- The window is the sixteenth in a row when fifteen are noted. -/
theorem sixteen_le_lows_iff (k : Nat) (lows : List Nat) : 16 ≤ ((k :: lows).take 16).length ↔ 15 ≤ lows.length := by
  rw [List.length_take, List.length_cons]
  omega

theorem State.timeMeasured_of_noted (h : logM mhz < s.time.nextM)
    (hnoted : s.time.lows.length < 15 ∨ s.getB A.glbMaint 4 = true) :
    s.timeMeasured mhz = { s.time with mhz := mhz, lows := (logM mhz :: s.time.lows).take 16 } := by
  rw [State.timeMeasured, if_neg (by omega), if_pos h, if_neg]
  rw [sixteen_le_lows_iff]
  rintro ⟨hlen, hlock⟩
  rcases hnoted with hshort | hlocked
  · omega
  · exact Bool.false_ne_true (hlock.symm.trans hlocked)

theorem State.timeMeasured_of_sixteenth (h : logM mhz < s.time.nextM) (hlen : 15 ≤ s.time.lows.length)
    (hlock : s.getB A.glbMaint 4 = false) :
    s.timeMeasured mhz = { s.time with
      mhz := mhz, nextM := max (((logM mhz :: s.time.lows).take 16).foldl max 0) s.mMin, lows := []
      decidedAt := s.now } := by
  rw [State.timeMeasured, if_neg (by omega), if_pos h, if_pos ⟨(sixteen_le_lows_iff ..).mpr hlen, hlock⟩]

theorem State.timeMeasured_of_same (h : logM mhz = s.time.nextM) :
    s.timeMeasured mhz = { s.time with mhz := mhz, lows := [] } := by
  rw [State.timeMeasured, if_neg (by omega), if_neg (by omega)]

end

/-- Settles O9: what the registers show by `putMeas`, what is decided by `timeMeasured`. -/
theorem clockMeasured : Obligations.ClockMeasured := by
  unfold Obligations.ClockMeasured
  intro s mhz hmhz
  let raised := decide (s.time.nextM < logM mhz)
  refine ⟨{ s.putMeas mhz raised with time := s.timeMeasured mhz }, congrArg Host.Outcome.next (measure_eq s mhz), ?_,
    fun a ha => putMeas_rd s mhz raised ha, putMeas_meas s mhz raised hmhz, timeMeasured_mhz, fun hup => ?_,
    fun hdown hnoted => ?_, fun hdown hlen hlock => ?_, fun hsame => ?_⟩
  · rw [putMeas_only]
  · have hraised : (s.putMeas mhz raised).getB A.glbMaint 7 = true := decide_eq_true hup ▸ putMeas_raised s mhz
    rw [timeMeasured_of_higher hup]
    exact ⟨rfl, rfl, hraised⟩
  · rw [timeMeasured_of_noted hdown hnoted]
    exact ⟨rfl, rfl⟩
  · rw [timeMeasured_of_sixteenth hdown hlen hlock]
    exact ⟨rfl, rfl⟩
  · rw [timeMeasured_of_same hsame]
    exact ⟨rfl, rfl⟩

end Sys2Proof.Machine
end

section
/-! PROOF. A port that is awake and ready accepts a request (O14). -/

namespace Sys2Proof.Machine

open State

/-- The port holds a request accepted at edge `e` behind the others, and its request channel is busy for `b` beats (R97). -/
def State.holdReq (t : State) (sl p e b : Nat) (r : Req) : State :=
  t.modPort sl p fun x => { x with queue := x.queue ++ [r], takenTo := e + 1, busyTo := e + b }

/-- A clave operation of the own slice that is first in the converter goes on to its nominal issue clk (R98). -/
def State.performFirst (u : State) (sl p : Nat) (r : Req) : State :=
  if (u.port sl p).queue.length = 1 ∧ r.clave.isSome ∧ r.home = sl then (u.reach r.since).settlePort sl p 0 else u

theorem State.performFirst_of_access {u : State} {sl p : Nat} {r : Req} (h : r.clave = none) :
    u.performFirst sl p r = u := by
  rw [State.performFirst, h]
  exact if_neg fun hfirst => Bool.false_ne_true hfirst.2.1

theorem State.performFirst_of_clave {u : State} {sl p : Nat} {r : Req} (h : r.clave.isSome = true) :
    u.performFirst sl p r =
      if (u.port sl p).queue.length = 1 ∧ r.home = sl then (u.reach r.since).settlePort sl p 0 else u := by
  simp only [State.performFirst, h, true_and]

/-- A request that meets an awake and ready port wakes, takes its edge and is held (R97, R315). -/
theorem State.onPort_accept_of_ready {s : State} {sl p d b : Nat} {mk : Nat → Req} (hport : s.hasPort sl p = true) :
    let w := s.wakeFor sl 1
    let e := w.takeEdge sl p d
    let t := w.atEdge sl p e
    let r := mk (w.nominal p e)
    w.portAwake sl = true → t.portReady sl p (w.edgeClk p (w.firstEdge sl p d e)) = true →
      s.onPort sl p (s.accept sl p d b mk) = .next ((t.holdReq sl p e b r).performFirst sl p r) := by
  intro w e t r hawake hready
  have hserved : ¬w.portAwake sl = false := ne_false_of_eq_true hawake
  have hadmitted : ¬t.portReady sl p (w.edgeClk p (w.firstEdge sl p d e)) = false := ne_false_of_eq_true hready
  have haccept : s.accept sl p d b mk = (t.holdReq sl p e b r).performFirst sl p r :=
    (if_neg hserved).trans (if_neg hadmitted)
  rw [onPort_of s hport, haccept]

theorem exec_clave {r : ClaveReq} {kind : Nat} {c : Instr}
    (h : (c, kind) ∈ [(.cpClvRead r, 0), (.cpClvSignal r, 1), (.cpClvTake r, 2)]) (s : State) :
    exec c s = s.onPort r.sl r.port (s.portClave r kind) := by
  simp only [List.mem_cons, List.not_mem_nil, or_false, Prod.mk.injEq] at h
  rcases h with ⟨rfl, rfl⟩ | ⟨rfl, rfl⟩ | ⟨rfl, rfl⟩ <;> rfl

/-- A request without a clave operation stays in the converter. -/
theorem State.onPort_accept_access {s : State} {sl p d b : Nat} {mk : Nat → Req} (hport : s.hasPort sl p = true)
    (hmk : ∀ n, (mk n).clave = none) :
    let w := s.wakeFor sl 1
    let e := w.takeEdge sl p d
    let t := w.atEdge sl p e
    w.portAwake sl = true → t.portReady sl p (w.edgeClk p (w.firstEdge sl p d e)) = true →
      s.onPort sl p (s.accept sl p d b mk) = .next (t.holdReq sl p e b (mk (w.nominal p e))) := by
  intro w e t hawake hready
  rw [onPort_accept_of_ready hport hawake hready, performFirst_of_access (hmk _)]

/-- Settles O14: only a clave operation can go on to its issue clk at once. -/
theorem portAcceptsRequests : Obligations.PortAcceptsRequests := by
  unfold Obligations.PortAcceptsRequests
  refine ⟨fun s r hport hawake hready => ?read, fun s r d hport hawake hready => ?write,
    fun s r op hport hawake hready => ?reserved, fun s r kind c hc hport hawake hready => ?clave⟩
  case read => exact onPort_accept_access hport (fun _ => rfl) hawake hready
  case write => exact onPort_accept_access hport (fun _ => rfl) hawake hready
  case reserved => exact onPort_accept_access hport (fun _ => rfl) hawake hready
  case clave =>
    refine (exec_clave hc s).trans ((onPort_accept_of_ready hport hawake hready).trans ?_)
    exact congrArg Host.Outcome.next (performFirst_of_clave rfl)

end Sys2Proof.Machine
end

section
/-! PROOF. A port's roll call does not always end with its result in PORT_STAT (O16). A request that waits in the converter
is answered as the fence of the roll call falls on it, and its latency is stored in QOS_HWM of its class (R152), whose
address is computed from the class. The last clause of O16 speaks of every state, and the command of a READ puts any class
into the converter as the client gave it; only `Instr.wf`, which no command tests, bounds it by 8. -/

namespace Sys2Proof.Machine

open State

/-- The class whose high-water mark of slice 0 has the address of PORT_STAT of its port 0. -/
def strayClass : Nat := (A.portStat 0 0 - A.qosHwm 0 0) / 8

/-- A READ of the stray class by port 0 of slice 0, of that slice, that names no line. -/
def strayRead : PortReq :=
  { sl := 0, port := 0, tsl := 0, bset := 0, rows := [], lvalid := 0, wen := 0, ctx := 63, cls := strayClass, tag := 0 }

/-- Slice 0 is released, and its port 0 is in a roll call without being fenced, as one that Belfry has asked for (R111). -/
def recalled : State :=
  (State.reset.modSlice 0 fun x => { x with released := true }).modPort 0 0 fun x =>
    { x with rcFence := false, called := true, calling := true }

/-- The port has accepted the stray READ in clk 0, and the READ has waited until clk 768. -/
def strayWaits : State := (recalled.accept 0 0 1 1 (mkPortReq strayRead false [])).reach 768

/-- The fence answers the READ in clk 768, and it is ready 9 clk later (R80): its latency since clk 1 is 776 clk, whose
bits [10:8], where RCRES lies, hold 3. -/
theorem strayWaits_callEnds_rcres : (strayWaits.callEnds 0 0 2 false).getF (A.portStat 0 0) 8 3 = 3 := by decide +kernel

/-- Refutes O16: a port found Absent (result 2) reads as 3, since the waiting READ is answered after the result is stored. -/
theorem not_portFencesAndRollCall : ¬ Obligations.PortFencesAndRollCall := by
  unfold Obligations.PortFencesAndRollCall
  rintro ⟨-, -, -, -, -, hends⟩
  have hres : (strayWaits.callEnds 0 0 2 false).getF (A.portStat 0 0) 8 3 = 2 :=
    (hends strayWaits 0 0 2 false (by decide) (by decide)).1
  exact absurd (strayWaits_callEnds_rcres.symm.trans hres) (by decide)

end Sys2Proof.Machine
end

section
/-! SUPPORT. Frames of the operations that handles, contexts and ownership are written over: a register that the Tuner may
scan, a refused write, and the records of the handle table. -/

namespace Sys2Proof.Machine

open State

section
variable (s : State)

/-! ### A register that the Tuner may scan (R294) -/

/-- Only the Tuner's own record changes as a golden moves. -/
theorem State.moveGolden_only (r inst : Nat) (d : BitVec 32) :
    s.moveGolden r inst d = { s with tuner := (s.moveGolden r inst d).tuner } := by
  unfold State.moveGolden State.rescan State.putGolden
  split <;> split <;> rfl

theorem State.wrCfg_only (a : Nat) (v : Word) : s.wrCfg a v = { s.wr a v with tuner := (s.wrCfg a v).tuner } := by
  unfold State.wrCfg
  split
  · exact moveGolden_only ..
  · rfl

theorem State.wrCfg_rd (a a' : Nat) (v : Word) : (s.wrCfg a v).rd a' = if a' = a then v else s.rd a' := by
  rw [wrCfg_only]
  exact rd_wr s a a' v

@[simp] theorem State.wrCfg_force (a : Nat) (v : Word) : (s.wrCfg a v).force = s.force := by rw [wrCfg_only]; rfl

/-! ### A refused write of a register outside the slice windows (R11, R284) -/

theorem State.refuseCfg_only {a : Nat} (ha : sliceOf a = none) (ctx : Nat) :
    s.refuseCfg a ctx = { s with errors := (s.refuseCfg a ctx).errors } := by
  unfold State.refuseCfg
  rw [ha]
  rfl

theorem State.refuseCfg_rd {a : Nat} (ha : sliceOf a = none) (ctx r : Nat) : (s.refuseCfg a ctx).rd r = s.rd r := by
  rw [refuseCfg_only s ha]
  rfl

theorem State.refuseCfg_force {a : Nat} (ha : sliceOf a = none) (ctx : Nat) : (s.refuseCfg a ctx).force = s.force := by
  rw [refuseCfg_only s ha]

end

/-- Induction over a list from its end, as words are stored one behind the other. The package builds without Mathlib, so
without its `List.reverseRecOn`. -/
theorem appendSingletonInduction {α : Type} {P : List α → Prop} (nil : P [])
    (append_singleton : ∀ l x, P l → P (l ++ [x])) (l : List α) : P l := by
  rw [← l.reverse_reverse]
  induction l.reverse with
  | nil => exact nil
  | cons x r ih =>
    rw [List.reverse_cons]
    exact append_singleton _ x ih

theorem sliceOf_htabE3 {h : Nat} (hh : h < 4096) : sliceOf (A.htabE3 h) = none :=
  if_neg fun hslice => by simp only [A.htabE3] at hslice; omega

/-- Only Belfry and the system port reach CSR space (R125). -/
theorem State.ctx_of_plain {s : State} {a ctx : Nat} (h : s.plain a ctx = true) : ctx = 0 ∨ ctx = 63 := by
  simp only [State.plain, Bool.and_eq_true, Bool.or_eq_true, decide_eq_true_eq] at h
  obtain ⟨⟨⟨hctx, -⟩, -⟩, -⟩ := h
  exact hctx

end Sys2Proof.Machine
end

section
/-! PROOF. Writes of the handle table (O23, O24): words staged for one entry by each writer, and a commit of the entry. -/

namespace Sys2Proof.Machine

open State

section
variable (s : State) (ctx : Nat) (g : Stage)

/-! ### Staging records (R116) -/

@[simp] theorem State.stageOf_setStage : (s.setStage ctx g).stageOf ctx = g := by
  unfold State.setStage State.stageOf
  split <;> rfl

/-- The record of one writer is not that of the other. -/
theorem State.stageOf_setStage_other {ctx : Nat} (hctx : ctx = 0 ∨ ctx = 63) :
    (s.setStage ctx g).stageOf (63 - ctx) = s.stageOf (63 - ctx) := by
  rcases hctx with rfl | rfl <;> rfl

theorem State.setStage_only : s.setStage ctx g = { s with force := (s.setStage ctx g).force } := by
  unfold State.setStage
  split <;> rfl

theorem State.setStage_rd (a : Nat) : (s.setStage ctx g).rd a = s.rd a := by
  rw [setStage_only]
  rfl

@[simp] theorem State.setStage_value : (s.setStage ctx g).force.value = s.force.value := by
  unfold State.setStage
  split <;> rfl

@[simp] theorem State.setStage_commits : (s.setStage ctx g).force.commits = s.force.commits := by
  unfold State.setStage
  split <;> rfl

@[simp] theorem State.setStage_mirror : (s.setStage ctx g).force.mirror = s.force.mirror := by
  unfold State.setStage
  split <;> rfl

theorem State.stageOf_congr {s t : State} (h : t.force = s.force) (ctx : Nat) : t.stageOf ctx = s.stageOf ctx := by
  unfold State.stageOf
  rw [h]

end

/-- The record takes the word for the entry; what it holds of another entry is discarded. -/
theorem Stage.put_spec (g : Stage) {h w : Nat} (v : Word) (hw : w < 3) :
    (g.put h w v).entry = some h ∧
      (g.put h w v).w0 = (if w = 0 then some v else if g.entry = some h then g.w0 else none) ∧
      (g.put h w v).w1 = (if w = 1 then some v else if g.entry = some h then g.w1 else none) ∧
      (g.put h w v).w2 = (if w = 2 then some v else if g.entry = some h then g.w2 else none) := by
  unfold Stage.put
  by_cases hsame : g.entry = some h
  · rw [if_pos hsame, if_pos hsame, if_pos hsame, if_pos hsame]
    obtain rfl | rfl | rfl : w = 0 ∨ w = 1 ∨ w = 2 := by omega
    all_goals exact ⟨hsame, rfl, rfl, rfl⟩
  · rw [if_neg hsame, if_neg hsame, if_neg hsame, if_neg hsame]
    obtain rfl | rfl | rfl : w = 0 ∨ w = 1 ∨ w = 2 := by omega
    all_goals exact ⟨rfl, rfl, rfl, rfl⟩

/-- Settles O23: the record of the writer alone is replaced, by the one that `Stage.put` gives. -/
theorem handleStaging : Obligations.HandleStaging := by
  unfold Obligations.HandleStaging
  refine ⟨fun s h w ctx v hh hw hplain => ?_, fun g h w v hw => g.put_spec v hw⟩
  refine ⟨s.storeStage h w v ctx, ?_, setStage_only .., stageOf_setStage ..,
    stageOf_setStage_other _ _ (ctx_of_plain hplain), setStage_value .., setStage_commits .., setStage_mirror ..⟩
  exact (if_pos ⟨hh, hw⟩).trans (congrArg Host.Outcome.next (csrAccess_plain s hplain))

/-! ### A commit (R117, R118) -/

theorem State.length_commitWords (s : State) (h : Nat) (v : Word) (ctx : Nat) :
    (s.commitWords h v ctx).length = 4 := rfl

section
variable (s : State) (h ctx : Nat)

/-- The words of an entry are stored, E0 first. -/
def State.storeWords (s : State) (h : Nat) (ws : List Word) : State :=
  ws.zipIdx.foldl (fun (u : State) (p : Word × Nat) => u.wrCfg (A.htabE0 h + 8 * p.2) p.1) s

theorem State.storeWords_append (ws : List Word) (w : Word) :
    s.storeWords h (ws ++ [w]) = (s.storeWords h ws).wrCfg (A.htabE0 h + 8 * ws.length) w := by
  simp [State.storeWords, List.zipIdx_append]

theorem State.storeWords_rd {ws : List Word} {k : Nat} (hk : k < ws.length) :
    (s.storeWords h ws).rd (A.htabE0 h + 8 * k) = ws.getD k 0 := by
  induction ws using appendSingletonInduction with
  | nil => exact absurd hk (Nat.not_lt_zero k)
  | append_singleton ws w ih =>
    rw [storeWords_append, wrCfg_rd]
    rw [List.length_append, List.length_singleton] at hk
    by_cases hlast : k = ws.length
    · rw [if_pos (by rw [hlast]), hlast, List.getD_eq_getElem?_getD, List.getElem?_concat_length]
      rfl
    · rw [if_neg (by omega), ih (by omega), List.getD_eq_getElem?_getD, List.getD_eq_getElem?_getD,
        List.getElem?_append_left (by omega)]

@[simp] theorem State.storeWords_force (ws : List Word) : (s.storeWords h ws).force = s.force := by
  induction ws using appendSingletonInduction with
  | nil => rfl
  | append_singleton ws w ih => rw [storeWords_append, wrCfg_force, ih]

/-- A commit waits for its mirrors; an earlier one of the entry that waits is replaced, and its peal write no longer
counts for the entry (R118). -/
def State.pendCommit (s : State) (h ctx : Nat) : State :=
  { s with
    net := { s.net with
      peals := s.net.peals.map fun (p : Peal) => if p.mirror = some h then { p with mirror := none } else p }
    force := { s.force with
      commits := (s.force.commits.filter fun c => c.h ≠ h) ++ [{ h := h, ctx := ctx, sent := false, received := none }] } }

theorem State.storeCommit_eq (ws : List Word) :
    s.storeCommit h ws ctx = (((s.storeWords h ws).putB (A.htabE0 h) 31 true).pendCommit h ctx).feedMirror := rfl

@[simp] theorem State.pendCommit_rd (a : Nat) : (s.pendCommit h ctx).rd a = s.rd a := rfl

/-- A commit whose peal write has left, or leaves where `p` says so. -/
def Commit.sentIf (p : Commit → Bool) (c : Commit) : Commit := { c with sent := c.sent || p c }

theorem Commit.sentIf_eq_ite (h : Nat) :
    (fun x : Commit => if x.h = h then { x with sent := true } else x) = Commit.sentIf fun x => decide (x.h = h) := by
  funext x
  by_cases hx : x.h = h <;> simp [Commit.sentIf, hx]

theorem Commit.map_sentIf_false (l : List Commit) : l.map (Commit.sentIf fun _ => false) = l := by
  have hid : Commit.sentIf (fun _ => false) = id := by
    funext x
    simp [Commit.sentIf]
  rw [hid, List.map_id]

theorem State.beginPeal_only (mem : Bool) (off : Nat) (data : Line) (ben : ByteEn) (ctx cls : Nat)
    (tag mirror : Option Nat) :
    s.beginPeal mem off data ben ctx cls tag mirror =
      { s with net := (s.beginPeal mem off data ben ctx cls tag mirror).net } := by
  unfold State.beginPeal
  split <;> rfl

/-- The next peal write leaves, or none does: the mesh changes, and which commits are marked as sent. -/
theorem State.feedMirror_only : ∃ p : Commit → Bool, s.feedMirror =
    { s with net := s.feedMirror.net, force := { s.force with commits := s.force.commits.map (Commit.sentIf p) } } := by
  unfold State.feedMirror
  split
  · next c _ =>
    split
    · exact ⟨fun _ => false, by rw [Commit.map_sentIf_false]⟩
    · refine ⟨fun x => decide (x.h = c.h), ?_⟩
      rw [beginPeal_only, ← Commit.sentIf_eq_ite]
  · exact ⟨fun _ => false, by rw [Commit.map_sentIf_false]⟩

theorem State.feedMirror_rd (a : Nat) : s.feedMirror.rd a = s.rd a := by
  obtain ⟨p, hp⟩ := feedMirror_only s
  rw [hp]
  rfl

theorem State.feedMirror_stageOf : s.feedMirror.stageOf ctx = s.stageOf ctx := by
  obtain ⟨p, hp⟩ := feedMirror_only s
  rw [hp]
  rfl

theorem State.feedMirror_commits :
    ∃ p : Commit → Bool, s.feedMirror.force.commits = s.force.commits.map (Commit.sentIf p) := by
  obtain ⟨p, hp⟩ := feedMirror_only s
  exact ⟨p, by rw [hp]⟩

theorem State.storeCommit_stageOf (ws : List Word) (w : Nat) : (s.storeCommit h ws ctx).stageOf w = s.stageOf w := by
  rw [storeCommit_eq, feedMirror_stageOf]
  exact stageOf_congr (storeWords_force s h ws) w

theorem State.storeCommit_rd_E0 {ws : List Word} (hws : 0 < ws.length) :
    (s.storeCommit h ws ctx).rd (A.htabE0 h) = setFlag (ws.getD 0 0) 31 true := by
  rw [storeCommit_eq, feedMirror_rd, pendCommit_rd, rd_putB, if_pos rfl]
  exact congrArg (setFlag · 31 true) (storeWords_rd s h hws)

theorem State.storeCommit_rd_other {ws : List Word} {k : Nat} (hk : 0 < k) (hws : k < ws.length) :
    (s.storeCommit h ws ctx).rd (A.htabE0 h + 8 * k) = ws.getD k 0 := by
  rw [storeCommit_eq, feedMirror_rd, pendCommit_rd, rd_putB, if_neg (by omega), storeWords_rd s h hws]

theorem State.storeCommit_commits (ws : List Word) : ∃ p : Commit → Bool, (s.storeCommit h ws ctx).force.commits =
    (s.force.commits.filter fun c => c.h ≠ h).map (Commit.sentIf p) ++
      [Commit.sentIf p { h := h, ctx := ctx, sent := false, received := none }] := by
  obtain ⟨p, hp⟩ := feedMirror_commits (((s.storeWords h ws).putB (A.htabE0 h) 31 true).pendCommit h ctx)
  refine ⟨p, hp.trans ?_⟩
  simp [pendCommit]

end

/-- The four registers of an entry lie one behind the other. -/
theorem htab_words (h : Nat) :
    A.htabE1 h = A.htabE0 h + 8 * 1 ∧ A.htabE2 h = A.htabE0 h + 8 * 2 ∧ A.htabE3 h = A.htabE0 h + 8 * 3 := by
  simp only [A.htabE0, A.htabE1, A.htabE2, A.htabE3]
  omega

/-- Commits that are none of an entry, then one of it: it is the only one. -/
theorem filter_commits_append {h : Nat} {l : List Commit} {c : Commit} (hl : ∀ x ∈ l, x.h ≠ h) (hc : c.h = h) :
    (l ++ [c]).filter (fun x => decide (x.h = h)) = [c] := by
  rw [List.filter_append, List.filter_eq_nil_iff.mpr (by simpa using hl)]
  simp [hc]

/-- An accepted commit reads back with PEND set, and waits once. -/
theorem State.storeCommit_accepted (s : State) (h ctx : Nat) {ws : List Word} (hws : ws.length = 4) :
    let t := s.storeCommit h ws ctx
    t.rd (A.htabE0 h) = setFlag (ws.getD 0 0) 31 true ∧ t.rd (A.htabE1 h) = ws.getD 1 0 ∧
      t.rd (A.htabE2 h) = ws.getD 2 0 ∧ t.rd (A.htabE3 h) = ws.getD 3 0 ∧
      (t.force.commits.filter fun c => c.h = h).length = 1 ∧
      (∃ c ∈ t.force.commits, c.h = h ∧ c.ctx = ctx ∧ c.received = none) := by
  intro t
  have hword (k : Nat) (hk : 0 < k) (hk4 : k < 4) : t.rd (A.htabE0 h + 8 * k) = ws.getD k 0 :=
    storeCommit_rd_other s h ctx hk (by omega)
  obtain ⟨h1, h2, h3⟩ := htab_words h
  obtain ⟨p, hp⟩ := storeCommit_commits s h ctx ws
  refine ⟨storeCommit_rd_E0 s h ctx (by omega), h1 ▸ hword 1 (by omega) (by omega), h2 ▸ hword 2 (by omega) (by omega),
    h3 ▸ hword 3 (by omega) (by omega), ?_, ?_⟩
  · have hothers : ∀ x ∈ (s.force.commits.filter fun c => c.h ≠ h).map (Commit.sentIf p), x.h ≠ h := by
      intro x hx
      obtain ⟨y, hy, rfl⟩ := List.mem_map.mp hx
      exact of_decide_eq_true (List.mem_filter.mp hy).2
    rw [hp]
    exact congrArg List.length (filter_commits_append hothers rfl)
  · exact ⟨_, hp ▸ List.mem_append_right _ (List.mem_singleton.mpr rfl), rfl, rfl, rfl⟩

/-- Settles O24: an accepted commit by `storeCommit_accepted`, a refused one changes the error records alone. -/
theorem handleCommit : Obligations.HandleCommit := by
  unfold Obligations.HandleCommit
  intro s h ctx v hh hplain
  have hexec : exec (.htabCommit h v ctx) s = .next (s.acceptEntry s h v ctx) :=
    (onIndex_of s hh).trans (congrArg Host.Outcome.next (csrAccess_plain s hplain))
  have hglobal : sliceOf (A.htabE3 h) = none := sliceOf_htabE3 hh
  let u := s.setStage ctx Stage.empty
  let ws := s.commitWords h v ctx
  cases hok : s.commitOk h (HEntry.ofWords (ws.getD 0 0) (ws.getD 1 0) (ws.getD 2 0) (ws.getD 3 0)) with
  | true =>
    have hnext : s.acceptEntry s h v ctx = u.storeCommit h ws ctx := if_pos hok
    refine ⟨u.storeCommit h ws ctx, hexec.trans (congrArg _ hnext), ?_, fun _ => ?_, fun hno => ?_⟩
    · rw [storeCommit_stageOf, stageOf_setStage]
    · exact storeCommit_accepted u h ctx (length_commitWords s h v ctx)
    · exact absurd (hok.symm.trans hno) (by decide)
  | false =>
    have hnext : s.acceptEntry s h v ctx = u.refuseCfg (A.htabE3 h) ctx :=
      if_neg fun hyes => Bool.false_ne_true (hok.symm.trans hyes)
    have hrd (r : Nat) : (u.refuseCfg (A.htabE3 h) ctx).rd r = s.rd r :=
      (refuseCfg_rd u hglobal ctx r).trans (setStage_rd s ctx _ r)
    have hforce : (u.refuseCfg (A.htabE3 h) ctx).force = u.force := refuseCfg_force u hglobal ctx
    refine ⟨u.refuseCfg (A.htabE3 h) ctx, hexec.trans (congrArg _ hnext), ?_, fun hyes => ?_, fun _ =>
      ⟨hrd _, hrd _, hrd _, hrd _, ?_, rfl⟩⟩
    · rw [stageOf_congr hforce, stageOf_setStage]
    · exact absurd (hyes.symm.trans hok) (by decide)
    · rw [hforce, setStage_commits]

end Sys2Proof.Machine
end

section
/-! PROOF. A commit that its mirrors have received takes effect in all of them (O25). -/

namespace Sys2Proof.Machine

open State

/-! ### The last mirror receives the entry -/

theorem State.pealOf_modPeal {s : State} {id : Nat} {p : Peal} (h : s.pealOf id = some p) {f : Peal → Peal}
    (hf : ∀ x : Peal, (f x).id = x.id) : (s.modPeal id f).pealOf id = some (f p) := by
  have hid : p.id = id := of_decide_eq_true (List.find?_some (p := fun x : Peal => decide (x.id = id)) h)
  unfold State.pealOf State.modPeal at *
  rw [List.find?_map]
  have hsame : ((fun x : Peal => decide (x.id = id)) ∘ fun x : Peal => if x.id = id then f x else x) =
      fun x : Peal => decide (x.id = id) := by
    funext x
    by_cases hx : x.id = id <;> simp [hx, hf]
  rw [hsame, h, Option.map_some, if_pos hid]

/-- The peal write of an entry that reaches its last slice has brought it to every mirror. -/
theorem State.pealReached_last {s : State} {id sl h : Nat} {p : Peal} (hp : s.pealOf id = some p) (hleft : p.left = [sl])
    (hmirror : p.mirror = some h) :
    s.pealReached id sl = (s.modPeal id fun p => { p with left := p.left.erase sl }).mirrorDone h := by
  have hmod := pealOf_modPeal hp (f := fun p => { p with left := p.left.erase sl }) fun _ => rfl
  have hempty : (p.left.erase sl).isEmpty = true := by simp [hleft]
  unfold State.pealReached
  simp only [hmod, hmirror, hempty, if_true]

theorem State.mirrorDone_received {s : State} {h : Nat} {c : Commit} (hc : c ∈ (s.mirrorDone h).force.commits)
    (hh : c.h = h) : c.received = some s.now := by
  obtain ⟨x, -, rfl⟩ := List.mem_map.mp hc
  by_cases hx : x.h = h
  · simp [hx]
  · simp [hx] at hh

/-! ### The mirrors -/

theorem mirrorKey_inj {sl sl' h w w' : Nat} (hw : w < 4) (hw' : w' < 4) :
    mirrorKey sl' h w' = mirrorKey sl h w ↔ sl' = sl ∧ w' = w := by
  unfold mirrorKey
  omega

section
variable (s : State) (sl h : Nat)

theorem State.putMirror_only (w : Nat) (v : Word) : s.putMirror sl h w v =
    { s with
      force := { s.force with mirror := Tbl.put 0 s.force.mirror (mirrorKey sl h w) v }
      tuner := (s.putMirror sl h w v).tuner } := by
  unfold State.putMirror
  exact moveGolden_only ..

theorem State.mirrorWord_putMirror {sl' w w' : Nat} (v : Word) (hw : w < 4) (hw' : w' < 4) :
    (s.putMirror sl h w v).mirrorWord sl' h w' = if sl' = sl ∧ w' = w then v else s.mirrorWord sl' h w' := by
  rw [putMirror_only]
  refine (Tbl.get_put _ _ _ _ _ _ fun _ => rfl).trans ?_
  simp only [mirrorKey_inj hw hw']
  rfl

/-- An entry is written to one mirror. -/
def State.putEntryMirror (s : State) (sl h : Nat) (ws : List Word) : State :=
  ws.zipIdx.foldl (fun (u : State) (p : Word × Nat) => u.putMirror sl h p.2 p.1) s

theorem State.putEntryMirror_append (ws : List Word) (v : Word) :
    s.putEntryMirror sl h (ws ++ [v]) = (s.putEntryMirror sl h ws).putMirror sl h ws.length v := by
  simp [State.putEntryMirror, List.zipIdx_append]

theorem State.mirrorWord_putEntryMirror {sl' w : Nat} {ws : List Word} (hws : ws.length ≤ 4) (hw : w < 4) :
    (s.putEntryMirror sl h ws).mirrorWord sl' h w =
      if sl' = sl ∧ w < ws.length then ws.getD w 0 else s.mirrorWord sl' h w := by
  induction ws using appendSingletonInduction with
  | nil => exact (if_neg fun hc => Nat.not_lt_zero w hc.2).symm
  | append_singleton ws v ih =>
    rw [List.length_append, List.length_singleton] at hws ⊢
    rw [putEntryMirror_append, mirrorWord_putMirror _ _ _ _ (by omega) hw, ih (by omega)]
    by_cases hlast : w = ws.length
    · simp [hlast]
    · by_cases hbefore : w < ws.length
      · simp [hlast, hbefore, Nat.lt_succ_of_lt hbefore]
      · rw [if_neg (by omega), if_neg (by omega), if_neg (by omega)]

/-- Only mirrors and the Tuner's record of them differ: what a write of mirrors gives. -/
def State.OnlyMirrors (s t : State) : Prop :=
  t = { s with force := { s.force with mirror := t.force.mirror }, tuner := t.tuner }

theorem State.onlyMirrors_foldl {α : Type} (l : List α) (f : State → α → State) (hf : ∀ t x, State.OnlyMirrors t (f t x)) :
    s.OnlyMirrors (l.foldl f s) := by
  induction l generalizing s with
  | nil => rfl
  | cons x l ih =>
    have hx : f s x = _ := hf s x
    have hl := ih (f s x)
    unfold State.OnlyMirrors at hl ⊢
    rw [List.foldl_cons, hl, hx]

theorem State.putEntryMirror_only (ws : List Word) : s.OnlyMirrors (s.putEntryMirror sl h ws) :=
  onlyMirrors_foldl _ _ _ fun t x => by
    unfold State.OnlyMirrors
    rw [putMirror_only]

/-- An entry is written to the mirrors of some slices. -/
def State.putMirrors (s : State) (sls : List Nat) (h : Nat) (ws : List Word) : State :=
  s.each sls fun t sl => t.putEntryMirror sl h ws

theorem State.putMirrors_only (sls : List Nat) (ws : List Word) : s.OnlyMirrors (s.putMirrors sls h ws) :=
  onlyMirrors_foldl _ _ _ fun t x => putEntryMirror_only t x h ws

theorem State.mirrorWord_putMirrors {w : Nat} {sls : List Nat} {ws : List Word} (hsl : sl ∈ sls) (hws : ws.length = 4)
    (hw : w < 4) : (s.putMirrors sls h ws).mirrorWord sl h w = ws.getD w 0 := by
  induction sls using appendSingletonInduction with
  | nil => exact absurd hsl (List.not_mem_nil)
  | append_singleton sls x ih =>
    have happend : s.putMirrors (sls ++ [x]) h ws = (s.putMirrors sls h ws).putEntryMirror x h ws := by
      simp [State.putMirrors, State.each]
    rw [happend, mirrorWord_putEntryMirror _ _ _ (by omega) hw]
    by_cases hx : sl = x
    · rw [if_pos ⟨hx, by omega⟩]
    · rw [if_neg (fun hc => hx hc.1), ih ((List.mem_append.mp hsl).resolve_right (by simpa using hx))]

theorem State.putMirrors_rd (sls : List Nat) (ws : List Word) (a : Nat) : (s.putMirrors sls h ws).rd a = s.rd a := by
  have hmirrors : s.putMirrors sls h ws = _ := putMirrors_only s h sls ws
  rw [hmirrors]
  rfl

/-- No commit of the entry waits. -/
def State.dropCommit (s : State) (h : Nat) : State :=
  { s with force := { s.force with commits := s.force.commits.filter fun c => c.h ≠ h } }

theorem State.dropCommit_rd (a : Nat) : (s.dropCommit h).rd a = s.rd a := rfl

/-- An entry in force: every mirror holds it, PEND is clear, and it waits no more. -/
def State.enforce (s : State) (h : Nat) : State :=
  ((s.putMirrors s.sliceList h (s.tableWords h)).putB (A.htabE0 h) 31 false).dropCommit h

theorem State.handleEffect_eq : s.handleEffect h = (s.enforce h).bindGuard h := rfl

theorem State.enforce_only : s.enforce h = { s with
    csr := (s.enforce h).csr, tuner := (s.enforce h).tuner
    force := { s.force with
      mirror := (s.enforce h).force.mirror, commits := s.force.commits.filter fun c => c.h ≠ h } } := by
  have hmirrors : s.putMirrors s.sliceList h (s.tableWords h) = _ := putMirrors_only s h _ _
  unfold State.enforce
  rw [hmirrors]
  rfl

theorem State.enforce_rd (a : Nat) :
    (s.enforce h).rd a = if a = A.htabE0 h then setFlag (s.rd (A.htabE0 h)) 31 false else s.rd a := by
  unfold State.enforce
  rw [dropCommit_rd, rd_putB, putMirrors_rd, putMirrors_rd]

theorem State.enforce_pend : (s.enforce h).getB (A.htabE0 h) 31 = false := by
  unfold State.getB
  rw [enforce_rd, if_pos rfl, flag_setFlag _ _ _ _ (by omega) (by omega), if_pos rfl]

theorem State.enforce_mirrorWord {sl w : Nat} (hsl : sl < s.nSlices) (hw : w < 4) :
    (s.enforce h).mirrorWord sl h w = (s.tableWords h).getD w 0 :=
  mirrorWord_putMirrors s sl h (List.mem_range.mpr hsl) rfl hw

end

/-! ### Ring guards follow -/

theorem State.bindGuard_force (s : State) {h : Nat} (hh : h < 4096) : (s.bindGuard h).force = s.force := by
  have hfreed (l : List Nat) (f : State → Nat → State) (hf : ∀ t sl, (f t sl).force = t.force) :
      (s.each l f).force = s.force :=
    foldl_of (P := fun t => t.force = s.force) l f rfl fun t sl ht => (hf t sl).trans ht
  unfold State.bindGuard
  extract_lets freed
  have hf : freed.force = s.force := hfreed _ _ fun t sl => by
    split
    · exact (putF_force ..).trans (wr_force ..)
    · rfl
  split
  · exact hf
  · split
    · exact (putF_force ..).trans ((wr_force ..).trans hf)
    · exact (refuseCfg_force _ (sliceOf_htabE3 hh) _).trans ((putB_force ..).trans hf)

theorem State.bindGuard_now (s : State) (h : Nat) : (s.bindGuard h).now = s.now := by
  have hregs : s.OnlyRegs (s.bindGuard h) := bindGuard_regs (onlyRegs_refl s) h
  rw [State.now, hregs]
  rfl

theorem State.reach_tableWords (s : State) (h t : Nat) : (s.reach t).tableWords h = s.tableWords h := by
  simp only [State.tableWords, reach_rd]

theorem State.reach_nSlices (s : State) (t : Nat) : (s.reach t).nSlices = s.nSlices := by
  simp only [State.nSlices, State.getF, reach_rd]

/-- Settles O25: the received commit is `enforce`d in the clk behind, and the ring guards are bound after it. -/
theorem handleTakesEffect : Obligations.HandleTakesEffect := by
  unfold Obligations.HandleTakesEffect
  refine ⟨fun s id sl h p hp hleft hmirror c hc hh => ?_, fun s h c k hh hk hrec hready => ?_⟩
  · rw [pealReached_last hp hleft hmirror] at hc
    exact mirrorDone_received hc hh
  · let v := s.reach (c + 1)
    have heffect : s.takeEffect h = (v.enforce h).bindGuard h := by
      have hrecv : (s.force.commits.find? fun c => c.h = h).bind Commit.received = some c := by rw [hk]; exact hrec
      unfold State.takeEffect
      rw [hrecv]
      exact (if_pos hready).trans (handleEffect_eq v h)
    refine ⟨(v.enforce h).bindGuard h, v.enforce h, ?_, rfl, ?_, bindGuard_force _ hh, ?_, enforce_pend v h,
      fun sl w hsl hw => ?_, ?_, fun a ha => ?_⟩
    · exact (onIndex_of s hh).trans (congrArg _ heffect)
    · rw [bindGuard_now, enforce_only]
      exact reach_now s (c + 1)
    · rw [enforce_only]
      exact fun x hx => of_decide_eq_true (List.mem_filter.mp hx).2
    · rw [← reach_tableWords s h (c + 1)]
      exact enforce_mirrorWord v h (reach_nSlices s (c + 1) ▸ hsl) hw
    · rw [enforce_only]
      exact reach_mem s (c + 1)
    · rw [enforce_rd, if_neg ha]
      exact reach_rd s (c + 1) a

end Sys2Proof.Machine
end

section
/-! PROOF. Writes of STATE and KNEXT of a context (O26). -/

namespace Sys2Proof.Machine

open State

/-! ### Writing CTX_E0 (R120, R121) -/

theorem sliceOf_ctxE0 {c : Nat} (hc : c < 64) : sliceOf (A.ctxE0 c) = none :=
  if_neg fun hslice => by simp only [A.ctxE0] at hslice; omega

/-- What a register outside the slice windows reads after a write (R9, R11). -/
theorem State.storeReg_rd (s : State) {a : Nat} (ha : sliceOf a = none) (v : Word) (idle : Bool) (ctx : Nat) :
    (s.storeReg a v idle ctx).rd a = writeFields (masksOf a) (s.rd a) v idle := by
  have hstored (m : RegMasks) (old new : Word) : ((s.keepForce a m old new).wrCfg a new).rd a = new := by
    rw [wrCfg_rd, if_pos rfl]
  unfold State.storeReg
  extract_lets m old new t
  split
  · exact (refuseCfg_rd _ ha ctx a).trans (hstored ..)
  · exact hstored ..

theorem masksOf_ctxE0 : ∀ c < 64, masksOf (A.ctxE0 c) =
    ⟨0xFF00000000, 0xFFFFFFFF, 0x0, 0x1C00000000, 0x0, 0x0, 0x0⟩ := by decide +kernel

/-- STATE is an RW field of CTX_E0. -/
theorem State.ctxState_storeReg (s : State) {c : Nat} (hc : c < 64) (v : Word) (idle : Bool) (ctx : Nat) :
    (s.storeReg (A.ctxE0 c) v idle ctx).ctxState c = fld v 32 2 := by
  unfold State.ctxState State.getF
  rw [storeReg_rd s (sliceOf_ctxE0 hc), masksOf_ctxE0 c hc]
  refine congrArg BitVec.toNat ?_
  unfold writeFields
  cases idle <;> ext i hi <;> obtain rfl | rfl : i = 0 ∨ i = 1 := by omega
  all_goals simp

section
variable {s : State} {c ctx : Nat} {v : Word}

/-- The present STATE is stored again. -/
theorem State.storeCtx_of_same (hsame : fld v 32 2 = s.ctxState c) :
    s.storeCtx s c v ctx = s.storeReg (A.ctxE0 c) (setFld v 32 2 (s.ctxState c)) (decide (s.ctxState c = 0)) ctx := by
  simp [State.storeCtx, hsame]

/-- A transition that R121 does not allow keeps STATE, and is recorded once with a refused change of JOBID. -/
theorem State.storeCtx_of_refused (hne : fld v 32 2 ≠ s.ctxState c)
    (hmay : s.stateMayChange c (s.ctxState c) (fld v 32 2) = false) :
    let a := A.ctxE0 c
    let v' := setFld v 32 2 (s.ctxState c)
    let idle := decide (s.ctxState c = 0)
    s.storeCtx s c v ctx =
      if refusedS (masksOf a) (s.rd a) v' idle then s.storeReg a v' idle ctx
      else (s.storeReg a v' idle ctx).refuseCfg a ctx := by
  intro a v' idle
  cases hjob : refusedS (masksOf a) (s.rd a) v' idle <;> simp [State.storeCtx, hne, hmay, hjob, a, v', idle]

/-- A transition that R121 allows is stored; RUN is entered with a kernel boundary, and PAUSED pauses streams. -/
theorem State.storeCtx_of_allowed (hne : fld v 32 2 ≠ s.ctxState c)
    (hmay : s.stateMayChange c (s.ctxState c) (fld v 32 2) = true) :
    let t := s.storeReg (A.ctxE0 c) v (decide (s.ctxState c = 0)) ctx
    s.storeCtx s c v ctx = if fld v 32 2 = 1 then (t.kernelBoundary c).ctxContinues c
      else if fld v 32 2 = 2 then t.ctxPauses c else t := by
  simp [State.storeCtx, hne, hmay]

end

/-! ### A kernel boundary (R268) -/

/-- EPOCH rises, and what CTX_E0 holds is in force. -/
def State.startEpoch (s : State) (c : Nat) : State :=
  let t := s.count (A.ctxE1 c) 0 32 1
  { t with force := { t.force with
    boundary := Tbl.insert t.force.boundary c (s.now + 1)
    value := Tbl.erase t.force.value (A.ctxE0 c) } }

theorem State.kernelBoundary_of_first {s : State} {c : Nat} (h : s.atBoundary c = false) :
    let u := s.startEpoch c
    s.kernelBoundary c = (u.sliceList.foldl (fun t sl => t.boundaryIn sl c) u).effectReady :=
  if_neg (by simp [h])

section
variable (s : State) (c : Nat)

theorem State.startEpoch_rd (a : Nat) : (s.startEpoch c).rd a =
    if a = A.ctxE1 c then setFld (s.rd (A.ctxE1 c)) 0 32 (s.getF (A.ctxE1 c) 0 32 + 1) else s.rd a :=
  rd_putF s _ _ _ _ a

theorem State.startEpoch_epoch : (s.startEpoch c).getF (A.ctxE1 c) 0 32 = (s.getF (A.ctxE1 c) 0 32 + 1) % 2 ^ 32 := by
  rw [State.getF, startEpoch_rd, if_pos rfl, fld_setFld _ _ _ _ (by omega)]

theorem State.startEpoch_inForce : (s.startEpoch c).inForce (A.ctxE0 c) = (s.startEpoch c).rd (A.ctxE0 c) :=
  (Tbl.get_erase ..).trans (if_pos rfl)

end

/-- Settles O26: the three cases of a write of STATE, and KNEXT by the epoch that it starts. -/
theorem contextWrites : Obligations.ContextWrites := by
  unfold Obligations.ContextWrites
  refine ⟨fun s c ctx v hc hplain => ?state, fun s c ctx v idle hc => ctxState_storeReg s hc v idle ctx,
    fun s c ctx v hc hplain hno => ?no_knext, fun s c ctx v hc hplain hknext hfirst => ?knext⟩
  case state =>
    have hexec : exec (.ctxE0Write c v ctx) s = .next (s.storeCtx s c v ctx) :=
      (onIndex_of s hc).trans (congrArg Host.Outcome.next (csrAccess_plain s hplain))
    exact ⟨fun hsame => hexec.trans (congrArg _ (storeCtx_of_same hsame)),
      fun hne hmay => hexec.trans (congrArg _ (storeCtx_of_refused hne hmay)),
      fun hne hmay => hexec.trans (congrArg _ (storeCtx_of_allowed hne hmay))⟩
  all_goals
    have hexec : exec (.ctxKnextWrite c v ctx) s = .next (s.storeKnext c v) :=
      (onIndex_of s hc).trans (congrArg Host.Outcome.next (csrAccess_plain s hplain))
  case no_knext => exact hexec.trans (congrArg _ (if_neg (by simp [hno])))
  case knext =>
    have hboundary : s.storeKnext c v = s.kernelBoundary c := if_pos hknext
    exact ⟨s.startEpoch c, hexec.trans (congrArg _ (hboundary.trans (kernelBoundary_of_first hfirst))), rfl,
      startEpoch_epoch s c, startEpoch_inForce s c, fun a ha => (startEpoch_rd s c a).trans (if_neg ha), rfl, rfl⟩

end Sys2Proof.Machine
end

section
/-! PROOF. A handover of banks from its GO to the new owners, and drains that end by timeout (O27). -/

namespace Sys2Proof.Machine

open State

/-! ### Owners (R127, R129) -/

theorem State.ownerOf_lt (s : State) (sl b : Nat) : s.ownerOf sl b < 64 := (BitVec.extractLsb' 0 6 _).isLt

theorem own_ne_ctxE1 {c : Nat} (hc : c < 64) (sl b : Nat) : A.own sl b ≠ A.ctxE1 c := by
  simp only [A.own, A.ctxE1, sliceAddr]
  omega

theorem own_inj {sl sl' b b' : Nat} (hb : b < 64) (hb' : b' < 64) : A.own sl' b' = A.own sl b ↔ sl' = sl ∧ b' = b := by
  simp only [A.own, sliceAddr]
  omega

section
variable (s : State) (sl : Nat)

theorem State.ownerOf_congr {s t : State} {sl b : Nat} (h : t.rd (A.own sl b) = s.rd (A.own sl b)) :
    t.ownerOf sl b = s.ownerOf sl b := congrArg (fld · 0 6) h

/-- A bank given to a context is owned by it; every other bank keeps its owner. -/
theorem State.ownerOf_giveBank {sl' b b' c : Nat} (hb : b < 64) (hb' : b' < 64) (hc : c < 64) :
    (s.giveBank sl b c).ownerOf sl' b' = if sl' = sl ∧ b' = b then c else s.ownerOf sl' b' := by
  unfold State.giveBank
  extract_lets o t u
  have hcounts : u.rd (A.own sl' b') = s.rd (A.own sl' b') := by
    rw [rd_putF, if_neg (own_ne_ctxE1 hc sl' b'), rd_putF, if_neg (own_ne_ctxE1 (ownerOf_lt s sl b) sl' b')]
  unfold State.putCfg
  by_cases hsame : sl' = sl ∧ b' = b
  · obtain ⟨rfl, rfl⟩ := hsame
    rw [if_pos ⟨rfl, rfl⟩, State.ownerOf, State.getF, wrCfg_rd, if_pos rfl, fld_setFld _ _ _ _ (by omega)]
    exact Nat.mod_eq_of_lt hc
  · rw [if_neg hsame]
    refine ownerOf_congr ?_
    rw [wrCfg_rd, if_neg fun ha => hsame ((own_inj hb hb').mp ha), hcounts]

/-- Some banks of a slice are given to a context. -/
def State.giveBanks (s : State) (sl c : Nat) (banks : List Nat) : State := s.each banks fun t b => t.giveBank sl b c

theorem State.giveBanks_only (c : Nat) (banks : List Nat) : s.OnlyRegs (s.giveBanks sl c banks) :=
  each_regs (onlyRegs_refl s) _ _ fun _ _ ht => giveBank_regs ht ..

theorem State.ownerOf_giveBanks {sl' b c : Nat} {banks : List Nat} (hbanks : ∀ x ∈ banks, x < 64) (hb : b < 64)
    (hc : c < 64) :
    (s.giveBanks sl c banks).ownerOf sl' b = if sl' = sl ∧ b ∈ banks then c else s.ownerOf sl' b := by
  induction banks generalizing s with
  | nil => exact (if_neg fun h => List.not_mem_nil h.2).symm
  | cons x banks ih =>
    have hcons : s.giveBanks sl c (x :: banks) = (s.giveBank sl x c).giveBanks sl c banks := rfl
    rw [hcons, ih _ fun y hy => hbanks y (List.mem_cons_of_mem x hy),
      ownerOf_giveBank s sl (hbanks x (List.mem_cons_self ..)) hb hc]
    by_cases hrest : sl' = sl ∧ b ∈ banks
    · rw [if_pos hrest, if_pos ⟨hrest.1, List.mem_cons_of_mem x hrest.2⟩]
    · have hfirst : (sl' = sl ∧ b ∈ x :: banks) ↔ (sl' = sl ∧ b = x) := by
        rw [List.mem_cons]
        exact ⟨fun h => ⟨h.1, h.2.resolve_right fun hb => hrest ⟨h.1, hb⟩⟩, fun h => ⟨h.1, .inl h.2⟩⟩
      rw [if_neg hrest]
      simp only [hfirst]

theorem mem_bitsOf {m : BitVec 64} {b : Nat} : b ∈ bitsOf m ↔ b < 64 ∧ m.getLsbD b = true := by
  simp [bitsOf]

end

/-! ### The end of a handover (R129) -/

theorem State.endHandover_rd (s : State) (sl : Nat) (h : Handover) (result : Nat) : ∃ w : Word,
    (s.endHandover sl h result).rd (A.ownXfer sl) =
      setFld (setFld (setFlag w 8 false) 9 3 result) 16 16 (min h.aborts 0xFFFF) := by
  unfold State.endHandover
  extract_lets t
  refine ⟨t.rd (A.ownXfer sl), ?_⟩
  rw [rd_putF, if_pos rfl, rd_putF, if_pos rfl, rd_putB, if_pos rfl]

/-- BUSY is clear, with the result and the count of aborted accesses. -/
theorem State.endHandover_shows (s : State) (sl : Nat) (h : Handover) {result : Nat} (hres : result < 8) :
    let e := s.endHandover sl h result
    e.getB (A.ownXfer sl) 8 = false ∧ e.getF (A.ownXfer sl) 9 3 = result ∧
      e.getF (A.ownXfer sl) 16 16 = min h.aborts 0xFFFF := by
  intro e
  obtain ⟨w, hw⟩ := endHandover_rd s sl h result
  refine ⟨?_, ?_, ?_⟩
  · rw [State.getB, hw, flag_setFld _ _ _ _ _ (by omega) (by omega), if_neg (by omega),
      flag_setFld _ _ _ _ _ (by omega) (by omega), if_neg (by omega), flag_setFlag _ _ _ _ (by omega) (by omega),
      if_pos rfl]
  · rw [State.getF, hw, fld_setFld_ne _ _ _ _ _ _ (by omega) (by omega) (by omega), fld_setFld _ _ _ _ (by omega)]
    exact Nat.mod_eq_of_lt hres
  · rw [State.getF, hw, fld_setFld _ _ _ _ (by omega)]
    exact Nat.mod_eq_of_lt (by omega)

/-- The banks of a handover with their new owner, in the clk behind. -/
def State.handed (s : State) (sl : Nat) (h : Handover) : State :=
  ((s.reach h.ready).giveBanks sl h.newOwner (bitsOf h.mask)).pass 1

theorem State.ownerOf_handed (s : State) {sl a b : Nat} {h : Handover} (hown : h.newOwner < 64) (hb : b < 64) :
    (s.handed sl h).ownerOf a b = if a = sl ∧ h.mask.getLsbD b = true then h.newOwner else s.ownerOf a b := by
  have hbanks : ∀ x ∈ bitsOf h.mask, x < 64 := fun x hx => (mem_bitsOf.mp hx).1
  have hgiven := ownerOf_giveBanks (s.reach h.ready) sl (sl' := a) hbanks hb hown
  rw [ownerOf_congr (reach_rd s h.ready (A.own a b))] at hgiven
  simp only [mem_bitsOf, hb, true_and] at hgiven
  exact (ownerOf_congr (pass_rd _ 1 _)).trans hgiven

theorem State.handoverComplete_of_drained {s : State} {sl : Nat} {h : Handover} (hh : (s.slice sl).handover = some h)
    (hd : h.drained = true) :
    let e := (s.handed sl h).endHandover sl h (if h.aborts = 0 then 1 else 3)
    s.handoverComplete sl = e.nextKillHandover sl (e.slice sl).killHandovers.length := by
  intro e
  unfold State.handoverComplete
  rw [hh]
  exact if_neg (by simp [hd])

section
variable {s : State} {sl : Nat}

/-! ### The start, and the drain (R128 to R130) -/

theorem exec_ownXferGo {ctx : Nat} {v : Word} (hslice : s.hasSlice sl = true) (hplain : s.plain (A.ownXfer sl) ctx = true) :
    exec (.ownXferGo sl v ctx) s = .next (s.storeXfer s sl v ctx) :=
  (onSlice_of s hslice).trans (congrArg Host.Outcome.next (csrAccess_plain s hplain))

theorem State.handoverDrainEnd_of {h : Handover} (hh : (s.slice sl).handover = some h) (hd : h.drained = false) :
    s.handoverDrainEnd sl = (s.reach (h.tf + s.latency)).drainHandover sl h := by
  unfold State.handoverDrainEnd
  rw [hh]
  exact if_neg (by simp [hd])

/-! ### Drains that end by timeout (R344) -/

theorem State.handoverTimeout_of {h : Handover} (hh : (s.slice sl).handover = some h) (hd : h.drained = false) :
    let r := (s.reach (h.tf + s.drainTmo)).cutLocal sl (h.tf + s.drainTmo) fun x =>
      decide (x.issued < h.tf) && decide (x.banks &&& h.mask ≠ 0)
    s.handoverTimeout sl = r.2.drainHandover sl { h with aborts := h.aborts + r.1 } := by
  intro r
  unfold State.handoverTimeout
  rw [hh]
  exact if_neg (by simp [hd])

theorem State.resetTimeout_of {u : UnitReset} (hu : s.boot.reset = some u) (hd : u.drained = false)
    (hawake : s.unitAwake u = true) :
    let t := (s.reach (max (u.tf + s.drainTmo) (s.unitTime u))).settleUnit u
    let r := t.abort (t.unitMine u) (t.unitHost u) (t.unitOut u)
    s.resetTimeout = r.2.resetUnit { u with aborts := u.aborts + r.1 + t.unitStrokes u } := by
  intro t r
  unfold State.resetTimeout
  rw [hu]
  exact if_neg (by simp [hd, hawake])

theorem State.killTimeout_of {c : Nat} {k : Kill} (hk : s.killOf c = some k) (hd : s.killDraining c = true) :
    ∃ (u : State) (n : Nat), s.killTimeout c = u.killBanks c n := by
  unfold State.killTimeout
  rw [hk]
  exact ⟨_, _, if_neg (by simp [hd])⟩

end

/-- Settles O27, clause by clause; the end of a handover by `handed`, which gives the owners, and `endHandover`. -/
theorem bankHandover : Obligations.BankHandover := by
  unfold Obligations.BankHandover
  refine ⟨fun s sl ctx v hslice hplain hidle => ?go, fun s sl ctx v hslice hplain hbusy => ?busy,
    fun s sl h hslice hh hd => ?drain, fun s sl h hslice hh hd hown => ?complete, fun s sl h hslice hh hd => ?timeout,
    fun s u hu hd hawake => congrArg _ (resetTimeout_of hu hd hawake),
    fun s c k hc hk hd => ⟨onIndex_of s hc, killTimeout_of hk hd⟩⟩
  case go => exact (exec_ownXferGo hslice hplain).trans (congrArg _ (if_neg (by simp [hidle])))
  case busy => exact (exec_ownXferGo hslice hplain).trans (congrArg _ (if_pos hbusy))
  case drain => exact (onSlice_of s hslice).trans (congrArg _ (handoverDrainEnd_of hh hd))
  case timeout => exact (onSlice_of s hslice).trans (congrArg _ (handoverTimeout_of hh hd))
  case complete =>
    have hres : (if h.aborts = 0 then 1 else 3) < 8 := by split <;> omega
    obtain ⟨hbusy, hresult, haborts⟩ := endHandover_shows (s.handed sl h) sl h hres
    have honly := giveBanks_only (s.reach h.ready) sl h.newOwner (bitsOf h.mask)
    refine ⟨s.handed sl h, (onSlice_of s hslice).trans (congrArg _ (handoverComplete_of_drained hh hd)), hbusy, hresult,
      haborts, fun b hb hm => ?_, fun a b hb hne => ?_, ?_, ?_, ?_⟩
    · rw [ownerOf_handed s hown hb, if_pos ⟨rfl, hm⟩]
    · rw [ownerOf_handed s hown hb, if_neg]
      rintro ⟨rfl, hm⟩
      exact hne.elim (fun h => h rfl) fun h => Bool.false_ne_true (h.symm.trans hm)
    · rw [State.handed, pass_now, State.now, honly]
      exact congrArg (· + 1) (reach_now s h.ready)
    · rw [State.handed, pass_mem, honly]
      exact reach_mem s h.ready
    · rw [State.handed, pass_slots, honly]
      exact reach_slots s h.ready

end Sys2Proof.Machine
end

section
/-! PROOF. The system port: target requests, responses on both sides, and the registers of its windows (O28, O29, O30). -/

namespace Sys2Proof.Machine

open State

/-! ### Target requests (R124, R125, R151) -/

theorem State.csrUp_of_spReady {s : State} (h : s.spReady = true) : s.csrUp = true := by
  simp only [State.spReady, Bool.and_eq_true] at h
  obtain ⟨⟨hup, -⟩, -⟩ := h
  exact hup

section
variable {s : State} {q : SpStaged}

/-- A request as it arrives, before it is matched against the windows. -/
def SpStaged.arriving (q : SpStaged) : SpStaged := { q with win := none, range := false }

/-- While the port is ready and what it addresses is awake, a request is accepted with its window and the mark of a tag
that is outstanding. -/
theorem State.spRequest_of_ready (hwin : q.win = s.sysWindow q.addr) (hrange : q.range = s.tagUsed q)
    (hready : s.spReady = true) (hawake : (s.spAwake q).1 = true) :
    s.spRequest q.arriving = (s.spAwake q).2.spAccept q := by
  have hmatched : ({ q.arriving with win := s.sysWindow q.addr, range := s.tagUsed q.arriving } : SpStaged) = q := by
    have htag : s.tagUsed q.arriving = s.tagUsed q := rfl
    rw [htag, ← hwin, ← hrange]
    rfl
  unfold State.spRequest
  extract_lets r w
  have hr : r = q := hmatched
  have hw : w = s.spAwake q := congrArg s.spAwake hr
  rw [hw, hr, if_neg (by simp [csrUp_of_spReady hready]), if_neg (by simp [hawake]), if_neg (by simp [hready])]

/-- A read and a write are requests that arrive. -/
theorem exec_spTarget {c : Instr} (htag : q.tag < 64)
    (hc : (∃ n, n < 64 ∧ c = .spTargetRead q.addr n q.tag ∧ q = ⟨q.addr, false, n, q.tag, [], q.win, q.range⟩) ∨
      (q.beats.length ≠ 0 ∧ q.beats.length ≤ 64 ∧ c = .spTargetWrite q.addr q.beats q.tag ∧
        q = ⟨q.addr, true, q.beats.length - 1, q.tag, q.beats, q.win, q.range⟩)) :
    exec c s = .next (s.spRequest q.arriving) := by
  obtain ⟨addr, write, len, tag, beats, win, range⟩ := q
  simp only [SpStaged.mk.injEq] at hc
  rcases hc with ⟨n, hn, rfl, -, rfl, rfl, -, rfl, -⟩ | ⟨hpos, hmax, rfl, -, rfl, rfl, -⟩
  · exact if_pos ⟨hn, htag⟩
  · exact if_pos ⟨hpos, hmax, htag⟩

theorem State.spAccept_of_free (hcan : s.spCan q = true) (hfree : ∀ x ∈ s.sysport.staged, s.spClass x ≠ s.spClass q) :
    s.spAccept q = s.spProceed q := by
  refine if_neg ?_
  rw [hcan, List.any_eq_true]
  rintro (⟨x, hx, hsame⟩ | hno)
  · exact hfree x hx (of_decide_eq_true hsame)
  · exact Bool.false_ne_true hno.symm

theorem State.spAccept_of_held (hheld : s.spCan q = false ∨ ∃ x ∈ s.sysport.staged, s.spClass x = s.spClass q) :
    s.spAccept q = { s with sysport := { s.sysport with staged := s.sysport.staged ++ [q] } } := by
  refine if_pos ?_
  rw [List.any_eq_true]
  exact hheld.symm.imp_left fun ⟨x, hx, hsame⟩ => ⟨x, hx, decide_eq_true hsame⟩

theorem State.spCode_of_range {i : Nat} (hrange : q.range = true) (hlive : s.ctxState (s.sysCtx i) ≠ 3) :
    s.spCode i q = rspRange := by
  rw [State.spCode, if_neg hlive, if_pos (.inl hrange)]

end

theorem exec_spTargetBadOp {s : State} {op tag : Nat} (hop : 2 ≤ op) (hop4 : op < 4) (htag : tag < 64)
    (hready : s.spReady = true) (hawake : s.cplxAwake = true) : exec (.spTargetBadOp op tag) s = .next (s.spAccept
      { addr := 0, write := true, len := 0, tag := tag, beats := [], win := none, range := true }) := by
  refine (if_pos ⟨hop4, htag⟩).trans (congrArg Host.Outcome.next ?_)
  rw [State.badOp, if_neg (by simp [hready]; omega), if_neg (by simp [hawake])]

/-- A request outside every window is answered RANGE (R125). -/
theorem State.spProceed_of_outside (s : State) {q : SpStaged} (hwin : q.win = none) : s.spProceed q = s.spRange q := by
  rw [State.spProceed, hwin]

/-- Settles O28: a request that arrives at a ready port is accepted; whether it proceeds, `spAccept` decides. -/
theorem systemPortTarget : Obligations.SystemPortTarget := by
  unfold Obligations.SystemPortTarget
  refine ⟨fun s c q htag hwin hrange hc hready hawake => ⟨fun hcan hfree => ?_, fun hheld => ?_⟩,
    fun s i q hrange hlive => spCode_of_range hrange hlive,
    fun s op tag hop hop4 htag hready hawake => exec_spTargetBadOp hop hop4 htag hready hawake,
    fun s q hwin => ⟨spProceed_of_outside s hwin, rfl, rfl, rfl, _, rfl, rfl, rfl, rfl⟩⟩
  all_goals rw [exec_spTarget htag hc, spRequest_of_ready hwin hrange hready hawake]
  · rw [spAccept_of_free hcan hfree]
  · rw [spAccept_of_held hheld]

/-! ### Responses (R123, R124, R206) -/

/-- The response of a complete request is shown from the clk in which it is ready, and its tag is free. -/
def State.showTxn (s : State) (x : SpTxn) : State :=
  let t := s.reach x.due
  { t with sysport := { t.sysport with txns := t.sysport.txns.erase x, shown := some x.driven } }

theorem State.spRespond_of_complete {s : State} {tag : Nat} {x : SpTxn}
    (hx : (s.sysport.txns.find? fun t => t.tag = tag ∧ t.need = 0) = some x) : s.spRespond tag = (s.showTxn x).spDrain := by
  unfold State.spRespond
  rw [hx]
  rfl

/-- The lines that an initiator response carries to its stream: those of a read answered OK or POISON. -/
def SpInit.rspLines (i : SpInit) (code : Nat) (data : List Line) : List LineRsp :=
  if !i.write && (decide (initCode code = rspOk) || decide (initCode code = rspPoison)) then
    (List.range i.lines.length).map fun k =>
      { pos := k, data := data.getD k 0, psn := if initCode code = rspPoison then 0xFF else 0 }
  else []

/-- The response as it goes to the stream. -/
def State.initRsp (s : State) (i : SpInit) (code : Nat) (data : List Line) : Resp :=
  { origin := .stream i.sl i.slot i.acc, ctx := i.ctx, cls := i.cls, tag := 0, write := i.write, code := initCode code
    lines := i.rspLines code data, clave := none, banks := 0, issued := s.now, due := s.now, since := s.accSince i }

/-- An initiator tag that is not outstanding. -/
def State.freeInit (s : State) (tag : Nat) : State :=
  { s with sysport := { s.sysport with inits := s.sysport.inits.filter fun (x : SpInit) => x.tag ≠ tag } }

theorem State.initResponse_of_outstanding {s : State} {tag : Nat} {i : SpInit} (code : Nat) (data : List Line)
    (hi : (s.sysport.inits.find? fun i => i.tag = tag) = some i) :
    s.initResponse tag code data = (s.freeInit tag).sendRsp 64 i.sl s.now (flitsOf (i.rspLines code data).length) 0 true
      (s.initRsp i code data) := by
  unfold State.initResponse
  rw [hi]
  rfl

theorem State.initResponse_of_late {s : State} {tag : Nat} (code : Nat) (data : List Line)
    (hi : (s.sysport.inits.find? fun i => i.tag = tag) = none) : s.initResponse tag code data = s.lateResponse := by
  unfold State.initResponse
  rw [hi]

theorem SpInit.rspLines_of_read {i : SpInit} (code : Nat) (data : List Line) (hread : i.write = false)
    (hok : initCode code = rspOk) : (i.rspLines code data).length = i.lines.length ∧
      ∀ k, k < i.lines.length → (i.rspLines code data)[k]? = some ⟨k, data.getD k 0, 0⟩ := by
  have hlines : i.rspLines code data = (List.range i.lines.length).map fun k => ⟨k, data.getD k 0, 0⟩ := by
    have hclean : ¬rspOk = rspPoison := by decide
    simp only [SpInit.rspLines, hread, hok, hclean]
    rfl
  rw [hlines]
  refine ⟨by simp, fun k hk => ?_⟩
  simp [List.getElem?_range hk]

/-- Settles O29: `showTxn` on the target side, `sendRsp` of `initRsp` on the initiator side. -/
theorem systemPortResponses : Obligations.SystemPortResponses := by
  unfold Obligations.SystemPortResponses
  refine ⟨fun s tag x hx => ?target, fun s tag code data i hi => ?initiator,
    fun s tag code data hi => congrArg Host.Outcome.next (initResponse_of_late code data hi), by decide⟩
  case target =>
    have hport : (s.reach x.due).sysport = s.sysport := reach_sysport s x.due
    refine ⟨s.showTxn x, congrArg Host.Outcome.next (spRespond_of_complete hx), rfl, ?_, ?_, reach_now s x.due,
      reach_csr s x.due, reach_mem s x.due⟩
    · exact congrArg (fun y => y.txns.erase x) hport
    · exact congrArg (fun y => y.staged) hport
  case initiator =>
    refine ⟨_, _, congrArg Host.Outcome.next (initResponse_of_outstanding code data hi), rfl, fun x hx => ?_, rfl, rfl, rfl,
      rfl, rfl, rfl, rfl, rfl, rfl, rfl, rfl, SpInit.rspLines_of_read code data⟩
    exact of_decide_eq_true (List.mem_filter.mp hx).2

/-! ### Window registers (R126) -/

/-- Settles O30: the register's address gives its window and place, and `storeSyswin` decides. -/
theorem systemWindowWrite : Obligations.SystemWindowWrite := by
  unfold Obligations.SystemWindowWrite
  intro s i reg ctx v hi hreg hplain
  have hwin : (A.syswinBase i + 8 * reg - 0x30000) / 32 = i := by simp only [A.syswinBase]; omega
  have hplace : decide ((A.syswinBase i + 8 * reg) % 32 = 0) = decide (reg = 0) :=
    decide_eq_decide.mpr (by simp only [A.syswinBase]; omega)
  refine (if_pos ⟨hi, hreg⟩).trans (congrArg Host.Outcome.next ((csrAccess_plain s hplain).trans ?_))
  unfold State.storeSyswin
  rw [hwin, hplace]

end Sys2Proof.Machine
end

section
/-! PROOF. A peal write leaves for every slice, reaches it, and completes (O32). -/

namespace Sys2Proof.Machine

open State

/-! ### The start (R142) -/

/-- The record of a peal write that leaves in the present clk. -/
def State.newPeal (s : State) (mem : Bool) (off : Nat) (data : Line) (ben : ByteEn) (ctx cls : Nat) (tag mirror : Option Nat) :
    Peal :=
  ⟨s.net.nextPeal, mem, off, data, ben, ctx, cls, tag, s.sliceList, [], rspOk, s.now, s.net.nextFlight, mirror⟩

/-- While fewer than 64 are under way, a peal write enters the mesh along the tree to every slice. -/
theorem State.beginPeal_of_room {s : State} (hroom : s.net.peals.length < 64) (mem : Bool) (off : Nat) (data : Line)
    (ben : ByteEn) (ctx cls : Nat) (tag mirror : Option Nat) :
    let t := s.beginPeal mem off data ben ctx cls tag mirror
    t.net.peals = s.net.peals ++ [s.newPeal mem off data ben ctx cls tag mirror] ∧
      ∃ f ∈ t.net.flights, f.id = s.net.nextFlight ∧ f.at' = s.now ∧ f.way = s.treeWay 64 s.sliceList := by
  simp only [State.beginPeal, if_neg (Nat.not_le.mpr hroom)]
  exact ⟨rfl, _, List.mem_append_right _ (List.mem_singleton.mpr rfl), rfl, rfl, rfl⟩

theorem State.beginPeal_mem (s : State) (mem : Bool) (off : Nat) (data : Line) (ben : ByteEn) (ctx cls : Nat)
    (tag mirror : Option Nat) : (s.beginPeal mem off data ben ctx cls tag mirror).mem = s.mem := by rw [beginPeal_only]

theorem State.beginPeal_slices (s : State) (mem : Bool) (off : Nat) (data : Line) (ben : ByteEn) (ctx cls : Nat)
    (tag mirror : Option Nat) : (s.beginPeal mem off data ben ctx cls tag mirror).slices = s.slices := by
  rw [beginPeal_only]

theorem exec_csrPealWrite {s : State} {off ctx : Nat} (v : Word) (hoff : off < 0x10000) (halign : off % 8 = 0)
    (hplain : s.plain (0x600000 + off) ctx = true) : exec (.csrPealWrite off v ctx) s =
      .next (s.beginPeal false off (v.setWidth 512) 0xFF ctx (s.dclass ctx) none none) :=
  (if_pos ⟨hoff, halign⟩).trans (congrArg Host.Outcome.next (csrAccess_plain s hplain))

theorem exec_memPealWrite {s : State} {off ctx : Nat} (data : Line) (ben : ByteEn) (hoff : off < 0x100000)
    (halign : off % 64 = 0) (hplain : s.plain (0x700000 + off) ctx = true) : exec (.memPealWrite off data ben ctx) s =
      .next (s.beginPeal true (s.getF A.glbPeal 0 18 + off / 64) data ben ctx (s.dclass ctx) none none) :=
  (if_pos ⟨hoff, halign⟩).trans (congrArg Host.Outcome.next (csrAccess_plain s hplain))

/-! ### At a slice (R143) -/

section
variable {s : State} {id sl : Nat} {p : Peal}

/-- The write at a slice that is not in Off, that no reset fences, and that is awake or has been woken. -/
def State.pealServed (s : State) (id sl : Nat) (p : Peal) : State :=
  if s.sliceServes sl = false then s else (s.pealReached id sl).pealApply p sl

/-- The write at a slice: skipped in Off, answered FENCED under a reset, served otherwise. -/
def State.pealMeets (s : State) (id sl : Nat) (p : Peal) : State :=
  if s.slicePower sl = 2 then (s.pealReached id sl).pealSkip sl
  else if (s.slice sl).fenceReset then (s.pealReached id sl).pealUndone id sl rspFenced
  else (s.wakeFor sl (if p.mem then 1 else 2)).pealServed id sl p

/-- A peal write that has still to reach the slice, behind every earlier one of its context, comes to it. -/
theorem exec_pealDeliver (hslice : s.hasSlice sl = true) (hp : s.pealOf id = some p) (hleft : p.left.contains sl = true)
    (hfirst : s.pealBehind p sl = false) : exec (.pealDeliver id sl) s =
      .next (((s.meshEvent fun n => n.firstOut p.flight (s.exitKey sl)).getD s).pealMeets id sl p) := by
  refine (onSlice_of s hslice).trans (congrArg Host.Outcome.next ?_)
  unfold State.pealArrives
  simp only [hp]
  rw [if_neg (by simpa [hfirst] using hleft)]
  rfl

theorem State.pealMeets_of_off (hoff : s.slicePower sl = 2) :
    s.pealMeets id sl p = (s.pealReached id sl).pealSkip sl := if_pos hoff

theorem State.pealMeets_of_fenced (hoff : s.slicePower sl ≠ 2) (hfence : (s.slice sl).fenceReset = true) :
    s.pealMeets id sl p = (s.pealReached id sl).pealUndone id sl rspFenced := (if_neg hoff).trans (if_pos hfence)

theorem State.pealMeets_of_open (hoff : s.slicePower sl ≠ 2) (hfence : (s.slice sl).fenceReset = false) :
    s.pealMeets id sl p = (s.wakeFor sl (if p.mem then 1 else 2)).pealServed id sl p :=
  (if_neg hoff).trans (if_neg (by simp [hfence]))

theorem State.pealServed_of_serves (h : s.sliceServes sl = true) :
    s.pealServed id sl p = (s.pealReached id sl).pealApply p sl := if_neg (by simp [h])

theorem State.pealServed_of_asleep (h : s.sliceServes sl = false) : s.pealServed id sl p = s := if_pos h

/-! ### The response -/

/-- A peal write that has reached every slice and awaits no bank is answered, and leaves its place to another. -/
theorem State.pealDone_of_complete (hp : s.pealOf id = some p) (hleft : p.left = []) (hwaiting : p.waiting = []) :
    let t : State := { s with net := { s.net with peals := s.net.peals.filter fun x => x.id ≠ id } }
    s.pealDone id = (match p.tag with
      | some k => t.spPart k p.code t.now
      | none => if p.ctx = 0 ∧ p.mirror = none then { t with belfry := { t.belfry with pealCode := p.code } } else t).feedPeals := by
  unfold State.pealDone
  simp only [hp, hleft, hwaiting, List.isEmpty_nil, Bool.true_eq_false, or_self, if_false, Option.isNone_iff_eq_none] <;>
    rfl

end

/-- Settles O32: the start by `beginPeal_of_room`, the arrival by the cases of `pealMeets`, the response by
`pealDone_of_complete`. -/
theorem pealWrites : Obligations.PealWrites := by
  unfold Obligations.PealWrites
  refine ⟨fun s off ctx v hoff halign hplain hroom => ?csr, fun s off ctx data ben hoff halign hplain hroom => ?mem,
    fun s id sl p hslice hp hleft hfirst => ?arrives,
    fun s id p hp hleft hwaiting => congrArg Host.Outcome.next (pealDone_of_complete hp hleft hwaiting)⟩
  case csr =>
    obtain ⟨hpeals, hflight⟩ := beginPeal_of_room hroom false off (v.setWidth 512) 0xFF ctx (s.dclass ctx) none none
    exact ⟨_, exec_csrPealWrite v hoff halign hplain, hpeals, hflight, beginPeal_mem .., beginPeal_slices ..⟩
  case mem =>
    obtain ⟨hpeals, -⟩ :=
      beginPeal_of_room hroom true (s.getF A.glbPeal 0 18 + off / 64) data ben ctx (s.dclass ctx) none none
    exact ⟨_, exec_memPealWrite data ben hoff halign hplain, hpeals, beginPeal_mem .., beginPeal_slices ..⟩
  case arrives =>
    have hmeets := exec_pealDeliver hslice hp hleft hfirst
    refine ⟨fun hoff => ?_, fun hoff hfence => ?_, fun hoff hfence hserves => ?_, fun hoff hfence hasleep => ?_⟩
    · rw [hmeets, pealMeets_of_off hoff]
    · rw [hmeets, pealMeets_of_fenced hoff hfence]
    · rw [hmeets, pealMeets_of_open hoff hfence, pealServed_of_serves hserves]
    · rw [hmeets, pealMeets_of_open hoff hfence, pealServed_of_asleep hasleep]

end Sys2Proof.Machine
end
section
/-! SUPPORT. What the units of a slice leave alone as they work in the present clk: time, the mesh, the registers in which
slots and transfers stand, and the slots that classes have taken. -/

namespace Sys2Proof.Machine

open State

/-! ### Registers -/

/-- Registers that no unit of a slice writes by its work: the global ones, MESH_SHED, and control and shed mask of a slot. -/
def spared (a : Nat) : Prop :=
  a < 0x100000 ∨ a % 0x10000 = 0x6048 ∨
    (0x1000 ≤ a % 0x10000 ∧ a % 0x10000 < 0x1400 ∧ (a % 64 = 0x8 ∨ a % 64 = 0x30))

/-- Offsets of a slice window outside the registers of slots, MESH_SHED apart. -/
def workOff (off : Nat) : Bool :=
  decide (off < 0x10000) && decide (off ≠ 0x6048) && (decide (off < 0x1000) || decide (0x1400 ≤ off))

theorem not_spared_of_workOff {off : Nat} (h : workOff off = true) (sl : Nat) : ¬spared (sliceAddr sl off) := by
  simp only [workOff, Bool.and_eq_true, Bool.or_eq_true, decide_eq_true_eq] at h
  simp only [spared, sliceAddr]
  omega

theorem workOff_of_range {lo n k : Nat} (hk : k < n) (hlo : 0x1400 ≤ lo) (hhi : lo + 8 * n ≤ 0x6048) :
    workOff (lo + 8 * k) = true := by
  simp only [workOff, Bool.and_eq_true, Bool.or_eq_true, decide_eq_true_eq]
  omega

theorem workOff_of_stall {lo n k : Nat} (hk : k < n) (hhi : lo + 8 * n ≤ 0x1000) : workOff (lo + 8 * k) = true := by
  simp only [workOff, Bool.and_eq_true, Bool.or_eq_true, decide_eq_true_eq]
  omega

/-! ### The relation -/

/-- Time, the mesh and the build are the same in both states, and so are the registers that a slice's work spares and what
each class has taken of the slots. -/
structure State.KeepsMesh (s t : State) : Prop where
  build : t.build = s.build
  time : t.time = s.time
  net : t.net = s.net
  rd : ∀ a, spared a → t.rd a = s.rd a
  taken : ∀ sl, (t.slice sl).shares = (s.slice sl).shares ∧ (t.slice sl).turn = (s.slice sl).turn

theorem State.keepsMesh_refl (s : State) : s.KeepsMesh s := ⟨rfl, rfl, rfl, fun _ _ => rfl, fun _ => ⟨rfl, rfl⟩⟩

section
variable {s0 s : State}

/-- A change of what the relation does not speak of. -/
theorem State.keepsMesh_mk (h : s0.KeepsMesh s)
    {fuse pins beat force mem ports slots sysport fabric errors tuner power boot belfry free pending} :
    s0.KeepsMesh (State.mk s.build fuse pins s.time beat s.csr force mem s.slices ports slots s.net sysport fabric errors
      tuner power boot belfry free pending) := ⟨h.build, h.time, h.net, h.rd, h.taken⟩

theorem State.wr_mesh (h : s0.KeepsMesh s) {a : Nat} (ha : ¬spared a) (v : Word) : s0.KeepsMesh (s.wr a v) :=
  ⟨h.build, h.time, h.net, fun b hb => (rd_wr_ne s (by rintro rfl; exact ha hb) v).trans (h.rd b hb), h.taken⟩

theorem State.putF_mesh (h : s0.KeepsMesh s) (sl : Nat) {off : Nat} (ho : workOff off = true) (lo n v : Nat) :
    s0.KeepsMesh (s.putF (sliceAddr sl off) lo n v) := wr_mesh h (not_spared_of_workOff ho sl) _

theorem State.putB_mesh (h : s0.KeepsMesh s) (sl : Nat) {off : Nat} (ho : workOff off = true) (i : Nat) (b : Bool) :
    s0.KeepsMesh (s.putB (sliceAddr sl off) i b) := wr_mesh h (not_spared_of_workOff ho sl) _

theorem State.count_mesh (h : s0.KeepsMesh s) (sl : Nat) {off : Nat} (ho : workOff off = true) (lo n k : Nat) :
    s0.KeepsMesh (s.count (sliceAddr sl off) lo n k) := putF_mesh h sl ho ..

/-- A unit of a slice changes, but for what classes have taken. -/
theorem State.modSlice_mesh (h : s0.KeepsMesh s) (sl : Nat) (f : SliceSt → SliceSt)
    (hf : ∀ x, (f x).shares = x.shares ∧ (f x).turn = x.turn := by exact fun _ => ⟨rfl, rfl⟩) :
    s0.KeepsMesh (s.modSlice sl f) := by
  refine ⟨h.build, h.time, h.net, h.rd, fun k => ?_⟩
  simp only [State.modSlice, slice_setSlice]
  split
  · next hk => exact ⟨(hf _).1.trans (hk ▸ (h.taken k).1), (hf _).2.trans (hk ▸ (h.taken k).2)⟩
  · exact h.taken k

theorem State.modSlot_mesh (h : s0.KeepsMesh s) (sl j : Nat) (f : Slot → Slot) : s0.KeepsMesh (s.modSlot sl j f) :=
  keepsMesh_mk h

theorem State.modBank_mesh (h : s0.KeepsMesh s) (sl b : Nat) (f : Bank → Bank) : s0.KeepsMesh (s.modBank sl b f) :=
  keepsMesh_mk h

theorem State.each_mesh (h : s0.KeepsMesh s) (l : List Nat) (f : State → Nat → State)
    (hf : ∀ t i, s0.KeepsMesh t → s0.KeepsMesh (f t i)) : s0.KeepsMesh (s.each l f) := foldl_of l f h hf

/-! ### Error records (R281, R285) -/

theorem State.flushSlice_mesh (h : s0.KeepsMesh s) (sl : Nat) : s0.KeepsMesh (s.flushSlice sl) :=
  keepsMesh_mk (modSlice_mesh h sl _)

theorem State.pushRec_mesh (h : s0.KeepsMesh s) (sl : Nat) (r : ErrRec) : s0.KeepsMesh (s.pushRec sl r) :=
  ite_of _ (count_mesh h sl rfl ..) (flushSlice_mesh (modSlice_mesh h sl _) sl)

theorem State.sliceRec_mesh (h : s0.KeepsMesh s) (sl code aux : Nat) (slot : Option Nat) (ctx cls : Nat) (detail : Word) :
    s0.KeepsMesh (s.sliceRec sl code aux slot ctx cls detail) := pushRec_mesh h ..

theorem State.recordCe_mesh (h : s0.KeepsMesh s) (sl aux ctx cls : Nat) (detail : Word) :
    s0.KeepsMesh (s.recordCe sl aux ctx cls detail) :=
  ite_of _ h (ite_of _ (modSlice_mesh h sl _) (pushRec_mesh (modSlice_mesh h sl _) ..))

/-! ### Words of a bank (R37 to R56) -/

variable (sl b l w8 : Nat)

theorem State.putStored_mesh (h : s0.KeepsMesh s) (w : BitVec 80) : s0.KeepsMesh (s.putStored sl b l w8 w) := by
  unfold State.putStored
  split <;> exact keepsMesh_mk h

theorem State.writeCoded_mesh (h : s0.KeepsMesh s) (d : Word) (psn : Bool) :
    s0.KeepsMesh (s.writeCoded sl b l w8 d psn) := keepsMesh_mk (modBank_mesh (putStored_mesh sl b l w8 h _) sl b _)

theorem State.queueTest_mesh (h : s0.KeepsMesh s) (row : Nat) : s0.KeepsMesh (s.queueTest sl b row) :=
  ite_of _ h (ite_of _ (count_mesh h sl rfl ..) (keepsMesh_mk h))

theorem decodeWord_bits_le (w : BitVec 80) (a : BitVec 16) : (decodeWord w a).bits ≤ 2 := by
  unfold decodeWord
  extract_lets d syn
  repeat' split
  all_goals simp

theorem State.noteWord_mesh (h : s0.KeepsMesh s) (src ctx cls : Nat) {d : Decoded} (hd : d.bits ≤ 2) :
    s0.KeepsMesh (s.noteWord sl b l w8 src ctx cls d) :=
  have hcount : workOff (0x5040 + 8 * (d.bits - 1)) = true :=
    workOff_of_range (n := 2) (by omega) (by decide) (by decide)
  ite_of _ (recordCe_mesh (count_mesh h sl hcount ..) ..) (ite_of _ (sliceRec_mesh (count_mesh h sl rfl ..) ..)
    (ite_of _ (modBank_mesh (sliceRec_mesh (count_mesh h sl rfl ..) ..) ..) h))

theorem State.drainWord_mesh (h : s0.KeepsMesh s) (e : MergeEntry) : s0.KeepsMesh (s.drainWord sl b e w8) := by
  have hcoded : ∀ {t : State} (d : Word) (psn : Bool), s0.KeepsMesh t → s0.KeepsMesh (t.writeCoded sl b e.line w8 d psn) :=
    fun d psn ht => writeCoded_mesh sl b _ w8 ht d psn
  unfold State.drainWord
  extract_lets en d t t'
  have ht : s0.KeepsMesh t := noteWord_mesh sl b _ w8 h 4 0 0 (decodeWord_bits_le ..)
  exact ite_of _ (hcoded _ _ h) (ite_of _ h (ite_of _ (hcoded _ _ h) (ite_of _ (hcoded _ _ h)
    (hcoded _ _ (ite_of _ (queueTest_mesh sl b ht _) ht)))))

theorem State.drainLine_mesh (h : s0.KeepsMesh s) : s0.KeepsMesh (s.drainLine sl b l) := by
  unfold State.drainLine
  split
  · exact h
  · exact each_mesh (modBank_mesh h sl b _) _ _ fun t w ht => drainWord_mesh sl b w ht _

theorem State.landLine_mesh (h : s0.KeepsMesh s) (ben : ByteEn) (data : Line) (psn : WordEn) :
    s0.KeepsMesh (s.landLine sl b l ben data psn) := by
  unfold State.landLine
  extract_lets k u base e t
  have hu : s0.KeepsMesh u := by
    unfold u
    split
    · exact h
    · split
      · split
        · exact drainLine_mesh sl b _ h
        · exact h
      · exact h
  exact ite_of _ (each_mesh (modBank_mesh h sl b _) _ _ fun _ w ht => writeCoded_mesh sl b l w ht _ _)
    (ite_of _ (drainLine_mesh sl b l (modBank_mesh hu sl b _)) (modBank_mesh hu sl b _))

theorem State.wipeLine_mesh (h : s0.KeepsMesh s) : s0.KeepsMesh (s.wipeLine sl b l) := by
  unfold State.wipeLine
  extract_lets t
  have ht : s0.KeepsMesh t := each_mesh (modBank_mesh h sl b _) _ _ fun _ _ hu => keepsMesh_mk hu
  clear_value t
  split
  · exact ite_of _ (landLine_mesh sl b l ht ..) ht
  · exact ht

theorem State.putVec_mesh (h : s0.KeepsMesh s) (line : Nat) (ben : ByteEn) (data : Line) (psn : WordEn) :
    s0.KeepsMesh (s.putVec sl line ben data psn) :=
  each_mesh h _ _ fun _ _ ht => ite_of _ ht (keepsMesh_mk ht)

theorem State.emptyVec_mesh (h : s0.KeepsMesh s) (line : Nat) : s0.KeepsMesh (s.emptyVec sl line) :=
  each_mesh h _ _ fun _ _ ht => keepsMesh_mk ht

/-! ### Clear ports and ring guards (R46, R230, R264) -/

theorem State.guardEntry_lt {s : State} {sl h i : Nat} (hi : s.guardEntry sl h = some i) : i < 32 :=
  List.mem_range.mp (List.mem_of_find?_eq_some hi)

theorem State.guardAdvance_mesh (h : s0.KeepsMesh s) (n : Nat) (e : HEntry) (write : Bool) (o : Nat) :
    s0.KeepsMesh (s.guardAdvance sl n e write o) := by
  unfold State.guardAdvance
  split
  · exact h
  · split
    · exact h
    · next i hi =>
      exact ite_of _ (modSlice_mesh (putF_mesh h sl (workOff_of_range (guardEntry_lt hi) (by decide) (by decide)) ..) sl _) h

theorem State.stepAdvance_mesh (h : s0.KeepsMesh s) (n : Nat) (write : Bool) (offs : List Nat) :
    s0.KeepsMesh (s.stepAdvance sl n write offs) := foldl_of _ _ h fun _ _ ht => guardAdvance_mesh sl ht ..

theorem State.clearGroup_mesh (h : s0.KeepsMesh s) (j no c : Nat) (g : WipeGroup) :
    s0.KeepsMesh (s.clearGroup sl j no c g) := by
  unfold State.clearGroup
  extract_lets t u v
  have ht : s0.KeepsMesh t := foldl_of _ _ h fun _ _ hw => wipeLine_mesh sl _ _ hw
  have hv : s0.KeepsMesh v := modSlice_mesh (stepAdvance_mesh sl ht ..) sl _
  exact modSlot_mesh hv ..

theorem State.wipeGroups_mesh (h : s0.KeepsMesh s) (j no : Nat) (gs : List WipeGroup) :
    s0.KeepsMesh (s.wipeGroups sl j no gs) := by
  refine foldl_of _ _ h fun t g ht => ?_
  split
  · exact ht
  · exact ite_of _ ht (ite_of _ (modSlice_mesh ht sl _) (ite_of _ ht (clearGroup_mesh sl ht ..)))

theorem State.wipeNow_mesh (h : s0.KeepsMesh s) : s0.KeepsMesh (s.wipeNow sl) := by
  refine each_mesh h _ _ fun t j ht => ?_
  split
  · exact wipeGroups_mesh sl ht ..
  · exact ht

theorem State.takeLane_mesh (h : s0.KeepsMesh s) (bset : Nat) : s0.KeepsMesh (s.takeLane sl bset) :=
  modSlice_mesh (wipeNow_mesh sl h) sl _

/-! ### Claimants that lose a slot (R82), and clave pairs (R258) -/

theorem State.stall_mesh (h : s0.KeepsMesh s) (o : Nat) : s0.KeepsMesh (s.stall sl o) := by
  have hcount : s0.KeepsMesh (s.count (stallAddr sl o) 0 48 1) := by
    unfold stallAddr
    split
    · next ho => exact count_mesh h sl (workOff_of_stall ho (by decide)) ..
    · split
      · exact count_mesh h sl rfl ..
      · exact count_mesh h sl (workOff_of_stall (n := 5) (by (repeat' split) <;> omega) (by decide)) ..
  exact ite_of _ h (modSlice_mesh hcount sl _)

theorem State.losers_mesh (h : s0.KeepsMesh s) (bset won : Nat) (x : Others) :
    s0.KeepsMesh (s.losers sl bset won x) :=
  ite_of _ h (foldl_of _ _ h fun _ o ht => ite_of _ (stall_mesh sl ht o) ht)

theorem State.claveSignal_mesh (h : s0.KeepsMesh s) {pair : Nat} (hpair : pair < 256) (room : Bool) (n : Nat) :
    s0.KeepsMesh (s.claveSignal sl pair room n) := by
  have hoff : workOff (0x2000 + 8 * pair) = true := workOff_of_range hpair (by decide) (by decide)
  unfold State.claveSignal
  extract_lets v t u
  have ht : s0.KeepsMesh t := putF_mesh h sl hoff ..
  exact modSlice_mesh (ite_of _ (putB_mesh ht sl hoff ..) ht) sl _

end

end Sys2Proof.Machine
end
section
/-! SUPPORT. What the stream engine, the sequencer and the scrub engine leave alone as they form accesses and begin blocks
(`State.KeepsMesh`): a slot's own records change, and registers of the strike path. -/

namespace Sys2Proof.Machine

open State

variable {s0 s : State} (sl j : Nat)

/-! ### Accesses and instructions of a slot (R166, R184, R205) -/

theorem State.addAcc_mesh (h : s0.KeepsMesh s) (a : SeAcc) : s0.KeepsMesh (s.addAcc sl j a) := modSlot_mesh h ..

theorem State.putInst_mesh (h : s0.KeepsMesh s) (i : Inst) : s0.KeepsMesh (s.putInst sl j i) := modSlot_mesh h ..

theorem State.modInst_mesh (h : s0.KeepsMesh s) (no : Nat) (f : Inst → Inst) : s0.KeepsMesh (s.modInst sl j no f) :=
  modSlot_mesh h ..

theorem State.setHalt_mesh (h : s0.KeepsMesh s) (k : HaltAt) (n : Nat) : s0.KeepsMesh (s.setHalt sl j k n) :=
  keepsMesh_mk h

theorem State.strikeHalt_mesh (h : s0.KeepsMesh s) (i : Inst) (n : Nat) (read : Bool) (code : Nat) :
    s0.KeepsMesh (s.strikeHalt sl j i n read code) := setHalt_mesh sl j h ..

/-! ### Fetches, descriptors and reads (R167, R202, R205, R207) -/

theorem State.takeBack_mesh (h : s0.KeepsMesh s) : s0.KeepsMesh (s.takeBack sl j) := ite_of _ h (modSlot_mesh h ..)

theorem State.pumpFetch_mesh (h : s0.KeepsMesh s) : s0.KeepsMesh (s.pumpFetch sl j) := by
  refine ite_of _ h ?_
  split
  · exact h
  · exact addAcc_mesh sl j h _

theorem State.pumpBadFetch_mesh (h : s0.KeepsMesh s) : s0.KeepsMesh (s.pumpBadFetch sl j) := by
  unfold State.pumpBadFetch
  extract_lets x
  split
  · exact ite_of _ (setHalt_mesh sl j h ..) h
  · exact h

theorem State.pumpDesc_mesh (h : s0.KeepsMesh s) : s0.KeepsMesh (s.pumpDesc sl j) := by
  refine ite_of _ h ?_
  split
  · exact h
  · refine ite_of _ h ?_
    extract_lets k cur code
    clear_value code
    split
    · exact ite_of _ (setHalt_mesh sl j h ..) h
    · exact ite_of _ h (foldl_of _ _ h fun _ _ ht => addAcc_mesh sl j ht _)

theorem State.beginBlock_mesh (h : s0.KeepsMesh s) (i : Inst) (b : Nat) : s0.KeepsMesh (s.beginBlock sl j i b) := by
  unfold State.beginBlock
  split
  · exact h
  · extract_lets os ctx v early code
    clear_value code
    split
    · exact setHalt_mesh sl j h ..
    · exact putInst_mesh sl j h _

theorem State.startReads_mesh (h : s0.KeepsMesh s) (no : Nat) : s0.KeepsMesh (s.startReads sl j no) := by
  unfold State.startReads
  split
  · split
    · exact ite_of _ h (putInst_mesh sl j h _)
    · exact h
  · exact h

theorem State.readAgain_mesh (h : s0.KeepsMesh s) (i : Inst) : s0.KeepsMesh (s.readAgain sl j i) := putInst_mesh sl j h _

theorem State.pumpRead_mesh (h : s0.KeepsMesh s) (fuel : Nat) : s0.KeepsMesh (s.pumpRead sl j fuel) := by
  induction fuel generalizing s with
  | zero => exact h
  | succ fuel ih =>
    unfold State.pumpRead
    extract_lets x
    split
    · exact h
    · refine ite_of _ h (ite_of _ (ite_of _ (ih (readAgain_mesh sl j h _)) h)
        (ite_of _ (ite_of _ (ih (startReads_mesh sl j (beginBlock_mesh sl j h ..) _)) h) (ite_of _ h ?_)))
      split
      · exact h
      · extract_lets src g
        split
        · exact ih (putInst_mesh sl j h _)
        · exact addAcc_mesh sl j h _

/-! ### Writes and blocks (R166, R182, R202, R225) -/

theorem State.pumpMove_mesh (h : s0.KeepsMesh s) (fuel : Nat) : s0.KeepsMesh (s.pumpMove sl j fuel) := by
  induction fuel generalizing s with
  | zero => exact h
  | succ fuel ih =>
    unfold State.pumpMove
    extract_lets x
    split
    · exact h
    · refine ite_of _ h ?_
      split
      · exact h
      · extract_lets src dst g
        split
        · exact ite_of _ h (ih (putInst_mesh sl j h _))
        · exact ite_of _ (ite_of _ h (setHalt_mesh sl j h ..)) h
        · extract_lets ok r
          exact ite_of _ (addAcc_mesh sl j h _) h

theorem State.pumpOut_mesh (h : s0.KeepsMesh s) (fuel : Nat) : s0.KeepsMesh (s.pumpOut sl j fuel) := by
  induction fuel generalizing s with
  | zero => exact h
  | succ fuel ih =>
    unfold State.pumpOut
    split
    · exact h
    · refine ite_of _ h ?_
      split
      · exact h
      · exact ite_of _ h (ih (putInst_mesh sl j h _))

theorem State.shadowAccs_mesh (h : s0.KeepsMesh s) : s0.KeepsMesh (s.shadowAccs sl) :=
  each_mesh h _ _ fun _ _ ht => modBank_mesh ht ..

theorem State.startWipe_mesh (h : s0.KeepsMesh s) (i : Inst) : s0.KeepsMesh (s.startWipe sl j i) := by
  unfold State.startWipe
  extract_lets o good t
  have ht : s0.KeepsMesh t := by
    refine foldl_of _ _ h fun u p hu => ?_
    split
    · exact emptyVec_mesh sl hu _
    · exact hu
  exact modInst_mesh sl j ht ..

theorem State.pumpBlock_mesh (h : s0.KeepsMesh s) : s0.KeepsMesh (s.pumpBlock sl j) := by
  unfold State.pumpBlock
  extract_lets x writes
  split
  · exact h
  · extract_lets t
    refine ite_of _ h ?_
    have ht : s0.KeepsMesh t := beginBlock_mesh sl j h ..
    clear_value t
    split
    · exact ht
    · refine ite_of _ ht ?_
      extract_lets os w k u v
      have hu : s0.KeepsMesh u := putInst_mesh sl j ht _
      have hv : s0.KeepsMesh v := modSlice_mesh hu sl _
      exact ite_of _ (startWipe_mesh sl j hu _) (ite_of _ (ite_of _ (ite_of _ (putInst_mesh sl j (shadowAccs_mesh sl hv) _)
        (setHalt_mesh sl j hv ..)) hv) hu)

/-! ### The strike path (R225 to R253) -/

theorem State.storeAccum_mesh (h : s0.KeepsMesh s) (b : Nat) (a : Accum) : s0.KeepsMesh (s.storeAccum sl b a).2 := by
  unfold State.storeAccum
  split
  · exact h
  · extract_lets t u
    have hu : s0.KeepsMesh u := putF_mesh (modBank_mesh h ..) sl rfl ..
    exact ite_of _ (putB_mesh hu sl rfl ..) hu

theorem State.reduceLine_mesh (h : s0.KeepsMesh s) (b : Nat) (i : Inst) (os : List Operand) (n : Nat) :
    s0.KeepsMesh (s.reduceLine sl b i os n).2 := by
  unfold State.reduceLine
  refine foldl_snd_of _ _ h fun q x hq => ?_
  split
  · exact hq
  · exact storeAccum_mesh sl (ite_of _ (count_mesh hq sl rfl ..) hq) ..

theorem State.reduceIn_mesh (h : s0.KeepsMesh s) (i : Inst) (b : Nat) (l : SrcLine) :
    s0.KeepsMesh (s.reduceIn sl j i b l) :=
  ite_of _ (reduceLine_mesh sl h ..) (strikeHalt_mesh sl j (reduceLine_mesh sl h ..) ..)

theorem State.reduceVec_mesh (h : s0.KeepsMesh s) (i : Inst) : s0.KeepsMesh (s.reduceVec sl j i) :=
  modInst_mesh sl j (foldl_of _ _ h fun _ _ ht => reduceIn_mesh sl j ht ..) ..

theorem State.takeScale_mesh (h : s0.KeepsMesh s) (i : Inst) (n : Nat) (rs : List LineRsp) :
    s0.KeepsMesh (s.takeScale sl j i n rs) := by
  unfold State.takeScale
  split
  · exact modInst_mesh sl j h ..
  · exact h

theorem State.tally_mesh (h : s0.KeepsMesh s) (t : Tally) : s0.KeepsMesh (s.tally sl t) :=
  count_mesh (count_mesh h sl rfl ..) sl rfl ..

theorem State.stepLfsr_mesh (h : s0.KeepsMesh s) {b : Nat} (hb : b < 64) (rnd : Nat) :
    s0.KeepsMesh (s.stepLfsr sl b rnd) := by
  unfold State.stepLfsr
  extract_lets t
  have ht : s0.KeepsMesh t := putF_mesh h sl (workOff_of_range hb (by decide) (by decide)) ..
  exact ite_of _ (ite_of _ (modSlice_mesh ht sl _) ht) h

theorem bankOfLine_lt (p : Nat × Spot) : bankOfLine p < 64 := by
  unfold bankOfLine Spot.bank
  split
  · exact Nat.mod_lt _ (by decide)
  · exact Nat.zero_lt_succ _

theorem State.wrote_mesh (h : s0.KeepsMesh s) (i : Inst) (os : List Operand) (outs : List (Nat × OutData))
    (next due : Nat) : s0.KeepsMesh (s.wrote sl j i os outs next due) := modInst_mesh sl j h ..

theorem State.strikeAway_mesh (h : s0.KeepsMesh s) (i : Inst) (t : SStep) : s0.KeepsMesh (s.strikeAway sl j i t) := by
  unfold State.strikeAway
  extract_lets os hd form line outs u v w
  have hform : ∀ kind data, s0.KeepsMesh (form kind data) := fun _ _ => addAcc_mesh sl j h _
  have hv : s0.KeepsMesh v := foldl_of _ _ (hform ..) fun _ _ hq => tally_mesh sl hq _
  have hw : s0.KeepsMesh w := ite_of _ (foldl_of _ _ hv fun _ q hq => stepLfsr_mesh sl hq (bankOfLine_lt q) _) hv
  refine ite_of _ h ?_
  split
  · exact modInst_mesh sl j (hform ..) ..
  · exact takeScale_mesh sl j h ..
  · split
    · exact modInst_mesh sl j (hform ..) ..
    · exact h
  · exact modInst_mesh sl j (hform ..) ..
  · exact wrote_mesh sl j hw ..

theorem State.askRecords_mesh (h : s0.KeepsMesh s) : s0.KeepsMesh (s.askRecords sl) :=
  ite_of _ h (modSlice_mesh h sl _)

/-! ### The scrub engine (R288, R305) -/

theorem State.scrubPump_mesh (h : s0.KeepsMesh s) : s0.KeepsMesh (s.scrubPump sl) := by
  refine ite_of _ h ?_
  extract_lets l
  split
  · exact h
  · exact modInst_mesh sl _ (putB_mesh (modSlice_mesh h sl _) sl rfl ..) ..

/-! ### What a fault sets back (R185) -/

theorem State.restoreAccs_mesh (h : s0.KeepsMesh s) : s0.KeepsMesh (s.restoreAccs sl) :=
  each_mesh h _ _ fun _ _ ht => modBank_mesh ht ..

theorem State.dropScrub_mesh (h : s0.KeepsMesh s) : s0.KeepsMesh (s.dropScrub sl j) := by
  unfold State.dropScrub
  split
  · split
    · exact ite_of _ (putB_mesh (modSlice_mesh h sl _) sl rfl ..) h
    · exact h
  · exact h

theorem State.parkOut_mesh (h : s0.KeepsMesh s) : s0.KeepsMesh (s.parkOut sl j) := keepsMesh_mk h

end Sys2Proof.Machine
end
section
/-! SUPPORT. What becomes of Carillon transfers as a stream engine works without a slot: each goes on, or its slot has
entered FAULTED; what is under way stays under way (R147, R148, R185). -/

namespace Sys2Proof.Machine

open State

/-! ### The relation -/

/-- A later stage of the same transfer: source, receivers, strokes sent and acknowledgements are the same, and what is under
way still is. -/
structure Xfer.Keeps (x z : Xfer) : Prop where
  g : z.g = x.g
  sl : z.sl = x.sl
  slot : z.slot = x.slot
  no : z.no = x.no
  members : z.members = x.members
  sent : z.sent = x.sent
  acked : z.acked = x.acked
  strokes : ∀ k ∈ x.strokes, k.copies ≠ [] → k ∈ z.strokes

theorem Xfer.keeps_refl (x : Xfer) : x.Keeps x := ⟨rfl, rfl, rfl, rfl, rfl, rfl, rfl, fun _ hk _ => hk⟩

theorem Xfer.Keeps.trans {x y z : Xfer} (h : x.Keeps y) (h' : y.Keeps z) : x.Keeps z :=
  ⟨h'.g.trans h.g, h'.sl.trans h.sl, h'.slot.trans h.slot, h'.no.trans h.no, h'.members.trans h.members,
    h'.sent.trans h.sent, h'.acked.trans h.acked, fun k hk hc => h'.strokes k (h.strokes k hk hc) hc⟩

/-- The slot of a transfer exists in its slice and is FAULTED. -/
def State.Stopped (s : State) (x : Xfer) : Prop := x.slot < 16 ∧ s.slotState x.sl x.slot = 4

/-- MESH_SHED, or the shed mask of a slot. -/
def shedReg (a : Nat) : Prop :=
  a % 0x10000 = 0x6048 ∨ (0x1000 ≤ a % 0x10000 ∧ a % 0x10000 < 0x1400 ∧ a % 64 = 0x30)

/-- Time passes in neither, of the mesh only the list of transfers changes, and every transfer goes on or has a FAULTED slot;
what is under way is so in both, and no slot leaves FAULTED. -/
structure State.KeepsXfers (s t : State) : Prop where
  build : t.build = s.build
  time : t.time = s.time
  net : t.net = { s.net with xfers := t.net.xfers, strays := t.net.strays }
  rd : ∀ a, shedReg a → t.rd a = s.rd a
  faulted : ∀ sl j, j < 16 → s.slotState sl j = 4 → t.slotState sl j = 4
  xfer : ∀ x ∈ s.net.xfers, (∃ z ∈ t.net.xfers, x.Keeps z) ∨ t.Stopped x
  underWay : ∀ x ∈ s.net.xfers ++ s.net.strays, ∀ k ∈ x.strokes, k.copies ≠ [] →
    ∃ z ∈ t.net.xfers ++ t.net.strays, x.Keeps z

theorem State.KeepsXfers.now {s t : State} (h : s.KeepsXfers t) : t.now = s.now := congrArg Time.clk h.time

theorem State.KeepsXfers.flights {s t : State} (h : s.KeepsXfers t) : t.net.flights = s.net.flights := by rw [h.net]

theorem spared_of_shedReg {a : Nat} (h : shedReg a) : spared a := by
  simp only [shedReg, spared] at *
  omega

theorem spared_seSlotCtl (sl : Nat) {j : Nat} (hj : j < 16) : spared (A.seSlotCtl sl j) := by
  simp only [spared, A.seSlotCtl, sliceAddr]
  omega

theorem State.KeepsMesh.slotState {s t : State} (h : s.KeepsMesh t) (sl : Nat) {j : Nat} (hj : j < 16) :
    t.slotState sl j = s.slotState sl j := congrArg (fld · 0 3) (h.rd _ (spared_seSlotCtl sl hj))

theorem State.KeepsMesh.keepsXfers {s t : State} (h : s.KeepsMesh t) : s.KeepsXfers t where
  build := h.build
  time := h.time
  net := by rw [h.net]
  rd a ha := h.rd a (spared_of_shedReg ha)
  faulted sl j hj hs := (h.slotState sl hj).trans hs
  xfer x hx := .inl ⟨x, h.net.symm ▸ hx, x.keeps_refl⟩
  underWay x hx _ _ _ := ⟨x, h.net.symm ▸ hx, x.keeps_refl⟩

theorem State.KeepsXfers.trans {s t u : State} (h : s.KeepsXfers t) (h' : t.KeepsXfers u) : s.KeepsXfers u where
  build := h'.build.trans h.build
  time := h'.time.trans h.time
  net := by rw [h'.net, h.net]
  rd a ha := (h'.rd a ha).trans (h.rd a ha)
  faulted sl j hj hs := h'.faulted sl j hj (h.faulted sl j hj hs)
  xfer x hx := by
    rcases h.xfer x hx with ⟨y, hy, hxy⟩ | ⟨hj, hs⟩
    · rcases h'.xfer y hy with ⟨z, hz, hyz⟩ | ⟨hj, hs⟩
      · exact .inl ⟨z, hz, hxy.trans hyz⟩
      · exact .inr ⟨hxy.slot ▸ hj, hxy.slot ▸ hxy.sl ▸ hs⟩
    · exact .inr ⟨hj, h'.faulted _ _ hj hs⟩
  underWay x hx k hk hc := by
    obtain ⟨y, hy, hxy⟩ := h.underWay x hx k hk hc
    obtain ⟨z, hz, hyz⟩ := h'.underWay y hy k (hxy.strokes k hk hc) hc
    exact ⟨z, hz, hxy.trans hyz⟩

theorem State.keepsXfers_refl (s : State) : s.KeepsXfers s := (keepsMesh_refl s).keepsXfers

theorem State.KeepsXfers.mesh {s t u : State} (h : s.KeepsXfers t) (h' : t.KeepsMesh u) : s.KeepsXfers u :=
  h.trans h'.keepsXfers

/-! ### A slot enters FAULTED (R185) -/

section
variable {s : State} {sl j : Nat}

/-- STATE and FAULT of a slot, as `setSlotState` writes them. -/
def State.putState (s : State) (sl j v : Nat) : State :=
  (s.putF (A.seSlotCtl sl j) 0 3 v).putB (A.seStat sl) (16 + j) (decide (v = 4))

theorem State.setSlotState_of {P : State → Prop} (v : Nat) (h : P (s.putState sl j v))
    (hirq : P ((s.putState sl j v).raiseIrq 4)) : P (s.setSlotState sl j v) := by
  unfold State.setSlotState
  exact ite_of _ hirq h

theorem State.rd_raiseIrq_ne {a : Nat} (i : Nat) (h : a ≠ A.glbIrqCause) : (s.raiseIrq i).rd a = s.rd a := rd_wr_ne s h _

theorem State.rd_putState {a : Nat} (v : Nat) (hctl : a ≠ A.seSlotCtl sl j) (hstat : a ≠ A.seStat sl) :
    (s.putState sl j v).rd a = s.rd a := by
  rw [putState, putB, rd_wr_ne _ hstat, putF, rd_wr_ne _ hctl]

theorem State.rd_setSlotState {a : Nat} (v : Nat) (hctl : a ≠ A.seSlotCtl sl j) (hstat : a ≠ A.seStat sl)
    (hirq : a ≠ A.glbIrqCause) : (s.setSlotState sl j v).rd a = s.rd a := by
  have ht := rd_putState (s := s) v hctl hstat
  exact setSlotState_of (P := fun t => t.rd a = s.rd a) v ht ((rd_raiseIrq_ne 4 hirq).trans ht)

theorem State.setSlotState_net (v : Nat) : (s.setSlotState sl j v).net = s.net :=
  by
  apply setSlotState_of (P := fun t => t.net = s.net) <;> simp only [putState, raiseIrq, putF_net, putB_net]

theorem State.setSlotState_time (v : Nat) : (s.setSlotState sl j v).time = s.time :=
  by
  apply setSlotState_of (P := fun t => t.time = s.time) <;> simp only [putState, raiseIrq, putF_time, putB_time]

theorem State.setSlotState_build (v : Nat) : (s.setSlotState sl j v).build = s.build :=
  by
  apply setSlotState_of (P := fun t => t.build = s.build) <;> simp only [putState, raiseIrq, putF_build, putB_build]

theorem State.slotState_setSlotState_same {v : Nat} (hv : v < 8) :
    (s.setSlotState sl j v).slotState sl j = v := by
  have hstat : A.seSlotCtl sl j ≠ A.seStat sl := by simp only [A.seSlotCtl, A.seStat, sliceAddr]; omega
  have hirq : A.seSlotCtl sl j ≠ A.glbIrqCause := by simp only [A.seSlotCtl, A.glbIrqCause, sliceAddr]; omega
  have ht : (s.putState sl j v).slotState sl j = v := by
    rw [putState, slotState, getF, putB, rd_wr_ne _ hstat]
    exact (getF_putF_same s _ 0 3 v (by decide)).trans (Nat.mod_eq_of_lt hv)
  exact setSlotState_of (P := fun t => t.slotState sl j = v) v ht ((congrArg (fld · 0 3) (rd_raiseIrq_ne 4 hirq)).trans ht)

theorem State.slotState_setSlotState_ne {sl' j' : Nat} (hj : j < 16) (hj' : j' < 16) (hne : ¬(sl' = sl ∧ j' = j)) (v : Nat) :
    (s.setSlotState sl j v).slotState sl' j' = s.slotState sl' j' := by
  refine congrArg (fld · 0 3) (rd_setSlotState v ?_ ?_ ?_) <;>
    simp only [A.seSlotCtl, A.seStat, A.glbIrqCause, sliceAddr] <;> omega

/-- A transfer that has ended with strokes under way is among the strays. -/
theorem State.mem_dropXfers_strays {x : Xfer} {k : Stroke} (hx : x ∈ s.net.xfers) (hsl : x.sl = sl) (hslot : x.slot = j)
    (hk : k ∈ x.strokes) (hc : k.copies ≠ []) :
    { x with strokes := x.strokes.filter fun k => !k.copies.isEmpty } ∈ (s.dropXfers sl j).net.strays := by
  refine List.mem_append_right _ (List.mem_filter.mpr ⟨List.mem_map.mpr ⟨x, List.mem_filter.mpr ⟨hx, ?_⟩, rfl⟩, ?_⟩)
  · simp [hsl, hslot]
  · have hkept : k ∈ x.strokes.filter fun k => !k.copies.isEmpty := List.mem_filter.mpr ⟨hk, by simp [hc]⟩
    simp [List.ne_nil_of_mem hkept]

theorem State.mem_dropXfers_xfers {x : Xfer} (hx : x ∈ s.net.xfers) (hne : ¬(x.sl = sl ∧ x.slot = j)) :
    x ∈ (s.dropXfers sl j).net.xfers := by
  refine List.mem_filter.mpr ⟨hx, ?_⟩
  simpa only [Bool.not_eq_true', Bool.and_eq_false_iff, decide_eq_false_iff_not] using Decidable.not_and_iff_not_or_not.mp hne

/-- The transfers of a slot end as it enters FAULTED; those of others go on. -/
theorem State.keepsXfers_of_faulted {t : State} (hj : j < 16) (h : (s.dropXfers sl j).KeepsMesh t) :
    s.KeepsXfers (t.setSlotState sl j 4) where
  build := (setSlotState_build 4).trans h.build
  time := (setSlotState_time 4).trans h.time
  net := by rw [setSlotState_net, h.net]; rfl
  rd a ha := by
    have hrd : t.rd a = s.rd a := h.rd a (spared_of_shedReg ha)
    refine (rd_setSlotState 4 ?_ ?_ ?_).trans hrd <;>
      simp only [shedReg, A.seSlotCtl, A.seStat, A.glbIrqCause, sliceAddr] at * <;> omega
  faulted sl' j' hj' hs := by
    by_cases he : sl' = sl ∧ j' = j
    · obtain ⟨rfl, rfl⟩ := he
      exact slotState_setSlotState_same (by decide)
    · exact (slotState_setSlotState_ne hj hj' he 4).trans ((h.slotState sl' hj').trans hs)
  xfer x hx := by
    rw [setSlotState_net, h.net]
    by_cases he : x.sl = sl ∧ x.slot = j
    · obtain ⟨rfl, rfl⟩ := he
      exact .inr ⟨hj, slotState_setSlotState_same (by decide)⟩
    · exact .inl ⟨x, mem_dropXfers_xfers hx he, x.keeps_refl⟩
  underWay x hx k hk hc := by
    rw [setSlotState_net, h.net]
    rcases List.mem_append.mp hx with hx | hx
    · by_cases he : x.sl = sl ∧ x.slot = j
      · obtain ⟨hsl, hslot⟩ := he
        exact ⟨_, List.mem_append_right _ (mem_dropXfers_strays hx hsl hslot hk hc), rfl, rfl, rfl, rfl, rfl, rfl, rfl,
          fun m hm hmc => List.mem_filter.mpr ⟨hm, by simp [hmc]⟩⟩
      · exact ⟨x, List.mem_append_left _ (mem_dropXfers_xfers hx he), x.keeps_refl⟩
    · exact ⟨x, List.mem_append_right _ (List.mem_append_left _ hx), x.keeps_refl⟩

/-- A register of a slot that a fault writes: PC, position and deadline. -/
theorem putF_slotReg_mesh {s0 s : State} (h : s0.KeepsMesh s) (sl : Nat) {j r : Nat} (hj : j < 16)
    (hr : r = 0 ∨ r = 0x28 ∨ r = 0x38) (lo n v : Nat) :
    s0.KeepsMesh (s.putF (sliceAddr sl (0x1000 + r + 64 * j)) lo n v) := by
  refine State.wr_mesh h ?_ _
  simp only [spared, sliceAddr]
  omega

theorem State.enterFault_xfers (hj : j < 16) (h : HaltAt) : s.KeepsXfers (s.enterFault sl j h) := by
  unfold State.enterFault
  extract_lets h x inst pc blk elem at' blk elem keep lost read block clean res behind undone gone t0 t1 t2 t3 t4 a t5 t6
  clear_value inst h
  have h1 : s.KeepsMesh t1 := by
    have h0 : s.KeepsMesh t0 := modSlot_mesh (keepsMesh_refl s) ..
    unfold t1
    split
    · exact ite_of _ (restoreAccs_mesh sl h0) h0
    · exact h0
  have h4 : (t1.dropXfers sl j).KeepsMesh t4 := by
    have h2 := parkOut_mesh sl j (dropScrub_mesh sl j (keepsMesh_refl (t1.dropXfers sl j)))
    exact putF_slotReg_mesh (putF_slotReg_mesh h2 sl hj (.inr (.inr rfl)) ..) sl hj (.inl rfl) ..
  have hr : (0x28 : Nat) = 0 ∨ (0x28 : Nat) = 0x28 ∨ (0x28 : Nat) = 0x38 := .inr (.inl rfl)
  have h5 : (t1.dropXfers sl j).KeepsMesh t5 :=
    putF_slotReg_mesh (putF_slotReg_mesh (putF_slotReg_mesh (putF_slotReg_mesh h4 sl hj hr ..) sl hj hr ..) sl hj hr ..)
      sl hj hr ..
  have h6 : (t1.dropXfers sl j).KeepsMesh t6 := by
    unfold t6
    split
    · exact wr_mesh h5 (not_spared_of_workOff (workOff_of_range (n := 16) hj (by decide) (by decide)) sl) _
    · exact h5
  exact h1.keepsXfers.trans ((keepsXfers_of_faulted hj h6).mesh (sliceRec_mesh (keepsMesh_refl _) ..))

end

end Sys2Proof.Machine
end
section
/-! SUPPORT. A whole pass of an engine's units leaves transfers as `State.KeepsXfers` says (R147, R148, R185). -/

namespace Sys2Proof.Machine

open State

variable {s : State} {sl j : Nat}

/-! ### The stream engine of a slot (R182, R185) -/

theorem State.settleHalt_xfers (hj : j < 16) : s.KeepsXfers (s.settleHalt sl j) := by
  unfold State.settleHalt
  split
  · exact ite_of _ (enterFault_xfers hj _) s.keepsXfers_refl
  · exact s.keepsXfers_refl

theorem State.pump_xfers (hj : j < 16) : s.KeepsXfers (s.pump sl j) := by
  unfold State.pump
  refine ite_of _ s.keepsXfers_refl ?_
  extract_lets s1 t1 t2 t3
  have h1 : s.KeepsMesh s1 := takeBack_mesh sl j (keepsMesh_refl s)
  have h2 : s.KeepsMesh t1 := ite_of _ (pumpBadFetch_mesh sl j (pumpFetch_mesh sl j h1)) h1
  have h3 : s.KeepsMesh t2 := ite_of _ (pumpDesc_mesh sl j h2) h2
  have h4 : s.KeepsMesh t3 := pumpRead_mesh sl j h3 8
  exact (pumpBlock_mesh sl j (pumpOut_mesh sl j (pumpMove_mesh sl j h4 8) 8)).keepsXfers.trans (settleHalt_xfers hj)

/-- Work over the sixteen slots of a slice, where the work at each leaves transfers alone. -/
theorem State.each_xfers {f : State → Nat → State} (hf : ∀ (t : State) j, j < 16 → t.KeepsXfers (f t j)) :
    s.KeepsXfers (s.each (List.range 16) f) := by
  have h : ∀ (l : List Nat) (t : State), (∀ j ∈ l, j < 16) → s.KeepsXfers t → s.KeepsXfers (l.foldl f t) := by
    intro l
    induction l with
    | nil => exact fun t _ ht => ht
    | cons k l ih =>
      intro t hl ht
      exact ih _ (fun j hj => hl j (List.mem_cons_of_mem k hj)) (ht.trans (hf t k (hl k (List.mem_cons_self ..))))
  exact h _ s (fun j hj => List.mem_range.mp hj) s.keepsXfers_refl

theorem State.pumpSlice_xfers : s.KeepsXfers (s.pumpSlice sl) := each_xfers fun _ _ hj => pump_xfers hj

/-! ### The strike path and MEMSET (R224 to R244, R53) -/

theorem State.strikeHalt_xfers (hj : j < 16) (i : Inst) (n : Nat) (read : Bool) (code : Nat) :
    s.KeepsXfers ((s.strikeHalt sl j i n read code).settleHalt sl j) :=
  (strikeHalt_mesh sl j (keepsMesh_refl s) i n read code).keepsXfers.trans (settleHalt_xfers hj)

theorem State.strikePump_xfers (hj : j < 16) (fuel : Nat) : s.KeepsXfers (s.strikePump sl j fuel) := by
  induction fuel generalizing s with
  | zero => exact s.keepsXfers_refl
  | succ fuel ih =>
    unfold State.strikePump
    split
    · exact s.keepsXfers_refl
    · next i _ =>
      extract_lets os bad
      clear_value bad
      refine ite_of _ ?_ (ite_of _ ?_ (ite_of _ ?_ ?_))
      · split
        · exact strikeHalt_xfers hj ..
        · exact s.keepsXfers_refl
      · exact (reduceVec_mesh sl j (keepsMesh_refl s) i).keepsXfers.trans ih
      · exact (modInst_mesh sl j (keepsMesh_refl s) i.no _).keepsXfers.trans ((pump_xfers hj).trans ih)
      · split
        · exact strikeHalt_xfers hj ..
        · split
          · exact (strikeAway_mesh sl j (keepsMesh_refl s) i _).keepsXfers
          · exact s.keepsXfers_refl

theorem State.wipePump_xfers (hj : j < 16) (fuel : Nat) : s.KeepsXfers (s.wipePump sl j fuel) := by
  induction fuel generalizing s with
  | zero => exact s.keepsXfers_refl
  | succ fuel ih =>
    unfold State.wipePump
    split
    · exact s.keepsXfers_refl
    · next i _ =>
      refine ite_of _ s.keepsXfers_refl (ite_of _ ?_ ?_)
      · split
        · exact strikeHalt_xfers hj ..
        · exact s.keepsXfers_refl
      · split
        · exact strikeHalt_xfers hj ..
        · exact (modInst_mesh sl j (keepsMesh_refl s) i.no _).keepsXfers.trans ((pump_xfers hj).trans
            ((wipeNow_mesh sl (keepsMesh_refl _)).keepsXfers.trans ih))

/-! ### A whole pass (R163, R224, R288) -/

theorem State.pumpAll_xfers : s.KeepsXfers (s.pumpAll sl) := by
  unfold State.pumpAll
  extract_lets t
  have h1 : s.KeepsXfers t := (wipeNow_mesh sl (keepsMesh_refl s)).keepsXfers.trans pumpSlice_xfers
  have h2 := each_xfers (s := t) fun _ _ hj => (strikePump_xfers (sl := sl) hj 8).trans (wipePump_xfers (sl := sl) hj 8)
  exact ((h1.trans h2).trans pumpSlice_xfers).mesh (askRecords_mesh sl (keepsMesh_refl _))

theorem State.pumpEngine_xfers : s.KeepsXfers (s.pumpEngine sl) := pumpAll_xfers.mesh (scrubPump_mesh sl (keepsMesh_refl _))

/-! ### The source settles (R147, R148) -/

variable {g : Nat}

theorem Xfer.keeps_ite (x : Xfer) {y : Xfer} (h : x.Keeps y) {c : Prop} [Decidable c] : x.Keeps (if c then y else x) := by
  split
  · exact h
  · exact x.keeps_refl

/-- A change of one transfer that is a later stage of it. -/
theorem State.modXfer_xfers {f : Xfer → Xfer} (hf : ∀ x : Xfer, x.Keeps (f x)) : s.KeepsXfers (s.modXfer g f) where
  build := rfl
  time := rfl
  net := rfl
  rd _ _ := rfl
  faulted _ _ _ hs := hs
  xfer x hx := .inl ⟨_, List.mem_map.mpr ⟨x, hx, rfl⟩, x.keeps_ite (hf x)⟩
  underWay x hx k hk hc := by
    rcases List.mem_append.mp hx with hx | hx
    · exact ⟨_, List.mem_append_left _ (List.mem_map.mpr ⟨x, hx, rfl⟩), x.keeps_ite (hf x)⟩
    · exact ⟨x, List.mem_append_right _ hx, x.keeps_refl⟩

theorem State.noteLag_xfers : s.KeepsXfers (s.noteLag g) :=
  modXfer_xfers fun _ => ⟨rfl, rfl, rfl, rfl, rfl, rfl, rfl, fun _ hk _ => hk⟩

theorem State.signalBlock_mesh {s0 : State} (h : s0.KeepsMesh s) (x : Xfer) (i : Inst) :
    s0.KeepsMesh (s.signalBlock x i) := by
  refine ite_of _ h (foldl_of _ _ h fun t r ht => ite_of _ (claveSignal_mesh r ht ?_ ..) ht)
  exact Nat.mod_lt _ (by decide)

theorem State.settleXfer_xfers : s.KeepsXfers (s.settleXfer g) := by
  unfold State.settleXfer
  split
  · exact s.keepsXfers_refl
  · next x _ =>
    extract_lets t done
    have h : s.KeepsXfers t := modXfer_xfers fun x => ⟨rfl, rfl, rfl, rfl, rfl, rfl, rfl, fun k hk hc =>
      List.mem_filter.mpr ⟨hk, by simp [hc]⟩⟩
    clear_value t
    split
    · next i _ _ =>
      refine ite_of _ h ?_
      extract_lets t1 t2
      have h1 : t.KeepsMesh t1 := foldl_of _ _ (keepsMesh_refl t) fun u _ hu => signalBlock_mesh hu x i
      have h2 : t1.KeepsXfers t2 := modXfer_xfers fun _ => ⟨rfl, rfl, rfl, rfl, rfl, rfl, rfl, fun _ hk _ => hk⟩
      exact ((h.mesh h1).trans h2).mesh (modInst_mesh _ _ (keepsMesh_refl _) ..)
    · exact h

/-- What a source does after an acknowledgement or a stroke sent. -/
theorem State.settled_xfers : s.KeepsXfers (((s.noteLag g).settleXfer g).pumpEngine sl) :=
  (noteLag_xfers.trans settleXfer_xfers).trans pumpEngine_xfers

end Sys2Proof.Machine
end
section
/-! SUPPORT for O33. A stroke enters the mesh (R144, R145). -/

namespace Sys2Proof.Machine

open State

/-! ### Ways in the mesh (R26, R135, R145) -/

section
variable {s t : State}

theorem State.phys_congr (hb : t.build = s.build) (hr : t.rd A.bootSldis = s.rd A.bootSldis) (n : Nat) :
    t.phys n = s.phys n := by
  simp only [State.phys, State.physList, hb, hr]

theorem State.posOf_congr (hb : t.build = s.build) (hr : t.rd A.bootSldis = s.rd A.bootSldis) (n : Nat) :
    t.posOf n = s.posOf n := by
  simp only [State.posOf, State.pos, phys_congr hb hr, hb]

theorem State.route_congr (hb : t.build = s.build) (a b : Nat × Nat) : t.route a b = s.route a b := by
  have h : t.yFirst a = s.yFirst a := congrArg (fun n => decide (a.2 = n - 1)) (congrArg Build.meshY hb)
  simp only [State.route, h]

theorem State.wayKeys_congr (hb : t.build = s.build) (hr : t.rd A.bootSldis = s.rd A.bootSldis) (a b : Nat) :
    t.wayKeys a b = s.wayKeys a b := by
  simp only [State.wayKeys, State.entryKey, State.exitKey, State.outKey, posOf_congr hb hr, route_congr hb, hb]

theorem State.treeWay_congr (hb : t.build = s.build) (hr : t.rd A.bootSldis = s.rd A.bootSldis) (a : Nat) (l : List Nat) :
    t.treeWay a l = s.treeWay a l := by
  simp only [State.treeWay, wayKeys_congr hb hr]

end

/-! ### One stroke -/

/-- A transfer with one stroke more. -/
def Xfer.addStroke (k : Stroke) (x : Xfer) : Xfer := { x with sent := x.sent + 1, strokes := x.strokes ++ [k] }

/-- A stroke that waits in the mesh for every receiver of the transfer, as packet `id`. -/
def Stroke.toAll (k : Stroke) (x : Xfer) (id : Nat) : Stroke :=
  { k with copies := [{ dests := x.members, left := x.members, flight := id }] }

/-- The stroke enters the mesh, in the clk in which Lead has its lane. -/
def State.strokeSent (s : State) (g : Nat) (x : Xfer) (k : Stroke) (last : Bool) : State :=
  let f := s.sendStroke x k x.members (x.burst x.sent) last
  f.2.modXfer g (Xfer.addStroke (k.toAll x f.1))

/-- What the source does as it sends a stroke whose lines `l` have been read and that window and ring guard let pass. -/
theorem State.strokeSend_pass {u : State} {g n m : Nat} {x : Xfer} {i : Inst} {os : List Operand} {p : Spot}
    {ls l : List (Nat × Spot)} {nx : Nat} (hx : u.xferOf g = some x) (hi : (u.slot x.sl x.slot).followInst = some i)
    (hno : i.no = x.no) (hw : u.slotWorks x.sl x.slot = true) (hos : u.blockOps x.sl i i.wblk = some os)
    (hh : (u.slot x.sl x.slot).halt = none) (hwin : x.window = true)
    (hn : u.nextAccess x.sl x.ctx true (os.getD 1 Operand.none) i.wpos = ((n, p) :: ls, nx)) (hp : ∀ c, p ≠ .bad c)
    (hready : u.readyGroup x.sl x.slot (os.getD 1 Operand.none) (srcOf os) (i.lines i.wblk) ((n, p) :: ls) = l)
    (hl : l ≠ []) (hg : u.strokeGuard x.sl (os.getD 1 Operand.none).handle l = (m, .pass)) (fuel : Nat) :
    let v := (u.reach (u.laneFrom x.sl ptLead)).takeLane x.sl ptLead
    ∃ (k : Stroke) (last : Bool) (h : Nat) (offs : List Nat) (f : Inst → Inst),
      k.n = x.sent ∧ k.blk = i.wblk ∧ k.sent = v.now ∧ k.lines.length = l.length ∧
      u.strokeSend g (fuel + 1) = (((((v.strokeSent g x k last).stepAdvance x.sl h true offs).modInst x.sl x.slot i.no
        f).noteLag g).settleXfer g).pumpEngine x.sl := by
  have hl' := List.isEmpty_eq_false_iff.mpr hl
  rw [State.strokeSend]
  cases p with
  | bad c => exact absurd rfl (hp c)
  | _ =>
    simp only [hx, hi, hno, hw, hos, hh, hn, hready, hg, hwin, hl']
    rw [if_neg (by simp), if_neg (by simp)]
    generalize (u.reach _).takeLane _ _ = v
    unfold State.strokeSent Xfer.addStroke Stroke.toAll
    refine ⟨_, _, _, _, _, ?_, ?_, ?_, ?_, rfl⟩
    · rfl
    · rfl
    · rfl
    · exact List.length_map ..

section
variable {s : State} {g : Nat} {x : Xfer} {k : Stroke} {last : Bool}

theorem State.xferOf_g (h : s.xferOf g = some x) : x.g = g :=
  of_decide_eq_true (List.find?_some (p := fun y : Xfer => decide (y.g = g)) h)

theorem State.mem_of_xferOf (h : s.xferOf g = some x) : x ∈ s.net.xfers := List.mem_of_find?_eq_some h

/-- The packet that carries a stroke sent. -/
def State.strokeFlight (s : State) (x : Xfer) (k : Stroke) (last : Bool) : Flight :=
  { id := s.net.nextFlight, vc := s.channel x.sl false, cls := x.cls, flits := max 1 (flitsOf k.lines.length)
    burst := x.burst x.sent, last := last, at' := s.now, gap := 1, way := s.treeWay x.sl x.members, ack := none }

theorem State.strokeSent_flight : s.strokeFlight x k last ∈ (s.strokeSent g x k last).net.flights :=
  List.mem_append_right _ (List.mem_singleton.mpr rfl)

theorem State.strokeSent_xfer (h : s.xferOf g = some x) :
    x.addStroke (k.toAll x s.net.nextFlight) ∈ (s.strokeSent g x k last).net.xfers := by
  refine List.mem_map.mpr ⟨x, mem_of_xferOf h, ?_⟩
  rw [if_pos (xferOf_g h)]
  rfl

/-- A command that concerns an engine only leaves the ports and Belfry as they are. -/
theorem exec_engine_frame {c : Instr} {t : State} (hc : c.engineOnly = true) (h : exec c s = .next t) :
    t.ports = s.ports ∧ t.belfry = s.belfry := by
  rw [(commandFrames c s t h).2.1 hc]
  exact ⟨rfl, rfl⟩

end

theorem exec_mcastStrokeSend {s : State} {g : Nat} {y : Xfer} (hg : g < 16) (hy : s.xferOf g = some y) :
    exec (.mcastStrokeSend g) s = .next ((s.pumpEngine y.sl).strokeSend g 3) := by
  simp only [exec, execMcastStrokeSend, State.onIndex, hy, if_pos hg]

/-- A stroke leaves, and stands among the unacknowledged strokes. -/
theorem strokeSend_sends (s : State) (g n m : Nat) (x y : Xfer) (i : Inst) (os : List Operand) (p : Spot)
    (ls : List (Nat × Spot)) (nx : Nat) (hg : g < 16) (hy : s.xferOf g = some y) :
    let u := s.pumpEngine y.sl
    let dst := os.getD 1 Operand.none
    u.xferOf g = some x → (u.slot x.sl x.slot).followInst = some i → i.no = x.no → u.slotWorks x.sl x.slot = true →
    u.blockOps x.sl i i.wblk = some os → (u.slot x.sl x.slot).halt = none → x.window = true →
    u.nextAccess x.sl x.ctx true dst i.wpos = ((n, p) :: ls, nx) → (∀ c, p ≠ .bad c) →
    let l := u.readyGroup x.sl x.slot dst (srcOf os) (i.lines i.wblk) ((n, p) :: ls)
    l ≠ [] → u.strokeGuard x.sl dst.handle l = (m, .pass) →
    ∃ (t : State) (f : Flight) (z : Xfer) (k : Stroke), exec (.mcastStrokeSend g) s = .next t ∧
      t.now = max u.now (u.laneFrom x.sl ptLead) ∧ f ∈ t.net.flights ∧ f.id = u.net.nextFlight ∧ f.at' = t.now ∧
      f.way = u.treeWay x.sl x.members ∧ f.cls = x.cls ∧ z ∈ t.net.xfers ++ t.net.strays ∧ z.g = g ∧ z.sent = x.sent + 1 ∧
      k ∈ z.strokes ∧ k.n = x.sent ∧ k.blk = i.wblk ∧ k.sent = t.now ∧ k.lines.length = l.length ∧
      k.copies = [⟨x.members, x.members, u.net.nextFlight⟩] ∧ t.ports = s.ports ∧ t.belfry = s.belfry := by
  intro u dst hx hi hno hw hos hh hwin hn hp l hl hpass
  obtain ⟨k, last, h, offs, f, hkn, hkb, hks, hkl, hsend⟩ :=
    strokeSend_pass hx hi hno hw hos hh hwin hn hp rfl hl hpass 2
  revert hks hsend
  generalize hv : (u.reach (u.laneFrom x.sl ptLead)).takeLane x.sl ptLead = v
  intro hks hsend
  have hlane : (u.reach (u.laneFrom x.sl ptLead)).KeepsMesh v := hv ▸ takeLane_mesh _ (keepsMesh_refl _) _
  have hnow : v.now = max u.now (u.laneFrom x.sl ptLead) := (congrArg Time.clk hlane.time).trans (reach_now ..)
  have hnet : v.net = u.net := hlane.net.trans (reach_net ..)
  have hbuild : v.build = u.build := hlane.build.trans (reach_build ..)
  have hdis : v.rd A.bootSldis = u.rd A.bootSldis := (hlane.rd _ (.inl (by decide))).trans (reach_rd ..)
  have hvx : v.xferOf g = some x := (congrArg (fun n : Net => n.xfers.find? fun y : Xfer => y.g = g) hnet).trans hx
  have hid : v.net.nextFlight = u.net.nextFlight := congrArg Net.nextFlight hnet
  have hexec : exec (.mcastStrokeSend g) s = .next (u.strokeSend g 3) := exec_mcastStrokeSend hg hy
  have hkeep : (v.strokeSent g x k last).KeepsXfers (u.strokeSend g 3) := by
    rw [hsend]
    exact (modInst_mesh _ _ (stepAdvance_mesh _ (keepsMesh_refl _) ..) ..).keepsXfers.trans settled_xfers
  clear hsend
  generalize u.strokeSend g 3 = t at hexec hkeep
  obtain ⟨z, hz, hxz⟩ := hkeep.underWay _ (List.mem_append_left _ (strokeSent_xfer hvx)) _
    (List.mem_append_right _ (List.mem_singleton.mpr rfl)) (List.cons_ne_nil _ _)
  have htime : t.now = v.now := hkeep.now
  have hflight : v.strokeFlight x k last ∈ t.net.flights := by
    rw [hkeep.flights]
    exact strokeSent_flight
  refine ⟨t, v.strokeFlight x k last, z, k.toAll x v.net.nextFlight, hexec, htime.trans hnow,
    hflight, hid, htime.symm, treeWay_congr hbuild hdis .., rfl, hz,
    Eq.trans (b := x.g) hxz.g (xferOf_g hx), hxz.sent, ?_, hkn, hkb, hks.trans htime.symm, hkl, ?_,
    exec_engine_frame rfl hexec⟩
  · exact hxz.strokes _ (List.mem_append_right _ (List.mem_singleton.mpr rfl)) (List.cons_ne_nil _ _)
  · rw [← hid]
    rfl

end Sys2Proof.Machine
end
section
/-! SUPPORT for O33. A stroke lands (R145, R146). -/

namespace Sys2Proof.Machine

open State

/-! ### Winning a slot (R93, R98) -/

section
variable {s t : State}

theorem State.share_congr (ht : t.tuner = s.tuner) (hf : t.force = s.force) {k : Nat}
    (hr : t.rd (A.qosShare k) = s.rd (A.qosShare k)) (lo n : Nat) : t.share k lo n = s.share k lo n := by
  have hok : t.notOk 8 0 = s.notOk 8 0 := by rw [State.notOk, State.instState, ht]; rfl
  rw [State.share, hok, State.inForce, hr, hf]
  rfl

/-- Class `k`, counted from the class last served, is below its share and has a candidate. -/
def State.classReady (s : State) (sl o : Nat) (cs : List Cand) (k : Nat) : Bool :=
  let c := (Tbl.get 0 (s.slice sl).turn o + 1 + k) % 8
  decide (s.slotsTaken sl o c < s.share c 8 7) && cs.any fun x => decide (x.req.cls = c)

theorem State.choose_eq (s : State) (sl o : Nat) (cs : List Cand) :
    s.choose sl o cs = match ((List.range 8).find? (s.classReady sl o cs)).map
        fun k => (Tbl.get 0 (s.slice sl).turn o + 1 + k) % 8 with
      | some k => oldestCand (cs.filter fun c => c.req.cls = k)
      | none => oldestCand cs := by
  unfold State.choose
  simp only [List.find?_map]
  rfl

theorem State.choose_congr {sl : Nat} (hs : (t.slice sl).shares = (s.slice sl).shares)
    (ht : (t.slice sl).turn = (s.slice sl).turn) (hk : ∀ k < 8, t.share k 8 7 = s.share k 8 7) (o : Nat) (cs : List Cand) :
    t.choose sl o cs = s.choose sl o cs := by
  have hready : t.classReady sl o cs = s.classReady sl o cs := by
    funext k
    unfold State.classReady State.slotsTaken
    rw [hs, ht]
    extract_lets c
    rw [hk c (Nat.mod_lt _ (by decide))]
  rw [choose_eq, choose_eq, hready, ht]

theorem State.OnlyEngine.tuner_force (h : s.OnlyEngine t) : t.tuner = s.tuner ∧ t.force = s.force := by
  rw [h]
  exact ⟨rfl, rfl⟩

/-- The candidate that takes a slot is the same once the losers have waited and the lane is taken. -/
theorem State.choose_losers (u : State) (r bset c o : Nat) (x : Others) (cs : List Cand) :
    (((u.reach c).losers r bset o x).takeLane r bset).choose r o cs = u.choose r o cs := by
  have hmesh : (u.reach c).KeepsMesh (((u.reach c).losers r bset o x).takeLane r bset) :=
    takeLane_mesh r (losers_mesh r (keepsMesh_refl _) ..) bset
  have hengine : u.OnlyEngine (((u.reach c).losers r bset o x).takeLane r bset) :=
    takeLane_engine (losers_engine (reach_engine (onlyEngine_refl u) c) ..) ..
  generalize ((u.reach c).losers r bset o x).takeLane r bset = t at hmesh hengine
  obtain ⟨hshares, hturn⟩ := hmesh.taken r
  obtain ⟨htuner, hforce⟩ := hengine.tuner_force
  have hslice : (u.reach c).slice r = u.slice r := congrArg (Tbl.get SliceSt.init · r) (reach_slices u c)
  refine choose_congr (hshares.trans (congrArg _ hslice)) (hturn.trans (congrArg _ hslice)) ?_ o cs
  exact fun k hk => share_congr htuner hforce ((hmesh.rd _ (.inl (by simp only [A.qosShare]; omega))).trans (reach_rd ..)) ..

end

/-! ### The landing buffer -/

section
variable {s : State} {g r : Nat} {a b : Arrived}

/-- The acknowledgement of a stroke by a receiver. -/
def State.ackFlight (s : State) (r : Nat) (a : Arrived) : Flight :=
  { id := s.net.nextFlight, vc := s.channel a.x.sl true, cls := a.x.cls, flits := 1, burst := 0, last := true, at' := s.now
    gap := 1, way := [{ out := s.outKey (s.pos r) 7, back := 0, passed := [] }]
    ack := some { g := a.x.g, n := a.k.n, src := a.x.sl, no := a.x.no, cls := a.x.cls, dests := a.copy.dests, got := [r] } }

theorem State.strokeAck_flight : s.ackFlight r a ∈ (s.strokeAck r a).net.flights :=
  List.mem_append_right _ (List.mem_singleton.mpr rfl)

theorem State.landVec_now : (s.landVec r b).now = max s.now (max b.came (s.laneFrom r ptVecWrite)) := by
  have h : (s.reach (max b.came (s.laneFrom r ptVecWrite))).KeepsMesh
      (b.k.lines.foldl (fun (v : State) l => v.putVec r l.line l.ben l.data l.psn)
        ((s.reach (max b.came (s.laneFrom r ptVecWrite))).takeLane r ptVecWrite)) :=
    foldl_of _ _ (takeLane_mesh r (keepsMesh_refl _) _) fun t l ht => putVec_mesh r ht ..
  exact (congrArg Time.clk h.time).trans (reach_now ..)

theorem exec_mcastLand (hg : g < 16) (hr : s.hasSlice r = true) : exec (.mcastLand g r) s = .next (s.strokeLand g r) := by
  simp only [exec, execMcastLand, State.onSlice, if_pos hg, if_pos hr]

/-- A stroke that comes to a receiver that serves. -/
theorem State.strokeLand_served {c : State} (hcome : s.strokeComes g r = some (b, c)) :
    let held := decide (c.slicePower r ≠ 2) && !(c.wakeFailed r)
    let t := if held then c.wakeFor r 1 else c
    (held = true → t.sliceServes r = true) →
    s.strokeLand g r = if (t.settleReady r).strokeGone r b.copy.flight then t.settleReady r
      else if b.k.vec then (t.settleReady r).landVec r b else (t.settleReady r).strokeWrite r b 16 := by
  intro held t hserves
  have hheld : ¬(held = true ∧ t.sliceServes r = false) := fun h => by simp [hserves h.1] at h
  simp only [State.strokeLand, hcome]
  exact if_neg hheld

/-- A stroke that has won the slot of its bank set and is written is acknowledged. -/
theorem State.issueCand_stroke {k : Cand} {id : Nat} (hk : k.who = .stroke id)
    (hfind : (s.arrivals r).find? (fun a => a.copy.flight = id) = some a) (hok : (s.perform r (a.req r)).1 = rspOk) :
    s.issueCand r k = ((s.perform r (a.req r)).2.2.dropCopy id r).strokeAck r a := by
  have hid : a.copy.flight = id :=
    of_decide_eq_true (List.find?_some (p := fun a : Arrived => decide (a.copy.flight = id)) hfind)
  simp only [State.issueCand, hk, hfind, State.strokePerform, hok, if_true, hid]

/-- The stroke wins the slot of its bank set and is written. -/
theorem State.strokeWrite_wins {c n : Nat} {k : Cand}
    (hgone : s.strokeGone r b.copy.flight = false) (h : Others) (hh : h = s.others r b.k.bset)
    (hwin : s.firstWin r b.k.bset h (fun o => decide (o = 18)) 64 (s.laneFrom r b.k.bset) = some (c, 18)) :
    let l := ((s.reach c).losers r b.k.bset 18 h).takeLane r b.k.bset
    l.choose r 18 (s.cands r b.k.bset 18 c) = some k →
    s.strokeWrite r b (n + 1) = (((l.countSlot r 18 k.req.cls).issueCand r k).pumpEngine r).strokeWrite r b n := by
  intro l hk
  subst hh
  have hchoose := (choose_losers s r b.k.bset c 18 (s.others r b.k.bset) (s.cands r b.k.bset 18 c)).symm.trans hk
  simp only [State.strokeWrite, hgone, hwin, hchoose]
  rfl

theorem State.strokeWrite_gone (hgone : s.strokeGone r b.copy.flight = true) (n : Nat) : s.strokeWrite r b n = s := by
  cases n with
  | zero => rfl
  | succ n => exact if_pos hgone

theorem State.pumpEngine_ack : s.ackFlight r a ∈ ((s.strokeAck r a).pumpEngine r).net.flights := by
  rw [pumpEngine_xfers.flights]
  exact strokeAck_flight

end

/-- A stroke that comes to a receiver that serves is gone, or is written and acknowledged. -/
theorem strokeLand_lands (s a : State) (g r : Nat) (b : Arrived) (hg : g < 16) (hr : s.hasSlice r = true)
    (hcome : s.strokeComes g r = some (b, a)) :
    let held := decide (a.slicePower r ≠ 2) && !(a.wakeFailed r)
    let t := if held then a.wakeFor r 1 else a
    (held = true → t.sliceServes r = true) →
    let u := t.settleReady r
    let id := b.copy.flight
    (u.strokeGone r id = true → exec (.mcastLand g r) s = .next u) ∧
    (u.strokeGone r id = false → b.k.vec = true → ∃ (v : State) (f : Flight) (m : AckMark), exec (.mcastLand g r) s = .next v ∧
      v = u.landVec r b ∧ v.now = max u.now (max b.came (u.laneFrom r ptVecWrite)) ∧ f ∈ v.net.flights ∧ f.at' = v.now ∧
      f.ack = some m ∧ m.g = b.x.g ∧ m.n = b.k.n ∧ m.got = [r]) ∧
    (u.strokeGone r id = false → b.k.vec = false → exec (.mcastLand g r) s = .next (u.strokeWrite r b 16)) ∧
    (∀ (c : Nat) (k : Cand) (d : Arrived), u.strokeGone r id = false → b.k.vec = false →
      let h := u.others r b.k.bset
      let l := ((u.reach c).losers r b.k.bset 18 h).takeLane r b.k.bset
      let w := l.countSlot r 18 k.req.cls
      u.firstWin r b.k.bset h (fun o => decide (o = 18)) 64 (u.laneFrom r b.k.bset) = some (c, 18) →
      l.choose r 18 (u.cands r b.k.bset 18 c) = some k → k.who = .stroke id →
      (w.arrivals r).find? (fun a => a.copy.flight = id) = some d → (w.perform r (d.req r)).1 = rspOk →
      let v := (((w.perform r (d.req r)).2.2.dropCopy id r).strokeAck r d).pumpEngine r
      v.strokeGone r id = true → exec (.mcastLand g r) s = .next v ∧ ∃ (f : Flight) (m : AckMark), f ∈ v.net.flights ∧
        f.ack = some m ∧ m.g = d.x.g ∧ m.n = d.k.n ∧ m.got = [r]) := by
  intro held t hserves u id
  have hland := exec_mcastLand (g := g) hg hr
  rw [strokeLand_served hcome hserves] at hland
  refine ⟨fun hgone => ?_, fun hgone hvec => ?_, fun hgone hvec => ?_, ?_⟩
  · rw [hland, if_pos hgone]
  · have hstep : exec (.mcastLand g r) s = .next (u.landVec r b) := by
      rw [hland, if_neg (Bool.eq_false_iff.mp hgone), if_pos hvec]
    exact ⟨_, _, _, hstep, rfl, landVec_now, strokeAck_flight, rfl, rfl, rfl, rfl, rfl⟩
  · rw [hland, if_neg (Bool.eq_false_iff.mp hgone), if_neg (Bool.eq_false_iff.mp hvec)]
  · intro c k d hgone hvec h l w hwin hk hwho hfind hok v hlanded
    have hwrite (n : Nat) : u.strokeWrite r b (n + 1) = v := by
      rw [strokeWrite_wins hgone h rfl hwin hk, issueCand_stroke hwho hfind hok]
      exact strokeWrite_gone hlanded n
    rw [if_neg (Bool.eq_false_iff.mp hgone), if_neg (Bool.eq_false_iff.mp hvec), hwrite 15] at hland
    have hflight : ((w.perform r (d.req r)).2.2.dropCopy id r).ackFlight r d ∈ v.net.flights := by
      unfold v
      exact pumpEngine_ack
    exact ⟨hland, _, _, hflight, rfl, rfl, rfl, rfl⟩

end Sys2Proof.Machine
end
section
/-! SUPPORT for O33. The mesh carries packets and leaves the list of transfers alone (R138 to R146); acknowledgements come
back (R146). -/

namespace Sys2Proof.Machine

open State

/-! ### Packets move -/

/-- The transfers under way. -/
def State.Carries (s : State) (xs : List Xfer) : Prop := s.net.xfers = xs

section
variable {s : State} {xs : List Xfer}

theorem State.count_carries (h : s.Carries xs) (a lo n k : Nat) : (s.count a lo n k).Carries xs := h

theorem State.countOutput_carries (h : s.Carries xs) (p : (Nat × Nat) × Nat) (n : Nat) : (s.countOutput p n).Carries xs := by
  unfold State.countOutput
  extract_lets ph k
  exact ite_of (P := fun t => t.Carries xs) _ (count_carries h ..) h

theorem State.takeLink_carries (h : s.Carries xs) (c o : Nat) (x : Flit) : (s.takeLink c o x).Carries xs := by
  unfold State.takeLink
  extract_lets n k flights rest since ends held t
  have ht : t.Carries xs := h
  exact ite_of (P := fun t => t.Carries xs) _ (countOutput_carries ht ..) ht

theorem State.breakLink_carries (h : s.Carries xs) (o : Nat) : (s.breakLink o).Carries xs := by
  unfold State.breakLink
  extract_lets n src t
  have ht : t.Carries xs := h
  exact ite_of (P := fun t => t.Carries xs) _ (count_carries ht ..) ht

theorem State.linkStep_carries (h : s.Carries xs) (c o : Nat) : (s.linkStep c o).Carries xs := by
  unfold State.linkStep
  extract_lets ys
  refine ite_of (P := fun t => t.Carries xs) _ (foldl_of (P := fun t => t.Carries xs) _ _ h fun t y ht => ?_) ?_
  · split
    · exact takeLink_carries ht ..
    · exact ht
  · split
    · extract_lets mine arrived
      clear_value mine
      refine ite_of (P := fun t => t.Carries xs) _ ?_ ?_
      · split
        · exact takeLink_carries (breakLink_carries h o) ..
        · exact breakLink_carries h o
      · split
        · exact takeLink_carries h ..
        · exact h
    · split
      · exact takeLink_carries h ..
      · exact h

theorem State.ackStep_carries (h : s.Carries xs) (c : Nat) : (s.ackStep c).Carries xs := by
  unfold State.ackStep
  extract_lets here n t0 t
  have ht : t.Carries xs := foldl_of (P := fun t => t.Carries xs) _ _ h fun t f ht => by
    split
    · exact ht
    · exact ht
  exact foldl_of (P := fun t => t.Carries xs) _ _ ht fun _ _ ht => ht

theorem State.meshStep_carries (h : s.Carries xs) : s.meshStep.Carries xs := by
  unfold State.meshStep
  extract_lets c n0 n t1 t2
  have hn : n.xfers = xs := by
    unfold n
    split <;> exact h
  have h1 : t1.Carries xs := ackStep_carries (s := { s with net := n }) hn c
  clear_value t1
  exact foldl_of (P := fun t => t.Carries xs) _ _ h1 fun _ o ht => linkStep_carries ht c o

theorem State.meshRun_carries (h : s.Carries xs) {stop : Net → Option Nat} {fuel : Nat} {r : Nat × State}
    (hr : s.meshRun stop fuel = some r) : r.2.Carries xs := by
  induction fuel generalizing s with
  | zero => cases hr
  | succ fuel ih =>
    unfold State.meshRun at hr
    split at hr
    · cases hr
      exact h
    · split at hr
      · cases hr
      · exact ih (meshStep_carries h) hr

theorem State.meshEvent_xfers {t : State} {stop : Net → Option Nat} (h : s.meshEvent stop = some t) :
    t.net.xfers = s.net.xfers := by
  obtain ⟨r, hr, rfl⟩ := Option.map_eq_some_iff.mp h
  rw [reach_net]
  exact meshRun_carries rfl hr

end

/-! ### Acknowledgements at the source -/

section
variable {s : State} {g n : Nat} {x : Xfer}

theorem Xfer.takeAck_eq (x : Xfer) (n : Nat) (got : List Nat) :
    x.takeAck n got = { x with strokes := (x.takeAck n got).strokes, acked := (x.takeAck n got).acked } := by
  unfold Xfer.takeAck
  split <;> rfl

/-- A packet leaves the mesh for good. -/
def State.dropFlight (s : State) (id : Nat) : State :=
  { s with net := { s.net with flights := s.net.flights.filter fun y => y.id ≠ id } }

theorem exec_mcastAckMerge {a : State} {c : Nat} {f : Flight} (hg : g < 16) (hx : s.xferOf g = some x)
    (hcomes : (s.net.flights.any fun f => (f.ack.map (x.acks n)).getD false) = true ∨
      (s.net.merges.any fun m => x.acks n m.ack) = true)
    (ha : s.meshEvent (fun net => (s.ackAt x n net).map Prod.snd) = some a) (hf : a.ackAt x n a.net = some (f, c)) :
    exec (.mcastAckMerge g n) s = .next ((((((a.dropFlight f.id).modXfer g fun y => y.takeAck n ((f.ack.map AckMark.got).getD
      [])).noteLag g).settleXfer g).pumpEngine x.sl)) := by
  have hnot : ¬(!(s.net.flights.any fun f => (f.ack.map (x.acks n)).getD false) &&
      !(s.net.merges.any fun m => x.acks n m.ack)) = true := by
    rcases hcomes with h | h <;> simp [h]
  simp only [exec, execMcastAckMerge, State.onIndex, if_pos hg, State.ackMerge, hx, if_neg hnot, ha, hf]
  rfl

end

/-- A merged acknowledgement is counted for the receivers in it. -/
theorem ackMerge_counts (s a : State) (g n c : Nat) (x : Xfer) (f : Flight) (hg : g < 16) (hx : s.xferOf g = some x)
    (hcomes : (s.net.flights.any fun f => (f.ack.map (x.acks n)).getD false) = true ∨
      (s.net.merges.any fun m => x.acks n m.ack) = true)
    (ha : s.meshEvent (fun net => (s.ackAt x n net).map Prod.snd) = some a) (hf : a.ackAt x n a.net = some (f, c)) :
    ∃ t : State, exec (.mcastAckMerge g n) s = .next t ∧ t.now = a.now ∧ (∀ y ∈ t.net.flights, y.id ≠ f.id) ∧
      (t.slotState x.sl x.slot = 4 ∨ ∃ z ∈ t.net.xfers, z.g = g ∧ z.no = x.no ∧
        z.acked = (x.takeAck n ((f.ack.map AckMark.got).getD [])).acked) ∧ t.ports = s.ports ∧ t.belfry = s.belfry := by
  have hexec := exec_mcastAckMerge hg hx hcomes ha hf
  generalize hgot : (f.ack.map AckMark.got).getD [] = got at hexec ⊢
  have hkeep := settled_xfers (s := (a.dropFlight f.id).modXfer g fun y => y.takeAck n got) (g := g) (sl := x.sl)
  generalize (((((a.dropFlight f.id).modXfer g fun y => y.takeAck n got).noteLag g).settleXfer g).pumpEngine x.sl) = t
    at hexec hkeep
  have hmem : x.takeAck n got ∈ ((a.dropFlight f.id).modXfer g fun y => y.takeAck n got).net.xfers := by
    refine List.mem_map.mpr ⟨x, ?_, if_pos (xferOf_g hx)⟩
    exact (meshEvent_xfers ha).symm ▸ mem_of_xferOf hx
  refine ⟨t, hexec, hkeep.now, ?_, ?_, exec_engine_frame rfl hexec⟩
  · rw [hkeep.flights]
    intro y hy
    exact of_decide_eq_true (List.mem_filter.mp hy).2
  · rw [x.takeAck_eq n got] at hmem
    rcases hkeep.xfer _ hmem with ⟨z, hz, hxz⟩ | ⟨_, hstop⟩
    · exact .inr ⟨z, hz, Eq.trans (b := x.g) hxz.g (xferOf_g hx), hxz.no, hxz.acked⟩
    · exact .inl hstop

end Sys2Proof.Machine
end
section
/-! SUPPORT for O33. What an acknowledgement counts (R146). -/

namespace Sys2Proof.Machine

open State

/-- One more at an index of a table. -/
def countUp (t : Tbl Nat) (r : Nat) : Tbl Nat := Tbl.put 0 t r (Tbl.get 0 t r + 1)

theorem get_countUp (t : Tbl Nat) (a r : Nat) : Tbl.get 0 (countUp t a) r = Tbl.get 0 t r + if r = a then 1 else 0 := by
  rw [countUp, Tbl.get_put 0 0 t a r _ fun _ => rfl]
  split
  · next h => rw [h]
  · rfl

/-- Each element of a list is counted once. -/
theorem get_countUp_eraseDups (l : List Nat) (t : Tbl Nat) (r : Nat) :
    Tbl.get 0 (l.eraseDups.foldl countUp t) r = Tbl.get 0 t r + if r ∈ l then 1 else 0 := by
  match l with
  | [] => simp
  | a :: l =>
    have ih := get_countUp_eraseDups (l.filter fun b => !b == a) (countUp t a) r
    rw [get_countUp] at ih
    rw [List.eraseDups_cons, List.foldl_cons, ih]
    by_cases hr : r = a <;> simp [hr]
termination_by l.length
decreasing_by exact Nat.lt_succ_of_le (List.length_filter_le ..)

theorem takeAck_counts (x : Xfer) (n r : Nat) (got : List Nat) (k : Stroke)
    (hk : x.strokes.find? (fun k => k.n = n) = some k) :
    (x.takeAck n got).ackedBy r =
      x.ackedBy r + if got.contains r = true ∧ x.members.contains r = true ∧ k.acked.contains r = false then 1 else 0 := by
  have hacked : (x.takeAck n got).acked =
      (got.filter fun r => x.members.contains r && !(k.acked.contains r)).eraseDups.foldl countUp x.acked := by
    simp only [Xfer.takeAck, hk]
    rfl
  rw [Xfer.ackedBy, hacked, get_countUp_eraseDups, Xfer.ackedBy]
  simp only [List.mem_filter, List.contains_iff_mem, Bool.and_eq_true, Bool.not_eq_true']

end Sys2Proof.Machine
end
section
/-! SUPPORT for O33. Strokes are sent again to a receiver that refused one (R146). -/

namespace Sys2Proof.Machine

open State

/-- A stroke with one copy more under way. -/
def Stroke.addCopy (k : Stroke) (c : StrokeCopy) : Stroke := { k with copies := k.copies ++ [c] }

/-- Stroke `n` of a transfer is under way once more. -/
def Xfer.addCopy (n : Nat) (c : StrokeCopy) (x : Xfer) : Xfer :=
  { x with strokes := x.strokes.map fun y => if y.n = n then y.addCopy c else y }

/-- Everything of `x` is in `z`: its strokes, each with its copies under way. -/
def Xfer.Within (x z : Xfer) : Prop :=
  z.g = x.g ∧ ∀ y ∈ x.strokes, ∃ w ∈ z.strokes, w.n = y.n ∧ ∀ c ∈ y.copies, c ∈ w.copies

theorem Xfer.within_refl (x : Xfer) : x.Within x := ⟨rfl, fun y hy => ⟨y, hy, rfl, fun _ hc => hc⟩⟩

theorem Xfer.Within.trans {x y z : Xfer} (h : x.Within y) (h' : y.Within z) : x.Within z := by
  refine ⟨h'.1.trans h.1, fun k hk => ?_⟩
  obtain ⟨k', hk', hn, hc⟩ := h.2 k hk
  obtain ⟨k'', hk'', hn', hc'⟩ := h'.2 k' hk'
  exact ⟨k'', hk'', hn'.trans hn, fun c h => hc' c (hc c h)⟩

theorem Xfer.within_addCopy (x : Xfer) (n : Nat) (c : StrokeCopy) : x.Within (x.addCopy n c) := by
  refine ⟨rfl, fun y hy => ⟨_, List.mem_map.mpr ⟨y, hy, rfl⟩, ?_⟩⟩
  split
  · exact ⟨rfl, fun _ hc => List.mem_append_left _ hc⟩
  · exact ⟨rfl, fun _ hc => hc⟩

/-- Only the mesh changes, in no time, and all that was under way in it still is. -/
structure State.Resends (s t : State) : Prop where
  build : t.build = s.build
  time : t.time = s.time
  csr : t.csr = s.csr
  mem : t.mem = s.mem
  slots : t.slots = s.slots
  flights : ∀ f ∈ s.net.flights, f ∈ t.net.flights
  xfers : ∀ x ∈ s.net.xfers, ∃ z ∈ t.net.xfers, x.Within z

theorem State.resends_refl (s : State) : s.Resends s :=
  ⟨rfl, rfl, rfl, rfl, rfl, fun _ hf => hf, fun x hx => ⟨x, hx, x.within_refl⟩⟩

theorem State.Resends.trans {s t u : State} (h : s.Resends t) (h' : t.Resends u) : s.Resends u where
  build := h'.build.trans h.build
  time := h'.time.trans h.time
  csr := h'.csr.trans h.csr
  mem := h'.mem.trans h.mem
  slots := h'.slots.trans h.slots
  flights f hf := h'.flights f (h.flights f hf)
  xfers x hx := by
    obtain ⟨y, hy, hxy⟩ := h.xfers x hx
    obtain ⟨z, hz, hyz⟩ := h'.xfers y hy
    exact ⟨z, hz, hxy.trans hyz⟩

/-- A change of transfers that leaves all of each in it. -/
theorem State.modXfer_resends (s : State) (g : Nat) {f : Xfer → Xfer} (hf : ∀ x : Xfer, x.Within (f x)) :
    s.Resends (s.modXfer g f) := by
  refine ⟨rfl, rfl, rfl, rfl, rfl, fun _ hf => hf, fun x hx => ⟨_, List.mem_map.mpr ⟨x, hx, rfl⟩, ?_⟩⟩
  split
  · exact hf x
  · exact x.within_refl

/-- The packet that carries stroke `k` of `x` to receiver `r` alone. -/
def State.resendFlight (s : State) (x : Xfer) (r : Nat) (k : Stroke) : Flight :=
  { id := s.net.nextFlight, vc := s.channel x.sl false, cls := x.cls, flits := max 1 (flitsOf k.lines.length)
    burst := 0, last := true, at' := s.now, gap := 1, way := s.treeWay x.sl [r], ack := none }

/-- Stroke `k` of `x` is sent to receiver `r` alone. -/
def State.resendOne (s : State) (x : Xfer) (r : Nat) (k : Stroke) : State :=
  let f := s.sendStroke x k [r] 0 true
  f.2.modXfer x.g (Xfer.addCopy k.n { dests := [r], left := [r], flight := f.1 })

theorem State.resendTo_eq (s : State) (x : Xfer) (r : Nat) :
    s.resendTo x r = (x.strokes.filter fun k => !(k.acked.contains r)).foldl (fun t k => t.resendOne x r k) s := rfl

/-- A stroke of `x` is under way to receiver `r` alone since the present clk. -/
def State.UnderWayTo (s : State) (x : Xfer) (r n : Nat) : Prop :=
  ∃ f ∈ s.net.flights, f.at' = s.now ∧ f.way = s.treeWay x.sl [r] ∧
    ∃ z ∈ s.net.xfers, z.g = x.g ∧ ∃ y ∈ z.strokes, y.n = n ∧ ⟨[r], [r], f.id⟩ ∈ y.copies

section
variable {s t : State} {x : Xfer} {r n : Nat} {k : Stroke}

theorem State.Resends.rd (h : s.Resends t) (a : Nat) : t.rd a = s.rd a := by
  rw [State.rd, State.rd, h.build, h.csr]

theorem State.Resends.treeWay (h : s.Resends t) (a : Nat) (l : List Nat) : t.treeWay a l = s.treeWay a l :=
  treeWay_congr h.build (h.rd _) a l

theorem State.UnderWayTo.mono (h : s.UnderWayTo x r n) (ht : s.Resends t) : t.UnderWayTo x r n := by
  obtain ⟨f, hf, hat, hway, z, hz, hg, y, hy, hn, hc⟩ := h
  obtain ⟨z', hz', hzg, hzk⟩ := ht.xfers z hz
  obtain ⟨y', hy', hyn, hyc⟩ := hzk y hy
  exact ⟨f, ht.flights f hf, hat.trans (congrArg Time.clk ht.time).symm, hway.trans (ht.treeWay ..).symm, z', hz',
    hzg.trans hg, y', hy', hyn.trans hn, hyc _ hc⟩

theorem State.resendOne_resends (s : State) (x : Xfer) (r : Nat) (k : Stroke) : s.Resends (s.resendOne x r k) := by
  have hlaunch : s.Resends (s.sendStroke x k [r] 0 true).2 :=
    ⟨rfl, rfl, rfl, rfl, rfl, fun _ hf => List.mem_append_left _ hf, fun x hx => ⟨x, hx, x.within_refl⟩⟩
  exact hlaunch.trans (modXfer_resends _ _ fun y => y.within_addCopy ..)

theorem State.resendOne_underWay (hx : ∃ z ∈ s.net.xfers, x.Within z) (hk : k ∈ x.strokes) :
    (s.resendOne x r k).UnderWayTo x r k.n := by
  obtain ⟨z, hz, hg, hstrokes⟩ := hx
  obtain ⟨w, hw, hn, -⟩ := hstrokes k hk
  have hway : s.treeWay x.sl [r] = (s.resendOne x r k).treeWay x.sl [r] := ((resendOne_resends ..).treeWay ..).symm
  refine ⟨s.resendFlight x r k, List.mem_append_right _ (List.mem_singleton.mpr rfl), rfl, hway,
    z.addCopy k.n ⟨[r], [r], s.net.nextFlight⟩, List.mem_map.mpr ⟨z, hz, if_pos hg⟩, hg,
    w.addCopy ⟨[r], [r], s.net.nextFlight⟩, List.mem_map.mpr ⟨w, hw, if_pos hn⟩, hn,
    List.mem_append_right _ (List.mem_singleton.mpr rfl)⟩

theorem State.foldl_resends {α : Type} (l : List α) (f : State → α → State) (hf : ∀ t a, State.Resends t (f t a))
    (s : State) :
    s.Resends (l.foldl f s) :=
  foldl_of (P := s.Resends) l f s.resends_refl fun t a ht => ht.trans (hf t a)

/-- What one step of a loop puts under way is so at its end. -/
theorem State.foldl_underWay {α : Type} {l : List α} {f : State → α → State} (hf : ∀ t a, State.Resends t (f t a))
    {a : α} (ha : a ∈ l) (h : ∀ t, s.Resends t → (f t a).UnderWayTo x r n) : (l.foldl f s).UnderWayTo x r n := by
  induction l generalizing s with
  | nil => cases ha
  | cons b l ih =>
    rcases List.mem_cons.mp ha with rfl | ha
    · exact (h s s.resends_refl).mono (foldl_resends l f hf _)
    · exact ih ha fun t ht => h t ((hf s b).trans ht)

theorem State.resendTo_resends (s : State) (x : Xfer) (r : Nat) : s.Resends (s.resendTo x r) :=
  foldl_resends _ _ (fun t k => t.resendOne_resends x r k) s

theorem State.resendTo_underWay (hx : ∃ z ∈ s.net.xfers, x.Within z) (hk : k ∈ x.strokes) (hr : r ∉ k.acked) :
    (s.resendTo x r).UnderWayTo x r k.n := by
  rw [resendTo_eq]
  refine foldl_underWay (fun t k => t.resendOne_resends x r k) (List.mem_filter.mpr ⟨hk, by simpa using hr⟩) fun t ht => ?_
  obtain ⟨z, hz, hxz⟩ := hx
  obtain ⟨z', hz', hzz⟩ := ht.xfers z hz
  exact resendOne_underWay ⟨z', hz', hxz.trans hzz⟩ hk

/-- Every receiver that refused a stroke and is still in the group is sent what it has not acknowledged. -/
def State.resendAll (s : State) (x : Xfer) : State :=
  (x.refused.filter fun r => x.members.contains r).foldl (fun t r => t.resendTo x r) s

theorem State.resendAll_resends (s : State) (x : Xfer) : s.Resends (s.resendAll x) :=
  foldl_resends _ _ (fun t r => t.resendTo_resends x r) s

theorem State.resendAll_underWay (hx : x ∈ s.net.xfers) (hr : r ∈ x.refused) (hm : r ∈ x.members) (hk : k ∈ x.strokes)
    (hack : r ∉ k.acked) : (s.resendAll x).UnderWayTo x r k.n := by
  refine foldl_underWay (fun t r => t.resendTo_resends x r) (List.mem_filter.mpr ⟨hr, by simpa using hm⟩) fun t ht => ?_
  exact resendTo_underWay (ht.xfers x hx) hk hack

/-- The transfer has sent again at clk `c`, and no receiver has refused since. -/
def Xfer.resentAt (c : Nat) (x : Xfer) : Xfer := { x with refused := [], resent := c }

theorem Xfer.within_resentAt (c : Nat) (x : Xfer) : x.Within (x.resentAt c) :=
  ⟨rfl, fun y hy => ⟨y, hy, rfl, fun _ hc => hc⟩⟩

theorem exec_mcastResend {g : Nat} (hg : g < 16) (hx : s.xferOf g = some x) (hne : x.refused ≠ []) :
    exec (.mcastResend g) s = .next ((((s.reach (x.resent + 256)).resendAll x).modXfer g
      (Xfer.resentAt ((s.reach (x.resent + 256)).resendAll x).now))) := by
  have hempty : ¬x.refused.isEmpty = true := by simpa using hne
  simp only [exec, execMcastResend, State.onIndex, if_pos hg, State.strokeResend, hx, if_neg hempty]
  rfl

end

/-- After 256 clk strokes are sent again to each receiver that refused one. -/
theorem strokeResend_resends (s : State) (g : Nat) (x : Xfer) (hg : g < 16) (hx : s.xferOf g = some x)
    (hne : x.refused ≠ []) : ∃ t : State,
    exec (.mcastResend g) s = .next t ∧ t.now = max s.now (x.resent + 256) ∧ t.csr = s.csr ∧ t.mem = s.mem ∧
      t.slots = s.slots ∧ (∀ z ∈ t.net.xfers, z.g = g → z.refused = [] ∧ z.resent = t.now) ∧
      (∀ r k, r ∈ x.refused → r ∈ x.members → k ∈ x.strokes → r ∉ k.acked → ∃ f ∈ t.net.flights, f.at' = t.now ∧
        f.way = s.treeWay x.sl [r] ∧ ∃ z ∈ t.net.xfers, z.g = g ∧ ∃ y ∈ z.strokes, y.n = k.n ∧ ⟨[r], [r], f.id⟩ ∈ y.copies) := by
  have hexec := exec_mcastResend hg hx hne
  generalize hu : s.reach (x.resent + 256) = u at hexec
  have hall : u.Resends (u.resendAll x) := resendAll_resends u x
  have hmod := (u.resendAll x).modXfer_resends g (Xfer.within_resentAt (u.resendAll x).now)
  have hend := hall.trans hmod
  have hnow : u.now = max s.now (x.resent + 256) := hu ▸ reach_now ..
  refine ⟨_, hexec, (congrArg Time.clk hend.time).trans hnow, hend.csr.trans (hu ▸ reach_csr ..),
    hend.mem.trans (hu ▸ reach_mem ..), hend.slots.trans (hu ▸ reach_slots ..),
    fun z hz hzg => ?_, fun r k hr hm hk hack => ?_⟩
  · obtain ⟨y, -, rfl⟩ := List.mem_map.mp hz
    by_cases hy : y.g = g
    · rw [if_pos hy]
      exact ⟨rfl, rfl⟩
    · exact absurd hzg (by rwa [if_neg hy])
  · have hux : x ∈ u.net.xfers := by
      rw [← hu, reach_net]
      exact mem_of_xferOf hx
    obtain ⟨f, hf, hat, hway, z, hz, hzg, hy⟩ := (resendAll_underWay hux hr hm hk hack).mono hmod
    have huway : u.treeWay x.sl [r] = s.treeWay x.sl [r] := hu ▸ treeWay_congr (reach_build ..) (reach_rd ..) ..
    exact ⟨f, hf, hat, hway.trans ((hend.treeWay ..).trans huway), z, hz, hzg.trans (xferOf_g hx), hy⟩

end Sys2Proof.Machine
end
section
/-! SUPPORT for O33. A receiver that lags is shed (R147, R148). -/

namespace Sys2Proof.Machine

open State

section
variable {s t : State} {sl j r g : Nat} {x : Xfer}

theorem shedReg_seSlotShed (sl : Nat) (hj : j < 16) : shedReg (A.seSlotShed sl j) := by
  simp only [shedReg, A.seSlotShed, sliceAddr]
  omega

theorem shedReg_meshShed (sl : Nat) : shedReg (A.meshShed sl) := by
  simp only [shedReg, A.meshShed, sliceAddr]
  omega

theorem seSlotShed_ne_meshShed (sl j : Nat) : A.seSlotShed sl j ≠ A.meshShed sl := by
  simp only [A.seSlotShed, A.meshShed, sliceAddr]
  omega

/-- A receiver shown in SHED, and counted. -/
def State.showShed (s : State) (sl j r : Nat) : State := (s.putB (A.seSlotShed sl j) r true).count (A.meshShed sl) 0 48 1

theorem State.showShed_shown (hr : r < 64) : (s.showShed sl j r).getB (A.seSlotShed sl j) r = true := by
  rw [State.showShed, State.count, State.getB, State.putF, rd_wr_ne _ (seSlotShed_ne_meshShed sl j), State.putB,
    State.rd_wr_same, flag_setFlag _ _ _ _ hr hr, if_pos rfl]

theorem State.showShed_counted :
    (s.showShed sl j r).getF (A.meshShed sl) 0 48 = (s.getF (A.meshShed sl) 0 48 + 1) % 2 ^ 48 := by
  rw [State.showShed, State.count, State.getF_putF_same _ _ _ _ _ (by decide), State.getF, State.putB,
    rd_wr_ne _ (seSlotShed_ne_meshShed sl j).symm, State.getF]

theorem State.rd_modXfer (f : Xfer → Xfer) (a : Nat) : (s.modXfer g f).rd a = s.rd a := rfl

/-- The detail of the record: receiver, group and what the receiver has acknowledged (R147). -/
def shedDetail (x : Xfer) (g r : Nat) : Word := setFld (setFld (setFld 0 0 6 r) 6 4 g) 10 32 (x.ackedBy r)

/-- A transfer without receiver `r`. -/
def Xfer.without (r : Nat) (x : Xfer) : Xfer := { x with members := x.members.erase r }

theorem exec_mcastShed (hg : g < 16) (hr : s.hasSlice r = true) (hx : s.xferOf g = some x)
    (hm : x.members.contains r = true) (hlag : Tbl.get 0 x.lagSince r ≠ 0) (hp : s.shedPolicy x = true) :
    exec (.mcastShed g r) s = .next (((((((s.reach (Tbl.get 0 x.lagSince r - 1 +
      s.getF (A.qosGrpa g) 16 16)).slotRec x.sl x.slot 0x0E (shedDetail x g r)).showShed x.sl x.slot
      r).modXfer g (Xfer.without r)).settleXfer g).pumpEngine x.sl)) := by
  have hshed : ¬(x.members.contains r = false ∨ Tbl.get 0 x.lagSince r = 0 ∨ s.shedPolicy x = false) := by
    rw [hm, hp]
    simpa using hlag
  simp only [exec, execMcastShed, State.onSlice, if_pos hg, if_pos hr, State.shed, hx, if_neg hshed]
  rfl

end

/-- A receiver whose lag has exceeded the limit leaves the group. -/
theorem shed_sheds (s : State) (g r : Nat) (x : Xfer) (hg : g < 16) (hs : s.hasSlice r = true) (hr : r < 64)
    (hx : s.xferOf g = some x) (hslot : s.hasSlot x.sl x.slot = true) (hm : x.members.contains r = true)
    (hlag : Tbl.get 0 x.lagSince r ≠ 0) (hp : s.shedPolicy x = true) : ∃ t : State,
    exec (.mcastShed g r) s = .next t ∧ t.now = max s.now (Tbl.get 0 x.lagSince r - 1 + s.getF (A.qosGrpa g) 16 16) ∧
      t.getB (A.seSlotShed x.sl x.slot) r = true ∧
      t.getF (A.meshShed x.sl) 0 48 = (s.getF (A.meshShed x.sl) 0 48 + 1) % 2 ^ 48 ∧
      (t.slotState x.sl x.slot = 4 ∨ ∃ z ∈ t.net.xfers, z.g = g ∧ z.no = x.no ∧ z.members = x.members.erase r) ∧
      t.ports = s.ports ∧ t.belfry = s.belfry := by
  have hexec := exec_mcastShed hg hs hx hm hlag hp
  have hj : x.slot < 16 := of_decide_eq_true (Bool.and_eq_true_iff.mp hslot).2
  generalize hu : s.reach (Tbl.get 0 x.lagSince r - 1 + s.getF (A.qosGrpa g) 16 16) = u at hexec
  have hrec : u.KeepsMesh (u.slotRec x.sl x.slot 0x0E (shedDetail x g r)) := sliceRec_mesh (keepsMesh_refl u) ..
  generalize u.slotRec x.sl x.slot 0x0E (shedDetail x g r) = v at hexec hrec
  have hkeep : ((v.showShed x.sl x.slot r).modXfer g (Xfer.without r)).KeepsXfers
      ((((v.showShed x.sl x.slot r).modXfer g (Xfer.without r)).settleXfer g).pumpEngine x.sl) :=
    settleXfer_xfers.trans pumpEngine_xfers
  generalize (((v.showShed x.sl x.slot r).modXfer g (Xfer.without r)).settleXfer g).pumpEngine x.sl = t at hexec hkeep
  have hshed : v.rd (A.meshShed x.sl) = s.rd (A.meshShed x.sl) :=
    (hrec.rd _ (spared_of_shedReg (shedReg_meshShed _))).trans (hu ▸ reach_rd ..)
  have hmem : x.without r ∈ ((v.showShed x.sl x.slot r).modXfer g (Xfer.without r)).net.xfers := by
    refine List.mem_map.mpr ⟨x, ?_, if_pos (xferOf_g hx)⟩
    show x ∈ v.net.xfers
    rw [hrec.net, ← hu, reach_net]
    exact mem_of_xferOf hx
  refine ⟨t, hexec, ?_, ?_, ?_, ?_, exec_engine_frame rfl hexec⟩
  · exact hkeep.now.trans ((congrArg Time.clk hrec.time).trans (hu ▸ reach_now ..))
  · rw [State.getB, hkeep.rd _ (shedReg_seSlotShed _ hj), rd_modXfer]
    exact showShed_shown hr
  · have hfld : v.getF (A.meshShed x.sl) 0 48 = s.getF (A.meshShed x.sl) 0 48 := congrArg (fld · 0 48) hshed
    rw [← hfld, State.getF, hkeep.rd _ (shedReg_meshShed _), rd_modXfer]
    exact showShed_counted
  · rcases hkeep.xfer _ hmem with ⟨z, hz, hxz⟩ | ⟨_, hstop⟩
    · exact .inr ⟨z, hz, Eq.trans (b := x.g) hxz.g (xferOf_g hx), hxz.no, hxz.members⟩
    · exact .inl hstop

end Sys2Proof.Machine
end
section
/-! O33: Carillon transfers. -/

namespace Sys2Proof.Machine

/-- Settles O33: a stroke's stages one by one; after each the source's engine works on, which leaves the transfer as it is or
finds its slot FAULTED, and keeps what is under way. -/
theorem carillonStrokes : Obligations.CarillonStrokes := by
  unfold Obligations.CarillonStrokes
  exact ⟨strokeSend_sends, strokeLand_lands, ackMerge_counts, takeAck_counts, strokeResend_resends, shed_sheds⟩

end Sys2Proof.Machine
end
section
/-! PROOF. Steps of the strike path, the row accumulators, the reduction tree and the seeds of the LFSRs (O44). -/

namespace Sys2Proof.Machine

open State

/-! ### Steps on a bank set (R225) -/

theorem le_foldl_min_iff {α : Type} (f : α → Nat) (l : List α) (n a : Nat) :
    n ≤ l.foldl (fun m x => min m (f x)) a ↔ n ≤ a ∧ ∀ x ∈ l, n ≤ f x := by
  induction l generalizing a with
  | nil => simp only [List.foldl_nil, List.not_mem_nil, false_implies, implies_true, and_true]
  | cons x l ih => rw [List.foldl_cons, ih, Nat.le_min, List.forall_mem_cons, and_assoc]

/-- The least start of some ready steps, as `State.strikeOn` computes it. -/
theorem foldl_min_start {r : Ready} {rs : List Ready} {first : Nat} (hex : ∃ q ∈ r :: rs, q.start = first)
    (hle : ∀ q ∈ r :: rs, first ≤ q.start) : (r :: rs).foldl (fun m q => min m q.start) r.start = first := by
  obtain ⟨q, hq, rfl⟩ := hex
  apply Nat.le_antisymm
  · exact ((le_foldl_min_iff Ready.start _ _ _).mp (Nat.le_refl _)).2 q hq
  · exact (le_foldl_min_iff Ready.start _ _ _).mpr ⟨hle r List.mem_cons_self, hle⟩

section
variable {s : State} {sl b j : Nat}

theorem exec_strikeStep (hslice : s.hasSlice sl = true) (hb : b < 8) :
    exec (.strikeStep sl b) s = .next (s.strikeOn sl b) :=
  (if_pos hb).trans (onSlice_of s hslice)

theorem State.strikeOn_of_nil (h : (s.pumpAll sl).readySteps sl b = []) : s.strikeOn sl b = s.pumpAll sl := by
  simp only [State.strikeOn, h]

/-- The other claimants of a bank set as its strike path sees them: strike from the clk on in which a step is ready. -/
def State.strikeOthers (u : State) (sl b : Nat) : Others :=
  { strike := fun n => (u.readySteps sl b).any fun q => decide (q.start ≤ n), patrol := u.patrolOn sl b }

/-- The strike claimant wins its slot in clk `c`, and the oldest operation with a step ready then takes it. -/
theorem State.strikeOn_of_win {first c o : Nat} {r : Ready} (hex : ∃ q ∈ (s.pumpAll sl).readySteps sl b, q.start = first)
    (hle : ∀ q ∈ (s.pumpAll sl).readySteps sl b, first ≤ q.start)
    (hwin : (s.pumpAll sl).firstWin sl b ((s.pumpAll sl).strikeOthers sl b) (fun w => decide (w = 19)) 64
      (max first ((s.pumpAll sl).laneFrom sl b)) = some (c, o))
    (hr : (((s.pumpAll sl).readySteps sl b).find? fun q => decide (q.start ≤ c)) = some r) :
    s.strikeOn sl b = ((((((s.pumpAll sl).reach c).losers sl b 19 ((s.pumpAll sl).strikeOthers sl b)).takeLane sl b).countSlot
      sl 19 ((s.pumpAll sl).slotClass sl r.slot)).runStep sl b r).pumpAll sl := by
  unfold State.strikeOn
  unfold State.strikeOthers at *
  generalize s.pumpAll sl = u at *
  dsimp only
  cases hrs : u.readySteps sl b with
  | nil => simp [hrs] at hex
  | cons q rs =>
    simp only [hrs] at hex hle hwin hr
    simp only [foldl_min_start hex hle, hwin, hr]

/-! ### The row accumulators (R242) -/

@[simp] theorem State.bank_wr (s : State) (sl b a : Nat) (v : Word) : (s.wr a v).bank sl b = s.bank sl b := rfl

/-- A bank without accumulators, in use or to come. -/
def Bank.NoAccs (k : Bank) : Prop := k.accs = [] ∧ k.shadow = []

theorem State.bank_modBank_ne {c : Nat} (h : b ≠ c) (f : Bank → Bank) : (s.modBank sl c f).bank sl b = s.bank sl b :=
  (Tbl.get_put _ _ _ _ _ _ fun _ => rfl).trans (if_neg (by omega))

theorem State.each_clear_noAccs (l : List Nat) (h : b ∈ l ∨ (s.bank sl b).NoAccs) :
    ((s.each l fun t c => t.modBank sl c fun k => { k with accs := [], shadow := [] }).bank sl b).NoAccs := by
  induction l generalizing s with
  | nil => exact h.resolve_left List.not_mem_nil
  | cons c l ih =>
    refine ih (s := s.modBank sl c _) ?_
    by_cases hbc : b = c
    · subst hbc
      rw [bank_modBank_same]
      exact .inr ⟨rfl, rfl⟩
    · rw [bank_modBank_ne hbc]
      exact h.imp_left fun hm => (List.mem_cons.mp hm).resolve_left hbc

theorem State.freeAccs_noAccs (s : State) (sl : Nat) (hb : b < 64) : ((s.freeAccs sl).bank sl b).NoAccs := by
  have hmem : b ∈ List.range 64 := List.mem_range.mpr hb
  unfold State.freeAccs
  generalize List.range 64 = l at hmem ⊢
  rw [bank_wr]
  exact each_clear_noAccs l (.inl hmem)

theorem State.freeAccs_time (s : State) (sl : Nat) : (s.freeAccs sl).time = s.time := by
  unfold State.freeAccs State.each
  generalize List.range 64 = l
  rw [wr_time]
  exact foldl_of (P := fun t => t.time = s.time) l _ rfl fun _ _ h => h

theorem State.freeAccs_rd (s : State) {a : Nat} (ha : a ≠ A.strkAcc sl) : (s.freeAccs sl).rd a = s.rd a := by
  unfold State.freeAccs State.each
  generalize List.range 64 = l
  rw [rd_wr_ne _ ha]
  exact foldl_of (P := fun t => t.rd a = s.rd a) l _ rfl fun _ _ h => h

/-- Slot `j` has taken the accumulators of its slice, no earlier than in clk `n`. -/
def State.accsTakenBy (s : State) (sl j n : Nat) : State :=
  ((s.reach n).freeAccs sl).wr (A.strkAcc sl) (setFlag (setFld 0 0 4 j) 4 true)

theorem State.accsTakenBy_now (s : State) (sl j n : Nat) : (s.accsTakenBy sl j n).now = max s.now n := by
  rw [State.now, accsTakenBy, wr_time, freeAccs_time]
  exact reach_now ..

theorem State.accsTakenBy_noAccs (s : State) (sl j n : Nat) (hb : b < 64) : ((s.accsTakenBy sl j n).bank sl b).NoAccs := by
  rw [accsTakenBy, bank_wr]
  exact freeAccs_noAccs _ sl hb

theorem State.accsTakenBy_rd (s : State) (j n : Nat) {a : Nat} (ha : a ≠ A.strkAcc sl) :
    (s.accsTakenBy sl j n).rd a = s.rd a :=
  (rd_wr_ne _ ha _).trans ((freeAccs_rd _ ha).trans (reach_rd ..))

theorem State.accsTakenBy_holder (s : State) (sl n : Nat) (hj : j < 16) :
    (s.accsTakenBy sl j n).getF (A.strkAcc sl) 0 4 = j ∧ (s.accsTakenBy sl j n).getB (A.strkAcc sl) 4 = true := by
  simp only [State.getF, State.getB, accsTakenBy, rd_wr_same]
  constructor
  · rw [fld_setFlag _ _ _ _ _ (by decide) (by decide) (by decide), fld_setFld _ _ _ _ (by decide)]
    exact Nat.mod_eq_of_lt hj
  · rw [flag_setFlag _ _ _ _ (by decide) (by decide), if_pos rfl]

theorem State.hasSlot_of (hslice : s.hasSlice sl = true) (hj : j < 16) : s.hasSlot sl j = true := by
  simp [State.hasSlot, hslice, hj]

theorem exec_accumTake (hslice : s.hasSlice sl = true) (hj : j < 16) :
    exec (.accumTake sl j) s = .next (s.takeAccs sl j) :=
  onSlot_of s (hasSlot_of hslice hj)

theorem State.takeAccs_of_takes {i : Inst} (hi : (s.pumpAll sl).takes sl j = some i) :
    s.takeAccs sl j = if (s.pumpAll sl).accsFree sl j = false then s.pumpAll sl
      else (((s.pumpAll sl).accsTakenBy sl j i.began).modInst sl j i.no fun k => { k with taken := true }).pumpAll sl := by
  unfold State.takeAccs
  generalize s.pumpAll sl = u at *
  dsimp only
  rw [hi]
  rfl

/-! ### The reduction tree (R247) -/

theorem exec_reductionTree (hslice : s.hasSlice sl = true) (hj : j < 16) :
    exec (.reductionTree sl j) s = .next (s.reduceTree sl j) :=
  onSlot_of s (hasSlot_of hslice hj)

/-- The clk in which the tree starts on a block: its last step has reached the accumulators, or it had none. -/
def State.treeStart (s : State) (i : Inst) : Nat := match i.tree with
  | some c => c + s.latency
  | none => i.began

/-- The output lines of a block, written as far as slots come. -/
def State.treeOutput (s : State) (sl j : Nat) (i : Inst) : State :=
  s.treeWrites sl j (s.treeStart i) ((dstOf i (s.opsNow sl i)).walkLines + 1)

/-- The tree has a block of slot `j` to work on: its sums are whole. -/
structure State.Summed (u : State) (sl j : Nat) (i : Inst) : Prop where
  inst : u.strikeInst sl j = some i
  op : i.op = 0x34 ∨ i.op = 0x35
  taken : i.taken = true
  halt : (u.slot sl j).halt = none
  sums : u.sumsDone sl j i = true

variable {i : Inst}

theorem State.Summed.works {u : State} (h : u.Summed sl j i) :
    ¬((i.op ≠ 0x34 ∧ i.op ≠ 0x35) ∨ i.taken = false ∨ (u.slot sl j).halt.isSome = true ∨ u.sumsDone sl j i = false) := by
  rintro (⟨h4, h5⟩ | ht | hh | hs)
  · exact h.op.elim h4 h5
  · simp [h.taken] at ht
  · simp [h.halt] at hh
  · simp [h.sums] at hs

/-- A block without output ends as its sums are whole. -/
theorem State.reduceTree_of_nout (h : (s.pumpAll sl).Summed sl j i) (hn : i.nout = true) :
    s.reduceTree sl j = ((s.pumpAll sl).modInst sl j i.no Inst.endBlock).pumpAll sl := by
  unfold State.reduceTree
  generalize s.pumpAll sl = u at *
  dsimp only
  rw [h.inst]
  exact (if_neg h.works).trans (if_pos hn)

/-- A block with output writes its lines, and ends where the last is written. -/
theorem State.reduceTree_of_output {t : State} {k : Inst} (h : (s.pumpAll sl).Summed sl j i) (hn : i.nout = false)
    (ht : (s.pumpAll sl).treeOutput sl j i = t) (hk : t.strikeInst sl j = some k) :
    s.reduceTree sl j = if (t.slot sl j).halt.isNone = true ∧ k.no = i.no ∧ k.wblk = i.wblk ∧
        (dstOf k (t.opsNow sl k)).walkLines ≤ (dstOf k (t.opsNow sl k)).nextUsed k.wpos then
      ((t.modInst sl j i.no Inst.endBlock).freeAccs sl).pumpAll sl else t := by
  have hn' : ¬i.nout = true := by simp [hn]
  subst ht
  unfold State.reduceTree
  generalize s.pumpAll sl = u at *
  dsimp only
  rw [h.inst]
  refine (if_neg h.works).trans ((if_neg hn').trans ?_)
  change (match (u.treeOutput sl j i).strikeInst sl j with
    | none => u.treeOutput sl j i
    | some k => _) = _
  rw [hk]
  rfl

end

/-! ### Seeds (R253) -/

section
variable {s : State} {sl b : Nat} {v : Word}

theorem exec_strkSeedWrite {ctx : Nat} (hslice : s.hasSlice sl = true) (hb : b < 64)
    (hplain : s.plain (A.strkSeed sl b) ctx = true) :
    exec (.strkSeedWrite sl b v ctx) s = .next (s.storeSeed sl b v) :=
  (if_pos hb).trans ((onSlice_of s hslice).trans (congrArg Host.Outcome.next (csrAccess_plain s hplain)))

theorem State.storeSeed_zero (hv : fld v 0 16 = 0) : s.storeSeed sl b v = s := if_pos hv

theorem State.storeSeed_rd_ne {a : Nat} (ha : a ≠ A.strkSeed sl b) : (s.storeSeed sl b v).rd a = s.rd a := by
  unfold State.storeSeed
  split
  · rfl
  · simp only [modSlice_rd, rd_putF, if_neg ha]

theorem State.storeSeed_mem : (s.storeSeed sl b v).mem = s.mem := by
  unfold State.storeSeed; split <;> rfl

theorem State.storeSeed_slots : (s.storeSeed sl b v).slots = s.slots := by
  unfold State.storeSeed; split <;> rfl

theorem State.storeSeed_now : (s.storeSeed sl b v).now = s.now := by
  unfold State.storeSeed; split <;> rfl

variable (hv : fld v 0 16 ≠ 0)
include hv

theorem State.storeSeed_rd_same : (s.storeSeed sl b v).rd (A.strkSeed sl b) =
    setFld (setFld (s.rd (A.strkSeed sl b)) 16 16 (s.lfsr sl b)) 0 16 (fld v 0 16) := by
  simp only [State.storeSeed, if_neg hv, modSlice_rd, rd_putF, if_pos]

/-- The register reads the seed at once. -/
theorem State.storeSeed_seed : (s.storeSeed sl b v).getF (A.strkSeed sl b) 0 16 = fld v 0 16 := by
  rw [State.getF, storeSeed_rd_same hv, fld_setFld _ _ _ _ (by decide)]
  exact Nat.mod_eq_of_lt (BitVec.isLt _)

/-- The state that the LFSR had is kept beside the seed. -/
theorem State.storeSeed_upper : (s.storeSeed sl b v).getF (A.strkSeed sl b) 16 16 = s.lfsr sl b := by
  rw [State.getF, storeSeed_rd_same hv, fld_setFld_ne _ _ _ _ _ _ (by decide) (by decide) (by decide),
    fld_setFld _ _ _ _ (by decide)]
  exact Nat.mod_eq_of_lt (BitVec.isLt _)

theorem State.storeSeed_seeds : Tbl.get 0 ((s.storeSeed sl b v).slice sl).seeds b = s.now + 1 := by
  simp only [State.storeSeed, if_neg hv, State.modSlice, slice_setSlice, if_true]
  exact (Tbl.get_put _ _ _ _ _ _ fun _ => rfl).trans (if_pos rfl)

/-- The LFSR has the seed from the clk after its write on. -/
theorem State.storeSeed_pass_seedDue (n : Nat) : ((s.storeSeed sl b v).pass n).seedDue sl b = decide (1 ≤ n) := by
  have hslice : ((s.storeSeed sl b v).pass n).slice sl = (s.storeSeed sl b v).slice sl :=
    congrArg (Tbl.get SliceSt.init · sl) (pass_slices ..)
  simp [State.seedDue, hslice, storeSeed_seeds hv, storeSeed_now]

/-- As the write acts, the LFSR keeps its state. -/
theorem State.storeSeed_lfsr : (s.storeSeed sl b v).lfsr sl b = s.lfsr sl b := by
  have hdue : (s.storeSeed sl b v).seedDue sl b = false := storeSeed_pass_seedDue hv 0
  rw [State.lfsr, hdue]
  exact storeSeed_upper hv

/-- In the next clk the LFSR has loaded the seed. -/
theorem State.storeSeed_next_lfsr : ((s.storeSeed sl b v).pass 1).lfsr sl b = fld v 0 16 := by
  have hdue : ((s.storeSeed sl b v).pass 1).seedDue sl b = true := storeSeed_pass_seedDue hv 1
  rw [State.lfsr, hdue]
  exact (congrArg (fld · 0 16) (pass_rd ..)).trans (storeSeed_seed hv)

end

/-! ### The clauses -/

theorem strikeStep_steps (s : State) (sl b : Nat) (hslice : s.hasSlice sl = true) (hb : b < 8) :
    let u := s.pumpAll sl
    (u.readySteps sl b = [] → exec (.strikeStep sl b) s = .next u) ∧
    (∀ (first c o : Nat) (r : Ready), (∃ q ∈ u.readySteps sl b, q.start = first) → (∀ q ∈ u.readySteps sl b, first ≤ q.start) →
      u.firstWin sl b (u.strikeOthers sl b) (fun w => decide (w = 19)) 64 (max first (u.laneFrom sl b)) = some (c, o) →
      ((u.readySteps sl b).find? fun q => decide (q.start ≤ c)) = some r →
      exec (.strikeStep sl b) s = .next ((((((u.reach c).losers sl b 19 (u.strikeOthers sl b)).takeLane sl b).countSlot sl 19
        (u.slotClass sl r.slot)).runStep sl b r).pumpAll sl)) := by
  intro u
  rw [exec_strikeStep hslice hb]
  exact ⟨fun h => congrArg _ (strikeOn_of_nil h),
    fun _ _ _ _ hex hle hwin hr => congrArg _ (strikeOn_of_win hex hle hwin hr)⟩

theorem accumTake_takes (s : State) (sl j : Nat) (i : Inst) (hslice : s.hasSlice sl = true) (hj : j < 16) :
    let u := s.pumpAll sl
    u.takes sl j = some i →
    (u.accsFree sl j = false → exec (.accumTake sl j) s = .next u) ∧
    (u.accsFree sl j = true → ∃ t f : State, exec (.accumTake sl j) s = .next f ∧
      f = (t.modInst sl j i.no fun k => { k with taken := true }).pumpAll sl ∧ f.now = max u.now i.began ∧ t.now = f.now ∧
      t.getF (A.strkAcc sl) 0 4 = j ∧ t.getB (A.strkAcc sl) 4 = true ∧
      (∀ b, b < 64 → (t.bank sl b).accs = [] ∧ (t.bank sl b).shadow = []) ∧ (∀ a, a ≠ A.strkAcc sl → t.rd a = u.rd a)) := by
  intro u hi
  rw [exec_accumTake hslice hj, takeAccs_of_takes hi]
  refine ⟨fun h => congrArg _ (if_pos h), fun h => ⟨u.accsTakenBy sl j i.began, _, congrArg _ (if_neg (by simp [u, h])), rfl, ?_⟩⟩
  have htaken := u.accsTakenBy_now sl j i.began
  have hnow := ((modInst_mesh sl j (keepsMesh_refl (u.accsTakenBy sl j i.began)) i.no fun k =>
    { k with taken := true }).keepsXfers.trans (pumpAll_xfers (sl := sl))).now
  obtain ⟨hholder, hheld⟩ := u.accsTakenBy_holder sl i.began hj
  exact ⟨hnow.trans htaken, hnow.symm, hholder, hheld, fun _ hb => u.accsTakenBy_noAccs sl j i.began hb,
    fun _ ha => u.accsTakenBy_rd j i.began ha⟩

theorem reductionTree_ends (s : State) (sl j : Nat) (i : Inst) (hslice : s.hasSlice sl = true) (hj : j < 16) :
    let u := s.pumpAll sl
    u.Summed sl j i →
    (i.nout = true → exec (.reductionTree sl j) s = .next ((u.modInst sl j i.no Inst.endBlock).pumpAll sl)) ∧
    (i.nout = false → ∀ k, let t := u.treeOutput sl j i
      t.strikeInst sl j = some k → let dst := dstOf k (t.opsNow sl k)
      ((t.slot sl j).halt = none → k.no = i.no → k.wblk = i.wblk → dst.walkLines ≤ dst.nextUsed k.wpos →
        exec (.reductionTree sl j) s = .next (((t.modInst sl j i.no Inst.endBlock).freeAccs sl).pumpAll sl)) ∧
      (dst.nextUsed k.wpos < dst.walkLines → exec (.reductionTree sl j) s = .next t)) := by
  intro u hu
  rw [exec_reductionTree hslice hj]
  refine ⟨fun hn => congrArg _ (reduceTree_of_nout hu hn), ?_⟩
  intro hn k t hk dst
  rw [reduceTree_of_output hu hn rfl hk]
  constructor
  · intro hhalt hno hblk hwhole
    exact congrArg _ (if_pos ⟨Option.isNone_iff_eq_none.mpr hhalt, hno, hblk, hwhole⟩)
  · intro hleft
    exact congrArg _ (if_neg fun ⟨_, _, _, hwhole⟩ => Nat.not_le_of_lt hleft hwhole)

theorem strkSeedWrite_loads (s : State) (sl b ctx : Nat) (v : Word) (hslice : s.hasSlice sl = true) (hb : b < 64)
    (hplain : s.plain (A.strkSeed sl b) ctx = true) :
    (fld v 0 16 = 0 → exec (.strkSeedWrite sl b v ctx) s = .next s) ∧
    (fld v 0 16 ≠ 0 → ∃ t : State, exec (.strkSeedWrite sl b v ctx) s = .next t ∧
      t.getF (A.strkSeed sl b) 0 16 = fld v 0 16 ∧ t.lfsr sl b = s.lfsr sl b ∧ (t.pass 1).lfsr sl b = fld v 0 16 ∧
      (∀ a, a ≠ A.strkSeed sl b → t.rd a = s.rd a) ∧ t.mem = s.mem ∧ t.slots = s.slots) := by
  rw [exec_strkSeedWrite hslice hb hplain]
  exact ⟨fun hv => congrArg _ (storeSeed_zero hv), fun hv => ⟨_, rfl, storeSeed_seed hv, storeSeed_lfsr hv,
    storeSeed_next_lfsr hv, fun _ ha => storeSeed_rd_ne ha, storeSeed_mem, storeSeed_slots⟩⟩

/-- Settles O44: what the strike path does with the slot that it wins, with the accumulators, with whole sums and with a
seed, each from the equation of its operation; the working of the engine before and after costs no time. -/
theorem strikeSteps : Obligations.StrikeSteps := by
  unfold Obligations.StrikeSteps
  exact ⟨strikeStep_steps, accumTake_takes,
    fun s sl j i hslice hj hinst hop htaken hhalt hsums =>
      reductionTree_ends s sl j i hslice hj ⟨hinst, hop, htaken, hhalt, hsums⟩,
    strkSeedWrite_loads⟩

end Sys2Proof.Machine
end
section
/-! PROOF. Clave operations by CSR (O43). -/

namespace Sys2Proof.Machine

open State

/-! ### The counters of a pair (R275) -/

section
variable {s t : State} {sl pair : Nat} {room : Bool}

/-- A state with one counter of a pair replaced. -/
def State.putCount (s : State) (sl pair : Nat) (room : Bool) (v : Nat) : State :=
  s.putF (A.semPair sl pair) (if room then 16 else 0) 16 v

theorem State.claveCount_congr (h : t.rd (A.semPair sl pair) = s.rd (A.semPair sl pair)) (room : Bool) :
    t.claveCount sl pair room = s.claveCount sl pair room := congrArg (fld · _ 16) h

theorem State.claveCount_putCount_same {v : Nat} (hv : v < 2 ^ 16) :
    (s.putCount sl pair room v).claveCount sl pair room = v :=
  (getF_putF_same _ _ _ _ _ (by cases room <;> decide)).trans (Nat.mod_eq_of_lt hv)

theorem State.claveCount_putCount_other (v : Nat) :
    (s.putCount sl pair room v).claveCount sl pair (!room) = s.claveCount sl pair (!room) := by
  rw [claveCount, getF, putCount, rd_putF, if_pos rfl]
  cases room <;> exact fld_setFld_ne _ _ _ _ _ _ (by decide) (by decide) (by decide)

theorem State.claveCount_lt (s : State) (sl pair : Nat) (room : Bool) : s.claveCount sl pair room < 2 ^ 16 :=
  (BitVec.extractLsb' _ 16 _).isLt

theorem State.putCount_rd_ne {a : Nat} (ha : a ≠ A.semPair sl pair) (v : Nat) :
    (s.putCount sl pair room v).rd a = s.rd a := rd_wr_ne s ha _

/-! ### SIGNAL (R258) -/

/-- The count of the counter after a SIGNAL of `n`: it saturates. -/
def State.signalled (s : State) (sl pair : Nat) (room : Bool) (n : Nat) : State :=
  s.putCount sl pair room (min (s.claveCount sl pair room + n) 0xFFFF)

/-- OVF is the only other bit that a SIGNAL may set. -/
theorem State.claveSignal_rd (n : Nat) : (s.claveSignal sl pair room n).rd (A.semPair sl pair) =
    if 0xFFFF < s.claveCount sl pair room + n then
      setFlag ((s.signalled sl pair room n).rd (A.semPair sl pair)) 32 true
    else (s.signalled sl pair room n).rd (A.semPair sl pair) := by
  unfold State.claveSignal
  extract_lets v t u
  rw [modSlice_rd, apply_ite (State.rd · (A.semPair sl pair))]
  congr 1
  exact (rd_putB t _ _ _ _).trans (if_pos rfl)

theorem State.claveSignal_rd_ne (n : Nat) {a : Nat} (ha : a ≠ A.semPair sl pair) :
    (s.claveSignal sl pair room n).rd a = s.rd a :=
  ite_of (P := fun t => t.rd a = s.rd a) _ ((rd_wr_ne _ ha _).trans (putCount_rd_ne ha _)) (putCount_rd_ne ha _)

/-- Setting OVF leaves both counters. -/
theorem claveField_setOvf (w : Word) (room b : Bool) :
    fld (setFlag w 32 b) (if room then 16 else 0) 16 = fld w (if room then 16 else 0) 16 := by
  cases room <;> exact fld_setFlag _ _ _ _ _ (by decide) (by decide) (by decide)

theorem State.claveCount_claveSignal (n : Nat) (r : Bool) :
    (s.claveSignal sl pair room n).claveCount sl pair r = (s.signalled sl pair room n).claveCount sl pair r := by
  rw [claveCount, getF, claveSignal_rd]
  split
  · exact claveField_setOvf ..
  · rfl

theorem State.claveSignal_count (n : Nat) :
    (s.claveSignal sl pair room n).claveCount sl pair room = min (s.claveCount sl pair room + n) 0xFFFF :=
  (claveCount_claveSignal n room).trans (claveCount_putCount_same (by omega))

theorem State.claveSignal_other (n : Nat) :
    (s.claveSignal sl pair room n).claveCount sl pair (!room) = s.claveCount sl pair (!room) :=
  (claveCount_claveSignal n !room).trans (claveCount_putCount_other _)

theorem State.signalled_ovf (n : Nat) :
    flag ((s.signalled sl pair room n).rd (A.semPair sl pair)) 32 = s.getB (A.semPair sl pair) 32 := by
  rw [signalled, putCount, rd_putF, if_pos rfl]
  refine (flag_setFld _ _ _ _ _ ?_ (by decide)).trans (if_neg ?_) <;> cases room <;> decide

theorem State.claveSignal_ovf (n : Nat) : (s.claveSignal sl pair room n).getB (A.semPair sl pair) 32 =
    (s.getB (A.semPair sl pair) 32 || decide (0xFFFF < s.claveCount sl pair room + n)) := by
  rw [getB, claveSignal_rd]
  split
  · next h => rw [flag_setFlag _ _ _ _ (by decide) (by decide), if_pos rfl, decide_eq_true h, Bool.or_true]
  · next h => rw [signalled_ovf, decide_eq_false h, Bool.or_false]

/-! ### A take (R258) -/

theorem State.claveTake_of_le {n : Nat} (h : n ≤ s.claveCount sl pair room) :
    s.claveTake sl pair room n = (true, s.putCount sl pair room (s.claveCount sl pair room - n)) := if_pos h

theorem State.claveTake_of_lt {n : Nat} (h : s.claveCount sl pair room < n) : s.claveTake sl pair room n = (false, s) :=
  if_neg (Nat.not_le_of_lt h)

theorem State.claveTake_rd_ne (n : Nat) {a : Nat} (ha : a ≠ A.semPair sl pair) :
    (s.claveTake sl pair room n).2.rd a = s.rd a := by
  rcases Nat.lt_or_ge (s.claveCount sl pair room) n with hlt | hle
  · rw [claveTake_of_lt hlt]
  · rw [claveTake_of_le hle]; exact putCount_rd_ne ha _

theorem State.claveTime_rd (s : State) (sl pair a : Nat) : (s.claveTime sl pair).rd a = s.rd a :=
  ite_of (P := fun t => t.rd a = s.rd a) _ (pass_rd ..) rfl

theorem State.claveTime_now (s : State) (sl pair : Nat) : (s.claveTime sl pair).now =
    if Tbl.get 0 (s.slice sl).signalAt pair = s.now + 1 then s.now + 1 else s.now := by
  unfold State.claveTime
  split
  · exact pass_now ..
  · rfl

end

/-! ### The takes that slots wait for (R258, R259) -/

theorem semPair_ne_lowReg {off : Nat} (hoff : off < 0x2000) (sl pair : Nat) : A.semPair sl pair ≠ sliceAddr sl off := by
  simp only [A.semPair, sliceAddr]; omega

/-- What takes on one counter of a pair leave: the pair's other counter, and the clk. -/
structure State.TakesOnly (sl pair : Nat) (room : Bool) (s t : State) : Prop where
  other : t.claveCount sl pair (!room) = s.claveCount sl pair (!room)
  time : t.time = s.time

section
variable {s0 s : State} {sl pair j : Nat} {room : Bool}

theorem State.takesOnly_refl (s : State) : State.TakesOnly sl pair room s s := ⟨rfl, rfl⟩

/-- A change of anything but the pair's register and the clk. -/
theorem State.TakesOnly.of_eq {t : State} (h : TakesOnly sl pair room s0 s)
    (hrd : t.rd (A.semPair sl pair) = s.rd (A.semPair sl pair)) (htime : t.time = s.time) :
    TakesOnly sl pair room s0 t := ⟨(claveCount_congr hrd _).trans h.other, htime.trans h.time⟩

theorem State.claveTake_takes (h : TakesOnly sl pair room s0 s) (n : Nat) :
    TakesOnly sl pair room s0 (s.claveTake sl pair room n).2 := by
  rcases Nat.lt_or_ge (s.claveCount sl pair room) n with hlt | hle
  · rw [claveTake_of_lt hlt]; exact h
  · rw [claveTake_of_le hle]; exact ⟨(claveCount_putCount_other _).trans h.other, h.time⟩

theorem State.satisfied_takes (h : TakesOnly sl pair room s0 s) (hj : j < 16) :
    TakesOnly sl pair room s0 (s.satisfied sl j) :=
  h.of_eq (rd_wr_ne _ (semPair_ne_lowReg (by omega) sl pair) _) rfl

/-- A WAIT held on a counter takes from it alone. -/
theorem State.waitTakes_takes (h : TakesOnly sl pair room s0 s) (hj : j < 16) :
    TakesOnly sl pair room s0 (s.waitTakes sl j pair room) := by
  unfold State.waitTakes
  split
  · next r p n _ => exact ite_of _ ((satisfied_takes (claveTake_takes h n) hj).of_eq rfl rfl) h
  · exact h

/-- The state in which a slot with START CLAVE has taken its count. -/
theorem State.startNow_takes (h : TakesOnly sl pair false s0 s) (hj : j < 16)
    (hclave : s.getF (A.seSlotCtl sl j) 6 2 = 2) (hpair : s.getF (A.seSlotCtl sl j) 32 8 = pair) :
    TakesOnly sl pair false s0 (s.startNow sl j) := by
  have hctl := semPair_ne_lowReg (off := 0x1008 + 64 * j) (by omega) sl pair
  have hbeat := semPair_ne_lowReg (off := 0x1018 + 64 * j) (by omega) sl pair
  have hstat := semPair_ne_lowReg (off := 0x1C00) (by decide) sl pair
  have hirq : A.semPair sl pair ≠ A.glbIrqCause := by simp only [A.semPair, A.glbIrqCause, sliceAddr]; omega
  unfold State.startNow
  simp only [hclave, hpair, if_true]
  refine (claveTake_takes h (s.getF (A.seSlotCtl sl j) 40 16)).of_eq ?_ ?_
  · rw [modSlot_rd, rd_setSlotState 2 hctl hstat hirq, putF, rd_wr_ne _ hbeat]
  · rw [modSlot_time, setSlotState_time, putF_time]

theorem State.claveStarts_takes (h : TakesOnly sl pair false s0 s) (hj : j < 16) :
    TakesOnly sl pair false s0 (s.claveStarts sl j pair) := by
  unfold State.claveStarts
  extract_lets a
  split
  · next hc => exact startNow_takes h hj hc.1 hc.2.1
  · exact h

theorem State.blockingTakes_takes (s : State) (sl pair : Nat) (room : Bool) :
    TakesOnly sl pair room (s.claveTime sl pair) (s.blockingTakes sl pair room) := by
  have hwaits : TakesOnly sl pair room (s.claveTime sl pair) (s.waitsTake sl pair room 16) :=
    List.foldlRecOn _ _ (takesOnly_refl _) fun _ ht _ hj => waitTakes_takes ht (List.mem_range.mp hj)
  unfold State.blockingTakes
  extract_lets t
  cases room with
  | true => exact hwaits
  | false => exact List.foldlRecOn _ _ hwaits fun _ ht _ hj => claveStarts_takes ht (List.mem_range.mp hj)

/-- With no slot held and none armed nothing comes before a polling take. -/
theorem State.blockingTakes_of_idle (h : ∀ j, j < 16 → (s.slot sl j).hold = .none ∧ s.slotState sl j ≠ 1) :
    s.blockingTakes sl pair room = s.claveTime sl pair := by
  have hslot (j : Nat) : (s.claveTime sl pair).slot sl j = s.slot sl j := by
    unfold State.claveTime; split
    · exact congrArg (Tbl.get Slot.init · _) (pass_slots ..)
    · rfl
  have hwaits : s.waitsTake sl pair room 16 = s.claveTime sl pair := by
    refine List.foldlRecOn (motive := (· = s.claveTime sl pair)) _ _ rfl fun t ht j hj => ?_
    rw [ht, waitTakes, hslot, (h j (List.mem_range.mp hj)).1]
  unfold State.blockingTakes
  rw [hwaits]
  cases room with
  | true => rfl
  | false =>
    refine List.foldlRecOn (motive := (· = s.claveTime sl pair)) _ _ rfl fun t ht j hj => ?_
    have hstate : (s.claveTime sl pair).slotState sl j ≠ 1 := by
      rw [slotState, getF, claveTime_rd]; exact (h j (List.mem_range.mp hj)).2
    rw [ht]
    exact if_neg fun hc => by simp [startReady, hstate] at hc

end

/-! ### SEM_OP and SEM_PAIR (R257 to R259, R276) -/

section
variable {s : State} {sl ctx : Nat} {v : Word}

theorem exec_semOpSignal (hslice : s.hasSlice sl = true) (hplain : s.plain (A.semOp sl) ctx = true) :
    exec (.semOpSignal sl v ctx) s = .next (s.semSignal sl v) :=
  (onSlice_of s hslice).trans (congrArg Host.Outcome.next (csrAccess_plain s hplain))

theorem exec_semOpTake (hslice : s.hasSlice sl = true) (hplain : s.plain (A.semOp sl) ctx = true) :
    exec (.semOpTake sl v ctx) s = .next (s.semTake sl v) :=
  (onSlice_of s hslice).trans (congrArg Host.Outcome.next (csrAccess_plain s hplain))

theorem exec_semPairWrite {n : Nat} (hslice : s.hasSlice sl = true) (hn : n < 256)
    (hplain : s.plain (A.semPair sl n) ctx = true) :
    exec (.semPairWrite sl n v ctx) s = .next (s.storePair sl n v ctx) :=
  (if_pos hn).trans ((onSlice_of s hslice).trans (congrArg Host.Outcome.next (csrAccess_plain s hplain)))

theorem semPair_ne_semLast (sl : Nat) {n : Nat} (hn : n < 256) : A.semPair sl n ≠ A.semLast sl := by
  simp only [A.semPair, A.semLast, sliceAddr]; omega

variable {n : Nat} (taken : Bool)

theorem State.reportPair_rd_ne {a : Nat} (ha : a ≠ A.semLast sl) : (s.reportPair sl n taken).rd a = s.rd a :=
  rd_wr_ne s ha _

theorem State.reportPair_count (hn : n < 256) (room : Bool) :
    (s.reportPair sl n taken).claveCount sl n room = s.claveCount sl n room :=
  claveCount_congr (reportPair_rd_ne taken (semPair_ne_semLast sl hn)) room

/-- SEM_LAST reports the pair as it then is. -/
theorem State.reportPair_semLast (hn : n < 256) :
    (s.reportPair sl n taken).rd (A.semLast sl) = (s.reportPair sl n taken).claveWord sl n taken := by
  rw [claveWord, reportPair_count taken hn, reportPair_count taken hn]
  exact rd_wr_same ..

theorem State.reportPair_taken : (s.reportPair sl n taken).getB (A.semLast sl) 32 = taken := by
  rw [getB, reportPair, rd_wr_same, claveWord, flag_setFlag _ _ _ _ (by decide) (by decide), if_pos rfl]

end

/-! ### The clauses -/

theorem semOpSignal_signals (s : State) (sl ctx : Nat) (v : Word) (hslice : s.hasSlice sl = true)
    (hplain : s.plain (A.semOp sl) ctx = true) :
    let n := fld v 0 8
    let room := flag v 8
    let c := s.claveCount sl n room
    ∃ t : State, exec (.semOpSignal sl v ctx) s = .next t ∧ t.claveCount sl n room = min (c + fld v 16 16) 0xFFFF ∧
      t.claveCount sl n (!room) = s.claveCount sl n (!room) ∧
      t.getB (A.semPair sl n) 32 = (s.getB (A.semPair sl n) 32 || decide (0xFFFF < c + fld v 16 16)) ∧
      t.rd (A.semLast sl) = t.claveWord sl n false ∧
      (∀ a, a ≠ A.semPair sl n → a ≠ A.semLast sl → t.rd a = s.rd a) ∧ t.mem = s.mem ∧ t.now = s.now := by
  intro n room c
  have hn : n < 256 := (BitVec.extractLsb' 0 8 v).isLt
  have hregs : s.OnlyRegs (s.semSignal sl v) := semSignal_regs (onlyRegs_refl s) sl v
  refine ⟨s.semSignal sl v, exec_semOpSignal hslice hplain, ?_, ?_, ?_, ?_, fun a hpair hlast => ?_, ?_, ?_⟩
  · exact (reportPair_count false hn room).trans (claveSignal_count _)
  · exact (reportPair_count false hn !room).trans (claveSignal_other _)
  · exact (congrArg (flag · 32) (reportPair_rd_ne false (semPair_ne_semLast sl hn))).trans (claveSignal_ovf _)
  · exact reportPair_semLast false hn
  · exact (reportPair_rd_ne false hlast).trans (claveSignal_rd_ne _ hpair)
  · rw [hregs]
  · exact congrArg Time.clk (by rw [hregs])

theorem semOpTake_takes (s : State) (sl ctx : Nat) (v : Word) (hslice : s.hasSlice sl = true)
    (hplain : s.plain (A.semOp sl) ctx = true) :
    let n := fld v 0 8
    let room := flag v 8
    let u := s.blockingTakes sl n room
    let c := u.claveCount sl n room
    ∃ t : State, exec (.semOpTake sl v ctx) s = .next t ∧
      (fld v 16 16 ≤ c → t.claveCount sl n room = c - fld v 16 16 ∧ t.getB (A.semLast sl) 32 = true) ∧
      (c < fld v 16 16 → t.rd (A.semPair sl n) = u.rd (A.semPair sl n) ∧ t.getB (A.semLast sl) 32 = false) ∧
      t.claveCount sl n (!room) = s.claveCount sl n (!room) ∧
      ((∀ j, j < 16 → (s.slot sl j).hold = .none ∧ s.slotState sl j ≠ 1) → u = s.claveTime sl n) ∧
      (∀ a, a ≠ A.semPair sl n → a ≠ A.semLast sl → t.rd a = u.rd a) ∧ t.mem = s.mem ∧
      t.now = if Tbl.get 0 (s.slice sl).signalAt n = s.now + 1 then s.now + 1 else s.now := by
  intro n room u c
  have hn : n < 256 := (BitVec.extractLsb' 0 8 v).isLt
  have htakes : TakesOnly sl n room (s.claveTime sl n) (u.claveTake sl n room (fld v 16 16)).2 :=
    claveTake_takes (blockingTakes_takes s sl n room) _
  refine ⟨s.semTake sl v, exec_semOpTake hslice hplain, fun hle => ?_, fun hlt => ?_, ?_, blockingTakes_of_idle,
    fun a hpair hlast => ?_, ?_, ?_⟩
  · have ht : s.semTake sl v = (u.putCount sl n room (c - fld v 16 16)).reportPair sl n true := by
      rw [semTake, claveTake_of_le hle]
    rw [ht]
    have hlt : c - fld v 16 16 < 2 ^ 16 := Nat.lt_of_le_of_lt (Nat.sub_le ..) (claveCount_lt ..)
    exact ⟨(reportPair_count true hn room).trans (claveCount_putCount_same hlt), reportPair_taken true⟩
  · have ht : s.semTake sl v = u.reportPair sl n false := by rw [semTake, claveTake_of_lt hlt]
    rw [ht]
    exact ⟨reportPair_rd_ne false (semPair_ne_semLast sl hn), reportPair_taken false⟩
  · exact (reportPair_count _ hn !room).trans (htakes.other.trans (claveCount_congr (claveTime_rd s sl n _) _))
  · exact (reportPair_rd_ne _ hlast).trans (claveTake_rd_ne _ hpair)
  · exact semTake_sameMem (sameMem_refl s) ..
  · exact (congrArg Time.clk htakes.time).trans (claveTime_now s sl n)

/-- A context that may not use the pair is answered before anything is done. -/
theorem State.performClave_of_denied {s : State} {sl ctx : Nat} {q : ClaveOp} (hlive : s.killedIn sl ctx = false)
    (hmay : s.claveMay sl q.pair ctx = false) : s.performClave sl ctx q = (rspDenied, none, s) := by
  rw [State.performClave, hlive, hmay]
  rfl

/-- Settles O43: each operation acts by its own counter's field; what comes before a take is a chain of takes on that counter. -/
theorem claveOperations : Obligations.ClaveOperations := by
  unfold Obligations.ClaveOperations
  exact ⟨semOpSignal_signals, semOpTake_takes, fun _ _ _ _ _ hslice hn hplain => exec_semPairWrite hslice hn hplain,
    fun _ _ _ _ => performClave_of_denied⟩

end Sys2Proof.Machine
end
section
/-! PROOF. What a slice, its ports and its slots do about a fence or a mark leaves the kills alone, and time does not go
back. -/

namespace Sys2Proof.Machine

open State

/-! ### The relation -/

/-- `t` is `s` at the same clk or later, with the same bring-up, resets and kills under way. -/
structure State.Later (s t : State) : Prop where
  build : t.build = s.build
  boot : t.boot = s.boot
  now : s.now ≤ t.now

theorem State.later_refl (s : State) : s.Later s := ⟨rfl, rfl, Nat.le_refl _⟩

section
variable {s0 s : State}

/-- A change of what the relation does not speak of. -/
theorem State.later_mk (h : s0.Later s)
    {fuse pins beat csr force mem slices ports slots net sysport fabric errors tuner power belfry free pending} :
    s0.Later (State.mk s.build fuse pins s.time beat csr force mem slices ports slots net sysport fabric errors tuner power
      s.boot belfry free pending) := ⟨h.build, h.boot, h.now⟩

/-- What an access to registers may do by itself. -/
theorem State.Later.regs (h : s0.Later s) {t : State} (ht : s.OnlyRegs t) : s0.Later t := by
  rw [ht]; exact later_mk h

theorem State.pass_later (h : s0.Later s) (n : Nat) : s0.Later (s.pass n) :=
  ⟨(pass_build s n).trans h.build, (pass_boot s n).trans h.boot, by rw [pass_now]; exact Nat.le_add_right_of_le h.now⟩

theorem State.reach_later (h : s0.Later s) (t : Nat) : s0.Later (s.reach t) := pass_later h _

theorem State.each_later (h : s0.Later s) (l : List Nat) (f : State → Nat → State)
    (hf : ∀ t i, s0.Later t → s0.Later (f t i)) : s0.Later (s.each l f) := foldl_of l f h hf

/-! ### Clear ports (R46, R230) -/

section
variable (sl b l w8 : Nat)

theorem State.putStored_later (h : s0.Later s) (w : BitVec 80) : s0.Later (s.putStored sl b l w8 w) := by
  unfold State.putStored
  split <;> exact later_mk h

theorem State.writeCoded_later (h : s0.Later s) (d : Word) (psn : Bool) : s0.Later (s.writeCoded sl b l w8 d psn) :=
  later_mk (putStored_later sl b l w8 h _)

theorem State.queueTest_later (h : s0.Later s) (row : Nat) : s0.Later (s.queueTest sl b row) :=
  ite_of _ h (ite_of _ (later_mk h) (later_mk h))

theorem State.noteWord_later (h : s0.Later s) (src ctx cls : Nat) (d : Decoded) :
    s0.Later (s.noteWord sl b l w8 src ctx cls d) :=
  ite_of _ (h.regs (recordCe_regs (count_regs (onlyRegs_refl s) ..) ..))
    (ite_of _ (h.regs (sliceRec_regs (count_regs (onlyRegs_refl s) ..) ..))
      (ite_of _ (later_mk (h.regs (sliceRec_regs (count_regs (onlyRegs_refl s) ..) ..))) h))

theorem State.drainWord_later (h : s0.Later s) (e : MergeEntry) : s0.Later (s.drainWord sl b e w8) := by
  have hcoded {t : State} (ht : s0.Later t) (d : Word) (psn : Bool) : s0.Later (t.writeCoded sl b e.line w8 d psn) :=
    writeCoded_later sl b _ w8 ht d psn
  unfold State.drainWord
  extract_lets en d t t'
  have ht : s0.Later t := noteWord_later sl b _ w8 h ..
  exact ite_of _ (hcoded h ..) (ite_of _ h (ite_of _ (hcoded h ..) (ite_of _ (hcoded h ..)
    (hcoded (ite_of _ (queueTest_later sl b ht _) ht) ..))))

theorem State.drainLine_later (h : s0.Later s) : s0.Later (s.drainLine sl b l) := by
  unfold State.drainLine
  split
  · exact h
  · exact each_later (later_mk h) _ _ fun _ w ht => drainWord_later sl b w ht _

theorem State.landLine_later (h : s0.Later s) (ben : ByteEn) (data : Line) (psn : WordEn) :
    s0.Later (s.landLine sl b l ben data psn) := by
  unfold State.landLine
  extract_lets k u base e t
  have hu : s0.Later u := by
    unfold u
    split
    · exact h
    · refine ite_of _ ?_ h
      split
      · exact drainLine_later sl b _ h
      · exact h
  exact ite_of _ (each_later (later_mk h) _ _ fun _ w ht => writeCoded_later sl b l w ht ..)
    (ite_of _ (drainLine_later sl b l (later_mk hu)) (later_mk hu))

theorem State.wipeLine_later (h : s0.Later s) : s0.Later (s.wipeLine sl b l) := by
  unfold State.wipeLine
  extract_lets t
  have ht : s0.Later t := each_later (later_mk h) _ _ fun _ _ hu => later_mk hu
  clear_value t
  split
  · exact ite_of _ (landLine_later sl b l ht ..) ht
  · exact ht

theorem State.clearGroup_later (h : s0.Later s) (j no c : Nat) (g : WipeGroup) :
    s0.Later (s.clearGroup sl j no c g) := by
  unfold State.clearGroup
  extract_lets t u v
  have ht : s0.Later t := foldl_of _ _ h fun _ _ hw => wipeLine_later sl _ _ hw
  have hu : s0.Later u := ht.regs (stepAdvance_regs (onlyRegs_refl t) ..)
  exact later_mk hu

theorem State.wipeGroups_later (h : s0.Later s) (j no : Nat) (gs : List WipeGroup) :
    s0.Later (s.wipeGroups sl j no gs) := by
  refine foldl_of _ _ h fun t g ht => ?_
  split
  · exact ht
  · exact ite_of _ ht (ite_of _ (later_mk ht) (ite_of _ ht (clearGroup_later sl ht ..)))

theorem State.wipeNow_later (h : s0.Later s) : s0.Later (s.wipeNow sl) := by
  refine each_later h _ _ fun t j ht => ?_
  split
  · exact wipeGroups_later sl ht ..
  · exact ht

end

/-! ### Clave operations (R258, R259) -/

theorem State.claveTime_later (h : s0.Later s) (sl pair : Nat) : s0.Later (s.claveTime sl pair) :=
  ite_of _ (pass_later h 1) h

theorem State.claveTake_later (h : s0.Later s) (sl pair : Nat) (room : Bool) (n : Nat) :
    s0.Later (s.claveTake sl pair room n).2 := h.regs (claveTake_regs (onlyRegs_refl s) ..)

theorem State.setSlotState_later (h : s0.Later s) (sl j v : Nat) : s0.Later (s.setSlotState sl j v) :=
  h.regs (setSlotState_regs (onlyRegs_refl s) ..)

theorem State.waitTakes_later (h : s0.Later s) (sl j pair : Nat) (room : Bool) : s0.Later (s.waitTakes sl j pair room) := by
  unfold State.waitTakes
  split
  · exact ite_of _ (later_mk (claveTake_later h ..)) h
  · exact h

theorem State.startNow_later (h : s0.Later s) (sl j : Nat) : s0.Later (s.startNow sl j) := by
  unfold State.startNow
  extract_lets a t
  have ht : s0.Later t := ite_of _ (claveTake_later h ..) h
  exact later_mk (setSlotState_later (later_mk ht) sl j 2)

theorem State.blockingTakes_later (h : s0.Later s) (sl pair : Nat) (room : Bool) :
    s0.Later (s.blockingTakes sl pair room) := by
  have hwaits : s0.Later (s.waitsTake sl pair room 16) :=
    each_later (claveTime_later h sl pair) _ _ fun _ j ht => waitTakes_later ht sl j pair room
  exact ite_of _ hwaits (each_later hwaits _ _ fun _ j ht => ite_of _ (startNow_later ht sl j) ht)

theorem State.performClave_later (h : s0.Later s) (sl ctx : Nat) (o : ClaveOp) :
    s0.Later (s.performClave sl ctx o).2.2 := by
  unfold State.performClave
  repeat' split
  · exact h
  · exact h
  · exact h
  · exact h.regs (claveSignal_regs (onlyRegs_refl s) ..)
  · exact claveTake_later (blockingTakes_later h ..) ..

/-! ### Answers of a slice (R80, R85) -/

theorem State.monitor_later (h : s0.Later s) (sl cls lat : Nat) : s0.Later (s.monitor sl cls lat) :=
  h.regs (monitor_regs (onlyRegs_refl s) ..)

/-- A response reaches any requester but the fabric port, whose answers leave through the mesh. -/
theorem State.deliver_later (h : s0.Later s) {r : Resp} (hr : ∀ id, r.origin ≠ .fabric id) : s0.Later (s.deliver r) := by
  have hlate : s0.Later s.lateResponse := later_mk h
  unfold State.deliver
  split
  · exact ite_of _ hlate (monitor_later (later_mk h) ..)
  · exact ite_of _ (ite_of _ (later_mk h) (monitor_later (later_mk h) ..)) hlate
  · exact ite_of _ (monitor_later (later_mk h) ..) hlate
  · next id horigin => exact absurd horigin (hr id)
  · exact ite_of _ (later_mk h) (later_mk h)
  · exact h
  · exact hlate

theorem State.sendRsp_later (h : s0.Later s) (src dst sent flits burst : Nat) (last : Bool) (r : Resp) :
    s0.Later (s.sendRsp src dst sent flits burst last r) := later_mk h

theorem State.answer_later (h : s0.Later s) (sl : Nat) (q : Req) (code : Nat) (lines : List LineRsp) (clave : Option Word)
    (issue : Nat) : s0.Later (s.answer sl q code lines clave issue) := by
  unfold State.answer
  extract_lets r n
  have hdeliver (o : Origin) (ho : q.origin = o) (hne : ∀ id, o ≠ .fabric id) : s0.Later (s.deliver r) :=
    deliver_later h fun id hf => hne id (ho.symm.trans hf)
  split
  · exact ite_of _ (monitor_later (later_mk h) ..) (sendRsp_later h ..)
  · next heq => exact ite_of _ (hdeliver _ heq fun _ => nofun) (sendRsp_later h ..)
  · exact sendRsp_later h ..
  · exact sendRsp_later h ..
  · next heq => exact ite_of _ (hdeliver _ heq fun _ => nofun) (sendRsp_later h ..)
  · next heq => exact hdeliver _ heq fun _ => nofun
  · next heq => exact hdeliver _ heq fun _ => nofun

theorem State.refuseAt_later (h : s0.Later s) (sl : Nat) (r : Req) (code c : Nat) : s0.Later (s.refuseAt sl r code c) :=
  answer_later (ite_of _ (h.regs (consumeSlot_regs (onlyRegs_refl s) ..)) h) ..

theorem State.portSettle_later (h : s0.Later s) (sl p t0 lim n : Nat) : s0.Later (s.portSettle sl p t0 lim n) := by
  induction n generalizing s with
  | zero => exact h
  | succ n ih =>
    have hpop {t : State} (ht : s0.Later t) : s0.Later (t.popPort sl p) := later_mk ht
    unfold State.portSettle
    split
    · exact h
    · refine ite_of _ h ?_
      split
      · exact ih (ite_of _ (answer_later (hpop h) ..) (refuseAt_later (hpop h) ..))
      · split
        · exact ite_of _ (ih (later_mk (answer_later (hpop (performClave_later h ..)) ..))) h
        · exact h

theorem State.settleBefore_later (h : s0.Later s) (sl : Nat) : s0.Later (s.settleBefore sl) :=
  each_later h _ _ fun _ _ ht => portSettle_later ht ..

/-! ### Windows close, and slots stop (R171, R371) -/

theorem State.closeWindows_later (h : s0.Later s) (p : Nat → Bool) : s0.Later (s.closeWindows p) :=
  each_later h _ _ fun _ _ ht => later_mk ht

theorem State.freeAccs_later (h : s0.Later s) (sl : Nat) : s0.Later (s.freeAccs sl) :=
  later_mk (each_later h _ _ fun _ _ ht => later_mk ht)

theorem State.stopSlot_later (h : s0.Later s) (sl j : Nat) : s0.Later (s.stopSlot sl j) := by
  unfold State.stopSlot
  extract_lets t t' t''
  have ht : s0.Later t := later_mk (ite_of _ (freeAccs_later (wipeNow_later sl h) sl) (wipeNow_later sl h))
  have ht' : s0.Later t' := (State.Later.regs (later_mk ht) (dropScrub_regs (onlyRegs_refl (t.dropHeldOut sl j)) sl j))
  exact setSlotState_later (later_mk ht') ..

theorem State.stopEnds_later (h : s0.Later s) (sl j : Nat) : s0.Later (s.stopEnds sl j) :=
  ite_of _ (setSlotState_later (later_mk (reach_later h _)) ..) h

theorem State.killSlot_later (h : s0.Later s) (sl j : Nat) : s0.Later (s.killSlot sl j) :=
  ite_of _ h (ite_of _ (setSlotState_later (later_mk h) ..) (stopEnds_later (stopSlot_later h sl j) sl j))

end

end Sys2Proof.Machine
end
section
/-! PROOF. Kills of contexts (O55). -/

namespace Sys2Proof.Machine

open State

/-! ### A write of CTX_KILL (R347) -/

section
variable {s : State} {c : Nat}

/-- A kill of context `c` is under way that no slice is marked by. -/
def State.KillStarted (s : State) (c : Nat) : Prop := ∃ k ∈ s.boot.kills, k.ctx = c ∧ k.marked = [] ∧ k.drained = false

theorem State.KillStarted.map (h : s.KillStarted c) (f : Kill → Kill)
    (hf : ∀ k, (f k).ctx = k.ctx ∧ (f k).marked = k.marked ∧ (f k).drained = k.drained) {t : State}
    (ht : t.boot.kills = s.boot.kills.map f) : t.KillStarted c := by
  obtain ⟨k, hk, hctx, hmarked, hdrained⟩ := h
  obtain ⟨hc, hm, hd⟩ := hf k
  exact ⟨f k, ht ▸ List.mem_map_of_mem hk, hc.trans hctx, hm.trans hmarked, hd.trans hdrained⟩

/-- What the start of kills leaves. -/
structure State.OnlyStarts (s t : State) : Prop where
  time : t.time = s.time
  mem : t.mem = s.mem
  slots : t.slots = s.slots
  ports : t.ports = s.ports

theorem State.onlyStarts_refl (s : State) : s.OnlyStarts s := ⟨rfl, rfl, rfl, rfl⟩

theorem State.onlyStarts_mk {s0 : State} (h : s0.OnlyStarts s)
    {build fuse pins beat csr force slices net sysport fabric errors tuner power boot belfry free pending} :
    s0.OnlyStarts (State.mk build fuse pins s.time beat csr force s.mem slices s.ports s.slots net sysport fabric errors tuner
      power boot belfry free pending) := ⟨h.time, h.mem, h.slots, h.ports⟩

theorem State.killK1_kills (c : Nat) (b : Bool) : (s.killK1 c b).boot.kills = s.boot.kills.map fun k =>
    if k.ctx = c then { k with began := s.now, knell := false, keep := s.getB (A.ctxE0 c) 39 } else k :=
  ite_of (P := fun t => t.boot.kills = _) _ (ite_of (P := fun t => t.boot.kills = _) _ rfl rfl) rfl

theorem State.killK1_starts {s0 : State} (h : s0.OnlyStarts s) (c : Nat) (b : Bool) : s0.OnlyStarts (s.killK1 c b) :=
  ite_of _ (ite_of _ (onlyStarts_mk h) (onlyStarts_mk h)) (onlyStarts_mk h)

theorem State.killK1_rd (c : Nat) (b : Bool) {a : Nat} (ha : a ≠ A.ctxE0 c) : (s.killK1 c b).rd a = s.rd a := by
  have hput : (s.putF (A.ctxE0 c) 32 2 3).rd a = s.rd a := rd_wr_ne s ha _
  exact ite_of (P := fun t => t.rd a = s.rd a) _ (ite_of (P := fun t => t.rd a = s.rd a) _ hput hput) hput

theorem State.KillStarted.killK1 {d : Nat} (h : s.KillStarted d) (c : Nat) (b : Bool) : (s.killK1 c b).KillStarted d :=
  h.map _ (fun k => by split <;> exact ⟨rfl, rfl, rfl⟩) (killK1_kills c b)

/-- The kill of `c` as it begins, with its bit of CTX_KILL. -/
def State.putKill (s : State) (c : Nat) : State :=
  { s.putB A.ctxKill c true with boot := { s.boot with kills := s.boot.kills ++
      [{ ctx := c, began := s.now, marked := [], drained := false, keep := false, aborts := 0, knell := true }] } }

/-- A kill that waits for the Knell queue has begun as well. -/
theorem State.beginKill_of {P : State → Prop} (c : Nat) (b : Bool) (hput : P (s.putKill c))
    (hk1 : P ((s.putKill c).killK1 c b)) : P (s.beginKill c b) := ite_of _ hput hk1

theorem State.beginKill_starts {s0 : State} (h : s0.OnlyStarts s) (c : Nat) (b : Bool) : s0.OnlyStarts (s.beginKill c b) :=
  have hput : s0.OnlyStarts (s.putKill c) := onlyStarts_mk h
  beginKill_of c b hput (killK1_starts hput c b)

theorem State.beginKill_killStarted (c : Nat) (b : Bool) : (s.beginKill c b).KillStarted c :=
  have hput : (s.putKill c).KillStarted c := ⟨_, List.mem_append_right _ List.mem_cons_self, rfl, rfl, rfl⟩
  beginKill_of (P := (KillStarted · c)) c b hput (hput.killK1 c b)

theorem State.KillStarted.beginKill {d : Nat} (h : s.KillStarted d) (c : Nat) (b : Bool) : (s.beginKill c b).KillStarted d := by
  obtain ⟨k, hk, hkd⟩ := h
  have hput : (s.putKill c).KillStarted d := ⟨k, List.mem_append_left _ hk, hkd⟩
  exact beginKill_of (P := (KillStarted · d)) c b hput (hput.killK1 c b)

theorem State.beginKill_bit (hc : c < 64) (b : Bool) {i : Nat} (hi : i < 64) :
    (s.beginKill c b).getB A.ctxKill i = if i = c then true else s.getB A.ctxKill i := by
  have hput : (s.putKill c).getB A.ctxKill i = if i = c then true else s.getB A.ctxKill i :=
    (congrArg (flag · i) ((rd_putB s ..).trans (if_pos rfl))).trans (flag_setFlag _ _ _ _ hc hi)
  have hne : A.ctxKill ≠ A.ctxE0 c := by simp only [A.ctxKill, A.ctxE0]; omega
  exact beginKill_of (P := fun t => t.getB A.ctxKill i = _) c b hput ((congrArg (flag · i) (killK1_rd c b hne)).trans hput)

/-- The kills of the contexts of a list begin. -/
def State.beginKills (s : State) (l : List Nat) : State := s.each l fun t c => t.beginKill c false

theorem State.beginKills_starts (s : State) (l : List Nat) : s.OnlyStarts (s.beginKills l) :=
  foldl_of _ _ (onlyStarts_refl s) fun _ c h => beginKill_starts h c false

theorem State.beginKills_killStarted {l : List Nat} (h : c ∈ l ∨ s.KillStarted c) : (s.beginKills l).KillStarted c := by
  induction l generalizing s with
  | nil => exact h.resolve_left List.not_mem_nil
  | cons a l ih =>
    refine ih (s := s.beginKill a false) (h.elim (fun hmem => ?_) fun hs => .inr (hs.beginKill a false))
    rcases List.mem_cons.mp hmem with rfl | hmem
    · exact .inr (beginKill_killStarted c false)
    · exact .inl hmem

theorem State.beginKills_bit {l : List Nat} (hl : ∀ a ∈ l, a < 64) (hc : c < 64) :
    (s.beginKills l).getB A.ctxKill c = (decide (c ∈ l) || s.getB A.ctxKill c) := by
  induction l generalizing s with
  | nil => simp [State.beginKills, State.each]
  | cons a l ih =>
    refine (ih (s := s.beginKill a false) fun x hx => hl x (List.mem_cons_of_mem _ hx)).trans ?_
    rw [beginKill_bit (hl a List.mem_cons_self) false hc]
    by_cases hca : c = a <;> simp [hca]

/-- The contexts whose kill a write of CTX_KILL starts. -/
def State.killsOf (s : State) (v : Word) : List Nat :=
  let new := (bitsOf v).filter fun c => !(s.getB A.ctxKill c)
  let bad := new.filter fun c => decide (c = 0) || decide (c = 63) || decide (s.ctxState c = 0)
  new.filter fun c => !(bad.contains c)

theorem State.mem_killsOf {v : Word} : c ∈ s.killsOf v ↔
    c < 64 ∧ v.getLsbD c = true ∧ s.getB A.ctxKill c = false ∧ c ≠ 0 ∧ c ≠ 63 ∧ s.ctxState c ≠ 0 := by
  simp only [State.killsOf, List.mem_filter, mem_bitsOf, List.contains_eq_mem, Bool.not_eq_true', decide_eq_false_iff_not,
    Bool.or_eq_true, decide_eq_true_eq]
  grind

variable {ctx : Nat} {v : Word}

theorem exec_ctxKillWrite (hplain : s.plain A.ctxKill ctx = true) :
    exec (.ctxKillWrite v ctx) s = .next (s.storeKill s v ctx) :=
  congrArg Host.Outcome.next (csrAccess_plain s hplain)

/-- The kills begin in the next clk, over a state in which only records of a refusal have come. -/
theorem State.storeKill_cases (s : State) (v : Word) (ctx : Nat) : ∃ e : Errors,
    s.storeKill s v ctx =
      if s.killsOf v = [] then { s with errors := e } else (State.pass { s with errors := e } 1).beginKills (s.killsOf v) := by
  have hrefuse := refuseCfg_only s (a := A.ctxKill) rfl ctx
  unfold State.storeKill
  extract_lets new bad good t
  have ht : ∃ e, t = { s with errors := e } := ite_of (P := fun t => ∃ e, t = { s with errors := e }) _ ⟨_, rfl⟩ ⟨_, hrefuse⟩
  obtain ⟨e, he⟩ := ht
  refine ⟨e, ?_⟩
  rw [he]
  simp only [List.isEmpty_iff]
  rfl

end

theorem ctxKillWrite_kills (s : State) (ctx : Nat) (v : Word) (hplain : s.plain A.ctxKill ctx = true) :
    let good (c : Nat) : Prop := v.getLsbD c = true ∧ s.getB A.ctxKill c = false ∧ c ≠ 0 ∧ c ≠ 63 ∧ s.ctxState c ≠ 0
    ∃ t : State, exec (.ctxKillWrite v ctx) s = .next t ∧
      (∀ c, c < 64 → good c → t.getB A.ctxKill c = true ∧ (∃ k ∈ t.boot.kills, k.ctx = c ∧ k.marked = [] ∧ k.drained = false)) ∧
      (∀ c, c < 64 → ¬ good c → t.getB A.ctxKill c = s.getB A.ctxKill c) ∧
      ((∃ c, c < 64 ∧ good c) → t.now = s.now + 1) ∧ ((∀ c, c < 64 → ¬ good c) → t.boot = s.boot ∧ t.now = s.now) ∧
      t.mem = s.mem ∧ t.slots = s.slots ∧ t.ports = s.ports := by
  intro good
  have hgood {c : Nat} (hc : c < 64) : c ∈ s.killsOf v ↔ good c := mem_killsOf.trans (and_iff_right hc)
  rw [exec_ctxKillWrite hplain]
  obtain ⟨e, he⟩ := storeKill_cases s v ctx
  refine ⟨_, rfl, ?_⟩
  rw [he]
  split
  · next hnil =>
    have hnone (c : Nat) (hc : c < 64) : ¬good c := fun h => by simpa [hnil] using (hgood hc).mpr h
    exact ⟨fun c hc h => absurd h (hnone c hc), fun _ _ _ => rfl, fun ⟨c, hc, h⟩ => absurd h (hnone c hc),
      fun _ => ⟨rfl, rfl⟩, rfl, rfl, rfl⟩
  · next hne =>
    obtain ⟨htime, hmem, hslots, hports⟩ := beginKills_starts (State.pass { s with errors := e } 1) (s.killsOf v)
    have hbit {c : Nat} (hc : c < 64) := beginKills_bit (s := State.pass { s with errors := e } 1) (l := s.killsOf v)
      (fun a ha => (mem_killsOf.mp ha).1) hc
    refine ⟨fun c hc h => ⟨?_, beginKills_killStarted (.inl ((hgood hc).mpr h))⟩, fun c hc h => ?_, fun _ => ?_,
      fun hnone => ?_, hmem.trans (pass_mem ..), hslots.trans (pass_slots ..), hports.trans (pass_ports ..)⟩
    · rw [hbit hc, decide_eq_true ((hgood hc).mpr h), Bool.true_or]
    · rw [hbit hc, decide_eq_false fun hmem => h ((hgood hc).mp hmem), Bool.false_or]
      exact congrArg (flag · c) (pass_rd ..)
    · exact (congrArg Time.clk htime).trans (pass_now ..)
    · exact absurd (List.eq_nil_iff_forall_not_mem.mpr fun c hc =>
        hnone c (mem_killsOf.mp hc).1 (mem_killsOf.mp hc).2) hne

/-! ### The mark reaches a slice (R260, R347) -/

section
variable {s : State} {c sl : Nat} {k : Kill}

theorem State.killOf_modKill (h : s.killOf c = some k) {f : Kill → Kill}
    (hf : ∀ x, (f x).ctx = x.ctx ∧ (f x).knell = x.knell) : (s.modKill c f).killOf c = some (f k) := by
  have hk : k.ctx = c := by
    have := List.find?_some h
    simp only [Bool.and_eq_true, decide_eq_true_eq] at this
    exact this.1
  unfold State.killOf State.modKill at *
  rw [List.find?_map]
  have hsame : ((fun x : Kill => decide (x.ctx = c) && !x.knell) ∘ fun x : Kill => if x.ctx = c then f x else x) =
      fun x : Kill => decide (x.ctx = c) && !x.knell := by
    funext x
    by_cases hx : x.ctx = c <;> simp [hx, hf]
  rw [hsame, h, Option.map_some, if_pos hk]

theorem State.Later.killOf {t : State} (h : s.Later t) (c : Nat) : t.killOf c = s.killOf c := by
  rw [State.killOf, h.boot]; rfl

/-- The state in which the mark meets the slice: the windows of the context have closed with the first mark, and what came
to the slice before is settled. -/
def State.markArrives (s : State) (c sl : Nat) (k : Kill) : State :=
  let t := s.reach (k.began + meshTime (s.hopsGlobal sl))
  let t := if k.marked.isEmpty then t.closeWindows fun w => decide (t.winCtx w = c) else t
  (t.wipeNow sl).settleBefore sl

/-- The slice is marked, and the slots of the context stop. -/
def State.markSlice (s : State) (c sl : Nat) : State :=
  let t := s.modKill c fun x => { x with marked := x.marked ++ [sl] }
  t.each (t.slotsOf sl c) fun t j => t.killSlot sl j

theorem State.markArrives_later {s0 : State} (h : s0.Later (s.reach (k.began + meshTime (s.hopsGlobal sl)))) :
    s0.Later (s.markArrives c sl k) :=
  settleBefore_later (wipeNow_later sl (ite_of _ (closeWindows_later h _) h)) sl

theorem State.markSlice_later (s : State) (c sl : Nat) :
    (s.modKill c fun x => { x with marked := x.marked ++ [sl] }).Later (s.markSlice c sl) :=
  each_later (later_refl _) _ _ fun _ _ ht => killSlot_later ht ..

theorem State.markSlice_build (s : State) (c sl : Nat) : (s.markSlice c sl).build = s.build := (markSlice_later s c sl).build

theorem State.markSlice_now (s : State) (c sl : Nat) : s.now ≤ (s.markSlice c sl).now := (markSlice_later s c sl).now

theorem State.markSlice_killOf (hk : s.killOf c = some k) :
    (s.markSlice c sl).killOf c = some { k with marked := k.marked ++ [sl] } :=
  ((markSlice_later s c sl).killOf c).trans (killOf_modKill hk fun _ => ⟨rfl, rfl⟩)

theorem exec_killMarkArrive (hc : c < 64) (hslice : s.hasSlice sl = true) :
    exec (.killMarkArrive c sl) s = .next (s.killMark c sl) := (if_pos hc).trans (onSlice_of s hslice)

theorem State.killMark_of_marked (hk : s.killOf c = some k) (h : k.marked.contains sl = true) : s.killMark c sl = s := by
  unfold State.killMark
  rw [hk]
  exact if_pos h

theorem State.killMark_of_unmarked (hk : s.killOf c = some k) (h : k.marked.contains sl = false) :
    s.killMark c sl = ((((s.markArrives c sl k).markSlice c sl).killPairs sl c).settleAll sl).pumpEngine sl := by
  unfold State.killMark
  rw [hk]
  exact if_neg fun hmarked => Bool.false_ne_true (h.symm.trans hmarked)

theorem State.allToReset_rd (l : List Nat) (a : Nat) :
    (s.allToReset l).rd a = if a ∈ l then s.build.resetVal a else s.rd a := by
  induction l generalizing s with
  | nil => exact (if_neg List.not_mem_nil).symm
  | cons b l ih =>
    refine (ih (s := s.toReset b)).trans ?_
    rw [toReset_build, State.toReset, rd_wr]
    by_cases hab : a = b <;> simp [hab]

theorem semPair_inj {n m : Nat} : A.semPair sl n = A.semPair sl m ↔ n = m := by
  simp only [A.semPair, sliceAddr]; omega

theorem State.killPairs_rd {n : Nat} (hn : n < 256) : (s.killPairs sl c).rd (A.semPair sl n) =
    if s.getF (A.semPair sl n) 40 6 = c then s.build.resetVal (A.semPair sl n) else s.rd (A.semPair sl n) := by
  have hmem : A.semPair sl n ∈ ((List.range 256).filter fun n => decide (s.getF (A.semPair sl n) 40 6 = c)).map (A.semPair sl) ↔
      s.getF (A.semPair sl n) 40 6 = c := by
    simp only [List.mem_map, List.mem_filter, List.mem_range, decide_eq_true_eq, semPair_inj]
    exact ⟨fun ⟨m, h, hm⟩ => hm ▸ h.2, fun h => ⟨n, ⟨hn, h⟩, rfl⟩⟩
  rw [State.killPairs, allToReset_rd]
  simp only [hmem]

end

theorem killMarkArrive_marks (s : State) (c sl : Nat) (k : Kill) (hc : c < 64) (hslice : s.hasSlice sl = true)
    (hk : s.killOf c = some k) :
    (k.marked.contains sl = true → exec (.killMarkArrive c sl) s = .next s) ∧
    (k.marked.contains sl = false → ∃ (w : State) (x : Kill),
      exec (.killMarkArrive c sl) s = .next (((w.killPairs sl c).settleAll sl).pumpEngine sl) ∧
      max s.now (k.began + meshTime (s.hopsGlobal sl)) ≤ w.now ∧ w.killOf c = some x ∧ x.marked = k.marked ++ [sl] ∧
      (∀ n, n < 256 → ((w.killPairs sl c).rd (A.semPair sl n)) =
        if w.getF (A.semPair sl n) 40 6 = c then s.build.resetVal (A.semPair sl n) else w.rd (A.semPair sl n))) := by
  rw [exec_killMarkArrive hc hslice]
  refine ⟨fun h => congrArg _ (killMark_of_marked hk h), fun h => ?_⟩
  have harrive : s.Later (s.markArrives c sl k) := markArrives_later (reach_later (later_refl s) _)
  have hbuild : ((s.markArrives c sl k).markSlice c sl).build = s.build :=
    (markSlice_build ..).trans harrive.build
  have hkill : (s.markArrives c sl k).killOf c = some k := (harrive.killOf c).trans hk
  refine ⟨(s.markArrives c sl k).markSlice c sl, _, congrArg _ (killMark_of_unmarked hk h), ?_, markSlice_killOf hkill, rfl,
    fun n hn => ?_⟩
  · calc max s.now (k.began + meshTime (s.hopsGlobal sl))
        = (s.reach (k.began + meshTime (s.hopsGlobal sl))).now := (reach_now ..).symm
      _ ≤ (s.markArrives c sl k).now := (markArrives_later (later_refl _)).now
      _ ≤ ((s.markArrives c sl k).markSlice c sl).now := markSlice_now ..
  · rw [killPairs_rd hn, hbuild]

/-! ### The drain and the end (R347, R348) -/

theorem killDrainEnd_drains (s : State) (c : Nat) (hc : c < 64) :
    let gone := s.killDraining c && decide (s.killStrokes c = 0) && s.drained (killMine c) (State.killHost c) (s.killOut c)
    (gone = true → exec (.killDrainEnd c) s = .next ((s.reach (s.lastAnswer .complex)).killBanks c 0)) ∧
    (gone = false → exec (.killDrainEnd c) s = .next s) := by
  intro gone
  have hexec : exec (.killDrainEnd c) s = .next (s.killDrainEnd c) := onIndex_of s hc
  have hgone : gone = true ↔
      s.killDraining c ∧ s.killStrokes c = 0 ∧ s.drained (killMine c) (State.killHost c) (s.killOut c) := by
    simp only [gone, Bool.and_eq_true, decide_eq_true_eq, and_assoc]
  rw [hexec]
  exact ⟨fun h => congrArg _ (if_pos (hgone.mp h)), fun h => congrArg _ (if_neg fun hd => by simp [hgone.mpr hd] at h)⟩

section
variable {s : State} {c : Nat} {k : Kill}

/-- Registers, ports and the clk are the same in both states. -/
structure State.SameRegs (s t : State) : Prop where
  build : t.build = s.build
  csr : t.csr = s.csr
  time : t.time = s.time
  ports : t.ports = s.ports

theorem State.sameRegs_refl (s : State) : s.SameRegs s := ⟨rfl, rfl, rfl, rfl⟩

theorem State.sameRegs_mk {s0 : State} (h : s0.SameRegs s)
    {fuse pins beat force mem slices slots net sysport fabric errors tuner power boot belfry free pending} :
    s0.SameRegs (State.mk s.build fuse pins s.time beat s.csr force mem slices s.ports slots net sysport fabric errors tuner
      power boot belfry free pending) := ⟨h.build, h.csr, h.time, h.ports⟩

/-- A kernel boundary in a slice discards what its slots and its vector buffer hold. -/
theorem State.boundaryIn_sameRegs {s0 : State} (h : s0.SameRegs s) (sl c : Nat) : s0.SameRegs (s.boundaryIn sl c) := by
  unfold State.boundaryIn
  extract_lets t u
  have ht : s0.SameRegs t := foldl_of _ _ h fun _ _ hv => sameRegs_mk hv
  have hu : s0.SameRegs u := sameRegs_mk ht
  exact foldl_of _ _ hu fun _ _ hv => foldl_of _ _ hv fun _ _ hw => sameRegs_mk hw

/-- The clk of completion, in which every slice has passed the kernel boundary of the context. -/
def State.killBoundary (s : State) (c : Nat) : State := (s.pass 1).each (s.pass 1).sliceList fun t sl => t.boundaryIn sl c

/-- CTX_KILLST of a kill that has completed. -/
def killStatus (c : Nat) (k : Kill) : Word :=
  setFld (setFlag (setFlag (setFld 0 0 6 c) 6 k.keep) 7 true) 8 16 (min k.aborts 0xFFFF)

/-- The registers of the context and of the kill, as they show its completion. -/
def State.showKilled (s : State) (c : Nat) (k : Kill) : State :=
  (((s.wr (A.ctxProgress c) 0).putF (A.ctxE0 c) 32 2 0).putB A.ctxKill c false).wr A.ctxKillst (killStatus c k)

/-- The kills of a context are over. -/
def State.dropKills (s : State) (c : Nat) : State :=
  { s with boot := { s.boot with kills := s.boot.kills.filter fun (x : Kill) => x.ctx ≠ c } }

theorem State.dropKills_rd (s : State) (c a : Nat) : (s.dropKills c).rd a = s.rd a := rfl

/-- A kill ends, and the registers show it. -/
def State.endKill (s : State) (c : Nat) (k : Kill) : State := (s.showKilled c k).dropKills c

theorem State.endKill_rd (s : State) (c : Nat) (k : Kill) (a : Nat) : (s.endKill c k).rd a = (s.showKilled c k).rd a :=
  dropKills_rd ..

theorem State.killBoundary_sameRegs (s : State) (c : Nat) : (s.pass 1).SameRegs (s.killBoundary c) :=
  foldl_of _ _ (sameRegs_refl _) fun _ sl h => boundaryIn_sameRegs h sl c

theorem State.killBoundary_now (s : State) (c : Nat) : (s.killBoundary c).now = s.now + 1 := by
  rw [State.now, (killBoundary_sameRegs s c).time]
  exact pass_now s 1

theorem State.killComplete_of (hk : s.killOf c = some k) (hd : k.drained = true) (hb : s.killBanksDone c = true) :
    s.killComplete c = (s.killBoundary c).endKill c k := by
  unfold State.killComplete
  rw [hk]
  exact if_neg (by simp [hd, hb])

/-- The four registers that a completed kill writes are different ones. -/
theorem killRegs_ne (hc : c < 64) : A.ctxProgress c ≠ A.ctxE0 c ∧ A.ctxProgress c ≠ A.ctxKill ∧ A.ctxProgress c ≠ A.ctxKillst ∧
    A.ctxE0 c ≠ A.ctxKill ∧ A.ctxE0 c ≠ A.ctxKillst := by
  simp only [A.ctxProgress, A.ctxE0, A.ctxKill, A.ctxKillst]; omega

theorem State.endKill_now (s : State) (c : Nat) (k : Kill) : (s.endKill c k).now = s.now := by
  rw [State.now, endKill, dropKills, showKilled, wr_time, putB_time, putF_time, wr_time, State.now]

theorem State.endKill_ports (s : State) (c : Nat) (k : Kill) : (s.endKill c k).ports = s.ports := by
  rw [endKill, dropKills, showKilled, wr_ports, putB_ports, putF_ports, wr_ports]

theorem State.endKill_progress (hc : c < 64) : (s.endKill c k).rd (A.ctxProgress c) = 0 := by
  obtain ⟨hE0, hKill, hKillst, -, -⟩ := killRegs_ne hc
  rw [endKill_rd, showKilled, rd_wr_ne _ hKillst, rd_putB, if_neg hKill, rd_putF, if_neg hE0, rd_wr_same]

theorem State.endKill_state (hc : c < 64) : (s.endKill c k).ctxState c = 0 := by
  obtain ⟨-, -, -, hKill, hKillst⟩ := killRegs_ne hc
  rw [ctxState, getF, endKill_rd, showKilled, rd_wr_ne _ hKillst, rd_putB, if_neg hKill, rd_putF, if_pos rfl]
  exact fld_setFld _ _ _ _ (by decide)

theorem State.endKill_status (s : State) (c : Nat) (k : Kill) : (s.endKill c k).rd A.ctxKillst = killStatus c k := by
  rw [endKill_rd, showKilled, rd_wr_same]

theorem State.endKill_bit (hc : c < 64) : (s.endKill c k).getB A.ctxKill c = false := by
  rw [getB, endKill_rd, showKilled, rd_wr_ne _ (by decide), rd_putB, if_pos rfl, flag_setFlag _ _ _ _ hc hc, if_pos rfl]

theorem State.endKill_rd_ne {a : Nat} (hprogress : a ≠ A.ctxProgress c) (hE0 : a ≠ A.ctxE0 c) (hkill : a ≠ A.ctxKill)
    (hkillst : a ≠ A.ctxKillst) : (s.endKill c k).rd a = s.rd a := by
  rw [endKill_rd, showKilled, rd_wr_ne _ hkillst, rd_putB, if_neg hkill, rd_putF, if_neg hE0, rd_wr_ne _ hprogress]

/-- CTX_KILLST records context, KEEP, the completion and the aborts (R348). -/
theorem killStatus_fields (hc : c < 64) : fld (killStatus c k) 0 6 = c ∧ flag (killStatus c k) 6 = k.keep ∧
    flag (killStatus c k) 7 = true ∧ fld (killStatus c k) 8 16 = min k.aborts 0xFFFF := by
  refine ⟨?_, ?_, ?_, ?_⟩
  · rw [killStatus, fld_setFld_ne _ _ _ _ _ _ (by decide) (by decide) (by decide),
      fld_setFlag _ _ _ _ _ (by decide) (by decide) (by decide), fld_setFlag _ _ _ _ _ (by decide) (by decide) (by decide),
      fld_setFld _ _ _ _ (by decide)]
    exact Nat.mod_eq_of_lt hc
  · rw [killStatus, flag_setFld _ _ _ _ _ (by decide) (by decide), if_neg (by decide),
      flag_setFlag _ _ _ _ (by decide) (by decide), if_neg (by decide), flag_setFlag _ _ _ _ (by decide) (by decide), if_pos rfl]
  · rw [killStatus, flag_setFld _ _ _ _ _ (by decide) (by decide), if_neg (by decide),
      flag_setFlag _ _ _ _ (by decide) (by decide), if_pos rfl]
  · rw [killStatus, fld_setFld _ _ _ _ (by decide)]
    exact Nat.mod_eq_of_lt (by omega)

end

theorem killComplete_completes (s : State) (c : Nat) (k : Kill) (hc : c < 64) (hk : s.killOf c = some k)
    (hd : k.drained = true) (hb : s.killBanksDone c = true) : ∃ t : State,
    exec (.killComplete c) s = .next t ∧ t.now = s.now + 1 ∧ t.ctxState c = 0 ∧ t.rd (A.ctxProgress c) = 0 ∧
      t.getB A.ctxKill c = false ∧ t.getF A.ctxKillst 0 6 = c ∧ t.getB A.ctxKillst 6 = k.keep ∧ t.getB A.ctxKillst 7 = true ∧
      t.getF A.ctxKillst 8 16 = min k.aborts 0xFFFF ∧ (∀ x ∈ t.boot.kills, x.ctx ≠ c) ∧ t.ports = s.ports ∧
      (∀ a, a ≠ A.ctxProgress c → a ≠ A.ctxE0 c → a ≠ A.ctxKill → a ≠ A.ctxKillst → t.rd a = s.rd a) := by
  have hexec : exec (.killComplete c) s = .next (s.killComplete c) := onIndex_of s hc
  have hregs := killBoundary_sameRegs s c
  have hst : ((s.killBoundary c).endKill c k).rd A.ctxKillst = killStatus c k := endKill_status ..
  obtain ⟨hfctx, hfkeep, hfdone, hfaborts⟩ := killStatus_fields (k := k) hc
  rw [hexec, killComplete_of hk hd hb]
  refine ⟨_, rfl, ?_, endKill_state hc, endKill_progress hc, endKill_bit hc, ?_, ?_, ?_, ?_, fun x hx => ?_, ?_,
    fun a hprogress hE0 hkill hkillst => ?_⟩
  · exact (endKill_now ..).trans (killBoundary_now s c)
  · exact (congrArg (fld · 0 6) hst).trans hfctx
  · exact (congrArg (flag · 6) hst).trans hfkeep
  · exact (congrArg (flag · 7) hst).trans hfdone
  · exact (congrArg (fld · 8 16) hst).trans hfaborts
  · exact of_decide_eq_true (List.mem_filter.mp hx).2
  · exact (endKill_ports ..).trans (hregs.ports.trans (pass_ports ..))
  · exact (endKill_rd_ne hprogress hE0 hkill hkillst).trans ((rd_congr hregs.build hregs.csr a).trans (pass_rd ..))

/-- Settles O55, step by step of a kill: what happens as the mark meets a slice leaves the kills under way alone (`Later`). -/
theorem contextKills : Obligations.ContextKills := by
  unfold Obligations.ContextKills
  exact ⟨ctxKillWrite_kills, killMarkArrive_marks, killDrainEnd_drains, killComplete_completes⟩

end Sys2Proof.Machine
end
